-- ==== Sys2Proof/Word.lean ====
section
/-! DEFINITION. Word.lean: the widths the SJN-1440's spec counts in, and plain names for them. R7: every multi-byte value is little-endian. -/

namespace Sys2Proof

/-- One byte of memory or of a command's data. -/
abbrev Byte := BitVec 8

/-- One control or status register: 64 bits at an 8-byte-aligned offset (R8). -/
abbrev Word := BitVec 64

/-- The bits of an FP32 value (IEEE binary32), as the engines compute on them (R97). -/
abbrev F32 := BitVec 32

/-- A core number, 0 to 31 (R2). -/
abbrev CoreId := BitVec 5

/-- A partition number, 0 to 7 (R398). -/
abbrev PartId := BitVec 3

end Sys2Proof
end

