-- ==== Sys2Proof/Syntax.lean ====
section
/-! DEFINITION. Syntax.lean: the commands and events of the SJN-1440, one constructor of `Instr` for each row of spec/opcode_table.json,
with the operands the row's rules give it. A Wenmel instruction carries the core it issues on, its flags and token field (R164, R165) and
its operand fields (R194 to R217); an NVMe command carries the controller, queue and command identifier it came from; an event carries
what the outside world (a die, a link, a sensor, the host) supplies. -/

namespace Sys2Proof

/-! ### Wenmel instructions -/

/-- The engine class of an instruction (R164). -/
inductive Cls where
  | seq | dx | mx | vx | sx | ox | hx | gx | media | purse
  deriving DecidableEq, Repr

/-- What every Wenmel instruction carries beside its operands: the core it is issued on, the flag bits [15:12] and the token field of
R165. `rsv` holds the operand bits [127:32] that the instruction's row does not name, in their places: zero when all are zero (R192). -/
structure Hdr where
  core    : CoreId
  hold    : Bool := false
  boundary : Bool := false
  wait    : Bool := false
  signal  : Bool := false
  waitTok : BitVec 6 := 0
  sigTok  : BitVec 6 := 0
  waitN   : BitVec 4 := 0
  rsv     : BitVec 96 := 0
  deriving DecidableEq, Repr

/-- The source of a counter instruction: counter `cb`, or the immediate when `bimm` (R194). -/
structure CSrc where
  bimm : Bool
  cb   : BitVec 4
  imm  : BitVec 32
  deriving DecidableEq, Repr

/-- The term of R196: (1 or C[ca]) * imm16 * 2^sh. -/
structure AgTerm where
  one  : Bool
  ca   : BitVec 4
  imm  : BitVec 16
  sh   : BitVec 5
  deriving DecidableEq, Repr

/-- The source of AGSET: mode 0 an immediate, mode 1 a generator plus a term (R196). -/
inductive AgSrc where
  | imm (v : BitVec 48)
  | gen (gs : BitVec 5) (t : AgTerm)
  deriving DecidableEq, Repr

/-- The source of AGINC: mode 0 an immediate, mode 1 a term (R196). -/
inductive AgIncSrc where
  | imm (v : BitVec 32)
  | term (t : AgTerm)
  deriving DecidableEq, Repr

/-- The operands DXS and DXG share (R198). -/
structure DxOps where
  desc   : BitVec 19
  agb    : BitVec 5 := 0
  agbEn  : Bool := false
  ags    : BitVec 5 := 0
  agsEn  : Bool := false
  cntEn  : Bool := false
  cntDim : BitVec 3 := 0
  cntC   : BitVec 4 := 0
  array  : BitVec 2 := 0
  agi    : BitVec 5 := 0
  deriving DecidableEq, Repr

/-- The operands of MXT (R202). -/
structure MxtOps where
  blk     : BitVec 19
  aga     : BitVec 5 := 0
  ago     : BitVec 5 := 0
  colc    : BitVec 4 := 0
  pairing : BitVec 2 := 0
  actFmt  : BitVec 1 := 0
  wgtFmt  : BitVec 2 := 0
  sparse  : Bool := false
  zmap    : Bool := false
  drain   : BitVec 1 := 0
  preload : BitVec 2 := 0
  deriving DecidableEq, Repr

/-- The operand layout of every VX instruction (R207). -/
structure VxOps where
  agd  : BitVec 5
  aga  : BitVec 5 := 0
  agb  : BitVec 5 := 0
  agc  : BitVec 5 := 0
  bsc  : Bool := false
  csc  : Bool := false
  fa   : BitVec 3 := 0
  fb   : BitVec 3 := 0
  fd   : BitVec 3 := 0
  rowc : BitVec 4 := 0
  row1 : Bool := true
  len  : BitVec 20
  tag  : BitVec 4 := 0
  bmap : Bool := false
  ssrc : Bool := false
  imm  : BitVec 32 := 0
  deriving DecidableEq, Repr

/-- The operands of OXUPD and OXSR (R211). -/
structure OxOps where
  agw    : BitVec 5
  agg    : BitVec 5 := 0
  agm    : BitVec 5 := 0
  agh    : BitVec 5 := 0
  rowc   : BitVec 4 := 0
  row1   : Bool := true
  len    : BitVec 20
  stepc  : BitVec 4 := 0
  ebc    : BitVec 4 := 0
  tensor : BitVec 16 := 0
  rule   : BitVec 2 := 0
  deriving DecidableEq, Repr

/-- The operands of HXSEND and HXRECV (R212). -/
structure HxOps where
  ring  : BitVec 3
  act   : Bool        -- kind: false tally, true activation
  ags   : BitVec 5
  nc    : BitVec 4
  ncimm : BitVec 20
  deriving DecidableEq, Repr

/-- The operands of GXPUT and GXGET (R213). -/
structure GxOps where
  agl    : BitVec 5
  peer   : BitVec 11
  remote : BitVec 48
  nc     : BitVec 4
  deriving DecidableEq, Repr

/-- The operands of GXCOLL (R213). The constructor is bits [33:32] of its op; `opHi` is bits [35:34], zero in the four ops that have a name
and non-zero in the reserved ones, 4 to 15. -/
structure CollOps where
  grp : BitVec 8
  ags : BitVec 5
  agd : BitVec 5
  nc  : BitVec 4
  opHi : BitVec 2 := 0
  deriving DecidableEq, Repr

/-! ### Events -/

/-- How a line comes back from memory or from outside: R151, R154, R343. -/
inductive LineOutcome where
  | clean          -- no error
  | corrected      -- one symbol or bit corrected
  | uncorrectable  -- an uncorrectable error
  | hostError      -- a host-window completion with UR, CA or a poisoned TLP (R343)
  deriving DecidableEq, Repr

/-- What the power monitor and the sensors read at one sample (R41, R56); temperatures signed in 1/16 degree C. `pclk` is the number of
PCLK since the last sample (for the PCLK-counted coefficients of R52), `swW` and `swE` the MCLK edges swallowed on each tile in it (R38),
`alertLow` the level of PWR_ALERT_N at the sample (R59). -/
structure Sample where
  powerDw   : BitVec 16
  junctionW : BitVec 16
  junctionE : BitVec 16
  junctionHub : BitVec 16
  flashMax  : BitVec 16
  pclk      : Nat := 0
  swW       : Nat := 0
  swE       : Nat := 0
  alertLow  : Bool := false
  deriving DecidableEq, Repr

/-- The two compute tiles. -/
inductive Tile where
  | west | east
  deriving DecidableEq, Repr

/-- The interface PLLs of R36. -/
inductive IfPll where
  | dram
  | serdes (port : BitVec 3) (link : BitVec 3)
  | pcie (port : BitVec 1)
  deriving DecidableEq, Repr

/-- Where a code word was finally recovered, in the order of R322. -/
inductive Recovery where
  | hard (correctedBits : Nat)
  | retry (depth : Nat)
  | soft
  | rebuilt
  | failed
  deriving DecidableEq, Repr

/-- A physical page address (R306), field by field. -/
structure Ppa where
  channel  : BitVec 6
  position : BitVec 5
  plane    : BitVec 2
  block    : BitVec 11
  page     : BitVec 12
  deriving DecidableEq, Repr

/-- What a programmed page holds, which fixes its move in the page ledger (R330): unit `u` of a name space, the data of its place in a media-direct
zone (R326), map page `i` of a name space, map journal (R317), or its stripe's parity (R307). -/
inductive ProgKind where
  | unit (nsid u : Nat)
  | direct
  | map (nsid i : Nat)
  | journal
  | parity
  deriving DecidableEq, Repr

/-- A flit as R374 and R375 lay it out: header fields with their reserved bits, payload lines and link trailer with its crc (R377). -/
structure Flit where
  typ      : BitVec 8
  vc       : BitVec 2 := 0
  poison   : Bool := false
  last     : Bool := false
  error    : Bool := false
  part     : PartId := 0
  dst      : BitVec 11 := 0
  src      : BitVec 11 := 0
  tag      : BitVec 32 := 0
  total    : BitVec 32 := 0
  addr     : BitVec 48 := 0
  group    : BitVec 8 := 0
  op       : BitVec 4 := 0
  inst     : BitVec 64 := 0
  offset   : BitVec 32 := 0
  payload  : List (List Byte) := []
  lseq     : BitVec 12 := 0
  ack      : BitVec 12 := 0
  nak      : Bool := false
  credit   : List Nat := []       -- credits returned for each virtual channel 0 to 3
  rsvCtl   : BitVec 3 := 0        -- ctl bits [7:5]
  rsvHdr   : BitVec 80 := 0       -- the reserved header bytes, 26 to 31 and 44 to 47
  rsvTrl   : BitVec 32 := 0       -- bytes 248 to 251
  crc      : BitVec 32 := 0
  deriving DecidableEq, Repr

/-- A word of SRAM: the one at a byte offset of a core's SRAM, or of the hub SRAM. -/
inductive SramAt where
  | core (c : CoreId) (offset : BitVec 25)
  | hub (offset : BitVec 25)
  deriving DecidableEq, Repr

/-- A place in a function's BAR2-3 (R342): the physical function's shows the register space, a virtual function's the SRAM windows. -/
inductive BarAt where
  | physical (offset : Nat)
  | virtual (vf : BitVec 8) (offset : Nat)
  deriving DecidableEq, Repr

/-- What a die reports of a program: whether it passed, and the dies that were programming as it was issued. -/
structure ProgReport where
  pass   : Bool
  beside : List (BitVec 11)
  deriving DecidableEq, Repr

/-- A port's and link's place: port G0 to G5, link 0 to 5 (R372). -/
structure LinkId where
  port : BitVec 3
  link : BitVec 3
  deriving DecidableEq, Repr

/-- What the peer of a girth port presents in authentication (R386). -/
structure PeerId where
  chainOk  : Bool
  sigOk    : Bool
  setId    : BitVec 16
  dx       : BitVec 7
  dy       : BitVec 7
  dz       : BitVec 7
  x        : BitVec 6
  y        : BitVec 6
  z        : BitVec 6
  portPresent : Bool := true
  deriving DecidableEq, Repr

/-! ### NVMe commands -/

/-- Where an NVMe command came from: controller (port * 65 + function, R341), submission queue and command identifier. -/
structure NHdr where
  ctrl : BitVec 8
  sqid : BitVec 16 := 0
  cid  : BitVec 16
  deriving DecidableEq, Repr

/-- A reference to an earlier command of the same controller: its SQID and CID (R356). -/
structure CmdRef where
  sqid : BitVec 16
  cid  : BitVec 16
  deriving DecidableEq, Repr

/-- One Update Index operation (R357), its data as bytes. -/
inductive IndexOp where
  | insert (slot : Nat) (gid : BitVec 64) (code : List Byte) (record : List Byte) (vector : List Byte)
  | delete (slot : Nat)
  | writeRecord (slot : Nat) (record : List Byte)
  deriving DecidableEq, Repr

/-- What the Update Index data held: the operations, or a reserved value in them. -/
structure IndexOps where
  ops : List IndexOp
  rsv : Bool := false
  deriving DecidableEq, Repr

/-- NVMe-MI commands and the admin commands tunnelled through it (R345). -/
inductive MiOp where
  | subsystemHealthPoll
  | controllerHealthPoll (ctrl : BitVec 8)
  | configGet (id : BitVec 8)
  | configSet (id : BitVec 8) (value : BitVec 32)
  | vpdRead
  | tunnelIdentify (cns : BitVec 8)
  | tunnelGetLogPage (lid : BitVec 8)
  | tunnelGetFeatures (fid : BitVec 8)
  | tunnelSetFeatures (fid : BitVec 8)
  | tunnelIo
  deriving DecidableEq, Repr

/-- The six transports of the SPDM responder (R450). -/
inductive Transport where
  | doe (port : BitVec 1)
  | mctpPcie
  | mctpSmbus
  | nvme (port : BitVec 1)
  deriving DecidableEq, Repr

/-- The SPDM requests the responder serves (R451, R452), as they reach it over any transport. -/
inductive SpdmReq where
  | getVersion
  | getCapabilities
  | negotiateAlgorithms (sha3 : Bool) (mldsa : Bool)
  | getDigests
  | getCertificate (slot : BitVec 3) (offset len : Nat)
  | challenge (slot : BitVec 3) (nonce : List Byte)
  | getMeasurements (index : BitVec 8) (signed : Bool) (nonce : List Byte)
  | unsupported (code : BitVec 8)
  deriving DecidableEq, Repr

/-- Zone, program and virtualization actions. -/
inductive VirtAct where
  | online | offline | setResources
  deriving DecidableEq, Repr

/-- One command or event: one constructor for each row of spec/opcode_table.json, in the table's order but for
UNSUPPORTED_COMMAND, which stands with the other NVMe commands. -/
inductive Instr where
  -- class 0, sequencer (R195)
  | nop (h : Hdr)
  | endStep (h : Hdr)
  | loop (h : Hdr) (level : BitVec 3) (ca : BitVec 4) (n : BitVec 12)
  | exitLoop (h : Hdr) (k : BitVec 3) (level : BitVec 3)
  | skip (h : Hdr) (k : BitVec 3) (n : BitVec 12)
  | cmp (h : Hdr) (k : BitVec 3) (ca : BitVec 4) (bimm : Bool) (cb : BitVec 4) (imm16 : BitVec 16) (cond : BitVec 3)
  | jmp (h : Hdr) (k : BitVec 3) (cond : Bool) (target : BitVec 19)
  | cset (h : Hdr) (cd : BitVec 4) (src : CSrc)
  | cadd (h : Hdr) (cd ca : BitVec 4) (src : CSrc)
  | csub (h : Hdr) (cd ca : BitVec 4) (src : CSrc)
  | cmul (h : Hdr) (cd ca : BitVec 4) (src : CSrc)
  | cmin (h : Hdr) (cd ca : BitVec 4) (src : CSrc)
  | cmax (h : Hdr) (cd ca : BitVec 4) (src : CSrc)
  | cdiv (h : Hdr) (cd ca : BitVec 4) (src : CSrc)
  | cidx (h : Hdr) (cd : BitVec 4) (level : BitVec 3)
  | cldr (h : Hdr) (cd : BitVec 4) (lsb : BitVec 6) (wm1 : BitVec 5) (off : BitVec 20)
  | clds (h : Hdr) (cd : BitVec 4) (g : BitVec 5) (imm24 : BitVec 24)
  | csts (h : Hdr) (cd : BitVec 4) (g : BitVec 5) (imm24 : BitVec 24)
  | agset (h : Hdr) (g : BitVec 5) (src : AgSrc)
  | agadd (h : Hdr) (g : BitVec 5) (t : AgTerm)
  | aginc (h : Hdr) (g : BitVec 5) (level : BitVec 3) (src : AgIncSrc)
  | tadd (h : Hdr) (token : BitVec 6) (nm1 : BitVec 4)
  -- classes 1 to 9 (R198 to R217)
  | dxs (h : Hdr) (o : DxOps)
  | dxg (h : Hdr) (o : DxOps)
  | mxt (h : Hdr) (o : MxtOps)
  | mxl (h : Hdr) (slot : BitVec 6) (kind : BitVec 2) (g : BitVec 5) (imm24 : BitVec 24)
  | mxp (h : Hdr) (slot : BitVec 6) (preset : BitVec 2)
  | vadd (h : Hdr) (o : VxOps)
  | vsub (h : Hdr) (o : VxOps)
  | vmul (h : Hdr) (o : VxOps)
  | vfma (h : Hdr) (o : VxOps)
  | vmin (h : Hdr) (o : VxOps)
  | vmax (h : Hdr) (o : VxOps)
  | vcmp (h : Hdr) (o : VxOps)
  | vsel (h : Hdr) (o : VxOps)
  | vabs (h : Hdr) (o : VxOps)
  | vneg (h : Hdr) (o : VxOps)
  | vexp2 (h : Hdr) (o : VxOps)
  | vlog2 (h : Hdr) (o : VxOps)
  | vrcp (h : Hdr) (o : VxOps)
  | vrsq (h : Hdr) (o : VxOps)
  | vcvt (h : Hdr) (o : VxOps)
  | vreq (h : Hdr) (o : VxOps)
  | vlf (h : Hdr) (o : VxOps)
  | vlfa (h : Hdr) (o : VxOps)
  | vrsum (h : Hdr) (o : VxOps)
  | vrmax (h : Hdr) (o : VxOps)
  | vsmax (h : Hdr) (o : VxOps)
  | vrms (h : Hdr) (o : VxOps)
  | vlnorm (h : Hdr) (o : VxOps)
  | vkl (h : Hdr) (o : VxOps)
  | sxtopk (h : Hdr) (ain agl : BitVec 5) (nc : BitVec 4) (desc u32 : Bool) (k : BitVec 13) (fresh : Bool)
  | sxmerge (h : Hdr) (aa ab ad : BitVec 5) (desc u32 : Bool) (k : BitVec 13)
  | sxand (h : Hdr) (aa ab ad agp : BitVec 5) (nc : BitVec 4)
  | sxroute (h : Hdr) (as_ ad ap : BitVec 5) (nc : BitVec 4) (em1 : BitVec 8) (rm1 : BitVec 3)
  | sxwalk (h : Hdr) (aq ad : BitVec 5)
  | oxupd (h : Hdr) (o : OxOps)
  | oxsr (h : Hdr) (o : OxOps)
  | hxsend (h : Hdr) (o : HxOps)
  | hxrecv (h : Hdr) (o : HxOps)
  | gxput (h : Hdr) (o : GxOps)
  | gxget (h : Hdr) (o : GxOps)
  | allred (h : Hdr) (o : CollOps)
  | redscat (h : Hdr) (o : CollOps)
  | bcast (h : Hdr) (o : CollOps)
  | clear (h : Hdr) (o : CollOps)
  | mrd (h : Hdr) (agr : BitVec 5) (imm24 : BitVec 24)
  | mwr (h : Hdr) (agr : BitVec 5) (imm24 : BitVec 24)
  | mapp (h : Hdr) (agr : BitVec 5) (imm24 : BitVec 24)
  | pread (h : Hdr) (agr : BitVec 5)
  | pres (h : Hdr) (agr : BitVec 5) (ec : BitVec 4)
  -- events of the cores
  | tokenWaitProceed (core : CoreId) (reservedOp : Option Hdr)
  | instructionRetire (core : CoreId) (cls : Cls)
  | boundaryRetire (core : CoreId)
  | coreStallDetect (core : CoreId)
  | streamLineArrival (core : CoreId) (stream : Nat) (out : LineOutcome) (hostLine : List Byte)
  | prefetchStart (core : CoreId) (index : Nat) (slots : Nat)
  | pstreamBaseWrite (core : CoreId) (n : BitVec 3) (value : Word)
  | laceLineArrival (core : CoreId) (channel : BitVec 2)
  | laceCreditReturn (core : CoreId) (channel : BitVec 2)
  | mxInjectArm (core : CoreId) (value : Word)
  | vxInjectArm (core : CoreId) (value : Word)
  | clipClear (core : CoreId) (value : Word)
  | clearValid (core : CoreId) (value : Word)
  | flipArm (hub : Bool) (core : CoreId) (g : BitVec 3) (value : Word)
  | mergeEntryRetire (core : CoreId) (bank : BitVec 6) (out : LineOutcome)
  | sramCeWriteback (word : SramAt) (out : LineOutcome)
  -- power, clocks and memory
  | powerSample (p : Sample)
  | thermalTripRelease (junctionW junctionE junctionHub flashMax : BitVec 16)
  | periodBoundary
  | stepAdmit (part : PartId)
  | purseCtlWrite (p : BitVec 4) (value : Word)
  | pwrAlertAssert (sled : Bool)
  | alertForceWrite (value : Word)
  | droopWarning (tile : Tile) (mv : Nat)
  | droopHoldExpiry (tile : Tile)
  | droopReset (tile : Tile) (mv : Nat)
  | rootPllLoss
  | interfacePllLoss (pll : IfPll)
  | promotionCopyDone (page : Nat)
  | poolSizeWrite (value : Word)
  | poolZeroingDone
  | dramScrub (out : LineOutcome)
  -- scheduler and daybook
  | sliceExpiry (part : PartId)
  | switchDeferEnd (part : PartId)
  | switchOutComplete (part : PartId)
  | jobPlace (part : PartId)
  | reinWrite (girth : Bool) (p : BitVec 4) (value : Word)
  | daybookDeliver
  | dbkEoi (value : Word)
  | dbkSoft (value : Word)
  | dbkHoldWrite (value : Word)
  | dbkRingHeadWrite (steward : BitVec 3) (value : Word)
  | stewardSleep (steward : BitVec 3)
  | stewardStuck (steward : BitVec 3)
  | stewardStuckClear (steward : BitVec 3) (value : Word)
  | faultRegisterClear (offset : Nat) (value : Word)
  | quarantineRelease (value : Word)
  | ledgerTestArm (value : Word)
  | registerWrite (place : BarAt) (size : Nat) (value : Word)
  -- NVMe
  | doorbellWrite (ctrl : BitVec 8) (cq : Bool) (qid : BitVec 16) (value : BitVec 16)
  | identify (n : NHdr) (cns : BitVec 8) (nsid : BitVec 32)
  | getFeatures (n : NHdr) (fid : BitVec 8)
  | setFeatures (n : NHdr) (fid : BitVec 8) (value : BitVec 32)
  | powerManagement (n : NHdr) (ps : BitVec 5)
  | timestamp (n : NHdr) (ms : BitVec 48)
  | getLogPage (n : NHdr) (lid : BitVec 8) (rae : Bool) (offset len : Nat)
  | createIoQueue (n : NHdr) (cq : Bool) (qid : BitVec 16) (size : BitVec 16) (cqid : BitVec 16)
  | deleteIoQueue (n : NHdr) (cq : Bool) (qid : BitVec 16)
  | abort (n : NHdr) (target : CmdRef)
  | asynchronousEventRequest (n : NHdr)
  | namespaceCreate (n : NHdr) (kind : BitVec 8) (part : BitVec 8) (lbas : Nat) (memBytes : Nat) (rsv : Bool)
  | namespaceDelete (n : NHdr) (nsid : BitVec 32)
  | namespaceAttachment (n : NHdr) (nsid : BitVec 32) (attach : Bool) (ctrls : List (BitVec 8))
  | firmwareImageDownload (n : NHdr) (offset : Nat) (data : List Byte)
  | firmwareCommit (n : NHdr) (slot : BitVec 3) (action : BitVec 3)
  | formatNvm (n : NHdr) (nsid : BitVec 32) (crypto : Bool)
  | sanitize (n : NHdr) (blockErase : Bool)
  | sanitizeComplete
  | virtualizationManagement (n : NHdr) (ctrl : BitVec 8) (act : VirtAct) (nr : Nat)
  | keepAlive (n : NHdr)
  | deviceSelfTest (n : NHdr) (code : BitVec 4)
  | securitySend (n : NHdr) (secp : BitVec 8) (spsp : BitVec 16) (req : SpdmReq)
  | securityReceive (n : NHdr) (secp : BitVec 8) (spsp : BitVec 16) (alloc : Nat)
  | attachWeight (n : NHdr) (nsid : BitVec 32) (base : BitVec 25) (rsv : Bool)
  | detachWeight (n : NHdr) (nsid : BitVec 32) (rsv : Bool)
  | setHostWindow (n : NHdr) (window : BitVec 4) (enable : Bool) (len4k : BitVec 24) (start : BitVec 64) (bus : BitVec 64) (rsv : Bool)
  | read (n : NHdr) (nsid : BitVec 32) (slba nlb : Nat)
  | write (n : NHdr) (nsid : BitVec 32) (slba : Nat) (data : List Byte)
  | writeZeroes (n : NHdr) (nsid : BitVec 32) (slba nlb : Nat)
  | flush (n : NHdr) (nsid : BitVec 32)
  | deallocate (n : NHdr) (nsid : BitVec 32) (ranges : List (Nat × Nat))
  | compare (n : NHdr) (nsid : BitVec 32) (slba : Nat) (data : List Byte)
  | verify (n : NHdr) (nsid : BitVec 32) (slba nlb : Nat)
  | zoneAppend (n : NHdr) (nsid : BitVec 32) (zslba : Nat) (data : List Byte)
  | zoneOpen (n : NHdr) (nsid : BitVec 32) (zslba : Nat)
  | zoneClose (n : NHdr) (nsid : BitVec 32) (zslba : Nat)
  | zoneFinish (n : NHdr) (nsid : BitVec 32) (zslba : Nat)
  | resetZone (n : NHdr) (nsid : BitVec 32) (zslba : Nat)
  | zoneOffline (n : NHdr) (nsid : BitVec 32) (zslba : Nat)
  | zoneManagementReceive (n : NHdr) (nsid : BitVec 32) (zslba : Nat) (count : Nat)
  | loadProgram (n : NHdr) (nsid : BitVec 32) (program : BitVec 16) (ptype : BitVec 8) (image : List Byte)
  | programActivationManagement (n : NHdr) (nsid : BitVec 32) (program : BitVec 16) (activate : Bool)
  | executeProgram (n : NHdr) (nsid : BitVec 32) (program : BitVec 16) (params : List Byte)
  | memoryRangeSetManagement (n : NHdr) (create : Bool) (set : BitVec 16) (ranges : List (BitVec 32 × Nat × Nat))
  | memoryRead (n : NHdr) (nsid : BitVec 32) (offset len : Nat)
  | memoryWrite (n : NHdr) (nsid : BitVec 32) (offset : Nat) (data : List Byte)
  | memoryCopy (n : NHdr) (dst : BitVec 32) (doff : Nat) (src : BitVec 32) (soff : Nat) (len : Nat)
  | weightPageRewrite (n : NHdr) (nsid : BitVec 32) (slba : Nat) (data : List Byte) (readBackOk : Bool)
  | openIndex (n : NHdr) (nsid : BitVec 32) (q : BitVec 4) (part : PartId) (dbase : BitVec 64) (filters : List (BitVec 8)) (rsv : Bool)
  | closeIndex (n : NHdr) (nsid : BitVec 32) (q : BitVec 4) (rsv : Bool)
  | indexCloseComplete (q : BitVec 4)
  | updateIndex (n : NHdr) (nsid : BitVec 32) (q : BitVec 4) (ops : IndexOps)
  | stagingStart (q : BitVec 4)
  | advanceEpoch (n : NHdr) (nsid : BitVec 32) (q : BitVec 4) (rsv : Bool)
  | compactIndex (n : NHdr) (nsid : BitVec 32) (q : BitVec 4) (rsv : Bool)
  | search (n : NHdr) (nsid : BitVec 32) (q : BitVec 4) (buf : List Byte)
  | submitRequest (n : NHdr) (nsid : BitVec 32) (job : CmdRef) (block : List Byte)
  | requestAdmit (part : PartId)
  | servingStepEntry (part : PartId)
  | servingStepEnd (part : PartId)
  | setOverlay (n : NHdr) (nsid : BitVec 32) (part : PartId) (variant : BitVec 10) (layer0 : BitVec 8) (data : List Byte) (rsv : Bool)
  | frameStart (n : NHdr) (nsid : BitVec 32) (ring : BitVec 3) (slot : BitVec 8) (frame : BitVec 64) (rsv : Bool)
  | frameAccept (ring : BitVec 3)
  | frameComplete (ring : BitVec 3) (mclk : Nat)
  | pauseRequest (n : NHdr) (nsid : BitVec 32) (req : CmdRef)
  | unsupportedCommand (n : NHdr) (opcodeKnown : Bool)
  | nvmeMiCommand (op : MiOp)
  -- harness and reductions
  | tallyRecordArrival (b : BitVec 2) (r : BitVec 3)
  | tallyCreditReturn (b : BitVec 2) (r : BitVec 3)
  | reduceInstanceOpen (j : BitVec 4) (bucket inst member : Nat) (lines : List (List Byte))
  | contributionArrival (j : BitVec 4) (bucket inst member : Nat) (lines : List (List Byte))
  | reduceClose (j : BitVec 4) (bucket inst : Nat)
  | lateWindowExpiry (j : BitVec 4) (bucket inst : Nat)
  -- girth
  | put (l : LinkId) (f : Flit)
  | getReq (l : LinkId) (f : Flit)
  | getRsp (l : LinkId) (f : Flit)
  | ack (l : LinkId) (f : Flit)
  | coll (l : LinkId) (f : Flit)
  | harn (l : LinkId) (f : Flit)
  | idle (l : LinkId) (f : Flit)
  | flitForward (l : LinkId) (f : Flit)
  | nakReplay (l : LinkId) (seq : BitVec 12)
  | ackTimeout (l : LinkId)
  | linkIdleTimeout (l : LinkId)
  | linkRetrainDone (l : LinkId) (ok : Bool)
  | handover (l : LinkId) (downed : BitVec 3) (lastSeq : BitVec 12)
  | portTrain (port : BitVec 3) (neighbour : Bool) (trained : BitVec 6)
  | portAuthenticate (port : BitVec 3) (peer : PeerId)
  | reauth (port : BitVec 3) (value : Word)
  | presenceNotice (l : LinkId) (module_ : BitVec 11) (port : BitVec 3) (state : BitVec 3) (seq : BitVec 32)
  | girthSetWrite (value : Word)
  -- flash media
  | flashPageReadDone (ppa : Ppa) (rs : List Recovery) (second : Option Ppa)
  | flashProgramDone (ppa : Ppa) (slc : Bool) (kind : ProgKind) (report : ProgReport)
  | readBack (ppa : Ppa) (correctedBits : Nat) (decoded : Bool)
  | flashEraseDone (ppa : Ppa) (pass : Bool)
  | eraseResume (ppa : Ppa)
  | readAround (ppa : Ppa) (rebuildFirst : Bool)
  | garbageCollection
  | fold (ppa : Ppa) (pages : Nat)
  | refresh (ppa : Ppa)
  | channelTrainingFail (channel : BitVec 6)
  | holdupMeasure (microfarad : Nat)
  -- start-up, resets, power input and identity
  | powerGood (dramTrained : Bool)
  | perstDeassert (port : BitVec 1) (speed : BitVec 3) (width : BitVec 4)
  | mount (ok : Bool)
  | controllerEnable (ctrl : BitVec 8)
  | controllerReset (ctrl : BitVec 8)
  | functionLevelReset (ctrl : BitVec 8)
  | portReset (port : BitVec 1)
  | warmReset
  | guardResetWarm (value : Word)
  | nvmSubsystemReset (port : BitVec 1)
  | perstBothPorts
  | inputPowerLoss
  | flushComplete (dumpOk : Bool)
  | pwrDisAssert
  | pwrDisDeassert
  | leakDetect (moist : Bool)
  | getVersion (t : Transport)
  | getCapabilities (t : Transport)
  | negotiateAlgorithms (t : Transport) (sha3 mldsa : Bool)
  | getDigests (t : Transport)
  | getCertificate (t : Transport) (slot : BitVec 3) (offset len : Nat)
  | challenge (t : Transport) (slot : BitVec 3) (nonce : List Byte)
  | getMeasurements (t : Transport) (index : BitVec 8) (signed : Bool) (nonce : List Byte)
  | chunkSend (t : Transport) (seq : Nat) (last : Bool) (bytes : List Byte)
  | chunkGet (t : Transport) (seq : Nat)
  | doeDiscovery (port : BitVec 1) (index : BitVec 8)
  | autonomousPowerStateTransition (ps : BitVec 5)
  | powerStateEntryComplete
  | powerStateExitComplete
  | keepAliveTimeout (ctrl : BitVec 8)
  | spdmUnsupportedRequest (t : Transport) (code : BitVec 8)
  | droopRecovery (tile : Tile) (mv : Nat)
  | switchInComplete (part : PartId)
  | dieStopsAnswering (die : BitVec 11)
  | hostLinkRetrain (port : BitVec 1) (up : Bool) (speed : BitVec 3) (width : BitVec 4)
  deriving DecidableEq, Repr

end Sys2Proof
end

