-- ==== Sys2Proof/Decode.lean ====
section
/-! DEFINITION. Decode.lean: the 128-bit Wenmel instruction word (R164, R165, R191) with the operand layouts of chapter 07 (R194 to R217), and
the command that a word of the opcode table's bits spells: none, since no row of the table gives bits. -/

namespace Sys2Proof

/-! ### Fields of the word -/

/-- Bit `i` of an instruction word. -/
def wbit (w : BitVec 128) (i : Nat) : Bool := w.getLsbD i

/-- Operand bits `lo` to `hi` of the word, in their places among bits [127:32]. -/
def span (lo hi : Nat) : BitVec 96 := BitVec.ofNat 96 ((2 ^ (hi + 1 - lo) - 1) * 2 ^ (lo - 32))

/-- The flags and the token field of a word on core `core`; `named` are the operand bits that its row names, and the rest are kept as they stand
(R164, R165, R192). -/
def headerOf (core : CoreId) (w : BitVec 128) (named : BitVec 96) : Hdr :=
  { core := core, hold := wbit w 12, boundary := wbit w 13, wait := wbit w 14, signal := wbit w 15
    waitTok := w.extractLsb' 16 6, sigTok := w.extractLsb' 22 6, waitN := w.extractLsb' 28 4
    rsv := w.extractLsb' 32 96 &&& ~~~ named }

/-- The second source of a counter instruction: R194. -/
def csrcOf (w : BitVec 128) : CSrc := ⟨wbit w 44, w.extractLsb' 40 4, w.extractLsb' 64 32⟩

/-- The bits of a counter instruction with two sources. -/
def countBits : BitVec 96 := span 32 44 ||| span 64 95

/-- The term of R196 as AGADD lays it out: R195. -/
def termOf (w : BitVec 128) : AgTerm := ⟨wbit w 44, w.extractLsb' 36 4, w.extractLsb' 64 16, w.extractLsb' 80 5⟩

/-- The bits of a term. -/
def termBits : BitVec 96 := span 36 39 ||| span 44 44 ||| span 64 84

/-! ### The operands of each class -/

/-- R198. -/
def dxOf (w : BitVec 128) : DxOps :=
  { desc := w.extractLsb' 32 19, agb := w.extractLsb' 51 5, agbEn := wbit w 56, ags := w.extractLsb' 57 5, agsEn := wbit w 62
    cntEn := wbit w 63, cntDim := w.extractLsb' 64 3, cntC := w.extractLsb' 67 4, array := w.extractLsb' 71 2, agi := w.extractLsb' 73 5 }

/-- R202. -/
def mxtOf (w : BitVec 128) : MxtOps :=
  { blk := w.extractLsb' 32 19, aga := w.extractLsb' 51 5, ago := w.extractLsb' 56 5, colc := w.extractLsb' 61 4
    pairing := w.extractLsb' 65 2, actFmt := w.extractLsb' 67 1, wgtFmt := w.extractLsb' 68 2, sparse := wbit w 70, zmap := wbit w 71
    drain := w.extractLsb' 72 1, preload := w.extractLsb' 73 2 }

/-- R207. -/
def vxOps (w : BitVec 128) : VxOps :=
  { agd := w.extractLsb' 32 5, aga := w.extractLsb' 37 5, agb := w.extractLsb' 42 5, agc := w.extractLsb' 47 5
    bsc := wbit w 52, csc := wbit w 53, fa := w.extractLsb' 54 3, fb := w.extractLsb' 57 3, fd := w.extractLsb' 60 3
    rowc := w.extractLsb' 63 4, row1 := wbit w 67, len := w.extractLsb' 68 20, tag := w.extractLsb' 88 4
    bmap := wbit w 92, ssrc := wbit w 93, imm := w.extractLsb' 96 32 }

/-- R211. -/
def oxOf (w : BitVec 128) : OxOps :=
  { agw := w.extractLsb' 32 5, agg := w.extractLsb' 37 5, agm := w.extractLsb' 42 5, agh := w.extractLsb' 47 5
    rowc := w.extractLsb' 52 4, row1 := wbit w 56, len := w.extractLsb' 57 20, stepc := w.extractLsb' 77 4, ebc := w.extractLsb' 81 4
    tensor := w.extractLsb' 85 16, rule := w.extractLsb' 101 2 }

/-- R212. -/
def hxOf (w : BitVec 128) : HxOps := ⟨w.extractLsb' 32 3, wbit w 35, w.extractLsb' 36 5, w.extractLsb' 41 4, w.extractLsb' 45 20⟩

/-- R213. -/
def gxOf (w : BitVec 128) : GxOps := ⟨w.extractLsb' 32 5, w.extractLsb' 37 11, w.extractLsb' 48 48, w.extractLsb' 96 4⟩

/-- R213. -/
def collOf (w : BitVec 128) : CollOps :=
  { grp := w.extractLsb' 36 8, ags := w.extractLsb' 44 5, agd := w.extractLsb' 49 5, nc := w.extractLsb' 54 4, opHi := w.extractLsb' 34 2 }

/-! ### The opcodes (R191) -/

/-- A class 0 instruction: R194 to R197. -/
def decodeSeq (c : CoreId) (w : BitVec 128) (op : Nat) : Option Instr :=
  let h := headerOf c w
  let cd : BitVec 4 := w.extractLsb' 32 4
  let ca : BitVec 4 := w.extractLsb' 36 4
  let k : BitVec 3 := w.extractLsb' 32 3
  let lv : BitVec 3 := w.extractLsb' 40 3
  let n : BitVec 12 := w.extractLsb' 40 12
  let g : BitVec 5 := w.extractLsb' 52 5
  let src := csrcOf w
  let cn := h countBits
  match op with
  | 0x00 => some (.nop (h 0))
  | 0x01 => some (.endStep (h 0))
  | 0x02 => some (.loop (h (span 32 34 ||| span 36 51)) k ca n)
  | 0x03 => some (.exitLoop (h (span 32 34 ||| span 40 42)) k lv)
  | 0x04 => some (.skip (h (span 32 34 ||| span 40 51)) k n)
  | 0x05 => some (.cmp (h (span 32 34 ||| span 36 63)) k ca (wbit w 44) (w.extractLsb' 40 4) (w.extractLsb' 48 16) (w.extractLsb' 45 3))
  | 0x06 => some (.jmp (h (span 32 35 ||| span 64 82)) k (wbit w 35) (w.extractLsb' 64 19))
  | 0x08 => some (.cset (h (span 32 35 ||| span 40 44 ||| span 64 95)) cd src)
  | 0x09 => some (.cadd cn cd ca src)
  | 0x0A => some (.csub cn cd ca src)
  | 0x0B => some (.cmul cn cd ca src)
  | 0x0C => some (.cmin cn cd ca src)
  | 0x0D => some (.cmax cn cd ca src)
  | 0x0E => some (.cdiv cn cd ca src)
  | 0x10 => some (.cidx (h (span 32 35 ||| span 40 42)) cd lv)
  | 0x11 => some (.cldr (h (span 32 35 ||| span 40 50 ||| span 64 83)) cd (w.extractLsb' 40 6) (w.extractLsb' 46 5) (w.extractLsb' 64 20))
  | 0x12 => some (.clds (h (span 32 35 ||| span 52 56 ||| span 64 87)) cd g (w.extractLsb' 64 24))
  | 0x13 => some (.csts (h (span 32 35 ||| span 52 56 ||| span 64 87)) cd g (w.extractLsb' 64 24))
  | 0x18 =>
    if wbit w 57 then some (.agset (h (span 52 62 ||| termBits)) g (.gen (w.extractLsb' 58 5) (termOf w)))
    else some (.agset (h (span 52 57 ||| span 64 111)) g (.imm (w.extractLsb' 64 48)))
  | 0x19 => some (.agadd (h (span 52 56 ||| termBits)) g (termOf w))
  | 0x1A =>
    if wbit w 57 then some (.aginc (h (span 52 57 ||| span 40 42 ||| termBits)) g lv (.term (termOf w)))
    else some (.aginc (h (span 52 57 ||| span 40 42 ||| span 64 95)) g lv (.imm (w.extractLsb' 64 32)))
  | 0x20 => some (.tadd (h (span 32 37 ||| span 40 43)) (w.extractLsb' 32 6) (w.extractLsb' 40 4))
  | _ => none

/-- A class 3 instruction: R207, R208. -/
def decodeVx (c : CoreId) (w : BitVec 128) (op : Nat) : Option Instr :=
  let h := headerOf c w (span 32 93 ||| span 96 127)
  let o := vxOps w
  match op with
  | 0x01 => some (.vadd h o)
  | 0x02 => some (.vsub h o)
  | 0x03 => some (.vmul h o)
  | 0x04 => some (.vfma h o)
  | 0x05 => some (.vmin h o)
  | 0x06 => some (.vmax h o)
  | 0x07 => some (.vcmp h o)
  | 0x08 => some (.vsel h o)
  | 0x09 => some (.vabs h o)
  | 0x0A => some (.vneg h o)
  | 0x0B => some (.vexp2 h o)
  | 0x0C => some (.vlog2 h o)
  | 0x0D => some (.vrcp h o)
  | 0x0E => some (.vrsq h o)
  | 0x10 => some (.vcvt h o)
  | 0x11 => some (.vreq h o)
  | 0x12 => some (.vlf h o)
  | 0x13 => some (.vlfa h o)
  | 0x14 => some (.vrsum h o)
  | 0x15 => some (.vrmax h o)
  | 0x18 => some (.vsmax h o)
  | 0x19 => some (.vrms h o)
  | 0x1A => some (.vlnorm h o)
  | 0x1B => some (.vkl h o)
  | _ => none

/-- A class 4 instruction: R210. -/
def decodeSx (c : CoreId) (w : BitVec 128) (op : Nat) : Option Instr :=
  let h := headerOf c w
  let g : Nat → BitVec 5 := fun lo => w.extractLsb' lo 5
  match op with
  | 0x01 => some (.sxtopk (h (span 32 61)) (g 32) (g 37) (w.extractLsb' 42 4) (wbit w 46) (wbit w 47) (w.extractLsb' 48 13) (wbit w 61))
  | 0x02 => some (.sxmerge (h (span 32 61)) (g 32) (g 37) (g 42) (wbit w 47) (wbit w 48) (w.extractLsb' 49 13))
  | 0x03 => some (.sxand (h (span 32 55)) (g 32) (g 37) (g 42) (g 47) (w.extractLsb' 52 4))
  | 0x04 => some (.sxroute (h (span 32 46 ||| span 52 66)) (g 32) (g 37) (g 42) (w.extractLsb' 52 4) (w.extractLsb' 56 8) (w.extractLsb' 64 3))
  | 0x05 => some (.sxwalk (h (span 32 41)) (g 32) (g 37))
  | _ => none

/-- The instruction a Wenmel word spells on core `core`; none where its class or opcode is reserved (R169, R191). -/
def decodeWenmel (core : CoreId) (w : BitVec 128) : Option Instr :=
  let op := (w.extractLsb' 0 8).toNat
  let h := headerOf core w
  let agr : BitVec 5 := w.extractLsb' 32 5
  match (w.extractLsb' 8 4).toNat, op with
  | 0, op => decodeSeq core w op
  | 1, 0x01 => some (.dxs (h (span 32 77)) (dxOf w))
  | 1, 0x02 => some (.dxg (h (span 32 77)) (dxOf w))
  | 2, 0x01 => some (.mxt (h (span 32 74)) (mxtOf w))
  | 2, 0x02 => some (.mxl (h (span 32 68)) (w.extractLsb' 32 6) (w.extractLsb' 38 2) (w.extractLsb' 40 5) (w.extractLsb' 45 24))
  | 2, 0x03 => some (.mxp (h (span 32 39)) (w.extractLsb' 32 6) (w.extractLsb' 38 2))
  | 3, op => decodeVx core w op
  | 4, op => decodeSx core w op
  | 5, 0x01 => some (.oxupd (h (span 32 102)) (oxOf w))
  | 5, 0x02 => some (.oxsr (h (span 32 102)) (oxOf w))
  | 6, 0x01 => some (.hxsend (h (span 32 64)) (hxOf w))
  | 6, 0x02 => some (.hxrecv (h (span 32 64)) (hxOf w))
  | 7, 0x01 => some (.gxput (h (span 32 99)) (gxOf w))
  | 7, 0x02 => some (.gxget (h (span 32 99)) (gxOf w))
  | 7, 0x03 =>
    let o := collOf w
    let h := h (span 32 57)
    (match (w.extractLsb' 32 2).toNat with
     | 0 => some (.allred h o)
     | 1 => some (.redscat h o)
     | 2 => some (.bcast h o)
     | _ => some (.clear h o))
  | 8, 0x01 => some (.mrd (h (span 32 60)) agr (w.extractLsb' 37 24))
  | 8, 0x02 => some (.mwr (h (span 32 60)) agr (w.extractLsb' 37 24))
  | 8, 0x03 => some (.mapp (h (span 32 60)) agr (w.extractLsb' 37 24))
  | 9, 0x01 => some (.pread (h (span 32 36)) agr)
  | 9, 0x02 => some (.pres (h (span 32 40)) agr (w.extractLsb' 37 4))
  | _, _ => none

/-! ### The opcode table's words -/

/-- The command a table word of `nbits` bits spells: none, since no row has bits. -/
def decodeTableWord (_nbits _w : Nat) : Option Instr := none

end Sys2Proof
end

