-- ==== Sys2Proof/Config.lean ====
section
/-! DEFINITION. Config.lean: the values the spec leaves open, as opaque constants: no proof can see what they are. Each is named by an entry of
the assumption log. -/

namespace Sys2Proof

/-- The 88-bit value of a long-form or accumulator sum that falls outside 88 bits: R71 and R77 state none. -/
opaque Config.lfOverflow (a b : Int) : BitVec 88

/-- The operand that a code stands for when the expander cannot expand it: an empty or mismatched slot, or a value that the entry's format cannot
hold (R83 states the fault and no value). -/
opaque Config.badOperand (slot code : Nat) : BitVec 16

/-- Whether an SRAM word with a check-bit mask of three, five or seven bits decodes as an uncorrectable error; else it is a miscorrection
(R157: a property of the unpublished code). -/
opaque Config.oddMaskUncorrectable (m : BitVec 8) : Bool

/-- Which data bit a miscorrection under such a mask inverts: R157. -/
opaque Config.oddMaskBit (m : BitVec 8) : BitVec 6

/-- Where the stewards place an allocation of `size` bytes for partition `p`, the `n`-th choice made: R141, R187 and R361 give only what the
place must satisfy. -/
opaque Config.place (p size n : Nat) : Nat

/-- Which superblock a media-direct zone of name space `nsid` is mapped to: R326 gives none. -/
opaque Config.superblock (nsid zone n : Nat) : Nat

/-- A byte of the unique device secret, of a firmware component that manufacture left, or of a nonce: R441 and R443 fix its form and not its value. -/
opaque Config.secretByte (what n i : Nat) : BitVec 8

/-- The product certificate authority's certificate and the device certificate of serial number `serial` and public key `pk`: R442 fixes their form, not their bytes. -/
opaque Config.rootCert : List (BitVec 8)
opaque Config.deviceCert (serial : BitVec 64) (pk : List (BitVec 8)) : List (BitVec 8)

/-- The fused hash of the firmware key of a slot: R444 fixes its kind, not its value. -/
opaque Config.keyHash (slot : Nat) : List (BitVec 8)

/-- Byte `i` of the `n`-th signature that the guard makes with its secret key: R452 signs SPDM's transcript, whose bytes DSP0274 lays out, and FIPS
204 draws on randomness. -/
opaque Config.signByte (sk : List (BitVec 8)) (n i : Nat) : BitVec 8

/-- The offset of the daybook area in hub SRAM: R416 gives none. -/
opaque Config.daybookArea : BitVec 25

/-- Where in hub SRAM the `n`-th flit to meet an armed injection is buffered: R154 gives no layout. -/
opaque Config.girthBuffer (n : Nat) : BitVec 25

/-- Whether the fuse of the anti-rollback counter fails to blow at the `n`-th attempt: R446. -/
opaque Config.fuseFails (n : Nat) : Bool

/-- Byte `off` of an Identify page, feature or log page that only the NVMe specifications lay out (R345). -/
opaque Config.nvmeByte (page off : Nat) : BitVec 8

/-- Where on a die the search for the block that replaces a retired one begins: R307 leaves the choice open. -/
opaque Config.spareHome (n : Nat) : Nat

/-- Which unit of the write buffer lay on a dump page that failed its program: R331. -/
opaque Config.dumpUnit (n : Nat) : Nat

/-- Raw event energy, in fJ, of the engine work and codebook reads of the search program in the `n`-th query: R290 and R360 give no count of
events. -/
opaque Config.searchEnergy (n : Nat) : Nat

/-- The device address at which member `m` of a peer set takes the lines of a sharded query: R298 sends them by GXPUT and names no place. -/
opaque Config.queryAddr (m : Nat) : BitVec 48

/-- A byte the spec leaves undefined, the `n`-th asked for. -/
opaque Config.freeByte (n : Nat) : BitVec 8

end Sys2Proof
end

