-- ==== Sys2Proof/Machine/State.lean ====
section
/-! DEFINITION. Machine/State.lean: the state of the SJN-1440 as plain data, the reasons a step can stop, and the state at power-on reset.

Every register of the register space has its one home in `State.regs`, a sparse map from register-space offset to its 64-bit live value
(an unlisted offset holds the register's reset value, `Reg.resetVal` of Machine/Regs.lean); `State.shadow` holds the shadow copies that a
write has landed in and no boundary has yet taken (R12). Registers that only show state that lives elsewhere (SEQ_COUNTER_n, SEQ_TOKEN_i,
DX_SLOTS, FAULT_SUM, the log words and the like) are computed from that state when they are read (Machine/Regs.lean). -/

namespace Sys2Proof.Machine

/-- A sparse map in ONE canonical form: keys strictly rising, and no entry equal to what an unlisted key reads as. -/
abbrev Sparse (α : Type) := List (Nat × α)

/-- A set of numbers, strictly rising. -/
abbrev NatSet := List Nat

/-! ### The core (R18) -/

/-- What a core's sequencer is doing (SEQ_STATUS.state, R189). -/
inductive RunState where
  | idle | running | switchedOut
  deriving DecidableEq, Repr

/-- One active loop level (R170): its body is the indices [start, stop), its trip count the one latched at entry. -/
structure Level where
  level : Nat
  start : Nat
  stop  : Nat
  trips : Nat
  idx   : Nat
  deriving DecidableEq, Repr

/-- What an instruction found at its issue (R31, R172, R174): its core, its index, the values of A0 to A31 and C0 to C15, and of the registers
with period scope that it uses (offset and value). -/
structure Ctx where
  core : Nat
  idx  : Nat
  gens : List Nat
  ctrs : List Nat
  iter : List Nat := []
  per  : List (Nat × Word) := []
  deriving DecidableEq, Repr

/-- An engine instruction in its queue. -/
structure Queued where
  i : Instr
  x : Ctx
  deriving DecidableEq, Repr

/-- What the sequencer itself is held on: an instruction waiting for its token (R177), an instruction without effect doing so (R169, R192;
none where its class or opcode is reserved), an END or a boundary instruction awaiting the retirement of earlier ones (R180, R188), or a
poisoned counter load letting them retire before the step fails (R173). -/
inductive Held where
  | instr (i : Instr)
  | noop (i : Option Instr) (h : Hdr)
  | atEnd (bnd : Bool)
  | atBoundary
  | poisoned
  deriving DecidableEq, Repr

/-- What a started engine instruction still waits for before it can retire (R166). -/
inductive BusyWait where
  | done
  | hxSend (b r : Nat) (act : Bool) (addr left : Nat)
  | hxRecv (b r : Nat) (act : Bool) (addr left : Nat)
  | hxRow (b r : Nat) (o : VxOps) (row rows : Nat)
  | gx (tag : Nat)
  | coll (grp : Nat) (inst : Nat)
  | pres
  | media (no : Nat)                     -- a write to a media-direct zone, until every page of it has passed (R327)
  deriving DecidableEq, Repr

/-- A started and not yet retired engine instruction: its class, its index, the token it signals, whether it is a boundary. -/
structure Busy where
  cls  : Cls
  idx  : Nat
  sig  : Option Nat
  bnd  : Bool
  wait : BusyWait
  args : List (Nat × Nat) := []      -- VKL on a ring: the generator values it keeps (0 agd, 1 agc, 2 aga)
  deriving DecidableEq, Repr

/-- A stream descriptor as DX latches it (R108), with base and sram already resolved (R199). -/
structure Desc where
  base    : Nat
  sram    : Nat
  dims    : Nat
  wr      : Bool
  transpose : Bool
  persistent : Bool
  pnum    : Nat
  signal  : Nat
  lace    : Bool
  channel : Nat
  strides : List Int
  counts  : List Nat
  format  : Nat
  skew    : Nat
  gather  : Option (List Nat)   -- DXG: the index list
  array   : Nat
  deriving DecidableEq, Repr

/-- An issued stream (R116): the descriptor, the next linear element, what it signals, the lines its current slot has taken. -/
structure Stream where
  id    : Nat
  idx   : Nat
  d     : Desc
  pos   : Nat
  sig   : Option Nat
  bnd   : Bool
  slot  : Option Nat
  viol  : Bool            -- a violation of R114 has been counted
  page  : Option Nat := none   -- the flash page its last weight line came from, still in flight for R146
  deriving DecidableEq, Repr

/-- A line in a DX slot or on its way along a lace (R131): its outer address, its bytes, its poison mark; on a lace, the head's stream it
belongs to and whether it is that stream's last. -/
structure DxLine where
  addr   : Int
  bytes  : List Byte
  poison : Bool
  sid    : Nat := 0
  last   : Bool := false
  deriving DecidableEq, Repr

/-- A prefetched stream (R120): the instruction it was prefetched for, by its index and the loop indices it will issue with, the token that it
will signal, the latched descriptor, the slots it holds filled, the lines in them and the next element to read ahead. -/
structure Prefetch where
  idx   : Nat
  iter  : List Nat
  sig   : Option Nat
  d     : Desc
  slots : Nat
  lines : List DxLine
  pos   : Nat
  shadowBase : Bool       -- it took its base from the shadow of DX_PSTREAM_BASE_n (R127)
  deriving DecidableEq, Repr

/-- A core's place in one lace channel (R130 to R134). -/
structure LaceChan where
  cred    : Nat := 0            -- credits held toward the successor
  sent    : Nat := 0            -- lines sent under the credit in use
  transit : List DxLine := []   -- lines sent by the predecessor and not yet landed, oldest first
  held    : List DxLine := []   -- lines landed in slots and not yet written
  drained : Nat := 0            -- lines of the oldest slot already written and sent on
  done    : Nat := 0            -- slots drained whose credit has not yet returned
  granted : Nat := 0            -- credits outstanding toward the predecessor
  cur     : Nat := 0            -- the head's stream whose lines it takes, plus one
  took    : Nat := 0            -- lines of that stream it has taken
  skip    : Nat := 0            -- repeats of that stream still to be discarded after a switch (R134)
  again   : Nat := 0            -- at the head: lines of its stream to be sent again after a switch (R134)
  deriving DecidableEq, Repr

/-- One table of the code expander (R81): its kind (0 CB4 E4M3, 1 CB4 BF16, 2 CB8 E4M3, 3 CB8 BF16), its entries and its poison mark. -/
structure Table where
  kind    : Nat
  entries : List Nat
  res     : List Nat              -- the residue of each entry's significand, stored as it loads (R81)
  poison  : Bool
  deriving DecidableEq, Repr

/-- One merge buffer entry (R156): a word offset in SRAM, its byte mask and bytes. -/
structure MergeEntry where
  word : Nat
  mask : BitVec 8
  bytes : Word
  deriving DecidableEq, Repr

/-- A pending or landed check-bit injection (R157). -/
structure Injection where
  word : Nat
  mask : BitVec 8
  deriving DecidableEq, Repr

/-- The hub SRAM's words and lines (R154 to R158): the armed check-bit mask, words that hold an injected error, lines valid and poisoned, words
corrected once since warm reset, words to be remapped when next written, and the remapped words of each bank. -/
structure HubSram where
  pend    : BitVec 8 := 0
  flipped : List Injection := []
  valid   : NatSet := []
  poison  : NatSet := []
  ceOnce  : NatSet := []
  lost    : NatSet := []
  remap   : Sparse (List Nat) := []
  deriving DecidableEq, Repr

/-- A core of the device (R18): sequencer, DX, MX, VX and SRAM-control state that no register holds. -/
structure Core where
  run      : RunState := .idle
  held     : Option Held := none
  index    : Nat := 0
  codeBase : Nat := 0
  codeLen  : Nat := 0
  levels   : List Level := []              -- active levels, innermost first
  ctr      : Sparse (BitVec 32) := []      -- C0 to C15
  cmp      : BitVec 8 := 0                 -- K0 to K7
  agBase   : Sparse (BitVec 48) := []      -- A0 to A31
  agInc    : Sparse (BitVec 32) := []      -- increment of generator g at level l, key 8 g + l
  tok      : Sparse Nat := []              -- T0 to T63
  sigs     : Nat := 0                      -- token ledger: units applied since step entry
  takes    : Nat := 0                      -- units taken since step entry
  icache   : Sparse (List Nat) := []       -- cached lines of each of 256 sets, most recently used first (R167)
  queue    : List Queued := []             -- engine instructions not yet started, in issue order
  busy     : List Busy := []               -- started and not yet retired, in start order
  ended    : Bool := false                 -- END has retired in this step
  streams  : List Stream := []
  nextStream : Nat := 0
  prefetch : List Prefetch := []
  filled   : Nat := 0                      -- DX slots filled (R118)
  draining : Nat := 0                      -- DX slots draining
  lace     : Sparse LaceChan := []         -- by channel
  tables   : Sparse Table := []
  mxArmed  : NatSet := []                  -- arrays whose next tile takes the injected residue (R90)
  vxArmed  : Bool := false
  flipPend : Sparse (BitVec 8) := []       -- latched masks of pending flip arms, by bank group (R157)
  flipped  : List Injection := []          -- words now holding an injected error
  merge    : List MergeEntry := []
  ceOnce   : NatSet := []                  -- words corrected once since warm reset (R158)
  lost     : NatSet := []                  -- words found uncorrectable, to be remapped once written (R158)
  remap    : Sparse (List Nat) := []       -- remapped words of each bank
  stalled  : Bool := false                 -- stall_all raised for this stoppage (R181)
  kept     : Bool := false                 -- its job has ended in a partition of an enabled binding: not in the pool (R221)
  job      : Option NHdr := none
  deriving DecidableEq, Repr

/-! ### Jobs, partitions and programs (chapter 14, R185 to R188, R361) -/

/-- A loaded program (R187): where it lies and its step table (entry index, declared energy in microjoules). -/
structure Program where
  nsid   : Nat
  index  : Nat
  part   : Nat
  base   : Nat
  len    : Nat
  data   : Nat
  dataLen : Nat
  ncores : Nat
  flags  : Nat
  steps  : List (Nat × Nat)
  active : Bool
  deriving DecidableEq, Repr

/-- Where a job stands. -/
inductive JobPhase where
  | waiting          -- not yet placed
  | needEntry        -- placed; a serving or frame job between steps, awaiting its next step's entry
  | queued           -- its step stands in the partition's admission FIFO
  | running
  | ended            -- its step has ended, awaiting the stewards
  | stopping         -- being switched out
  | out              -- switched out, its context saved
  | loading          -- being switched in
  | dying            -- cancelled or failed, its cores not yet idle (R481)
  deriving DecidableEq, Repr

/-- Why a job fails, in the ranking of R434, with the NVMe status it completes with. -/
inductive FailCause where
  | aborted | weightPoison | setIncomplete | poisoned | energyDecl | fieldError
  deriving DecidableEq, Repr

/-- A job (R361). Energies are in microjoules. -/
structure Job where
  n       : NHdr
  part    : Nat
  prog    : Program
  serving : Bool
  rings   : Nat              -- bit r: bound to frame ring r
  seed    : Word
  argBase : Nat
  argLen  : Nat
  phase   : JobPhase := .waiting
  back    : JobPhase := .running   -- what it was doing when it was switched out
  cores   : List Nat := []
  step    : Nat := 0
  declared : Nat := 0
  reserved : Nat := 0        -- unspent reservation of the running step
  spent   : Nat := 0
  poison  : Bool := false
  incomplete : Bool := false         -- its poison came from a collective over an incomplete set (R361)
  ending  : Nat × Nat := (0, 0)      -- the status a dying job completes with
  stepNo  : Nat := 0         -- steps run by a serving job
  batch   : Nat := 0         -- entries of its last batch table
  stalled : Bool := false    -- no request of its batch could run, and none has ended since (R267)
  frames  : List Nat := []   -- rings whose accepted frames await or run their step, in order of acceptance (R272)
  switchSeq : Nat := 0       -- order of switching out
  deriving DecidableEq, Repr

/-- An entry of a partition's admission FIFO (R47, R217). -/
inductive FifoEntry where
  | step (n : NHdr) (declared : Nat)
  | pres (n : Option NHdr) (core : Nat) (declared : Nat) (addr : Nat)
  deriving DecidableEq, Repr

/-- A core's saved context (R406): the core, its live and shadow boundary fields, its valid SRAM lines and their poison marks. -/
structure SavedCtx where
  job    : NHdr
  core   : Nat
  saved  : Core
  regs   : List (Nat × Word)
  shadow : List (Nat × Word)
  valid  : NatSet
  poison : NatSet
  bytes  : List Host.Cell
  deriving DecidableEq, Repr

/-- A reserved run of program memory. -/
inductive AllocKind where
  | code | data | args | memNs
  deriving DecidableEq, Repr

structure Alloc where
  part : Nat
  base : Nat
  size : Nat
  kind : AllocKind
  key  : Nat                 -- nsid and program index, or the job's identifier
  deriving DecidableEq, Repr

/-! ### Power (chapter 02) -/

/-- What the power block keeps beside its registers. Ratios run 1 to 16 (R57). -/
structure Power where
  capW : Nat := 16
  capE : Nat := 16
  thermW : Nat := 16
  thermE : Nat := 16
  droopW : Nat := 16
  droopE : Nat := 16
  alert : Nat := 16
  wireLow : Bool := false     -- PWR_ALERT_N low
  sledLow : Bool := false     -- SLED_ALERT_N low
  highCount : Nat := 0        -- consecutive samples with the wire high
  alertHold : Bool := false   -- media issue gate closed by the alert
  belowW : Bool := false
  belowE : Bool := false
  holdW : Bool := false       -- droop hold interval running
  holdE : Bool := false
  debitW : Nat := 0           -- droop events awaiting their debit (R61)
  debitE : Nat := 0
  therm105 : Bool := false
  flash80 : Bool := false
  flash85 : Bool := false
  tripped : Bool := false
  rawFj : Nat := 0            -- raw event energy since the last sample
  estRem : Nat := 0           -- R53
  inPeriod : Nat := 0         -- samples taken in the current period
  calHit : Bool := false
  gate   : Nat := 0           -- how often a hold or a limit on flash programs has come into force (R56, R58, R61)
  deriving DecidableEq, Repr

/-! ### Weight range (R143 to R150) -/

structure Attachment where
  nsid : Nat
  base : Nat
  pages : Nat
  deriving DecidableEq, Repr

structure WeightState where
  attached : List Attachment := []
  heat     : Sparse Nat := []
  resident : NatSet := []
  copying  : NatSet := []
  frame    : List (Nat × Nat) := []   -- the frame of each resident or copying page, frame 0 the highest 2 MiB of the pool
  poisoned : NatSet := []
  wholeNs  : NatSet := []          -- name spaces wholly poisoned (list full)
  limitAfter : Option Nat := none  -- DRAM_LIMIT to take effect at the next boundary after zeroing
  deriving DecidableEq, Repr

/-! ### Name spaces and media (chapters 11 and 12) -/

inductive ZoneState where
  | empty | implicitlyOpen | explicitlyOpen | closed | full | offline
  deriving DecidableEq, Repr

structure Zone where
  st   : ZoneState := .empty
  wp   : Nat := 0                  -- blocks written from the zone's start
  sb   : Option Nat := none        -- media-direct: its superblock (R307, R326)
  toErase : List Nat := []         -- its blocks whose erase has not completed (R328)
  deriving DecidableEq, Repr

/-- A name space (R348). `kind` 0 conventional, 1 zoned, 2 media-direct, 3 weight, 4 index, 5 compute, 6 memory. -/
structure Nspace where
  kind  : Nat
  part  : Nat := 255
  lbas  : Nat := 0
  data  : List Host.Cell := []
  mapped : NatSet := []            -- mapped 16 KiB units (R317)
  lost  : NatSet := []             -- logical blocks with the lost mark, or recorded poisoned
  zones : Sparse Zone := []
  ctrls : NatSet := []             -- controllers it is attached to
  base  : Nat := 0                 -- kind 6: its DRAM address
  bytes : Nat := 0
  keyGen : Nat := 0                -- media key generation (R351)
  deferOn : NatSet := []           -- controllers that owe a deferred write error (R365)
  ppa   : Sparse Nat := []         -- the map of R317: the PPA, plus one, of the flash page that holds a unit; unlisted, none does
  deriving DecidableEq, Repr

inductive BlkUse where
  | good | open_ | closed | erasing | suspended | bad
  deriving DecidableEq, Repr

/-- A flash block's page slots, 3,072 in all (R329), and what it is doing. Keyed by global die, plane and block. -/
structure Blk where
  use   : BlkUse := .good
  slc   : Bool := false
  next  : Nat := 0                 -- next page to program (R310)
  valid : Nat := 0
  invalid : Nat := 0
  bad   : Nat := 0
  parity : Nat := 0
  lost  : Nat := 0
  erases : Nat := 0
  deriving DecidableEq, Repr

structure Die where
  retired : Bool := false
  grown   : Nat := 0
  progFail : Nat := 0
  eraseFail : Nat := 0
  corrected : Nat := 0
  retried : Nat := 0
  uncorr  : Nat := 0
  readAround : Nat := 0
  reads   : Nat := 0
  aroundAt : List Nat := []        -- which of its last 65,536 reads were read around, by number (R336)
  gate    : Nat := 0               -- the power block's count of holds when it last reported a program
  deriving DecidableEq, Repr

structure Chan where
  fails : Nat := 0
  down  : Bool := false
  reads : Nat := 0
  writes : Nat := 0
  retrains : Nat := 0
  deriving DecidableEq, Repr

/-- Who waits for a write to a media-direct zone: a host command with its completion, or a core's media request at an SRAM offset. -/
inductive WriteOwner where
  | host (n : NHdr) (dw0 dw1 : Nat)
  | core (c o : Nat) (alba : Option Nat)
  deriving DecidableEq, Repr

/-- A write to zone `z` of a media-direct name space, not yet complete: `n` logical blocks from block `lo` of the zone (R327). -/
structure ZoneWrite where
  no   : Nat
  nsid : Nat
  z    : Nat
  lo   : Nat
  n    : Nat
  owner : WriteOwner
  deriving DecidableEq, Repr

structure Media where
  blks  : Sparse Blk := []
  dies  : Sparse Die := []
  chans : Sparse Chan := []
  around : NatSet := []            -- pages whose read-around runs beside their own read (R323)
  repl  : Sparse Nat := []         -- the block that stands in for a retired member of its superblock (R307)
  bufCapMiB : Nat := 2048          -- protected write buffer cap (R476)
  capNext   : Nat := 2048          -- the cap that takes effect once the buffer has drained below it (R476)
  lifeOver  : Bool := false        -- Percentage Used has exceeded 100 (R334)
  fresh : NatSet := []             -- units that a host wrote, in the protected write buffer and not yet programmed (R318)
  moved : NatSet := []             -- units that the translation layer moves, in the buffer and not yet programmed
  held  : NatSet := []             -- QLC pages, by PPA, whose data stay in the buffer until they are read back (R311)
  maps  : Sparse Nat := []         -- the PPA, plus one, of the flash page that holds a map page (R317)
  mapDirty : NatSet := []          -- map pages changed since they were last programmed
  cache : List Nat := []           -- the map cache: map pages, most recently used first
  journal : Nat := 0               -- map updates in the journal's tail, not yet programmed
  writes : List ZoneWrite := []    -- writes to media-direct zones not yet complete, oldest first
  writeNo : Nat := 0
  rebuilt : NatSet := []           -- pages, by PPA, that a read-around has delivered while their die erases (R323)
  holdupLow : Bool := false        -- SMART bit 4
  hurt  : Bool := false            -- SMART bit 2: a die or channel retired or a page lost
  errors : Nat := 0                -- Media and Data Integrity Errors
  refreshQ : NatSet := []          -- blocks scheduled for refresh
  eraseQ : NatSet := []            -- blocks of no zone that await their erase (R313)
  dumped : Bool := false           -- the dump area holds a flush awaiting mount
  dumpBad : Bool := false          -- a dump page failed its program (R331)
  powerCut : Bool := false         -- the last flush was a loss of input: unsettled groups are settled at mount (R328, R330)
  mounted : Bool := false
  deriving DecidableEq, Repr

/-! ### Host interface (chapter 12) -/

structure Queue where
  qid  : Nat
  size : Nat
  cqid : Nat := 0
  tail : Nat := 0
  head : Nat := 0                  -- submission: next entry to fetch; completion: the host's head
  deriving DecidableEq, Repr

structure Ctrl where
  enabled : Bool := false
  ready   : Bool := false
  cfs     : Bool := false
  sqs     : List Queue := []
  cqs     : List Queue := []
  feats   : Sparse (BitVec 32) := []
  aers    : List (BitVec 16) := []
  online  : Bool := true
  resources : Nat := 0
  deriving DecidableEq, Repr

/-- A host window (R343), in device-window offsets and bus addresses, bytes. -/
structure HostWin where
  ctrl : Nat
  win  : Nat
  start : Nat
  len  : Nat
  bus  : Nat
  deriving DecidableEq, Repr

/-- A Set Host Window that waits for the period boundary (R355): the window it sets, `len` 0 to disable. -/
structure WinSet where
  n : NHdr
  w : HostWin
  deriving DecidableEq, Repr

structure Completion where
  n    : NHdr
  sct  : Nat
  sc   : Nat
  dw0  : Nat := 0
  dw1  : Nat := 0
  data : List Byte := []
  deriving DecidableEq, Repr

/-- A memory write sent through a host window (R343): bus address, bytes, the EP mark of R159. -/
structure BusWrite where
  addr   : Nat
  bytes  : List Byte
  poison : Bool
  deriving DecidableEq, Repr

/-- One entry of log page 0xD2 (R366). -/
structure LostEntry where
  nsid : Nat
  reason : Nat
  slba : Nat
  nlb  : Nat
  stamp : Nat
  deriving DecidableEq, Repr

/-- The module's power state (R367): the operational state it is in or returns to, and where it stands on the way to PS3 or PS4. -/
inductive PsPhase where
  | operational | entering (ps : Nat) | low (ps : Nat) | exiting
  deriving DecidableEq, Repr

structure HostState where
  ctrls : Sparse Ctrl := []
  wins  : List HostWin := []
  winSets : List WinSet := []
  out   : List Completion := []     -- completions posted, oldest first
  bus   : List BusWrite := []       -- memory writes sent, oldest first
  raised : NatSet := []             -- asynchronous events raised and not re-armed (R364)
  queuedEv : List Nat := []         -- events with no outstanding request yet
  d2    : List LostEntry := []
  d2over : Bool := false
  d2gen : Nat := 0
  persist : List (Nat × NHdr) := [] -- Persistent Event log: compute name space and command of each lost job (R369)
  stamp : Nat := 0                  -- NVMe Timestamp in ms
  stampRem : Nat := 0               -- PCLK counted toward its next millisecond (R40)
  origin : Bool := false            -- set by the host since power-on
  ps    : Nat := 0
  psPhase : PsPhase := .operational
  psWait : List NHdr := []          -- Set Features commands that complete at the boundary
  delayed : List Instr := []        -- commands accepted during entry (R367)
  stalled : List Instr := []        -- media commands that wait for a free block, an erase or a rein (R315, R328, R400)
  sanitizing : Bool := false
  refusedImg : List (Nat × Nat) := []   -- compute name space and program index of images refused under R186 and not replaced since
  ranges : Sparse (List (BitVec 32 × Nat × Nat)) := []   -- memory range sets
  sanitized : Bool := false         -- a Sanitize has completed
  healthSeen : Nat := 0             -- the Critical Warning that the last Subsystem Health Status poll returned (SMB_ALERT_N, R471)
  mi    : List (Nat × List Byte) := []   -- NVMe-MI responses sent, oldest first: status and data
  miCfg : Sparse (BitVec 32) := []  -- NVMe-MI configurations set
  tests : Nat := 0
  deriving DecidableEq, Repr

/-! ### Harness and reductions (chapter 08) -/

/-- A record on the harness lane: its lines with their poison marks. -/
abbrev LaneRec := List (List Byte × Bool)

/-- A harness ring (R226, R228): the sender's credits and record count, the records on the lane, and how many records have landed in slots,
how many of them have been consumed, and the freed slots whose credit has not yet returned. Record m lies in slot m mod slots. -/
structure Ring where
  credits : Nat := 0
  seq   : Nat := 0
  lane  : List LaneRec := []
  part  : Nat := 0                  -- lines landed of the record a remote sender is sending
  arrived : Nat := 0
  taken : Nat := 0
  freed : Nat := 0
  deriving DecidableEq, Repr

/-- Lines with their poison marks. -/
abbrev MarkedLines := List (List Byte × Bool)

/-- An instance of a bucket at its reducer (R242): the reduction slot `j`, 16 + the group where none applies. -/
structure RInst where
  j      : Nat
  grp    : Nat
  op     : Nat
  bucket : Nat
  inst   : Nat
  n      : Nat               -- lines of the whole collective
  got    : NatSet
  sum    : MarkedLines
  closed : Bool
  deriving DecidableEq, Repr

/-- A carry held for a bucket (R243). -/
structure Carry where
  j : Nat
  bucket : Nat
  lines : MarkedLines
  deriving DecidableEq, Repr

structure Harness where
  rings : Sparse Ring := []          -- key 8 b + n
  reserved : NatSet := []            -- registers of the block whose last write held a reserved value (R226)
  insts : List RInst := []
  carries : List Carry := []
  late  : List (Nat × Nat × Nat × Nat) := []   -- awaited late contributions carried: j, bucket, inst, member
  lateDrop : List (Nat × Nat × Nat × Nat) := []
  deriving DecidableEq, Repr

/-! ### Serving and frames (chapter 09) -/

inductive BlkSt where
  | free | tail (fill : Nat) | sealed | escrow
  deriving DecidableEq, Repr

/-- A KV block (R255). A sealed block keeps its chain hash, predecessor, variant and tokens; `owner` is a private tail's or escrow's request. -/
structure KvBlk where
  st    : BlkSt := .free
  refs  : Nat := 0
  released : Nat := 0                -- order of release, for reclaim
  hash  : Nat := 0
  pred  : Option Nat := none
  variant : Nat := 0
  tokens : List (BitVec 32) := []
  listed : Bool := false             -- in the lookup table
  deriving DecidableEq, Repr

/-- A serving request (R251) and its progress. -/
structure Request where
  n     : NHdr
  job   : NHdr
  tag   : BitVec 32
  variant : Nat
  mainPool : Nat
  draftPool : Nat
  promptLen : Nat
  maxNew : Nat
  seed  : Word
  invTemp : F32
  draftLen : Nat
  window : Nat
  floor : Nat
  flags : Nat
  retryAfter : Nat
  endToken : BitVec 32
  tokens : Nat
  admitted : Bool := false
  mblks : List Nat := []             -- main pool blocks by position / 64
  dblks : List Nat := []
  p     : Nat := 0                   -- first position the main model computes
  pd    : Nat := 0
  emitted : Nat := 0
  confirmed : Nat := 0
  mode  : Nat := 0                   -- mode in the current step: 0 prefill, 1 plain, 2 speculative
  d     : Nat := 0
  inStep : Bool := false
  spec  : Bool := true               -- speculation not switched off
  plain : Nat := 0                   -- plain steps since a switch
  hist  : List (Nat × Nat) := []     -- (d, a) of the last verification steps
  verif : Nat := 0
  sumD  : Nat := 0
  sumA  : Nat := 0
  switches : Nat := 0
  seat  : Nat := 0                   -- its entry in the batch table of the current step
  stop  : Nat := 0                   -- 0 live, 1 to pause, 2 to abort at the next step end
  deriving DecidableEq, Repr

structure Frame where
  n     : NHdr
  slot  : Nat
  frame : Word
  spent0 : Option Nat := none        -- the job's energy when its step began, once it has (R360)
  deriving DecidableEq, Repr

structure FrameRing where
  job   : Option NHdr := none
  pend  : List Frame := []
  run   : Option Frame := none
  param : Word := 0
  bound : Nat := 0
  deriving DecidableEq, Repr

structure Serving where
  pools : Sparse (Sparse KvBlk) := []
  reqs  : List Request := []
  frames : Sparse FrameRing := []
  relSeq : Nat := 0
  deriving DecidableEq, Repr

/-! ### Vector search (chapter 10) -/

structure Idx where
  nsid  : Nat
  filters : List Nat := []
  waiting : List Instr := []          -- Update, Advance and Compact commands waiting (R294)
  staged : List (Nat × Byte) := []    -- staged writes to the name space, by byte offset, not yet current
  closer : Option NHdr := none
  deriving DecidableEq, Repr

/-- This module's part in a sharded search, as coordinator or as another member, known by the group and instance of its CLEAR (R298). -/
structure Ask where
  grp   : Nat
  inst  : Nat
  n     : Option NHdr                 -- the coordinator's Search command, until it completes
  tags  : NatSet                      -- the transactions that carry the query to the other members
  q     : Nat
  e     : Nat
  bound : Bool                        -- the epoch is bound until this module's part ends (R293, R299)
  k     : Nat
  walk  : Nat                         -- the status of the walk here
  spent : Nat                         -- energy charged to the query here, in microjoules (R360)
  deriving DecidableEq, Repr

structure SearchState where
  idx : Sparse Idx := []
  asks : List Ask := []               -- sharded searches under way (R298)
  deriving DecidableEq, Repr

/-! ### Girth (chapter 13) -/

/-- A flit on its way out, with the job that its energy is charged to, if one sent it (R49, R52). -/
structure OutFlit where
  f   : Flit
  job : Option NHdr := none
  at_ : Option Nat := none
  via : Option (Nat × Nat) := none   -- the input buffer that a forwarded flit still holds: link key, channel (R378)
  deriving DecidableEq, Repr

structure Link where
  credits : List Nat := [16, 16, 16, 16]
  txSeq : BitVec 12 := 0
  rxSeq : BitVec 12 := 0              -- next sequence expected
  replay : List OutFlit := []
  fails : Nat := 0                    -- successive replays
  retrainFails : Nat := 0
  nakSent : Bool := false
  owed  : List Nat := [0, 0, 0, 0]    -- credits to return to the sender
  deriving DecidableEq, Repr

/-- An outstanding GX transaction of a core (R384). -/
structure Txn where
  tag   : Nat
  core  : Nat
  get   : Bool
  peer  : Nat
  loc   : Nat
  remote : Nat
  lines : Nat
  got   : NatSet
  deriving DecidableEq, Repr

/-- A contribution line that has arrived at its reducer before the rest of its contribution. -/
structure PartLine where
  grp : Nat
  inst : Nat
  member : Nat
  line : Nat
  bytes : List Byte
  poison : Bool
  deriving DecidableEq, Repr

/-- A collective this module takes part in (R390). -/
structure Coll where
  grp   : Nat
  inst  : Nat
  op    : Nat
  core  : Nat
  ags   : Nat
  agd   : Nat
  n     : Nat
  from_ : NatSet                     -- members whose lines have arrived
  acc   : List PartLine              -- CLEAR: list lines received
  due   : NatSet                     -- result lines (CLEAR: member * 2^32 + line) still due
  ms    : List Nat                   -- the group's members as the instruction found them at its issue (R31)
  root  : Nat                        -- BCAST: the member that sends
  search : Bool                      -- the CLEAR of a sharded search, whose lists the search program holds (R298)
  deriving DecidableEq, Repr

structure Girth where
  links : Sparse Link := []          -- key 6 port + link
  sent  : List (Nat × Flit) := []    -- flits sent on each link, oldest first
  txns  : List Txn := []
  colls : List Coll := []
  instNo : Sparse Nat := []          -- next instance of each group
  early : List Flit := []            -- collective flits whose local GXCOLL has not issued
  nextTag : Nat := 0
  outq : Sparse (List OutFlit) := []    -- flits waiting at each output port, oldest first
  rx : List (Nat × Nat × Nat) := []  -- PUTs arriving: source module, tag, lines written
  part : List PartLine := []
  notices : List (Nat × Nat × Nat) := []   -- notices seen: module, port, sequence
  downKnown : List (Nat × Nat) := [] -- required ports known down: module, port
  isolated : List (Nat × Nat) := []  -- those of them known isolated (R386, R388)
  noticeSeq : Nat := 0
  deriving DecidableEq, Repr

/-! ### Guard, start-up and identity (chapters 16 and 17) -/

/-- A firmware slot's package, as the guard reads it (R443). -/
structure FwPkg where
  valid : Bool
  svn   : Nat
  keySlot : Nat
  advance : Bool
  frs   : List Byte
  comps : List (List Byte)           -- components of types 1 to 4, in order
  deriving DecidableEq, Repr

structure LogEntry where
  index : Nat
  part  : Nat
  program : Nat
  nsid  : Nat
  m     : List Byte
  deriving DecidableEq, Repr

/-- Fuses and other facts fixed at manufacture (R1, R91, R440, R446). -/
structure Fuses where
  grade : Nat := 0                   -- 0 D, 1 Q, 2 A
  serial : Word := 0
  svn   : Nat := 0
  revoked : BitVec 4 := 0
  keyHash : List (List Byte) := []
  uds   : List Byte := []            -- the unique device secret, 32 bytes (R441)
  bypass : Sparse (BitVec 128) := [] -- bypassed columns of array a of core c, key 4 c + a
  factoryBad : Sparse Nat := []      -- factory-bad blocks of each die
  deriving DecidableEq, Repr

structure SpdmConn where
  version : Bool := false
  caps  : Bool := false
  algs  : Bool := false
  chunks : List Byte := []           -- a large request, as far as its chunks have come
  nextChunk : Nat := 0
  large : List Byte := []            -- a large response, as far as it has not been fetched
  nextGet : Nat := 0
  deriving DecidableEq, Repr

/-- A response of the SPDM responder (R451, R452). -/
inductive SpdmResp where
  | version (v : Nat)
  | capabilities (cert chal meas measFresh chunk : Bool) (transfer maxMsg : Nat)
  | algorithms (hashSel measHash measSpec asymSel extId : Nat)
  | digests (slotMask : Nat) (digest : List Byte)
  | certificate (slot : Nat) (bytes : List Byte) (remainder : Nat)
  | challengeAuth (slot : Nat) (chainHash : List Byte) (nonce : List Byte) (sig : List Byte)
  | measurements (blocks : List (Nat × List Byte)) (nonce : List Byte) (sig : List Byte)
  | chunkAck (seq : Nat)
  | chunk (seq : Nat) (bytes : List Byte) (last : Bool)
  | doeDiscovery (vendor typ next : Nat)
  | error (code : Nat)
  deriving DecidableEq, Repr

structure SpdmOut where
  t : Transport
  r : SpdmResp
  deriving DecidableEq, Repr

/-- Where start-up or reset stands (R454, R457). -/
inductive Phase where
  | unpowered | starting | up | resetting | losing
  deriving DecidableEq, Repr

structure Guard where
  phase : Phase := .unpowered
  perst : List Bool := [true, true]  -- PERST#n asserted
  pwrDis : Bool := false
  vinLow : Bool := false
  leak  : Bool := false
  noImage : Bool := false
  step3 : Bool := false              -- DRAM training has ended
  step4 : Bool := false              -- a port has presented its configuration space: the module operates (R473)
  slots : List FwPkg := []
  running : Nat := 1                 -- slot running
  next  : Nat := 1                   -- slot to run at the next reset
  dl    : List Host.Cell := []       -- downloaded package bytes
  dlLen : Nat := 0
  meas  : Sparse (List Byte) := []   -- running digests by index
  log   : List LogEntry := []
  conns : Sparse SpdmConn := []
  spdm  : List SpdmOut := []         -- responses sent, oldest first
  pendResp : List (Nat × SpdmResp) := []  -- Security Send responses not yet received, by port
  transcript : Nat := 0
  dramBad : Bool := false            -- a DRAM stack failed training at this start (R456)
  mountBad : Bool := false           -- the mount of this start failed (R456)
  burns : Nat := 0                   -- fuses of the anti-rollback counter tried (R446)
  pk    : List Byte := []            -- the device key pair, derived at every guard boot (R441)
  sk    : List Byte := []
  deriving DecidableEq, Repr

/-! ### Daybook (R411 to R420) -/

structure DbkRec where
  source : Nat
  refire : Bool
  redelivered : Bool
  seqKind : Nat
  info  : BitVec 32
  seq   : Word
  deriving DecidableEq, Repr

structure Daybook where
  rings : Sparse (List DbkRec) := []  -- unread records of each steward, oldest first
  on    : Sparse Nat := []            -- steward + 1 on which an active source's record was put
  refire : NatSet := []
  redel : NatSet := []
  reg   : Sparse Nat := []            -- the fault register whose bit last fired each fault source (R414's info)
  deriving DecidableEq, Repr

/-! ### The state -/

structure State where
  pending : List Instr
  fuse    : Fuses
  regs    : List (Nat × Word)
  shadow  : List (Nat × Word)
  mem     : List Host.Cell           -- SRAM windows, DRAM and, from 2^47, nothing: device byte addresses
  valid   : NatSet                   -- valid SRAM lines, by device address / 64 (R155)
  poison  : NatSet                   -- poisoned SRAM and DRAM lines, by device address / 64
  scrubAt : Nat                      -- next DRAM line to scrub (R153)
  cores   : Sparse Core
  jobs    : List Job
  fifo    : Sparse (List FifoEntry)  -- admission FIFO of each partition
  purseFrac : Sparse Nat             -- fraction of a fJ, in 2^-14 fJ, beside PURSE_RESIDUE (R53)
  programs : List Program
  allocs  : List Alloc
  saved   : List SavedCtx
  switchSeq : Nat
  power   : Power
  weight  : WeightState
  nss     : Sparse Nspace
  media   : Media
  host    : HostState
  harness : Harness
  serving : Serving
  search  : SearchState
  girth   : Girth
  guard   : Guard
  daybook : Daybook
  hub     : HubSram
  free    : Nat                      -- the MODEL's own counter behind Config's free values; no part of the device
  deriving DecidableEq, Repr

/-- Reasons the machine stops with a fault. The spec stops this device nowhere (every error is a status, a mark or a sticky bit, R432),
so no command raises it; safe. -/
inductive Fault where
  | unreachable   -- raised by nothing: kept because a closed type of reasons is asked for; safe
  deriving DecidableEq, Repr

/-- Reasons a command has no meaning here. -/
inductive Refusal where
  | notModelled (mnemonic : String)   -- raised by exec's arms for a command not modelled yet; safe
  deriving DecidableEq, Repr

/-- The package that manufacture leaves in both firmware slots: valid, security version 0, key slot 0; its contents are free values. -/
def FwPkg.factory : FwPkg := { valid := true, svn := 0, keySlot := 0, advance := false, frs := [], comps := [] }

/-- The module at power-on reset, before power good (R454, R460): every register at its reset value, memory with nothing listed, no
controller enabled. The fused facts and the firmware slots are manufacture's, at the values the log names. -/
def State.reset : State :=
  { pending := [], fuse := { keyHash := (List.range 4).map Config.keyHash, uds := (List.range 32).map (Config.secretByte 99 0) }, regs := [], shadow := [], mem := [], valid := [], poison := [], scrubAt := 0, cores := [], jobs := [],
    fifo := [], purseFrac := [], programs := [], allocs := [], saved := [], switchSeq := 0, power := {}, weight := {}, nss := [],
    media := {}, host := {}, harness := {}, serving := {}, search := {}, girth := {}, guard := { slots := [FwPkg.factory, FwPkg.factory] }, daybook := {}, hub := {},
    free := 0 }

end Sys2Proof.Machine
end

