-- ==== Sys2Proof/Machine/Sparse.lean ====
section
/-! DEFINITION. Machine/Sparse.lean: reading and writing a sparse map, a set of numbers, and the bit fields of a 64-bit register. Every map of
the state is one sorted list without repeats, in which no entry equals what an unlisted key reads as; these operations keep that form. -/

namespace Sys2Proof.Machine

open Sys2Proof

variable {α : Type}

/-- The value at key `k`, `d` when unlisted. -/
def sget (d : α) : List (Nat × α) → Nat → α
  | [], _ => d
  | (j, v) :: r, k => if j = k then v else sget d r k

/-- The map without key `k`. -/
def sdel (m : List (Nat × α)) (k : Nat) : List (Nat × α) := m.filter (fun e => e.1 != k)

/-- The map with key `k` at `v`, in its place in the order. -/
def sins : List (Nat × α) → Nat → α → List (Nat × α)
  | [], k, v => [(k, v)]
  | (j, u) :: r, k, v =>
    if k < j then (k, v) :: (j, u) :: r
    else if j = k then (k, v) :: r
    else (j, u) :: sins r k v

/-- A write: the default removes the entry. -/
def sput [DecidableEq α] (d : α) (m : List (Nat × α)) (k : Nat) (v : α) : List (Nat × α) :=
  if v = d then sdel m k else sins m k v

/-- The canonical form: keys strictly rising, and no entry at the default. -/
def swf [DecidableEq α] (d : α) : List (Nat × α) → Bool
  | [] => true
  | (_, v) :: [] => decide (v ≠ d)
  | (j, v) :: (k, w) :: r => decide (v ≠ d) && decide (j < k) && swf d ((k, w) :: r)

/-- The number put into a set kept strictly rising. -/
def setAdd : NatSet → Nat → NatSet
  | [], k => [k]
  | j :: r, k => if k < j then k :: j :: r else if j = k then j :: r else j :: setAdd r k

/-- The set without a number. -/
def setDel (m : NatSet) (k : Nat) : NatSet := m.filter (fun j => j != k)

/-- Membership. -/
def setHas (m : NatSet) (k : Nat) : Bool := m.any (fun j => j == k)

/-- The field of `n` bits from bit `lo`. -/
def fld (w : Word) (lo n : Nat) : Nat := (w.toNat >>> lo) % 2 ^ n

/-- Bit `i`. -/
def bit (w : Word) (i : Nat) : Bool := w.getLsbD i

/-- `n` ones from bit `lo`. -/
def mask (lo n : Nat) : Word := BitVec.ofNat 64 ((2 ^ n - 1) <<< lo)

/-- The word with the field of `n` bits from bit `lo` at `v` (taken modulo its width). -/
def setFld (w : Word) (lo n v : Nat) : Word :=
  (w &&& ~~~ mask lo n) ||| BitVec.ofNat 64 ((v % 2 ^ n) <<< lo)

/-- The word with bit `i` at `b`. -/
def setBit (w : Word) (i : Nat) (b : Bool) : Word := setFld w i 1 (if b then 1 else 0)

/-- Indices of the set bits among the lowest `n`, ascending. -/
def bitsOf (n : Nat) (w : Nat) : List Nat := (List.range n).filter (fun i => w.testBit i)

/-- The value of little-endian bytes: R7. -/
def leNat : List Byte → Nat
  | [] => 0
  | b :: r => b.toNat + 256 * leNat r

/-- `n` little-endian bytes of a value: R7. -/
def leBytes : Nat → Nat → List Byte
  | 0, _ => []
  | n + 1, v => BitVec.ofNat 8 (v % 256) :: leBytes n (v / 256)

/-- The two's complement reading of the low `n` bits. -/
def sext (n v : Nat) : Int :=
  let u := v % 2 ^ n
  if u < 2 ^ (n - 1) then (u : Int) else (u : Int) - 2 ^ n

/-- An integer modulo 2^n, as a natural number. -/
def wrapN (n : Nat) (v : Int) : Nat := (v % (2 ^ n : Int)).toNat

/-- The list cut into pieces of `n`; the last may be shorter. `fuel` is the list's length at most. -/
def chunksOf (n : Nat) : Nat → List α → List (List α)
  | 0, _ => []
  | f + 1, l => if l.isEmpty then [] else l.take n :: chunksOf n f (l.drop n)

/-- The list filled up to `n` with `x`, or cut to it. -/
def fitTo (n : Nat) (x : α) (l : List α) : List α := (l ++ List.replicate (n - l.length) x).take n

end Sys2Proof.Machine
end

