-- ==== Sys2Proof/Machine/Regs.lean ====
section
/-! DEFINITION. Machine/Regs.lean: the register space. One offset for every register of the spec (R65, R104, R105, R135, R160, R161, R189,
R246 to R248, R276, R277, R302, R303, R338, R370, R395, R396, R421, R422, R437, R438, R461), and one table row that says which of its
bits are read-write, write-only, and sticky (R9), what it holds at reset, where a write takes effect (R12) and which encodings are
reserved (R11). Offsets are register-space offsets; a core's window begins at `coreWin c` (R138). -/

namespace Sys2Proof.Machine

open Sys2Proof

/-- Where a core's window begins: R138. -/
def coreWin (c : Nat) : Nat := 0x1000000 + c * 0x100000

/-- The Takes effect column of a register (R12, R29, R30); `ro` where no write takes effect. -/
inductive RegScope where
  | ro | imm | instr | period | frame | epoch
  deriving DecidableEq, Repr

/-- A rule on a field's encodings: values outside it are reserved (R11). `range lo w a b`: the field [lo+w-1:lo] is a to b. `zeroOr`: zero
or a to b. `zero lo k`: bits [lo+k-1:lo] are zero. `gc`: the three floors of MEDIA_GC_CTL (R338). -/
inductive FieldRule where
  | range (lo w a b : Nat)
  | zeroOr (lo w a b : Nat)
  | zero (lo k : Nat)
  | gc
  deriving DecidableEq, Repr

/-- What the spec's table says of one register. -/
structure RegInfo where
  scope : RegScope
  rw    : Word
  wo    : Word
  w1    : Word
  reset : Word
  rules : List FieldRule
  deriving DecidableEq, Repr

/-- One row: `n1` registers `s1` apart, each `n2` times `s2` apart, from `base`. -/
structure RegRow where
  base : Nat
  n1 : Nat
  s1 : Nat
  n2 : Nat
  s2 : Nat
  info : RegInfo
  deriving DecidableEq, Repr

/-- Whether `off` is one of the row's registers. -/
def RegRow.has (r : RegRow) (off : Nat) : Bool :=
  let d := off - r.base
  let i := d / r.s1
  let e := d % r.s1
  decide (r.base ≤ off) && decide (i < r.n1) && decide (e / r.s2 < r.n2) && decide (e % r.s2 = 0)

def Reg.GUARD_ID : Nat := 0x0
def Reg.GUARD_SERIAL : Nat := 0x8
def Reg.GUARD_BOOT : Nat := 0x10
def Reg.GUARD_SVN : Nat := 0x18
def Reg.GUARD_RESET : Nat := 0x20
def Reg.GUARD_RESET_CAUSE : Nat := 0x28
def Reg.GUARD_FAULT : Nat := 0x30
def Reg.GUARD_FAULT_CAP : Nat := 0x38
def Reg.GUARD_MEAS_LO (n w : Nat) : Nat := 0x100 + n * 0x40 + w * 0x8
def Reg.GUARD_MEAS_HI (n w : Nat) : Nat := 0x300 + n * 0x40 + w * 0x8
def Reg.GUARD_LOG (e w : Nat) : Nat := 0x4000 + e * 0x50 + w * 0x8
def Reg.PWR_CLK : Nat := 0x10000
def Reg.PWR_CAP : Nat := 0x10008
def Reg.PWR_PERIOD : Nat := 0x10010
def Reg.PWR_SAMPLE : Nat := 0x10018
def Reg.PWR_CAL : Nat := 0x10020
def Reg.PWR_THROTTLE : Nat := 0x10028
def Reg.PWR_THR_COUNT (t : Nat) : Nat := 0x10030 + t * 0x8
def Reg.PWR_ALERT_CTL : Nat := 0x10040
def Reg.PWR_DROOP_CTL : Nat := 0x10048
def Reg.PWR_TEMP : Nat := 0x10050
def Reg.PWR_THERM_CTL : Nat := 0x10058
def Reg.PWR_FAULT : Nat := 0x10060
def Reg.PWR_FAULT_CAP : Nat := 0x10068
def Reg.PWR_EVENT_COUNT : Nat := 0x10070
def Reg.PWR_COEF (i : Nat) : Nat := 0x10100 + i * 0x8
def Reg.PURSE_CTL (p : Nat) : Nat := 0x10200 + p * 0x40
def Reg.PURSE_LEVEL (p : Nat) : Nat := 0x10208 + p * 0x40
def Reg.PURSE_GRANTED (p : Nat) : Nat := 0x10210 + p * 0x40
def Reg.PURSE_SPENT (p : Nat) : Nat := 0x10218 + p * 0x40
def Reg.PURSE_RESERVED (p : Nat) : Nat := 0x10220 + p * 0x40
def Reg.PURSE_RETURNED (p : Nat) : Nat := 0x10228 + p * 0x40
def Reg.PURSE_WAIT (p : Nat) : Nat := 0x10230 + p * 0x40
def Reg.PURSE_RESIDUE (p : Nat) : Nat := 0x10238 + p * 0x40
def Reg.LEDGER_FAULT : Nat := 0x20000
def Reg.LEDGER_FAULT_CAP : Nat := 0x20008
def Reg.LEDGER_IMBAL_LHS : Nat := 0x20010
def Reg.LEDGER_IMBAL_RHS : Nat := 0x20018
def Reg.LEDGER_TEST : Nat := 0x20020
def Reg.LEDGER_SEQ (k : Nat) : Nat := 0x20040 + k * 0x8
def Reg.LEDGER_TOKEN_SIG (c : Nat) : Nat := 0x20100 + c * 0x10
def Reg.LEDGER_TOKEN_TAKE (c : Nat) : Nat := 0x20108 + c * 0x10
def Reg.FAULT_SUM : Nat := 0x30000
def Reg.FAULT_SUM_CORE : Nat := 0x30008
def Reg.FAULT_FIRST : Nat := 0x30010
def Reg.FAULT_DEV : Nat := 0x30018
def Reg.FAULT_DEV_ADDR : Nat := 0x30020
def Reg.FAULT_VIOL_TOTAL : Nat := 0x30028
def Reg.FAULT_RESIDUE_LIMIT : Nat := 0x30030
def Reg.FAULT_QUARANTINE : Nat := 0x30038
def Reg.FAULT_CORE (c : Nat) : Nat := 0x30100 + c * 0x8
def Reg.FAULT_RESIDUE (c : Nat) : Nat := 0x30200 + c * 0x8
def Reg.DBK_CTL : Nat := 0x40000
def Reg.DBK_STATUS : Nat := 0x40008
def Reg.DBK_EOI : Nat := 0x40010
def Reg.DBK_SOFT : Nat := 0x40018
def Reg.DBK_FAULT : Nat := 0x40020
def Reg.DBK_FAULT_CAP : Nat := 0x40028
def Reg.DBK_VIOL_COUNT : Nat := 0x40030
def Reg.DBK_RECORDS : Nat := 0x40038
def Reg.DBK_EN (i : Nat) : Nat := 0x40100 + i * 0x8
def Reg.DBK_PEND (i : Nat) : Nat := 0x40140 + i * 0x8
def Reg.DBK_ACTIVE (i : Nat) : Nat := 0x40180 + i * 0x8
def Reg.DBK_LEVEL (i : Nat) : Nat := 0x401c0 + i * 0x8
def Reg.DBK_ROUTE (i : Nat) : Nat := 0x40200 + i * 0x8
def Reg.DBK_STW (s : Nat) : Nat := 0x40400 + s * 0x20
def Reg.DBK_RING (s : Nat) : Nat := 0x40408 + s * 0x20
def Reg.SCHED_PART (p : Nat) : Nat := 0x50000 + p * 0x40
def Reg.SCHED_REIN (p : Nat) : Nat := 0x50008 + p * 0x40
def Reg.SCHED_GREIN (p : Nat) : Nat := 0x50010 + p * 0x40
def Reg.SCHED_CTX (p : Nat) : Nat := 0x50018 + p * 0x40
def Reg.SCHED_CTXBASE (p : Nat) : Nat := 0x50020 + p * 0x40
def Reg.SCHED_REIN_WAIT (p : Nat) : Nat := 0x50028 + p * 0x40
def Reg.SCHED_SWITCHES (p : Nat) : Nat := 0x50030 + p * 0x40
def Reg.SCHED_SWITCH_FCLK (p : Nat) : Nat := 0x50038 + p * 0x40
def Reg.SCHED_VFMAP (i : Nat) : Nat := 0x50300 + i * 0x8
def Reg.SCHED_CORE_STATE : Nat := 0x50400
def Reg.SCHED_FAULT : Nat := 0x50408
def Reg.SCHED_FAULT_CAP : Nat := 0x50410
def Reg.SCHED_DEFER_FCLK : Nat := 0x50418
def Reg.SRV_POOL (q : Nat) : Nat := 0x58000 + q * 0x80
def Reg.SRV_POOL_BASE (q : Nat) : Nat := 0x58008 + q * 0x80
def Reg.SRV_BLK_FREE (q : Nat) : Nat := 0x58010 + q * 0x80
def Reg.SRV_BLK_COMMIT (q : Nat) : Nat := 0x58018 + q * 0x80
def Reg.SRV_BLK_ESCROW (q : Nat) : Nat := 0x58020 + q * 0x80
def Reg.SRV_BLK_CACHED (q : Nat) : Nat := 0x58028 + q * 0x80
def Reg.SRV_LOOKUP (q : Nat) : Nat := 0x58030 + q * 0x80
def Reg.SRV_HIT (q : Nat) : Nat := 0x58038 + q * 0x80
def Reg.SRV_COLLIDE (q : Nat) : Nat := 0x58040 + q * 0x80
def Reg.SRV_RECLAIM (q : Nat) : Nat := 0x58048 + q * 0x80
def Reg.SRV_BLOCK_WAIT (q : Nat) : Nat := 0x58050 + q * 0x80
def Reg.SRV_OVL (p : Nat) : Nat := 0x58800 + p * 0x10
def Reg.SRV_OVL_BASE (p : Nat) : Nat := 0x58808 + p * 0x10
def Reg.SRV_FAULT : Nat := 0x58900
def Reg.SRV_FAULT_CAP : Nat := 0x58908
def Reg.SRV_VIOL_COUNT : Nat := 0x58910
def Reg.SRV_SPEC_SWITCH : Nat := 0x58918
def Reg.FRM_CTL (r : Nat) : Nat := 0x59000 + r * 0x40
def Reg.FRM_BASE (r : Nat) : Nat := 0x59008 + r * 0x40
def Reg.FRM_BOUND (r : Nat) : Nat := 0x59010 + r * 0x40
def Reg.FRM_PARAM (r : Nat) : Nat := 0x59018 + r * 0x40
def Reg.FRM_STATUS (r : Nat) : Nat := 0x59020 + r * 0x40
def Reg.FRM_LAST (r : Nat) : Nat := 0x59028 + r * 0x40
def Reg.FRM_DONE (r : Nat) : Nat := 0x59030 + r * 0x40
def Reg.FRM_OVERRUN (r : Nat) : Nat := 0x59038 + r * 0x40
def Reg.SIDX_STATE (q : Nat) : Nat := 0x5c000 + q * 0x40
def Reg.SIDX_BOUND (q : Nat) : Nat := 0x5c008 + q * 0x40
def Reg.SIDX_DEF (q : Nat) : Nat := 0x5c010 + q * 0x40
def Reg.SIDX_LIVE (q : Nat) : Nat := 0x5c018 + q * 0x40
def Reg.SIDX_TOMB (q : Nat) : Nat := 0x5c020 + q * 0x40
def Reg.SIDX_FREE (q : Nat) : Nat := 0x5c028 + q * 0x40
def Reg.SIDX_DBASE (q : Nat) : Nat := 0x5c030 + q * 0x40
def Reg.SIDX_SHAPE (q : Nat) : Nat := 0x5c038 + q * 0x40
def Reg.SIDX_FAULT : Nat := 0x5c400
def Reg.SIDX_FAULT_CAP : Nat := 0x5c408
def Reg.GIRTH_SET : Nat := 0x100000
def Reg.GIRTH_SET_STATUS : Nat := 0x100008
def Reg.GIRTH_FAULT : Nat := 0x100010
def Reg.GIRTH_FAULT_CAP : Nat := 0x100018
def Reg.GIRTH_VIOL_COUNT : Nat := 0x100020
def Reg.GIRTH_NOTICE : Nat := 0x100028
def Reg.GIRTH_INJECTED : Nat := 0x100040
def Reg.GIRTH_FORWARDED : Nat := 0x100048
def Reg.GIRTH_EJECTED : Nat := 0x100050
def Reg.GIRTH_GROUP (g : Nat) : Nat := 0x100800 + g * 0x8
def Reg.GIRTH_PORT_CTL (g : Nat) : Nat := 0x101000 + g * 0x1000
def Reg.GIRTH_PORT_STATUS (g : Nat) : Nat := 0x101008 + g * 0x1000
def Reg.GIRTH_PORT_WAIT (g : Nat) : Nat := 0x101010 + g * 0x1000
def Reg.GIRTH_LINK_CTL (g l : Nat) : Nat := 0x101100 + g * 0x1000 + l * 0x40
def Reg.GIRTH_LINK_STATUS (g l : Nat) : Nat := 0x101108 + g * 0x1000 + l * 0x40
def Reg.GIRTH_CREDIT (g l : Nat) : Nat := 0x101110 + g * 0x1000 + l * 0x40
def Reg.GIRTH_LINK_CRC (g l : Nat) : Nat := 0x101118 + g * 0x1000 + l * 0x40
def Reg.GIRTH_LINK_REPLAY (g l : Nat) : Nat := 0x101120 + g * 0x1000 + l * 0x40
def Reg.GIRTH_LINK_RETRAIN (g l : Nat) : Nat := 0x101128 + g * 0x1000 + l * 0x40
def Reg.GIRTH_LINK_FLITS (g l : Nat) : Nat := 0x101130 + g * 0x1000 + l * 0x40
def Reg.GX_FAULT (c : Nat) : Nat := 0x107000 + c * 0x40
def Reg.GX_FAULT_CAP (c : Nat) : Nat := 0x107008 + c * 0x40
def Reg.GX_FAULT_PC (c : Nat) : Nat := 0x107010 + c * 0x40
def Reg.GX_VIOL_COUNT (c : Nat) : Nat := 0x107018 + c * 0x40
def Reg.GIRTH_WAIT (m : Nat) : Nat := 0x108000 + m * 0x8
def Reg.MEDIA_GEOM : Nat := 0x200000
def Reg.MEDIA_GC_CTL : Nat := 0x200008
def Reg.MEDIA_RA_CTL : Nat := 0x200010
def Reg.MEDIA_REFRESH_CTL : Nat := 0x200018
def Reg.MEDIA_FREE : Nat := 0x200020
def Reg.MEDIA_SLC : Nat := 0x200028
def Reg.MEDIA_SPARE : Nat := 0x200030
def Reg.MEDIA_LIFE : Nat := 0x200038
def Reg.MEDIA_FAULT : Nat := 0x200040
def Reg.MEDIA_FAULT_CAP : Nat := 0x200048
def Reg.MEDIA_FAULT_ADDR : Nat := 0x200050
def Reg.MEDIA_VIOL_COUNT : Nat := 0x200058
def Reg.MEDIA_PAGE_TOTAL : Nat := 0x200080
def Reg.MEDIA_PAGE_VALID : Nat := 0x200088
def Reg.MEDIA_PAGE_INVALID : Nat := 0x200090
def Reg.MEDIA_PAGE_FREE : Nat := 0x200098
def Reg.MEDIA_PAGE_ERASING : Nat := 0x2000a0
def Reg.MEDIA_PAGE_BAD : Nat := 0x2000a8
def Reg.MEDIA_PAGE_PARITY : Nat := 0x2000b0
def Reg.MEDIA_PAGE_LOST : Nat := 0x2000b8
def Reg.MEDIA_PAGE_SEQ : Nat := 0x2000c0
def Reg.MEDIA_READS : Nat := 0x200100
def Reg.MEDIA_PROGRAMS : Nat := 0x200108
def Reg.MEDIA_ERASES : Nat := 0x200110
def Reg.MEDIA_SUSPENDS : Nat := 0x200118
def Reg.MEDIA_RETRIES : Nat := 0x200120
def Reg.MEDIA_REBUILDS : Nat := 0x200128
def Reg.MEDIA_READ_AROUND : Nat := 0x200130
def Reg.MEDIA_UNCORR : Nat := 0x200138
def Reg.MEDIA_REFRESHES : Nat := 0x200140
def Reg.MEDIA_ERASE_WAIT : Nat := 0x200148
def Reg.MEDIA_WRITE_STALL : Nat := 0x200150
def Reg.DRAM_LIMIT : Nat := 0x280000
def Reg.DRAM_POOL_CTL : Nat := 0x280008
def Reg.PROMO_CTL : Nat := 0x280010
def Reg.PROMO_STATUS : Nat := 0x280018
def Reg.PROMO_IN_COUNT : Nat := 0x280020
def Reg.PROMO_OUT_COUNT : Nat := 0x280028
def Reg.PROMO_HITS : Nat := 0x280030
def Reg.PROMO_MISSES : Nat := 0x280038
def Reg.DRAM_SCRUB_CTL : Nat := 0x280040
def Reg.DRAM_CE_COUNT : Nat := 0x280048
def Reg.DRAM_UE_COUNT : Nat := 0x280050
def Reg.MEM_FAULT : Nat := 0x280058
def Reg.MEM_FAULT_CAP : Nat := 0x280060
def Reg.MEM_FAULT_ADDR : Nat := 0x280068
def Reg.MEM_VIOL_COUNT : Nat := 0x280070
def Reg.WPOISON_COUNT : Nat := 0x280078
def Reg.HUB_SRAM_CTL : Nat := 0x281000
def Reg.HUB_SRAM_FAULT : Nat := 0x281008
def Reg.HUB_SRAM_FAULT_CAP : Nat := 0x281010
def Reg.HUB_SRAM_FAULT_ADDR : Nat := 0x281018
def Reg.HUB_SRAM_CE_COUNT : Nat := 0x281020
def Reg.HUB_SRAM_UE_COUNT : Nat := 0x281028
def Reg.HUB_SRAM_MERGE_STALL : Nat := 0x281030
def Reg.HUB_SRAM_VIOL_COUNT : Nat := 0x281038
def Reg.HUB_SRAM_BANK_CONFLICT : Nat := 0x281040
def Reg.HUB_SRAM_FLIP (g : Nat) : Nat := 0x281080 + g * 0x8
def Reg.HUB_SRAM_REMAP (b : Nat) : Nat := 0x281100 + b * 0x8
def Reg.HOST_PORT (n : Nat) : Nat := 0x300000 + n * 0x8
def Reg.HOST_FAULT : Nat := 0x300010
def Reg.HOST_FAULT_CAP : Nat := 0x300018
def Reg.HOST_FAULT_ADDR : Nat := 0x300020
def Reg.HOST_VIOL_COUNT : Nat := 0x300028
def Reg.HOST_FETCHED : Nat := 0x300030
def Reg.HOST_DEFERRED : Nat := 0x300038
def Reg.HARN_BIND (b : Nat) : Nat := 0x400000 + b * 0x40
def Reg.HARN_TALLY_PROD (b : Nat) : Nat := 0x400008 + b * 0x40
def Reg.HARN_TALLY_CONS (b : Nat) : Nat := 0x400010 + b * 0x40
def Reg.HARN_TALLY_FLIGHT (b : Nat) : Nat := 0x400018 + b * 0x40
def Reg.HARN_TALLY_DISC (b : Nat) : Nat := 0x400020 + b * 0x40
def Reg.HARN_WIN (c : Nat) : Nat := 0x400200 + c * 0x8
def Reg.HARN_RING (b n : Nat) : Nat := 0x400400 + b * 0x80 + n * 0x10
def Reg.HARN_RING_CREDIT (b n : Nat) : Nat := 0x400408 + b * 0x80 + n * 0x10
def Reg.HARN_REDUCE (j : Nat) : Nat := 0x400800 + j * 0x40
def Reg.HARN_CONTRIB_EXP (j : Nat) : Nat := 0x400808 + j * 0x40
def Reg.HARN_CONTRIB_INC (j : Nat) : Nat := 0x400810 + j * 0x40
def Reg.HARN_CONTRIB_CAR (j : Nat) : Nat := 0x400818 + j * 0x40
def Reg.HARN_CONTRIB_DROP (j : Nat) : Nat := 0x400820 + j * 0x40
def Reg.HARN_FAULT : Nat := 0x400c00
def Reg.HARN_FAULT_CAP : Nat := 0x400c08
def Reg.HARN_VIOL_COUNT : Nat := 0x400c10
def Reg.SEQ_CTL (c : Nat) : Nat := coreWin c + 0x0
def Reg.SEQ_STATUS (c : Nat) : Nat := coreWin c + 0x8
def Reg.SEQ_FAULT (c : Nat) : Nat := coreWin c + 0x10
def Reg.SEQ_FAULT_CAP (c : Nat) : Nat := coreWin c + 0x18
def Reg.SEQ_FAULT_PC (c : Nat) : Nat := coreWin c + 0x20
def Reg.SEQ_VIOL_COUNT (c : Nat) : Nat := coreWin c + 0x28
def Reg.SEQ_ISSUED (c : Nat) : Nat := coreWin c + 0x40
def Reg.SEQ_ICACHE_MISS (c : Nat) : Nat := coreWin c + 0x48
def Reg.SEQ_STALL_FETCH (c : Nat) : Nat := coreWin c + 0x50
def Reg.SEQ_STALL_QUEUE (c : Nat) : Nat := coreWin c + 0x58
def Reg.SEQ_STALL_TOKEN (c : Nat) : Nat := coreWin c + 0x60
def Reg.SEQ_BOUNDARY_FCLK (c : Nat) : Nat := coreWin c + 0x68
def Reg.SEQ_TOKEN (c i : Nat) : Nat := coreWin c + 0x80 + i * 0x8
def Reg.SEQ_COUNTER (c n : Nat) : Nat := coreWin c + 0x100 + n * 0x8
def Reg.SEQ_COMPARE (c : Nat) : Nat := coreWin c + 0x180
def Reg.SEQ_CODE (c : Nat) : Nat := coreWin c + 0x188
def Reg.SEQ_CODE_LEN (c : Nat) : Nat := coreWin c + 0x190
def Reg.DX_CTL (c : Nat) : Nat := coreWin c + 0x10000
def Reg.DX_SLOTS (c : Nat) : Nat := coreWin c + 0x10008
def Reg.DX_FAULT (c : Nat) : Nat := coreWin c + 0x10010
def Reg.DX_FAULT_CAP (c : Nat) : Nat := coreWin c + 0x10018
def Reg.DX_FAULT_PC (c : Nat) : Nat := coreWin c + 0x10020
def Reg.DX_VIOL_COUNT (c : Nat) : Nat := coreWin c + 0x10028
def Reg.DX_LINES_IN (c : Nat) : Nat := coreWin c + 0x10040
def Reg.DX_LINES_OUT (c : Nat) : Nat := coreWin c + 0x10048
def Reg.DX_PREFETCH_DROP (c : Nat) : Nat := coreWin c + 0x10050
def Reg.DX_STALL_SLOT (c : Nat) : Nat := coreWin c + 0x10058
def Reg.DX_STARVE (c : Nat) : Nat := coreWin c + 0x10060
def Reg.DX_DRAIN_FCLK (c : Nat) : Nat := coreWin c + 0x10068
def Reg.DX_LACE_WAIT (c : Nat) : Nat := coreWin c + 0x10070
def Reg.DX_LACE_STALL (c : Nat) : Nat := coreWin c + 0x10078
def Reg.DX_LACE_CTL (c l : Nat) : Nat := coreWin c + 0x10080 + l * 0x8
def Reg.DX_LACE_CREDIT (c l : Nat) : Nat := coreWin c + 0x100a0 + l * 0x8
def Reg.DX_PSTREAM_BASE (c n : Nat) : Nat := coreWin c + 0x10100 + n * 0x8
def Reg.MX_ARRAY_WIDTH (c : Nat) : Nat := coreWin c + 0x20000
def Reg.MX_CTL (c : Nat) : Nat := coreWin c + 0x20008
def Reg.MX_TEST (c : Nat) : Nat := coreWin c + 0x20010
def Reg.MX_FAULT (c : Nat) : Nat := coreWin c + 0x20018
def Reg.MX_FAULT_CAP (c : Nat) : Nat := coreWin c + 0x20020
def Reg.MX_FAULT_PC (c : Nat) : Nat := coreWin c + 0x20028
def Reg.MX_TABLE_VALID (c : Nat) : Nat := coreWin c + 0x20030
def Reg.MX_TILES (c : Nat) : Nat := coreWin c + 0x20040
def Reg.MX_SKIP_SLABS (c : Nat) : Nat := coreWin c + 0x20048
def Reg.MX_STALL_OPERAND (c : Nat) : Nat := coreWin c + 0x20050
def Reg.MX_STALL_DRAIN (c : Nat) : Nat := coreWin c + 0x20058
def Reg.MX_RESIDUE_COUNT (c : Nat) : Nat := coreWin c + 0x20060
def Reg.MX_SAT_COUNT (c : Nat) : Nat := coreWin c + 0x20068
def Reg.MX_VIOL_COUNT (c : Nat) : Nat := coreWin c + 0x20070
def Reg.MX_BYPASS_LO (c a : Nat) : Nat := coreWin c + 0x20100 + a * 0x10
def Reg.MX_BYPASS_HI (c a : Nat) : Nat := coreWin c + 0x20108 + a * 0x10
def Reg.VX_TEST (c : Nat) : Nat := coreWin c + 0x30000
def Reg.VX_FAULT (c : Nat) : Nat := coreWin c + 0x30008
def Reg.VX_FAULT_CAP (c : Nat) : Nat := coreWin c + 0x30010
def Reg.VX_FAULT_PC (c : Nat) : Nat := coreWin c + 0x30018
def Reg.VX_RESIDUE_COUNT (c : Nat) : Nat := coreWin c + 0x30020
def Reg.VX_VIOL_COUNT (c : Nat) : Nat := coreWin c + 0x30028
def Reg.VX_CLIP_CTL (c : Nat) : Nat := coreWin c + 0x30030
def Reg.VX_CLIP_TOTAL (c t : Nat) : Nat := coreWin c + 0x30100 + t * 0x20
def Reg.VX_CLIP_HIGH (c t : Nat) : Nat := coreWin c + 0x30108 + t * 0x20
def Reg.VX_CLIP_LOW (c t : Nat) : Nat := coreWin c + 0x30110 + t * 0x20
def Reg.VX_CLIP_NAN (c t : Nat) : Nat := coreWin c + 0x30118 + t * 0x20
def Reg.SX_CTL (c : Nat) : Nat := coreWin c + 0x40000
def Reg.SX_FAULT (c : Nat) : Nat := coreWin c + 0x40008
def Reg.SX_FAULT_CAP (c : Nat) : Nat := coreWin c + 0x40010
def Reg.SX_FAULT_PC (c : Nat) : Nat := coreWin c + 0x40018
def Reg.SX_VIOL_COUNT (c : Nat) : Nat := coreWin c + 0x40020
def Reg.SX_WALKS (c : Nat) : Nat := coreWin c + 0x40040
def Reg.SX_HOPS (c : Nat) : Nat := coreWin c + 0x40048
def Reg.SX_CANDS (c : Nat) : Nat := coreWin c + 0x40050
def Reg.SX_REC_READS (c : Nat) : Nat := coreWin c + 0x40058
def Reg.SX_STALL_MEDIA (c : Nat) : Nat := coreWin c + 0x40060
def Reg.SX_RECORD_ERR (c : Nat) : Nat := coreWin c + 0x40068
def Reg.OX_SEED (c : Nat) : Nat := coreWin c + 0x50000
def Reg.OX_FAULT (c : Nat) : Nat := coreWin c + 0x50008
def Reg.OX_FAULT_CAP (c : Nat) : Nat := coreWin c + 0x50010
def Reg.OX_FAULT_PC (c : Nat) : Nat := coreWin c + 0x50018
def Reg.OX_VIOL_COUNT (c : Nat) : Nat := coreWin c + 0x50020
def Reg.OX_ELEMS (c : Nat) : Nat := coreWin c + 0x50040
def Reg.OX_NONFINITE (c : Nat) : Nat := coreWin c + 0x50048
def Reg.HX_FAULT (c : Nat) : Nat := coreWin c + 0x60000
def Reg.HX_FAULT_CAP (c : Nat) : Nat := coreWin c + 0x60008
def Reg.HX_FAULT_PC (c : Nat) : Nat := coreWin c + 0x60010
def Reg.HX_VIOL_COUNT (c : Nat) : Nat := coreWin c + 0x60018
def Reg.HX_LINES_OUT (c : Nat) : Nat := coreWin c + 0x60040
def Reg.HX_LINES_IN (c : Nat) : Nat := coreWin c + 0x60048
def Reg.HX_WAIT_CREDIT (c : Nat) : Nat := coreWin c + 0x60050
def Reg.HX_WAIT_RECORD (c : Nat) : Nat := coreWin c + 0x60058
def Reg.SRAM_CTL (c : Nat) : Nat := coreWin c + 0x70000
def Reg.SRAM_FAULT (c : Nat) : Nat := coreWin c + 0x70008
def Reg.SRAM_FAULT_CAP (c : Nat) : Nat := coreWin c + 0x70010
def Reg.SRAM_FAULT_ADDR (c : Nat) : Nat := coreWin c + 0x70018
def Reg.SRAM_CE_COUNT (c : Nat) : Nat := coreWin c + 0x70020
def Reg.SRAM_UE_COUNT (c : Nat) : Nat := coreWin c + 0x70028
def Reg.SRAM_MERGE_STALL (c : Nat) : Nat := coreWin c + 0x70030
def Reg.SRAM_VIOL_COUNT (c : Nat) : Nat := coreWin c + 0x70038
def Reg.SRAM_BANK_CONFLICT (c : Nat) : Nat := coreWin c + 0x70040
def Reg.SRAM_FLIP (c g : Nat) : Nat := coreWin c + 0x70080 + g * 0x8
def Reg.SRAM_REMAP (c b : Nat) : Nat := coreWin c + 0x70100 + b * 0x8

/-! ### The hub blocks' rows -/

def hubRows0 : List RegRow := [
    ⟨0x0, 1, 0x8, 1, 0x8, ⟨.ro, 0x0, 0x0, 0x0, 0x0, []⟩⟩,
    ⟨0x8, 1, 0x8, 1, 0x8, ⟨.ro, 0x0, 0x0, 0x0, 0x0, []⟩⟩,
    ⟨0x10, 1, 0x8, 1, 0x8, ⟨.ro, 0x0, 0x0, 0x0, 0x0, []⟩⟩,
    ⟨0x18, 1, 0x8, 1, 0x8, ⟨.ro, 0x0, 0x0, 0x0, 0x0, []⟩⟩,
    ⟨0x20, 1, 0x8, 1, 0x8, ⟨.imm, 0x0, 0x1, 0x0, 0x0, []⟩⟩,
    ⟨0x28, 1, 0x8, 1, 0x8, ⟨.ro, 0x0, 0x0, 0x0, 0x1, []⟩⟩,
    ⟨0x30, 1, 0x8, 1, 0x8, ⟨.imm, 0x0, 0x0, 0xff, 0x0, []⟩⟩,
    ⟨0x38, 1, 0x8, 1, 0x8, ⟨.ro, 0x0, 0x0, 0x0, 0x0, []⟩⟩,
    ⟨0x100, 5, 0x40, 8, 0x8, ⟨.ro, 0x0, 0x0, 0x0, 0x0, []⟩⟩,
    ⟨0x300, 8, 0x40, 8, 0x8, ⟨.ro, 0x0, 0x0, 0x0, 0x0, []⟩⟩,
    ⟨0x4000, 512, 0x50, 10, 0x8, ⟨.ro, 0x0, 0x0, 0x0, 0x0, []⟩⟩,
    ⟨0x10000, 1, 0x8, 1, 0x8, ⟨.ro, 0x0, 0x0, 0x0, 0x0, []⟩⟩]

def hubRows1 : List RegRow := [
    ⟨0x10008, 1, 0x8, 1, 0x8, ⟨.period, 0x3ff, 0x0, 0x0, 0x384, [.range 0 10 350 1000]⟩⟩,
    ⟨0x10010, 1, 0x8, 1, 0x8, ⟨.period, 0xfff, 0x0, 0x0, 0x28, [.range 0 12 1 4000]⟩⟩,
    ⟨0x10018, 1, 0x8, 1, 0x8, ⟨.ro, 0x0, 0x0, 0x0, 0x0, []⟩⟩,
    ⟨0x10020, 1, 0x8, 1, 0x8, ⟨.period, 0xffff00010000, 0x0, 0x0, 0x400000004000, [.range 32 16 8192 32767]⟩⟩,
    ⟨0x10028, 1, 0x8, 1, 0x8, ⟨.period, 0x1f1f, 0x0, 0x0, 0x10101010, [.range 0 5 1 16, .range 8 5 1 16]⟩⟩,
    ⟨0x10030, 2, 0x8, 1, 0x8, ⟨.ro, 0x0, 0x0, 0x0, 0x0, []⟩⟩,
    ⟨0x10040, 1, 0x8, 1, 0x8, ⟨.imm, 0xf01, 0x0, 0x0, 0x400, [.range 8 4 1 15]⟩⟩,
    ⟨0x10048, 1, 0x8, 1, 0x8, ⟨.period, 0xffffffffffff03ff, 0x0, 0x0, 0xc8010002b2, [.range 0 10 650 720, .range 16 16 16 65535]⟩⟩,
    ⟨0x10050, 1, 0x8, 1, 0x8, ⟨.ro, 0x0, 0x0, 0x0, 0x0, []⟩⟩,
    ⟨0x10058, 1, 0x8, 1, 0x8, ⟨.period, 0xffff, 0x0, 0x0, 0x5064, [.range 0 8 70 100, .range 8 8 60 80]⟩⟩,
    ⟨0x10060, 1, 0x8, 1, 0x8, ⟨.imm, 0x0, 0x0, 0x1fff, 0x0, []⟩⟩,
    ⟨0x10068, 1, 0x8, 1, 0x8, ⟨.ro, 0x0, 0x0, 0x0, 0x0, []⟩⟩]

def hubRows2 : List RegRow := [
    ⟨0x10070, 1, 0x8, 1, 0x8, ⟨.ro, 0x0, 0x0, 0x0, 0x0, []⟩⟩,
    ⟨0x10100, 1, 0x8, 1, 0x8, ⟨.period, 0xffffffffffff, 0x0, 0x0, 0xb4, []⟩⟩,
    ⟨0x10108, 1, 0x8, 1, 0x8, ⟨.period, 0xffffffffffff, 0x0, 0x0, 0x2d0, []⟩⟩,
    ⟨0x10110, 1, 0x8, 1, 0x8, ⟨.period, 0xffffffffffff, 0x0, 0x0, 0x5dc, []⟩⟩,
    ⟨0x10118, 1, 0x8, 1, 0x8, ⟨.period, 0xffffffffffff, 0x0, 0x0, 0x1770, []⟩⟩,
    ⟨0x10120, 1, 0x8, 1, 0x8, ⟨.period, 0xffffffffffff, 0x0, 0x0, 0xf4240, []⟩⟩,
    ⟨0x10128, 1, 0x8, 1, 0x8, ⟨.period, 0xffffffffffff, 0x0, 0x0, 0x47868c00, []⟩⟩,
    ⟨0x10130, 1, 0x8, 1, 0x8, ⟨.period, 0xffffffffffff, 0x0, 0x0, 0x9502f9000, []⟩⟩,
    ⟨0x10138, 1, 0x8, 1, 0x8, ⟨.period, 0xffffffffffff, 0x0, 0x0, 0x5d21dba000, []⟩⟩,
    ⟨0x10140, 1, 0x8, 1, 0x8, ⟨.period, 0xffffffffffff, 0x0, 0x0, 0x5b8d80, []⟩⟩,
    ⟨0x10148, 1, 0x8, 1, 0x8, ⟨.period, 0xffffffffffff, 0x0, 0x0, 0x5f5e10, []⟩⟩,
    ⟨0x10150, 1, 0x8, 1, 0x8, ⟨.period, 0xffffffffffff, 0x0, 0x0, 0x12a05f20, []⟩⟩]

def hubRows3 : List RegRow := [
    ⟨0x10200, 8, 0x40, 1, 0x8, ⟨.period, 0xffffffff03ff, 0x0, 0x0, 0x0, [.range 0 10 0 1000]⟩⟩,
    ⟨0x10400, 1, 0x40, 1, 0x8, ⟨.period, 0xffffffff03ff, 0x0, 0x0, 0xc3500064, [.range 0 10 0 1000]⟩⟩,
    ⟨0x10208, 9, 0x40, 1, 0x8, ⟨.ro, 0x0, 0x0, 0x0, 0x0, []⟩⟩,
    ⟨0x10210, 9, 0x40, 1, 0x8, ⟨.ro, 0x0, 0x0, 0x0, 0x0, []⟩⟩,
    ⟨0x10218, 9, 0x40, 1, 0x8, ⟨.ro, 0x0, 0x0, 0x0, 0x0, []⟩⟩,
    ⟨0x10220, 9, 0x40, 1, 0x8, ⟨.ro, 0x0, 0x0, 0x0, 0x0, []⟩⟩,
    ⟨0x10228, 9, 0x40, 1, 0x8, ⟨.ro, 0x0, 0x0, 0x0, 0x0, []⟩⟩,
    ⟨0x10230, 9, 0x40, 1, 0x8, ⟨.ro, 0x0, 0x0, 0x0, 0x0, []⟩⟩,
    ⟨0x10238, 9, 0x40, 1, 0x8, ⟨.ro, 0x0, 0x0, 0x0, 0x0, []⟩⟩,
    ⟨0x20000, 1, 0x8, 1, 0x8, ⟨.imm, 0x0, 0x0, 0x1ff, 0x0, []⟩⟩,
    ⟨0x20008, 1, 0x8, 1, 0x8, ⟨.ro, 0x0, 0x0, 0x0, 0x0, []⟩⟩,
    ⟨0x20010, 1, 0x8, 1, 0x8, ⟨.ro, 0x0, 0x0, 0x0, 0x0, []⟩⟩]

def hubRows4 : List RegRow := [
    ⟨0x20018, 1, 0x8, 1, 0x8, ⟨.ro, 0x0, 0x0, 0x0, 0x0, []⟩⟩,
    ⟨0x20020, 1, 0x8, 1, 0x8, ⟨.period, 0xff07, 0x10000, 0x0, 0x0, []⟩⟩,
    ⟨0x20040, 8, 0x8, 1, 0x8, ⟨.ro, 0x0, 0x0, 0x0, 0x0, []⟩⟩,
    ⟨0x20100, 32, 0x10, 1, 0x8, ⟨.ro, 0x0, 0x0, 0x0, 0x0, []⟩⟩,
    ⟨0x20108, 32, 0x10, 1, 0x8, ⟨.ro, 0x0, 0x0, 0x0, 0x0, []⟩⟩,
    ⟨0x30000, 1, 0x8, 1, 0x8, ⟨.ro, 0x0, 0x0, 0x0, 0x0, []⟩⟩,
    ⟨0x30008, 1, 0x8, 1, 0x8, ⟨.ro, 0x0, 0x0, 0x0, 0x0, []⟩⟩,
    ⟨0x30010, 1, 0x8, 1, 0x8, ⟨.ro, 0x0, 0x0, 0x0, 0x0, []⟩⟩,
    ⟨0x30018, 1, 0x8, 1, 0x8, ⟨.imm, 0x0, 0x0, 0x3, 0x0, []⟩⟩,
    ⟨0x30020, 1, 0x8, 1, 0x8, ⟨.ro, 0x0, 0x0, 0x0, 0x0, []⟩⟩,
    ⟨0x30028, 1, 0x8, 1, 0x8, ⟨.ro, 0x0, 0x0, 0x0, 0x0, []⟩⟩,
    ⟨0x30030, 1, 0x8, 1, 0x8, ⟨.period, 0xffff, 0x0, 0x0, 0x10, []⟩⟩]

def hubRows5 : List RegRow := [
    ⟨0x30038, 1, 0x8, 1, 0x8, ⟨.imm, 0x0, 0x0, 0xffffffff, 0x0, []⟩⟩,
    ⟨0x30100, 32, 0x8, 1, 0x8, ⟨.ro, 0x0, 0x0, 0x0, 0x0, []⟩⟩,
    ⟨0x30200, 32, 0x8, 1, 0x8, ⟨.ro, 0x0, 0x0, 0x0, 0x0, []⟩⟩,
    ⟨0x40000, 1, 0x8, 1, 0x8, ⟨.imm, 0x1f01, 0x0, 0x0, 0x1800, [.range 8 5 16 31]⟩⟩,
    ⟨0x40008, 1, 0x8, 1, 0x8, ⟨.ro, 0x0, 0x0, 0x0, 0x0, []⟩⟩,
    ⟨0x40010, 1, 0x8, 1, 0x8, ⟨.imm, 0x0, 0x1ff, 0x0, 0x0, []⟩⟩,
    ⟨0x40018, 1, 0x8, 1, 0x8, ⟨.imm, 0x0, 0x3ff, 0x0, 0x0, []⟩⟩,
    ⟨0x40020, 1, 0x8, 1, 0x8, ⟨.imm, 0x0, 0x0, 0x7, 0x0, []⟩⟩,
    ⟨0x40028, 1, 0x8, 1, 0x8, ⟨.ro, 0x0, 0x0, 0x0, 0x0, []⟩⟩,
    ⟨0x40030, 1, 0x8, 1, 0x8, ⟨.ro, 0x0, 0x0, 0x0, 0x0, []⟩⟩,
    ⟨0x40038, 1, 0x8, 1, 0x8, ⟨.ro, 0x0, 0x0, 0x0, 0x0, []⟩⟩,
    ⟨0x40100, 8, 0x8, 1, 0x8, ⟨.imm, 0xffffffffffffffff, 0x0, 0x0, 0x0, []⟩⟩]

def hubRows6 : List RegRow := [
    ⟨0x40140, 8, 0x8, 1, 0x8, ⟨.ro, 0x0, 0x0, 0x0, 0x0, []⟩⟩,
    ⟨0x40180, 8, 0x8, 1, 0x8, ⟨.ro, 0x0, 0x0, 0x0, 0x0, []⟩⟩,
    ⟨0x401c0, 8, 0x8, 1, 0x8, ⟨.ro, 0x0, 0x0, 0x0, 0x0, []⟩⟩,
    ⟨0x40200, 64, 0x8, 1, 0x8, ⟨.imm, 0xffffffffffffffff, 0x0, 0x0, 0xffffffffffffffff, []⟩⟩,
    ⟨0x40400, 8, 0x20, 1, 0x8, ⟨.imm, 0x1f, 0x0, 0x40, 0x10, []⟩⟩,
    ⟨0x40408, 8, 0x20, 1, 0x8, ⟨.imm, 0xff, 0x0, 0x0, 0x0, []⟩⟩,
    ⟨0x50000, 8, 0x40, 1, 0x8, ⟨.period, 0xffffffff0000007f, 0x0, 0x0, 0x0, [.zeroOr 1 6 20 36]⟩⟩,
    ⟨0x50008, 8, 0x40, 1, 0x8, ⟨.period, 0x1ff3fff, 0x0, 0x0, 0x0, [.range 0 14 0 13653, .range 16 9 0 341]⟩⟩,
    ⟨0x50208, 1, 0x40, 1, 0x8, ⟨.period, 0x1ff3fff, 0x0, 0x0, 0x200400, [.range 0 14 0 13653, .range 16 9 0 341]⟩⟩,
    ⟨0x50010, 8, 0x40, 1, 0x8, ⟨.period, 0xffffffffffff, 0x0, 0x0, 0x0, [.range 0 8 0 160, .range 8 8 0 160, .range 16 8 0 160, .range 24 8 0 160, .range 32 8 0 160, .range 40 8 0 160]⟩⟩,
    ⟨0x50210, 1, 0x40, 1, 0x8, ⟨.period, 0xffffffffffff, 0x0, 0x0, 0x80808080808, [.range 0 8 0 160, .range 8 8 0 160, .range 16 8 0 160, .range 24 8 0 160, .range 32 8 0 160, .range 40 8 0 160]⟩⟩,
    ⟨0x50018, 8, 0x40, 1, 0x8, ⟨.period, 0xff, 0x0, 0x0, 0x0, []⟩⟩]

def hubRows7 : List RegRow := [
    ⟨0x50020, 8, 0x40, 1, 0x8, ⟨.period, 0xffffffffffff, 0x0, 0x0, 0x0, [.zero 0 21]⟩⟩,
    ⟨0x50028, 9, 0x40, 1, 0x8, ⟨.ro, 0x0, 0x0, 0x0, 0x0, []⟩⟩,
    ⟨0x50030, 8, 0x40, 1, 0x8, ⟨.ro, 0x0, 0x0, 0x0, 0x0, []⟩⟩,
    ⟨0x50038, 8, 0x40, 1, 0x8, ⟨.ro, 0x0, 0x0, 0x0, 0x0, []⟩⟩,
    ⟨0x50300, 16, 0x8, 1, 0x8, ⟨.period, 0x8787878787878787, 0x0, 0x0, 0x0, []⟩⟩,
    ⟨0x50400, 1, 0x8, 1, 0x8, ⟨.ro, 0x0, 0x0, 0x0, 0x0, []⟩⟩,
    ⟨0x50408, 1, 0x8, 1, 0x8, ⟨.imm, 0x0, 0x0, 0x7, 0x0, []⟩⟩,
    ⟨0x50410, 1, 0x8, 1, 0x8, ⟨.ro, 0x0, 0x0, 0x0, 0x0, []⟩⟩,
    ⟨0x50418, 1, 0x8, 1, 0x8, ⟨.ro, 0x0, 0x0, 0x0, 0x0, []⟩⟩,
    ⟨0x58000, 16, 0x80, 1, 0x8, ⟨.period, 0xffffffffffff, 0x0, 0x0, 0x1001000, [.range 12 12 1 4095, .range 24 24 1 16777215]⟩⟩,
    ⟨0x58008, 16, 0x80, 1, 0x8, ⟨.period, 0xffffffffffff, 0x0, 0x0, 0x0, [.zero 0 12]⟩⟩,
    ⟨0x58010, 16, 0x80, 1, 0x8, ⟨.ro, 0x0, 0x0, 0x0, 0x0, []⟩⟩]

def hubRows8 : List RegRow := [
    ⟨0x58018, 16, 0x80, 1, 0x8, ⟨.ro, 0x0, 0x0, 0x0, 0x0, []⟩⟩,
    ⟨0x58020, 16, 0x80, 1, 0x8, ⟨.ro, 0x0, 0x0, 0x0, 0x0, []⟩⟩,
    ⟨0x58028, 16, 0x80, 1, 0x8, ⟨.ro, 0x0, 0x0, 0x0, 0x0, []⟩⟩,
    ⟨0x58030, 16, 0x80, 1, 0x8, ⟨.ro, 0x0, 0x0, 0x0, 0x0, []⟩⟩,
    ⟨0x58038, 16, 0x80, 1, 0x8, ⟨.ro, 0x0, 0x0, 0x0, 0x0, []⟩⟩,
    ⟨0x58040, 16, 0x80, 1, 0x8, ⟨.ro, 0x0, 0x0, 0x0, 0x0, []⟩⟩,
    ⟨0x58048, 16, 0x80, 1, 0x8, ⟨.ro, 0x0, 0x0, 0x0, 0x0, []⟩⟩,
    ⟨0x58050, 16, 0x80, 1, 0x8, ⟨.ro, 0x0, 0x0, 0x0, 0x0, []⟩⟩,
    ⟨0x58800, 8, 0x10, 1, 0x8, ⟨.period, 0x7ffff, 0x0, 0x0, 0x0, []⟩⟩,
    ⟨0x58808, 8, 0x10, 1, 0x8, ⟨.period, 0xffffffffffff, 0x0, 0x0, 0x0, [.zero 0 13]⟩⟩,
    ⟨0x58900, 1, 0x8, 1, 0x8, ⟨.imm, 0x0, 0x0, 0x3f, 0x0, []⟩⟩,
    ⟨0x58908, 1, 0x8, 1, 0x8, ⟨.ro, 0x0, 0x0, 0x0, 0x0, []⟩⟩]

def hubRows9 : List RegRow := [
    ⟨0x58910, 1, 0x8, 1, 0x8, ⟨.ro, 0x0, 0x0, 0x0, 0x0, []⟩⟩,
    ⟨0x58918, 1, 0x8, 1, 0x8, ⟨.ro, 0x0, 0x0, 0x0, 0x0, []⟩⟩,
    ⟨0x59000, 8, 0x40, 1, 0x8, ⟨.period, 0xffffffffff, 0x0, 0x0, 0x1010, [.range 4 8 1 255, .range 12 20 1 1048575]⟩⟩,
    ⟨0x59008, 8, 0x40, 1, 0x8, ⟨.period, 0xffffffffffff, 0x0, 0x0, 0x0, [.zero 0 12]⟩⟩,
    ⟨0x59010, 8, 0x40, 1, 0x8, ⟨.frame, 0xffffffffffff, 0x0, 0x0, 0x0, []⟩⟩,
    ⟨0x59018, 8, 0x40, 1, 0x8, ⟨.frame, 0xffffffffffffffff, 0x0, 0x0, 0x0, []⟩⟩,
    ⟨0x59020, 8, 0x40, 1, 0x8, ⟨.ro, 0x0, 0x0, 0x0, 0x0, []⟩⟩,
    ⟨0x59028, 8, 0x40, 1, 0x8, ⟨.ro, 0x0, 0x0, 0x0, 0x0, []⟩⟩,
    ⟨0x59030, 8, 0x40, 1, 0x8, ⟨.ro, 0x0, 0x0, 0x0, 0x0, []⟩⟩,
    ⟨0x59038, 8, 0x40, 1, 0x8, ⟨.ro, 0x0, 0x0, 0x0, 0x0, []⟩⟩,
    ⟨0x5c000, 16, 0x40, 1, 0x8, ⟨.ro, 0x0, 0x0, 0x0, 0x0, []⟩⟩,
    ⟨0x5c008, 16, 0x40, 1, 0x8, ⟨.ro, 0x0, 0x0, 0x0, 0x0, []⟩⟩]

def hubRows10 : List RegRow := [
    ⟨0x5c010, 16, 0x40, 1, 0x8, ⟨.epoch, 0xffffff1fff07ff, 0x0, 0x0, 0x100000400040, [.range 0 11 1 1024, .range 16 13 1 4096, .range 32 24 1 16777215]⟩⟩,
    ⟨0x5c018, 16, 0x40, 1, 0x8, ⟨.ro, 0x0, 0x0, 0x0, 0x0, []⟩⟩,
    ⟨0x5c020, 16, 0x40, 1, 0x8, ⟨.ro, 0x0, 0x0, 0x0, 0x0, []⟩⟩,
    ⟨0x5c028, 16, 0x40, 1, 0x8, ⟨.ro, 0x0, 0x0, 0x0, 0x0, []⟩⟩,
    ⟨0x5c030, 16, 0x40, 1, 0x8, ⟨.ro, 0x0, 0x0, 0x0, 0x0, []⟩⟩,
    ⟨0x5c038, 16, 0x40, 1, 0x8, ⟨.ro, 0x0, 0x0, 0x0, 0x0, []⟩⟩,
    ⟨0x5c400, 1, 0x8, 1, 0x8, ⟨.imm, 0x0, 0x0, 0x3, 0x0, []⟩⟩,
    ⟨0x5c408, 1, 0x8, 1, 0x8, ⟨.ro, 0x0, 0x0, 0x0, 0x0, []⟩⟩,
    ⟨0x100000, 1, 0x8, 1, 0x8, ⟨.period, 0xffff00ffffffffff, 0x0, 0x0, 0x8102, [.range 1 7 1 64, .range 8 7 1 64, .range 15 7 1 64]⟩⟩,
    ⟨0x100008, 1, 0x8, 1, 0x8, ⟨.ro, 0x0, 0x0, 0x0, 0x100000000, []⟩⟩,
    ⟨0x100010, 1, 0x8, 1, 0x8, ⟨.imm, 0x0, 0x0, 0x1ff, 0x0, []⟩⟩,
    ⟨0x100018, 1, 0x8, 1, 0x8, ⟨.ro, 0x0, 0x0, 0x0, 0x0, []⟩⟩]

def hubRows11 : List RegRow := [
    ⟨0x100020, 1, 0x8, 1, 0x8, ⟨.ro, 0x0, 0x0, 0x0, 0x0, []⟩⟩,
    ⟨0x100028, 1, 0x8, 1, 0x8, ⟨.ro, 0x0, 0x0, 0x0, 0x0, []⟩⟩,
    ⟨0x100040, 1, 0x8, 1, 0x8, ⟨.ro, 0x0, 0x0, 0x0, 0x0, []⟩⟩,
    ⟨0x100048, 1, 0x8, 1, 0x8, ⟨.ro, 0x0, 0x0, 0x0, 0x0, []⟩⟩,
    ⟨0x100050, 1, 0x8, 1, 0x8, ⟨.ro, 0x0, 0x0, 0x0, 0x0, []⟩⟩,
    ⟨0x100800, 256, 0x8, 1, 0x8, ⟨.period, 0x7ffffffffffffff, 0x0, 0x0, 0x204080000, [.range 19 7 1 64, .range 26 7 1 64, .range 33 7 1 64]⟩⟩,
    ⟨0x101000, 6, 0x1000, 1, 0x8, ⟨.period, 0x3f, 0x100, 0x0, 0x3f, []⟩⟩,
    ⟨0x101008, 6, 0x1000, 1, 0x8, ⟨.ro, 0x0, 0x0, 0x0, 0x0, []⟩⟩,
    ⟨0x101010, 6, 0x1000, 1, 0x8, ⟨.ro, 0x0, 0x0, 0x0, 0x0, []⟩⟩,
    ⟨0x101100, 6, 0x1000, 6, 0x40, ⟨.period, 0xf, 0x0, 0x0, 0x8, [.range 0 4 1 15]⟩⟩,
    ⟨0x101108, 6, 0x1000, 6, 0x40, ⟨.ro, 0x0, 0x0, 0x0, 0x0, []⟩⟩,
    ⟨0x101110, 6, 0x1000, 6, 0x40, ⟨.ro, 0x0, 0x0, 0x0, 0x0, []⟩⟩]

def hubRows12 : List RegRow := [
    ⟨0x101118, 6, 0x1000, 6, 0x40, ⟨.ro, 0x0, 0x0, 0x0, 0x0, []⟩⟩,
    ⟨0x101120, 6, 0x1000, 6, 0x40, ⟨.ro, 0x0, 0x0, 0x0, 0x0, []⟩⟩,
    ⟨0x101128, 6, 0x1000, 6, 0x40, ⟨.ro, 0x0, 0x0, 0x0, 0x0, []⟩⟩,
    ⟨0x101130, 6, 0x1000, 6, 0x40, ⟨.ro, 0x0, 0x0, 0x0, 0x0, []⟩⟩,
    ⟨0x107000, 32, 0x40, 1, 0x8, ⟨.imm, 0x0, 0x0, 0xf, 0x0, []⟩⟩,
    ⟨0x107008, 32, 0x40, 1, 0x8, ⟨.ro, 0x0, 0x0, 0x0, 0x0, []⟩⟩,
    ⟨0x107010, 32, 0x40, 1, 0x8, ⟨.ro, 0x0, 0x0, 0x0, 0x0, []⟩⟩,
    ⟨0x107018, 32, 0x40, 1, 0x8, ⟨.ro, 0x0, 0x0, 0x0, 0x0, []⟩⟩,
    ⟨0x108000, 2048, 0x8, 1, 0x8, ⟨.ro, 0x0, 0x0, 0x0, 0x0, []⟩⟩,
    ⟨0x200000, 1, 0x8, 1, 0x8, ⟨.ro, 0x0, 0x0, 0x0, 0x100c004f841840, []⟩⟩,
    ⟨0x200008, 1, 0x8, 1, 0x8, ⟨.period, 0xffffffffffff, 0x0, 0x0, 0x28006400c8, [.gc]⟩⟩,
    ⟨0x200010, 1, 0x8, 1, 0x8, ⟨.period, 0xffffff01, 0x0, 0x0, 0x2710001, [.range 8 24 20000 16777215]⟩⟩]

def hubRows13 : List RegRow := [
    ⟨0x200018, 1, 0x8, 1, 0x8, ⟨.period, 0xff0f, 0x0, 0x0, 0x7804, [.range 0 4 1 15, .range 8 8 16 255]⟩⟩,
    ⟨0x200020, 1, 0x8, 1, 0x8, ⟨.ro, 0x0, 0x0, 0x0, 0x0, []⟩⟩,
    ⟨0x200028, 1, 0x8, 1, 0x8, ⟨.ro, 0x0, 0x0, 0x0, 0x0, []⟩⟩,
    ⟨0x200030, 1, 0x8, 1, 0x8, ⟨.ro, 0x0, 0x0, 0x0, 0x98a300000000, []⟩⟩,
    ⟨0x200038, 1, 0x8, 1, 0x8, ⟨.ro, 0x0, 0x0, 0x0, 0x0, []⟩⟩,
    ⟨0x200040, 1, 0x8, 1, 0x8, ⟨.imm, 0x0, 0x0, 0x7fff, 0x0, []⟩⟩,
    ⟨0x200048, 1, 0x8, 1, 0x8, ⟨.ro, 0x0, 0x0, 0x0, 0x0, []⟩⟩,
    ⟨0x200050, 1, 0x8, 1, 0x8, ⟨.ro, 0x0, 0x0, 0x0, 0x0, []⟩⟩,
    ⟨0x200058, 1, 0x8, 1, 0x8, ⟨.ro, 0x0, 0x0, 0x0, 0x0, []⟩⟩,
    ⟨0x200080, 1, 0x8, 1, 0x8, ⟨.ro, 0x0, 0x0, 0x0, 0x0, []⟩⟩,
    ⟨0x200088, 1, 0x8, 1, 0x8, ⟨.ro, 0x0, 0x0, 0x0, 0x0, []⟩⟩,
    ⟨0x200090, 1, 0x8, 1, 0x8, ⟨.ro, 0x0, 0x0, 0x0, 0x0, []⟩⟩]

def hubRows14 : List RegRow := [
    ⟨0x200098, 1, 0x8, 1, 0x8, ⟨.ro, 0x0, 0x0, 0x0, 0x0, []⟩⟩,
    ⟨0x2000a0, 1, 0x8, 1, 0x8, ⟨.ro, 0x0, 0x0, 0x0, 0x0, []⟩⟩,
    ⟨0x2000a8, 1, 0x8, 1, 0x8, ⟨.ro, 0x0, 0x0, 0x0, 0x0, []⟩⟩,
    ⟨0x2000b0, 1, 0x8, 1, 0x8, ⟨.ro, 0x0, 0x0, 0x0, 0x0, []⟩⟩,
    ⟨0x2000b8, 1, 0x8, 1, 0x8, ⟨.ro, 0x0, 0x0, 0x0, 0x0, []⟩⟩,
    ⟨0x2000c0, 1, 0x8, 1, 0x8, ⟨.ro, 0x0, 0x0, 0x0, 0x0, []⟩⟩,
    ⟨0x200100, 1, 0x8, 1, 0x8, ⟨.ro, 0x0, 0x0, 0x0, 0x0, []⟩⟩,
    ⟨0x200108, 1, 0x8, 1, 0x8, ⟨.ro, 0x0, 0x0, 0x0, 0x0, []⟩⟩,
    ⟨0x200110, 1, 0x8, 1, 0x8, ⟨.ro, 0x0, 0x0, 0x0, 0x0, []⟩⟩,
    ⟨0x200118, 1, 0x8, 1, 0x8, ⟨.ro, 0x0, 0x0, 0x0, 0x0, []⟩⟩,
    ⟨0x200120, 1, 0x8, 1, 0x8, ⟨.ro, 0x0, 0x0, 0x0, 0x0, []⟩⟩,
    ⟨0x200128, 1, 0x8, 1, 0x8, ⟨.ro, 0x0, 0x0, 0x0, 0x0, []⟩⟩]

def hubRows15 : List RegRow := [
    ⟨0x200130, 1, 0x8, 1, 0x8, ⟨.ro, 0x0, 0x0, 0x0, 0x0, []⟩⟩,
    ⟨0x200138, 1, 0x8, 1, 0x8, ⟨.ro, 0x0, 0x0, 0x0, 0x0, []⟩⟩,
    ⟨0x200140, 1, 0x8, 1, 0x8, ⟨.ro, 0x0, 0x0, 0x0, 0x0, []⟩⟩,
    ⟨0x200148, 1, 0x8, 1, 0x8, ⟨.ro, 0x0, 0x0, 0x0, 0x0, []⟩⟩,
    ⟨0x200150, 1, 0x8, 1, 0x8, ⟨.ro, 0x0, 0x0, 0x0, 0x0, []⟩⟩,
    ⟨0x280000, 1, 0x8, 1, 0x8, ⟨.ro, 0x0, 0x0, 0x0, 0xe9ffffffff, []⟩⟩,
    ⟨0x280008, 1, 0x8, 1, 0x8, ⟨.period, 0x3f, 0x0, 0x0, 0xea00000008, [.range 0 6 0 32]⟩⟩,
    ⟨0x280010, 1, 0x8, 1, 0x8, ⟨.period, 0xffffffffffffff01, 0x0, 0x0, 0x1000000400801, []⟩⟩,
    ⟨0x280018, 1, 0x8, 1, 0x8, ⟨.ro, 0x0, 0x0, 0x0, 0x8000, []⟩⟩,
    ⟨0x280020, 1, 0x8, 1, 0x8, ⟨.ro, 0x0, 0x0, 0x0, 0x0, []⟩⟩,
    ⟨0x280028, 1, 0x8, 1, 0x8, ⟨.ro, 0x0, 0x0, 0x0, 0x0, []⟩⟩,
    ⟨0x280030, 1, 0x8, 1, 0x8, ⟨.ro, 0x0, 0x0, 0x0, 0x0, []⟩⟩]

def hubRows16 : List RegRow := [
    ⟨0x280038, 1, 0x8, 1, 0x8, ⟨.ro, 0x0, 0x0, 0x0, 0x0, []⟩⟩,
    ⟨0x280040, 1, 0x8, 1, 0x8, ⟨.period, 0xffffff01, 0x0, 0x0, 0x100001, [.range 8 24 64 16777215]⟩⟩,
    ⟨0x280048, 1, 0x8, 1, 0x8, ⟨.ro, 0x0, 0x0, 0x0, 0x0, []⟩⟩,
    ⟨0x280050, 1, 0x8, 1, 0x8, ⟨.ro, 0x0, 0x0, 0x0, 0x0, []⟩⟩,
    ⟨0x280058, 1, 0x8, 1, 0x8, ⟨.imm, 0x0, 0x0, 0x3f, 0x0, []⟩⟩,
    ⟨0x280060, 1, 0x8, 1, 0x8, ⟨.ro, 0x0, 0x0, 0x0, 0x0, []⟩⟩,
    ⟨0x280068, 1, 0x8, 1, 0x8, ⟨.ro, 0x0, 0x0, 0x0, 0x0, []⟩⟩,
    ⟨0x280070, 1, 0x8, 1, 0x8, ⟨.ro, 0x0, 0x0, 0x0, 0x0, []⟩⟩,
    ⟨0x280078, 1, 0x8, 1, 0x8, ⟨.ro, 0x0, 0x0, 0x0, 0x0, []⟩⟩,
    ⟨0x281000, 1, 0x8, 1, 0x8, ⟨.instr, 0x0, 0x1, 0x0, 0x0, []⟩⟩,
    ⟨0x281008, 1, 0x8, 1, 0x8, ⟨.imm, 0x0, 0x0, 0x3f, 0x0, []⟩⟩,
    ⟨0x281010, 1, 0x8, 1, 0x8, ⟨.ro, 0x0, 0x0, 0x0, 0x0, []⟩⟩]

def hubRows17 : List RegRow := [
    ⟨0x281018, 1, 0x8, 1, 0x8, ⟨.ro, 0x0, 0x0, 0x0, 0x0, []⟩⟩,
    ⟨0x281020, 1, 0x8, 1, 0x8, ⟨.ro, 0x0, 0x0, 0x0, 0x0, []⟩⟩,
    ⟨0x281028, 1, 0x8, 1, 0x8, ⟨.ro, 0x0, 0x0, 0x0, 0x0, []⟩⟩,
    ⟨0x281030, 1, 0x8, 1, 0x8, ⟨.ro, 0x0, 0x0, 0x0, 0x0, []⟩⟩,
    ⟨0x281038, 1, 0x8, 1, 0x8, ⟨.ro, 0x0, 0x0, 0x0, 0x0, []⟩⟩,
    ⟨0x281040, 1, 0x8, 1, 0x8, ⟨.ro, 0x0, 0x0, 0x0, 0x0, []⟩⟩,
    ⟨0x281080, 1, 0x8, 1, 0x8, ⟨.instr, 0xff, 0x100, 0x0, 0x0, []⟩⟩,
    ⟨0x281100, 16, 0x8, 1, 0x8, ⟨.ro, 0x0, 0x0, 0x0, 0x0, []⟩⟩,
    ⟨0x300000, 2, 0x8, 1, 0x8, ⟨.ro, 0x0, 0x0, 0x0, 0x0, []⟩⟩,
    ⟨0x300010, 1, 0x8, 1, 0x8, ⟨.imm, 0x0, 0x0, 0xf, 0x0, []⟩⟩,
    ⟨0x300018, 1, 0x8, 1, 0x8, ⟨.ro, 0x0, 0x0, 0x0, 0x0, []⟩⟩,
    ⟨0x300020, 1, 0x8, 1, 0x8, ⟨.ro, 0x0, 0x0, 0x0, 0x0, []⟩⟩]

def hubRows18 : List RegRow := [
    ⟨0x300028, 1, 0x8, 1, 0x8, ⟨.ro, 0x0, 0x0, 0x0, 0x0, []⟩⟩,
    ⟨0x300030, 1, 0x8, 1, 0x8, ⟨.ro, 0x0, 0x0, 0x0, 0x0, []⟩⟩,
    ⟨0x300038, 1, 0x8, 1, 0x8, ⟨.ro, 0x0, 0x0, 0x0, 0x0, []⟩⟩,
    ⟨0x400000, 4, 0x40, 1, 0x8, ⟨.period, 0x7fffff, 0x0, 0x0, 0x0, []⟩⟩,
    ⟨0x400008, 4, 0x40, 1, 0x8, ⟨.ro, 0x0, 0x0, 0x0, 0x0, []⟩⟩,
    ⟨0x400010, 4, 0x40, 1, 0x8, ⟨.ro, 0x0, 0x0, 0x0, 0x0, []⟩⟩,
    ⟨0x400018, 4, 0x40, 1, 0x8, ⟨.ro, 0x0, 0x0, 0x0, 0x0, []⟩⟩,
    ⟨0x400020, 4, 0x40, 1, 0x8, ⟨.ro, 0x0, 0x0, 0x0, 0x0, []⟩⟩,
    ⟨0x400200, 32, 0x8, 1, 0x8, ⟨.period, 0x7ffff01ffffff, 0x0, 0x0, 0x0, [.zero 0 6, .range 32 19 0 393216]⟩⟩,
    ⟨0x400400, 4, 0x80, 8, 0x10, ⟨.period, 0xfffffffffffff, 0x0, 0x0, 0x1300000, [.range 13 7 1 64, .range 20 7 1 64, .zero 27 6]⟩⟩,
    ⟨0x400408, 4, 0x80, 8, 0x10, ⟨.ro, 0x0, 0x0, 0x0, 0x0, []⟩⟩,
    ⟨0x400800, 16, 0x40, 1, 0x8, ⟨.period, 0x3ffffffffff, 0x0, 0x0, 0x0, []⟩⟩]

def hubRows19 : List RegRow := [
    ⟨0x400808, 16, 0x40, 1, 0x8, ⟨.ro, 0x0, 0x0, 0x0, 0x0, []⟩⟩,
    ⟨0x400810, 16, 0x40, 1, 0x8, ⟨.ro, 0x0, 0x0, 0x0, 0x0, []⟩⟩,
    ⟨0x400818, 16, 0x40, 1, 0x8, ⟨.ro, 0x0, 0x0, 0x0, 0x0, []⟩⟩,
    ⟨0x400820, 16, 0x40, 1, 0x8, ⟨.ro, 0x0, 0x0, 0x0, 0x0, []⟩⟩,
    ⟨0x400c00, 1, 0x8, 1, 0x8, ⟨.imm, 0x0, 0x0, 0x7f, 0x0, []⟩⟩,
    ⟨0x400c08, 1, 0x8, 1, 0x8, ⟨.ro, 0x0, 0x0, 0x0, 0x0, []⟩⟩,
    ⟨0x400c10, 1, 0x8, 1, 0x8, ⟨.ro, 0x0, 0x0, 0x0, 0x0, []⟩⟩]

def hubRows : List RegRow := hubRows0 ++ hubRows1 ++ hubRows2 ++ hubRows3 ++ hubRows4 ++ hubRows5 ++ hubRows6 ++ hubRows7 ++ hubRows8 ++ hubRows9 ++ hubRows10 ++ hubRows11 ++ hubRows12 ++ hubRows13 ++ hubRows14 ++ hubRows15 ++ hubRows16 ++ hubRows17 ++ hubRows18 ++ hubRows19

/-! ### A core window's rows, offsets from the window's start -/

def coreRows0 : List RegRow := [
    ⟨0x0, 1, 0x8, 1, 0x8, ⟨.instr, 0x1f, 0x0, 0x0, 0xa, [.range 0 5 8 24]⟩⟩,
    ⟨0x8, 1, 0x8, 1, 0x8, ⟨.ro, 0x0, 0x0, 0x0, 0x0, []⟩⟩,
    ⟨0x10, 1, 0x8, 1, 0x8, ⟨.imm, 0x0, 0x0, 0x3ff, 0x0, []⟩⟩,
    ⟨0x18, 1, 0x8, 1, 0x8, ⟨.ro, 0x0, 0x0, 0x0, 0x0, []⟩⟩,
    ⟨0x20, 1, 0x8, 1, 0x8, ⟨.ro, 0x0, 0x0, 0x0, 0x0, []⟩⟩,
    ⟨0x28, 1, 0x8, 1, 0x8, ⟨.ro, 0x0, 0x0, 0x0, 0x0, []⟩⟩,
    ⟨0x40, 1, 0x8, 1, 0x8, ⟨.ro, 0x0, 0x0, 0x0, 0x0, []⟩⟩,
    ⟨0x48, 1, 0x8, 1, 0x8, ⟨.ro, 0x0, 0x0, 0x0, 0x0, []⟩⟩,
    ⟨0x50, 1, 0x8, 1, 0x8, ⟨.ro, 0x0, 0x0, 0x0, 0x0, []⟩⟩,
    ⟨0x58, 1, 0x8, 1, 0x8, ⟨.ro, 0x0, 0x0, 0x0, 0x0, []⟩⟩,
    ⟨0x60, 1, 0x8, 1, 0x8, ⟨.ro, 0x0, 0x0, 0x0, 0x0, []⟩⟩,
    ⟨0x68, 1, 0x8, 1, 0x8, ⟨.ro, 0x0, 0x0, 0x0, 0x0, []⟩⟩]

def coreRows1 : List RegRow := [
    ⟨0x80, 16, 0x8, 1, 0x8, ⟨.ro, 0x0, 0x0, 0x0, 0x0, []⟩⟩,
    ⟨0x100, 16, 0x8, 1, 0x8, ⟨.ro, 0x0, 0x0, 0x0, 0x0, []⟩⟩,
    ⟨0x180, 1, 0x8, 1, 0x8, ⟨.ro, 0x0, 0x0, 0x0, 0x0, []⟩⟩,
    ⟨0x188, 1, 0x8, 1, 0x8, ⟨.ro, 0x0, 0x0, 0x0, 0x0, []⟩⟩,
    ⟨0x190, 1, 0x8, 1, 0x8, ⟨.ro, 0x0, 0x0, 0x0, 0x0, []⟩⟩,
    ⟨0x10000, 1, 0x8, 1, 0x8, ⟨.instr, 0x7f03, 0x0, 0x0, 0x400, [.range 8 7 1 64]⟩⟩,
    ⟨0x10008, 1, 0x8, 1, 0x8, ⟨.ro, 0x0, 0x0, 0x0, 0x0, []⟩⟩,
    ⟨0x10010, 1, 0x8, 1, 0x8, ⟨.imm, 0x0, 0x0, 0x7f, 0x0, []⟩⟩,
    ⟨0x10018, 1, 0x8, 1, 0x8, ⟨.ro, 0x0, 0x0, 0x0, 0x0, []⟩⟩,
    ⟨0x10020, 1, 0x8, 1, 0x8, ⟨.ro, 0x0, 0x0, 0x0, 0x0, []⟩⟩,
    ⟨0x10028, 1, 0x8, 1, 0x8, ⟨.ro, 0x0, 0x0, 0x0, 0x0, []⟩⟩,
    ⟨0x10040, 1, 0x8, 1, 0x8, ⟨.ro, 0x0, 0x0, 0x0, 0x0, []⟩⟩]

def coreRows2 : List RegRow := [
    ⟨0x10048, 1, 0x8, 1, 0x8, ⟨.ro, 0x0, 0x0, 0x0, 0x0, []⟩⟩,
    ⟨0x10050, 1, 0x8, 1, 0x8, ⟨.ro, 0x0, 0x0, 0x0, 0x0, []⟩⟩,
    ⟨0x10058, 1, 0x8, 1, 0x8, ⟨.ro, 0x0, 0x0, 0x0, 0x0, []⟩⟩,
    ⟨0x10060, 1, 0x8, 1, 0x8, ⟨.ro, 0x0, 0x0, 0x0, 0x0, []⟩⟩,
    ⟨0x10068, 1, 0x8, 1, 0x8, ⟨.ro, 0x0, 0x0, 0x0, 0x0, []⟩⟩,
    ⟨0x10070, 1, 0x8, 1, 0x8, ⟨.ro, 0x0, 0x0, 0x0, 0x0, []⟩⟩,
    ⟨0x10078, 1, 0x8, 1, 0x8, ⟨.ro, 0x0, 0x0, 0x0, 0x0, []⟩⟩,
    ⟨0x10080, 4, 0x8, 1, 0x8, ⟨.instr, 0x7f1f07, 0x0, 0x0, 0xc0000, [.range 1 2 0 2, .range 16 7 2 64]⟩⟩,
    ⟨0x100a0, 4, 0x8, 1, 0x8, ⟨.ro, 0x0, 0x0, 0x0, 0x0, []⟩⟩,
    ⟨0x10100, 8, 0x8, 1, 0x8, ⟨.instr, 0xffffffffffff, 0x0, 0x0, 0x0, []⟩⟩,
    ⟨0x20000, 1, 0x8, 1, 0x8, ⟨.ro, 0x0, 0x0, 0x0, 0x0, []⟩⟩,
    ⟨0x20008, 1, 0x8, 1, 0x8, ⟨.instr, 0x1, 0x0, 0x0, 0x1, []⟩⟩]

def coreRows3 : List RegRow := [
    ⟨0x20010, 1, 0x8, 1, 0x8, ⟨.instr, 0x3, 0x100, 0x0, 0x0, []⟩⟩,
    ⟨0x20018, 1, 0x8, 1, 0x8, ⟨.imm, 0x0, 0x0, 0x7ff, 0x0, []⟩⟩,
    ⟨0x20020, 1, 0x8, 1, 0x8, ⟨.ro, 0x0, 0x0, 0x0, 0x0, []⟩⟩,
    ⟨0x20028, 1, 0x8, 1, 0x8, ⟨.ro, 0x0, 0x0, 0x0, 0x0, []⟩⟩,
    ⟨0x20030, 1, 0x8, 1, 0x8, ⟨.ro, 0x0, 0x0, 0x0, 0x0, []⟩⟩,
    ⟨0x20040, 1, 0x8, 1, 0x8, ⟨.ro, 0x0, 0x0, 0x0, 0x0, []⟩⟩,
    ⟨0x20048, 1, 0x8, 1, 0x8, ⟨.ro, 0x0, 0x0, 0x0, 0x0, []⟩⟩,
    ⟨0x20050, 1, 0x8, 1, 0x8, ⟨.ro, 0x0, 0x0, 0x0, 0x0, []⟩⟩,
    ⟨0x20058, 1, 0x8, 1, 0x8, ⟨.ro, 0x0, 0x0, 0x0, 0x0, []⟩⟩,
    ⟨0x20060, 1, 0x8, 1, 0x8, ⟨.ro, 0x0, 0x0, 0x0, 0x0, []⟩⟩,
    ⟨0x20068, 1, 0x8, 1, 0x8, ⟨.ro, 0x0, 0x0, 0x0, 0x0, []⟩⟩,
    ⟨0x20070, 1, 0x8, 1, 0x8, ⟨.ro, 0x0, 0x0, 0x0, 0x0, []⟩⟩]

def coreRows4 : List RegRow := [
    ⟨0x20100, 4, 0x10, 1, 0x8, ⟨.ro, 0x0, 0x0, 0x0, 0x0, []⟩⟩,
    ⟨0x20108, 4, 0x10, 1, 0x8, ⟨.ro, 0x0, 0x0, 0x0, 0x0, []⟩⟩,
    ⟨0x30000, 1, 0x8, 1, 0x8, ⟨.instr, 0x0, 0x100, 0x0, 0x0, []⟩⟩,
    ⟨0x30008, 1, 0x8, 1, 0x8, ⟨.imm, 0x0, 0x0, 0xf, 0x0, []⟩⟩,
    ⟨0x30010, 1, 0x8, 1, 0x8, ⟨.ro, 0x0, 0x0, 0x0, 0x0, []⟩⟩,
    ⟨0x30018, 1, 0x8, 1, 0x8, ⟨.ro, 0x0, 0x0, 0x0, 0x0, []⟩⟩,
    ⟨0x30020, 1, 0x8, 1, 0x8, ⟨.ro, 0x0, 0x0, 0x0, 0x0, []⟩⟩,
    ⟨0x30028, 1, 0x8, 1, 0x8, ⟨.ro, 0x0, 0x0, 0x0, 0x0, []⟩⟩,
    ⟨0x30030, 1, 0x8, 1, 0x8, ⟨.instr, 0x0, 0xffff, 0x0, 0x0, []⟩⟩,
    ⟨0x30100, 16, 0x20, 1, 0x8, ⟨.ro, 0x0, 0x0, 0x0, 0x0, []⟩⟩,
    ⟨0x30108, 16, 0x20, 1, 0x8, ⟨.ro, 0x0, 0x0, 0x0, 0x0, []⟩⟩,
    ⟨0x30110, 16, 0x20, 1, 0x8, ⟨.ro, 0x0, 0x0, 0x0, 0x0, []⟩⟩]

def coreRows5 : List RegRow := [
    ⟨0x30118, 16, 0x20, 1, 0x8, ⟨.ro, 0x0, 0x0, 0x0, 0x0, []⟩⟩,
    ⟨0x40000, 1, 0x8, 1, 0x8, ⟨.instr, 0x7f, 0x0, 0x0, 0x40, [.range 0 7 1 64]⟩⟩,
    ⟨0x40008, 1, 0x8, 1, 0x8, ⟨.imm, 0x0, 0x0, 0xf, 0x0, []⟩⟩,
    ⟨0x40010, 1, 0x8, 1, 0x8, ⟨.ro, 0x0, 0x0, 0x0, 0x0, []⟩⟩,
    ⟨0x40018, 1, 0x8, 1, 0x8, ⟨.ro, 0x0, 0x0, 0x0, 0x0, []⟩⟩,
    ⟨0x40020, 1, 0x8, 1, 0x8, ⟨.ro, 0x0, 0x0, 0x0, 0x0, []⟩⟩,
    ⟨0x40040, 1, 0x8, 1, 0x8, ⟨.ro, 0x0, 0x0, 0x0, 0x0, []⟩⟩,
    ⟨0x40048, 1, 0x8, 1, 0x8, ⟨.ro, 0x0, 0x0, 0x0, 0x0, []⟩⟩,
    ⟨0x40050, 1, 0x8, 1, 0x8, ⟨.ro, 0x0, 0x0, 0x0, 0x0, []⟩⟩,
    ⟨0x40058, 1, 0x8, 1, 0x8, ⟨.ro, 0x0, 0x0, 0x0, 0x0, []⟩⟩,
    ⟨0x40060, 1, 0x8, 1, 0x8, ⟨.ro, 0x0, 0x0, 0x0, 0x0, []⟩⟩,
    ⟨0x40068, 1, 0x8, 1, 0x8, ⟨.ro, 0x0, 0x0, 0x0, 0x0, []⟩⟩]

def coreRows6 : List RegRow := [
    ⟨0x50000, 1, 0x8, 1, 0x8, ⟨.instr, 0xffffffffffffffff, 0x0, 0x0, 0x0, []⟩⟩,
    ⟨0x50008, 1, 0x8, 1, 0x8, ⟨.imm, 0x0, 0x0, 0xf, 0x0, []⟩⟩,
    ⟨0x50010, 1, 0x8, 1, 0x8, ⟨.ro, 0x0, 0x0, 0x0, 0x0, []⟩⟩,
    ⟨0x50018, 1, 0x8, 1, 0x8, ⟨.ro, 0x0, 0x0, 0x0, 0x0, []⟩⟩,
    ⟨0x50020, 1, 0x8, 1, 0x8, ⟨.ro, 0x0, 0x0, 0x0, 0x0, []⟩⟩,
    ⟨0x50040, 1, 0x8, 1, 0x8, ⟨.ro, 0x0, 0x0, 0x0, 0x0, []⟩⟩,
    ⟨0x50048, 1, 0x8, 1, 0x8, ⟨.ro, 0x0, 0x0, 0x0, 0x0, []⟩⟩,
    ⟨0x60000, 1, 0x8, 1, 0x8, ⟨.imm, 0x0, 0x0, 0x7, 0x0, []⟩⟩,
    ⟨0x60008, 1, 0x8, 1, 0x8, ⟨.ro, 0x0, 0x0, 0x0, 0x0, []⟩⟩,
    ⟨0x60010, 1, 0x8, 1, 0x8, ⟨.ro, 0x0, 0x0, 0x0, 0x0, []⟩⟩,
    ⟨0x60018, 1, 0x8, 1, 0x8, ⟨.ro, 0x0, 0x0, 0x0, 0x0, []⟩⟩,
    ⟨0x60040, 1, 0x8, 1, 0x8, ⟨.ro, 0x0, 0x0, 0x0, 0x0, []⟩⟩]

def coreRows7 : List RegRow := [
    ⟨0x60048, 1, 0x8, 1, 0x8, ⟨.ro, 0x0, 0x0, 0x0, 0x0, []⟩⟩,
    ⟨0x60050, 1, 0x8, 1, 0x8, ⟨.ro, 0x0, 0x0, 0x0, 0x0, []⟩⟩,
    ⟨0x60058, 1, 0x8, 1, 0x8, ⟨.ro, 0x0, 0x0, 0x0, 0x0, []⟩⟩,
    ⟨0x70000, 1, 0x8, 1, 0x8, ⟨.instr, 0x0, 0x1, 0x0, 0x0, []⟩⟩,
    ⟨0x70008, 1, 0x8, 1, 0x8, ⟨.imm, 0x0, 0x0, 0x3f, 0x0, []⟩⟩,
    ⟨0x70010, 1, 0x8, 1, 0x8, ⟨.ro, 0x0, 0x0, 0x0, 0x0, []⟩⟩,
    ⟨0x70018, 1, 0x8, 1, 0x8, ⟨.ro, 0x0, 0x0, 0x0, 0x0, []⟩⟩,
    ⟨0x70020, 1, 0x8, 1, 0x8, ⟨.ro, 0x0, 0x0, 0x0, 0x0, []⟩⟩,
    ⟨0x70028, 1, 0x8, 1, 0x8, ⟨.ro, 0x0, 0x0, 0x0, 0x0, []⟩⟩,
    ⟨0x70030, 1, 0x8, 1, 0x8, ⟨.ro, 0x0, 0x0, 0x0, 0x0, []⟩⟩,
    ⟨0x70038, 1, 0x8, 1, 0x8, ⟨.ro, 0x0, 0x0, 0x0, 0x0, []⟩⟩,
    ⟨0x70040, 1, 0x8, 1, 0x8, ⟨.ro, 0x0, 0x0, 0x0, 0x0, []⟩⟩]

def coreRows8 : List RegRow := [
    ⟨0x70080, 6, 0x8, 1, 0x8, ⟨.instr, 0xff, 0x100, 0x0, 0x0, []⟩⟩,
    ⟨0x70100, 48, 0x8, 1, 0x8, ⟨.ro, 0x0, 0x0, 0x0, 0x0, []⟩⟩]

def coreRows : List RegRow := coreRows0 ++ coreRows1 ++ coreRows2 ++ coreRows3 ++ coreRows4 ++ coreRows5 ++ coreRows6 ++ coreRows7 ++ coreRows8

/-- The table's row for a register-space offset: none where no chapter lists a register (R138). -/
def regInfo (off : Nat) : Option RegInfo :=
  if 0x1000000 ≤ off ∧ off < 0x3000000 then
    (coreRows.find? (fun r => r.has (off % 0x100000))).map RegRow.info
  else
    (hubRows.find? (fun r => r.has off)).map RegRow.info

/-- What a register holds at reset: the tables' Reset column. -/
def resetVal (off : Nat) : Word :=
  match regInfo off with
  | some i => i.reset
  | none => 0

end Sys2Proof.Machine
end

