-- ==== Sys2Proof/Machine/Ops.lean ====
section
/-! DEFINITION. Machine/Ops.lean: the named operations every meaning is built from: reading and writing registers, cores, jobs, partitions
and memory, ledger sequence numbers, completions and asynchronous events. -/

namespace Sys2Proof.Machine

open Sys2Proof

/-! ### Registers (R8 to R12) -/

/-- The live value of the register at `off` as it is stored. -/
def State.reg (s : State) (off : Nat) : Word := sget (resetVal off) s.regs off

/-- The register at `off` set to `v`. -/
def State.setReg (s : State) (off : Nat) (v : Word) : State :=
  { s with regs := sput (resetVal off) s.regs off v }

/-- The canonical form of the register map: offsets strictly rising, and no entry at its register's reset value. -/
def Regs.wf : List (Nat × Word) → Bool
  | [] => true
  | (o, v) :: r => decide (v ≠ resetVal o) && (match r with
    | [] => true
    | (q, _) :: _ => decide (o < q)) && Regs.wf r

/-- A field of a live register. -/
def State.fld (s : State) (off lo n : Nat) : Nat := Machine.fld (s.reg off) lo n

/-- A bit of a live register. -/
def State.bit (s : State) (off i : Nat) : Bool := Machine.bit (s.reg off) i

/-- A field of a live register set. -/
def State.setFld (s : State) (off lo n v : Nat) : State := s.setReg off (Machine.setFld (s.reg off) lo n v)

/-- A bit of a live register set. -/
def State.setBit (s : State) (off i : Nat) (b : Bool) : State := s.setReg off (Machine.setBit (s.reg off) i b)

/-- A 64-bit counter advanced by `n`. -/
def State.addReg (s : State) (off n : Nat) : State := s.setReg off (s.reg off + BitVec.ofNat 64 n)

/-- A 64-bit counter taken back by `n`. -/
def State.subReg (s : State) (off n : Nat) : State := s.setReg off (s.reg off - BitVec.ofNat 64 n)

/-- A counter field of `w` bits from bit `lo` advanced by one, within its field. -/
def State.bump (s : State) (off lo w : Nat) : State := s.setFld off lo w (s.fld off lo w + 1)

/-- The shadow copy of the register at `off`: R12. A register no write has waited in reads as its live value. -/
def State.shadowOf (s : State) (off : Nat) : Word :=
  match s.shadow.find? (fun e => e.1 == off) with
  | some e => e.2
  | none => s.reg off

/-- The shadow copy written: R12. -/
def State.setShadow (s : State) (off : Nat) (v : Word) : State := { s with shadow := sins s.shadow off v }

/-- The shadow copy taken live: the read-write fields replace the live ones, and nothing waits any more. -/
def State.takeShadow (s : State) (off : Nat) : State :=
  match s.shadow.find? (fun e => e.1 == off), regInfo off with
  | some e, some i =>
    ({ s with shadow := sdel s.shadow off }).setReg off ((s.reg off &&& ~~~ i.rw) ||| (e.2 &&& i.rw))
  | _, _ => s

/-- The registers with something waiting in their shadow whose Takes effect scope is `sc` and whose offset satisfies `p`. -/
def State.waiting (s : State) (sc : RegScope) (p : Nat → Bool) : List Nat :=
  (s.shadow.filter (fun e => p e.1 && (match regInfo e.1 with | some i => i.scope == sc | none => false))).map Prod.fst

/-- Fold a list of numbers through a state. -/
def State.each {α : Type} (l : List α) (f : α → State → State) (s : State) : State := l.foldl (fun s x => f x s) s

/-! ### Ledger sequence numbers (R39, R427) -/

/-- `n` updates of ledger kind `k`: R427. MEDIA_PAGE_SEQ is the page ledger's counter seen in the media block. -/
def State.tick (s : State) (k : Nat) (n : Nat := 1) : State :=
  let s := s.addReg (Reg.LEDGER_SEQ k) n
  if k = 0 then s.setReg Reg.MEDIA_PAGE_SEQ (s.reg (Reg.LEDGER_SEQ 0)) else s

/-- PWR_SAMPLE.sample_seq: R41. -/
def State.sampleSeq (s : State) : Nat := s.fld Reg.PWR_SAMPLE 16 48

/-! ### Cores, jobs and partitions -/

/-- Cores of the grade: R1. -/
def State.coreCount (s : State) : Nat := if s.fuse.grade = 2 then 16 else 32

/-- Whether core `c` is present in this grade: R1, R17. -/
def State.hasCore (s : State) (c : Nat) : Bool := decide (c < s.coreCount)

/-- Whether girth port `g` is present in this grade: R1, R17. -/
def State.hasPort (s : State) (g : Nat) : Bool := decide (g < (if s.fuse.grade = 2 then 2 else 6))

/-- Whether OX and HX are fused off: R1. -/
def State.fusedOff (s : State) : Bool := s.fuse.grade != 0

/-- Core `c`. -/
def State.core (s : State) (c : Nat) : Core := sget {} s.cores c

/-- Core `c` replaced. -/
def State.setCore (s : State) (c : Nat) (k : Core) : State := { s with cores := sput {} s.cores c k }

/-- Core `c` changed. -/
def State.modCore (s : State) (c : Nat) (f : Core → Core) : State := s.setCore c (f (s.core c))

/-- A partition's live core set: R398. -/
def State.partCores (s : State) (p : Nat) : List Nat := bitsOf 32 (s.fld (Reg.SCHED_PART p) 32 32)

/-- The partition that owns core `c`, if any: R398. -/
def State.partOf (s : State) (c : Nat) : Option Nat :=
  (List.range 8).find? (fun p => s.bit (Reg.SCHED_PART p) (32 + c))

/-- The job with identifier `n`. -/
def State.job? (s : State) (n : NHdr) : Option Job := s.jobs.find? (fun j => j.n == n)

/-- The job with identifier `n` changed. -/
def State.modJob (s : State) (n : NHdr) (f : Job → Job) : State :=
  { s with jobs := s.jobs.map (fun j => if j.n == n then f j else j) }

/-- The job that core `c` is running, if any. -/
def State.jobOn (s : State) (c : Nat) : Option Job :=
  match (s.core c).job with
  | some n => s.job? n
  | none => none

/-- The partition core `c` works for: its job's, else its owner's; 8 (housekeeping) when it belongs to none (R52). -/
def State.payer (s : State) (c : Nat) : Nat :=
  match s.jobOn c with
  | some j => j.part
  | none => (s.partOf c).getD 8

/-- The device address of instruction `index` of core `c`, as a PC register shows it: 16 bytes an instruction (R164). -/
def State.pcOf (s : State) (c index : Nat) : Nat := (s.core c).codeBase + 16 * index

/-! ### The address map (R137, R140, R141) -/

/-- Where core `c`'s SRAM window begins. -/
def sramBase (c : Nat) : Nat := 0x100000000 + c * 0x2000000

/-- Bytes of SRAM in a core. -/
def sramSize : Nat := 0x1800000

def dramBase : Nat := 0x8000000000

def weightBase : Nat := 0x400000000000

def hostWinBase : Nat := 0x800000000000

/-- The highest program-addressable DRAM address: R141. -/
def State.dramLimit (s : State) : Nat := s.fld Reg.DRAM_LIMIT 0 48

/-- The tiers of R137 as an address finds them. -/
inductive Tier where
  | regs | sram (core off : Nat) | dram | weight | hostWin | absent
  deriving DecidableEq, Repr

/-- Whether register-space address `a` lies in the window of a girth port that this grade lacks: R4, R138. -/
def State.deadPort (s : State) (a : Nat) : Bool :=
  decide (0x101000 ≤ a) && decide (a < 0x107000) && !s.hasPort ((a - 0x101000) / 0x1000)

/-- Whether register-space address `a` lies in a block's window: R138; the windows of absent cores and ports and of a harness that is fused off
are not there (R4). -/
def State.inBlock (s : State) (a : Nat) : Bool :=
  decide (a < 0x60000) || (decide (0x100000 ≤ a) && decide (a < 0x110000) && !s.deadPort a) || (decide (0x200000 ≤ a) && decide (a < 0x290000)) ||
  (decide (0x300000 ≤ a) && decide (a < 0x400000)) || (decide (0x400000 ≤ a) && decide (a < 0x500000) && !s.fusedOff) ||
  (decide (0x1000000 ≤ a) && decide (a < 0x3000000) && s.hasCore ((a - 0x1000000) / 0x100000))

/-- Where device address `a` lies: R137, R138, R141. Above DRAM_LIMIT, and in the SRAM window of an absent core, nothing is populated. -/
def State.tier (s : State) (a : Nat) : Tier :=
  if a < 0x100000000 then (if s.inBlock a then .regs else .absent)
  else if a < 0x140000000 then
    let c := (a - 0x100000000) / 0x2000000
    let o := (a - 0x100000000) % 0x2000000
    if s.hasCore c && decide (o < sramSize) then .sram c o else .absent
  else if dramBase ≤ a ∧ a < 0x10000000000 then (if a ≤ s.dramLimit then .dram else .absent)
  else if weightBase ≤ a ∧ a < hostWinBase then .weight
  else if hostWinBase ≤ a ∧ a < 0x1000000000000 then .hostWin
  else .absent

/-! ### Memory bytes and lines (R152, R155, R159)

SRAM and DRAM bytes share one map by device address; a line is 64 bytes, named by its address divided by 64. -/

/-- The canonical form of a byte map whose unlisted addresses read as zero. -/
def Memory.wf (m : List Host.Cell) : Bool := swf 0 m

/-- The byte stored at `a`: zero where nothing is listed (R155 for SRAM). -/
def memByte (m : List Host.Cell) (a : Nat) : Byte := sget 0 m a

/-- `n` bytes from `a`. -/
def memBytes (m : List Host.Cell) (a n : Nat) : List Byte := (List.range n).map (fun i => memByte m (a + i))

/-- Bytes stored from `a` on. -/
def memPut (m : List Host.Cell) (a : Nat) : List Byte → List Host.Cell
  | [] => m
  | b :: r => memPut (sput 0 m a b) (a + 1) r

/-- `n` bytes from `a` returned to zero. -/
def memZero (m : List Host.Cell) (a n : Nat) : List Host.Cell := m.filter (fun e => decide (e.1 < a) || decide (a + n ≤ e.1))

/-- Whether line `l` carries the poison mark. -/
def State.poisoned (s : State) (l : Nat) : Bool := setHas s.poison l

/-- Whether any line touched by `n` bytes from `a` carries the poison mark. -/
def State.anyPoison (s : State) (a n : Nat) : Bool := s.poison.any (fun l => decide (a / 64 ≤ l) && decide (l * 64 < a + n))

/-- The mark of a line written: a poisoned write sets it, a whole-line clean write clears it, a narrower one keeps it (R152). -/
def State.markLine (s : State) (l : Nat) (whole poison : Bool) : State :=
  if poison then { s with poison := setAdd s.poison l }
  else if whole then { s with poison := setDel s.poison l }
  else s

/-- Bytes cut at line ends: the address and the bytes of each piece. -/
def linePieces : Nat → Nat → List Byte → List (Nat × List Byte)
  | 0, _, _ => []
  | f + 1, a, bs =>
    if bs.isEmpty then []
    else
      let n := 64 - a % 64
      (a, bs.take n) :: linePieces f (a + n) (bs.drop n)

/-- One piece, within a line, stored in DRAM. -/
def State.dramPiece (poison : Bool) (p : Nat × List Byte) (s : State) : State :=
  ({ s with mem := memPut s.mem p.1 p.2 }).markLine (p.1 / 64) (decide (p.2.length = 64)) poison

/-- Bytes stored in DRAM from device address `a`, each line under R152. -/
def State.dramWrite (s : State) (a : Nat) (bs : List Byte) (poison : Bool := false) : State :=
  State.each (linePieces (bs.length + 1) a bs) (State.dramPiece poison) s

/-- `n` bytes of DRAM from `a`: a line stored as poisoned returns zero (R151, R152). -/
def State.dramRead (s : State) (a n : Nat) : List Byte :=
  (List.range n).map (fun i => if s.poisoned ((a + i) / 64) then 0 else memByte s.mem (a + i))

/-! ### Completions and asynchronous events (R362, R364) -/

/-- A completion posted to the host. -/
def State.complete (s : State) (n : NHdr) (sct sc : Nat) (dw0 : Nat := 0) (dw1 : Nat := 0) (data : List Byte := []) : State :=
  { s with host := { s.host with out := s.host.out ++ [⟨n, sct, sc, dw0, dw1, data⟩] } }

/-- Successful completion. -/
def State.ok (s : State) (n : NHdr) (dw0 : Nat := 0) (dw1 : Nat := 0) (data : List Byte := []) : State :=
  s.complete n 0 0 dw0 dw1 data

/-- Invalid Field in Command: R362. -/
def State.badField (s : State) (n : NHdr) : State := s.complete n 0 2

/-- A status of the device's own, Status Code Type 7h: R362. -/
def State.vendor (s : State) (n : NHdr) (sc : Nat) (dw0 : Nat := 0) (dw1 : Nat := 0) : State := s.complete n 7 sc dw0 dw1

/-- The log page an asynchronous event names: R364. -/
def eventPage (e : Nat) : Nat := if e = 0xC0 ∨ e = 0xC1 then 0xD2 else if e = 0xC2 then 0x02 else 0xD3

/-- Outstanding Asynchronous Event Requests answered with waiting events, one event to each controller that has a request. -/
def HostState.serveAer (h : HostState) : HostState :=
  match h.queuedEv with
  | [] => h
  | e :: r =>
    let served := h.ctrls.filterMap (fun c => c.2.aers.head?.map (fun cid => (c.1, cid)))
    if served.isEmpty then h
    else
      { h with
        queuedEv := r
        ctrls := h.ctrls.map (fun c => (c.1, { c.2 with aers := c.2.aers.tail }))
        out := h.out ++ served.map (fun x => ⟨⟨BitVec.ofNat 8 x.1, 0, x.2⟩, 0, 0, 7 ||| (e <<< 8) ||| (eventPage e <<< 16), 0, []⟩) }

/-- An asynchronous event raised: once, until its log page is read and re-arms it (R364). -/
def State.raiseEvent (s : State) (e : Nat) : State :=
  if setHas s.host.raised e then s
  else
    let h := { s.host with raised := setAdd s.host.raised e, queuedEv := s.host.queuedEv ++ [e] }
    { s with host := h.serveAer }

/-- The next free value's counter: what Config's constants are applied to. -/
def State.fresh (s : State) : State := { s with free := s.free + 1 }

end Sys2Proof.Machine
end

