-- ==== Sys2Proof/Machine/Flags.lean ====
section
/-! DEFINITION. Machine/Flags.lean: the block's flags. Every sticky fault bit with its first-fault capture (R429, R430), the daybook source
it asserts (R411, R412), the job poison flag (R433) and the violation counters (R432). -/

namespace Sys2Proof.Machine

open Sys2Proof

/-! ### Fault registers -/

/-- The units of a core that have a fault register, in the order of FAULT_CORE_c (R438). -/
inductive CoreUnit where
  | seq | dx | mx | vx | sx | ox | hx | gx | sram
  deriving DecidableEq, Repr

/-- The blocks that have a fault register: those of FAULT_SUM in its order (R438), and a core's units. -/
inductive FaultUnit where
  | pwr | mem | hubSram | media | host | girth | harn | srv | sidx | sched | dbk | ledger | dev | guard
  | core (c : Nat) (u : CoreUnit)
  deriving DecidableEq, Repr

/-- The fault register of a unit. -/
def FaultUnit.reg : FaultUnit → Nat
  | .pwr => Reg.PWR_FAULT
  | .mem => Reg.MEM_FAULT
  | .hubSram => Reg.HUB_SRAM_FAULT
  | .media => Reg.MEDIA_FAULT
  | .host => Reg.HOST_FAULT
  | .girth => Reg.GIRTH_FAULT
  | .harn => Reg.HARN_FAULT
  | .srv => Reg.SRV_FAULT
  | .sidx => Reg.SIDX_FAULT
  | .sched => Reg.SCHED_FAULT
  | .dbk => Reg.DBK_FAULT
  | .ledger => Reg.LEDGER_FAULT
  | .dev => Reg.FAULT_DEV
  | .guard => Reg.GUARD_FAULT
  | .core c .seq => Reg.SEQ_FAULT c
  | .core c .dx => Reg.DX_FAULT c
  | .core c .mx => Reg.MX_FAULT c
  | .core c .vx => Reg.VX_FAULT c
  | .core c .sx => Reg.SX_FAULT c
  | .core c .ox => Reg.OX_FAULT c
  | .core c .hx => Reg.HX_FAULT c
  | .core c .gx => Reg.GX_FAULT c
  | .core c .sram => Reg.SRAM_FAULT c

/-- The capture register of a unit: beside its fault register (FAULT_DEV has FAULT_DEV_ADDR there). -/
def FaultUnit.cap (u : FaultUnit) : Nat := u.reg + 8

/-- The PC or address register of a unit, where it has one: R429. -/
def FaultUnit.addr : FaultUnit → Option Nat
  | .mem => some Reg.MEM_FAULT_ADDR
  | .hubSram => some Reg.HUB_SRAM_FAULT_ADDR
  | .media => some Reg.MEDIA_FAULT_ADDR
  | .host => some Reg.HOST_FAULT_ADDR
  | .core c .seq => some (Reg.SEQ_FAULT_PC c)
  | .core c .dx => some (Reg.DX_FAULT_PC c)
  | .core c .mx => some (Reg.MX_FAULT_PC c)
  | .core c .vx => some (Reg.VX_FAULT_PC c)
  | .core c .sx => some (Reg.SX_FAULT_PC c)
  | .core c .ox => some (Reg.OX_FAULT_PC c)
  | .core c .hx => some (Reg.HX_FAULT_PC c)
  | .core c .gx => some (Reg.GX_FAULT_PC c)
  | .core c .sram => some (Reg.SRAM_FAULT_ADDR c)
  | _ => none

/-- The lowest bit of the capture's sequence number. -/
def FaultUnit.seqLo : FaultUnit → Nat
  | .dbk => 20
  | .core _ .vx => 18
  | .core _ .gx => 32
  | _ => 16

/-- The fault registers of the hub blocks. -/
def hubUnits : List FaultUnit :=
  [.pwr, .mem, .hubSram, .media, .host, .girth, .harn, .srv, .sidx, .sched, .dbk, .ledger, .dev, .guard]

/-- The units of a core. -/
def coreUnits : List CoreUnit := [.seq, .dx, .mx, .vx, .sx, .ox, .hx, .gx, .sram]

/-- A word whose bit i says whether the i-th fault register of a list is non-zero. -/
def State.sumOf (s : State) (us : List FaultUnit) : Nat :=
  us.foldr (fun u acc => 2 * acc + (if s.reg u.reg = 0 then 0 else 1)) 0

/-- FAULT_CORE_c: R430. -/
def State.faultCore (s : State) (c : Nat) : Nat := s.sumOf (coreUnits.map (FaultUnit.core c))

/-- FAULT_SUM: R430. -/
def State.faultSum (s : State) : Nat := s.sumOf hubUnits

/-- FAULT_SUM_CORE: R430. -/
def State.faultSumCore (s : State) : Nat :=
  (List.range 32).foldr (fun c acc => 2 * acc + (if s.faultCore c = 0 then 0 else 1)) 0

/-- Whether every fault register is zero: the condition of FAULT_FIRST (R430). -/
def State.noFaults (s : State) : Bool := s.faultSum == 0 && s.faultSumCore == 0

/-- The capture loaded: first bit, what it concerns (`extra`, at its place above bit 8), the sequence number; and the PC or address
(R429). FAULT_DEV captures the offset and the sample in FAULT_DEV_ADDR (R431). -/
def State.capture (s : State) (u : FaultUnit) (b extra addr seq : Nat) : State :=
  if u = .dev then
    s.setReg Reg.FAULT_DEV_ADDR (BitVec.ofNat 64 (addr % 2 ^ 32 + (seq % 2 ^ 32) * 2 ^ 32))
  else
    let s := s.setReg u.cap (BitVec.ofNat 64 (b + extra + seq * 2 ^ u.seqLo))
    match u.addr with
    | some a => s.setReg a (BitVec.ofNat 64 (addr % 2 ^ 48))
    | none => s

/-- The bit set, with FAULT_FIRST and the capture when they load (R10, R429, R430), and event 0xC3 (R364). `seq` is the number captured. -/
def State.setFault (s : State) (u : FaultUnit) (b extra addr seq : Nat) : State :=
  let s := if s.noFaults then
      s.setReg Reg.FAULT_FIRST (BitVec.ofNat 64 (u.reg + (s.sampleSeq % 2 ^ 32) * 2 ^ 32))
    else s
  let s := if s.reg u.reg = 0 then s.capture u b extra addr seq else s
  (s.setBit u.reg b true).raiseEvent 0xC3

/-! ### The daybook (R411 to R420) -/

/-- A source's enable bit. -/
def State.srcEn (s : State) (n : Nat) : Bool := s.bit (Reg.DBK_EN (n / 64)) (n % 64)

def State.srcPend (s : State) (n : Nat) : Bool := s.bit (Reg.DBK_PEND (n / 64)) (n % 64)

def State.srcActive (s : State) (n : Nat) : Bool := s.bit (Reg.DBK_ACTIVE (n / 64)) (n % 64)

def State.srcLevel (s : State) (n : Nat) : Bool := s.bit (Reg.DBK_LEVEL (n / 64)) (n % 64)

def State.setPend (s : State) (n : Nat) (b : Bool) : State := s.setBit (Reg.DBK_PEND (n / 64)) (n % 64) b

def State.setActive (s : State) (n : Nat) (b : Bool) : State := s.setBit (Reg.DBK_ACTIVE (n / 64)) (n % 64) b

def State.setLevel (s : State) (n : Nat) (b : Bool) : State := s.setBit (Reg.DBK_LEVEL (n / 64)) (n % 64) b

/-- The number of records in steward `w`'s ring. -/
def State.ringCount (s : State) (w : Nat) : Nat := s.fld (Reg.DBK_RING w) 16 9

/-- Whether steward `w` may take source `n`: R413. -/
def State.eligible (s : State) (n w : Nat) : Bool :=
  s.bit (Reg.DBK_ROUTE (n / 8)) (8 * (n % 8) + w) && !s.bit (Reg.DBK_STW w) 6 && decide (s.ringCount w < 256)

/-- The priority a steward counts with, one above DBK_STW_s.prio, and zero when asleep: R413. -/
def State.stwPrio (s : State) (w : Nat) : Nat :=
  if s.bit (Reg.DBK_STW w) 5 then 0 else s.fld (Reg.DBK_STW w) 0 4 + 1

/-- The steward to which source `n` would be routed: the eligible one at the lowest priority, the lower number at a tie (R413). -/
def State.routeOf (s : State) (n : Nat) : Option Nat :=
  ((List.range 8).filter (s.eligible n)).foldl (fun best w =>
    match best with
    | none => some w
    | some b => if s.stwPrio w < s.stwPrio b then some w else some b) none

/-- While delivery is held, a sleeping steward that would be the choice for a pending source wakes: R419. -/
def State.wakeHeld (s : State) : State :=
  if s.bit Reg.DBK_CTL 0 then
    State.each ((List.range 512).filter s.srcPend) (fun n s =>
      match s.routeOf n with
      | some w => s.setBit (Reg.DBK_STW w) 5 false
      | none => s) s
  else s

/-- A source on an absent core never asserts: R412. -/
def State.srcPresent (s : State) (n : Nat) : Bool :=
  !(s.fuse.grade == 2 && ((decide (208 ≤ n) && decide (n < 224)) || (decide (240 ≤ n) && decide (n < 256))))

/-- Source `n` asserts, or its block records a new occurrence: idle and enabled it becomes pending, active it becomes active and pending
(R411). -/
def State.fire (s : State) (n : Nat) : State :=
  if s.srcPresent n then
    let s := s.setLevel n true
    if s.srcEn n then (s.setPend n true).wakeHeld else s
  else s

/-- DBK_FAULT's bits concern a source and a steward: their place in the capture (R422). -/
def dbkExtra (source steward : Nat) : Nat := source * 2 ^ 8 + steward * 2 ^ 17

/-- A violation counted device-wide: once, however many block counters it advances (R432). -/
def State.countViolation (s : State) : State := s.addReg Reg.FAULT_VIOL_TOTAL 1

/-- Source `n` deasserts: a firing not yet delivered is dropped as spurious (R411). -/
def State.unfire (s : State) (n : Nat) : State :=
  let s := s.setLevel n false
  if s.srcPend n then
    let s := s.setPend n false
    let s := { s with daybook := { s.daybook with refire := setDel s.daybook.refire n, redel := setDel s.daybook.redel n } }
    let s := s.setFault .dbk 0 (dbkExtra n 0) 0 s.sampleSeq
    s.addReg Reg.DBK_VIOL_COUNT 1
  else s

/-- The daybook sources that a fault bit asserts: R412. -/
def FaultUnit.sources (u : FaultUnit) (b : Nat) : List Nat :=
  match u with
  | .pwr => if b = 1 ∨ b = 2 then [0] else if b = 3 then [1] else if b = 4 then [2]
            else if b = 6 ∨ b = 7 ∨ b = 8 ∨ b = 9 then [3] else [4]
  | .mem => if b = 3 then [32] else [33]
  | .media => if b = 10 then [40] else if b = 11 then [41] else [42]
  | .sidx => if b = 0 then [48] else [49]
  | .host => [66]
  | .girth => if b = 4 then [96] else if b = 3 then [97] else [98]
  | .harn => if b = 4 then [] else [132]
  | .srv => if b = 4 then [136] else if b = 5 then [137] else [138]
  | .sched => [168]
  | .core c .seq => if b = 7 then [192 + c] else [224 + c]
  | .core c .sx => [49, 224 + c]
  | .core c _ => [224 + c]
  | .ledger => if b < 8 then [256 + b] else []
  | .hubSram | .dbk | .dev | .guard => []

/-- Every bit of a fault register set. -/
def State.faultBits (s : State) (u : FaultUnit) : List Nat := bitsOf 64 (s.reg u.reg).toNat

/-- Whether a fault source is asserted: some bit assigned to it is set (R411). -/
def State.faultLevel (s : State) (n : Nat) : Bool :=
  let units := hubUnits ++
    (if n = 49 then (List.range 32).map (fun c => FaultUnit.core c .sx)
     else if 192 ≤ n ∧ n < 256 then coreUnits.map (FaultUnit.core ((n - 192) % 32)) else [])
  units.any (fun u => (s.faultBits u).any (fun b => (u.sources b).contains n))

/-- A block records a new occurrence of fault bit `b`: the bit is set with its capture and its source fires (R429, R411). -/
def State.raise (s : State) (u : FaultUnit) (b : Nat) (extra : Nat := 0) (addr : Nat := 0) : State :=
  State.each (u.sources b) (fun n s =>
    ({ s with daybook := { s.daybook with reg := sput 0 s.daybook.reg n u.reg } }).fire n) (s.setFault u b extra addr s.sampleSeq)

/-- A standing condition seen at a sample: nothing when its bit is already set (R480). -/
def State.raiseStanding (s : State) (u : FaultUnit) (b : Nat) (extra : Nat := 0) : State :=
  if s.bit u.reg b then s else s.raise u b extra

/-- Ones written to a fault register clear its bits; a source left with no bit deasserts (R10, R411). -/
def State.clearFault (s : State) (u : FaultUnit) (ones : Word) : State :=
  let gone := (bitsOf 64 (ones &&& s.reg u.reg).toNat).flatMap u.sources
  let s := s.setReg u.reg (s.reg u.reg &&& ~~~ ones)
  State.each gone.eraseDups (fun n s => if s.srcLevel n && !s.faultLevel n then s.unfire n else s) s

/-! ### The job's poison flag (R433) -/

/-- Whether a fault bit of a core's unit is an event that marks data poisoned: R433. -/
def CoreUnit.poisonBit (u : CoreUnit) (b : Nat) : Bool :=
  match u with
  | .mx => decide (b ≤ 9)
  | .vx => decide (b ≤ 2)
  | .dx => b == 2 || b == 3
  | .sx => b == 1
  | .ox => b == 1
  | .seq => b == 9
  | .hx => b == 1 || b == 2
  | .gx => b == 1 || b == 2 || b == 3
  | .sram => b == 0 || b == 1

/-- The poison flag of the job on core `c`. -/
def State.poisonJob (s : State) (c : Nat) : State :=
  match (s.core c).job with
  | some n => s.modJob n (fun j => { j with poison := true })
  | none => s

/-- A unit of core `c` records fault bit `b`: R429, R433. `pc` is the device address of the instruction, or the offset for SRAM. -/
def State.coreFault (s : State) (c : Nat) (u : CoreUnit) (b : Nat) (pc : Nat) (extra : Nat := 0) : State :=
  let s := s.raise (.core c u) b extra pc
  if u.poisonBit b then s.poisonJob c else s

/-- `n` residue mismatches counted against core `c`, which is quarantined when they reach the limit: R436. -/
def State.residueHits (s : State) (c n : Nat) : State :=
  let s := s.addReg (Reg.FAULT_RESIDUE c) n
  let limit := s.fld Reg.FAULT_RESIDUE_LIMIT 0 16
  if limit ≠ 0 ∧ limit ≤ (s.reg (Reg.FAULT_RESIDUE c)).toNat then s.setBit Reg.FAULT_QUARANTINE c true else s

/-! ### Violations (R432) -/

/-- The violation bit of a core's unit; the sequencer has none, and each of its violations names its own bit. -/
def CoreUnit.violBit : CoreUnit → Nat
  | .seq => 0
  | .dx => 0
  | .mx => 10
  | .vx => 3
  | .sx => 0
  | .ox => 0
  | .hx => 0
  | .gx => 0
  | .sram => 5

/-- The violation counter of a core's unit. -/
def CoreUnit.violCount (c : Nat) : CoreUnit → Nat
  | .seq => Reg.SEQ_VIOL_COUNT c
  | .dx => Reg.DX_VIOL_COUNT c
  | .mx => Reg.MX_VIOL_COUNT c
  | .vx => Reg.VX_VIOL_COUNT c
  | .sx => Reg.SX_VIOL_COUNT c
  | .ox => Reg.OX_VIOL_COUNT c
  | .hx => Reg.HX_VIOL_COUNT c
  | .gx => Reg.GX_VIOL_COUNT c
  | .sram => Reg.SRAM_VIOL_COUNT c

/-- A violation by a unit of core `c`: its bit, its counter and the device's total (R432). -/
def State.violate (s : State) (c : Nat) (u : CoreUnit) (pc : Nat) (extra : Nat := 0) : State :=
  ((s.coreFault c u u.violBit pc extra).addReg (u.violCount c) 1).countViolation

/-- A sequencer violation: the sequencer's bit `b` and SEQ_VIOL_COUNT (R169, R432). -/
def State.seqViolate (s : State) (c b pc : Nat) : State :=
  ((s.coreFault c .seq b pc).addReg (Reg.SEQ_VIOL_COUNT c) 1).countViolation

/-- The memory block's own record of an absent or forbidden access: R137. -/
def State.memViolation (s : State) (addr : Nat) : State :=
  (s.raise .mem 5 0 addr).addReg Reg.MEM_VIOL_COUNT 1

/-- An access to an absent or forbidden address by a unit of core `c`: one violation, the accessor's bit and count and the memory block's
(R137, R432). -/
def State.badAccess (s : State) (c : Nat) (u : CoreUnit) (pc addr : Nat) : State := (s.violate c u pc).memViolation addr

/-- A register access of wrong size or alignment (bit 0) or a reserved encoding (bit 1): R431. -/
def State.devFault (s : State) (b off : Nat) : State := (s.raise .dev b 0 off).countViolation

/-- A host access outside what is mapped: bit 0 window, 2 bar_violation (R342, R343), with the function concerned. -/
def State.hostViolation (s : State) (b fn addr : Nat) : State :=
  ((s.raise .host b (fn * 2 ^ 8) addr).addReg Reg.HOST_VIOL_COUNT 1).countViolation

end Sys2Proof.Machine
end

