-- ==== Sys2Proof/Machine/Sram.lean ====
section
/-! DEFINITION. Machine/Sram.lean: on-chip SRAM (R154 to R158): what its words hold, the errors a read finds, merge buffers, injection and remapping,
for the cores' banks and for the hub SRAM. -/

namespace Sys2Proof.Machine

open Sys2Proof

/-! ### What SRAM holds (R154 to R156) -/

/-- The bank of SRAM byte offset `o`: R19. -/
def bankOf (o : Nat) : Nat := (o / 64) % 48

/-- Byte `i` of a merge entry's word, when the entry covers it: R156. -/
def MergeEntry.byte (e : MergeEntry) (i : Nat) : Option Byte :=
  if e.mask.getLsbD i then some ((e.bytes >>> (8 * i)).setWidth 8) else none

/-- The byte at SRAM offset `o` of core `c`, merged bytes first (R156). -/
def State.sramByte (s : State) (c o : Nat) : Byte :=
  match (s.core c).merge.find? (fun e => e.word == o / 8) with
  | some e =>
    match e.byte (o % 8) with
    | some b => b
    | none => memByte s.mem (sramBase c + o)
  | none => memByte s.mem (sramBase c + o)

/-- `n` bytes of SRAM from offset `o`; past the end of SRAM, zero. -/
def State.sramBytes (s : State) (c o n : Nat) : List Byte :=
  (List.range n).map (fun i => if o + i < sramSize then s.sramByte c (o + i) else 0)

/-- Whether any line of `n` SRAM bytes from `o` is poisoned. -/
def State.sramPoison (s : State) (c o n : Nat) : Bool := s.anyPoison (sramBase c + o) n

/-- Line made valid: R155. -/
def State.validate (s : State) (l : Nat) : State := { s with valid := setAdd s.valid l }

/-- The entry of word `w` gone from core `c`'s merge buffers. -/
def State.dropEntry (s : State) (c w : Nat) : State := s.modCore c (fun k => { k with merge := k.merge.filter (fun e => e.word != w) })

/-! ### Errors found on a read (R154, R157, R158) -/

/-- Whether `m` has an even number of ones. -/
def evenMask (m : BitVec 8) : Bool := ((List.range 8).filter m.getLsbD).length % 2 == 0

/-- Whether a mask reads as an uncorrectable error: an even number of ones, or an odd number of three or more that the code, unpublished, so
decodes (R157). -/
def badMask (m : BitVec 8) : Bool :=
  evenMask m || (decide (((List.range 8).filter m.getLsbD).length ≠ 1) && Config.oddMaskUncorrectable m)

/-- A word of core `c` remapped: R158. -/
def State.remapWord (s : State) (c w : Nat) : State :=
  let b := bankOf (8 * w)
  let used := sget [] (s.core c).remap b
  if used.contains w then s
  else if used.length < 8 then
    let s := s.modCore c (fun k => { k with remap := sput [] k.remap b (used ++ [w]) })
    let s := s.setFld (Reg.SRAM_REMAP c b) 0 8 (2 ^ (used.length + 1) - 1)
    s.coreFault c .sram 3 (8 * w) (b * 2 ^ 8)
  else s.coreFault c .sram 4 (8 * w) (b * 2 ^ 8)

/-- What a read finds in the words it covers that hold injected errors: corrected, or uncorrectable with the line poisoned (R154, R157).
An odd mask of three or more is the code's own affair. -/
def State.checkWord (c : Nat) (j : Injection) (s : State) : State :=
  let off := 8 * j.word
  let ex := bankOf off * 2 ^ 8
  if badMask j.mask then
    (s.markLine ((sramBase c + off) / 64) false true).coreFault c .sram 1 off ex
  else s.coreFault c .sram 2 off ex

/-- The injected words that `n` bytes from `o` touch, checked as they are read. -/
def State.sramCheck (s : State) (c o n : Nat) : State :=
  State.each ((s.core c).flipped.filter (fun j => decide (o < 8 * j.word + 8) && decide (8 * j.word < o + n))) (State.checkWord c) s

/-- The bytes a miscorrection inverts one bit of: R157. -/
def State.miscorrect (s : State) (c o : Nat) (b : Byte) : Byte :=
  match (s.core c).flipped.find? (fun j => j.word == o / 8) with
  | some j =>
    if badMask j.mask || ((List.range 8).filter j.mask.getLsbD).length == 1 then b
    else
      let t := (Config.oddMaskBit j.mask).toNat
      if t / 8 = o % 8 then b ^^^ (1 <<< (t % 8)) else b
  | none => b

/-- The bytes of word `w` as a read of it returns them: R157. -/
def State.wordBytes (s : State) (c w : Nat) : List Byte :=
  (List.range 8).map (fun i => s.miscorrect c (8 * w + i) (memByte s.mem (sramBase c + 8 * w + i)))

/-- A word of core `c` had a real corrected error: counted, and remapped at its second since warm reset (R154, R158). -/
def State.wordCorrected (s : State) (c w : Nat) : State :=
  let s := s.addReg (Reg.SRAM_CE_COUNT c) 1
  if setHas (s.core c).ceOnce w then s.remapWord c w
  else s.modCore c (fun k => { k with ceOnce := setAdd k.ceOnce w })

/-- A word of core `c` had a real uncorrectable error: its line is poisoned (R154), and the word is remapped once it has next been written
(R158). -/
def State.wordLost (s : State) (c w : Nat) : State :=
  let s := s.markLine ((sramBase c + 8 * w) / 64) false true
  let s := (s.coreFault c .sram 0 (8 * w) (bankOf (8 * w) * 2 ^ 8)).addReg (Reg.SRAM_UE_COUNT c) 1
  s.modCore c (fun k => { k with lost := setAdd k.lost w })

/-- A read of word `w` of core `c` found what `out` says. -/
def State.wordRead (s : State) (c w : Nat) (out : LineOutcome) : State :=
  match out with
  | .clean | .hostError => s
  | .corrected => s.wordCorrected c w
  | .uncorrectable => s.wordLost c w

/-! ### Writes and merge buffers (R156, R157) -/

/-- A code word of SRAM written; an injected error that it held is gone (R157), and a word that had an uncorrectable error is remapped (R158). -/
def State.putPlain (s : State) (c w : Nat) (bs : List Byte) : State :=
  let s := { s with mem := memPut s.mem (sramBase c + 8 * w) bs }.modCore c (fun k => { k with flipped := k.flipped.filter (fun j => j.word != w) })
  if setHas (s.core c).lost w then (s.modCore c (fun k => { k with lost := setDel k.lost w })).remapWord c w else s

/-- A word's bytes with an entry's merged in. -/
def MergeEntry.merged (e : MergeEntry) (old : List Byte) : List Byte := ((List.range 8).zip old).map (fun p => (e.byte p.1).getD p.2)

/-- A merge entry retired ahead of a flip injection, which lands on none of the words so written; its read is checked like any read (R156). -/
def State.retirePlain (c : Nat) (e : MergeEntry) (s : State) : State :=
  ((s.sramCheck c (8 * e.word) 8).putPlain c e.word (e.merged (s.wordBytes c e.word))).dropEntry c e.word

/-- A code word of SRAM written: a pending flip of its group lands on it, once the other merge entries have retired (R156, R157). -/
def State.putWord (s : State) (c w : Nat) (bs : List Byte) : State :=
  let g := bankOf (8 * w) / 8
  let m := sget 0 (s.core c).flipPend g
  if m = 0 then s.putPlain c w bs
  else
    let s := (State.each ((s.core c).merge.filter (fun e => e.word != w)) (State.retirePlain c) s).putPlain c w bs
    let off := Reg.SRAM_FLIP c g
    let s := s.modCore c (fun k => { k with flipPend := sput 0 k.flipPend g 0, flipped := ⟨w, m⟩ :: k.flipped })
    ((s.setFld off 16 6 (bankOf (8 * w))).setFld off 32 25 (8 * w))

/-- A merge entry retired: its word read and checked like any read, merged and rewritten; with no read when its mask is full (R156). -/
def State.retireEntry (c : Nat) (e : MergeEntry) (s : State) : State :=
  let bs := e.merged (s.wordBytes c e.word)
  let s := if e.mask = 255 then s else s.sramCheck c (8 * e.word) 8
  (s.putWord c e.word bs).dropEntry c e.word

/-- Every merge buffer of core `c` emptied, oldest first: R156. -/
def State.emptyMerge (s : State) (c : Nat) : State := State.each (s.core c).merge (State.retireEntry c) s

/-- Bytes `bs` at byte `i` of a word put into an entry. -/
def MergeEntry.add (e : MergeEntry) (i : Nat) : List Byte → MergeEntry
  | [] => e
  | b :: r =>
    MergeEntry.add { e with mask := e.mask ||| (1 <<< i)
                            bytes := (e.bytes &&& ~~~ Machine.mask (8 * i) 8) ||| ((b.setWidth 64) <<< (8 * i)) } (i + 1) r

/-- A write narrower than 8 bytes: it merges into its word's entry or takes one; a ninth entry of a bank retires the oldest; a full mask
retires at once (R156). -/
def State.narrowWrite (s : State) (c o : Nat) (bs : List Byte) : State :=
  let w := o / 8
  let k := s.core c
  match k.merge.find? (fun e => e.word == w) with
  | some e =>
    let e := e.add (o % 8) bs
    if e.mask = 255 then State.retireEntry c e s
    else s.setCore c { k with merge := k.merge.map (fun x => if x.word == w then e else x) }
  | none =>
    let same := k.merge.filter (fun e => bankOf (8 * e.word) == bankOf o)
    let s := if same.length < 8 then s else
      match same with
      | e :: _ => State.retireEntry c e s
      | [] => s
    let k := s.core c
    s.setCore c { k with merge := k.merge ++ [MergeEntry.add ⟨w, 0, 0⟩ (o % 8) bs] }

/-- Bytes cut at 8-byte word ends. -/
def wordPieces : Nat → Nat → List Byte → List (Nat × List Byte)
  | 0, _, _ => []
  | f + 1, o, bs =>
    if bs.isEmpty then []
    else
      let n := 8 - o % 8
      (o, bs.take n) :: wordPieces f (o + n) (bs.drop n)

/-- One piece within a word of SRAM. -/
def State.sramWord (c : Nat) (p : Nat × List Byte) (s : State) : State :=
  if p.2.length = 8 then (s.dropEntry c (p.1 / 8)).putWord c (p.1 / 8) p.2
  else s.narrowWrite c p.1 p.2

/-- One piece within a line of SRAM: valid from now on, its mark under R152, its words written. -/
def State.sramPiece (c : Nat) (poison : Bool) (p : Nat × List Byte) (s : State) : State :=
  let l := (sramBase c + p.1) / 64
  let s := (s.validate l).markLine l (decide (p.2.length = 64)) poison
  State.each (wordPieces 65 p.1 p.2) (State.sramWord c) s

/-- Bytes stored in core `c`'s SRAM from offset `o`: R152, R155 to R157. -/
def State.sramWrite (s : State) (c o : Nat) (bs : List Byte) (poison : Bool := false) : State :=
  State.each (linePieces (bs.length + 1) o bs) (State.sramPiece c poison) s

/-- Every valid bit of core `c` cleared: its lines read as zero and carry no mark (R155). Injected errors there are gone with them. -/
def State.clearValid (s : State) (c : Nat) : State :=
  let lo := sramBase c
  let inC := fun l => decide (lo ≤ l * 64) && decide (l * 64 < lo + sramSize)
  let s := s.emptyMerge c
  let s := { s with mem := memZero s.mem lo sramSize
                    valid := s.valid.filter (fun l => !inC l)
                    poison := s.poison.filter (fun l => !inC l) }
  s.modCore c (fun k => { k with flipped := [] })

/-! ### The hub SRAM (R154 to R158)

It holds the daybook rings and the girth buffers. Only the places of its words are kept here; what the words hold is the rings' and the ports'. -/

/-- The bank of byte offset `o` of the hub SRAM: it has banks 0 to 15 (R161). -/
def hubBank (o : Nat) : Nat := o / 64 % 16

def State.modHub (s : State) (f : HubSram → HubSram) : State := { s with hub := f s.hub }

/-- A fault of the hub SRAM at a word. -/
def State.hubFault (s : State) (b w : Nat) : State := s.raise .hubSram b (hubBank (8 * w) * 2 ^ 8) (8 * w)

/-- A word of the hub SRAM remapped: R158. -/
def State.hubRemap (s : State) (w : Nat) : State :=
  let b := hubBank (8 * w)
  let used := sget [] s.hub.remap b
  if used.contains w then s
  else if used.length < 8 then
    let s := s.modHub (fun h => { h with remap := sput [] h.remap b (used ++ [w]) })
    (s.setFld (Reg.HUB_SRAM_REMAP b) 0 8 (2 ^ (used.length + 1) - 1)).hubFault 3 w
  else s.hubFault 4 w

/-- One word of the hub SRAM written: an injected error that it held is gone, an armed injection lands on it and its place is captured (R157), and a
word that had an uncorrectable error is remapped (R158). -/
def State.hubPut (w : Nat) (s : State) : State :=
  let s := s.modHub (fun h => { h with flipped := h.flipped.filter (fun j => j.word != w) })
  let s := if setHas s.hub.lost w then (s.modHub (fun h => { h with lost := setDel h.lost w })).hubRemap w else s
  if s.hub.pend = 0 then s
  else
    let s := s.modHub (fun h => { h with pend := 0, flipped := ⟨w, h.pend⟩ :: h.flipped })
    (s.setFld (Reg.HUB_SRAM_FLIP 0) 16 6 (hubBank (8 * w))).setFld (Reg.HUB_SRAM_FLIP 0) 32 25 (8 * w)

/-- `n` bytes of the hub SRAM written from offset `o`, whole words: their lines are valid (R155), a whole line written clean loses its mark (R152). -/
def State.hubWrite (s : State) (o n : Nat) : State :=
  let ls := (List.range ((o + n + 63) / 64 - o / 64)).map (fun i => o / 64 + i)
  let s := s.modHub (fun h =>
    { h with valid := ls.foldl setAdd h.valid
             poison := h.poison.filter (fun l => !(decide (o ≤ 64 * l) && decide (64 * l + 64 ≤ o + n))) })
  State.each ((List.range (n / 8)).map (fun i => o / 8 + i)) State.hubPut s

/-- What a read finds in one injected word of the hub SRAM: R157. -/
def State.hubCheck (j : Injection) (s : State) : State :=
  if badMask j.mask then (s.modHub (fun h => { h with poison := setAdd h.poison (j.word / 8) })).hubFault 1 j.word else s.hubFault 2 j.word

/-- `n` bytes of the hub SRAM read from offset `o`: injected errors among them are found. -/
def State.hubRead (s : State) (o n : Nat) : State :=
  State.each (s.hub.flipped.filter (fun j => decide (o < 8 * j.word + 8) && decide (8 * j.word < o + n))) State.hubCheck s

/-- Whether a valid line among `n` bytes of the hub SRAM carries the poison mark. -/
def State.hubPoison (s : State) (o n : Nat) : Bool :=
  s.hub.poison.any (fun l => decide (o / 64 ≤ l) && decide (64 * l < o + n) && setHas s.hub.valid l)

/-- A read of a hub SRAM word found a real error: counted, the word remapped or its line poisoned (R154, R158). -/
def State.hubFound (s : State) (w : Nat) (out : LineOutcome) : State :=
  match out with
  | .clean | .hostError => s
  | .corrected =>
    let s := s.addReg Reg.HUB_SRAM_CE_COUNT 1
    if setHas s.hub.ceOnce w then s.hubRemap w else s.modHub (fun h => { h with ceOnce := setAdd h.ceOnce w })
  | .uncorrectable =>
    ((s.modHub (fun h => { h with poison := setAdd h.poison (w / 8), lost := setAdd h.lost w })).hubFault 0 w).addReg Reg.HUB_SRAM_UE_COUNT 1

end Sys2Proof.Machine
end

