-- ==== Sys2Proof/Machine/Energy.lean ====
section
/-! DEFINITION. Machine/Energy.lean: the purse ledger (R43 to R51) and the estimator's charges (R52, R53). -/

namespace Sys2Proof.Machine

open Sys2Proof

/-- A purse's remaining, signed: R43. -/
def State.remaining (s : State) (p : Nat) : Int := (s.reg (Reg.PURSE_LEVEL p)).toInt

/-- `uj` added to a purse's remaining. -/
def State.addRemaining (s : State) (p : Nat) (uj : Int) : State :=
  s.setReg (Reg.PURSE_LEVEL p) (s.reg (Reg.PURSE_LEVEL p) + BitVec.ofInt 64 uj)

/-- The cover limit of a partition: R48. -/
def State.cover (s : State) (p : Nat) : Nat :=
  s.fld (Reg.PURSE_CTL p) 16 32 +
    ((s.fld Reg.PWR_PERIOD 0 12 - 1) * s.fld Reg.PWR_CAP 0 10 * s.fld (Reg.PURSE_CTL p) 0 10 * 25) / 1000

/-- `uj` microjoules charged to purse `p`: from the step's own reservation until it is used up, the overrun from remaining (R49). `n` names
the job charged, whose step keeps the reservation. -/
def State.spend (s : State) (p : Nat) (n : Option NHdr) (uj : Nat) : State :=
  if uj = 0 then s
  else
    let res := match n.bind s.job? with
      | some j => min uj j.reserved
      | none => 0
    let s := match n with
      | some n => s.modJob n (fun j => { j with reserved := j.reserved - res, spent := j.spent + uj })
      | none => s
    let s := s.subReg (Reg.PURSE_RESERVED p) res
    let s := s.addRemaining p (-((uj - res : Nat) : Int))
    (s.addReg (Reg.PURSE_SPENT p) uj).tick 3

/-- Energy below 1 microjoule that purse `p` keeps, in 2^-14 fJ: PURSE_RESIDUE.charge_fj and the fraction beside it (R53). -/
def State.residue (s : State) (p : Nat) : Nat := s.fld (Reg.PURSE_RESIDUE p) 0 30 * 16384 + sget 0 s.purseFrac p

/-- 1 microjoule in units of 2^-14 fJ. -/
def ujUnits : Nat := 1000000000 * 16384

/-- `fj` of raw event energy charged to purse `p` for job `n`: multiplied by the gain G, whole microjoules spent, the rest kept (R53). -/
def State.chargeFj (s : State) (p : Nat) (n : Option NHdr) (fj : Nat) : State :=
  let t := s.residue p + fj * s.fld Reg.PWR_CAL 0 16
  let r := t % ujUnits
  let s := { s with power := { s.power with rawFj := s.power.rawFj + fj }, purseFrac := sput 0 s.purseFrac p (r % 16384) }
  (s.setFld (Reg.PURSE_RESIDUE p) 0 30 (r / 16384)).spend p n (t / ujUnits)

/-- `count` events of estimator index `i` (R52) charged to purse `p` for job `n`. -/
def State.charge (s : State) (p : Nat) (n : Option NHdr) (i count : Nat) : State :=
  s.chargeFj p n (count * s.fld (Reg.PWR_COEF i) 0 48)

/-- Events of core `c`, charged to its partition's purse and its job. -/
def State.chargeCore (s : State) (c i count : Nat) : State := s.charge (s.payer c) (s.core c).job i count

/-- Firmware work, charged to the housekeeping purse: R25, R51. -/
def State.chargeHouse (s : State) (i count : Nat) : State := s.charge 8 none i count

/-- The unspent reservation of a job's step returned to remaining: R49. -/
def State.release (s : State) (n : NHdr) : State :=
  match s.job? n with
  | some j =>
    if j.reserved = 0 then s
    else
      let s := s.modJob n (fun j => { j with reserved := 0 })
      let s := s.subReg (Reg.PURSE_RESERVED j.part) j.reserved
      (s.addRemaining j.part j.reserved).tick 3
  | none => s

/-- Declared energy moved from remaining to reserved, at admission: R47. -/
def State.reserve (s : State) (p uj : Nat) : State :=
  if uj = 0 then s
  else ((s.addRemaining p (-(uj : Int))).addReg (Reg.PURSE_RESERVED p) uj).tick 3

end Sys2Proof.Machine
end

