-- ==== Sys2Proof/Machine/Fp.lean ====
section
/-! DEFINITION. Machine/Fp.lean: floating point, exactly. A finite value is (-1)^s * m * 2^e with m a natural number; every operation computes
the exact result, or one with enough bits and a sticky bit, and rounds once to nearest even (R70, R74, R79, R97). Values are bit patterns
held as natural numbers. -/

namespace Sys2Proof.Machine

open Sys2Proof

/-- A floating-point format: exponent and mantissa bits; `ieee` is false for E4M3, which has no infinities (R70). -/
structure FpFmt where
  eb   : Nat
  mb   : Nat
  ieee : Bool := true
  deriving DecidableEq, Repr

def FpFmt.f32 : FpFmt := ⟨8, 23, true⟩
def FpFmt.bf16 : FpFmt := ⟨8, 7, true⟩
def FpFmt.f16 : FpFmt := ⟨5, 10, true⟩
def FpFmt.e4m3 : FpFmt := ⟨4, 3, false⟩
def FpFmt.e5m2 : FpFmt := ⟨5, 2, true⟩

/-- The exponent bias. -/
def FpFmt.bias (f : FpFmt) : Nat := 2 ^ (f.eb - 1) - 1

/-- The exponent of the least unit: subnormals count in it. -/
def FpFmt.emin (f : FpFmt) : Int := 1 - (f.bias : Int) - f.mb

/-- Bits of the format. -/
def FpFmt.width (f : FpFmt) : Nat := 1 + f.eb + f.mb

/-- Bytes of the format. -/
def FpFmt.bytes (f : FpFmt) : Nat := f.width / 8

/-- The canonical NaN: R97. -/
def FpFmt.nanBits (f : FpFmt) : Nat :=
  if f.ieee then (2 ^ (f.eb + 1) - 1) * 2 ^ (f.mb - 1) else 0x7F

/-- The magnitude pattern of infinity. -/
def FpFmt.infBits (f : FpFmt) : Nat := (2 ^ f.eb - 1) * 2 ^ f.mb

/-- The largest finite magnitude pattern: 448 is 0x7E in E4M3, 57,344 is 0x7B in E5M2 (R100). -/
def FpFmt.maxBits (f : FpFmt) : Nat := if f.ieee then f.infBits - 1 else 0x7E

/-- A value. -/
inductive Fp where
  | nan
  | inf (s : Bool)
  | fin (s : Bool) (m : Nat) (e : Int)
  deriving DecidableEq, Repr

/-- The value of a pattern: R70 for the FP8 formats. -/
def FpFmt.decode (f : FpFmt) (b : Nat) : Fp :=
  let s := b.testBit (f.eb + f.mb)
  let e := (b / 2 ^ f.mb) % 2 ^ f.eb
  let m := b % 2 ^ f.mb
  if f.ieee then
    if e = 2 ^ f.eb - 1 then (if m = 0 then .inf s else .nan)
    else if e = 0 then .fin s m f.emin
    else .fin s (m + 2 ^ f.mb) (f.emin + e - 1)
  else
    if e = 15 ∧ m = 7 then .nan
    else if e = 0 then .fin s m f.emin
    else .fin s (m + 2 ^ f.mb) (f.emin + e - 1)

/-- Length in bits. -/
def bitLen (n : Nat) : Nat := if n = 0 then 0 else n.log2 + 1

/-- `m` shifted right by `k`, rounded to nearest even. -/
def rneShr (m k : Nat) : Nat :=
  let q := m >>> k
  let r := m % 2 ^ k
  if k = 0 then m
  else if r * 2 > 2 ^ k ∨ (r * 2 = 2 ^ k ∧ q % 2 = 1) then q + 1
  else q

/-- A sign and a magnitude pattern as bits. -/
def FpFmt.signed (f : FpFmt) (s : Bool) (mag : Nat) : Nat := (if s then 2 ^ (f.eb + f.mb) else 0) + mag

/-- m * 2^e rounded to nearest even, as a magnitude pattern; past the largest finite, infinity (in E4M3, NaN: R97's canonical NaN). -/
def FpFmt.roundMag (f : FpFmt) (m : Nat) (e : Int) : Nat :=
  if m = 0 then 0
  else
    let p := e + bitLen m - 1                 -- exponent of the leading one
    let q := max (p - f.mb) f.emin            -- exponent of a unit of the result
    let sig := if q ≤ e then m <<< (e - q).toNat else rneShr m (q - e).toNat
    let bits := (q - f.emin).toNat * 2 ^ f.mb + sig
    if f.ieee then (if bits < f.infBits then bits else f.infBits)
    else (if bits ≤ 0x7E then bits else 0x7F)

/-- A value rounded into the format. -/
def FpFmt.encode (f : FpFmt) : Fp → Nat
  | .nan => f.nanBits
  | .inf s => if f.ieee then f.signed s f.infBits else 0x7F
  | .fin s m e =>
    let r := f.roundMag m e
    if f.ieee = false ∧ r = 0x7F then 0x7F else f.signed s r

/-- Signed integer of a value at a common exponent. -/
def scaled (s : Bool) (m : Nat) (e base : Int) : Int :=
  let v : Int := ((m <<< (e - base).toNat : Nat) : Int)
  if s then -v else v

/-- The exact sum. A zero sum of opposite signs is +0. -/
def Fp.add : Fp → Fp → Fp
  | .nan, _ => .nan
  | _, .nan => .nan
  | .inf s, .inf t => if s = t then .inf s else .nan
  | .inf s, .fin .. => .inf s
  | .fin .., .inf t => .inf t
  | .fin s m e, .fin t n d =>
    let b := min e d
    let v := scaled s m e b + scaled t n d b
    if v = 0 then .fin (s && t) 0 b else .fin (decide (v < 0)) v.natAbs b

/-- The exact product. DEDUCED: R72 names the product of an infinity with a NaN, a zero and a non-zero finite value; with another infinity it is an
infinity of the product's sign, as in IEEE 754. -/
def Fp.mul : Fp → Fp → Fp
  | .nan, _ => .nan
  | _, .nan => .nan
  | .inf s, .inf t => .inf (s != t)
  | .inf s, .fin t n _ => if n = 0 then .nan else .inf (s != t)
  | .fin s m _, .inf t => if m = 0 then .nan else .inf (s != t)
  | .fin s m e, .fin t n d => .fin (s != t) (m * n) (e + d)

def Fp.neg : Fp → Fp
  | .nan => .nan
  | .inf s => .inf (!s)
  | .fin s m e => .fin (!s) m e

/-- FP32 patterns. -/
def dec32 (a : Nat) : Fp := FpFmt.f32.decode a

def enc32 (v : Fp) : Nat := FpFmt.f32.encode v

def fadd (a b : Nat) : Nat := enc32 ((dec32 a).add (dec32 b))

def fsub (a b : Nat) : Nat := enc32 ((dec32 a).add (dec32 b).neg)

def fmul (a b : Nat) : Nat := enc32 ((dec32 a).mul (dec32 b))

/-- a * b + c with one rounding. -/
def ffma (a b c : Nat) : Nat := enc32 (((dec32 a).mul (dec32 b)).add (dec32 c))

def isNan32 (a : Nat) : Bool := match dec32 a with | .nan => true | _ => false

def nan32 : Nat := 0x7FC00000

/-- a < b of two values that are not NaN; +0 and -0 compare equal. -/
def Fp.lt : Fp → Fp → Bool
  | .nan, _ => false
  | _, .nan => false
  | .inf s, .inf t => s && !t
  | .inf s, .fin .. => s
  | .fin .., .inf t => !t
  | .fin s m e, .fin t n d =>
    let b := min e d
    decide (scaled s m e b < scaled t n d b)

/-- a = b as values; a NaN equals nothing. -/
def Fp.eq : Fp → Fp → Bool
  | .nan, _ => false
  | _, .nan => false
  | .inf s, .inf t => s == t
  | .inf _, .fin .. => false
  | .fin .., .inf _ => false
  | .fin s m e, .fin t n d =>
    let b := min e d
    decide (scaled s m e b = scaled t n d b)

/-- The sign of a pattern. -/
def neg32 (a : Nat) : Bool := a.testBit 31

/-- Minimum: min(+0, -0) is -0; a NaN input gives NaN (R97). -/
def fmin (a b : Nat) : Nat :=
  if isNan32 a || isNan32 b then nan32
  else if (dec32 a).lt (dec32 b) then a
  else if (dec32 b).lt (dec32 a) then b
  else if neg32 a then a else b

/-- Maximum: max(+0, -0) is +0; a NaN input gives NaN (R97). -/
def fmax (a b : Nat) : Nat :=
  if isNan32 a || isNan32 b then nan32
  else if (dec32 a).lt (dec32 b) then b
  else if (dec32 b).lt (dec32 a) then a
  else if neg32 a then b else a

/-- The integer square root, bit by bit from bit `k - 1` down. -/
def isqrtGo (n : Nat) : Nat → Nat → Nat
  | 0, r => r
  | k + 1, r => let t := r + 2 ^ k; if t * t ≤ n then isqrtGo n k t else isqrtGo n k r

def isqrt (n : Nat) : Nat := isqrtGo n (bitLen n / 2 + 1) 0

/-- 1 / a, correctly rounded; 1/0 is the infinity of a's sign (IEEE 754-2019). -/
def frcp (a : Nat) : Nat :=
  match dec32 a with
  | .nan => nan32
  | .inf s => FpFmt.f32.signed s 0
  | .fin s m e =>
    if m = 0 then FpFmt.f32.signed s FpFmt.f32.infBits
    else
      let k := bitLen m + 40
      let q := 2 ^ k / m
      let r := 2 ^ k % m
      enc32 (.fin s (2 * q + (if r = 0 then 0 else 1)) (-(k : Int) - 1 - e))

/-- 1 / sqrt a, correctly rounded; of a zero the infinity of its sign, of a negative number NaN (IEEE 754-2019). -/
def frsqrt (a : Nat) : Nat :=
  match dec32 a with
  | .nan => nan32
  | .inf s => if s then nan32 else 0
  | .fin s m e =>
    if m = 0 then FpFmt.f32.signed s FpFmt.f32.infBits
    else if s then nan32
    else
      let odd := e % 2 ≠ 0
      let m := if odd then 2 * m else m
      let e := if odd then e - 1 else e
      let k := bitLen m + 40
      let y := 2 ^ (2 * k) / m
      let q := isqrt y
      enc32 (.fin false (2 * q + (if q * q * m = 2 ^ (2 * k) then 0 else 1)) (-(k : Int) - 1 - e / 2))

/-- Fraction bits of the fixed-point work for exp2 and log2: far more than the hardest FP32 case needs. -/
def fixBits : Nat := 160

/-- ln 2 * 2^160, rounded down. -/
def ln2Fix : Nat := 1013035739299659071135698605846798551586536899366

/-- The terms of e^y from the `i`-th on, y in 2^-160: the sum of y^i / i!, `t` the term before. -/
def expTerms (y : Nat) : Nat → Nat → Nat → Nat
  | 0, _, _ => 0
  | f + 1, i, t => let u := (t * y) / (i * 2 ^ fixBits); u + expTerms y f (i + 1) u

/-- 2^f * 2^160 for f in 2^-160, 0 <= f < 1. -/
def exp2Frac (f : Nat) : Nat :=
  2 ^ fixBits + expTerms ((f * ln2Fix) / 2 ^ fixBits) 48 1 (2 ^ fixBits)

/-- 2^a, correctly rounded. -/
def fexp2 (a : Nat) : Nat :=
  match dec32 a with
  | .nan => nan32
  | .inf s => if s then 0 else FpFmt.f32.infBits
  | .fin s m e =>
    if m = 0 then 0x3F800000
    else if e + bitLen m ≤ -30 then 0x3F800000      -- |a| < 2^-30: the result rounds to 1
    else if e + bitLen m > 9 then (if s then 0 else FpFmt.f32.infBits)   -- |a| >= 256
    else
      let v : Int := if s then -((m : Int) * 2 ^ (e + fixBits).toNat) else (m : Int) * 2 ^ (e + fixBits).toNat
      let n := v / (2 ^ fixBits : Nat)
      let f := (v % (2 ^ fixBits : Nat)).toNat
      if f = 0 then enc32 (.fin false 1 n)
      else enc32 (.fin false (2 * exp2Frac f + 1) (n - fixBits - 1))

/-- `k` bits of log2 y, most significant first, y in 2^-256 with 1 <= y < 2: square, and take a bit whenever 2 is reached. -/
def log2Bits : Nat → Nat → Nat → Nat
  | 0, _, acc => acc
  | k + 1, y, acc =>
    let z := (y * y) / 2 ^ 256
    if 2 ^ 257 ≤ z then log2Bits k (z / 2) (2 * acc + 1) else log2Bits k z (2 * acc)

/-- log2 a, correctly rounded; of a zero -Inf, of a negative number NaN (IEEE 754-2019). -/
def flog2 (a : Nat) : Nat :=
  match dec32 a with
  | .nan => nan32
  | .inf s => if s then nan32 else FpFmt.f32.infBits
  | .fin s m e =>
    if m = 0 then FpFmt.f32.signed true FpFmt.f32.infBits
    else if s then nan32
    else
      let l := bitLen m - 1
      let k : Int := e + l
      if m = 2 ^ l then enc32 (.fin (decide (k < 0)) k.natAbs 0)
      else
        let fr := log2Bits 100 (m * 2 ^ (256 - l)) 0
        let v : Int := k * 2 ^ 101 + (2 * fr + 1 : Nat)
        enc32 (.fin (decide (v < 0)) v.natAbs (-101))

/-- A value of a format widened to FP32, exactly: R97. -/
def toF32 (f : FpFmt) (b : Nat) : Nat := enc32 (f.decode b)

/-- An FP32 value rounded into a format: R97. -/
def ofF32 (f : FpFmt) (a : Nat) : Nat := f.encode (dec32 a)

/-! ### The long form (R76, R77) -/

/-- A long form: value in units of 2^-32, flags [4:0], count, check [2:0]. -/
structure LF where
  value : Int := 0
  flags : Nat := 0
  count : Nat := 0
  check : Nat := 0
  deriving DecidableEq, Repr

/-- A mod 7. -/
def mod7 (v : Int) : Nat := (v % 7).toNat

/-- An 88-bit sum: exact where it fits, else the open value of `Config.lfOverflow`. -/
def add88 (a b : Int) : Int :=
  let v := a + b
  if -(2 ^ 87) ≤ v ∧ v < 2 ^ 87 then v else (Config.lfOverflow a b).toInt

/-- A long form read from 16 bytes; reserved bits are ignored (R76). -/
def LF.ofBytes (bs : List Byte) : LF :=
  { value := sext 88 (leNat (bs.take 11)), flags := (bs.getD 11 0).toNat % 32
    count := leNat ((bs.drop 12).take 3), check := (bs.getD 15 0).toNat % 8 }

/-- The 16 bytes of a long form. -/
def LF.toBytes (l : LF) : List Byte :=
  leBytes 11 (wrapN 88 l.value) ++ [BitVec.ofNat 8 l.flags] ++ leBytes 3 l.count ++ [BitVec.ofNat 8 l.check]

/-- Whether a long form's check fails. -/
def LF.bad (l : LF) : Bool := mod7 l.value != l.check

/-- Whether a long form carries the sat or poison flag. -/
def LF.marked (l : LF) : Bool := l.flags.testBit 3 || l.flags.testBit 4

/-- The sum of two long forms: R77. -/
def LF.add (a b : LF) : LF :=
  let p := if a.bad || b.bad then 16 else 0
  let c := a.count + b.count
  let fl := (a.flags ||| b.flags) ||| p
  if c > 8388608 ∨ fl.testBit 3 then
    { value := 0, flags := fl ||| 8 ||| 16, count := min c 8388608, check := 0 }
  else
    let v := add88 a.value b.value
    { value := v, flags := fl, count := c, check := mod7 v }

/-- An accumulator rounded once to FP32: R74. -/
def LF.toF32 (l : LF) : Nat :=
  if l.flags.testBit 2 || (l.flags.testBit 0 && l.flags.testBit 1) then nan32
  else if l.flags.testBit 0 then 0x7F800000
  else if l.flags.testBit 1 then 0xFF800000
  else if l.value = 0 then 0
  else enc32 (.fin (decide (l.value < 0)) l.value.natAbs (-32))

/-! ### Reductions (R98) -/

/-- One level of the pairwise tree. -/
def pairUp (op : Nat → Nat → Nat) : List Nat → List Nat
  | [] => []
  | [x] => [x]
  | x :: y :: r => op x y :: pairUp op r

/-- A chunk of 512 combined over nine levels. -/
def treeOf (op : Nat → Nat → Nat) (pad : Nat) (l : List Nat) : Nat :=
  ((List.range 9).foldl (fun l _ => pairUp op l) (fitTo 512 pad l)).headD pad

/-- A reduction: chunks of 512 in ascending order, their results combined in order from the first (R98). -/
def reduce (op : Nat → Nat → Nat) (pad : Nat) (l : List Nat) : Nat :=
  match (chunksOf 512 l.length l).map (treeOf op pad) with
  | [] => pad
  | c :: r => r.foldl op c

def reduceSum (l : List Nat) : Nat := reduce fadd 0 l

def reduceMax (l : List Nat) : Nat := reduce fmax 0xFF800000 l

end Sys2Proof.Machine
end

