-- ==== Sys2Proof/Machine/Operands.lean ====
section
/-! DEFINITION. Machine/Operands.lean: every operand form. Counters, comparators, address generators (R172, R173, R196), SRAM operands
(R193), element formats and rows (R207), tokens (R177, R178). -/

namespace Sys2Proof.Machine

open Sys2Proof

/-! ### Counters and generators -/

/-- Counter `n` of a core. -/
def Core.c (k : Core) (n : Nat) : BitVec 32 := sget 0 k.ctr n

def Core.setC (k : Core) (n : Nat) (v : BitVec 32) : Core := { k with ctr := sput 0 k.ctr n v }

/-- Comparator `n`. -/
def Core.k (c : Core) (n : Nat) : Bool := c.cmp.getLsbD n

def Core.setK (c : Core) (n : Nat) (b : Bool) : Core :=
  { c with cmp := if b then c.cmp ||| ((1 : BitVec 8) <<< n) else c.cmp &&& ~~~ ((1 : BitVec 8) <<< n) }

/-- Whether level `l` is active. -/
def Core.level? (k : Core) (l : Nat) : Option Level := k.levels.find? (fun v => v.level == l)

/-- The value of generator `g`: base plus index times increment over the active levels, modulo 2^48 (R172). -/
def Core.agen (k : Core) (g : Nat) : BitVec 48 :=
  k.levels.foldl (fun v l => v + BitVec.ofInt 48 ((l.idx : Int) * (sget 0 k.agInc (8 * g + l.level)).toInt)) (sget 0 k.agBase g)

/-- The term of R196: (1 or C[ca]) * imm16 * 2^sh, an integer. -/
def Core.term (k : Core) (t : AgTerm) : Int :=
  (if t.one then 1 else ((k.c t.ca.toNat).toNat : Int)) * t.imm.toInt * 2 ^ t.sh.toNat

/-- The second source of a counter instruction: R194. -/
def Core.src (k : Core) (o : CSrc) : BitVec 32 := if o.bimm then o.imm else k.c o.cb.toNat

/-- The registers with period scope whose values an instruction uses: R31. GX reads the set and its group, HX and VKL the bindings, rings and
their core's window, PRES the terms of its purse's cover. `p` is the core's partition. -/
def perRegs (c p : Nat) : Instr → List Nat
  | .gxput _ _ | .gxget _ _ => [Reg.GIRTH_SET]
  | .allred _ o | .redscat _ o | .bcast _ o | .clear _ o => [Reg.GIRTH_SET, Reg.GIRTH_GROUP o.grp.toNat]
  | .hxsend _ o | .hxrecv _ o =>
    Reg.HARN_WIN c :: (List.range 4).map Reg.HARN_BIND ++ (List.range 4).map (fun b => Reg.HARN_RING b o.ring.toNat)
  | .vkl _ _ => (List.range 4).map Reg.HARN_BIND ++ (List.range 32).map (fun k => Reg.HARN_RING (k / 8) (k % 8))
  | .pres _ _ _ => [Reg.PURSE_CTL p, Reg.PWR_PERIOD, Reg.PWR_CAP]
  | _ => []

/-- What instruction `i` finds at its issue on core `c`: R31. -/
def State.ctx (s : State) (c : Nat) (i : Instr) : Ctx :=
  let k := s.core c
  { core := c, idx := k.index, gens := (List.range 32).map (fun g => (k.agen g).toNat), ctrs := (List.range 16).map (fun n => (k.c n).toNat)
    iter := k.levels.map Level.idx, per := (perRegs c (s.payer c) i).map (fun off => (off, s.reg off)) }

/-- The state with the registers of period scope as the instruction found them at its issue: what it goes by (R31). -/
def State.asIssued (s : State) (x : Ctx) : State := x.per.foldl (fun s e => s.setReg e.1 e.2) s

/-- A generator's value as the instruction found it. -/
def Ctx.gen (x : Ctx) (g : BitVec 5) : Nat := x.gens.getD g.toNat 0

/-- A counter's value as the instruction found it. -/
def Ctx.ctr (x : Ctx) (n : BitVec 4) : Nat := x.ctrs.getD n.toNat 0

/-- The device address of the instruction, for PC registers. -/
def State.pc (s : State) (x : Ctx) : Nat := s.pcOf x.core x.idx

/-! ### SRAM operands (R193) -/

/-- The SRAM offset an operand names: bits [24:0] of the generator's value, plus the immediate (R193). -/
def sramOp (v imm : Nat) : Nat := v % 2 ^ 25 + imm

/-- The same as whole 64-byte lines: bits [5:0] ignored. -/
def lineOp (v imm : Nat) : Nat := sramOp v imm / 64 * 64

/-- Whether `n` bytes from offset `o` reach 24 MiB. -/
def beyond (o n : Nat) : Bool := decide (0 < n) && decide (sramSize < o + n)

/-! ### Bindings and tally windows (R218, R227) -/

/-- Binding `b`'s fields. -/
def State.bindFld (s : State) (b lo n : Nat) : Nat := s.fld (Reg.HARN_BIND b) lo n

/-- Whether binding `b` is enabled. -/
def State.bindOn (s : State) (b : Nat) : Bool := s.bit (Reg.HARN_BIND b) 0

/-- Whether it has broken: R232. -/
def State.bindBroken (s : State) (b : Nat) : Bool := s.bit (Reg.HARN_BIND b) 23

/-- Whether it is remote, and if so whether this module learns. -/
def State.bindRemote (s : State) (b : Nat) : Bool := s.bit (Reg.HARN_BIND b) 7

/-- The local teacher partition of binding `b`, if the teacher is local. -/
def State.teacherOf (s : State) (b : Nat) : Option Nat :=
  if s.bindRemote b && s.bit (Reg.HARN_BIND b) 8 then none else some (s.bindFld b 1 3)

/-- The local student partition of binding `b`, if the student is local. -/
def State.studentOf (s : State) (b : Nat) : Option Nat :=
  if s.bindRemote b && !s.bit (Reg.HARN_BIND b) 8 then none else some (s.bindFld b 4 3)

/-- The local partitions of binding `b`. -/
def State.bindParts (s : State) (b : Nat) : List Nat := (s.teacherOf b).toList ++ (s.studentOf b).toList

/-- The enabled binding that partition `p` belongs to: at most one (R218). -/
def State.bindingOf (s : State) (p : Nat) : Option Nat :=
  (List.range 4).find? (fun b => s.bindOn b && (s.bindParts b).contains p)

/-- Whether byte offset `o` of core `c` lies in its tally window: HARN_WIN_c (R227). -/
def State.inWindow (s : State) (c o : Nat) : Bool :=
  let b := s.fld (Reg.HARN_WIN c) 0 25
  let n := s.fld (Reg.HARN_WIN c) 32 19
  decide (b ≤ o) && decide (o < b + 64 * n)

/-- Whether any of `n` bytes from `o` lies in core `c`'s tally window. -/
def State.touchesWindow (s : State) (c o n : Nat) : Bool :=
  let b := s.fld (Reg.HARN_WIN c) 0 25
  let w := 64 * s.fld (Reg.HARN_WIN c) 32 19
  decide (o < b + w) && decide (b < o + n)

/-- The units that may reach inside the core's own tally window: R227. -/
def CoreUnit.mayWindow : CoreUnit → Bool
  | .vx | .sx | .hx => true
  | _ => false

/-- The harness block's record of a violation in core `c`'s tally window, with the binding of the core's partition, where it has one: R227,
R246. -/
def State.harnViolate (s : State) (c : Nat) : State :=
  let b := ((s.partOf c).bind s.bindingOf).getD 0
  (s.raise .harn 6 (b * 2 ^ 8)).addReg Reg.HARN_VIOL_COUNT 1

/-! ### What a unit reads and writes (R193, R227) -/

/-- The bytes a unit reads: zero past 24 MiB, and zero in the tally window where the unit may not look. -/
def State.opBytes (s : State) (x : Ctx) (u : CoreUnit) (o n : Nat) : List Byte :=
  (List.range n).map (fun i =>
    if sramSize ≤ o + i then 0
    else if !u.mayWindow && s.inWindow x.core (o + i) then 0
    else s.miscorrect x.core (o + i) (s.sramByte x.core (o + i)))

/-- Whether the lines a unit reads carry poison. -/
def State.opPoison (s : State) (x : Ctx) (o n : Nat) : Bool := s.sramPoison x.core o n

/-- Whether an operand of `n` bytes from `o` breaks R193 or R227 for the unit. -/
def State.opBad (s : State) (x : Ctx) (u : CoreUnit) (o n : Nat) : Bool :=
  beyond o n || (!u.mayWindow && s.touchesWindow x.core o n)

/-- The violation of R193 and R227, once per instruction: the unit's bit and count, and the harness block's when the window was touched. -/
def State.opViolate (s : State) (x : Ctx) (u : CoreUnit) (window : Bool) : State :=
  let s := s.violate x.core u (s.pc x)
  if window then s.harnViolate x.core else s

/-- Bytes a unit writes from offset `o`: those past 24 MiB, and those in a forbidden tally window, are not written. -/
def State.opWrite (s : State) (x : Ctx) (u : CoreUnit) (o : Nat) (bs : List Byte) (poison : Bool := false) : State :=
  let bs := bs.take (sramSize - o)
  if u.mayWindow || !s.touchesWindow x.core o bs.length then s.sramWrite x.core o bs poison
  else
    State.each (linePieces (bs.length + 1) o bs)
      (fun p s => if s.touchesWindow x.core p.1 p.2.length then s else s.sramWrite x.core p.1 p.2 poison) s

/-- The operand ranges of one instruction checked together: a violation is recorded once per instruction (R193), each word read is checked,
and 64-byte accesses are charged (R52). `reads` and `writes` list (offset, bytes). -/
def State.operands (s : State) (x : Ctx) (u : CoreUnit) (reads writes : List (Nat × Nat)) : State :=
  let all := reads ++ writes
  let s := State.each reads (fun r s => s.sramCheck x.core r.1 r.2) s
  let s := if all.any (fun r => s.opBad x u r.1 r.2) then
      s.opViolate x u (!u.mayWindow && all.any (fun r => s.touchesWindow x.core r.1 r.2))
    else s
  s.chargeCore x.core 3 (all.foldl (fun n r => n + (if r.2 = 0 then 0 else (r.1 + r.2 - 1) / 64 - r.1 / 64 + 1)) 0)

/-! ### Elements and rows (R207) -/

/-- An element format by its code; LONG, and the reserved 6 and 7, are none. -/
def fmtOf : Nat → Option FpFmt
  | 0 => some .f32
  | 1 => some .bf16
  | 2 => some .f16
  | 3 => some .e4m3
  | 4 => some .e5m2
  | _ => none

/-- Bytes of an element: R207. -/
def fmtBytes (f : Nat) : Nat := if f = 0 then 4 else if f = 1 ∨ f = 2 then 2 else if f = 5 then 16 else 1

/-- `n` rounded up to a multiple of 64. -/
def up64 (n : Nat) : Nat := (n + 63) / 64 * 64

/-- Bytes grouped into elements of `e` bytes, as numbers. -/
def elems (e : Nat) (bs : List Byte) : List Nat := (chunksOf e bs.length bs).map leNat

/-- Elements of a format widened to FP32. -/
def widen (f : Nat) (bs : List Byte) : List Nat :=
  match fmtOf f with
  | some t => (elems t.bytes bs).map (toF32 t)
  | none => []

/-- FP32 values rounded into a format, as bytes. -/
def narrow (f : Nat) (vs : List Nat) : List Byte :=
  match fmtOf f with
  | some t => vs.flatMap (fun v => leBytes t.bytes (ofF32 t v))
  | none => []

/-! ### Tokens (R177, R178) -/

/-- `n` units signalled on token `t` of core `c` by the instruction at index `ix`: those that fit up to 65,535 are applied (R178). -/
def State.signal (s : State) (c t n ix : Nat) : State :=
  let k := s.core c
  let v := sget 0 k.tok t
  let a := min n (65535 - v)
  let s := s.setCore c { k with tok := sput 0 k.tok t (v + a), sigs := k.sigs + a, stalled := false }
  let s := if a = 0 then s else s.tick 7
  if a < n then s.seqViolate c 6 (s.pcOf c ix) else s

/-- Units signalled on an optional token by the instruction at index `ix`. -/
def State.signal? (s : State) (c : Nat) (t : Option Nat) (ix : Nat) (n : Nat := 1) : State :=
  match t with
  | some t => if n = 0 then s else s.signal c t n ix
  | none => s

/-- Whether a header's wait finds its count sufficient: R177. -/
def Core.canTake (k : Core) (h : Hdr) : Bool := !h.wait || decide (h.waitN.toNat + 1 ≤ sget 0 k.tok h.waitTok.toNat)

/-- A header's wait taken: R177. -/
def State.take (s : State) (c : Nat) (h : Hdr) : State :=
  if h.wait then
    let k := s.core c
    let n := h.waitN.toNat + 1
    (s.setCore c { k with tok := sput 0 k.tok h.waitTok.toNat (sget 0 k.tok h.waitTok.toNat - n), takes := k.takes + n, stalled := false }).tick 7
  else s

end Sys2Proof.Machine

namespace Sys2Proof

/-- The token a header signals, if it signals. -/
def Hdr.sig (h : Hdr) : Option Nat := if h.signal then some h.sigTok.toNat else none

/-- Whether the token field breaks R165: fields that the flags require to be zero. -/
def Hdr.badTok (h : Hdr) : Bool :=
  (!h.wait && (h.waitTok != 0 || h.waitN != 0)) || (!h.signal && h.sigTok != 0)

/-- The class and the header of a Wenmel instruction (R164, R191); none for an event or a host command. -/
def Instr.op? : Instr → Option (Cls × Hdr)
  | .nop h | .endStep h | .loop h _ _ _ | .exitLoop h _ _ | .skip h _ _ | .cmp h _ _ _ _ _ _ | .jmp h _ _ _
  | .cset h _ _ | .cadd h _ _ _ | .csub h _ _ _ | .cmul h _ _ _ | .cmin h _ _ _ | .cmax h _ _ _ | .cdiv h _ _ _
  | .cidx h _ _ | .cldr h _ _ _ _ | .clds h _ _ _ | .csts h _ _ _ | .agset h _ _ | .agadd h _ _ | .aginc h _ _ _
  | .tadd h _ _ => some (.seq, h)
  | .dxs h _ | .dxg h _ => some (.dx, h)
  | .mxt h _ | .mxl h _ _ _ _ | .mxp h _ _ => some (.mx, h)
  | .vadd h _ | .vsub h _ | .vmul h _ | .vfma h _ | .vmin h _ | .vmax h _ | .vcmp h _ | .vsel h _ | .vabs h _ | .vneg h _
  | .vexp2 h _ | .vlog2 h _ | .vrcp h _ | .vrsq h _ | .vcvt h _ | .vreq h _ | .vlf h _ | .vlfa h _ | .vrsum h _ | .vrmax h _
  | .vsmax h _ | .vrms h _ | .vlnorm h _ | .vkl h _ => some (.vx, h)
  | .sxtopk h _ _ _ _ _ _ _ | .sxmerge h _ _ _ _ _ _ | .sxand h _ _ _ _ _ | .sxroute h _ _ _ _ _ _ | .sxwalk h _ _ => some (.sx, h)
  | .oxupd h _ | .oxsr h _ => some (.ox, h)
  | .hxsend h _ | .hxrecv h _ => some (.hx, h)
  | .gxput h _ | .gxget h _ | .allred h _ | .redscat h _ | .bcast h _ | .clear h _ => some (.gx, h)
  | .mrd h _ _ | .mwr h _ _ | .mapp h _ _ => some (.media, h)
  | .pread h _ | .pres h _ _ => some (.purse, h)
  | _ => none

end Sys2Proof
end

