-- ==== Sys2Proof/Machine/Outer.lean ====
section
/-! DEFINITION. Machine/Outer.lean: an access by a unit of a core to a device address (R137 to R152): SRAM windows, DRAM, the weight range and
the host window, with what each records and what it returns. -/

namespace Sys2Proof.Machine

open Sys2Proof

/-- Whether controller `k` is a function of partition `p`: R341, R402. A physical function belongs to no partition. -/
def State.funcOf (s : State) (k p : Nat) : Bool :=
  let port := k / 65
  let v := k % 65
  if v = 0 then false
  else
    let e := port * 64 + v - 1
    s.bit (Reg.SCHED_VFMAP (e / 8)) (8 * (e % 8) + 7) && s.fld (Reg.SCHED_VFMAP (e / 8)) (8 * (e % 8)) 3 == p

/-! ### The weight range (R143 to R149) -/

/-- The page of a weight-range address. -/
def weightPage (a : Nat) : Nat := (a - weightBase) / 0x200000

/-- The attachment that covers a weight page. -/
def State.attached (s : State) (p : Nat) : Option Attachment :=
  s.weight.attached.find? (fun t => decide (t.base ≤ p) && decide (p < t.base + t.pages))

/-- A zone of a weight name space as the poisoned-page list names it: name space and zone. -/
def wkey (nsid zone : Nat) : Nat := nsid * 2 ^ 25 + zone

/-- Whether a weight page is poisoned, alone or with its whole name space: R149. -/
def State.pagePoisoned (s : State) (t : Attachment) (p : Nat) : Bool :=
  setHas s.weight.poisoned (wkey t.nsid (p - t.base)) || setHas s.weight.wholeNs t.nsid

/-- A name space. -/
def State.ns? (s : State) (n : Nat) : Option Nspace := (s.nss.find? (fun e => e.1 == n)).map Prod.snd

/-- A name space written back. -/
def State.setNs (s : State) (n : Nat) (v : Nspace) : State := { s with nss := sins s.nss n v }

/-- A name space changed. -/
def State.modNs (s : State) (n : Nat) (f : Nspace → Nspace) : State :=
  match s.ns? n with
  | some v => s.setNs n (f v)
  | none => s

/-- A page's heat counter up by one, saturating: R143. -/
def State.heatUp (s : State) (p : Nat) : State :=
  { s with weight := { s.weight with heat := sput 0 s.weight.heat p (min 16777215 (sget 0 s.weight.heat p + 1)) } }

/-- A page no longer resident: its lookups turn to flash (R145). A copy of it in progress is given up. -/
def State.evict (s : State) (p : Nat) : State :=
  let t := { s with weight := { s.weight with
    resident := setDel s.weight.resident p, copying := setDel s.weight.copying p, frame := sdel s.weight.frame p } }
  if setHas s.weight.resident p then t.addReg Reg.PROMO_OUT_COUNT 1 else t

/-- The DRAM line of a resident page's frame that holds the line of address `a`: frame 0 is the highest 2 MiB of the pool (R142). -/
def State.frameLine (s : State) (p a : Nat) : Nat := (0xFA00000000 - (sget 0 s.weight.frame p + 1) * 0x200000 + a % 0x200000) / 64

/-- The frame of page `p` written by a copy: no poison mark remains in it (R148). -/
def State.frameClean (s : State) (p : Nat) : State :=
  let lo := s.frameLine p 0
  { s with poison := s.poison.filter (fun l => decide (l < lo) || decide (lo + 32768 ≤ l)) }

/-! ### Reins of rate zero (R400) -/

/-- What a transfer is charged to under R400. -/
inductive Rein where
  | dram | media | girth (g : Nat)
  deriving DecidableEq, Repr

/-- A partition's live rate on a rein. -/
def State.rein (s : State) (p : Nat) : Rein → Nat
  | .dram => s.fld (Reg.SCHED_REIN p) 0 14
  | .media => s.fld (Reg.SCHED_REIN p) 16 9
  | .girth g => s.fld (Reg.SCHED_GREIN p) (8 * g) 8

/-- Whether traffic of the kind passes at all: a rate of zero admits none (R400). -/
def State.reinOpen (s : State) (p : Nat) (r : Rein) : Bool := decide (0 < s.rein p r)

/-! ### Host windows (R343) -/

/-- The host window of partition `p` that maps device offset `o`. -/
def State.hostWin (s : State) (p o : Nat) : Option HostWin :=
  s.host.wins.find? (fun w => s.funcOf w.ctrl p && decide (w.start ≤ o) && decide (o < w.start + w.len))

/-- An access that reaches no window of the partition: absent under R137, and the host block's violation (R343). -/
def State.winViolation (s : State) (a : Nat) : State := ((s.memViolation a).raise .host 0 0 a).addReg Reg.HOST_VIOL_COUNT 1

/-! ### SRAM windows (R139, R161) -/

/-- A device address whose access an SRAM window does not allow: R137, R139. Where the window is core `k`'s, the core's SRAM block records it
too, with the bank and the word (R161). -/
def State.sramWinViolation (s : State) (a : Nat) : State :=
  let k := (a - 0x100000000) / 0x2000000
  let o := (a - 0x100000000) % 0x2000000
  let s := s.memViolation a
  if decide (0x100000000 ≤ a) && decide (a < 0x140000000) && s.hasCore k then
    (s.raise (.core k .sram) 5 (bankOf o * 2 ^ 8) (o / 8 * 8)).addReg (Reg.SRAM_VIOL_COUNT k) 1
  else s

/-- An access by an engine to the block windows: at the line of a register it has the wrong size (R8, R431), elsewhere the address is absent
(R137, R138). -/
def State.regLine (s : State) (a : Nat) : State :=
  if (List.range 8).any (fun i => (regInfo (a / 64 * 64 + 8 * i)).isSome) then s.raise .dev 0 0 a else s.memViolation a

/-! ### Reading a line -/

/-- What an access returned: the bytes, the poison mark, whether it was a violation, whether the weight page it needed is poisoned, and the
flash page it read. -/
structure Fetched where
  bytes  : List Byte
  poison : Bool := false
  viol   : Bool := false
  kill   : Bool := false
  page   : Option Nat := none
  deriving DecidableEq, Repr

/-- Zeros, from an access that is a violation. -/
def Fetched.bad (n : Nat) : Fetched := { bytes := List.replicate n 0, viol := true }

/-- DRAM read with what the symbol code reported: R151. -/
def State.dramFetch (s : State) (a n : Nat) (out : LineOutcome) : Fetched × State :=
  if s.poisoned (a / 64) then ({ bytes := List.replicate n 0, poison := true }, s)
  else
    let bs := memBytes s.mem a n
    match out with
    | .corrected => ({ bytes := bs }, s.addReg Reg.DRAM_CE_COUNT 1)
    | .uncorrectable => ({ bytes := bs, poison := true }, (s.raise .mem 0 0 a).addReg Reg.DRAM_UE_COUNT 1)
    | .clean | .hostError => ({ bytes := bs }, s)

/-- A request to the weight range: R143, R146, R148, R149; a page whose name space is attached to no function of the partition is forbidden
(R352). `inflight` tells which flash pages are being read. DESIGN CHOICE: an uncorrectable error of a pool frame counts in neither DRAM_UE_COUNT
nor MEM_FAULT.dram_ue, a corrected one counts in DRAM_CE_COUNT (R148 names pool_ue alone). -/
def State.weightFetch (s : State) (c a n : Nat) (out : LineOutcome) (inflight : Nat → Bool) : Fetched × State :=
  let p := weightPage a
  match s.attached p with
  | none => (Fetched.bad n, s)
  | some t =>
    let open_ := match s.ns? t.nsid with
      | some v => v.ctrls.any (fun k => s.funcOf k (s.payer c))
      | none => false
    if !open_ then (Fetched.bad n, s) else
    let off := (p - t.base) * 0x200000 + a % 0x200000
    let bs := match s.ns? t.nsid with
      | some v => memBytes v.data off n
      | none => List.replicate n 0
    let s := s.heatUp p
    if s.pagePoisoned t p then ({ bytes := List.replicate n 0, poison := true, kill := true }, s)
    else
      let fromFlash := fun (s : State) =>
        let s := s.addReg Reg.PROMO_MISSES 1
        let fp := a / 16384
        let s := if inflight fp then s else s.chargeCore c 5 1
        (({ bytes := bs, page := some fp } : Fetched), s)
      if setHas s.weight.resident p then
        if out = .uncorrectable || s.poisoned (s.frameLine p a) then
          -- R148: the frame is evicted and the line read again from flash
          fromFlash ((s.evict p).raise .mem 2 0 a)
        else
          let s := if out = .corrected then s.addReg Reg.DRAM_CE_COUNT 1 else s
          ({ bytes := bs }, (s.addReg Reg.PROMO_HITS 1).chargeCore c 4 1)
      else fromFlash s

/-- A read of `n` bytes at device address `a`, within one line, by unit `u` of core `x.core`: R137, R139, R151, R343. A violation records the
memory block's side here; the unit's own bit and count are the caller's. -/
def State.outerRead (s : State) (x : Ctx) (u : CoreUnit) (a n : Nat) (out : LineOutcome) (hostLine : List Byte)
    (inflight : Nat → Bool := fun _ => false) : Fetched × State :=
  let c := x.core
  match s.tier a with
  | .regs => (Fetched.bad n, s.regLine a)
  | .absent => (Fetched.bad n, s.sramWinViolation a)
  | .sram k o =>
    if s.partOf k != some (s.payer c) then (Fetched.bad n, s.sramWinViolation a)
    else if s.touchesWindow k o n && !(k == c && u.mayWindow) then (Fetched.bad n, s.harnViolate k)
    else
      let s := s.sramCheck k o n
      let s := if setHas s.valid ((sramBase k + o) / 64) then s.wordRead k (o / 8) out else s
      ({ bytes := (List.range n).map (fun i => s.miscorrect k (o + i) (s.sramByte k (o + i))), poison := s.sramPoison k o n },
        s.chargeCore c 3 1)
  | .dram =>
    let s := s.chargeCore c 4 1
    s.dramFetch a n out
  | .weight =>
    let r := s.weightFetch c a n out inflight
    if r.1.viol then (r.1, r.2.memViolation a) else r
  | .hostWin =>
    let o := a - hostWinBase
    match s.hostWin (s.payer c) o with
    | none => (Fetched.bad n, s.winViolation a)
    | some w =>
      let s := s.chargeCore c 4 1
      if out = .hostError then
        ({ bytes := List.replicate n 0, poison := true }, (s.raise .host 1 (w.ctrl * 2 ^ 8) a).poisonJob c)
      else ({ bytes := fitTo n 0 hostLine }, s)

/-! ### Writing -/

/-- What a DRAM write narrower than its line finds when it reads the line from device address `a`: R152. A line stored as poisoned reads as it
is; an uncorrectable error is recorded as R151 lays down, and the merged line is stored as poisoned. -/
def State.mergeRead (s : State) (a : Nat) (out : LineOutcome) : Bool × State :=
  if s.poisoned (a / 64) then (false, s)
  else
    let r := s.dramFetch a 64 out
    (r.1.poison, r.2)

/-- Whether `n` bytes from device address `a` meet a code region, read-only to every requester but the stewards: R187. -/
def State.inCode (s : State) (a n : Nat) : Bool :=
  s.allocs.any (fun r => r.kind == .code && decide (a < r.base + r.size) && decide (r.base < a + n))

/-- Whether `n` bytes from device address `a` meet an enabled overlay region: R263, R264. -/
def State.inOverlay (s : State) (a n : Nat) : Bool :=
  (List.range 8).any (fun p =>
    s.bit (Reg.SRV_OVL p) 0 &&
      (let b := s.fld (Reg.SRV_OVL_BASE p) 0 48
       let z := s.fld (Reg.SRV_OVL p) 1 10 * s.fld (Reg.SRV_OVL p) 11 8 * 8192
       decide (a < b + z) && decide (b < a + n)))

/-- `n` rounded up to 4 KiB. -/
def up4k (n : Nat) : Nat := (n + 4095) / 4096 * 4096

/-- Bytes of one bitmap of an index of `slots` slots: R280. -/
def bitmapBytes (slots : Nat) : Nat := (slots + 511) / 512 * 64

/-- Where the copies of index q begin in DRAM: codes, live copy 0, live copy 1, then each filter; the last is the end (R282). -/
def State.indexAt (s : State) (q i : Nat) : Nat :=
  let n := s.fld (Reg.SIDX_SHAPE q) 0 34
  let b := s.fld (Reg.SIDX_DBASE q) 0 48
  if i = 0 then b else up4k (b + 32 * n) + (i - 1) * up4k (bitmapBytes n)

/-- Whether index q is open. -/
def State.indexOpen (s : State) (q : Nat) : Bool := s.bit (Reg.SIDX_STATE q) 0

/-- How many filters index q has loaded. -/
def State.indexFilters (s : State) (q : Nat) : Nat :=
  match s.search.idx.find? (fun e => e.1 == q) with
  | some e => e.2.filters.length
  | none => 0

/-- Whether frame ring `r` is enabled, or still runs a frame after which it will be disabled: R274. -/
def State.ringHeld (s : State) (r : Nat) : Bool := s.bit (Reg.FRM_CTL r) 0 || (sget {} s.serving.frames r).run.isSome

/-- Runs of DRAM by kind, each with its partition, base and size: KV pools (R254), frame rings (R271), open indexes (R282). -/
def State.poolRuns (s : State) : List (Nat × Nat × Nat) :=
  ((List.range 16).filter (fun q => s.bit (Reg.SRV_POOL q) 0)).map (fun q =>
    (s.fld (Reg.SRV_POOL q) 1 3, s.fld (Reg.SRV_POOL_BASE q) 0 48, s.fld (Reg.SRV_POOL q) 12 12 * 4096 * s.fld (Reg.SRV_POOL q) 24 24))

def State.ringRuns (s : State) : List (Nat × Nat × Nat) :=
  ((List.range 8).filter s.ringHeld).map (fun r =>
    (s.fld (Reg.FRM_CTL r) 1 3, s.fld (Reg.FRM_BASE r) 0 48, s.fld (Reg.FRM_CTL r) 4 8 * s.fld (Reg.FRM_CTL r) 12 20 * 4096))

def State.indexRuns (s : State) : List (Nat × Nat × Nat) :=
  ((List.range 16).filter s.indexOpen).map (fun q =>
    (s.fld (Reg.SIDX_STATE q) 1 3, s.indexAt q 0, s.indexAt q (3 + s.indexFilters q) - s.indexAt q 0))

/-- Overlay regions (R263), context areas (R398) and the stewards' own allocations (R187, R361, R349). -/
def State.overlayRuns (s : State) : List (Nat × Nat × Nat) :=
  ((List.range 8).filter (fun p => s.bit (Reg.SRV_OVL p) 0)).map (fun p =>
    (p, s.fld (Reg.SRV_OVL_BASE p) 0 48, s.fld (Reg.SRV_OVL p) 1 10 * s.fld (Reg.SRV_OVL p) 11 8 * 8192))

def State.ctxRuns (s : State) : List (Nat × Nat × Nat) :=
  (List.range 8).map (fun p => (p, s.fld (Reg.SCHED_CTXBASE p) 0 48, s.fld (Reg.SCHED_CTX p) 0 8 * 0x1C00000))

def State.allocRuns (s : State) : List (Nat × Nat × Nat) := s.allocs.map (fun r => (r.part, r.base, r.size))

def State.allRuns (s : State) : List (Nat × Nat × Nat) :=
  s.poolRuns ++ s.ringRuns ++ s.indexRuns ++ s.overlayRuns ++ s.ctxRuns ++ s.allocRuns

/-- Whether `n` bytes from `a` meet a run. -/
def meets (a n : Nat) (r : Nat × Nat × Nat) : Bool := decide (a < r.2.1 + r.2.2) && decide (r.2.1 < a + n)

/-- Whether `n` bytes from `a` lie in program memory that no other partition's runs occupy: partition `p`'s program memory (R140, R141). -/
def State.progMem (s : State) (p a n : Nat) : Bool :=
  decide (dramBase ≤ a) && decide (a + n ≤ s.dramLimit + 1) && !s.allRuns.any (fun r => r.1 != p && meets a n r)

/-- Whether a write meets the DRAM copies of an open index: R282. -/
def State.inIndex (s : State) (a n : Nat) : Bool := s.indexRuns.any (meets a n)

/-- Whether `n` bytes of DRAM from `a` are closed to writes of programs: R187, R264, R282. -/
def State.readOnly (s : State) (a n : Nat) : Bool := s.inCode a n || s.inIndex a n || s.inOverlay a n

/-- The overlay violation of R264 beside R137's. -/
def State.overlayViolate (s : State) : State := (s.raise .srv 2).addReg Reg.SRV_VIOL_COUNT 1

/-- A write by unit `u` of pieces of one 64-byte line, each an address and bytes: true when it was a violation and nothing was written, recorded
once for the access (R137, R139, R147, R187, R264, R343). A line written is one access (R52). -/
def State.outerPieces (s : State) (x : Ctx) (u : CoreUnit) (ps : List (Nat × List Byte)) (poison : Bool) : Bool × State :=
  let c := x.core
  match ps with
  | [] => (false, s)
  | p :: _ =>
    let a := p.1
    match s.tier a with
    | .regs => (true, s.regLine a)
    | .absent => (true, s.sramWinViolation a)
    | .sram k o =>
      if s.partOf k != some (s.payer c) then (true, s.sramWinViolation a)
      else if s.touchesWindow k (o / 64 * 64) 64 && !(k == c && u.mayWindow) then (true, s.harnViolate k)
      else (false, (State.each ps (fun p s => s.sramWrite k (p.1 - a + o) p.2 poison) s).chargeCore c 3 1)
    | .dram =>
      if s.inCode a 1 || s.inIndex a 1 then (true, s.memViolation a)
      else if s.inOverlay a 1 then (true, (s.memViolation a).overlayViolate)
      else (false, (State.each ps (fun p s => s.dramWrite p.1 p.2 poison) s).chargeCore c 4 1)
    | .weight => (true, s.memViolation a)
    | .hostWin =>
      match s.hostWin (s.payer c) (a - hostWinBase) with
      | none => (true, s.winViolation a)
      | some w =>
        let s := s.chargeCore c 4 1
        (false, { s with host := { s.host with bus := s.host.bus ++ ps.map (fun p => ⟨w.bus + (p.1 - hostWinBase - w.start), p.2, poison⟩) } })

/-- A write of bytes at device address `a`, within one line, by unit `u`. -/
def State.outerWrite (s : State) (x : Ctx) (u : CoreUnit) (a : Nat) (bs : List Byte) (poison : Bool) : Bool × State :=
  s.outerPieces x u [(a, bs)] poison

/-- The rein a transfer at device address `a` needs: R26, R344, R400. None for SRAM, registers and absent addresses. -/
def State.reinFor (s : State) (a : Nat) : Option Rein :=
  match s.tier a with
  | .dram | .hostWin => some .dram
  | .weight => if setHas s.weight.resident (weightPage a) then some .dram else some .media
  | .regs | .sram _ _ | .absent => none

/-- Whether the reins let a transfer at `a` by core `c` pass: R400. -/
def State.mayMove (s : State) (c a : Nat) : Bool :=
  match s.reinFor a with
  | some r => s.reinOpen (s.payer c) r
  | none => true

end Sys2Proof.Machine
end

