-- ==== Sys2Proof/Machine/Media.lean ====
section
/-! DEFINITION. Machine/Media.lean: flash blocks, the page ledger and the media's own state (R305 to R335): what every command that touches the media
shares. -/

namespace Sys2Proof.Machine

open Sys2Proof

/-! ### Geometry (R305 to R307) -/

def rawBlocks : Nat := 7815168

def pagesTotal : Nat := 24008196096

/-- Blocks of the dump area: R331. -/
def dumpBlocks : Nat := 256

/-- The stripe group of a die: R307. -/
def groupOf (channel position : Nat) : Nat := 2 * position + channel / 32

/-- The key of a block: its global die, plane and block. -/
def blkKey (die plane block : Nat) : Nat := (die * 4 + plane) * 1272 + block

/-- The global die of a block's key. -/
def keyDie (k : Nat) : Nat := k / 5088

/-- The stripe group of a block's key. -/
def keyGroup (k : Nat) : Nat := groupOf (keyDie k / 24) (keyDie k % 24)

/-- A superblock's member block: superblock `b` is group * 5,088 + plane * 1,272 + block (R307). -/
def sbMember (b m : Nat) : Nat :=
  let g := b / 5088
  blkKey ((g % 2 * 32 + m) * 24 + g / 2) (b % 5088 / 1272) (b % 1272)

/-- The superblock that a block belongs to from the start. -/
def sbOf (k : Nat) : Nat := keyGroup k * 5088 + k % 5088

/-- Superblocks there are. -/
def superblocks : Nat := 48 * 5088

/-- The 36 bits of the address of page `page` of block `k` (R306). -/
def ppaNat (k page : Nat) : Nat :=
  keyDie k / 24 + keyDie k % 24 * 2 ^ 6 + k / 1272 % 4 * 2 ^ 11 + k % 1272 * 2 ^ 13 + page * 2 ^ 24

/-- The block that holds the page of a 36-bit address. -/
def ppaBlk (a : Nat) : Nat := blkKey (a % 64 * 24 + a / 64 % 32) (a / 2 ^ 11 % 4) (a / 2 ^ 13 % 2048)

end Sys2Proof.Machine

namespace Sys2Proof

/-- The global die number of a PPA. -/
def Ppa.die (p : Ppa) : Nat := p.channel.toNat * 24 + p.position.toNat

/-- Whether every field is in its range: R306. -/
def Ppa.ok (p : Ppa) : Bool := decide (p.position.toNat < 24) && decide (p.block.toNat < 1272) && decide (p.page.toNat < 3072)

/-- The key of its block. -/
def Ppa.key (p : Ppa) : Nat := Machine.blkKey p.die p.plane.toNat p.block.toNat

/-- The 36 bits of R306. -/
def Ppa.nat (p : Ppa) : Nat :=
  p.channel.toNat + p.position.toNat * 2 ^ 6 + p.plane.toNat * 2 ^ 11 + p.block.toNat * 2 ^ 13 + p.page.toNat * 2 ^ 24

end Sys2Proof

namespace Sys2Proof.Machine

open Sys2Proof

/-! ### Blocks and dies -/

def State.fblk (s : State) (k : Nat) : Blk := sget {} s.media.blks k

def State.setFblk (s : State) (k : Nat) (v : Blk) : State := { s with media := { s.media with blks := sput {} s.media.blks k v } }

def State.die (s : State) (d : Nat) : Die := sget {} s.media.dies d

def State.modDie (s : State) (d : Nat) (f : Die → Die) : State :=
  { s with media := { s.media with dies := sput {} s.media.dies d (f (s.die d)) } }

def State.chan (s : State) (c : Nat) : Chan := sget {} s.media.chans c

def State.modChan (s : State) (c : Nat) (f : Chan → Chan) : State :=
  { s with media := { s.media with chans := sput {} s.media.chans c (f (s.chan c)) } }

/-- Slots of a block that are free: the rest of its 3,072. -/
def Blk.free (b : Blk) : Nat := 3072 - b.valid - b.invalid - b.bad - b.parity

/-- Whether a block's erase is running or suspended. -/
def Blk.erasing (b : Blk) : Bool := b.use == .erasing || b.use == .suspended

/-- A media fault bit with the page it concerns. -/
def State.mediaFault (s : State) (b ppa : Nat) : State := s.raise .media b 0 ppa

/-- A media violation: R216, R316. -/
def State.mediaViolate (s : State) (b ppa : Nat) : State := ((s.mediaFault b ppa).addReg Reg.MEDIA_VIOL_COUNT 1).countViolation

/-! ### The page ledger (R329, R330) -/

/-- `n` slots moved from one term to another: one update of the page ledger. -/
def State.movePages (s : State) (a b n : Nat) : State :=
  if n = 0 then s else ((s.setFld a 0 36 (s.fld a 0 36 - n)).setFld b 0 36 (s.fld b 0 36 + n)).tick 0

/-- Free blocks under R315, and free_bp. -/
def State.freeBlocks (s : State) : Nat := s.fld Reg.MEDIA_FREE 0 32

def State.freeBp (s : State) : Nat := s.freeBlocks * 10000 / rawBlocks

/-- Whether free_bp lies below the suspend floor: R315. -/
def State.starved (s : State) : Bool := decide (s.freeBp < s.fld Reg.MEDIA_GC_CTL 16 16)

/-- erase_starve set where the condition has come true: R315. -/
def State.starveFrom (s : State) (was : Bool) : State := if s.starved && !was then s.mediaFault 10 0 else s

/-- Free blocks changed. -/
def State.setFree (s : State) (n : Nat) : State := (s.setFld Reg.MEDIA_FREE 0 32 n).starveFrom s.starved

/-- Spare after a good block more or less; at the reserve every name space becomes read-only (R335). -/
def State.setSpare (s : State) (n : Nat) : State :=
  let s := s.setFld Reg.MEDIA_SPARE 0 32 n
  if n ≤ s.fld Reg.MEDIA_SPARE 32 24 ∧ s.bit Reg.MEDIA_SPARE 63 = false then (s.setBit Reg.MEDIA_SPARE 63 true).mediaFault 12 0 else s

/-- Whether the media are read-only. -/
def State.mediaRo (s : State) : Bool := s.bit Reg.MEDIA_SPARE 63

/-- A block is written for the first time since its erase: it leaves the free blocks. -/
def State.openBlk (s : State) (k : Nat) (slc : Bool) : State :=
  let b := s.fblk k
  if b.use = .good then
    let s := s.setFblk k { b with use := .open_, slc := slc }
    let s := s.setFree (s.freeBlocks - 1)
    if slc then s.setFld Reg.MEDIA_SLC 0 32 (s.fld Reg.MEDIA_SLC 0 32 + 1) else s
  else s

/-- Slots that a page takes: four in SLC mode. -/
def Blk.step (b : Blk) : Nat := if b.slc then 4 else 1

/-- The pages of a block that hold valid data. -/
def Blk.pages (b : Blk) : Nat := b.valid / b.step

/-! ### Superblocks (R307, R326) -/

/-- The block that serves as superblock member `k`: itself, or the one that replaced it when it was retired (R307). -/
def State.member (s : State) (k : Nat) : Nat := sget k s.media.repl k

/-- The member that a block serves as. -/
def State.servesAs (s : State) (k : Nat) : Nat :=
  match s.media.repl.find? (fun e => e.2 == k) with
  | some e => e.1
  | none => k

/-- The blocks of superblock `b` as they stand. -/
def State.sbBlks (s : State) (b : Nat) : List Nat := (List.range 32).map (fun m => s.member (sbMember b m))

/-- The media-direct zone that holds superblock `b`: its name space, its number, the zone. -/
def State.zoneOf (s : State) (b : Nat) : Option (Nat × Nat × Zone) :=
  s.nss.findSome? (fun e => if e.2.kind = 2 then (e.2.zones.find? (fun z => z.2.sb == some b)).map (fun z => (e.1, z.1, z.2)) else none)

/-- Whether a block belongs to a media-direct zone. -/
def State.directBlk (s : State) (k : Nat) : Bool := (s.zoneOf (sbOf (s.servesAs k))).isSome

/-- Whether a superblock is in use: a zone holds it, or a member has been written since its erase, or serves in another superblock. -/
def State.sbUsed (s : State) (b : Nat) : Bool :=
  (s.zoneOf b).isSome || (s.sbBlks b).any (fun k => (s.fblk k).use != .good) ||
    (List.range 32).any (fun m => s.media.repl.any (fun e => e.2 == sbMember b m))

/-- The first number from `i` on, `n` tried, for which `f` holds. -/
def findFrom (f : Nat → Bool) : Nat → Nat → Option Nat
  | 0, _ => none
  | n + 1, i => if f i then some i else findFrom f n (i + 1)

/-- A superblock that nothing uses: which is open. -/
def State.freeSb (s : State) (turn : Nat) : Option Nat :=
  (findFrom (fun i => !s.sbUsed ((turn + i) % superblocks)) superblocks 0).map (fun i => (turn + i) % superblocks)

/-! ### The map and the write buffer (R317, R318) -/

/-- Unit `u` of name space `id`, or its map page `u`, as one number. -/
def ukey (id u : Nat) : Nat := id * 2 ^ 40 + u

def ukeyNs (k : Nat) : Nat := k / 2 ^ 40

def ukeyUnit (k : Nat) : Nat := k % 2 ^ 40

/-- Entries of a map page: R317. -/
def mapEntries : Nat := 3264

/-- Whether a name space is mapped through map pages: the conventional ones, index name spaces among them; a zone's extents stay in the cache. -/
def Nspace.paged (v : Nspace) : Bool := v.kind == 0 || v.kind == 4

/-- The flash page that holds unit `u`, plus one; 0 where none does. -/
def Nspace.home (v : Nspace) (u : Nat) : Nat := sget 0 v.ppa u

/-- A map entry changed, and the change journaled: R317. -/
def State.remap (s : State) (id u v : Nat) : State :=
  match s.ns? id with
  | none => s
  | some n =>
    let m := s.media
    { s.setNs id { n with ppa := sput 0 n.ppa u v } with
      media := { m with journal := m.journal + 1, mapDirty := if n.paged then setAdd m.mapDirty (ukey id (u / mapEntries)) else m.mapDirty } }

/-- The page at `a` no longer needed: its slots go from valid to invalid (R330). -/
def State.dropPage (s : State) (a : Nat) : State :=
  let k := ppaBlk a
  let b := s.fblk k
  let n := min b.step b.valid
  if b.erasing || b.use == .bad then s
  else (s.setFblk k { b with valid := b.valid - n, invalid := b.invalid + n }).movePages Reg.MEDIA_PAGE_VALID Reg.MEDIA_PAGE_INVALID n

/-- The flash page of a unit dropped, if it has one. -/
def State.dropHome (s : State) (id u : Nat) : State :=
  match s.ns? id with
  | none => s
  | some v =>
    match v.home u with
    | 0 => s
    | a + 1 => (s.dropPage a).remap id u 0

/-- A unit written: its new data wait in the buffer, the page that held the old is dropped (R318, R330). -/
def State.putUnit (id u : Nat) (s : State) : State :=
  let s := s.dropHome id u
  { s with media := { s.media with fresh := setAdd s.media.fresh (ukey id u), moved := setDel s.media.moved (ukey id u) } }

/-- A unit unmapped: R319. -/
def State.dropUnit (id u : Nat) (s : State) : State :=
  let s := s.dropHome id u
  { s with media := { s.media with fresh := setDel s.media.fresh (ukey id u), moved := setDel s.media.moved (ukey id u) } }

/-- A unit whose page is given up while its data go on in the buffer, to be programmed elsewhere. -/
def State.moveUnit (id u : Nat) (s : State) : State :=
  let s := s.remap id u 0
  { s with media := { s.media with moved := setAdd s.media.moved (ukey id u) } }

/-- 16 KiB units in the protected write buffer: R311, R318. -/
def Media.buffered (m : Media) : Nat := m.fresh.length + m.moved.length + m.held.length

/-- Whether the protected write buffer is full, at the size its cap leaves it (R318, R476). -/
def State.bufferFull (s : State) : Bool := decide (s.media.bufCapMiB * 64 ≤ s.media.buffered)

/-- The units whose flash page lies where `f` says, each with its page. -/
def State.unitsOn (s : State) (f : Nat → Bool) : List (Nat × Nat) :=
  s.nss.flatMap (fun e => e.2.ppa.filterMap (fun m => if f (m.2 - 1) then some (ukey e.1 m.1, m.2 - 1) else none))

/-- The units whose flash page lies in block `k`, each with its page. -/
def State.unitsIn (s : State) (k : Nat) : List (Nat × Nat) := s.unitsOn (fun a => ppaBlk a == k)

/-- Pages of block `k` that only flash holds: relocating it reads them. -/
def State.readsOf (s : State) (k : Nat) : Nat := (s.fblk k).pages - ((s.unitsIn k).filter (fun e => setHas s.media.held e.2)).length

/-- The block's valid data taken off it: its valid slots become invalid (R330), and the data wait for the pages they are programmed to, units and
those of media-direct zones, map pages, journal. Reads and programs are housekeeping's (R320); a page still in the buffer is not read (R312). -/
def State.relocate (s : State) (k : Nat) : State :=
  let b := s.fblk k
  if b.valid = 0 then s
  else
    let us := s.unitsIn k
    let ms := (s.media.maps.filter (fun e => ppaBlk (e.2 - 1) == k)).map Prod.fst
    let direct := s.directBlk k
    let reads := s.readsOf k
    let s := s.setFblk k { b with valid := 0, invalid := b.invalid + b.valid }
    let s := s.movePages Reg.MEDIA_PAGE_VALID Reg.MEDIA_PAGE_INVALID b.valid
    let s := State.each us (fun e s => State.moveUnit (ukeyNs e.1) (ukeyUnit e.1) s) s
    let s := { s with media := { s.media with
      held := s.media.held.filter (fun a => ppaBlk a != k)
      maps := s.media.maps.filter (fun e => ppaBlk (e.2 - 1) != k)
      mapDirty := ms.foldl setAdd s.media.mapDirty
      journal := s.media.journal + (if direct then 0 else b.pages - us.length - ms.length) } }
    (s.chargeHouse 5 reads).chargeHouse 6 (if direct then b.pages else us.length)

/-- A block's erase is over, or will not be: no zone and no queue waits for it any more. -/
def State.eraseOver (s : State) (k : Nat) : State :=
  let s := { s with media := { s.media with eraseQ := setDel s.media.eraseQ k, refreshQ := setDel s.media.refreshQ k } }
  { s with nss := s.nss.map (fun e => (e.1, { e.2 with zones := (e.2.zones.map (fun z =>
      (z.1, { z.2 with toErase := z.2.toErase.filter (· != k) }))).filter (fun z => z.2 != {}) })) }

/-- Every slot of a block moved from its term to `dest`; the bad ones stay, and lost ones leave the lost subcount (R330). -/
def State.drainBlk (s : State) (k dest : Nat) : State :=
  let b := s.fblk k
  let s := if b.erasing then s.movePages Reg.MEDIA_PAGE_ERASING dest (3072 - b.bad)
    else
      let s := s.movePages Reg.MEDIA_PAGE_VALID dest b.valid
      let s := s.movePages Reg.MEDIA_PAGE_INVALID dest b.invalid
      let s := s.movePages Reg.MEDIA_PAGE_PARITY dest b.parity
      s.movePages Reg.MEDIA_PAGE_FREE dest b.free
  if b.lost = 0 then s else s.setFld Reg.MEDIA_PAGE_LOST 0 36 (s.fld Reg.MEDIA_PAGE_LOST 0 36 - b.lost)

/-- A lost page's own slot, when its block is erased, leaves the bad term for the block's move (R330). -/
def State.beginErase (k : Nat) (s : State) : State :=
  let b := s.fblk k
  if b.erasing || b.use == .bad then s
  else
    let s := s.movePages Reg.MEDIA_PAGE_BAD Reg.MEDIA_PAGE_ERASING b.lost
    let s := s.drainBlk k Reg.MEDIA_PAGE_ERASING
    let s := if b.use = .good then s.setFree (s.freeBlocks - 1) else s
    let s := s.setFld Reg.MEDIA_FREE 32 32 (s.fld Reg.MEDIA_FREE 32 32 + 1)
    s.setFblk k { b with use := .erasing, next := 0, valid := 0, invalid := 0, parity := 0, lost := 0, bad := b.bad - b.lost }

/-- A retired member replaced by a free good block of the same die, one of a superblock that nothing uses where there is one; which is open (R307).
-/
def State.replaceBlk (s : State) (k : Nat) : State :=
  let d := keyDie k
  let turn := Config.spareHome s.free % 5088
  let at_ := fun i => d * 5088 + (turn + i) % 5088
  let free := fun q => (s.fblk q).use == .good && !s.media.repl.any (fun e => e.2 == q) && !s.directBlk q
  let pick := match findFrom (fun i => free (at_ i) && !s.sbUsed (sbOf (at_ i))) 5088 0 with
    | some i => some i
    | none => findFrom (fun i => free (at_ i)) 5088 0
  let t := { s with free := s.free + 1 }
  if (s.die d).retired then s
  else
    match pick with
    | some i => { t with media := { t.media with repl := sput (s.servesAs k) t.media.repl (s.servesAs k) (at_ i) } }
    | none => t

/-- A block retired after its valid data have been relocated: every slot becomes bad (R312, R330, R335). -/
def State.retireBlk (k : Nat) (s : State) : State :=
  let b := s.fblk k
  if b.use = .bad then s
  else
    let s := s.relocate k
    let s := s.drainBlk k Reg.MEDIA_PAGE_BAD
    let s := if b.use = .good then s.setFree (s.freeBlocks - 1) else s
    let s := if b.erasing then s.setFld Reg.MEDIA_FREE 32 32 (s.fld Reg.MEDIA_FREE 32 32 - 1) else s
    let s := if b.slc then s.setFld Reg.MEDIA_SLC 0 32 (s.fld Reg.MEDIA_SLC 0 32 - 1) else s
    let s := s.setFblk k { use := .bad, bad := 3072, erases := b.erases }
    ((s.eraseOver k).setSpare (s.fld Reg.MEDIA_SPARE 0 32 - 1)).replaceBlk k

/-- A die retired: every block of it (R312). -/
def State.retireDie (s : State) (d ppa : Nat) : State :=
  if (s.die d).retired then s
  else
    let s := s.modDie d (fun v => { v with retired := true })
    let mine := s.media.blks.filter (fun e => keyDie e.1 == d && e.2.use != .bad)
    let own := mine.map Prod.fst
    -- its data are rebuilt from parity: 31 reads for every page
    let n := own.foldl (fun n k => n + s.readsOf k) 0
    let s := (((s.addReg Reg.MEDIA_REBUILDS n).addReg Reg.MEDIA_READS (31 * n)).chargeHouse 5 (30 * n))
    -- blocks of the die that nothing lists are free and good
    let listed := (s.media.blks.filter (fun e => keyDie e.1 == d)).length
    let rest := 5088 - listed - sget 0 s.fuse.factoryBad d
    let s := State.each own State.retireBlk s
    let s := s.movePages Reg.MEDIA_PAGE_FREE Reg.MEDIA_PAGE_BAD (rest * 3072)
    let s := (s.setFree (s.freeBlocks - rest)).setSpare (s.fld Reg.MEDIA_SPARE 0 32 - rest)
    { s with media := { s.media with hurt := true } }.mediaFault 8 ppa

/-- A block that failed counts as grown bad; the 128th retires its die (R312). -/
def State.growBad (s : State) (k ppa : Nat) : State :=
  let d := keyDie k
  let s := s.retireBlk k
  let s := s.modDie d (fun v => { v with grown := v.grown + 1 })
  if 128 ≤ (s.die d).grown then s.retireDie d ppa else s

/-- Whether an erase runs in stripe group `g`: at most one (R313). -/
def State.groupErasing (s : State) (g : Nat) : Bool := s.media.blks.any (fun e => keyGroup e.1 == g && e.2.erasing)

/-- Whether the power block holds new erases: the alert's media hold, or flash at 85 °C or more (R56, R58). -/
def State.eraseHeld (s : State) : Bool := s.power.alertHold || s.power.flash85

/-- Erases that wait for their group begun, lowest name space and zone first: R313, R328; none while the power block holds them. -/
def State.startErases (s : State) : State :=
  if s.eraseHeld then s else
  State.each (s.nss.flatMap (fun n => n.2.zones.filterMap (fun z => z.2.toErase.head?)) ++ s.media.eraseQ) (fun k s =>
    if s.groupErasing (keyGroup k) then s else State.beginErase k s) s

/-- A block queued for its erase. -/
def State.queueErase (k : Nat) (s : State) : State :=
  if (s.fblk k).use = .bad then s else { s with media := { s.media with eraseQ := setAdd s.media.eraseQ k } }

/-- Blocks of a die that nothing lists and that are not factory-bad. -/
def State.restOf (s : State) (d : Nat) : Nat := 5088 - (s.media.blks.filter (fun e => keyDie e.1 == d)).length - sget 0 s.fuse.factoryBad d

/-- Percentage Used and what first passes 100 raises: R334. -/
def State.lifeCheck (s : State) : State :=
  let gone := (s.media.dies.filter (fun e => e.2.retired)).foldl (fun n e => n + s.restOf e.1) 0
  let bad := (s.media.blks.filter (fun e => e.2.use == .bad)).length + s.fuse.factoryBad.foldl (fun n e => n + e.2) 0 + gone
  let good := rawBlocks - bad
  let sum := s.media.blks.foldl (fun n e => if e.2.use = .bad then n else n + e.2.erases) 0
  let pct := min 255 ((sum * 100 + good * 1500 - 1) / (good * 1500))
  let pe := s.media.blks.foldl (fun n e => if e.2.use = .bad then n else max n e.2.erases) 0
  let s := ((s.setFld Reg.MEDIA_LIFE 0 8 pct).setFld Reg.MEDIA_LIFE 8 24 (sum * 16 / good)).setFld Reg.MEDIA_LIFE 32 16 pe
  if !s.media.lifeOver && decide (100 < pct) then ({ s with media := { s.media with lifeOver := true } }.mediaFault 11 0).raiseEvent 0xC2 else s

/-- The fill and the target of the SLC buffer: R321. -/
def State.slcTarget (s : State) : State :=
  let units := s.nss.foldl (fun n e => n + e.2.mapped.length) 0
  let fill := units * 10000 / 19531250000
  let target := if fill ≤ 2500 then 800 else if 9500 ≤ fill then 50 else 800 - (fill - 2500) * 750 / 7000
  (s.setFld Reg.MEDIA_SLC 32 16 target).setFld Reg.MEDIA_SLC 48 16 fill

/-- Blocks that the SLC buffer may take: R321. -/
def State.slcBlocks (s : State) : Nat := rawBlocks * s.fld Reg.MEDIA_SLC 32 16 / 10000

/-- Whether the SLC buffer has a free page: in an open block, or in one that it may still take. -/
def State.slcRoom (s : State) : Bool :=
  s.media.blks.any (fun e => e.2.use == .open_ && e.2.slc) || (decide (s.fld Reg.MEDIA_SLC 0 32 < s.slcBlocks) && decide (0 < s.freeBlocks))

/-- Blocks that the user capacity requires with parity, the SLC floor, the map and the dump area: R335. -/
def neededBlocks : Nat :=
  let blocksFor := fun pages per => (pages * 32 / 31 + per - 1) / per
  blocksFor 19531250000 3072 + 39075 + blocksFor ((19531250000 + 3263) / 3264) 768 + dumpBlocks

end Sys2Proof.Machine
end

