-- ==== Sys2Proof/Machine/Nsp.lean ====
section
/-! DEFINITION. Machine/Nsp.lean: name spaces: their logical blocks, zones and lost marks (R317 to R319, R326 to R328, R348), shared by the media
service of the cores and the host's commands. -/

namespace Sys2Proof.Machine

open Sys2Proof

/-- Bytes of a logical block. -/
def lbaBytes : Nat := 4096

/-- A zone's size and capacity in logical blocks: R348. -/
def zoneSize (kind : Nat) : Nat := if kind = 3 then 512 else 524288
def zoneCap (kind : Nat) : Nat := if kind = 3 then 512 else if kind = 2 then 380928 else 524288

/-- Whether a name space is zoned. -/
def Nspace.zoned (v : Nspace) : Bool := v.kind == 1 || v.kind == 2 || v.kind == 3

/-- Whether a name space has logical blocks. -/
def Nspace.blocky (v : Nspace) : Bool := decide (v.kind ≤ 4)

def Nspace.zone (v : Nspace) (z : Nat) : Zone := sget {} v.zones z

def Nspace.setZone (v : Nspace) (z : Nat) (w : Zone) : Nspace := { v with zones := sput {} v.zones z w }

/-- Whether `n` logical blocks from `a` lie in the name space. -/
def Nspace.inside (v : Nspace) (a n : Nat) : Bool := v.blocky && decide (a + n ≤ v.lbas)

/-- Whether a name space is attached to partition `p`: to a function of it, or the partition owns it (R216, R349, R402). -/
def State.nsOfPart (s : State) (v : Nspace) (p : Nat) : Bool := v.part == p || v.ctrls.any (fun k => s.funcOf k p)

/-! ### Media-direct zones (R326) -/

/-- The block and the page that hold logical block `i` of a media-direct zone on superblock `b`. -/
def directAt (b i : Nat) : Nat × Nat :=
  let n := i / 4
  let st := n / 31
  let j := n % 31
  (sbMember b (if j < st % 32 then j else j + 1), st)

/-- The page of a media-direct zone's member block on which logical block `a` of the name space lies: its block, its page, as they stand. -/
def State.directPage (s : State) (v : Nspace) (a : Nat) : Option (Nat × Nat) :=
  match (v.zone (a / zoneSize 2)).sb with
  | some b =>
    let p := directAt b (a % zoneSize 2)
    some (s.member p.1, p.2)
  | none => none

/-- The flash page that holds unit `u` of a name space, by its PPA: R317, R326. -/
def State.pageOf (s : State) (v : Nspace) (u : Nat) : Option Nat :=
  if v.kind = 2 then (s.directPage v (4 * u)).map (fun p => ppaNat p.1 p.2)
  else if v.home u = 0 then none
  else some (v.home u - 1)

/-- The page of logical block `a`, where its block's erase is running or suspended: R316. -/
def State.onErase (s : State) (v : Nspace) (a : Nat) : Option Nat :=
  if v.kind = 2 then
    match s.directPage v a with
    | some p => if (s.fblk p.1).erasing then some (ppaNat p.1 p.2) else none
    | none => none
  else none

/-- A zone takes a superblock at its first write: one that nothing uses (R326). -/
def State.takeSb (s : State) (nsid z : Nat) : State :=
  match s.ns? nsid with
  | some v =>
    let w := v.zone z
    if v.kind = 2 ∧ w.sb.isNone then
      { s.setNs nsid (v.setZone z { w with sb := s.freeSb (Config.superblock nsid z s.free % superblocks) }) with free := s.free + 1 }
    else s
  | none => s

/-! ### Reading -/

/-- Whether a read of logical block `a` fails recovery: a lost mark, or a poisoned weight zone (R149, R319). -/
def State.lbaLost (s : State) (nsid : Nat) (v : Nspace) (a : Nat) : Bool :=
  setHas v.lost a || (v.kind == 3 && (setHas s.weight.poisoned (wkey nsid (a / 512)) || setHas s.weight.wholeNs nsid))

/-- `n` logical blocks from `a`: the bytes. -/
def Nspace.read (v : Nspace) (a n : Nat) : List Byte := memBytes v.data (lbaBytes * a) (lbaBytes * n)

/-- 16 KiB pages that `n` logical blocks from `a` touch. -/
def pagesOver (a n : Nat) : Nat := if n = 0 then 0 else (a + n - 1) / 4 - a / 4 + 1

/-- The units that `n` logical blocks from `a` touch. -/
def unitsOver (a n : Nat) : List Nat := (List.range (pagesOver a n)).map (a / 4 + ·)

/-- The flash pages that `n` logical blocks from `a` are read from: an unmapped unit, or one that only the write buffer holds, is read from none
(R319). -/
def State.pagesRead (s : State) (v : Nspace) (a n : Nat) : Nat :=
  ((unitsOver a n).filter (fun u => setHas v.mapped u && (s.pageOf v u).isSome)).length

/-- The pages on erasing blocks that `n` logical blocks from `a` touch, each once: R316. -/
def State.erasingPages (s : State) (v : Nspace) (a n : Nat) : NatSet :=
  (unitsOver a n).foldl (fun (l : NatSet) u => match s.onErase v (4 * u) with
    | some p => setAdd l p
    | none => l) []

/-- What a read of `n` logical blocks from `a` returns: zeros for those on an erasing block (R316). -/
def State.readBlocks (s : State) (v : Nspace) (a n : Nat) : List Byte :=
  if v.kind ≠ 2 then v.read a n
  else (List.range n).flatMap (fun i => if (s.onErase v (a + i)).isSome then List.replicate lbaBytes 0 else v.read (a + i) 1)

/-- Whether a read of `n` logical blocks from `a` fails recovery on a block that it reads from flash. -/
def State.readLost (s : State) (nsid : Nat) (v : Nspace) (a n : Nat) : Bool :=
  (List.range n).any (fun i => (s.onErase v (a + i)).isNone && s.lbaLost nsid v (a + i))

/-- One violation for each page on an erasing block: R316. -/
def State.eraseReads (s : State) (ps : NatSet) : State := State.each ps (fun p s => s.mediaViolate 2 p) s

/-- Whether a read of the page at `a` waits for its die's erase: below the suspend floor it does not suspend it, and no read-around has delivered
the page (R315, R323). -/
def State.pageWaits (s : State) (a : Nat) : Bool :=
  s.starved && !setHas s.media.rebuilt a && !(s.fblk (ppaBlk a)).erasing &&
    s.media.blks.any (fun e => keyDie e.1 == keyDie (ppaBlk a) && e.2.use == .erasing)

/-- Whether a read of `n` logical blocks from `a` waits for an erase. -/
def State.readWaits (s : State) (v : Nspace) (a n : Nat) : Bool :=
  (unitsOver a n).any (fun u => setHas v.mapped u && (s.pageOf v u).any s.pageWaits)

/-- Whether a line request at device address `a` waits for an erase: one to the weight range that its pool frame does not serve. -/
def State.lineWaits (s : State) (a : Nat) : Bool :=
  match s.tier a with
  | .weight =>
    let p := weightPage a
    !setHas s.weight.resident p &&
      (match s.attached p with
       | some t => (s.ns? t.nsid).any (fun v => (s.pageOf v ((p - t.base) * 128 + a % 0x200000 / 16384)).any s.pageWaits)
       | none => false)
  | _ => false

/-! ### Map reads (R317, R320) -/

/-- Map pages that the cache holds. -/
def cachePages : Nat := 1048576

/-- The map pages that `n` logical blocks from `a` of name space `id` need. -/
def mapPagesOver (id : Nat) (v : Nspace) (a n : Nat) : NatSet :=
  if v.paged then (unitsOver a n).foldl (fun (l : NatSet) u => setAdd l (ukey id (u / mapEntries))) [] else []

/-- Whether map page `m` has to be read from flash. -/
def State.mapMiss (s : State) (m : Nat) : Bool := !s.media.cache.contains m && sget 0 s.media.maps m != 0

/-- A map page used: read from flash if it is not cached, which is housekeeping's, and kept as the most recently used. -/
def State.useMap (m : Nat) (s : State) : State :=
  let s := if s.mapMiss m then s.chargeHouse 5 1 else s
  { s with media := { s.media with cache := (m :: s.media.cache.filter (· != m)).take cachePages } }

/-- The map pages of `n` logical blocks from `a` used. -/
def State.useMaps (s : State) (id : Nat) (v : Nspace) (a n : Nat) : State := State.each (mapPagesOver id v a n) State.useMap s

/-- Whether reading those map pages needs housekeeping's media rein, and finds it at zero: R25, R400. -/
def State.mapWaits (s : State) (id : Nat) (v : Nspace) (a n : Nat) : Bool :=
  (mapPagesOver id v a n).any s.mapMiss && !s.reinOpen 8 .media

/-! ### Writing -/

/-- Logical blocks stored from `a`: their lost marks go, their units become mapped (R317 to R319). -/
def Nspace.store (v : Nspace) (a : Nat) (bs : List Byte) : Nspace :=
  let n := (bs.length + lbaBytes - 1) / lbaBytes
  { v with
    data := memPut v.data (lbaBytes * a) bs
    lost := v.lost.filter (fun b => decide (b < a) || decide (a + n ≤ b))
    mapped := (unitsOver a n).foldl setAdd v.mapped }

/-- Where a write narrower than a unit meets a unit whose old contents failed recovery, the unit's other logical blocks stay lost (R318):
the marks of blocks not written stay as they are. A write to a whole unit clears every mark of it. -/
def Nspace.write (v : Nspace) (a : Nat) (bs : List Byte) : Nspace := v.store a bs

/-- Units that `n` logical blocks from `a` cover in part and that are in flash: a write reads them to merge (R318). -/
def State.mergeReads (s : State) (v : Nspace) (a n : Nat) : Nat :=
  ((unitsOver a n).filter (fun u => !(decide (a ≤ 4 * u) && decide (4 * u + 4 ≤ a + n)) && setHas v.mapped u && (s.pageOf v u).isSome)).length

/-- The units of `n` logical blocks from `a` written: into the protected buffer (R318). -/
def State.putUnits (s : State) (id a n : Nat) : State := State.each (unitsOver a n) (State.putUnit id) s

/-- Whole units unmapped, parts of units zeroed: R319. -/
def Nspace.unmap (v : Nspace) (a n : Nat) : Nspace :=
  let whole := fun (u : Nat) => decide (a ≤ 4 * u) && decide (4 * u + 4 ≤ a + n)
  { v with
    data := memZero v.data (lbaBytes * a) (lbaBytes * n)
    lost := v.lost.filter (fun b => decide (b < a) || decide (a + n ≤ b))
    mapped := v.mapped.filter (fun u => !whole u) }

/-! ### Zones -/

/-- A zone's state after it has been written up to block `wp`. -/
def Zone.written (z : Zone) (kind wp : Nat) : Zone :=
  { z with wp := wp, st := if zoneCap kind ≤ wp then .full else if z.st = .explicitlyOpen then .explicitlyOpen else .implicitlyOpen }

/-- Whether a zone is active: open or closed. -/
def Zone.active (z : Zone) : Bool := z.st == .implicitlyOpen || z.st == .explicitlyOpen || z.st == .closed

/-- The media-direct zones active on the module: 256 at most (R326). -/
def State.activeDirect (s : State) : Nat :=
  s.nss.foldl (fun n e => if e.2.kind = 2 then n + (e.2.zones.filter (fun z => z.2.active)).length else n) 0

/-- Whether a zone can take a write at all. -/
def State.zoneWritable (s : State) (v : Nspace) (z : Zone) : Bool :=
  match z.st with
  | .full | .offline => false
  | .empty => v.kind != 2 || decide (s.activeDirect < 256)
  | .implicitlyOpen | .explicitlyOpen | .closed => true

/-- `n` logical blocks written at a zone's write pointer; those in `bad`, numbered from the first, came with a poison mark and are recorded as lost
(R159). Data of a media-direct zone bypass the buffer (R327). -/
def State.zoneWrite (s : State) (nsid z : Nat) (bs : List Byte) (bad : List Nat := []) : State :=
  let s := s.takeSb nsid z
  match s.ns? nsid with
  | some v =>
    let w := v.zone z
    let a := z * zoneSize v.kind + w.wp
    let n := bs.length / lbaBytes
    let u := v.write a bs
    let u := { u with lost := bad.foldl (fun l i => setAdd l (a + i)) u.lost }
    let s := s.setNs nsid (u.setZone z (w.written v.kind (w.wp + n)))
    if v.kind = 2 then s else s.putUnits nsid a n
  | none => s

/-- A zone emptied: its data are gone; a media-direct zone's blocks await their erases (R328). -/
def State.zoneReset (s : State) (nsid z : Nat) : State :=
  match s.ns? nsid with
  | some v =>
    let w := v.zone z
    let v := v.unmap (z * zoneSize v.kind) (zoneSize v.kind)
    let keys := match w.sb with
      | some b => if w.wp = 0 then w.toErase else s.sbBlks b
      | none => []
    (s.setNs nsid (v.setZone z { sb := w.sb, toErase := keys })).startErases
  | none => s

/-! ### The pages of a media-direct zone as they are programmed (R307, R326, R327) -/

/-- The number of the data page that stripe `st` puts on member `m`. -/
def dataPage (m st : Nat) : Nat := 31 * st + (if m < st % 32 then m else m - 1)

/-- Whether page `st` of member `m` of superblock `b` has been programmed; a member that is lost is waited for no longer. -/
def State.passed (s : State) (b m st : Nat) : Bool :=
  let k := s.fblk (s.member (sbMember b m))
  k.use == .bad || decide (st < k.next)

/-- Whether the parity of stripe `st` of a zone can be written: every data page has passed, or, in a zone that takes no more, every one written. -/
def State.stripeDone (s : State) (b : Nat) (w : Zone) (st : Nat) : Bool :=
  decide (124 * st < w.wp) &&
  (List.range 32).all (fun m => m == st % 32 || (if 4 * dataPage m st < w.wp then s.passed b m st else w.st == .full))

/-- Whether every page of a write to a media-direct zone has passed: R327. -/
def State.writePassed (s : State) (q : ZoneWrite) : Bool :=
  match s.ns? q.nsid with
  | none => true
  | some v =>
    match (v.zone q.z).sb with
    | none => false
    | some b =>
      decide ((v.zone q.z).wp < q.lo + q.n) ||
      (List.range (q.n / 4)).all (fun i =>
        let n := q.lo / 4 + i
        let st := n / 31
        s.passed b (if n % 31 < st % 32 then n % 31 else n % 31 + 1) st)

end Sys2Proof.Machine
end

