-- ==== Sys2Proof/Machine/Dx.lean ====
section
/-! DEFINITION. Machine/Dx.lean: streams between SRAM and the outer side, their slots, prefetch and the lace (chapter 04, R198 to R201). -/

namespace Sys2Proof.Machine

open Sys2Proof

/-! ### Columns (R91) -/

/-- The logical columns of array `a` of core `c`, as physical columns in ascending order. -/
def State.goodCols (s : State) (c a : Nat) : List Nat :=
  (List.range 128).filter (fun j => !(sget 0 s.fuse.bypass (4 * c + a)).getLsbD j)

/-- An array's effective width. -/
def State.width (s : State) (c a : Nat) : Nat := (s.goodCols c a).length

/-- The physical column of logical column `j`. -/
def State.phys (s : State) (c a j : Nat) : Nat := (s.goodCols c a).getD j 128

/-! ### The descriptor (R108 to R113) -/

/-- A descriptor's fields as 64 bytes hold them. -/
structure RawDesc where
  base    : Nat
  sram    : Nat
  ctl     : Nat
  strides : List Int
  counts  : List Nat
  format  : Nat
  skew    : Nat
  rsv     : Bool
  deriving DecidableEq, Repr

def RawDesc.ofBytes (b : List Byte) : RawDesc :=
  { base := leNat (b.take 8), sram := leNat ((b.drop 8).take 4), ctl := leNat ((b.drop 12).take 4)
    strides := (elems 4 ((b.drop 16).take 24)).map (sext 32)
    counts := elems 2 ((b.drop 40).take 12)
    format := (b.getD 52 0).toNat, skew := (b.getD 53 0).toNat
    rsv := (b.drop 54).any (fun x => x != 0) }

def RawDesc.dims (r : RawDesc) : Nat := r.ctl % 8
def RawDesc.flag (r : RawDesc) (i : Nat) : Bool := r.ctl.testBit i
def RawDesc.pnum (r : RawDesc) : Nat := (r.ctl / 2 ^ 6) % 8
def RawDesc.signal (r : RawDesc) : Nat := (r.ctl / 2 ^ 9) % 4
def RawDesc.channel (r : RawDesc) : Nat := (r.ctl / 2 ^ 12) % 4

/-- Element bytes of a stream format: R110. -/
def dxBytes (f : Nat) : Nat :=
  match f with
  | 3 | 4 | 9 => 2
  | 5 | 10 => 4
  | 6 | 11 => 16
  | _ => 1

/-- The counts in use: those of dimensions at or above dims act as 1 (R109); the instruction may override one (R199). -/
def RawDesc.used (r : RawDesc) (o : DxOps) (x : Ctx) : List Nat :=
  (List.range 6).map (fun d =>
    if r.dims ≤ d then 1
    else if o.cntEn && o.cntDim.toNat == d then x.ctr o.cntC
    else r.counts.getD d 0)

/-- The formats a skew allows: R113. -/
def skewAllows (skew f : Nat) : Bool :=
  match skew with
  | 0 => decide (f ≤ 11)
  | 1 => decide (1 ≤ f ∧ f ≤ 4)
  | 2 => decide (1 ≤ f ∧ f ≤ 4) || f == 7 || f == 8
  | 3 => f == 9 || f == 10 || f == 5 || f == 6
  | _ => false

/-- The count of the dimension that names a row or column, and the count of the k dimension, of a skewed stream: R111, R112. -/
def otherCount (skew : Nat) (transpose : Bool) (cs : List Nat) : Nat :=
  let d := if skew = 3 then 0 else 1
  cs.getD (if transpose then 1 - d else d) 1

/-- A descriptor fault, or an operand that falls under R192 for a DX instruction: R113, R198, R200. -/
def RawDesc.faulty (r : RawDesc) (gather : Bool) (h : Hdr) (o : DxOps) (x : Ctx) : Bool :=
  let cs := r.used o x
  h.rsv != 0 || decide (6 ≤ o.cntDim.toNat) || (!gather && o.agi != 0) ||
  r.rsv || decide (2 ^ 48 ≤ r.base) || decide (2 ^ 25 ≤ r.sram) || decide (r.sram % 64 ≠ 0) || decide (2 ^ 14 ≤ r.ctl) ||
  r.dims == 0 || r.dims == 7 || r.signal == 3 || decide (11 < r.format) || !skewAllows r.skew r.format ||
  (r.flag 3 && r.skew != 0) || (r.flag 5 && r.flag 11) ||
  (o.cntEn && decide (65535 < x.ctr o.cntC)) ||
  (r.skew != 0 && decide (128 < otherCount r.skew (r.flag 4) cs)) ||
  (r.skew == 0 && r.flag 4 && decide (128 < cs.getD 0 1)) ||
  (gather && (r.flag 4 || decide (r.dims < 2)))

/-- Granules of a stream of these counts: R109, R113. -/
def granulesOf (signal : Nat) (cs : List Nat) : Nat :=
  let p := cs.foldl (· * ·) 1
  if p = 0 then (if signal = 0 ∨ signal = 3 then 1 else 0)
  else if signal = 1 then (cs.drop 2).foldl (· * ·) 1
  else if signal = 2 then (cs.drop 3).foldl (· * ·) 1
  else 1

/-- The elements of a stream. -/
def Desc.total (d : Desc) : Nat := d.counts.foldl (· * ·) 1

/-- The elements of a plane. -/
def Desc.plane (d : Desc) : Nat := d.counts.getD 0 1 * d.counts.getD 1 1

/-- The elements of one granule: R108's signal field. -/
def Desc.granule (d : Desc) : Nat :=
  if d.signal = 1 then d.plane else if d.signal = 2 then d.plane * d.counts.getD 2 1 else d.total

def Desc.esize (d : Desc) : Nat := dxBytes d.format

/-- The indices of linear element `n`, dimension 0 fastest. -/
def indicesOf : List Nat → Nat → List Nat
  | [], _ => []
  | c :: r, n => n % c :: indicesOf r (n / c)

/-- The outer address of element `n`, a signed sum: R109; the index list stands for dimension 1 in a gather (R200). -/
def Desc.addr (d : Desc) (n : Nat) : Int :=
  let ix := indicesOf d.counts n
  let ix := match d.gather with
    | some l => ix.set 1 (l.getD (ix.getD 1 0) 0)
    | none => ix
  (d.base : Int) + ((ix.zip d.strides).map (fun p => (p.1 : Int) * p.2)).foldl (· + ·) 0

/-- Bytes from one row of a skewed plane to the next: R111. -/
def Desc.pitch (d : Desc) : Nat := if d.format = 7 then 64 else 128 * d.esize

/-- Bytes that one skewed plane occupies: R111. A COLUMN plane takes its 128 rows. -/
def Desc.planeBytes (d : Desc) : Nat :=
  let kc := d.counts.getD (if d.transpose then 1 else 0) 1
  let kk := if d.format = 7 then 2 * kc else kc
  if d.skew = 3 then 128 * d.pitch else up64 ((kk + 127) * d.pitch)

/-- Where element `n` stands in SRAM, in bytes from 0; none for a column at or above the width, which is not placed (R111, R112, R114). -/
def State.place (s : State) (c : Nat) (d : Desc) (n : Nat) : Option Nat :=
  let ix := indicesOf d.counts n
  let i0 := ix.getD 0 0
  let i1 := ix.getD 1 0
  let a := if d.transpose then i1 else i0
  let b := if d.transpose then i0 else i1
  let q := n / d.plane
  let e := d.esize
  match d.skew with
  | 0 =>
    if d.transpose then some (d.sram + (i1 + d.counts.getD 1 1 * (i0 + d.counts.getD 0 1 * q)) * e)
    else some (d.sram + n * e)
  | 1 => some (d.sram + q * d.planeBytes + (a + b) * d.pitch + b * e)
  | 2 =>
    if b < s.width c d.array then
      let p := s.phys c d.array b
      if d.format = 7 then some (d.sram + q * d.planeBytes + (2 * a + p) * d.pitch + p / 2)
      else some (d.sram + q * d.planeBytes + (a + p) * d.pitch + p * e)
    else none
  | _ =>
    if a < s.width c d.array then
      some (d.sram + q * d.planeBytes + b * d.pitch + s.phys c d.array a * e)
    else none

/-! ### Slots (R118) -/

/-- Slots free. -/
def Core.freeSlots (k : Core) : Nat := 128 - k.filled - k.draining

/-- `n` slots filled from free. -/
def State.slotFill (s : State) (c n : Nat) : State := (s.modCore c (fun k => { k with filled := k.filled + n })).tick 2 n

/-- `n` slots from filled to draining. -/
def State.slotDrain (s : State) (c n : Nat) : State :=
  (s.modCore c (fun k => { k with filled := k.filled - n, draining := k.draining + n })).tick 2 n

/-- `n` slots from draining to free. -/
def State.slotFree (s : State) (c n : Nat) : State := (s.modCore c (fun k => { k with draining := k.draining - n })).tick 2 n

/-- `n` filled slots dropped with their data: R119. -/
def State.slotDrop (s : State) (c n : Nat) : State := (s.modCore c (fun k => { k with filled := k.filled - n })).tick 2 n

/-! ### Prefetch cancelled (R119, R122, R129) -/

/-- Prefetches that satisfy `p` cancelled: their slots free, counted in DX_PREFETCH_DROP. -/
def State.cancelPrefetch (s : State) (c : Nat) (p : Prefetch → Bool) : State :=
  let gone := (s.core c).prefetch.filter p
  let n := gone.foldl (fun n f => n + f.slots) 0
  let s := s.modCore c (fun k => { k with prefetch := k.prefetch.filter (fun f => !p f) })
  (s.slotDrop c n).addReg (Reg.DX_PREFETCH_DROP c) n

/-! ### Moving elements -/

/-- What a fault of a stream captures beside its bit: the lace channel of a lace stream (R135). -/
def Desc.laceField (d : Desc) : Nat := if d.lace then d.channel * 2 ^ 8 else 0

/-- DX's violation of R114, once for each stream. -/
def State.dxViolate (s : State) (x : Ctx) (st : Stream) : State × Stream :=
  if st.viol then (s, st) else (s.violate x.core .dx (s.pc x) st.d.laceField, { st with viol := true })

/-- The instruction a stream came from, for its PC and its core. -/
def Stream.ctx (st : Stream) (c : Nat) : Ctx := { core := c, idx := st.idx, gens := [], ctrs := [] }

/-- How many of the `f` elements from `pos` on lie in the 64-byte outer line `l`, one after the other. -/
def lineRun (d : Desc) (l : Int) : Nat → Nat → Nat
  | 0, _ => 0
  | f + 1, pos => if d.addr pos / 64 = l then lineRun d l f (pos + 1) + 1 else 0

/-- The elements from `pos` on that lie in the same 64-byte outer line. -/
def runLen (d : Desc) (pos : Nat) : Nat := lineRun d (d.addr pos / 64) (d.total - pos) pos

/-- The runs of a stream from element `p` up to element `pos`, `f` at most: the lines it has moved. -/
def runsTo (d : Desc) (pos : Nat) : Nat → Nat → Nat
  | 0, _ => 0
  | f + 1, p => if pos ≤ p then 0 else runsTo d pos f (p + max 1 (runLen d p)) + 1

/-- The first element of the stream's run number `n` counted from element `p`. -/
def runStart (d : Desc) : Nat → Nat → Nat
  | 0, p => p
  | n + 1, p => runStart d n (p + max 1 (runLen d p))

/-- A skewed plane's places set to +0 as its first element comes: R111. -/
def State.zeroRange (s : State) (x : Ctx) (o n : Nat) : State :=
  let c := x.core
  let n := min n (sramSize - o)
  if !(s.core c).flipPend.isEmpty || !(s.core c).lost.isEmpty || s.touchesWindow c o n then s.opWrite x .dx o (List.replicate n 0)
  else
    let lo := (sramBase c + o) / 64
    let s := s.modCore c (fun k => { k with
      merge := k.merge.filter (fun e => decide (8 * e.word + 8 ≤ o) || decide (o + n ≤ 8 * e.word))
      flipped := k.flipped.filter (fun e => decide (8 * e.word + 8 ≤ o) || decide (o + n ≤ 8 * e.word)) })
    { s with mem := memZero s.mem (sramBase c + o) n
             valid := (List.range (n / 64)).foldl (fun v i => setAdd v (lo + i)) s.valid
             poison := s.poison.filter (fun l => decide (l < lo) || decide (lo + n / 64 ≤ l)) }

/-- Whether element `n` has a place at or beyond 24 MiB: either of its two places when it is a CB4 element of a WGT stream (R111, R114). -/
def State.placeBad (s : State) (x : Ctx) (d : Desc) (n : Nat) : Bool :=
  match s.place x.core d n with
  | some o => s.opBad x .dx o d.esize || (decide (d.skew = 2 ∧ d.format = 7) && s.opBad x .dx (o + d.pitch) 1)
  | none => false

/-- One element's bytes written to its place in SRAM. -/
def State.putElem (x : Ctx) (d : Desc) (poison : Bool) (p : Nat × List Byte) (s : State) : State :=
  match s.place x.core d p.1 with
  | none => s
  | some o =>
    if s.placeBad x d p.1 then s
    else if d.skew = 2 ∧ d.format = 7 then
      -- CB4: two codes, in rows k + phys and k + 1 + phys, one nibble each (R111)
      let b := (p.2.headD 0).toNat
      let odd := (s.phys x.core d.array (indicesOf d.counts p.1 |>.getD (if d.transpose then 0 else 1) 0)) % 2 = 1
      let put := fun (s : State) (o v : Nat) =>
        let old := (s.sramByte x.core o).toNat
        let new := if odd then old % 16 + 16 * v else old / 16 * 16 + v
        s.opWrite x .dx o [BitVec.ofNat 8 new] poison
      put (put s o (b % 16)) (o + d.pitch) (b / 16)
    else s.opWrite x .dx o p.2 poison

/-- Whether any of the `n` elements from the stream's position is read from or written to the outer side: one that is misaligned, that has no column
or whose place is beyond SRAM is not (R114). A lace carries every line of its sequence (R131). -/
def State.needsLine (s : State) (x : Ctx) (st : Stream) (n : Nat) : Bool :=
  let d := st.d
  d.lace || (List.range n).any (fun i =>
    decide (d.addr (st.pos + i) % (d.esize : Int) = 0) && (s.place x.core d (st.pos + i)).isSome && !s.placeBad x d (st.pos + i))

/-- Adjacent pieces of a linear run joined into whole writes. -/
def joinRuns : List (Nat × List Byte) → List (Nat × List Byte)
  | [] => []
  | p :: r =>
    match joinRuns r with
    | [] => [p]
    | q :: t => if p.1 + p.2.length = q.1 then (p.1, p.2 ++ q.2) :: t else p :: q :: t

/-- The plane of which element `i` is the first, zeroed: R111. -/
def State.planeStart (x : Ctx) (d : Desc) (i : Nat) (s : State) : State :=
  if i % d.plane = 0 then s.zeroRange x (d.sram + i / d.plane * d.planeBytes) d.planeBytes else s

/-- `n` elements from the stream's position written to SRAM from one outer line (its address and 64 bytes): R111, R115. A line that differs from
a lace member's own sequence is `wrong`: its marks are set, and the lace's violations are its head's (R131). -/
def State.placeRun (s : State) (x : Ctx) (st : Stream) (n : Nat) (line : DxLine) (member wrong : Bool := false) : State × Stream :=
  let d := st.d
  let e := d.esize
  let mark := line.poison || wrong
  let ns := (List.range n).map (st.pos + ·)
  let val := fun i =>
    let a := d.addr i
    if a % (e : Int) ≠ 0 then List.replicate e (0 : Byte) else (line.bytes.drop (a % 64).toNat).take e
  let bad := ns.any (fun i => (!member && decide (d.addr i % (e : Int) ≠ 0)) || s.placeBad x d i)
  let s := if d.skew = 0 then
      State.each (joinRuns (ns.filterMap (fun i => (s.place x.core d i).map (fun o => (o, fitTo e 0 (val i))))))
        (fun p s => s.opWrite x .dx p.1 p.2 mark) s
    else State.each (ns.map (fun i => (i, fitTo e 0 (val i)))) (fun p s => State.putElem x d mark p (State.planeStart x d p.1 s)) s
  let s := if line.poison then s.coreFault x.core .dx 2 (s.pc x) d.laceField else s
  if bad then s.dxViolate x st else (s, st)

/-- A stream that has moved to `pos`: its granules signalled, and when it has ended its slot freed and the stream gone (R116, R118). -/
def State.streamAt (s : State) (c : Nat) (st : Stream) (pos : Nat) : State :=
  let g := st.d.granule
  let n := pos / g - st.pos / g
  let s := s.signal? c st.sig st.idx n
  let fin := st.d.total ≤ pos
  let full := st.slot = some 16 ∨ fin
  let s := if full ∧ st.slot.isSome then s.slotFree c 1 else s
  let st := { st with pos := pos, slot := if full then none else st.slot }
  s.modCore c (fun k => { k with
    stalled := false
    streams := if fin then k.streams.filter (fun t => t.id != st.id)
               else k.streams.map (fun t => if t.id == st.id then st else t) })

/-- A line landing in a slot of the stream: a new slot is filled and at once draining, as the line is written in the same step (R118). -/
def State.slotLine (s : State) (c : Nat) (st : Stream) : State × Stream :=
  match st.slot with
  | some n => (s, { st with slot := some (n + 1) })
  | none => ((s.slotFill c 1).slotDrain c 1, { st with slot := some 1 })

/-! ### The lace (R130 to R134) -/

def Core.laceCh (k : Core) (l : Nat) : LaceChan := sget {} k.lace l

def Core.setLace (k : Core) (l : Nat) (v : LaceChan) : Core := { k with lace := sput {} k.lace l v }

def State.modLace (s : State) (c l : Nat) (f : LaceChan → LaceChan) : State := s.modCore c (fun k => k.setLace l (f (k.laceCh l)))

/-- The lace role of core `c` on channel `l`: enable, role, successor, credits. -/
def State.laceCtl (s : State) (c l : Nat) : Bool × Nat × Nat × Nat :=
  let w := s.reg (Reg.DX_LACE_CTL c l)
  (Machine.bit w 0, Machine.fld w 1 2, Machine.fld w 8 5, Machine.fld w 16 7)

/-- The predecessor of core `c` on channel `l`: the member whose successor it is. -/
def State.lacePred (s : State) (c l : Nat) : Option Nat :=
  (List.range s.coreCount).find? (fun p => let t := s.laceCtl p l; t.1 && t.2.1 != 2 && t.2.2.1 == c)

/-- Credits granted by member `c` to its predecessor, each backed by a slot, while at least 16 slots are free: R118, R132. -/
def State.grant : Nat → Nat → Nat → State → State
  | 0, _, _, s => s
  | n + 1, c, l, s =>
    match s.lacePred c l with
    | some p =>
      if (s.laceCtl c l).1 = true ∧ 16 ≤ (s.core c).freeSlots ∧ ((s.core c).laceCh l).granted < (s.laceCtl c l).2.2.2 then
        let s := s.slotFill c 1
        let s := s.modLace c l (fun v => { v with granted := v.granted + 1 })
        let s := s.modLace p l (fun v => { v with cred := v.cred + 1 })
        let s := (s.setFld (Reg.DX_LACE_CREDIT c l) 0 32 (s.fld (Reg.DX_LACE_CREDIT c l) 0 32 + 1)).tick 1
        State.grant n c l s
      else s
    | none => s

/-- Whether core `c` may send a lace line on channel `l`: a credit in use, or one held (R132). The tail sends nothing. -/
def State.laceMaySend (s : State) (c l : Nat) : Bool :=
  let t := s.laceCtl c l
  t.2.1 == 2 || decide (0 < ((s.core c).laceCh l).sent) || decide (0 < ((s.core c).laceCh l).cred)

/-- A line sent to the successor: its slot's credit is taken with its first line (R132). -/
def State.laceSend (s : State) (c l : Nat) (line : DxLine) : State :=
  let t := s.laceCtl c l
  if t.2.1 = 2 then s
  else
    let s := s.modLace c l (fun v =>
      let v := if v.sent = 0 then { v with cred := v.cred - 1 } else v
      { v with sent := if line.last || v.sent + 1 == 16 then 0 else v.sent + 1 })
    s.modLace t.2.2.1 l (fun v => { v with transit := v.transit ++ [line] })

/-- The lace stream that core `c` has issued on channel `l`. -/
def Core.laceStream (k : Core) (l : Nat) : Option Stream := k.streams.find? (fun t => t.d.lace && t.d.channel == l)

/-- The oldest line held by member `c` done with: sent on, its slot draining from the slot's first line and done with its last (R118, R132). -/
def State.laceDone (s : State) (c l : Nat) (line : DxLine) : State :=
  let s := s.laceSend c l line
  let s := if ((s.core c).laceCh l).drained = 0 then s.slotDrain c 1 else s
  s.modLace c l (fun v =>
    let v := if line.last || v.drained + 1 == 16 then { v with drained := 0, done := v.done + 1 } else { v with drained := v.drained + 1 }
    if v.skip ≠ 0 then { v with skip := v.skip - 1 }
    else { v with cur := line.sid + 1, took := if v.cur = line.sid + 1 then v.took + 1 else 1 })

/-- Lines landed at member `c` written to its SRAM and sent on, while its own stream has issued and it may send: R131 to R134. A repeat after a
switch is discarded before it reaches SRAM, and sent on. -/
def State.laceProcess : Nat → Nat → Nat → State → State
  | 0, _, _, s => s
  | n + 1, c, l, s =>
    match ((s.core c).laceCh l).held with
    | [] => s
    | line :: rest =>
      if !s.laceMaySend c l then s
      else if ((s.core c).laceCh l).skip ≠ 0 then
        State.laceProcess n c l ((s.modLace c l (fun v => { v with held := rest })).laceDone c l line)
      else
        match (s.core c).laceStream l with
        | none => s
        | some st =>
          let x := st.ctx c
          let s := s.modLace c l (fun v => { v with held := rest })
          let m := runLen st.d st.pos
          let bad := line.addr ≠ st.d.addr st.pos / 64 * 64
          let s := if bad then s.coreFault c .dx 3 (s.pc x) (l * 2 ^ 8) else s
          let r := s.placeRun x st m line true bad
          let s := ((r.1.chargeCore c 3 1).laceDone c l line).streamAt c r.2 (st.pos + m)
          State.laceProcess n c l s

/-- A line of the head's stream sent along the lace: R131. -/
def State.laceHead (s : State) (c : Nat) (st : Stream) (line : DxLine) (last : Bool) : State :=
  if st.d.lace then s.laceSend c st.d.channel { line with sid := st.id, last := last } else s

/-! ### A line of a stream (R117) -/

/-- The flash pages whose reads are in flight: those the last lines of running streams came from (R146). DESIGN CHOICE: which reads overlap is
a matter of time, and the model takes every running stream's last page, over all cores. -/
def State.inflight (s : State) (p : Nat) : Bool := (List.range 32).any (fun k => (s.core k).streams.any (fun t => t.page == some p))

/-- Lines of a lace stream sent again by its head after a switch, one at a time, and not written to the head's SRAM again: R134. -/
def State.laceAgain (s : State) (c : Nat) (st : Stream) (out : LineOutcome) (hostLine : List Byte) : Bool × State :=
  let d := st.d
  let v := (s.core c).laceCh d.channel
  let p := runStart d (runsTo d st.pos st.pos 0 - v.again) 0
  let a := d.addr p / 64 * 64
  let send := fun (s : State) (bs : List Byte) (mark : Bool) =>
    (s.laceHead c st ⟨a, bs, mark, 0, false⟩ false).modLace c d.channel (fun v => { v with again := v.again - 1 })
  if a < 0 ∨ (2 : Int) ^ 48 ≤ a then (false, send s (List.replicate 64 0) false)
  else if !s.mayMove c a.toNat || s.lineWaits a.toNat then (false, s)
  else
    let r := s.outerRead (st.ctx c) .dx a.toNat 64 out hostLine s.inflight
    if r.1.kill then (true, r.2) else (false, send (r.2.addReg (Reg.DX_LINES_IN c) 1) r.1.bytes r.1.poison)

/-- The next run of an issued stream moved; true when a line of it needs a poisoned weight page (R149). Nothing moves while a rein of rate
zero holds it (R400), while a lace member other than the head has no line, or while the head holds no credit. DESIGN CHOICE: a stream with
ctl.lace on a channel that is not enabled waits as one without credit, and a write stream with ctl.lace writes only while its member might
send and sends nothing (R131 says nothing of either). -/
def State.streamStep (s : State) (c : Nat) (st : Stream) (out : LineOutcome) (hostLine : List Byte) : Bool × State :=
  let x := st.ctx c
  let d := st.d
  let a := d.addr st.pos
  let n := runLen d st.pos
  let la := (a / 64 * 64).toNat
  let fin := decide (d.total ≤ st.pos + n)
  let none_ : DxLine := ⟨a / 64 * 64, List.replicate 64 0, false, 0, false⟩
  if d.lace && (s.laceCtl c d.channel).2.1 != 0 then (false, s)
  else if d.lace && !s.laceMaySend c d.channel then (false, s)
  else if d.lace && ((s.core c).laceCh d.channel).again != 0 then s.laceAgain c st out hostLine
  else if a < 0 ∨ (2 : Int) ^ 48 ≤ a then
    -- outside every populated range: reads as zero, is not written (R114); along a lace it travels as zero (R131)
    let s := s.memViolation (a % 2 ^ 48).toNat
    let r := s.dxViolate x st
    if d.wr then (false, r.1.streamAt c r.2 (st.pos + n))
    else
      let r := r.1.placeRun x r.2 n none_
      (false, (r.1.laceHead c st none_ fin).streamAt c r.2 (st.pos + n))
  else if !s.needsLine x st n then
    let r := if d.wr then s.dxViolate x st else s.placeRun x st n none_
    (false, r.1.streamAt c r.2 (st.pos + n))
  else if !s.mayMove c la || (!d.wr && s.lineWaits la) then (false, s)
  else if d.wr then
    let e := d.esize
    let ns := (List.range n).map (st.pos + ·)
    let bad := ns.any (fun i => decide (d.addr i % (e : Int) ≠ 0) || s.placeBad x d i)
    let good := ns.filter (fun i => decide (d.addr i % (e : Int) = 0) && !s.placeBad x d i)
    let src := fun i => (s.place c d i).getD 0
    let s := State.each good (fun i s => s.sramCheck c (src i) e) s
    let pieces := joinRuns (good.map (fun i => ((d.addr i).toNat, s.opBytes x .dx (src i) e)))
    let poison := good.any (fun i => s.opPoison x (src i) e)
    let narrow := s.tier la == .dram && pieces.any (fun p => p.2.length != 64 && !s.readOnly p.1 p.2.length)
    let m := if narrow then s.mergeRead la out else (false, s)
    let r := m.2.outerPieces x .dx pieces (poison || m.1)
    let s := if r.1 then r.2 else (r.2.addReg (Reg.DX_LINES_OUT c) 1).chargeCore c 3 1
    let r2 := if bad || r.1 then s.dxViolate x st else (s, st)
    (false, r2.1.streamAt c r2.2 (st.pos + n))
  else
    if st.slot.isNone && (s.core c).freeSlots == 0 then (false, s) else
    let r := s.outerRead x .dx la 64 out hostLine s.inflight
    if r.1.kill then (true, r.2)
    else
      let s := r.2.addReg (Reg.DX_LINES_IN c) 1
      let r2 := if r.1.viol then s.dxViolate x st else (s, st)
      let r3 := r2.1.slotLine c r2.2
      let line : DxLine := ⟨la, r.1.bytes, r.1.poison, 0, false⟩
      let r4 := r3.1.placeRun x { r3.2 with page := r.1.page } n line
      (false, ((r4.1.chargeCore c 3 1).laceHead c st line fin).streamAt c r4.2 (st.pos + n))

/-! ### Issue (R199 to R201) -/

/-- The resolved descriptor of a stream instruction; `base` is that of a persistent stream's register when it has one (R126, R199). -/
def State.resolve (s : State) (gather : Bool) (o : DxOps) (x : Ctx) (r : RawDesc) (pbase : Nat) : Desc :=
  let cs := r.used o x
  let b := if r.flag 5 then pbase else r.base
  { base := if o.agbEn then (b + x.gen o.agb) % 2 ^ 48 else b
    sram := if o.agsEn then lineOp (x.gen o.ags) r.sram else r.sram
    dims := r.dims, wr := r.flag 3, transpose := r.flag 4, persistent := r.flag 5, pnum := r.pnum, signal := r.signal
    lace := r.flag 11, channel := r.channel, strides := (List.range 6).map (fun d => if r.dims ≤ d then 0 else r.strides.getD d 0)
    counts := cs, format := r.format, skew := r.skew
    gather := if gather then some (elems 4 (s.opBytes x .dx (lineOp (x.gen o.agi) 0) (4 * cs.getD 1 0))) else none
    array := o.array.toNat }

/-- The SRAM bytes a stream instruction reads at issue: its descriptor, and a gather's list. -/
def dxReads (gather : Bool) (o : DxOps) (x : Ctx) (r : RawDesc) : List (Nat × Nat) :=
  (o.desc.toNat * 64, 64) :: (if gather then [(lineOp (x.gen o.agi) 0, 4 * (r.used o x).getD 1 0)] else [])

/-- The SRAM bytes a stream instruction reads at issue, read and charged; bytes of them at or beyond 24 MiB set DX_FAULT.descriptor (R192, R193),
and a poisoned line sets poison_in. -/
def State.dxOperands (s : State) (x : Ctx) (ls : List (Nat × Nat)) : State :=
  let s := s.operands x .dx (ls.map (fun l => (l.1, min l.2 (sramSize - l.1)))) []
  let s := if ls.any (fun l => beyond l.1 l.2) then
      ((s.coreFault x.core .dx 1 (s.pc x)).addReg (Reg.DX_VIOL_COUNT x.core) 1).countViolation else s
  if ls.any (fun l => s.opPoison x l.1 l.2) then s.coreFault x.core .dx 2 (s.pc x) else s

/-- The descriptor read from SRAM: R107. -/
def State.rawDesc (s : State) (o : DxOps) (x : Ctx) : RawDesc := RawDesc.ofBytes (s.opBytes x .dx (o.desc.toNat * 64) 64)

/-- Lines that prefetch left, written at issue: R119, R121. -/
def State.consume (c : Nat) : List DxLine → State → State
  | [], s => s
  | line :: r, s =>
    match (s.core c).streams.getLast? with
    | some st =>
      let n := runLen st.d st.pos
      let q := s.placeRun (st.ctx c) st n line
      State.consume c r ((q.1.chargeCore c 3 1).streamAt c q.2 (st.pos + n))
    | none => s

/-- The prefetch made for the instruction that issued as `x`. -/
def Prefetch.is (f : Prefetch) (x : Ctx) : Bool := f.idx == x.idx && f.iter == x.iter

/-- A stream instruction started: descriptor, faults, the empty case, prefetched lines, and the stream issued (R107 to R121, R199, R200). What
was prefetched for it is used when the descriptors match, and is cancelled when they do not, or when nothing of the stream is to move (R121). -/
def State.dxStart (s : State) (gather : Bool) (h : Hdr) (o : DxOps) (x : Ctx) : State :=
  let c := x.core
  let r := s.rawDesc o x
  let fault := r.faulty gather h o x
  if fault then
    -- R113: nothing moves; the token is signalled as a valid stream of these counts would
    let s := (s.cancelPrefetch c (fun f => f.is x)).signal? c h.sig x.idx (granulesOf r.signal (r.used o x))
    ((s.coreFault c .dx 1 (s.pc x) (if r.flag 11 then r.channel * 2 ^ 8 else 0)).addReg (Reg.DX_VIOL_COUNT c) 1).countViolation
  else
    let ls := dxReads gather o x r
    let s := s.dxOperands x ls
    let d := s.resolve gather o x r (s.fld (Reg.DX_PSTREAM_BASE c r.pnum) 0 48)
    let s := s.cancelPrefetch c (fun f => f.is x && f.d != d)
    if d.total = 0 then s.signal? c h.sig x.idx (if d.signal = 0 then 1 else 0)
    else
      let k := s.core c
      let st : Stream := { id := k.nextStream, idx := x.idx, d := d, pos := 0, sig := h.sig, bnd := h.boundary, slot := none, viol := false }
      let wide := (d.skew = 2 ∨ d.skew = 3) ∧ s.width c d.array < otherCount d.skew d.transpose d.counts
      let rv := if wide then s.dxViolate x st else (s, st)
      let s := rv.1.modCore c (fun k => { k with nextStream := k.nextStream + 1, streams := k.streams ++ [rv.2] })
      let s := match k.prefetch.find? (fun f => f.is x) with
        | some f =>
          let s := s.modCore c (fun k => { k with prefetch := k.prefetch.erase f })
          let s := State.consume c f.lines s
          (s.slotDrain c f.slots).slotFree c f.slots
        | none => s
      if d.lace then State.laceProcess (((s.core c).laceCh d.channel).held.length) c d.channel s else s

end Sys2Proof.Machine
end

