-- ==== Sys2Proof/Machine/CoreView.lean ====
section
/-! DEFINITION. Machine/CoreView.lean: what a read of a register in a core's own window returns (R8 to R12). Some of these registers show state
that lives in the core itself; the rest are stored. -/

namespace Sys2Proof.Machine

open Sys2Proof

/-- SEQ_STATUS: R189. -/
def State.seqStatus (s : State) (c : Nat) : Word :=
  let k := s.core c
  let waits := match k.held with
    | some (.instr i) => (match i.op? with
      | some (.seq, _) => true
      | _ => false)
    | some (.noop _ _) => true
    | _ => false
  let st := match k.run with
    | .idle => 0
    | .running => if waits then 2 else 1
    | .switchedOut => 3
  let bnd := k.held == some .atBoundary || k.held == some (.atEnd true)
  let act := k.levels.foldl (fun m l => m + 2 ^ l.level) 0
  BitVec.ofNat 64 (st + (if bnd then 4 else 0) + k.index % 2 ^ 19 * 2 ^ 8 + act * 2 ^ 32)

/-- SEQ_TOKEN_i: four token counts. -/
def Core.tokenWord (k : Core) (i : Nat) : Word :=
  BitVec.ofNat 64 ((List.range 4).foldl (fun n j => n + sget 0 k.tok (4 * i + j) * 2 ^ (16 * j)) 0)

/-- DX_SLOTS: R135. -/
def Core.slotsWord (k : Core) : Word :=
  BitVec.ofNat 64 (k.freeSlots + k.filled * 2 ^ 8 + k.draining * 2 ^ 16 + 128 * 2 ^ 24)

/-- MX_ARRAY_WIDTH: R91, R104. -/
def State.widthWord (s : State) (c : Nat) : Word :=
  BitVec.ofNat 64 ((List.range 4).foldl (fun n a => n + s.width c a * 2 ^ (8 * a)) 0)

/-- MX_TABLE_VALID: a bit for each slot that holds a table. -/
def Core.tableWord (k : Core) : Word := BitVec.ofNat 64 (k.tables.foldl (fun n t => n + 2 ^ t.1) 0)

/-- The value of the register at offset `o` of core `c`'s window, whose stored part is `w`. -/
def State.coreWord (s : State) (c o : Nat) (w : Word) : Word :=
  let k := s.core c
  let off := coreWin c + o
  if off = Reg.SEQ_STATUS c then s.seqStatus c
  else if Reg.SEQ_TOKEN c 0 ≤ off ∧ off ≤ Reg.SEQ_TOKEN c 15 then k.tokenWord ((off - Reg.SEQ_TOKEN c 0) / 8)
  else if Reg.SEQ_COUNTER c 0 ≤ off ∧ off ≤ Reg.SEQ_COUNTER c 15 then (k.c ((off - Reg.SEQ_COUNTER c 0) / 8)).setWidth 64
  else if off = Reg.SEQ_COMPARE c then k.cmp.setWidth 64
  else if off = Reg.SEQ_CODE c then BitVec.ofNat 64 k.codeBase
  else if off = Reg.SEQ_CODE_LEN c then BitVec.ofNat 64 k.codeLen
  else if off = Reg.DX_SLOTS c then k.slotsWord
  else if off = Reg.MX_ARRAY_WIDTH c then s.widthWord c
  else if off = Reg.MX_TABLE_VALID c then k.tableWord
  else
    let byp := fun a => sget 0 s.fuse.bypass (4 * c + a)
    match (List.range 4).find? (fun a => off == Reg.MX_BYPASS_LO c a), (List.range 4).find? (fun a => off == Reg.MX_BYPASS_HI c a) with
    | some a, _ => (byp a).setWidth 64
    | none, some a => ((byp a) >>> 64).setWidth 64
    | none, none =>
      match (List.range 6).find? (fun g => off == Reg.SRAM_FLIP c g) with
      | some g => Machine.setBit w 9 (sget 0 k.flipPend g != 0)
      | none => w

/-- Whether the 8-byte word at offset `o` of a core's window is a register. -/
def corePresent (o : Nat) : Bool := (regInfo (0x1000000 + o)).isSome

/-- A read of core `c`'s register at window offset `o`: reserved and write-only bits read as zero (R9, R11); absent reads as zero. -/
def State.readCore (s : State) (c o : Nat) : Word :=
  match regInfo (coreWin c + o) with
  | some i => s.coreWord c o (s.reg (coreWin c + o) &&& ~~~ i.wo)
  | none => 0

end Sys2Proof.Machine
end

