-- ==== Sys2Proof/Machine/Engine.lean ====
section
/-! DEFINITION. Machine/Engine.lean: what every engine's start shares: the entry of a started instruction (R166), lines read and written by a unit
(R159, R193), instructions without effect (R192). -/

namespace Sys2Proof.Machine

open Sys2Proof

/-- A started instruction, until it retires: R166. -/
def State.begin (s : State) (h : Hdr) (x : Ctx) (cls : Cls) (wait : BusyWait := .done) (args : List (Nat × Nat) := []) : State :=
  s.modCore x.core (fun k => { k with busy := k.busy ++ [⟨cls, x.idx, h.sig, h.boundary, wait, args⟩], stalled := false })

/-- A started instruction that waited for `w` has its last effect. -/
def State.busyDone (s : State) (c : Nat) (w : BusyWait) : State :=
  s.modCore c (fun k => { k with busy := k.busy.map (fun b => if b.wait == w then { b with wait := .done } else b), stalled := false })

/-- An instruction that retires without effect for a reason in its operands: R192, R193. -/
def State.noEffect (s : State) (u : CoreUnit) (h : Hdr) (x : Ctx) (cls : Cls) : State :=
  (s.violate x.core u (s.pc x)).begin h x cls

/-- `n` lines a unit reads from SRAM offset `o`, with their marks. -/
def State.readLines (s : State) (x : Ctx) (u : CoreUnit) (o n : Nat) : MarkedLines :=
  (List.range n).map (fun i => (s.opBytes x u (o + 64 * i) 64, s.opPoison x (o + 64 * i) 64))

/-- Lines a unit writes from SRAM offset `o` on. -/
def State.writeLines (s : State) (x : Ctx) (u : CoreUnit) (o : Nat) (ls : MarkedLines) : State :=
  State.each ((List.range ls.length).zip ls) (fun p s => s.opWrite x u (o + 64 * p.1) p.2.1 p.2.2) s

/-- Zeros with the poison mark, in place of lines that will not come. -/
def deadLines (n : Nat) : MarkedLines := List.replicate n (List.replicate 64 0, true)

/-- Whether any line carries the mark. -/
def anyMark (ls : MarkedLines) : Bool := ls.any Prod.snd

/-- Two lines of four long forms added: R77. A sum with the poison or sat flag marks its line (R76). -/
def lfLineAdd (a b : List Byte × Bool) : List Byte × Bool :=
  let rs := (List.range 4).map (fun i =>
    (LF.ofBytes ((a.1.drop (16 * i)).take 16)).add (LF.ofBytes ((b.1.drop (16 * i)).take 16)))
  (rs.flatMap LF.toBytes, a.2 || b.2 || rs.any LF.marked)

/-- Lines of long forms added one by one. -/
def lfLinesAdd (a b : MarkedLines) : MarkedLines := (a.zip b).map (fun p => lfLineAdd p.1 p.2)

/-- The 16-byte candidate records of SX (R209): key, aux, id. -/
structure Cand where
  key : Nat
  aux : Nat
  id  : Nat
  deriving DecidableEq, Repr

def Cand.ofBytes (b : List Byte) : Cand :=
  { key := leNat (b.take 4), aux := leNat ((b.drop 4).take 4), id := leNat ((b.drop 8).take 8) }

def Cand.toBytes (r : Cand) : List Byte := leBytes 4 r.key ++ leBytes 4 r.aux ++ leBytes 8 r.id

/-- Whether a key is a NaN: only under the FP32 key type. -/
def keyNan (u32 : Bool) (k : Nat) : Bool := !u32 && decide (0x7F800000 < k % 2 ^ 31)

/-- Whether key `a` is below key `b`. -/
def keyLt (u32 : Bool) (a b : Nat) : Bool := if u32 then decide (a < b) else Fp.lt (dec32 a) (dec32 b)

/-- The total order of R209. -/
def earlier (desc u32 : Bool) (x y : Cand) : Bool :=
  let nx := keyNan u32 x.key
  let ny := keyNan u32 y.key
  if nx || ny then (if nx && ny then decide (x.id < y.id) else ny)
  else if keyLt u32 x.key y.key then !desc
  else if keyLt u32 y.key x.key then desc
  else decide (x.id < y.id)

/-- A record put in after every record it does not rank before: R209. -/
def rankIn (desc u32 : Bool) (r : Cand) : List Cand → List Cand
  | [] => [r]
  | q :: t => if earlier desc u32 r q then r :: q :: t else q :: rankIn desc u32 r t

/-- The first `k` of records ranked in order of arrival: equal records keep it. -/
def rankAll (desc u32 : Bool) (k : Nat) (rs : List Cand) : List Cand :=
  rs.foldl (fun l r => (rankIn desc u32 r l).take k) []

/-- A list of R209 as bytes: header line, then entries, whole lines. -/
def listBytes (rs : List Cand) : List Byte :=
  fitTo 64 0 (leBytes 4 rs.length) ++ fitTo ((rs.length + 3) / 4 * 64) 0 (rs.flatMap Cand.toBytes)

/-- The entries of a list of R209, `cap` at most. -/
def listOf (cap : Nat) (b : List Byte) : List Cand :=
  (List.range (min cap (leNat (b.take 4)))).map (fun i => Cand.ofBytes ((b.drop (64 + 16 * i)).take 16))

end Sys2Proof.Machine
end

