-- ==== Sys2Proof/Machine/Search.lean ====
section
/-! DEFINITION. Machine/Search.lean: an index in its name space and in DRAM (R279 to R282), its epochs and what is bound to them (R293), and the
walk of a query (R283, R286 to R289). -/

namespace Sys2Proof.Machine

open Sys2Proof

/-! ### Indexes -/

/-- An open index's own record. -/
def State.idx? (s : State) (q : Nat) : Option Idx := (s.search.idx.find? (fun e => e.1 == q)).map Prod.snd

def State.setIdx (s : State) (q : Nat) (v : Idx) : State := { s with search := { s.search with idx := sins s.search.idx q v } }

def State.modIdx (s : State) (q : Nat) (f : Idx → Idx) : State :=
  match s.idx? q with
  | some v => s.setIdx q (f v)
  | none => s

/-- The current epoch, and whether the one before it is held: R293. -/
def State.epoch (s : State) (q : Nat) : Nat := s.fld (Reg.SIDX_STATE q) 32 32
def State.prevHeld (s : State) (q : Nat) : Bool := s.bit (Reg.SIDX_STATE q) 4

/-- Whether index `q` is closing: R301. -/
def State.closing (s : State) (q : Nat) : Bool := s.bit (Reg.SIDX_STATE q) 7

/-- Whether epoch `e` of index `q` is held. -/
def State.holds (s : State) (q e : Nat) : Bool := e == s.epoch q || (s.prevHeld q && e + 1 == s.epoch q)

/-- One query bound to epoch `e`. -/
def State.bindEpoch (s : State) (q e : Nat) : State :=
  let lo := if e = s.epoch q then 0 else 32
  s.setFld (Reg.SIDX_BOUND q) lo 32 (s.fld (Reg.SIDX_BOUND q) lo 32 + 1)

/-- One query no longer bound; the previous epoch is released with its last (R295). -/
def State.unbindEpoch (s : State) (q e : Nat) : State :=
  if !s.indexOpen q then s
  else
    let lo := if e = s.epoch q then 0 else 32
    let n := s.fld (Reg.SIDX_BOUND q) lo 32 - 1
    let s := s.setFld (Reg.SIDX_BOUND q) lo 32 n
    if lo = 32 ∧ n = 0 then s.setBit (Reg.SIDX_STATE q) 4 false else s

/-- What an SXWALK entry of a core still binds, released: its (index, epoch) pairs. -/
def Busy.release (b : Busy) (s : State) : State :=
  if b.cls = .sx then State.each b.args (fun p s => s.unbindEpoch p.1 p.2) s else s

/-! ### The index's contents (R279 to R281) -/

/-- A byte of an index name space, staged writes included when `staged`. -/
def State.idxByte (s : State) (q : Nat) (staged : Bool) (a : Nat) : Byte :=
  match s.idx? q with
  | some v =>
    match (if staged then v.staged.find? (fun e => e.1 == a) else none) with
    | some e => e.2
    | none => match s.ns? v.nsid with
      | some ns => memByte ns.data a
      | none => 0
  | none => 0

/-- `n` bytes of it. -/
def State.idxBytes (s : State) (q : Nat) (staged : Bool) (a n : Nat) : List Byte := (List.range n).map (fun i => s.idxByte q staged (a + i))

/-- Whether `n` bytes from `a` meet a lost or poisoned block: R300. -/
def State.idxLost (s : State) (q a n : Nat) : Bool :=
  match s.idx? q with
  | some v => match s.ns? v.nsid with
    | some ns => ns.lost.any (fun b => decide (b * 4096 < a + n) && decide (a < (b + 1) * 4096))
    | none => false
  | none => false

/-- A header field of `n` bytes at offset `o` of block 0. -/
def State.idxHdr (s : State) (q o n : Nat) : Nat := leNat (s.idxBytes q false o n)

/-- The shape of index `q`: R303. -/
def State.slots (s : State) (q : Nat) : Nat := s.fld (Reg.SIDX_SHAPE q) 0 34
def State.dim (s : State) (q : Nat) : Nat := s.fld (Reg.SIDX_SHAPE q) 34 11
def State.degree (s : State) (q : Nat) : Nat := s.fld (Reg.SIDX_SHAPE q) 45 7

/-- Bytes of a vector entry: R280. -/
def State.vecBytes (s : State) (q : Nat) : Nat := up64 (64 + s.dim q * (if s.bit (Reg.SIDX_SHAPE q) 53 then 1 else 2))

/-- Where the records of slot `v` and its vector entry lie in the name space. -/
def State.recAt (s : State) (q v : Nat) : Nat := s.idxHdr q 40 8 * 4096 + 1024 * v
def State.vecAt (s : State) (q v : Nat) : Nat := s.idxHdr q 48 8 * 4096 + v * s.vecBytes q

/-- A version record: R281. -/
structure VRec where
  stamp : Nat
  deg   : Nat
  rel   : Bool
  edges : List Nat
  deriving DecidableEq, Repr

def VRec.ofBytes (b : List Byte) : VRec :=
  { stamp := leNat (b.take 4), deg := (b.getD 4 0).toNat, rel := (b.getD 5 0).getLsbD 0
    edges := (List.range 64).map (fun i => leNat ((b.drop (64 + 6 * i)).take 6)) }

/-- The two records of a slot. -/
def State.recs (s : State) (q : Nat) (staged : Bool) (v : Nat) : VRec × VRec :=
  let a := s.recAt q v
  (VRec.ofBytes (s.idxBytes q staged a 512), VRec.ofBytes (s.idxBytes q staged (a + 512) 512))

/-- Whether a record of the name space, at byte `a`, has been staged: R294. -/
def State.recStaged (s : State) (q a : Nat) : Bool := (s.idx? q).any (fun v => v.staged.any (fun e => e.1 == a))

/-- The record of slot `v` at epoch `e`: R281. A stamp of 0xFFFF_FFFF marks an empty record, but for one that a staging at epoch 0xFFFF_FFFE has
just stamped so. -/
def State.recOf (s : State) (q : Nat) (staged : Bool) (v e : Nat) : Option VRec :=
  let p := s.recs q staged v
  let a := s.recAt q v
  let ok := fun (r : VRec) (at_ : Nat) => decide (r.stamp ≤ e) && (r.stamp != 0xFFFFFFFF || (staged && s.recStaged q at_))
  let ok1 := ok p.1 a
  let ok2 := ok p.2 (a + 512)
  let best := if ok1 && ok2 then some (if p.1.stamp < p.2.stamp then p.2 else p.1)
    else if ok1 then some p.1 else if ok2 then some p.2 else none
  match best with
  | some r => if r.rel then none else some r
  | none => none

/-- The edges that a record is read as having: R289. -/
def State.edgesOf (s : State) (q : Nat) (r : VRec) : List Nat := r.edges.take (min r.deg (s.degree q))

/-- Whether bit `v` of the bitmap at DRAM address `a` is one; a poisoned line reads as zero. -/
def State.bitAt (s : State) (a v : Nat) : Bool := ((s.dramRead (a + v / 8) 1).headD 0).getLsbD (v % 8)

/-- Whether slot `v` is live at epoch `e`. -/
def State.liveAt (s : State) (q e v : Nat) : Bool := s.bitAt (s.indexAt q (1 + e % 2)) v

/-! ### The walk (R286, R287) -/

/-- A query block: R286. -/
structure QBlock where
  q      : Nat
  flags  : Nat
  nEntry : Nat
  filt   : Nat
  epoch  : Nat
  beam   : Nat
  cand   : Nat
  hops   : Nat
  table  : Nat
  out    : Nat
  vis    : Nat
  visLines : Nat
  filter : Nat
  vecs   : Nat
  k      : Nat
  rsv    : Bool
  entry  : List Nat
  deriving DecidableEq, Repr

def QBlock.ofBytes (b : List Byte) : QBlock :=
  let u := fun o n => leNat ((b.drop o).take n)
  { q := u 0 1, flags := u 1 1, nEntry := u 2 1, filt := u 3 1, epoch := u 4 4, beam := u 8 2, cand := u 10 2, hops := u 12 4
    table := u 16 4, out := u 20 4, vis := u 24 4, visLines := u 28 4, filter := u 32 8, vecs := u 40 4, k := u 44 2
    rsv := ((b.drop 46).take 2 ++ (b.drop 192).take 64).any (· != 0)
    entry := (List.range 16).map (fun i => u (64 + 8 * i) 8) }

/-- Whether the walk has a filter, and whether it is a stored one. -/
def QBlock.filtered (b : QBlock) : Bool := b.flags.testBit 0 || b.flags.testBit 1
def QBlock.stored (b : QBlock) : Bool := b.flags.testBit 1

/-- The parameters with the index's defaults in place of zeros. -/
def QBlock.beamW (b : QBlock) (s : State) : Nat := if b.beam = 0 then s.fld (Reg.SIDX_DEF b.q) 0 11 else b.beam
def QBlock.candN (b : QBlock) (s : State) : Nat := if b.cand = 0 then s.fld (Reg.SIDX_DEF b.q) 16 13 else b.cand
def QBlock.maxHops (b : QBlock) (s : State) : Nat := if b.hops = 0 then s.fld (Reg.SIDX_DEF b.q) 32 24 else b.hops

/-- What R286 puts under R192, for a core of partition `p`. -/
def QBlock.bad (b : QBlock) (s : State) (p : Nat) : Bool :=
  decide (15 < b.q) || decide (7 < b.flags) || decide (16 < b.nEntry) || (b.stored && decide (7 < b.filt)) ||
  decide (1024 < b.beam) || decide (4096 < b.cand) || decide (16777215 < b.hops) ||
  [b.table, b.out, b.vis, b.vecs].any (fun v => v % 64 != 0) ||
  decide (b.visLines < 16) || decide (262144 < b.visLines) || b.rsv || b.k == 0 || decide (b.candN s < b.k) ||
  !s.indexOpen b.q || s.closing b.q || s.fld (Reg.SIDX_STATE b.q) 1 3 != p ||
  (b.stored && decide (s.indexFilters b.q ≤ b.filt)) ||
  (b.filtered && !b.stored && !s.progMem p b.filter (bitmapBytes (s.slots b.q)))

/-- A walk as it goes: R287. -/
structure Walk where
  beam  : List Cand := []
  cands : List Cand := []
  seen  : List Nat := []
  done  : List Nat := []          -- expanded
  stop  : Option Nat := none
  hops  : Nat := 0
  scored : Nat := 0
  reads : Nat := 0                -- records read
  lines : Nat := 0                -- code and bitmap lines read
  errs  : Nat := 0                -- edges skipped (R289)
  poison : Bool := false
  lost  : Bool := false           -- poison that came from the index itself (R300)
  deriving DecidableEq, Repr

/-- A query as the walk sees it: its core, its block, its epoch; the search program's distance table, empty for SXWALK, whose table lies in SRAM. -/
structure Query_ where
  x : Ctx
  b : QBlock
  e : Nat
  tab : List Nat := []
  deriving DecidableEq, Repr

/-- Entry (j, c) of the distance table: R283. -/
def Query_.entry (w : Query_) (s : State) (i : Nat) : Nat :=
  if w.tab.isEmpty then leNat (s.opBytes w.x .sx (w.b.table + 4 * i) 4) else w.tab.getD i 0

/-- The distance of slot `v`: R283. -/
def Query_.pq (w : Query_) (s : State) (v : Nat) : Nat :=
  let code := s.dramRead (s.indexAt w.b.q 0 + 32 * v) 32
  ((List.range 32).zip code).foldl (fun acc p => fadd acc (w.entry s (256 * p.1 + p.2.toNat))) 0

/-- Whether a code line is poisoned, or a table line that its lookups read. -/
def Query_.pqDirty (w : Query_) (s : State) (v : Nat) : Bool × Bool :=
  let a := s.indexAt w.b.q 0 + 32 * v
  let code := s.dramRead a 32
  (s.poisoned (a / 64), w.tab.isEmpty && ((List.range 32).zip code).any (fun p => s.opPoison w.x (w.b.table + 4 * (256 * p.1 + p.2.toNat)) 4))

/-- The bitmaps that `allowed` reads. -/
def Query_.maps (w : Query_) (s : State) : List Nat :=
  s.indexAt w.b.q (1 + w.e % 2) ::
    (if w.b.filtered then [if w.b.stored then s.indexAt w.b.q (3 + w.b.filt) else w.b.filter] else [])

/-- see(v): R287. -/
def Query_.see (w : Query_) (s : State) (k : Walk) (v : Nat) : Walk :=
  if k.seen.contains v then k
  else if 7 * w.b.visLines ≤ k.seen.length then { k with stop := some 2 }
  else
    let r : Cand := ⟨w.pq s v, v % 2 ^ 32, v⟩
    let ms := w.maps s
    let ok := ms.all (fun a => s.bitAt a v)
    let d := w.pqDirty s v
    let bits := ms.any (fun a => s.poisoned ((a + v / 8) / 64))
    { k with
      seen := v :: k.seen
      beam := (rankIn false false r k.beam).take (w.b.beamW s)
      cands := if ok then (rankIn false false r k.cands).take (w.b.candN s) else k.cands
      scored := k.scored + 1, lines := k.lines + 1 + ms.length
      poison := k.poison || d.1 || d.2 || bits, lost := k.lost || d.1 || bits }

/-- An edge met: skipped when it names no record (R289). -/
def Query_.edge (w : Query_) (s : State) (k : Walk) (v : Nat) : Walk :=
  if s.slots w.b.q ≤ v ∨ (s.recOf w.b.q false v w.e).isNone then { k with errs := k.errs + 1 } else w.see s k v

/-- The entry points: R286. -/
def Query_.entries (w : Query_) (s : State) : List Nat :=
  if w.b.nEntry = 0 then (List.range (s.idxHdr w.b.q 73 1)).map (fun i => s.idxHdr w.b.q (128 + 8 * i) 8)
  else w.b.entry.take w.b.nEntry

/-- Nodes expanded, best first, `max_hops` at most: R287. -/
def Query_.expand (w : Query_) (s : State) : Nat → Walk → Walk
  | 0, k =>
    if k.stop.isSome then k
    else { k with stop := some (if (k.beam.any (fun c => !k.done.contains c.id)) then 1 else 0) }
  | f + 1, k =>
    if k.stop.isSome then k
    else
      match k.beam.find? (fun c => !k.done.contains c.id) with
      | none => { k with stop := some 0 }
      | some c =>
        let bad := s.idxLost w.b.q (s.recAt w.b.q c.id) 1024
        let k := { k with done := c.id :: k.done, hops := k.hops + 1, reads := k.reads + 1, poison := k.poison || bad, lost := k.lost || bad }
        let es := match s.recOf w.b.q false c.id w.e with
          | some r => s.edgesOf w.b.q r
          | none => []
        w.expand s f (es.foldl (w.edge s) k)

/-- A whole walk; status 5 when no entry point has a record. -/
def Query_.walk (w : Query_) (s : State) : Walk :=
  let k := (w.entries s).foldl (fun (k : Walk) v =>
    let bad := s.idxLost w.b.q (s.recAt w.b.q v) 1024
    let k := { k with reads := k.reads + 1, poison := k.poison || bad, lost := k.lost || bad }
    if v < s.slots w.b.q ∧ (s.recOf w.b.q false v w.e).isSome then w.see s k v else k) {}
  if k.seen.isEmpty then { k with stop := some 5 } else w.expand s (w.b.maxHops s) k

/-- What a walk moves in the SX registers of core `c`, whose instruction lies at `pc`: R289, R302. -/
def State.countWalk (s : State) (c pc q : Nat) (k : Walk) : State :=
  let s := (s.addReg (Reg.SX_WALKS c) 1).addReg (Reg.SX_HOPS c) k.hops
  let s := (s.addReg (Reg.SX_CANDS c) k.scored).addReg (Reg.SX_REC_READS c) k.reads
  if k.errs = 0 then s else (s.addReg (Reg.SX_RECORD_ERR c) k.errs).coreFault c .sx 3 pc (q * 2 ^ 8)

/-- The output of a Search: header and records (R358). -/
def searchOut (e status : Nat) (rs : List Cand) : List Byte :=
  fitTo 64 0 (leBytes 4 rs.length ++ leBytes 4 e ++ leBytes 1 status) ++ rs.flatMap Cand.toBytes

/-! ### Sharded searches (R298, R299) -/

/-- This module's part in the search whose CLEAR is instance `i` of group `g`. -/
def State.ask? (s : State) (g i : Nat) : Option Ask := s.search.asks.find? (fun a => a.grp == g && a.inst == i)

def State.modAsk (s : State) (g i : Nat) (f : Ask → Ask) : State :=
  { s with search := { s.search with asks := s.search.asks.map (fun a => if a.grp == g && a.inst == i then f a else a) } }

/-- The coordinator's command completed with its energy (R360); this module's part in the CLEAR goes on. -/
def State.tellAsk (s : State) (a : Ask) (sct sc : Nat) (out : List Byte) : State :=
  match a.n with
  | none => s
  | some n => (s.modAsk a.grp a.inst (fun b => { b with n := none })).complete n sct sc (a.spent % 2 ^ 32) (a.spent / 2 ^ 32) out

/-- The binding of a part released: R299. -/
def State.unbindAsk (s : State) (a : Ask) : State :=
  if a.bound then (s.modAsk a.grp a.inst (fun b => { b with bound := false })).unbindEpoch a.q a.e else s

/-- This module's part over: its binding is released (R299). -/
def State.endAsk (s : State) (a : Ask) : State :=
  let s := s.unbindAsk a
  { s with search := { s.search with asks := s.search.asks.filter (fun b => !(b.grp == a.grp && b.inst == a.inst)) } }

/-- A running Search aborted: its binding is released at once, its part in the CLEAR goes on (R363). -/
def State.abortAsk (s : State) (a : Ask) : State := (s.unbindAsk a).tellAsk a 0 7 []

/-- Energy charged to a search's command: R360. -/
def State.billAsk (s : State) (n : Option NHdr) (uj : Nat) : State :=
  { s with search := { s.search with asks := s.search.asks.map (fun a => if n.isSome && a.n == n then { a with spent := a.spent + uj } else a) } }

/-- A member refuses the query whose transaction is `tag`: it does not hold the epoch (R298). -/
def State.refuseAsk (s : State) (tag : Nat) : State :=
  match s.search.asks.find? (fun a => setHas a.tags tag) with
  | some a => s.tellAsk a 7 0xCC (searchOut a.e 3 [])
  | none => s

end Sys2Proof.Machine
end

