-- ==== Sys2Proof/Machine/Flit.lean ====
section
/-! DEFINITION. Machine/Flit.lean: a flit's 256 bytes (R374) and its crc (R377). -/

namespace Sys2Proof.Machine

open Sys2Proof

/-- One bit of CRC-32C, reflected: R377. -/
def crcBit (c : Nat) : Nat := if c % 2 = 1 then c / 2 ^^^ 0x82F63B78 else c / 2

/-- One byte taken into a CRC-32C. -/
def crcByte (c : Nat) (b : Byte) : Nat := crcBit (crcBit (crcBit (crcBit (crcBit (crcBit (crcBit (crcBit (c ^^^ b.toNat))))))))

/-- CRC-32C with initial value and final XOR 0xFFFF_FFFF, input and output reflected: R377. -/
def crc32c (bs : List Byte) : BitVec 32 := BitVec.ofNat 32 (bs.foldl crcByte 0xFFFFFFFF ^^^ 0xFFFFFFFF)

end Sys2Proof.Machine

namespace Sys2Proof

open Sys2Proof.Machine

/-- The ctl byte: R374. -/
def Flit.ctl (f : Flit) : Nat :=
  f.vc.toNat + 4 * f.poison.toNat + 8 * f.last.toNat + 16 * f.error.toNat + 32 * f.rsvCtl.toNat

/-- A flit's header, bytes 0 to 47: R374. -/
def Flit.header (f : Flit) : List Byte :=
  [BitVec.ofNat 8 f.typ.toNat, BitVec.ofNat 8 f.ctl, BitVec.ofNat 8 f.payload.length, BitVec.ofNat 8 f.part.toNat] ++
  leBytes 2 f.dst.toNat ++ leBytes 2 f.src.toNat ++ leBytes 4 f.tag.toNat ++ leBytes 4 f.total.toNat ++ leBytes 8 f.addr.toNat ++
  [BitVec.ofNat 8 f.group.toNat, BitVec.ofNat 8 f.op.toNat] ++ leBytes 6 (f.rsvHdr.toNat % 2 ^ 48) ++ leBytes 8 f.inst.toNat ++
  leBytes 4 f.offset.toNat ++ leBytes 4 (f.rsvHdr.toNat / 2 ^ 48)

/-- The link trailer but for the crc, bytes 240 to 251: R374. -/
def Flit.trailer (f : Flit) : List Byte :=
  leBytes 2 f.lseq.toNat ++ leBytes 2 (f.ack.toNat + 2 ^ 15 * f.nak.toNat) ++
  (List.range 4).map (fun v => BitVec.ofNat 8 (f.credit.getD v 0)) ++ leBytes 4 f.rsvTrl.toNat

/-- Bytes 0 to 251 of a flit: R374. -/
def Flit.bytes (f : Flit) : List Byte := f.header ++ fitTo 192 0 (f.payload.flatMap (fitTo 64 0)) ++ f.trailer

/-- The crc that a flit's bytes call for: R377. -/
def Flit.check (f : Flit) : BitVec 32 := crc32c f.bytes

/-- Whether a flit's crc is good. -/
def Flit.crcOk (f : Flit) : Bool := f.crc == f.check

/-- Whether its crc is inverted, by a switch that had begun to forward it before its own check failed: R379. -/
def Flit.killed (f : Flit) : Bool := f.crc == ~~~ f.check

/-- The flit with its crc computed, as each link does. -/
def Flit.seal (f : Flit) : Flit := { f with crc := f.check }

/-- The flit with its crc inverted: R379. -/
def Flit.kill (f : Flit) : Flit := { f with crc := ~~~ f.check }

end Sys2Proof
end

