-- ==== Sys2Proof/Machine/Net.lean ====
section
/-! DEFINITION. Machine/Net.lean: the girth switch: the set and its routes (R381, R382), sending a flit on a link with its credits and replay
buffer (R378, R379, R383), links and ports going down (R380), and what the module knows of its set (R387). -/

namespace Sys2Proof.Machine

open Sys2Proof

/-! ### The set -/

/-- The set's sizes along X, Y and Z. -/
def State.dims (s : State) : Nat × Nat × Nat :=
  (s.fld Reg.GIRTH_SET 1 7, s.fld Reg.GIRTH_SET 8 7, s.fld Reg.GIRTH_SET 15 7)

/-- Whether the module is a set member. -/
def State.inSet (s : State) : Bool := s.bit Reg.GIRTH_SET 0

/-- This module's coordinates. -/
def State.myXyz (s : State) : Nat × Nat × Nat :=
  (s.fld Reg.GIRTH_SET 22 6, s.fld Reg.GIRTH_SET 28 6, s.fld Reg.GIRTH_SET 34 6)

/-- A member's number: R381. -/
def modNo (d p : Nat × Nat × Nat) : Nat := p.1 + d.1 * (p.2.1 + d.2.1 * p.2.2)

/-- A member's coordinates. -/
def xyzOf (d : Nat × Nat × Nat) (m : Nat) : Nat × Nat × Nat := (m % d.1, m / d.1 % d.2.1, m / d.1 / d.2.1)

/-- This module's number. -/
def State.me (s : State) : Nat := modNo s.dims s.myXyz

/-- The number of members. -/
def State.setSize (s : State) : Nat := s.dims.1 * s.dims.2.1 * s.dims.2.2

/-- The size along dimension `i` (0 X, 1 Y, 2 Z). -/
def dimOf (d : Nat × Nat × Nat) (i : Nat) : Nat := if i = 0 then d.1 else if i = 1 then d.2.1 else d.2.2

/-- The ports a set of these sizes requires on every member: R381, R387. -/
def State.requiredPorts (s : State) : List Nat := (List.range 6).filter (fun g => decide (1 < dimOf s.dims (g / 2)))

/-- The step from coordinate `a` to `b` round a ring of `n`: none when there, else the + direction when not longer (R382). -/
def ringStep (n a b : Nat) : Option Bool :=
  if a = b then none
  else
    let up := (b + n - a) % n
    some (decide (up ≤ n - up))

/-- The first hop from member `a` to member `b`: the port, and whether it crosses the dateline (R382). -/
def hop (d : Nat × Nat × Nat) (a b : Nat) : Option (Nat × Bool) :=
  let p := xyzOf d a
  let q := xyzOf d b
  (List.range 3).findSome? (fun i =>
    match ringStep (dimOf d i) (dimOf p i) (dimOf q i) with
    | some up => some (2 * i + (if up then 0 else 1), if up then dimOf p i + 1 == dimOf d i else dimOf p i == 0)
    | none => none)

/-- The neighbour of member `a` through port `g`. -/
def neighbour (d : Nat × Nat × Nat) (a g : Nat) : Nat :=
  let p := xyzOf d a
  let n := dimOf d (g / 2)
  let mv := fun v => if g % 2 = 0 then (v + 1) % n else (v + n - 1) % n
  modNo d (if g / 2 = 0 then (mv p.1, p.2.1, p.2.2) else if g / 2 = 1 then (p.1, mv p.2.1, p.2.2) else (p.1, p.2.1, mv p.2.2))

/-- The hops of the route from `a` to `b`, as (member, port) pairs; `fuel` bounds its length. -/
def pathOf (d : Nat × Nat × Nat) : Nat → Nat → Nat → List (Nat × Nat)
  | 0, _, _ => []
  | f + 1, a, b =>
    match hop d a b with
    | some (g, _) => (a, g) :: pathOf d f (neighbour d a g) b
    | none => []

/-! ### Ports and links -/

/-- A link's key. -/
def linkKey (g l : Nat) : Nat := 6 * g + l

def State.link (s : State) (g l : Nat) : Link := sget {} s.girth.links (linkKey g l)

def State.setLink (s : State) (g l : Nat) (v : Link) : State :=
  { s with girth := { s.girth with links := sput {} s.girth.links (linkKey g l) v } }

/-- Port `g`'s state: R386, R395. -/
def State.portState (s : State) (g : Nat) : Nat := s.fld (Reg.GIRTH_PORT_STATUS g) 0 3

/-- A link's state: 0 down, 1 training, 2 up, 3 declared down. -/
def State.linkState (s : State) (g l : Nat) : Nat := s.fld (Reg.GIRTH_LINK_STATUS g l) 0 2

/-- A link's state set, and with it the port's links_up. -/
def State.setLinkState (s : State) (g l v : Nat) : State :=
  (s.setFld (Reg.GIRTH_LINK_STATUS g l) 0 2 v).setBit (Reg.GIRTH_PORT_STATUS g) (8 + l) (v == 2)

/-- The ports known down: this module's own required ports that are not up, and those that notices named (R387). -/
def State.downPorts (s : State) : List (Nat × Nat) :=
  let own := ((s.requiredPorts).filter (fun g => s.portState g != 3)).map (fun g => (s.me, g))
  own ++ s.girth.downKnown.filter (fun e => e.1 != s.me && s.requiredPorts.contains e.2)

/-- GIRTH_SET_STATUS.complete: R387. -/
def State.setComplete (s : State) : Bool := s.inSet && s.downPorts.isEmpty

/-- Whether member `m` breaks its set while it is reachable: isolated from a neighbour (R388). -/
def State.breaksSet (s : State) (m : Nat) : Bool :=
  (m == s.me && s.requiredPorts.any (fun g => s.portState g == 4)) || s.girth.isolated.any (fun e => e.1 == m)

/-- Whether the route to member `m` stands, as far as this module knows: R388. -/
def State.routeOpen (s : State) (m : Nat) : Bool :=
  s.inSet && decide (m < s.setSize) && (pathOf s.dims 200 s.me m).all (fun h => !s.downPorts.contains h)

/-- Whether a group of members `ms` stands whole, as far as this module knows: R388. -/
def State.groupStands (s : State) (ms : List Nat) : Bool := ms.all (fun q => (q == s.me || s.routeOpen q) && !s.breaksSet q)

/-! ### Sending (R378, R379, R383) -/

/-- The virtual channel of a flit leaving through a hop: class 0 request or 2 response, one more once its dateline is crossed (R376, R382).
`same` holds when it came in along the same dimension. -/
def hopVc (f : Flit) (same cross : Bool) : BitVec 2 :=
  let cls : BitVec 2 := if f.typ = 3 ∨ f.typ = 4 ∨ f.typ = 7 then 2 else 0
  if cross || (same && f.vc.getLsbD 0) then cls + 1 else cls

/-- Whether a flit may leave now: an injected one needs its partition's girth rein open (R383, R400); CTRL needs none (R401). -/
def State.mayInject (s : State) (g : Nat) (f : Flit) : Bool :=
  f.typ == 7 || f.src.toNat != s.me || s.reinOpen f.part.toNat (.girth g)

/-- The link of port `g` for a flit's channel: among those up with a credit and room in the replay buffer, the one with most credits; ties
go to the lower number (R383). -/
def State.pickLink (s : State) (g : Nat) (f : Flit) : Option Nat :=
  let vc := f.vc.toNat
  let cr := fun l => (s.link g l).credits.getD vc 0
  ((List.range 6).filter (fun l => s.linkState g l == 2 && decide (0 < cr l) && decide ((s.link g l).replay.length < 32))).foldl
    (fun best l => match best with
      | none => some l
      | some b => if cr b < cr l then some l else some b) none

/-- One sending of a flit charged: to the partition that injected it, for the job that sent it, else to housekeeping (R49, R52, R383). -/
def State.chargeFlit (e : OutFlit) (s : State) : State :=
  if e.f.src.toNat == s.me && e.f.typ != 7 then
    let p := e.f.part.toNat
    let t := s.charge p e.job 8 1
    t.billAsk e.job ((t.reg (Reg.PURSE_SPENT p)).toNat - (s.reg (Reg.PURSE_SPENT p)).toNat)
  else s.chargeHouse 8 1

/-- Element `i` of a list of counts changed. -/
def addAt (l : List Nat) (i : Nat) (f : Nat → Nat) : List Nat := l.set i (f (l.getD i 0))

/-- An IDLE flit sent on a link: it carries the trailer alone, spends no credit and takes no sequence number (R375, R378). DESIGN CHOICE: it is
charged to nobody; R52's coefficient 8 does not say whether an IDLE counts as a flit sent. -/
def State.sendIdle (s : State) (g l : Nat) (nak : Bool) : State :=
  let k := s.link g l
  let f := Flit.seal { typ := 0, last := true, ack := k.rxSeq - 1, nak := nak, credit := k.owed }
  let s := s.setLink g l { k with owed := [0, 0, 0, 0], nakSent := k.nakSent || nak }
  { s with girth := { s.girth with sent := s.girth.sent ++ [(linkKey g l, f)] } }

/-- Credits owed on a link sent back, where it is up: R378. -/
def State.payBack (s : State) (g l : Nat) : State :=
  if (s.link g l).owed.any (fun n => decide (0 < n)) && s.linkState g l == 2 then s.sendIdle g l false else s

/-- The input buffer of a forwarded flit is free, and its credit goes back: R378. -/
def State.freeBuf (e : OutFlit) (s : State) : State :=
  match e.via with
  | some (k, vc) =>
    let s := s.setLink (k / 6) (k % 6) { s.link (k / 6) (k % 6) with owed := addAt (s.link (k / 6) (k % 6)).owed vc (· + 1) }
    s.payBack (k / 6) (k % 6)
  | none => s

/-- The input buffers of a link that has gone down: its credits have all been counted as returned (R380). -/
def State.dropVia (s : State) (k : Nat) : State :=
  { s with girth := { s.girth with outq := s.girth.outq.map (fun e => (e.1, e.2.map (fun x =>
      if x.via.any (fun v => v.1 == k) then { x with via := none } else x))) } }

/-- A flit put on a link: trailer set anew, its crc computed, a credit spent, kept for replay, charged (R374, R377, R378, R379, R383). -/
def State.putOnLink (s : State) (g l : Nat) (e : OutFlit) : State :=
  let k := s.link g l
  let f := Flit.seal { e.f with lseq := k.txSeq, ack := k.rxSeq - 1, nak := false, credit := k.owed, rsvTrl := 0 }
  let k := { k with txSeq := k.txSeq + 1, owed := [0, 0, 0, 0], replay := k.replay ++ [{ e with f := f, via := none }]
                    credits := addAt k.credits f.vc.toNat (· - 1) }
  let s := s.setLink g l k
  let s := { s with girth := { s.girth with sent := s.girth.sent ++ [(linkKey g l, f)] } }
  let s := (s.setFld (Reg.GIRTH_CREDIT g l) 0 32 (s.fld (Reg.GIRTH_CREDIT g l) 0 32 + 1)).tick 1
  let s := s.addReg (Reg.GIRTH_LINK_FLITS g l) 1
  let s := s.addReg (if f.src.toNat == s.me then Reg.GIRTH_INJECTED else Reg.GIRTH_FORWARDED) 1
  State.freeBuf e (s.chargeFlit e)

/-- A flit put in the buffer of output port `g`, in hub SRAM: an armed injection lands on its first word, at a place that is a free value (R154,
R157). -/
def State.bufferFlit (s : State) (g : Nat) (e : OutFlit) : State :=
  let put := fun (s : State) (e : OutFlit) => { s with girth := { s.girth with outq := sput [] s.girth.outq g (sget [] s.girth.outq g ++ [e]) } }
  if s.hub.pend = 0 then put s e
  else
    let o := (Config.girthBuffer s.free).toNat / 64 * 64
    put (s.fresh.hubWrite o 256) { e with at_ := some o }

/-- A buffered flit read out: an injected error in its buffer is found, and an uncorrectable one poisons it (R157, R159). -/
def State.unbuffer (s : State) (e : OutFlit) : OutFlit × State :=
  match e.at_ with
  | none => (e, s)
  | some o =>
    let s := s.hubRead o 256
    ({ e with f := { e.f with poison := e.f.poison || s.hubPoison o 256 }, at_ := none }, s)

/-- The flits waiting at port `g` that can leave, sent in order: R383. -/
def State.pump : Nat → Nat → State → State
  | 0, _, s => s
  | n + 1, g, s =>
    let q := sget [] s.girth.outq g
    match q.find? (fun e => s.mayInject g e.f && (s.pickLink g e.f).isSome) with
    | some e =>
      match s.pickLink g e.f with
      | some l =>
        let s := { s with girth := { s.girth with outq := sput [] s.girth.outq g (q.erase e) } }
        let r := s.unbuffer e
        State.pump n g (r.2.putOnLink g l r.1)
      | none => s
    | none => s

/-- Every flit waiting at port `g` considered. -/
def State.pumpPort (s : State) (g : Nat) : State := State.pump ((sget [] s.girth.outq g).length) g s

/-- A flit queued at the output port of its next hop toward its destination, then sent when it can be. `inPort` is the port it came in by, `job`
the job that sends it, `via` the input buffer it holds until then. -/
def State.sendFlit (s : State) (f : Flit) (inPort : Option Nat := none) (job : Option NHdr := none) (via : Option (Nat × Nat) := none) : State :=
  match hop s.dims s.me f.dst.toNat with
  | none => State.freeBuf { f := f, via := via } s
  | some (g, cross) =>
    let same := match inPort with
      | some i => i / 2 == g / 2
      | none => false
    let f := { f with vc := hopVc f same cross }
    (s.bufferFlit g { f := f, job := job, via := via }).pumpPort g

/-- A CTRL flit sent through port `g` to the neighbour. -/
def State.sendCtrl (s : State) (g : Nat) (tag addr : Nat) : State :=
  let f : Flit := { typ := 7, vc := 2, last := true, dst := BitVec.ofNat 11 (neighbour s.dims s.me g), src := BitVec.ofNat 11 s.me
                    tag := BitVec.ofNat 32 tag, addr := BitVec.ofNat 48 addr }
  (s.bufferFlit g { f := f }).pumpPort g

/-! ### Receiving the trailer (R378, R379) -/

/-- How many of the oldest replay flits an ack of sequence `a` covers: cumulative, modulo 4,096. -/
def ackedCount (k : Link) (a : BitVec 12) : Nat :=
  match k.replay with
  | [] => 0
  | e :: _ =>
    let d := (a - e.f.lseq).toNat
    if d < k.replay.length then d + 1 else 0

/-- Acknowledged flits leave the replay buffer; progress ends a run of failed replays. -/
def State.takeAck (s : State) (g l : Nat) (a : BitVec 12) : State :=
  let k := s.link g l
  let n := ackedCount k a
  if n = 0 then s else s.setLink g l { k with replay := k.replay.drop n, fails := 0 }

/-- Credits returned by the other end: never more than the 16 buffers of a channel. -/
def State.takeCredits (s : State) (g l : Nat) (cs : List Nat) : State :=
  let k := s.link g l
  let back := (List.range 4).map (fun v => min (cs.getD v 0) (16 - k.credits.getD v 0))
  let n := back.foldl (· + ·) 0
  if n = 0 then s
  else
    let s := s.setLink g l { k with credits := (List.range 4).map (fun v => k.credits.getD v 0 + back.getD v 0) }
    (s.setFld (Reg.GIRTH_CREDIT g l) 32 32 (s.fld (Reg.GIRTH_CREDIT g l) 32 32 + n)).tick 1 n

/-- The flits after the last accepted one sent again, in order: R379. -/
def State.replayLink (s : State) (g l : Nat) : State :=
  let k := s.link g l
  let s := s.addReg (Reg.GIRTH_LINK_REPLAY g l) 1
  let s := s.addReg (Reg.GIRTH_LINK_FLITS g l) k.replay.length
  let s := { s with girth := { s.girth with sent := s.girth.sent ++ k.replay.map (fun e => (linkKey g l, e.f)) } }
  let s := State.each k.replay State.chargeFlit s
  s.setLink g l { k with fails := k.fails + 1 }

/-- A link set to retrain: R380. -/
def State.retrain (s : State) (g l : Nat) : State :=
  if s.linkState g l = 2 then
    ((s.setLinkState g l 1).addReg (Reg.GIRTH_LINK_RETRAIN g l) 1).setLink g l { s.link g l with fails := 0 }
  else s

end Sys2Proof.Machine
end

