-- ==== Sys2Proof/Machine/Girth.lean ====
section
/-! DEFINITION. Machine/Girth.lean: GX transactions and collectives (R213, R214, R384, R388, R390 to R392), and the reducer's instances with
their late window (R242 to R245). -/

namespace Sys2Proof.Machine

open Sys2Proof

/-! ### Transactions -/

/-- An outstanding transaction by its tag. -/
def State.txn? (s : State) (tag : Nat) : Option Txn := s.girth.txns.find? (fun t => t.tag == tag)

/-- A transaction gone. -/
def State.dropTxn (s : State) (tag : Nat) : State :=
  { s with girth := { s.girth with txns := s.girth.txns.filter (fun t => t.tag != tag) } }

/-- The context GX writes with: its core. -/
def gxCtx (c : Nat) : Ctx := { core := c, idx := 0, gens := [], ctrs := [] }

/-- GX records a fault bit on core `c`, with the peer concerned and the instruction at index `i`; none has the address 0 (R396). -/
def State.gxFault (s : State) (c b peer : Nat) (i : Option Nat) : State :=
  s.coreFault c .gx b (match i with
    | some k => s.pcOf c k
    | none => 0) (peer * 2 ^ 8)

/-- The index of the started instruction of core `c` that waits for `w`. -/
def State.idxOf (s : State) (c : Nat) (w : BusyWait) : Option Nat := ((s.core c).busy.find? (fun b => b.wait == w)).map Busy.idx

/-- The index of the GXCOLL whose collective this is; a search's has none. -/
def State.collIdx (s : State) (v : Coll) : Option Nat := s.idxOf v.core (.coll v.grp v.inst)

/-- The job on core `c` will fail for an incomplete set, unless it carries poison already: R361, R434. -/
def State.missSet (s : State) (c : Nat) : State :=
  match (s.core c).job with
  | some n => s.modJob n (fun j => { j with incomplete := j.incomplete || !j.poison })
  | none => s

/-- A transaction ends: with its data, or with error, when the lines not yet written become zero and poisoned (R214). -/
def State.endTxn (s : State) (t : Txn) (err : Bool) : State :=
  let s := s.dropTxn t.tag
  let s := if err then
      let s := if t.get then
          State.each ((List.range t.lines).filter (fun i => !setHas t.got i))
            (fun i s => s.opWrite (gxCtx t.core) .gx (t.loc + 64 * i) (List.replicate 64 0) true) s
        else s
      s.gxFault t.core 2 t.peer (s.idxOf t.core (.gx t.tag))
    else s
  s.busyDone t.core (.gx t.tag)

/-- Runs of at most three consecutive lines with one mark: what one flit carries. -/
def flitRuns : Nat → Nat → MarkedLines → List (Nat × MarkedLines)
  | 0, _, _ => []
  | f + 1, i, ls =>
    match ls with
    | [] => []
    | l :: _ =>
      let run := (ls.take 3).takeWhile (fun x => x.2 == l.2)
      (i, run) :: flitRuns f (i + run.length) (ls.drop run.length)

/-- The flits that carry lines: each with its first line's number, `last` on the final one. -/
def flitsOf (f : Flit) (ls : MarkedLines) (place : Nat → Flit → Flit) : List Flit :=
  let rs := flitRuns (ls.length + 1) 0 ls
  (List.range rs.length).zip rs |>.map (fun p =>
    place p.2.1 { f with poison := anyMark p.2.2, payload := p.2.2.map Prod.fst, last := p.1 + 1 == rs.length })

/-- Whether a remote access of partition `p` may touch a line at `a`: its cores' SRAM windows and its program memory (R384). -/
def State.remoteOk (s : State) (p a : Nat) : Bool :=
  match s.tier a with
  | .sram c o => s.partOf c == some p && !s.touchesWindow c o 64
  | .dram => s.progMem p a 64
  | .regs | .weight | .hostWin | .absent => false

/-- A peer's access that reaches what it may not: R384. In a tally window the harness block records it (R227); elsewhere the memory block does,
with the SRAM block of the core whose window it was (R137, R161). -/
def State.remoteViolation (s : State) (p a : Nat) : State :=
  let s := (s.raise .girth 5).addReg Reg.GIRTH_VIOL_COUNT 1
  let s := match s.tier a with
    | .sram c o => if s.partOf c == some p && s.touchesWindow c o 64 then s.harnViolate c else s.sramWinViolation a
    | .dram => if s.inOverlay a 64 && s.progMem p a 64 then (s.memViolation a).overlayViolate else s.memViolation a
    | .regs | .weight | .hostWin | .absent => s.sramWinViolation a
  s.countViolation

/-- A line written here for partition `p`, charged to it (R52), for job `n` when this module's own; a forbidden one is dropped (R384, R214). -/
def State.remoteWrite (s : State) (p : Nat) (n : Option NHdr) (a : Nat) (l : List Byte × Bool) : State :=
  if s.remoteOk p a then
    match s.tier a with
    | .sram c o => (s.sramWrite c o l.1 l.2).charge p n 3 1
    | _ => if s.readOnly a 64 then s.remoteViolation p a else (s.dramWrite a l.1 l.2).charge p n 4 1
  else s.remoteViolation p a

/-- A line read here for partition `p`; a forbidden one reads as zero. -/
def State.remoteRead (s : State) (p : Nat) (n : Option NHdr) (a : Nat) : (List Byte × Bool) × State :=
  if s.remoteOk p a then
    match s.tier a with
    | .sram c o =>
      let s := s.sramCheck c o 64
      (((List.range 64).map (fun i => s.miscorrect c (o + i) (s.sramByte c (o + i))), s.sramPoison c o 64), s.charge p n 3 1)
    | _ => ((s.dramRead a 64, s.poisoned (a / 64)), s.charge p n 4 1)
  else ((List.replicate 64 0, false), s.remoteViolation p a)

/-- `k` lines read here for partition `p`. -/
def State.remoteLines (p : Nat) (n : Option NHdr) : Nat → Nat → State → MarkedLines × State
  | 0, _, s => ([], s)
  | k + 1, a, s =>
    let r := s.remoteRead p n a
    let t := State.remoteLines p n k (a + 64) r.2
    (r.1 :: t.1, t.2)

/-- Lines of a GET landing at the requester: placed by their address (R384). -/
def State.getLines (s : State) (t : Txn) (addr : Nat) (ls : MarkedLines) : State :=
  let i0 := (addr - t.remote) / 64
  let s := s.writeLines (gxCtx t.core) .gx (t.loc + 64 * i0) ls
  let s := if anyMark ls then s.gxFault t.core 1 t.peer (s.idxOf t.core (.gx t.tag)) else s
  let t := { t with got := (List.range ls.length).foldl (fun g i => setAdd g (i0 + i)) t.got }
  if t.lines ≤ t.got.length then s.endTxn t false
  else { s with girth := { s.girth with txns := s.girth.txns.map (fun u => if u.tag == t.tag then t else u) } }

/-- GXPUT and GXGET started: R213, R214, R384. A route that crosses a port known down ends at once with error, nothing sent (R388). -/
def State.startGx (s : State) (get : Bool) (h : Hdr) (o : GxOps) (x : Ctx) : State :=
  let c := x.core
  let n := x.ctr o.nc
  let loc := lineOp (x.gen o.agl) 0
  let peer := o.peer.toNat
  let part := s.payer c % 8
  let job := (s.core c).job
  if n = 0 then s.begin h x .gx
  else
    let s := if get then s.operands x .gx [] [(loc, 64 * n)] else s.operands x .gx [(loc, 64 * n)] []
    let tag := s.girth.nextTag
    let s := { s with girth := { s.girth with nextTag := (tag + 1) % 2 ^ 32 } }
    let t : Txn := ⟨tag, c, get, peer, loc, o.remote.toNat, n, []⟩
    let s := s.begin h x .gx (.gx tag)
    let s := { s with girth := { s.girth with txns := s.girth.txns ++ [t] } }
    let ls := if get then [] else s.readLines x .gx loc n
    let s := if anyMark ls then s.gxFault c 1 peer (some x.idx) else s
    if (s.asIssued x).inSet && peer == (s.asIssued x).me then
      -- a transaction with the module itself uses no link
      if get then
        let r := State.remoteLines part job n t.remote s
        r.2.getLines t t.remote r.1
      else
        (State.each ((List.range n).zip ls) (fun p s => s.remoteWrite part job (t.remote + 64 * p.1) p.2) s).endTxn t false
    else if !(s.asIssued x).routeOpen peer || !s.routeOpen peer then s.endTxn t true
    else
      let f : Flit := { typ := if get then 2 else 1, part := BitVec.ofNat 3 part, dst := BitVec.ofNat 11 peer, src := BitVec.ofNat 11 s.me
                        tag := BitVec.ofNat 32 tag, total := BitVec.ofNat 32 n, addr := o.remote, last := true }
      if get then s.sendFlit f none job
      else State.each (flitsOf f ls (fun i g => { g with addr := BitVec.ofNat 48 (t.remote + 64 * i) })) (fun g s => s.sendFlit g none job) s

/-! ### Groups (R390) -/

/-- The members of group `g`, ascending. -/
def State.groupMembers (s : State) (g : Nat) : List Nat :=
  let f := fun lo n => s.fld (Reg.GIRTH_GROUP g) lo n
  let inBox := fun v lo n => decide (lo ≤ v) && decide (v < lo + n)
  (List.range s.setSize).filter (fun m =>
    let p := xyzOf s.dims m
    inBox p.1 (f 1 6) (f 19 7) && inBox p.2.1 (f 7 6) (f 26 7) && inBox p.2.2 (f 13 6) (f 33 7))

/-- This module's index in group `g`. -/
def State.groupIndex (s : State) (g : Nat) : Option Nat := (s.groupMembers g).findIdx? (· == s.me)

/-- Whether a GXCOLL of core `c` may take part in group `g`: R390. -/
def State.groupOk (s : State) (g c : Nat) : Bool :=
  s.inSet && s.bit (Reg.GIRTH_GROUP g) 0 && s.fld (Reg.GIRTH_GROUP g) 51 5 == c &&
  s.fld (Reg.GIRTH_GROUP g) 56 3 == s.payer c && (s.groupIndex g).isSome

/-- The first line of bucket `i` of `n` lines over `m` members: R391. -/
def bucketLo (n m i : Nat) : Nat := i * n / m

/-- The lines of bucket `i`. -/
def bucketLen (n m i : Nat) : Nat := bucketLo n m (i + 1) - bucketLo n m i

/-- The bucket that line `l` lies in. -/
def bucketOfLine (n m l : Nat) : Nat := ((List.range m).find? (fun i => decide (bucketLo n m i ≤ l) && decide (l < bucketLo n m (i + 1)))).getD 0

/-- A collective of this module. -/
def State.coll? (s : State) (g inst : Nat) : Option Coll := s.girth.colls.find? (fun v => v.grp == g && v.inst == inst)

/-- The members of instance `inst` of group `g`: as this module's own instruction found them, else as they stand (R31). -/
def State.instMembers (s : State) (g inst : Nat) : List Nat :=
  match s.coll? g inst with
  | some v => v.ms
  | none => s.groupMembers g

/-- This module's index among them. -/
def State.instIndex (s : State) (g inst : Nat) : Option Nat := (s.instMembers g inst).findIdx? (· == s.me)

/-- The job whose collective an instance is, on this module: its flits are charged to it (R49). -/
def State.instJob (s : State) (g inst : Nat) : Option NHdr := (s.coll? g inst).bind (fun v => (s.core v.core).job)

def State.modColl (s : State) (g inst : Nat) (f : Coll → Coll) : State :=
  { s with girth := { s.girth with colls := s.girth.colls.map (fun v => if v.grp == g && v.inst == inst then f v else v) } }

/-- A collective over: its instruction may retire, or this module's part in a search is done (R299). -/
def State.endColl (s : State) (v : Coll) : State :=
  let s := match v.search, s.ask? v.grp v.inst with
    | true, some a => s.endAsk a
    | _, _ => s
  let s := { s with girth := { s.girth with
    colls := s.girth.colls.filter (fun w => !(w.grp == v.grp && w.inst == v.inst))
    early := s.girth.early.filter (fun f => !(f.group.toNat == v.grp && f.inst.toNat == v.inst)) } }
  s.busyDone v.core (.coll v.grp v.inst)

/-- A collective ended with error: result lines still due become zero and poisoned (R214, R388). `b` is the fault bit: 2 link_error, 3
coll_mismatch. A search fails with the set-incomplete status, and nothing of its answer is returned (R299). -/
def State.failColl (s : State) (v : Coll) (b peer : Nat) : State :=
  let due := if v.op = 3 then List.range v.n else v.due
  let s := match v.search, s.ask? v.grp v.inst with
    | true, some a => s.tellAsk a 7 0xC1 (searchOut a.e a.walk [])
    | true, none => s
    | false, _ => State.each due (fun i s => s.opWrite (gxCtx v.core) .gx (v.agd + 64 * i) (List.replicate 64 0) true) s
  let s := if b = 2 ∧ v.search = false then s.missSet v.core else s
  let s := s.gxFault v.core b peer (s.collIdx v)
  let s := if b = 3 then s.raise .girth 6 else s
  s.endColl v

/-- A result line that has been written. -/
def State.gotLine (s : State) (v : Coll) (i : Nat) : State :=
  let s := s.modColl v.grp v.inst (fun w => { w with due := setDel w.due i })
  match s.coll? v.grp v.inst with
  | some w => if w.due.isEmpty then s.endColl w else s
  | none => s

/-- Result lines written at agd from line `o` of the collective; a REDSCAT member keeps its bucket alone. -/
def State.result (s : State) (v : Coll) (o : Nat) (ls : MarkedLines) : State :=
  let s := s.writeLines (gxCtx v.core) .gx (v.agd + 64 * o) ls
  let s := if anyMark ls then s.gxFault v.core 1 0 (s.collIdx v) else s
  State.each (List.range ls.length) (fun i s => s.gotLine v (o + i)) s

/-! ### The reducer (R242 to R245) -/

/-- The reduction slot that applies to group `g`: 16 + g where none does. -/
def State.slotOf (s : State) (g : Nat) : Nat :=
  ((List.range 16).find? (fun j => s.bit (Reg.HARN_REDUCE j) 0 && s.fld (Reg.HARN_REDUCE j) 1 8 == g)).getD (16 + g)

/-- `n` contributions counted in a term of slot `j`: R243. `sub` takes them out of it. -/
def State.contrib (s : State) (j reg n : Nat) (sub : Bool := false) : State :=
  if 16 ≤ j ∨ n = 0 then s else (if sub then s.subReg reg n else s.addReg reg n).tick 6 n

/-- An instance of a bucket. -/
def State.rinst? (s : State) (j bucket inst : Nat) : Option RInst :=
  s.harness.insts.find? (fun r => r.j == j && r.bucket == bucket && r.inst == inst)

def State.setRinst (s : State) (r : RInst) : State :=
  { s with harness := { s.harness with
    insts := s.harness.insts.filter (fun q => !(q.j == r.j && q.bucket == r.bucket && q.inst == r.inst)) ++ [r] } }

/-- A closed instance's sum given to this module's own collective, when it has issued: R391. -/
def State.giveOwn (s : State) (r : RInst) : State :=
  match s.coll? r.grp r.inst, s.instIndex r.grp r.inst with
  | some v, some i =>
    let m := v.ms.length
    let s := { s with harness := { s.harness with insts := s.harness.insts.filter (fun q => !(q == r)) } }
    s.result v (bucketLo v.n m i) r.sum
  | _, _ => s

/-- The sum of a closed bucket sent to every other member (ALLRED): R391. `n` is the collective's lines. -/
def State.sendSum (s : State) (r : RInst) (n : Nat) : State :=
  if r.op ≠ 0 then s
  else
    match s.instIndex r.grp r.inst with
    | some i =>
      let ms := s.instMembers r.grp r.inst
      let job := s.instJob r.grp r.inst
      let lo := bucketLo n ms.length i
      State.each (ms.filter (· != s.me)) (fun m s =>
        let f : Flit := { typ := 5, part := BitVec.ofNat 3 (s.fld (Reg.GIRTH_GROUP r.grp) 56 3), dst := BitVec.ofNat 11 m
                          src := BitVec.ofNat 11 s.me, total := BitVec.ofNat 32 n, group := BitVec.ofNat 8 r.grp, op := 0
                          inst := BitVec.ofNat 64 r.inst }
        State.each (flitsOf f r.sum (fun k g => { g with offset := BitVec.ofNat 32 (lo + k) })) (fun g s => s.sendFlit g none job) s) s
    | none => s

/-- An instance closed: contributions present are included, the absent ones carried or dropped by the slot's fate, the bucket's carries added
in (R242, R243). -/
def State.closeInst (s : State) (r : RInst) : State :=
  if r.closed then s
  else
    let j := r.j
    let ms := List.range (s.instMembers r.grp r.inst).length
    let absent := ms.filter (fun m => !setHas r.got m)
    let drop := s.bit (Reg.HARN_REDUCE j) 9
    let held := s.harness.carries.filter (fun c => c.j == j && c.bucket == r.bucket)
    let sum := held.foldl (fun a c => if a.isEmpty then c.lines else lfLinesAdd a c.lines) r.sum
    let s := s.contrib j (Reg.HARN_CONTRIB_EXP j) ms.length
    let s := s.contrib j (Reg.HARN_CONTRIB_INC j) (r.got.length + held.length)
    let s := s.contrib j (Reg.HARN_CONTRIB_CAR j) held.length true
    let s := s.contrib j (if drop then Reg.HARN_CONTRIB_DROP j else Reg.HARN_CONTRIB_CAR j) absent.length
    let late := absent.map (fun m => (j, r.bucket, r.inst, m))
    let s := { s with harness := { s.harness with
      carries := s.harness.carries.filter (fun c => !(c.j == j && c.bucket == r.bucket))
      late := s.harness.late ++ (if drop then [] else late)
      lateDrop := s.harness.lateDrop ++ (if drop then late else []) } }
    let r := { r with sum := sum, closed := true }
    let s := s.setRinst r
    (s.sendSum r r.n).giveOwn r

/-- Lines the carry store holds. -/
def State.carryLines (s : State) : Nat := s.harness.carries.foldl (fun n c => n + c.lines.length) 0

/-- A contribution of member `m` to a bucket of instance `inst`, arriving at its reducer: it opens the instance, joins it, is held as a carry
or is discarded (R242 to R244). -/
def State.contribute (s : State) (j grp op bucket inst n m : Nat) (ls : MarkedLines) : State :=
  let key := (j, bucket, inst, m)
  if s.harness.late.contains key then
    let s := { s with harness := { s.harness with late := s.harness.late.erase key } }
    if (s.carryLines + ls.length) * 64 ≤ 0x800000 then
      { s with harness := { s.harness with carries := s.harness.carries ++ [⟨j, bucket, ls⟩] } }
    else
      ((s.contrib j (Reg.HARN_CONTRIB_CAR j) 1 true).contrib j (Reg.HARN_CONTRIB_DROP j) 1).raise .harn 5
  else if s.harness.lateDrop.contains key then
    { s with harness := { s.harness with lateDrop := s.harness.lateDrop.erase key } }
  else
    match s.rinst? j bucket inst with
    | none => s.setRinst ⟨j, grp, op, bucket, inst, n, [m], ls, false⟩
    | some r =>
      if r.closed || setHas r.got m then s
      else s.setRinst { r with got := setAdd r.got m, sum := lfLinesAdd r.sum ls }

/-- An instance of a group without a reduction slot closes when every member has contributed. -/
def State.autoClose (s : State) (j bucket inst : Nat) : State :=
  match s.rinst? j bucket inst with
  | some r => if 16 ≤ j ∧ r.got.length = (s.instMembers r.grp r.inst).length then s.closeInst r else s
  | none => s

/-- The sum so far of a bucket that is still open, in the reducer's own agd lines: R391. -/
def State.showSum (s : State) (j bucket inst : Nat) : State :=
  match s.rinst? j bucket inst with
  | none => s
  | some r =>
    if r.closed then s
    else
      match s.coll? r.grp r.inst with
      | some v => if r.got = [] then s else s.writeLines (gxCtx v.core) .gx (v.agd + 64 * bucketLo v.n v.ms.length bucket) r.sum
      | none => s

/-- Every contribution of slot `j` still counted as carried moves to dropped: R245. -/
def State.dropCarries (s : State) (j : Nat) : State :=
  let n := (s.reg (Reg.HARN_CONTRIB_CAR j)).toNat
  let s := (s.contrib j (Reg.HARN_CONTRIB_CAR j) n true).contrib j (Reg.HARN_CONTRIB_DROP j) n
  { s with harness := { s.harness with
    carries := s.harness.carries.filter (fun c => c.j != j)
    lateDrop := s.harness.lateDrop ++ s.harness.late.filter (fun e => e.1 == j)
    late := s.harness.late.filter (fun e => e.1 != j)
    insts := s.harness.insts.filter (fun r => r.j != j) } }

/-! ### The tree of BCAST and CLEAR (R392) -/

/-- The members among `ms` to which member `m` passes what member `r` sends through the box of the group: along X first, then Y, then Z. -/
def State.treeNext (s : State) (ms : List Nat) (r m : Nat) : List Nat :=
  let d := s.dims
  let a := xyzOf d r
  let p := xyzOf d m
  let step := fun (from_ at_ : Nat) => if at_ < from_ then [at_ - 1] else if from_ < at_ then [at_ + 1] else [at_ + 1, at_ - 1]
  let xs := (step a.1 p.1).map (fun v => (v, p.2.1, p.2.2))
  let ys := (step a.2.1 p.2.1).map (fun v => (p.1, v, p.2.2))
  let zs := (step a.2.2 p.2.2).map (fun v => (p.1, p.2.1, v))
  let onX := p.2.1 == a.2.1 && p.2.2 == a.2.2
  let onY := p.2.2 == a.2.2
  let cand := (if onX then xs else []) ++ (if onY then ys else []) ++ zs
  (cand.filter (fun q => q != p && decide (q.1 < d.1) && decide (q.2.1 < d.2.1) && decide (q.2.2 < d.2.2))).map (modNo d) |>.filter ms.contains

/-- The lists of a CLEAR merged: written at agd, or the answer to the search whose lists they are (R290, R298). -/
def State.cleared (s : State) (v : Coll) (rs : List Cand) (mark : Bool) : State :=
  let s := if mark then s.gxFault v.core 1 0 (s.collIdx v) else s
  let s := match v.search, s.ask? v.grp v.inst with
    | true, some a => if mark then s.tellAsk a 7 0xC3 (searchOut a.e 4 []) else s.tellAsk a 0 0 (searchOut a.e a.walk (rs.take a.k))
    | true, none => s
    | false, _ => s.opWrite (gxCtx v.core) .gx v.agd (listBytes rs) mark
  s.endColl v

/-- A line of member `r` taken by the collective here: BCAST writes it, CLEAR keeps it until every list is whole and merges them. -/
def State.treeLine (s : State) (v : Coll) (r i : Nat) (l : List Byte × Bool) : State :=
  if v.op = 2 then s.result v i [l]
  else
    let ms := v.ms
    let w := { v with acc := v.acc ++ [⟨v.grp, v.inst, r, i, l.1, l.2⟩], due := setDel v.due (r * 2 ^ 32 + i) }
    let s := s.modColl v.grp v.inst (fun _ => w)
    if w.due.isEmpty then
      let cap := 4 * (v.n - 1)
      let lines := fun m => (List.range v.n).map (fun i => match w.acc.find? (fun p => p.member == m && p.line == i) with
        | some p => p.bytes
        | none => List.replicate 64 0)
      let all := ms.flatMap (fun m => listOf cap (lines m).flatten)
      s.cleared w (rankAll false false cap all) (w.acc.any PartLine.poison)
    else s

/-- Lines of member `r`'s tree sent on by this member, for job `job` where they are its own. -/
def State.treeSend (s : State) (ms : List Nat) (r : Nat) (job : Option NHdr) (f : Flit) (ls : MarkedLines) : State :=
  State.each (s.treeNext ms r s.me) (fun m s =>
    State.each (flitsOf { f with dst := BitVec.ofNat 11 m } ls (fun k h => { h with offset := f.offset + BitVec.ofNat 32 k }))
      (fun h s => s.sendFlit h none job) s) s

/-! ### Collective flits and GXCOLL -/

/-- The list lines that a CLEAR of `n` lines awaits from every member. -/
def clearDue (ms : List Nat) (n : Nat) : NatSet := ms.flatMap (fun q => (List.range n).map (fun i => q * 2 ^ 32 + i))

/-- A collective flit taken by this module's collective `v`; one that disagrees in op or length ends it (R390). -/
def State.collFlit (s : State) (v : Coll) (f : Flit) : State :=
  let ms := v.ms
  let src := f.src.toNat
  if f.op.toNat ≠ v.op ∨ f.total.toNat ≠ v.n then s.failColl v 3 src
  else if f.error then s.failColl v 2 src
  else
    let ls : MarkedLines := f.payload.map (fun b => (fitTo 64 0 b, f.poison))
    if v.op = 2 ∨ v.op = 3 then
      State.each ((List.range ls.length).zip ls) (fun p s =>
        match s.coll? v.grp v.inst with
        | some w => s.treeLine w src (f.offset.toNat + p.1) p.2
        | none => s) s
    else if some (bucketOfLine v.n ms.length f.offset.toNat) = s.instIndex v.grp v.inst then s
    else s.result v f.offset.toNat ls

/-- Contribution lines of a flit put beside those of their member; a whole contribution goes to the bucket (R391). -/
def State.contribFlit (s : State) (f : Flit) : State :=
  let g := f.group.toNat
  let inst := f.inst.toNat
  let n := f.total.toNat
  let ms := s.instMembers g inst
  match s.instIndex g inst, ms.findIdx? (· == f.src.toNat) with
  | some me, some m =>
    if bucketOfLine n ms.length f.offset.toNat ≠ me then s
    else
      let lo := bucketLo n ms.length me
      let len := bucketLen n ms.length me
      let new := (List.range f.payload.length).zip f.payload |>.map (fun p =>
        (⟨g, inst, m, f.offset.toNat + p.1, fitTo 64 0 p.2, f.poison⟩ : PartLine))
      let all := s.girth.part ++ new
      let mine := all.filter (fun p => p.grp == g && p.inst == inst && p.member == m)
      if mine.length < len then { s with girth := { s.girth with part := all } }
      else
        let ls : MarkedLines := (List.range len).map (fun i => match mine.find? (fun p => p.line == lo + i) with
          | some p => (p.bytes, p.poison)
          | none => (List.replicate 64 0, true))
        let s := { s with girth := { s.girth with part := all.filter (fun p => !(p.grp == g && p.inst == inst && p.member == m)) } }
        let j := s.slotOf g
        ((s.contribute j g f.op.toNat me inst n m ls).autoClose j me inst).showSum j me inst
  | _, _ => s

/-- A collective flit arriving: passed along its tree, counted as a contribution, and given to the module's own collective or kept until that
issues. -/
def State.collArrive (s : State) (f : Flit) : State :=
  let g := f.group.toNat
  let inst := f.inst.toNat
  if (s.instIndex g inst).isNone then s
  else
    let op := f.op.toNat
    let other := (s.coll? g inst).any (fun v => v.op != op || v.n != f.total.toNat)
    let s := if other then s else if op = 2 ∨ op = 3 then s.treeSend (s.instMembers g inst) f.src.toNat none f (f.payload.map (fun b => (fitTo 64 0 b, f.poison))) else s.contribFlit f
    match s.coll? g inst with
    | some v => s.collFlit v f
    | none => { s with girth := { s.girth with early := s.girth.early ++ [f] } }

/-- A collective of this module under way: its lines `ls` sent where it sends any, and what came before it taken (R391, R392). A group that
does not stand ends it with error (R388). -/
def State.joinColl (s : State) (v : Coll) (part : Nat) (job : Option NHdr) (sends : Bool) (ls : MarkedLines) : State :=
  let s := { s with girth := { s.girth with colls := s.girth.colls ++ [v] } }
  let g := v.grp
  let inst := v.inst
  let n := v.n
  let m := v.ms.length
  let me := (v.ms.findIdx? (· == s.me)).getD 0
  if !s.groupStands v.ms then s.failColl v 2 0
  else
    let f : Flit := { typ := 5, part := BitVec.ofNat 3 part, src := BitVec.ofNat 11 s.me, total := BitVec.ofNat 32 n
                      group := BitVec.ofNat 8 g, op := BitVec.ofNat 4 v.op, inst := BitVec.ofNat 64 inst }
    let s :=
      if v.op = 2 ∨ v.op = 3 then
        if sends then
          let s := s.treeSend v.ms s.me job f ls
          State.each ((List.range n).zip ls) (fun p s =>
            match s.coll? g inst with
            | some w => s.treeLine w s.me p.1 p.2
            | none => s) s
        else s
      else
        let s := State.each ((List.range m).zip v.ms) (fun q s =>
          if q.2 == s.me then s
          else
            let lo := bucketLo n m q.1
            State.each (flitsOf { f with dst := BitVec.ofNat 11 q.2 } ((ls.drop lo).take (bucketLen n m q.1))
              (fun k e => { e with offset := BitVec.ofNat 32 (lo + k) })) (fun e s => s.sendFlit e none job) s) s
        let j := s.slotOf g
        let s := (s.contribute j g v.op me inst n me ((ls.drop (bucketLo n m me)).take (bucketLen n m me))).autoClose j me inst
        match s.rinst? j me inst with
        | some r => if r.closed then s.giveOwn r else s.showSum j me inst
        | none => s
    -- flits that came before this collective
    State.each (s.girth.early.filter (fun e => e.group.toNat == g && e.inst.toNat == inst)) (fun e s =>
      let s := { s with girth := { s.girth with early := s.girth.early.erase e } }
      match s.coll? g inst with
      | some w => s.collFlit w e
      | none => s) s

/-- GXCOLL started: R213, R390 to R392. `op`: 0 ALLRED, 1 REDSCAT, 2 BCAST, 3 CLEAR. -/
def State.startColl (s : State) (op : Nat) (h : Hdr) (o : CollOps) (x : Ctx) : State :=
  let c := x.core
  let g := o.grp.toNat
  let n := x.ctr o.nc
  let was := s.asIssued x
  if !was.groupOk g c || h.rsv != 0 then s.noEffect .gx h x .gx
  else
    let ms := was.groupMembers g
    let me := (was.groupIndex g).getD 0
    let inst := sget 0 s.girth.instNo g
    let src := lineOp (x.gen o.ags) 0
    let dst := lineOp (x.gen o.agd) 0
    let s := { s with girth := { s.girth with instNo := sput 0 s.girth.instNo g (inst + 1) } }
    if n = 0 then s.begin h x .gx
    else
      let root := ms.getD (was.fld (Reg.GIRTH_GROUP g) 40 11) 0
      let sends := decide (op ≠ 2) || root == was.me
      let s := s.operands x .gx (if sends then [(src, 64 * n)] else []) [(dst, 64 * n)]
      let ls := if sends then s.readLines x .gx src n else []
      let s := if anyMark ls then s.gxFault c 1 s.me (some x.idx) else s
      let due := if op = 3 then clearDue ms n
        else if op = 1 then (List.range (bucketLen n ms.length me)).map (· + bucketLo n ms.length me) else List.range n
      let v : Coll := ⟨g, inst, op, c, src, dst, n, [], [], due, ms, root, false⟩
      (s.begin h x .gx (.coll g inst)).joinColl v (s.payer c) (s.core c).job sends ls

/-! ### The girth's part in a sharded search (R298) -/

/-- The lines of a query sent by GXPUT to member `m`, for command `job` of partition `p`, through the GX of core `c`. -/
def State.putQuery (g inst c p : Nat) (job : Option NHdr) (ls : MarkedLines) (m : Nat) (s : State) : State :=
  let tag := s.girth.nextTag
  let a := (Config.queryAddr m).toNat / 64 * 64
  let t : Txn := ⟨tag, c, false, m, 0, a, ls.length, []⟩
  let s := { s with girth := { s.girth with nextTag := (tag + 1) % 2 ^ 32, txns := s.girth.txns ++ [t] } }
  let s := s.modAsk g inst (fun k => { k with tags := setAdd k.tags tag })
  if !s.routeOpen m then s.endTxn t true
  else
    let f : Flit := { typ := 1, part := BitVec.ofNat 3 p, dst := BitVec.ofNat 11 m, src := BitVec.ofNat 11 s.me, tag := BitVec.ofNat 32 tag
                      total := BitVec.ofNat 32 ls.length, last := true }
    State.each (flitsOf f ls (fun i g => { g with addr := BitVec.ofNat 48 (a + 64 * i) })) (fun g s => s.sendFlit g none job) s

/-- This module's part in a sharded search begun: its first `k` records, with aux its member number, go into the CLEAR, whose C[nc] is
1 + ⌈k ÷ 4⌉ (R298, R392); `mark` poisons its list. -/
def State.joinAsk (s : State) (a : Ask) (c p : Nat) (rs : List Cand) (mark : Bool) : State :=
  let n := 1 + (a.k + 3) / 4
  let ms := s.groupMembers a.grp
  let mine := rs.map (fun r => { r with aux := s.me })
  let ls : MarkedLines := (chunksOf 64 n (fitTo (64 * n) 0 (listBytes mine))).map (fun l => (l, mark))
  let v : Coll := ⟨a.grp, a.inst, 3, c, 0, 0, n, [], [], clearDue ms n, ms, s.me, true⟩
  s.joinColl v p a.n true ls

/-! ### Ends with error (R380, R388) -/

/-- Transactions and collectives whose route no longer stands end with error; carries of their groups drop (R388, R245). -/
def State.endBroken (s : State) : State :=
  let s := State.each (s.girth.txns.filter (fun t => !s.routeOpen t.peer && t.peer != s.me)) (fun t s => s.endTxn t true) s
  let bad := fun (s : State) (ms : List Nat) => !s.groupStands ms
  let s := State.each (s.girth.colls.filter (fun v => bad s v.ms)) (fun v s => s.failColl v 2 0) s
  State.each ((List.range 16).filter (fun j => s.bit (Reg.HARN_REDUCE j) 0 && bad s (s.groupMembers (s.fld (Reg.HARN_REDUCE j) 1 8))))
    (fun j s => s.dropCarries j) s

end Sys2Proof.Machine
end

