-- ==== Sys2Proof/Machine/Harness.lean ====
section
/-! DEFINITION. Machine/Harness.lean: bindings, tally windows, rings and their credits, HXSEND and HXRECV (R212, R218 to R232). -/

namespace Sys2Proof.Machine

open Sys2Proof

/-! ### Bindings and rings -/

/-- A ring's fields. -/
def State.ringFld (s : State) (b n lo w : Nat) : Nat := s.fld (Reg.HARN_RING b n) lo w

def State.ringOn (s : State) (b n : Nat) : Bool := s.bit (Reg.HARN_RING b n) 0

/-- Whether ring `n` of binding `b` carries activations. -/
def State.ringAct (s : State) (b n : Nat) : Bool := s.bit (Reg.HARN_RING b n) 1

/-- The local partition that sends on the ring, and the one that receives: R226. -/
def State.ringSender (s : State) (b n : Nat) : Option Nat :=
  if s.ringAct b n && s.bit (Reg.HARN_RING b n) 2 then s.studentOf b else s.teacherOf b

def State.ringReceiver (s : State) (b n : Nat) : Option Nat :=
  if s.ringAct b n && s.bit (Reg.HARN_RING b n) 2 then s.teacherOf b else s.studentOf b

def State.ringSrc (s : State) (b n : Nat) : Nat := s.ringFld b n 3 5
def State.ringDst (s : State) (b n : Nat) : Nat := s.ringFld b n 8 5
def State.ringSlots (s : State) (b n : Nat) : Nat := s.ringFld b n 13 7
def State.ringLines (s : State) (b n : Nat) : Nat := s.ringFld b n 20 7
def State.ringBase (s : State) (b n : Nat) : Nat := s.ringFld b n 27 25

/-- What a ring holds now. -/
def State.ring (s : State) (b n : Nat) : Ring := sget {} s.harness.rings (8 * b + n)

def State.setRing (s : State) (b n : Nat) (r : Ring) : State :=
  { s with harness := { s.harness with rings := sput {} s.harness.rings (8 * b + n) r } }

/-- The SRAM offset in the receiving core of the slot of record `m`. -/
def State.slotAt (s : State) (b n m : Nat) : Nat := s.ringBase b n + m % s.ringSlots b n * s.ringLines b n * 64

/-- `n` records counted in a term of a binding's tally ledger: tally rings only (R228). -/
def State.tally (s : State) (b r reg n : Nat) : State := if s.ringAct b r ∨ n = 0 then s else (s.addReg reg n).tick 5 n

/-- HARN_TALLY_FLIGHT_b: records on the lane and in slots of the binding's tally rings. -/
def State.inFlight (s : State) (b : Nat) : Nat :=
  (List.range 8).foldl (fun n r => if s.ringAct b r then n else n + (s.ring b r).lane.length + ((s.ring b r).arrived - (s.ring b r).taken)) 0

/-! ### Records (R224, R225) -/

/-- Bytes of a tally source. -/
def tallySrcBytes : Nat := 1600

/-- A tally source that breaks R224: k outside 1 to 256, an id of 2^20 or more among its first k, or non-zero reserved bytes. -/
def badTally (src : List Byte) : Bool :=
  let k := leNat ((src.drop 4).take 2)
  k == 0 || decide (256 < k) || ((src.drop 8).take 56).any (· != 0) ||
  (elems 4 ((src.drop 576).take 1024) |>.take k).any (fun v => decide (2 ^ 20 ≤ v))

/-- A tally record made from its source: R225. -/
def tallyRecord (src : List Byte) (seq : Nat) : List Byte :=
  let k := leNat ((src.drop 4).take 2)
  let lp := fitTo 512 0 (((src.drop 64).take 512).take (2 * k))
  let ids := ((elems 4 ((src.drop 576).take 1024)).take k).foldr (fun v n => v % 2 ^ 20 + 2 ^ 20 * n) 0
  (src.take 4) ++ leBytes 2 k ++ (src.drop 6).take 2 ++ leBytes 4 (seq % 2 ^ 32) ++ leBytes 4 0 ++ lp ++ leBytes 640 ids ++ List.replicate 48 0

/-- The source lines that record line `i` is made of: the header line, and the lines of its entries below k. -/
def tallyLineFrom (k i : Nat) : List Nat :=
  let lo := 64 * i
  let hi := lo + 64
  let lps := ((List.range k).filter (fun j => decide (lo < 16 + 2 * j + 2) && decide (16 + 2 * j < hi))).map (fun j => (64 + 2 * j) / 64)
  let ids := ((List.range k).filter (fun j => decide (8 * lo < 8 * 528 + 20 * j + 20) && decide (8 * 528 + 20 * j < 8 * hi))).map
    (fun j => (576 + 4 * j) / 64)
  0 :: (lps ++ ids)

/-- The lines of the record that core `x.core` sends from SRAM offset `o`, and whether its source was malformed. -/
def State.makeRecord (s : State) (x : Ctx) (act : Bool) (lines o seq : Nat) : MarkedLines × Bool :=
  if act then (s.readLines x .hx o lines, false)
  else
    let src := s.opBytes x .hx o tallySrcBytes
    let bad := badTally src
    let k := leNat ((src.drop 4).take 2)
    let rec_ := tallyRecord src seq
    let dirty := (List.range 25).filter (fun i => s.opPoison x (o + 64 * i) 64)
    ((List.range 19).map (fun i => ((rec_.drop (64 * i)).take 64, bad || (tallyLineFrom (min k 256) i).any dirty.contains)), bad)

/-! ### Sending and receiving (R212, R228) -/

/-- HX records a fault bit on core `c`, with the ring (R247). -/
def State.hxFault (s : State) (c b ring pc : Nat) : State := s.coreFault c .hx b pc (ring * 2 ^ 8)

/-- One record sent: a credit is taken, the record counts as produced and goes on the lane, or over the girth for a remote binding (R220, R228). -/
def State.sendRecord (s : State) (x : Ctx) (b n : Nat) (act : Bool) (o : Nat) : State :=
  let r := s.ring b n
  let m := s.makeRecord x act (s.ringLines b n) o r.seq
  let s := if m.2 then s.violate x.core .hx (s.pc x) (n * 2 ^ 8) else s
  let s := if anyMark m.1 then s.hxFault x.core 1 n (s.pc x) else s
  let s := (s.addReg (Reg.HX_LINES_OUT x.core) m.1.length).chargeCore x.core 3 (if act then m.1.length else 25)
  let s := (s.setFld (Reg.HARN_RING_CREDIT b n) 0 32 (s.fld (Reg.HARN_RING_CREDIT b n) 0 32 + 1)).tick 1
  let s := s.tally b n (Reg.HARN_TALLY_PROD b) 1
  let r := { r with credits := r.credits - 1, seq := r.seq + 1 }
  if s.bindRemote b then
    let s := s.setRing b n { r with lane := r.lane ++ [m.1] }
    let f : Flit := { typ := 6, part := BitVec.ofNat 3 (s.payer x.core), dst := BitVec.ofNat 11 (s.bindFld b 9 11), src := BitVec.ofNat 11 s.me
                      tag := BitVec.ofNat 32 (r.seq - 1), total := BitVec.ofNat 32 m.1.length }
    let a := sramBase (s.ringDst b n) + s.slotAt b n (r.seq - 1)
    State.each (flitsOf f m.1 (fun k g => { g with addr := BitVec.ofNat 48 (a + 64 * k) }))
      (fun g s => s.sendFlit g none (s.core x.core).job) s
  else s.setRing b n { r with lane := r.lane ++ [m.1] }

/-- As many of `left` records sent from SRAM offset `o` as credits allow; how many are left, and where. -/
def State.sendMany (x : Ctx) (b n : Nat) (act : Bool) : Nat → Nat → State → Nat × Nat × State
  | 0, o, s => (0, o, s)
  | left + 1, o, s =>
    if (s.ring b n).credits = 0 then (left + 1, o, s)
    else State.sendMany x b n act left (o + (if act then s.ringLines b n * 64 else tallySrcBytes)) (s.sendRecord x b n act o)

/-- The next unconsumed record of a ring, as a read of its slot's SRAM lines returns it, where one has arrived. -/
def State.nextRecord (s : State) (b n : Nat) : Option (MarkedLines × State) :=
  let r := s.ring b n
  if r.taken < r.arrived then
    let c := s.ringDst b n
    let o := s.slotAt b n r.taken
    let k := s.ringLines b n
    let s := s.sramCheck c o (64 * k)
    some ((List.range k).map (fun i => ((List.range 64).map (fun j => s.miscorrect c (o + 64 * i + j) (s.sramByte c (o + 64 * i + j))),
      s.sramPoison c (o + 64 * i) 64)), s)
  else none

/-- A record consumed: its slot is freed, and the credit is on its way back (R228). -/
def State.consumeRecord (s : State) (b n : Nat) : State :=
  let r := s.ring b n
  (s.setRing b n { r with taken := r.taken + 1, freed := r.freed + 1 }).tally b n (Reg.HARN_TALLY_CONS b) 1

/-- As many of `left` records received to SRAM offset `o` as have arrived. -/
def State.recvMany (x : Ctx) (b n : Nat) : Nat → Nat → State → Nat × Nat × State
  | 0, o, s => (0, o, s)
  | left + 1, o, s =>
    match s.nextRecord b n with
    | some (ls, s) =>
      let s := s.writeLines x .hx o ls
      let s := if anyMark ls then s.hxFault x.core 1 n (s.pc x) else s
      let s := (s.addReg (Reg.HX_LINES_IN x.core) ls.length).chargeCore x.core 3 (2 * ls.length)
      State.recvMany x b n left (o + 64 * ls.length) (s.consumeRecord b n)
    | none => (left + 1, o, s)

/-- Whether ring `n` of binding `b` no longer stands as an instruction found it at its issue: the instruction then ends as one that waited on the
ring does (R31, R221, R232). -/
def State.ringGone (s : State) (x : Ctx) (b n : Nat) : Bool :=
  let was := s.asIssued x
  s.bindBroken b || was.reg (Reg.HARN_RING b n) != s.reg (Reg.HARN_RING b n) ||
    (was.reg (Reg.HARN_BIND b) &&& mask 0 23) != (s.reg (Reg.HARN_BIND b) &&& mask 0 23)

/-- Whether `n` bytes from `o` lie inside core `c`'s tally window: R227. -/
def State.insideWindow (s : State) (c o n : Nat) : Bool :=
  let b := s.fld (Reg.HARN_WIN c) 0 25
  let w := 64 * s.fld (Reg.HARN_WIN c) 32 19
  decide (b ≤ o) && decide (o + n ≤ b + w)

/-- HXSEND and HXRECV started: R212, R224, R227 to R232. -/
def State.startHx (s : State) (send : Bool) (h : Hdr) (o : HxOps) (x : Ctx) : State :=
  let c := x.core
  let n := o.ring.toNat
  let cnt := if o.ncimm = 0 then x.ctr o.nc else o.ncimm.toNat
  let at_ := lineOp (x.gen o.ags) 0
  let p := s.payer c
  let was := s.asIssued x
  let b? := (was.bindingOf p).filter (fun b => was.ringOn b n && was.ringAct b n == o.act &&
    (if send then was.ringSrc b n == c && was.ringSender b n == some p else was.ringDst b n == c && was.ringReceiver b n == some p))
  let size := fun b => if o.act then was.ringLines b n * 64 else if send then tallySrcBytes else 19 * 64
  let ok := fun b => o.act || was.insideWindow c at_ (cnt * size b)
  match b?.filter ok with
  | none =>
    -- an unbound ring or an SRAM side outside the window: R212
    let s := s.violate c .hx (s.pc x) (n * 2 ^ 8)
    let s := if send || o.act then s else s.writeLines x .hx at_ (List.replicate (cnt * 19) (List.replicate 64 0, false))
    s.begin h x .hx
  | some b =>
    if s.ringGone x b n then
      -- with its ring broken or gone it ends at once, as a waiting one did: R221, R232
      let s := s.hxFault c 2 n (s.pc x)
      let s := if send then s else s.writeLines x .hx at_ (deadLines (cnt * size b / 64))
      s.begin h x .hx
    else
      let bytes := cnt * size b
      let s := s.sramCheck c at_ (if send then bytes else 0)
      let s := if beyond at_ bytes then s.violate c .hx (s.pc x) (n * 2 ^ 8) else s
      let r := if send then State.sendMany x b n o.act cnt at_ s else State.recvMany x b n cnt at_ s
      r.2.2.begin h x .hx (if r.1 = 0 then .done else if send then .hxSend b n o.act r.2.1 r.1 else .hxRecv b n o.act r.2.1 r.1)

/-- A waiting HX instruction of core `c` goes on with what credits or records there now are. -/
def State.resumeHx (s : State) (c : Nat) (q : Busy) : State :=
  let x : Ctx := { core := c, idx := q.idx, gens := [], ctrs := [] }
  let put := fun (s : State) (w : BusyWait) =>
    s.modCore c (fun k => { k with busy := k.busy.map (fun b => if b == q then { b with wait := w } else b), stalled := false })
  match q.wait with
  | .hxSend b n act a left =>
    let r := State.sendMany x b n act left a s
    put r.2.2 (if r.1 = 0 then .done else .hxSend b n act r.2.1 r.1)
  | .hxRecv b n act a left =>
    let r := State.recvMany x b n left a s
    put r.2.2 (if r.1 = 0 then .done else .hxRecv b n act r.2.1 r.1)
  | _ => s

/-- Whether a started instruction waits on ring `n` of binding `b` to send. -/
def BusyWait.sendsOn (w : BusyWait) (b n : Nat) : Bool :=
  match w with
  | .hxSend c m _ _ _ => c == b && m == n
  | _ => false

/-- Whether one waits on the ring to receive. -/
def BusyWait.recvsOn (w : BusyWait) (b n : Nat) : Bool :=
  match w with
  | .hxRecv c m _ _ _ => c == b && m == n
  | _ => false

/-- Whether it waits on the binding at all. -/
def BusyWait.onBinding (w : BusyWait) (b : Nat) : Bool :=
  match w with
  | .hxSend c _ _ _ _ | .hxRecv c _ _ _ _ | .hxRow c _ _ _ _ => c == b
  | _ => false

/-! ### Bindings that break or are disabled (R221, R231, R232) -/

/-- Every record in a ring's slots and on its lane discarded, and its credits back with the sender: R231. -/
def State.discardRing (b n : Nat) (s : State) : State :=
  let r := s.ring b n
  let gone := r.lane.length + (r.arrived - r.taken)
  let s := (s.tally b n (Reg.HARN_TALLY_CONS b) gone).tally b n (Reg.HARN_TALLY_DISC b) gone
  let back := s.fld (Reg.HARN_RING_CREDIT b n) 0 32 - s.fld (Reg.HARN_RING_CREDIT b n) 32 32
  let s := if back = 0 then s else (s.setFld (Reg.HARN_RING_CREDIT b n) 32 32 (s.fld (Reg.HARN_RING_CREDIT b n) 0 32)).tick 1 back
  s.setRing b n { r with lane := [], part := 0, taken := r.arrived, freed := 0, credits := r.credits + back }

/-- A VKL row that waited on a ring, and the rows after it, computed as zero and poisoned: R232. -/
def State.deadRows (s : State) (x : Ctx) (o : VxOps) (d row rows : Nat) (agd agc : Nat) : State :=
  let pitch := up64 (o.len.toNat * d)
  State.each ((List.range rows).filter (fun r => decide (row ≤ r))) (fun r s =>
    (s.opWrite x .vx (agd + r * pitch) (List.replicate (o.len.toNat * d) 0) true).opWrite x .vx (agc + 64 + 4 * r) (List.replicate 4 0) true) s

/-- A waiting instruction of core `c` ended because its binding is broken or disabled: R232. -/
def State.breakWait (s : State) (c : Nat) (q : Busy) : State :=
  let x : Ctx := { core := c, idx := q.idx, gens := [], ctrs := [] }
  let s := match q.wait with
    | .hxRecv b n _ a left => s.writeLines x .hx a (deadLines (left * s.ringLines b n))
    | .hxRow _ _ o row rows => s.deadRows x o (fmtBytes o.fd.toNat) row rows (lineOp (sget 0 q.args 0) 0) (lineOp (sget 0 q.args 1) 0)
    | _ => s
  let ring := match q.wait with
    | .hxSend _ n _ _ _ | .hxRecv _ n _ _ _ | .hxRow _ n _ _ _ => n
    | _ => 0
  let s := s.hxFault c 2 ring (s.pc x)
  s.modCore c (fun k => { k with busy := k.busy.map (fun b => if b == q then { b with wait := .done } else b), stalled := false })

/-- Every instruction of the binding's partitions that waits on its rings ended. -/
def State.breakWaits (s : State) (b : Nat) : State :=
  State.each (List.range s.coreCount) (fun c s =>
    State.each ((s.core c).busy.filter (fun q => q.wait.onBinding b)) (fun q s => s.breakWait c q) s) s

/-- A binding breaks: R232. -/
def State.breakBinding (s : State) (b : Nat) : State :=
  if !s.bindOn b || s.bindBroken b then s
  else
    let s := s.setBit (Reg.HARN_BIND b) 23 true
    let s := State.each (List.range 8) (State.discardRing b) (s.breakWaits b)
    let cs := (List.range s.coreCount).filter (fun c => (List.range 8).any (fun n => s.ringOn b n &&
      ((s.ringSrc b n == c && s.ringSender b n != none) || (s.ringDst b n == c && s.ringReceiver b n != none))))
    let s := State.each (cs.filter (fun c => !(s.bit (Reg.HX_FAULT c) 2))) (fun c s => s.raise (.core c .hx) 2) s
    (s.raise .harn 4 (b * 2 ^ 8)).fire (128 + b)

/-- The remote bindings whose route no longer stands, or whose peer breaks its set, break: R232, R388. -/
def State.breakRemote (s : State) : State :=
  State.each ((List.range 4).filter (fun b => s.bindOn b && s.bindRemote b && (!s.routeOpen (s.bindFld b 9 11) || s.breaksSet (s.bindFld b 9 11)))) (fun b s => s.breakBinding b) s

/-- A ring as it stands when it is enabled: R228. -/
def State.startRing (s : State) (b n : Nat) : State :=
  let s := s.setReg (Reg.HARN_RING_CREDIT b n) 0
  s.setRing b n { credits := s.ringSlots b n }

/-- A tally window cleared: zero, without marks (R221). -/
def State.clearWindow (s : State) (c : Nat) : State :=
  let b := s.fld (Reg.HARN_WIN c) 0 25
  let n := 64 * s.fld (Reg.HARN_WIN c) 32 19
  if n = 0 then s
  else
    let s := s.modCore c (fun k => { k with
      merge := k.merge.filter (fun e => decide (8 * e.word + 8 ≤ b) || decide (b + n ≤ 8 * e.word))
      flipped := k.flipped.filter (fun e => decide (8 * e.word + 8 ≤ b) || decide (b + n ≤ 8 * e.word)) })
    let lo := sramBase c + b
    { s with mem := memZero s.mem lo n, poison := s.poison.filter (fun l => decide (l * 64 < lo) || decide (lo + n ≤ l * 64)) }

end Sys2Proof.Machine
end

