-- ==== Sys2Proof/Machine/Place.lean ====
section
/-! DEFINITION. Machine/Place.lean: where the stewards put what they place in program memory (R187, R349, R361): any 64-byte-aligned place that
no other run occupies, at or below DRAM_LIMIT. Which one is a free value: `Config.place` picks among those that will do. -/

namespace Sys2Proof.Machine

open Sys2Proof

/-- A run put in its place by base. -/
def byBase (r : Nat × Nat) : List (Nat × Nat) → List (Nat × Nat)
  | [] => [r]
  | q :: t => if r.1 < q.1 then r :: q :: t else q :: byBase r t

/-- The free gaps from `lo` up to `hi` beside runs in ascending order. -/
def gaps : Nat → Nat → List (Nat × Nat) → List (Nat × Nat)
  | lo, hi, [] => [(lo, hi)]
  | lo, hi, r :: t => (lo, min hi r.1) :: gaps (max lo (r.1 + r.2)) hi t

/-- How many 64-byte-aligned places of `n` bytes a gap has. -/
def placesIn (n : Nat) (g : Nat × Nat) : Nat := if up64 g.1 + n ≤ g.2 then (g.2 - up64 g.1 - n) / 64 + 1 else 0

/-- The `k`-th place of `n` bytes in the gaps. -/
def nthPlace (n : Nat) : Nat → List (Nat × Nat) → Option Nat
  | _, [] => none
  | k, g :: t => let m := placesIn n g; if k < m then some (up64 g.1 + 64 * k) else nthPlace n (k - m) t

/-- The lowest address of a pool of `n` units of 8 GiB: R140, R141. -/
def poolBase (n : Nat) : Nat := 0xFA00000000 - n * 0x200000000

/-- Where the stewards stop placing: DRAM_LIMIT, or the limit that a pool growth they have accepted will leave (R142). -/
def State.placeEnd (s : State) : Nat := min (s.dramLimit + 1) (poolBase (Machine.fld (s.shadowOf Reg.DRAM_POOL_CTL) 0 6))

/-- The free gaps of program memory. -/
def State.memGaps (s : State) : List (Nat × Nat) :=
  gaps dramBase s.placeEnd ((s.allRuns.filter (fun r => r.2.2 != 0)).foldl (fun l r => byBase r.2 l) [])

/-- A place of `n` bytes for partition `p`, if there is one: which one is free. -/
def State.findPlace (s : State) (p n : Nat) : Option Nat :=
  let gs := s.memGaps
  let m := (gs.map (placesIn n)).foldl (· + ·) 0
  if m = 0 then none else nthPlace n (Config.place p n s.free % m) gs

/-- The place taken: a reserved run of program memory. -/
def State.takePlace (s : State) (p base n : Nat) (kind : AllocKind) (key : Nat) : State :=
  { s with allocs := s.allocs ++ [⟨p, base, n, kind, key⟩], free := s.free + 1 }

/-- Reserved runs of a kind and key given back. -/
def State.dropPlace (s : State) (kind : AllocKind) (key : Nat) : State :=
  { s with allocs := s.allocs.filter (fun a => !(a.kind == kind && a.key == key)) }

/-- The key of a job's argument region. -/
def jobKey (n : NHdr) : Nat := n.ctrl.toNat * 2 ^ 32 + n.sqid.toNat * 2 ^ 16 + n.cid.toNat

/-- The key of a program's regions. -/
def progKey (nsid index : Nat) : Nat := nsid * 2 ^ 16 + index

end Sys2Proof.Machine
end

