-- ==== Sys2Proof/Machine/Sha3.lean ====
section
/-! DEFINITION. Machine/Sha3.lean: SHA3-256 and SHA3-512 of FIPS 202, which R187, R258, R441, R444, R447 to R449 and R452 name, and the two
extendable-output functions on which ML-DSA rests. -/

namespace Sys2Proof.Machine

open Sys2Proof

/-- A lane of the Keccak state. -/
def lane (a : List Word) (x y : Nat) : Word := a.getD (x % 5 + 5 * (y % 5)) 0

/-- A word rotated left. -/
def rotW (w : Word) (n : Nat) : Word := w.rotateLeft (n % 64)

/-- The rotation of lane (x, y), in order x + 5y. -/
def keccakRot : List Nat :=
  [0, 1, 62, 28, 27, 36, 44, 6, 55, 20, 3, 10, 43, 25, 39, 41, 45, 15, 21, 8, 18, 2, 61, 56, 14]

/-- The round constants. -/
def keccakRc : List Word :=
  [0x0000000000000001, 0x0000000000008082, 0x800000000000808A, 0x8000000080008000, 0x000000000000808B, 0x0000000080000001,
   0x8000000080008081, 0x8000000000008009, 0x000000000000008A, 0x0000000000000088, 0x0000000080008009, 0x000000008000000A] ++
  [0x000000008000808B, 0x800000000000008B, 0x8000000000008089, 0x8000000000008003, 0x8000000000008002, 0x8000000000000080,
   0x000000000000800A, 0x800000008000000A, 0x8000000080008081, 0x8000000000008080, 0x0000000080000001, 0x8000000080008008]

/-- One round. -/
def keccakRound (a : List Word) (rc : Word) : List Word :=
  let c := (List.range 5).map (fun x => lane a x 0 ^^^ lane a x 1 ^^^ lane a x 2 ^^^ lane a x 3 ^^^ lane a x 4)
  let d := (List.range 5).map (fun x => c.getD ((x + 4) % 5) 0 ^^^ rotW (c.getD ((x + 1) % 5) 0) 1)
  let a := (List.range 25).map (fun i => a.getD i 0 ^^^ d.getD (i % 5) 0)
  -- lane (x, y) of the permuted state comes from lane (x + 3y, x)
  let b := (List.range 25).map (fun i =>
    let x := i % 5
    let y := i / 5
    let j := (x + 3 * y) % 5 + 5 * x
    rotW (a.getD j 0) (keccakRot.getD j 0))
  let e := (List.range 25).map (fun i =>
    let x := i % 5
    let y := i / 5
    lane b x y ^^^ (~~~ lane b (x + 1) y &&& lane b (x + 2) y))
  e.set 0 (e.getD 0 0 ^^^ rc)

/-- Keccak-f[1600]. -/
def keccakF (a : List Word) : List Word := keccakRc.foldl keccakRound a

/-- A block of `rate` bytes taken in. -/
def absorb (rate : Nat) (a : List Word) (blk : List Byte) : List Word :=
  keccakF ((List.range 25).map (fun i =>
    if 8 * i < rate then a.getD i 0 ^^^ BitVec.ofNat 64 (leNat ((blk.drop (8 * i)).take 8)) else a.getD i 0))

/-- The message with a domain suffix (6 for SHA3, 31 for SHAKE) and the padding, to a multiple of the rate. -/
def keccakPad (suffix rate : Nat) (m : List Byte) : List Byte :=
  let n := rate - m.length % rate
  if n = 1 then m ++ [BitVec.ofNat 8 (suffix + 128)] else m ++ [BitVec.ofNat 8 suffix] ++ List.replicate (n - 2) 0 ++ [0x80]

/-- The Keccak state once a message is taken in. -/
def sponge (suffix rate : Nat) (m : List Byte) : List Word :=
  let p := keccakPad suffix rate m
  (chunksOf rate p.length p).foldl (absorb rate) (List.replicate 25 0)

/-- The bytes of a Keccak state. -/
def keccakBytes (a : List Word) : List Byte := a.flatMap (fun w => leBytes 8 w.toNat)

/-- SHA3 with a digest of `n` bytes. -/
def sha3 (n : Nat) (m : List Byte) : List Byte := (keccakBytes (sponge 6 (200 - 2 * n) m)).take n

def sha3_256 (m : List Byte) : List Byte := sha3 32 m

def sha3_512 (m : List Byte) : List Byte := sha3 64 m

/-- So many blocks squeezed out. -/
def squeeze (rate : Nat) : Nat → List Word → List Byte
  | 0, _ => []
  | f + 1, a => (keccakBytes a).take rate ++ squeeze rate f (keccakF a)

/-- `n` bytes of SHAKE128, and of SHAKE256. -/
def shake128 (n : Nat) (m : List Byte) : List Byte := (squeeze 168 (n / 168 + 1) (sponge 31 168 m)).take n

def shake256 (n : Nat) (m : List Byte) : List Byte := (squeeze 136 (n / 136 + 1) (sponge 31 136 m)).take n

end Sys2Proof.Machine
end

