-- ==== Sys2Proof/Machine/Serving.lean ====
section
/-! DEFINITION. Machine/Serving.lean: KV blocks and their ledger, prefix lookup, requests and their fates (R250 to R269). -/

namespace Sys2Proof.Machine

open Sys2Proof

/-! ### Pools and blocks (R254 to R256) -/

def State.poolOn (s : State) (q : Nat) : Bool := s.bit (Reg.SRV_POOL q) 0

/-- Blocks in pool `q`. -/
def State.poolBlocks (s : State) (q : Nat) : Nat := s.fld (Reg.SRV_POOL q) 24 24

/-- The blocks of pool `q` that are not free. -/
def State.blks (s : State) (q : Nat) : Sparse KvBlk := sget [] s.serving.pools q

def State.blk (s : State) (q b : Nat) : KvBlk := sget {} (s.blks q) b

def State.setBlk (s : State) (q b : Nat) (v : KvBlk) : State :=
  { s with serving := { s.serving with pools := sput [] s.serving.pools q (sput {} (s.blks q) b v) } }

/-- A block that changes its ledger term: R255. -/
def State.moveBlk (s : State) (q b : Nat) (v : KvBlk) : State := (s.setBlk q b v).tick 4

/-- Blocks of pool `q` in escrow. -/
def State.escrowCount (s : State) (q : Nat) : Nat := ((s.blks q).filter (fun e => e.2.st == .escrow)).length

/-- Blocks of pool `q` that are committed. -/
def State.commitCount (s : State) (q : Nat) : Nat := ((s.blks q).filter (fun e => e.2.st != .escrow && e.2.st != .free)).length

/-- Whether a block is cached: sealed, with no reference (R255). -/
def KvBlk.cached (b : KvBlk) : Bool := b.st == .sealed && b.refs == 0

/-- Cached blocks of pool `q`. -/
def State.cachedCount (s : State) (q : Nat) : Nat := ((s.blks q).filter (fun e => e.2.cached)).length

/-- The lowest number at or above `k` that a map does not list. -/
def lowestGap {α : Type} : Nat → List (Nat × α) → Nat
  | k, [] => k
  | k, e :: r => if e.1 = k then lowestGap (k + 1) r else k

/-- A cached block and every cached block whose chain passes through it, freed: R256. `fuel` is the number of listed blocks. -/
def State.reclaimFrom : Nat → Nat → Nat → State → State
  | 0, _, _, s => s
  | f + 1, q, b, s =>
    let s := (s.moveBlk q b {}).addReg (Reg.SRV_RECLAIM q) 1
    State.each (((s.blks q).filter (fun e => e.2.pred == some b && e.2.cached)).map Prod.fst) (fun d s => State.reclaimFrom f q d s) s

/-- The cached block released longest ago, the lower number at a tie: R256. -/
def State.oldestCached (s : State) (q : Nat) : Option Nat :=
  (((s.blks q).filter (fun e => e.2.cached)).foldl (fun (best : Option (Nat × Nat)) e =>
    match best with
    | none => some (e.1, e.2.released)
    | some b => if e.2.released < b.2 then some (e.1, e.2.released) else some b) none).map Prod.fst

/-- One block allocated in state `st`: the lowest-numbered free one, after a reclaim when none is free (R256). -/
def State.allocBlk (s : State) (q : Nat) (st : BlkSt) : Option (Nat × State) :=
  let b := lowestGap 0 (s.blks q)
  if b < s.poolBlocks q then some (b, s.moveBlk q b { st := st })
  else
    match s.oldestCached q with
    | some o =>
      let s := State.reclaimFrom (s.blks q).length q o s
      let b := lowestGap 0 (s.blks q)
      some (b, s.moveBlk q b { st := st })
    | none => none

/-- Blocks that can still be had from pool `q`: free and cached. -/
def State.canAlloc (s : State) (q n : Nat) : Bool :=
  decide (n ≤ s.poolBlocks q - s.commitCount q - s.escrowCount q + s.cachedCount q)

/-- One reference to a block dropped: a tail or escrow block becomes free, a sealed one loses a count and is cached at zero (R257). -/
def State.releaseBlk (q b : Nat) (s : State) : State :=
  let v := s.blk q b
  match v.st with
  | .sealed =>
    if v.refs ≤ 1 then s.setBlk q b { v with refs := 0, released := s.serving.relSeq } else s.setBlk q b { v with refs := v.refs - 1 }
  | .free => s
  | .tail _ | .escrow => s.moveBlk q b {}

/-! ### The chain hash and lookup (R258 to R260) -/

/-- h[i] of R258. -/
def chainHash (h model variant : Nat) (toks : List (BitVec 32)) : Nat :=
  leNat ((sha3_256 (leBytes 8 h ++ leBytes 1 model ++ leBytes 2 variant ++ toks.flatMap (fun t => leBytes 4 t.toNat))).take 8)

/-- The 64 tokens of positions 64i on, from a request's token buffer. -/
def State.blkTokens (s : State) (r : Request) (i : Nat) : List (BitVec 32) :=
  (elems 4 (s.dramRead (r.tokens + 256 * i) 256)).map (BitVec.ofNat 32)

/-- The listed block of a pool that matches hash `h`, and whether it passes the comparison of R259. -/
def State.lookup (s : State) (q h variant : Nat) (pred : Option Nat) (toks : List (BitVec 32)) : Option Nat × Bool :=
  let hits := (s.blks q).filter (fun e => e.2.st == .sealed && e.2.listed && e.2.hash == h)
  match hits.find? (fun e => e.2.variant == variant && e.2.pred == pred && e.2.tokens == toks) with
  | some e => (some e.1, true)
  | none => (none, !hits.isEmpty)

/-- Prefix blocks confirmed from block `i` on, `n` at most: each takes a reference (R257, R259). -/
def State.confirm (r : Request) (q : Nat) : Nat → Nat → Nat → Option Nat → State → List Nat × State
  | 0, _, _, _, s => ([], s)
  | n + 1, i, h, pred, s =>
    let toks := s.blkTokens r i
    let h := chainHash h (s.fld (Reg.SRV_POOL q) 4 8) r.variant toks
    let s := s.addReg (Reg.SRV_LOOKUP q) 1
    match s.lookup q h r.variant pred toks with
    | (some b, _) =>
      let v := s.blk q b
      let s := (s.setBlk q b { v with refs := v.refs + 1 }).addReg (Reg.SRV_HIT q) 1
      let t := State.confirm r q n (i + 1) h (some b) s
      (b :: t.1, t.2)
    | (none, hit) => ([], if hit then s.addReg (Reg.SRV_COLLIDE q) 1 else s)

/-- A tail sealed as block `i` of a request: it enters the lookup table unless an equal one stands there (R257, R260). -/
def State.seal (s : State) (r : Request) (q i b : Nat) (blks : List Nat) : State :=
  let pred := if i = 0 then none else blks[i - 1]?
  let h0 := match pred with
    | some p => (s.blk q p).hash
    | none => 0
  let toks := s.blkTokens r i
  let h := chainHash h0 (s.fld (Reg.SRV_POOL q) 4 8) r.variant toks
  let dup := (s.blks q).any (fun e => e.2.listed && e.2.hash == h && e.2.pred == pred && e.2.tokens == toks)
  s.setBlk q b { st := .sealed, refs := 1, hash := h, pred := pred, variant := r.variant, tokens := toks, listed := !dup }

/-! ### Requests -/

/-- A request of a job by its tag. -/
def State.modReq (s : State) (n : NHdr) (f : Request → Request) : State :=
  { s with serving := { s.serving with reqs := s.serving.reqs.map (fun r => if r.n == n then f r else r) } }

/-- The requests of a job, in admission order. -/
def State.reqsOf (s : State) (job : NHdr) : List Request := s.serving.reqs.filter (fun r => r.job == job)

/-- The completion record of R359. -/
def reqRecord (r : Request) (ended : Nat) : List Byte :=
  leBytes 4 r.tag.toNat ++ leBytes 1 ended ++ leBytes 3 0 ++ leBytes 4 r.emitted ++ leBytes 4 r.verif ++ leBytes 4 r.sumD ++
  leBytes 4 r.sumA ++ leBytes 4 r.switches ++ leBytes 4 r.confirmed ++ List.replicate 32 0

/-- Every block a request holds released, all at one time (R256, R257). -/
def State.releaseReq (s : State) (r : Request) : State :=
  let s := State.each r.mblks (State.releaseBlk r.mainPool) s
  let s := State.each r.dblks (State.releaseBlk r.draftPool) s
  { s with serving := { s.serving with relSeq := s.serving.relSeq + 1 } }

/-- A request ends with a status: its blocks take their fates and its record is written (R257, R359). Batches that had stalled may run again
(R267). -/
def State.endReq (s : State) (r : Request) (ended sct sc : Nat) : State :=
  let s := s.releaseReq r
  let s := { s with serving := { s.serving with reqs := s.serving.reqs.filter (fun q => q.n != r.n) }
                    jobs := s.jobs.map (fun (j : Job) => { j with stalled := false }) }
  s.complete r.n sct sc 0 0 (reqRecord r ended)

/-- Every live request of a job ends with it, failed or aborted: R269, R434. -/
def State.endJobReqs (s : State) (job : NHdr) (ended sct sc : Nat) : State :=
  State.each (s.reqsOf job) (fun r s => s.endReq r ended sct sc) s

/-- Pool `q` disabled at a boundary: every request naming it fails and every block is free (R257). -/
def State.disablePool (s : State) (q : Nat) : State :=
  let hit := s.serving.reqs.filter (fun r => r.mainPool == q || (r.draftPool == q && r.draftPool != 255))
  let s := State.each hit (fun r s => s.endReq r 3 7 0xC7) s
  let n := (s.blks q).length
  { s with serving := { s.serving with pools := sdel s.serving.pools q } }.tick 4 n

/-! ### A step's blocks (R257, R266, R267) -/

/-- Blocks allocated for positions up to `last`: those that hold position `p` or an earlier one as committed tails, the rest as escrow. -/
def State.growTo (q p last : Nat) : Nat → List Nat → State → Option (List Nat × State)
  | 0, bs, s => some (bs, s)
  | f + 1, bs, s =>
    if last / 64 < bs.length then some (bs, s)
    else
      match s.allocBlk q (if p < 64 * bs.length then .escrow else .tail 0) with
      | some r => State.growTo q p last f (bs ++ [r.1]) r.2
      | none => none

/-- Rows committed up to position `upTo` in a request's blocks: full tails are sealed, escrow blocks that hold a committed row become tails,
the others are released (R257). -/
def State.commitRows (r : Request) (q upTo : Nat) : Nat → List Nat → List Nat → State → List Nat × State
  | _, _, [], s => ([], s)
  | i, before, b :: rest, s =>
    let fill := min 64 (upTo + 1 - 64 * i)
    if fill = 0 then
      let s := s.releaseBlk q b
      State.commitRows r q upTo (i + 1) before rest s
    else
      let v := s.blk q b
      let s := match v.st with
        | .sealed | .free => s
        | .escrow =>
          if fill = 64 then (s.seal r q i b before).tick 4 else s.moveBlk q b { v with st := .tail fill }
        | .tail _ => if fill = 64 then s.seal r q i b before else s.setBlk q b { v with st := .tail fill }
      let t := State.commitRows r q upTo (i + 1) (before ++ [b]) rest s
      (b :: t.1, t.2)

end Sys2Proof.Machine
end

