-- ==== Sys2Proof/Machine/Job.lean ====
section
/-! DEFINITION. Machine/Job.lean: steps and jobs. Step entry (R188), the admission FIFO (R47, R48), the end of a step (R188, R434), and what the
end of a job does to its cores, its requests, its frames and its energy (R49, R54, R245, R360, R481). -/

namespace Sys2Proof.Machine

open Sys2Proof

/-! ### The admission FIFO (R47, R48) -/

/-- A partition's FIFO. -/
def State.fifoOf (s : State) (p : Nat) : List FifoEntry := sget [] s.fifo p

def State.setFifo (s : State) (p : Nat) (q : List FifoEntry) : State := { s with fifo := sput [] s.fifo p q }

/-- An entry's declared energy. -/
def FifoEntry.uj : FifoEntry → Nat
  | .step _ d => d
  | .pres _ _ d _ => d

/-- Source 176 + p, asserted while the head of purse p's FIFO waits for cover: R412. -/
def State.headLevel (s : State) (p : Nat) : State :=
  let waits := match s.fifoOf p with
    | e :: _ => decide (s.remaining p < (e.uj : Int)) && decide (e.uj ≤ s.cover p)
    | [] => false
  if waits && !s.srcLevel (176 + p) then s.fire (176 + p)
  else if !waits && s.srcLevel (176 + p) then s.unfire (176 + p)
  else s

/-- An entry put at the end of partition `p`'s FIFO. -/
def State.enqueue (s : State) (p : Nat) (e : FifoEntry) : State := (s.setFifo p (s.fifoOf p ++ [e])).headLevel p

/-! ### Step entry (R188) -/

/-- A core of rank `r` in a job at the entry of a step. -/
def Core.enter (k : Core) (j : Job) (r : Nat) : Core :=
  { k with
    run := .running, held := none, index := (j.prog.steps.getD j.step (0, 0)).1, levels := [], cmp := 0, tok := [], sigs := 0, takes := 0
    ctr := sput 0 (sput 0 [] 0 (BitVec.ofNat 32 r)) 1 (BitVec.ofNat 32 j.cores.length)
    agBase := sput 0 (sput 0 [] 0 (BitVec.ofNat 48 j.prog.data)) 1 (BitVec.ofNat 48 j.argBase)
    agInc := [], queue := [], ended := false, stalled := false }

/-- Every core of a job enters its step: on the core, or in its saved context while the job is switched out. -/
def State.enterStep (s : State) (n : NHdr) : State :=
  match s.job? n with
  | none => s
  | some j =>
    let s := State.each ((List.range j.cores.length).zip j.cores) (fun p s =>
      if j.phase = .out ∨ j.phase = .loading then
        { s with saved := s.saved.map (fun c => if c.job == n && c.core == p.2 then { c with saved := c.saved.enter j p.1 } else c) }
      else s.modCore p.2 (fun k => k.enter j p.1)) s
    s.modJob n (fun j =>
      if j.phase = .out ∨ j.phase = .loading then { j with back := .running } else { j with phase := .running })

/-- A step of job `n` queued for admission with its declared energy: R47. -/
def State.queueStep (s : State) (n : NHdr) : State :=
  match s.job? n with
  | none => s
  | some j =>
    let d := (j.prog.steps.getD j.step (0, 0)).2
    (s.modJob n (fun j => { j with phase := .queued, declared := d })).enqueue j.part (.step n d)

/-! ### Cores leaving a job (R481) -/

/-- Started instructions that outlive their job: GX transactions and collectives, which end under R214. -/
def Busy.lingers (b : Busy) : Bool :=
  match b.wait with
  | .gx _ | .coll _ _ => true
  | _ => false

/-- A core given up by its job: queued instructions discarded, streams and prefetches ended with their slots free, lace credits returned
(R119, R134, R293, R481). It is idle at once when no GX transaction or collective of it lingers. A core of a partition of an enabled binding
returns to the pool only when that is disabled (R221). -/
def State.freeCore (c : Nat) (s : State) : State :=
  let k := s.core c
  let s := if k.filled + k.draining = 0 then s else s.tick 2 (k.filled + k.draining)
  let s := State.each k.lace (fun e s =>
    let v := e.2
    if v.granted = 0 then s
    else (s.setFld (Reg.DX_LACE_CREDIT c e.1) 32 32 (s.fld (Reg.DX_LACE_CREDIT c e.1) 32 32 + v.granted)).tick 1 v.granted) s
  let s := State.each k.busy Busy.release s
  let rest := k.busy.filter Busy.lingers
  s.setCore c { k with
    run := if rest.isEmpty then .idle else .running, held := none, levels := [], queue := [], busy := rest, ended := !rest.isEmpty, streams := []
    prefetch := [], filled := 0, draining := 0, lace := [], stalled := false, job := if rest.isEmpty then none else k.job
    kept := k.kept || ((s.partOf c).bind s.bindingOf).isSome }

/-! ### The end of a job -/

/-- The status a failed job completes with: R361, R362. -/
def FailCause.status : FailCause → Nat × Nat
  | .aborted => (0, 0x07)
  | .weightPoison => (7, 0xC0)
  | .setIncomplete => (7, 0xC1)
  | .poisoned => (7, 0xC3)
  | .energyDecl => (7, 0xC2)
  | .fieldError => (0, 0x02)

/-- A completion that reports energy in DW0 and DW1: R360. -/
def State.completeUj (s : State) (n : NHdr) (st : Nat × Nat) (uj : Nat) : State :=
  s.complete n st.1 st.2 (uj % 2 ^ 32) (uj / 2 ^ 32 % 2 ^ 32)

/-- Frame ring `r`. -/
def State.fring (s : State) (r : Nat) : FrameRing := sget {} s.serving.frames r

def State.setFring (s : State) (r : Nat) (v : FrameRing) : State :=
  { s with serving := { s.serving with frames := sput {} s.serving.frames r v } }

/-- Where slot `k` of ring `r` lies. -/
def State.frameSlot (s : State) (r k : Nat) : Nat := s.fld (Reg.FRM_BASE r) 0 48 + k * s.fld (Reg.FRM_CTL r) 12 20 * 4096

/-- The step entry of a job's oldest accepted frame, once the job awaits an entry: the frame's words are written at A1, and its step is queued
(R272). -/
def State.enterFrame (s : State) (n : NHdr) : State :=
  match (s.job? n).filter (fun j => j.phase == .needEntry) with
  | none => s
  | some j =>
    match j.frames with
    | [] => s
    | r :: _ =>
      match (s.fring r).run with
      | none => s
      | some f =>
        let v := s.fring r
        let s := s.setFring r { v with run := some { f with spent0 := some j.spent } }
        let bytes := leBytes 8 f.frame.toNat ++ leBytes 8 (s.frameSlot r f.slot) ++ leBytes 8 v.param.toNat ++ List.replicate 40 0
        let s := (s.dramWrite j.argBase bytes).chargeHouse 4 1
        (s.modJob n (fun k => { k with step := s.fld (Reg.FRM_CTL r) 32 8, stepNo := k.stepNo + 1 })).queueStep n

/-- The energy of a frame's step so far: R360. -/
def Frame.energy (f : Frame) (j : Job) : Nat := match f.spent0 with
  | some e => j.spent - e
  | none => 0

/-- A ring whose job ends: its pending and running frames complete with the job's status, and it is unbound (R274). -/
def State.endRing (s : State) (r : Nat) (j : Job) (st : Nat × Nat) : State :=
  let v := s.fring r
  let s := match v.run with
    | some f => s.completeUj f.n st (f.energy j)
    | none => s
  let s := State.each v.pend (fun f s => s.completeUj f.n st 0) s
  s.setFring r { v with job := none, pend := [], run := none }

/-- The reduction slots of a job: those whose group names its partition and a core of it (R245). -/
def State.slotsOfJob (s : State) (j : Job) : List Nat :=
  (List.range 16).filter (fun i =>
    s.bit (Reg.HARN_REDUCE i) 0 &&
      (let g := s.fld (Reg.HARN_REDUCE i) 1 8
       s.fld (Reg.GIRTH_GROUP g) 56 3 == j.part && j.cores.contains (s.fld (Reg.GIRTH_GROUP g) 51 5)))

/-- A job gone, its cores idle: its reservation returns, its argument region is given up, and the command completes with its energy (R49, R54,
R360). -/
def State.finishJob (s : State) (n : NHdr) (st : Nat × Nat) : State :=
  let s := s.release n
  match s.job? n with
  | some j =>
    let s := { s with jobs := s.jobs.filter (fun k => k.n != n) }
    ((s.dropPlace .args (jobKey n)).completeUj n st j.spent).headLevel j.part
  | none => s

/-- What every end of a job does: its FIFO entries leave, its cores, contexts and rings are given up, and the job completes, or goes on dying while
GX transactions of its cores linger (R49, R54, R217, R245, R274, R360, R481). -/
def State.closeJob (s : State) (j : Job) (st : Nat × Nat) : State :=
  let mine := fun (e : FifoEntry) => match e with
    | .step n _ => n == j.n
    | .pres n _ _ _ => n == some j.n
  let s := s.setFifo j.part ((s.fifoOf j.part).filter (fun e => !mine e))
  let s := State.each (s.slotsOfJob j) (fun i s => s.dropCarries i) s
  let s := if j.phase = .out then s else State.each j.cores State.freeCore s
  let spent := match s.job? j.n with
    | some k => k.spent
    | none => j.spent
  let s := State.each (bitsOf 8 j.rings) (fun r s => s.endRing r { j with spent := spent } st) s
  let s := State.each ((s.saved.filter (fun c => c.job == j.n)).flatMap (fun c => c.saved.busy)) Busy.release s
  let s := { s with saved := s.saved.filter (fun c => c.job != j.n) }
  if j.phase != .out && j.cores.any (fun c => (s.core c).job == some j.n) then
    (s.modJob j.n (fun k => { k with phase := .dying, ending := st })).headLevel j.part
  else s.finishJob j.n st

/-- A job fails or is cancelled: R232, R269, R434, R481. -/
def State.failJob (s : State) (n : NHdr) (cause : FailCause) : State :=
  match (s.job? n).filter (fun j => j.phase != .dying) with
  | none => s
  | some j =>
    -- a job whose collective met an incomplete set fails with that status where it would fail for the poison of its lines (R361, R434)
    let st := (if cause = .poisoned ∧ j.incomplete = true then FailCause.setIncomplete else cause).status
    let s := match s.bindingOf j.part with
      | some b => s.breakBinding b
      | none => s
    let s := s.endJobReqs n (if cause = .aborted then 2 else 3) st.1 st.2
    s.closeJob j st

/-- The job on core `c` fails. -/
def State.failCore (s : State) (c : Nat) (cause : FailCause) : State :=
  match (s.core c).job with
  | some n => s.failJob n cause
  | none => s

/-- The end of a step: its reservation returns; a poisoned job fails; a serving or frame job awaits the stewards; any other job queues its next
step or completes (R49, R188, R361, R434). -/
def State.stepEnd (s : State) (n : NHdr) : State :=
  match s.job? n with
  | none => s
  | some j =>
    let s := s.release n
    if j.poison then s.failJob n .poisoned
    else
      let s := State.each j.cores (fun c s => s.modCore c (fun k => { k with run := .idle })) s
      if j.serving || j.rings != 0 then (s.modJob n (fun j => { j with phase := .ended })).fire (160 + j.part)
      else if j.step + 1 < j.prog.steps.length then (s.modJob n (fun j => { j with step := j.step + 1 })).queueStep n
      else s.closeJob j (0, 0)

/-- Whether every core of a job has retired END. -/
def State.allEnded (s : State) (n : NHdr) : Bool :=
  match s.job? n with
  | some j => j.cores.all (fun c => (s.core c).ended)
  | none => false

/-- END retired on core `c`: the step ends once every core of the job has (R188). -/
def State.endRetired (s : State) (c : Nat) : State :=
  let s := s.modCore c (fun k => { k with held := none, ended := true, run := .idle, stalled := false })
  match (s.core c).job with
  | some n => if s.allEnded n then s.stepEnd n else s
  | none => s

/-- Whether nothing issued on the core is still to retire. -/
def Core.drained (k : Core) : Bool := k.queue.isEmpty && k.busy.isEmpty && k.streams.isEmpty

/-- A core of a dying job on which nothing lingers any more is idle; with the last of them the job is over (R481). -/
def State.coreDies (s : State) (c : Nat) (j : Job) : State :=
  let s := s.modCore c (fun k => { k with run := .idle, ended := false, job := none })
  if j.cores.any (fun d => (s.core d).job == some j.n) then s else s.finishJob j.n j.ending

/-- An END or a poisoned counter load that waited for earlier instructions goes on when the last has retired (R173, R188), and so does the end of
a dying job. -/
def State.settle (s : State) (c : Nat) : State :=
  let k := s.core c
  if !k.drained then s
  else if k.ended then
    match s.jobOn c with
    | some j => if j.phase = .dying then s.coreDies c j else s
    | none => s
  else
    match k.held with
    | some (.atEnd false) => s.endRetired c
    | some .poisoned => s.failCore c .poisoned
    | _ => s

/-! ### Admission (R47 to R50) -/

/-- A PRES of job `n` that waited in the FIFO retires with its status, on its core or in the saved context: R217. A status that a tally window
covers is not written (R227). -/
def State.presDone (s : State) (n : Option NHdr) (c addr status : Nat) : State :=
  let done := fun (k : Core) => { k with busy := k.busy.map (fun b => if b.wait == .pres then { b with wait := .done } else b), stalled := false }
  if s.saved.any (fun v => some v.job == n && v.core == c) then
    { s with saved := s.saved.map (fun v =>
        if some v.job == n && v.core == c then
          { v with saved := done v.saved
                   bytes := memPut v.bytes (sramBase c + addr) (leBytes 4 status)
                   valid := setAdd v.valid ((sramBase c + addr) / 64) } else v) }
  else (s.opWrite { core := c, idx := 0, gens := [], ctrs := [] } .seq addr (leBytes 4 status)).modCore c done

/-- The head of partition `p`'s FIFO considered: above cover it fails or retires with status 1, covered it is admitted, else it waits (R47, R48,
R217). -/
def State.admitHead (s : State) (p : Nat) : State :=
  match s.fifoOf p with
  | [] => s
  | e :: rest =>
    if s.cover p < e.uj then
      match e with
      | .step n _ => s.failJob n .energyDecl
      | .pres n c _ a => ((s.setFifo p rest).presDone n c a 1).headLevel p
    else if s.remaining p < (e.uj : Int) then s.headLevel p
    else
      let s := (s.setFifo p rest).reserve p e.uj
      match e with
      | .step n d => ((s.modJob n (fun j => { j with reserved := j.reserved + d })).enterStep n).headLevel p
      | .pres n c d a =>
        let s := match n with
          | some n => s.modJob n (fun j => { j with reserved := j.reserved + d, declared := j.declared + d })
          | none => s
        (s.presDone n c a 0).headLevel p

end Sys2Proof.Machine
end

