-- ==== Sys2Proof/Machine/Hub.lean ====
section
/-! DEFINITION. Machine/Hub.lean: the services of the hub that a core's program calls: media requests (R215, R216) and the purse (R217). -/

namespace Sys2Proof.Machine

open Sys2Proof

/-! ### Media requests -/

/-- The three media instructions. -/
inductive MediaOp where
  | rd | wr | app
  deriving DecidableEq, Repr

/-- A media request: R215. -/
structure MediaReq where
  nsid : Nat
  nlb  : Nat
  slba : Nat
  buf  : Nat
  rsv  : Bool
  deriving DecidableEq, Repr

def MediaReq.ofBytes (b : List Byte) : MediaReq :=
  let u := fun o n => leNat ((b.drop o).take n)
  { nsid := u 0 4, nlb := u 4 4, slba := u 8 8, buf := u 16 8, rsv := ((b.drop 28).take 4 ++ b.drop 40).any (· != 0) }

/-- Status, and alba for MAPP, written into the request at retirement: R216. The line is one SRAM access (R52). -/
def State.mediaStatus (s : State) (x : Ctx) (o status : Nat) (alba : Option Nat) : State :=
  let s := (s.chargeCore x.core 3 1).opWrite x .sram (o + 24) (leBytes 4 status)
  match alba with
  | some a => s.opWrite x .sram (o + 32) (leBytes 8 a)
  | none => s

/-- Lines put into buf, in an SRAM window or in DRAM; a forbidden address takes none and is the media block's violation (R137, R216). -/
def State.toBuf (s : State) (x : Ctx) (buf : Nat) (bs : List Byte) (poison : Bool) : State :=
  State.each (linePieces (bs.length + 1) buf bs) (fun p s =>
    let r := s.outerWrite x .sram p.1 p.2 poison
    if r.1 then r.2.mediaViolate 1 0 else r.2) s

/-- Lines taken from buf, with their poison marks. -/
def State.fromBuf (x : Ctx) : Nat → Nat → Nat → State → MarkedLines × State
  | 0, _, _, s => ([], s)
  | f + 1, a, n, s =>
    if n = 0 then ([], s)
    else
      let k := min n (64 - a % 64)
      let r := s.outerRead x .sram a k .clean []
      let t := State.fromBuf x f (a + k) (n - k) (if r.1.viol then r.2.mediaViolate 1 0 else r.2)
      ((r.1.bytes, r.1.poison) :: t.1, t.2)

/-- The logical blocks, numbered from `lo` bytes on, in which marked lines lie: R159. -/
def markedBlocks : Nat → MarkedLines → List Nat
  | _, [] => []
  | lo, l :: r => (if l.2 then [lo / lbaBytes] else []) ++ markedBlocks (lo + l.1.length) r

/-- A media violation: status DONE, a read filled with zeros, a write storing nothing (R216). -/
def State.mediaBad (s : State) (x : Ctx) (op : MediaOp) (o : Nat) (r : MediaReq) : State :=
  let s := s.mediaViolate 1 0
  let s := if op = .rd then s.toBuf x r.buf (List.replicate (lbaBytes * min r.nlb 4096) 0) false else s
  s.mediaStatus x o 0 none

/-- A write to a media-direct zone taken up, to be complete once every page of it has passed (R327): its number. -/
def State.queueWrite (s : State) (nsid z lo n : Nat) (w : WriteOwner) : Nat × State :=
  let m := s.media
  (m.writeNo, { s with media := { m with writes := m.writes ++ [⟨m.writeNo, nsid, z, lo, n, w⟩], writeNo := m.writeNo + 1 } })

/-- The whole of a media request, when the hub takes it up, and what its retirement waits for. -/
def State.mediaServe (s : State) (x : Ctx) (op : MediaOp) (o : Nat) (r : MediaReq) : BusyWait × State :=
  let c := x.core
  let p := s.payer c
  match s.ns? r.nsid with
  | none => (.done, s.mediaBad x op o r)
  | some v =>
    let z := r.slba / zoneSize v.kind
    let w := v.zone z
    let bytes := lbaBytes * r.nlb
    let inBuf := match s.tier r.buf with
      | .sram _ _ | .dram => true
      | _ => false
    if !s.nsOfPart v p || !v.blocky || !inBuf || (op != .app && !v.inside r.slba r.nlb) then (.done, s.mediaBad x op o r)
    else
      match op with
      | .rd =>
        let s := (s.useMaps r.nsid v r.slba r.nlb).chargeCore c 5 (s.pagesRead v r.slba r.nlb)
        let s := s.eraseReads (s.erasingPages v r.slba r.nlb)
        if s.readLost r.nsid v r.slba r.nlb then
          let s := { s with media := { s.media with errors := s.media.errors + 1 } }
          (.done, (s.toBuf x r.buf (List.replicate bytes 0) true).mediaStatus x o 1 none)
        else (.done, (s.toBuf x r.buf (s.readBlocks v r.slba r.nlb) false).mediaStatus x o 0 none)
      | .wr | .app =>
        if v.kind ≠ 2 ∨ v.lbas ≤ r.slba ∨ (op = .app ∧ r.slba % zoneSize 2 ≠ 0) then (.done, s.mediaBad x op o r)
        else if s.mediaRo then (.done, s.mediaStatus x o 3 none)
        else if r.nlb % 4 ≠ 0 ∨ !s.zoneWritable v w ∨ zoneCap 2 < w.wp + r.nlb ∨ (op = .wr ∧ r.slba ≠ z * zoneSize 2 + w.wp) then
          (.done, s.mediaStatus x o 2 none)
        else
          let d := State.fromBuf x (bytes / 64 + 2) r.buf bytes s
          let s := d.2.chargeCore c 6 (pagesOver r.slba r.nlb)
          let s := s.zoneWrite r.nsid z (d.1.flatMap Prod.fst) (markedBlocks 0 d.1)
          let q := s.queueWrite r.nsid z w.wp r.nlb (.core c o (if op = .app then some (z * zoneSize 2 + w.wp) else none))
          (.media q.1, q.2)

/-- Whether a media request waits at the dies: a write to a media-direct zone for the last erase of its blocks (R328), a read for an erase that it
may not suspend, or for a map page (R315, R317). -/
def State.mediaWaits (s : State) (x : Ctx) (op : MediaOp) (agr : BitVec 5) (imm : BitVec 24) : Bool :=
  let r := MediaReq.ofBytes (s.opBytes x .sram (lineOp (x.gen agr) imm.toNat) 64)
  match s.ns? r.nsid with
  | none => false
  | some v =>
    match op with
    | .rd => v.inside r.slba r.nlb && decide (r.nlb ≤ 4096) && (s.readWaits v r.slba r.nlb || s.mapWaits r.nsid v r.slba r.nlb)
    | .wr | .app => v.kind == 2 && !(v.zone (r.slba / zoneSize 2)).toErase.isEmpty

/-- MRD, MWR and MAPP started: R192 is the sequencer's to record for what the request's bytes break. -/
def State.startMedia (s : State) (op : MediaOp) (h : Hdr) (agr : BitVec 5) (imm : BitVec 24) (x : Ctx) : State :=
  let c := x.core
  let o := lineOp (x.gen agr) imm.toNat
  let r := MediaReq.ofBytes (s.opBytes x .sram o 64)
  if h.rsv != 0 || r.nlb == 0 || decide (4096 < r.nlb) || r.rsv then (s.seqViolate c 0 (s.pc x)).begin h x .media
  else if beyond o 64 then (s.seqViolate c 0 (s.pc x)).begin h x .media
  else
    let q := ((s.sramCheck c o 64).chargeCore c 3 1).mediaServe x op o r
    q.2.begin h x .media q.1

/-! ### Writes to media-direct zones completed (R327) -/

/-- A write whose every page has passed: the host command completes, the core's request takes its status and may retire, unless its job has been
cancelled. -/
def State.writeDone (q : ZoneWrite) (s : State) : State :=
  let s := { s with media := { s.media with writes := s.media.writes.filter (fun w => w.no != q.no) } }
  match q.owner with
  | .host n d0 d1 => s.ok n d0 d1
  | .core c o a =>
    if (s.core c).busy.any (fun b => b.wait == .media q.no) then
      (s.mediaStatus { core := c, idx := 0, gens := [], ctrs := [] } o 0 a).busyDone c (.media q.no)
    else s

/-- Every write that is now complete, in the order they were taken up. -/
def State.writesDone (s : State) : State := State.each (s.media.writes.filter s.writePassed) State.writeDone s

/-! ### The purse -/

/-- What PREAD writes: R217. -/
def State.purseLine (s : State) (c : Nat) : List Byte :=
  let p := s.payer c
  let j := s.jobOn c
  leBytes 8 (s.reg (Reg.PURSE_LEVEL p)).toNat ++ leBytes 8 (s.reg (Reg.PURSE_RESERVED p)).toNat ++ leBytes 8 (s.reg (Reg.PURSE_SPENT p)).toNat ++
  leBytes 8 (s.reg (Reg.PURSE_GRANTED p)).toNat ++ leBytes 8 (s.reg (Reg.PURSE_RETURNED p)).toNat ++
  leBytes 8 ((j.map Job.spent).getD 0) ++ leBytes 8 ((j.map Job.declared).getD 0) ++ leBytes 8 s.sampleSeq

/-- PREAD started. -/
def State.startPread (s : State) (h : Hdr) (agr : BitVec 5) (x : Ctx) : State :=
  let o := lineOp (x.gen agr) 0
  if beyond o 64 then (s.seqViolate x.core 0 (s.pc x)).begin h x .purse
  else
    let s := if s.touchesWindow x.core o 64 then (s.seqViolate x.core 0 (s.pc x)).harnViolate x.core else s
    (s.opWrite x .seq o (s.purseLine x.core)).begin h x .purse

/-- PRES started: refused at once above cover, else at the end of the partition's FIFO (R47, R48, R217). -/
def State.startPres (s : State) (h : Hdr) (agr : BitVec 5) (ec : BitVec 4) (x : Ctx) : State :=
  let c := x.core
  let o := lineOp (x.gen agr) 0
  let p := s.payer c
  let d := x.ctr ec
  let s := if beyond o 4 then s.seqViolate c 0 (s.pc x) else s
  let s := if s.touchesWindow c o 4 then (s.seqViolate c 0 (s.pc x)).harnViolate c else s
  if (s.asIssued x).cover p < d then (s.opWrite x .seq o (leBytes 4 1)).begin h x .purse
  else (s.begin h x .purse .pres).enqueue p (.pres (s.core c).job c d o)

end Sys2Proof.Machine
end

