-- ==== Sys2Proof/Machine/Mx.lean ====
section
/-! DEFINITION. Machine/Mx.lean: the matrix engine: a tile from its block in SRAM to its drained rows (R67 to R95, R202 to R205), and the code
expander's tables (R81 to R84, R206). A tile takes its operands and writes its rows in the step that starts it. -/

namespace Sys2Proof.Machine

open Sys2Proof

/-! ### The tile block (R203) -/

/-- The fields of a tile block. -/
structure TileBlock where
  act  : Nat
  out  : Nat
  bmap : Nat
  pre  : Nat
  k    : Nat
  rows : Nat
  wgt  : List Nat
  hdr  : List Nat
  meta_ : List Nat
  rsv  : Bool
  deriving DecidableEq, Repr

/-- A block of 128 bytes read. -/
def TileBlock.ofBytes (b : List Byte) : TileBlock :=
  let u := fun o n => leNat ((b.drop o).take n)
  let us := fun o => (List.range 4).map (fun a => u (o + 4 * a) 4)
  { act := u 0 4, out := u 4 4, bmap := u 8 4, pre := u 12 4, k := u 16 4, rows := u 20 2
    wgt := us 32, hdr := us 48, meta_ := us 64
    rsv := ((b.drop 22).take 10 ++ (b.drop 80).take 48).any (· != 0) }

/-- Whether an offset field carries reserved bits: [5:0] or [31:25]. -/
def offRsv (v : Nat) : Bool := decide (v % 64 ≠ 0) || decide (2 ^ 25 ≤ v)

/-- Whether the weights are codes. -/
def mxtCodes (o : MxtOps) : Bool := decide (2 ≤ o.wgtFmt.toNat)

/-- Operand values of MXT that are reserved or forbidden whatever the block holds: R202, R204. -/
def mxtBad (o : MxtOps) : Bool :=
  o.pairing == 3 || o.preload == 3 ||
  (o.pairing != 0 && o.actFmt != 0) ||
  (o.pairing == 1 && o.wgtFmt == 1) ||
  (o.pairing == 2 && o.wgtFmt != 0) ||
  (o.pairing == 0 && o.preload == 1) ||
  (o.sparse && (mxtCodes o || o.pairing != 0))

/-- Values of the block that R204 forbids; fields the instruction does not use may hold anything (R203). -/
def TileBlock.bad (b : TileBlock) (o : MxtOps) : Bool :=
  (b.k == 0 && o.preload == 0) || decide (65536 < b.k) || b.rows == 0 || decide (128 < b.rows) ||
  (o.sparse && b.k % 4 != 0) || b.rsv || offRsv b.act || offRsv b.out || b.wgt.any offRsv ||
  (o.zmap && offRsv b.bmap) || (o.preload != 0 && offRsv b.pre) || (mxtCodes o && b.hdr.any offRsv) || (o.sparse && b.meta_.any offRsv)

/-- The violation of R80: a 16-bit pairing with a long-form drain or preload. -/
def mxtSplit16 (o : MxtOps) : Bool := o.pairing != 0 && (o.drain == 1 || o.preload == 2)

/-! ### Tables (R81 to R84) -/

/-- The bell grid as E4M3: R84. -/
def bellE4m3 : List Nat := [0xB8, 0xB4, 0xB0, 0xAC, 0xA8, 0xA2, 0x98, 0x00, 0x18, 0x22, 0x28, 0x2B, 0x2F, 0x32, 0x35, 0x38]

/-- The same sixteen values as BF16. -/
def bellBf16 : List Nat := bellE4m3.map (fun b => FpFmt.bf16.encode (FpFmt.e4m3.decode b))

/-- Entries of a table kind, and the bytes of each. -/
def tableEntries (kind : Nat) : Nat := if kind < 2 then 16 else 256
def tableWidth (kind : Nat) : Nat := if kind % 2 = 0 then 1 else 2

/-- The residue modulo 7 of an operand's significand: R88. -/
def Fp.residue : Fp → Nat
  | .fin _ m _ => m % 7
  | .nan | .inf _ => 0

/-- A table as it loads, the residue of each entry's significand with it: R81. -/
def Table.load (kind : Nat) (es : List Nat) (poison : Bool) : Table :=
  let f : FpFmt := if kind % 2 = 0 then .e4m3 else .bf16
  ⟨kind, es, es.map (fun e => (f.decode e).residue), poison⟩

/-- MXL: a slot loaded from an image; poisoned lines mark the slot (R206). -/
def State.startMxl (s : State) (h : Hdr) (slot kind g imm : Nat) (x : Ctx) : State :=
  let o := lineOp (x.gens.getD g 0) imm
  let n := tableEntries kind * tableWidth kind
  let s := s.operands x .mx [(o, n)] []
  let t := Table.load kind (elems (tableWidth kind) (s.opBytes x .mx o n)) (s.opPoison x o n)
  (s.modCore x.core (fun k => { k with tables := sins k.tables slot t })).begin h x .mx

/-- MXP: a slot loaded from a preset; 2 and 3 are reserved (R206). -/
def State.startMxp (s : State) (h : Hdr) (slot preset : Nat) (x : Ctx) : State :=
  if 2 ≤ preset then s.noEffect .mx h x .mx
  else
    let t := Table.load preset (if preset = 0 then bellE4m3 else bellBf16) false
    (s.modCore x.core (fun k => { k with tables := sins k.tables slot t })).begin h x .mx

/-! ### A tile -/

/-- A tile operation as it runs: its operands, its block, and where its planes lie. -/
structure MxTile where
  o    : MxtOps
  b    : TileBlock
  act  : Nat
  out  : Nat
  pre  : Nat
  ns   : List Nat          -- column counts n[0] to n[3]
  skip : List Nat          -- skipped slabs
  deriving DecidableEq, Repr

/-- The column count of array `a`, and the columns before it in a row: R204. -/
def MxTile.n (t : MxTile) (a : Nat) : Nat := t.ns.getD a 0
def MxTile.before (t : MxTile) (a : Nat) : Nat := (t.ns.take a).foldl (· + ·) 0
def MxTile.total (t : MxTile) : Nat := t.ns.foldl (· + ·) 0

/-- Bytes of an activation element, and the format. -/
def MxTile.actFmt (t : MxTile) : FpFmt :=
  if t.o.pairing = 1 then .bf16 else if t.o.pairing = 2 then .f16 else if t.o.actFmt = 0 then .e4m3 else .e5m2

/-- The format of a plain weight, or of a table's entries. -/
def MxTile.wgtFmt (t : MxTile) : FpFmt :=
  if t.o.pairing = 1 then .bf16 else if t.o.pairing = 2 then .f16 else if t.o.wgtFmt = 1 then .e5m2 else .e4m3

/-- Bytes from one row of the activation plane to the next, and of a weight plane: R111. -/
def MxTile.actPitch (t : MxTile) : Nat := 128 * t.actFmt.bytes
def MxTile.wgtPitch (t : MxTile) : Nat := if t.o.wgtFmt = 2 then 64 else if t.o.wgtFmt = 3 then 128 else 128 * t.wgtFmt.bytes

/-- Bytes of a drained value: FP32 or a long form. -/
def MxTile.outSize (t : MxTile) : Nat := if t.o.drain = 0 then 4 else 16
def MxTile.preSize (t : MxTile) : Nat := if t.o.preload = 1 then 4 else 16

/-- The k indices whose products are taken: those of no skipped slab (R86). -/
def MxTile.ks (t : MxTile) : List Nat := (List.range t.b.k).filter (fun k => !t.skip.contains (k / 128))

/-- The slabs that are taken: their first k and their length. -/
def MxTile.slabs (t : MxTile) : List (Nat × Nat) :=
  ((List.range ((t.b.k + 127) / 128)).filter (fun i => !t.skip.contains i)).map (fun i => (128 * i, min 128 (t.b.k - 128 * i)))

/-- The (row j of the weight plane, k) pairs of a cell's products for a column at physical column `p`: every k, or the kept ones (R85). -/
def MxTile.taken (t : MxTile) (s : State) (x : Ctx) (a p : Nat) : List (Nat × Nat) :=
  if t.o.sparse then
    (List.range (t.b.k / 4)).flatMap (fun g =>
      if t.skip.contains (4 * g / 128) then []
      else
        let w := leNat (s.opBytes x .mx (t.b.meta_.getD a 0 + g / 8 * 512 + p * 4) 4)
        let m := w / 2 ^ (4 * (g % 8)) % 16
        [(2 * g, 4 * g + m % 4), (2 * g + 1, 4 * g + m / 4)])
  else t.ks.map (fun k => (k, k))

/-- A 2:4 column whose metadata is not ascending somewhere it is read: R85. -/
def MxTile.metaBad (t : MxTile) (s : State) (x : Ctx) (a p : Nat) : Bool :=
  t.o.sparse && (List.range (t.b.k / 4)).any (fun g =>
    !t.skip.contains (4 * g / 128) &&
      (let w := leNat (s.opBytes x .mx (t.b.meta_.getD a 0 + g / 8 * 512 + p * 4) 4)
       let m := w / 2 ^ (4 * (g % 8)) % 16
       decide (m / 4 ≤ m % 4)))

/-- The activation of row `r` at `k`: R111's ACT plane. -/
def MxTile.actAt (t : MxTile) (s : State) (x : Ctx) (r k : Nat) : Fp :=
  let e := t.actFmt.bytes
  t.actFmt.decode (leNat (s.opBytes x .mx (t.act + (k + r) * t.actPitch + r * e) e))

/-- What the expander makes of a code: the operand, and the faults of R83 and R206 it meets: (expand_range, header, table, poisoned slot). -/
structure Expanded where
  v : Fp
  res : Nat := v.residue
  range : Bool := false
  hdr : Bool := false
  tab : Bool := false
  poison : Bool := false
  deriving DecidableEq, Repr

/-- Whether m * 2^e is exactly representable in the entry's format: R83. -/
def representable (f : FpFmt) (m : Nat) (e : Int) : Bool :=
  let r := f.roundMag m e
  m == 0 || (decide (r ≤ f.maxBits) && Fp.eq (f.decode r) (.fin false m e))

/-- A code of array `a`, physical column `p`, at `k`. -/
def MxTile.expand (t : MxTile) (s : State) (x : Ctx) (a p k code : Nat) : Expanded :=
  let w := leNat (s.opBytes x .mx (t.b.hdr.getD a 0 + k / 128 * 256 + p * 2) 2)
  let slot := w % 64
  let sc := sext 8 (w / 64)
  let hdr := decide (2 ^ 14 ≤ w)
  let free : Fp := t.wgtFmt.decode ((Config.badOperand slot code).toNat % 2 ^ t.wgtFmt.width)
  let want := (if t.o.wgtFmt = 2 then 0 else 2) + (if t.o.pairing = 1 then 1 else 0)
  match ((s.core x.core).tables.find? (fun e => e.1 == slot)).map Prod.snd with
  | some tb =>
    if tb.kind = want then
      match t.wgtFmt.decode (tb.entries.getD code 0) with
      | .nan => { v := .nan, hdr := hdr, poison := tb.poison }
      | .inf _ => { v := free, range := true, hdr := hdr, poison := tb.poison }
      | .fin n m e =>
        if representable t.wgtFmt m (e + sc) then { v := .fin n m (e + sc), res := tb.res.getD code 0, hdr := hdr, poison := tb.poison }
        else { v := free, range := true, hdr := hdr, poison := tb.poison }
    else { v := free, hdr := hdr, tab := true, poison := tb.poison }
  | none => { v := free, hdr := hdr, tab := true }

/-- The weight of array `a` at row `j` of its plane (code row `k`) in physical column `p`: R111's WGT plane. -/
def MxTile.wgtAt (t : MxTile) (s : State) (x : Ctx) (a p j k : Nat) : Expanded :=
  let base := t.b.wgt.getD a 0 + (j + p) * t.wgtPitch
  if t.o.wgtFmt = 2 then
    let b := leNat (s.opBytes x .mx (base + p / 2) 1)
    t.expand s x a p k (if p % 2 = 0 then b % 16 else b / 16)
  else if t.o.wgtFmt = 3 then t.expand s x a p k (leNat (s.opBytes x .mx (base + p) 1))
  else
    let e := t.wgtFmt.bytes
    { v := t.wgtFmt.decode (leNat (s.opBytes x .mx (base + p * e) e)) }

/-- A cell's accumulator beside the products it has taken: A, its flags, and the residue r that R88 keeps beside it. -/
structure CellAcc where
  value : Int := 0
  flags : Nat := 0
  res   : Nat := 0
  deriving DecidableEq, Repr

/-- The residue of a finite product of operands with residues `ra`, `rb` and exponents that sum to `x`: R88. -/
def prodResidue (ra rb : Nat) (x : Int) : Nat := ra * rb * 2 ^ ((x + 32) % 3).toNat % 7

/-- An exact FP8 product added into an accumulator, with its residue: R71, R72, R88. -/
def CellAcc.take (c : CellAcc) (a w : Fp) (rw : Nat) : CellAcc :=
  let r := match a, w with
    | .fin s _ e, .fin t _ d =>
      let p := prodResidue a.residue rw (e + d)
      if s = t then (c.res + p) % 7 else (c.res + 7 - p) % 7
    | _, _ => c.res
  match a.mul w with
  | .nan => { c with flags := c.flags ||| 4 }
  | .inf s => { c with flags := c.flags ||| (if s then 2 else 1) }
  | .fin s m e =>
    let v : Int := ((if 0 ≤ e + 32 then m <<< (e + 32).toNat else m >>> (-(e + 32)).toNat : Nat) : Int)
    { c with value := c.value + (if s then -v else v), res := r }

/-- The accumulator of a cell that starts with residue `r0`, after products of activation, weight and the weight's residue: R71 to R73, R88. -/
def cellAcc (r0 : Nat) (ps : List (Fp × Fp × Nat)) : CellAcc :=
  ps.foldl (fun c p => c.take p.1 p.2.1 p.2.2) { res := r0 }

/-- The long form of FP8 products: value, flags and count (R71 to R73). -/
def lfCell (ps : List (Fp × Fp)) (k : Nat) : LF :=
  let c := cellAcc 0 (ps.map (fun p => (p.1, p.2, p.2.residue)))
  { value := c.value, flags := c.flags, count := k, check := mod7 c.value }

/-- A cell's preload: R78, R79, R204; rows at or past `rows` start from zero. -/
def MxTile.preAt (t : MxTile) (s : State) (x : Ctx) (a r c : Nat) : List Byte :=
  s.opBytes x .mx (t.pre + (r * t.total + t.before a + c) * t.preSize) t.preSize

/-- The long form that a cell of the FP8 pairing ends with, its preload and its products under R77, and whether its residue differs from A mod 7 at
drain. A preload sets the residue from its check field (R88). -/
def MxTile.cellLf (t : MxTile) (s : State) (x : Ctx) (a r c : Nat) (ws : List (Nat × Fp × Nat)) : LF × Bool :=
  let ps := ws.map (fun w => (t.actAt s x r w.1, w.2))
  if t.o.preload = 2 then
    let p := LF.ofBytes (t.preAt s x a r c)
    let q := cellAcc p.check ps
    (p.add { value := q.value, flags := q.flags, count := t.b.k, check := mod7 q.value }, mod7 (p.value + q.value) != q.res)
  else
    let q := cellAcc 0 ps
    ({ value := q.value, flags := q.flags, count := t.b.k, check := mod7 q.value }, mod7 q.value != q.res)

/-- The FP32 value that a cell of a 16-bit pairing ends with: R79. -/
def MxTile.cell16 (t : MxTile) (s : State) (x : Ctx) (a r c : Nat) (ws : List (Nat × Fp × Nat)) : Nat :=
  let p := if t.o.preload = 1 then leNat (t.preAt s x a r c) else 0
  ws.foldl (fun acc w => enc32 (((t.actAt s x r w.1).mul w.2.1).add (dec32 acc))) p

/-- Whether a product of two finite operands fails the residue check of its significands: R88. -/
def residueOff (a w : Fp) (rw : Nat) : Bool :=
  match a, w with
  | .fin _ m _, .fin _ n _ => m * n % 7 != a.residue * rw % 7
  | _, _ => false

/-! ### What a tile of one array gives -/

/-- What one cell drains: its bytes, whether it alone marks its line, whether its residue check failed. -/
structure CellOut where
  bytes : List Byte
  mark  : Bool
  res   : Bool
  deriving DecidableEq, Repr

/-- Faults and rows of one array's tile. -/
structure TileOut where
  rows  : List (List CellOut)             -- by row and column
  range : Bool := false
  hdr   : Bool := false
  tab   : Bool := false
  meta_ : Bool := false
  lfSat : Bool := false
  lfRes : Bool := false
  slot  : Bool := false                   -- a poisoned table slot was used
  deriving DecidableEq, Repr

/-- One array's tile over its first `w` logical columns. -/
def MxTile.run (t : MxTile) (s : State) (x : Ctx) (a w : Nat) : TileOut :=
  let cols := (List.range w).map (fun c =>
    let p := s.phys x.core a c
    let es := (t.taken s x a p).map (fun jk => (jk.2, t.wgtAt s x a p jk.1 jk.2))
    (c, t.metaBad s x a p, es))
  let es := cols.flatMap (fun c => c.2.2.map Prod.snd)
  let pres := if t.o.preload = 2 then
      (List.range t.b.rows).flatMap (fun r => (List.range w).map (fun c => LF.ofBytes (t.preAt s x a r c)))
    else []
  { rows := (List.range t.b.rows).map (fun r => cols.map (fun c =>
      let ws := c.2.2.map (fun e => (e.1, e.2.v, e.2.res))
      if t.o.pairing = 0 then
        let l := t.cellLf s x a r c.1 ws
        ⟨if t.o.drain = 0 then leBytes 4 l.1.toF32 else l.1.toBytes, l.1.marked, l.2⟩
      else ⟨leBytes 4 (t.cell16 s x a r c.1 ws), false, ws.any (fun w => residueOff (t.actAt s x r w.1) w.2.1 w.2.2)⟩))
    range := es.any Expanded.range, hdr := es.any Expanded.hdr, tab := es.any Expanded.tab, meta_ := cols.any (fun c => c.2.1)
    lfSat := pres.any (fun l => decide (8388608 < l.count + t.b.k)), lfRes := pres.any LF.bad, slot := es.any Expanded.poison }

/-- The SRAM ranges of array `a`'s operands: weight rows, headers and metadata of the slabs taken. -/
def MxTile.reads (t : MxTile) (a : Nat) : List (Nat × Nat) :=
  t.slabs.flatMap (fun b =>
    let d := if t.o.sparse then 2 else 1
    (t.b.wgt.getD a 0 + b.1 / d * t.wgtPitch, (b.2 / d + 127) * t.wgtPitch) ::
      ((if mxtCodes t.o then [(t.b.hdr.getD a 0 + b.1 / 128 * 256, 256)] else []) ++
       (if t.o.sparse then [(t.b.meta_.getD a 0 + b.1 / 32 * 512, (b.2 + 31) / 32 * 512)] else [])))

/-- The SRAM ranges of the activation rows of the slabs taken. -/
def MxTile.actReads (t : MxTile) : List (Nat × Nat) := t.slabs.map (fun b => (t.act + b.1 * t.actPitch, (b.2 + 127) * t.actPitch))

/-- The SRAM ranges that row `r` of array `a` fills or is preloaded from, `w` columns of `e` bytes from `base`. -/
def MxTile.rowRange (t : MxTile) (base e a r w : Nat) : Nat × Nat := (base + (r * t.total + t.before a) * e, w * e)

/-- The drained rows of array `a` written; a poisoned tile marks every line (R89), a marked long form its own (R76). -/
def MxTile.write (t : MxTile) (x : Ctx) (a : Nat) (poison : Bool) (o : TileOut) (s : State) : State :=
  let o := if poison ∧ t.o.drain = 1 then
      { o with rows := o.rows.map (fun r => r.map (fun c => { c with bytes := c.bytes.set 11 (c.bytes.getD 11 0 ||| 16), mark := true })) }
    else o
  State.each ((List.range o.rows.length).zip o.rows) (fun p s =>
    let at_ := (t.rowRange t.out t.outSize a p.1 0).1
    let s := s.opWrite x .mx at_ (p.2.flatMap CellOut.bytes) poison
    State.each ((List.range p.2.length).zip p.2) (fun c s =>
      if c.2.mark && !poison && decide (at_ + c.1 * t.outSize < sramSize) then
        s.markLine ((sramBase x.core + at_ + c.1 * t.outSize) / 64) false true
      else s) s) s

/-- An MX fault bit of array `a`. -/
def State.mxFault (s : State) (x : Ctx) (a b : Nat) : State := s.coreFault x.core .mx b (s.pc x) (a * 2 ^ 8)

/-- Whether a residue check of the tile fails: of any cell, but for cell (0, 0) when an injection inverts its residue (R88 to R90). -/
def TileOut.residue (o : TileOut) (injected : Bool) : Bool :=
  ((o.rows.headD []).drop (if injected then 1 else 0)).any CellOut.res || (o.rows.drop 1).any (fun r => r.any CellOut.res)

/-- The faults of a tile of array `a` recorded, each applicable bit once, and a residue mismatch counted once (R89, R90). -/
def TileOut.faults (o : TileOut) (x : Ctx) (a : Nat) (poisonIn injected : Bool) (s : State) : State :=
  let s := if o.residue injected then (s.addReg (Reg.MX_RESIDUE_COUNT x.core) 1).residueHits x.core 1 else s
  let bits := (if o.residue injected then [1] else []) ++ (if injected then [2] else []) ++ (if o.range then [3] else []) ++ (if o.hdr then [4] else []) ++ (if o.tab then [5] else []) ++
    (if o.meta_ then [6] else []) ++ (if o.lfSat then [7] else []) ++ (if o.lfRes then [8] else []) ++
    (if poisonIn || o.slot then [9] else [])
  State.each bits (fun b s => s.mxFault x a b) s

/-- Whether any fault of R89 poisons the tile. -/
def TileOut.dirty (o : TileOut) : Bool := o.residue false || o.range || o.hdr || o.tab || o.meta_ || o.lfSat || o.lfRes || o.slot

/-- The slabs that the zero bitmaps skip: whole slabs whose 128 rows are all zero (R86). -/
def TileBlock.skips (b : TileBlock) (s : State) (x : Ctx) : List Nat :=
  (List.range (b.k / 128)).filter (fun i => (s.opBytes x .mx (b.bmap + i * 2048) 2048).all (· == 0))

/-- MXT started. DESIGN CHOICE: MX_FAULT_CAP.array reads 0 for a violation that concerns no one array (R104 names the array of the fault). -/
def State.startMxt (s : State) (h : Hdr) (o : MxtOps) (x : Ctx) : State :=
  let c := x.core
  let blk := o.blk.toNat * 64
  let b := TileBlock.ofBytes (s.opBytes x .mx blk 128)
  let ns := (List.range 4).map (fun a => x.ctrs.getD ((o.colc.toNat + a) % 16) 0)
  if h.rsv != 0 || mxtBad o || b.bad o || mxtSplit16 o then s.noEffect .mx h x .mx
  else if ns.all (· == 0) then (s.operands x .mx [(blk, 128)] []).begin h x .mx
  else
    let mayskip := o.zmap && s.bit (Reg.MX_CTL c) 0
    let t : MxTile := { o := o, b := b, act := lineOp (x.gen o.aga) b.act, out := lineOp (x.gen o.ago) b.out,
                        pre := lineOp (x.gen o.ago) b.pre, ns := ns, skip := if mayskip then b.skips s x else [] }
    let arrays := (List.range 4).filter (fun a => t.n a != 0)
    let w := fun a => min (t.n a) (s.width c a)
    let shared := (blk, 128) :: t.actReads ++ (if mayskip then [(b.bmap, b.k / 128 * 2048)] else [])
    let own := fun a => t.reads a ++
      (if o.preload = 0 then [] else (List.range b.rows).map (fun r => t.rowRange t.pre t.preSize a r (w a)))
    let writes := arrays.flatMap (fun a => (List.range b.rows).map (fun r => t.rowRange t.out t.outSize a r (w a)))
    let reads := shared ++ arrays.flatMap own
    let bad := (reads ++ writes).any (fun r => s.opBad x .mx r.1 r.2)
    let s := s.operands x .mx reads writes
    let s := match arrays.find? (fun a => decide (s.width c a < t.n a)) with
      | some a => if bad then s else s.violate c .mx (s.pc x) (a * 2 ^ 8)
      | none => s
    let dirtyAct := shared.any (fun r => s.opPoison x r.1 r.2)
    let outs := arrays.map (fun a => (a, t.run s x a (w a), dirtyAct || (own a).any (fun r => s.opPoison x r.1 r.2), setHas (s.core c).mxArmed a))
    let macs := arrays.foldl (fun n a => n + 128 * w a * (if o.sparse then t.ks.length / 2 else t.ks.length)) 0
    let s := s.chargeCore c (if o.pairing = 0 then 0 else 1) macs
    let s := State.each outs (fun q s =>
      let s := q.2.1.faults x q.1 q.2.2.1 q.2.2.2 s
      t.write x q.1 (q.2.1.dirty || q.2.2.1 || q.2.2.2) q.2.1 s) s
    let s := if outs.any (fun q => q.2.2.2) then s.modCore c (fun k => { k with mxArmed := arrays.foldl setDel k.mxArmed }) else s
    let s := (s.addReg (Reg.MX_TILES c) arrays.length).addReg (Reg.MX_SKIP_SLABS c) t.skip.length
    s.begin h x .mx

end Sys2Proof.Machine
end

