-- ==== Sys2Proof/Machine/Ox.lean ====
section
/-! DEFINITION. Machine/Ox.lean: the optimizer engine (R211, R238 to R241). -/

namespace Sys2Proof.Machine

open Sys2Proof

/-- A 64-bit rotation left: R239. -/
def rotl64 (v : Word) (n : Nat) : Word := (v <<< n) ||| (v >>> (64 - n))

/-- One round of the generator: R239. -/
def srRound (p : Word × Word) : Word × Word :=
  let a := p.1 + p.2
  let b := rotl64 p.2 23 ^^^ a
  let a := a * 0x9B1D5C73E0A46F2D
  (a, b + rotl64 a 41)

/-- The random bits of an element: R239. -/
def srbits (seed : Word) (step tensor elem : Nat) : Nat :=
  let a := (seed ^^^ BitVec.ofNat 64 (step * 2 ^ 16)) ^^^ BitVec.ofNat 64 tensor
  let b := BitVec.ofNat 64 (elem % 2 ^ 48) ^^^ 0x3C5A91D700000000
  let p := (List.range 4).foldl (fun p _ => srRound p) (a, b)
  ((p.2 >>> 32) ^^^ p.2).toNat % 2 ^ 32

/-- Stochastic rounding of an FP32 pattern to BF16: R240. -/
def srRne (x r : Nat) : Nat :=
  if isNan32 x then 0x7FC0
  else
    let hi := x / 2 ^ 16
    let lo := x % 2 ^ 16
    if x % 2 ^ 31 = 0x7F800000 ∨ lo + r % 2 ^ 16 < 0x10000 then hi else hi + 1

/-- Whether an FP32 pattern is finite. -/
def finite32 (x : Nat) : Bool := decide (x % 2 ^ 31 < 0x7F800000)

/-- The hyperparameter line: R238. -/
structure Hyper where
  lr : Nat
  b1 : Nat
  b2 : Nat
  eps : Nat
  wd : Nat
  c1 : Nat
  c2 : Nat
  gscale : Nat
  deriving DecidableEq, Repr

def Hyper.ofBytes (b : List Byte) : Hyper :=
  let f := fun o => leNat ((b.drop o).take 4)
  ⟨f 0, f 4, f 8, f 12, f 16, f 20, f 24, f 28⟩

/-- What one element's update gives: the weight, the moments, whether it was skipped, whether it overflowed. -/
structure OxEl where
  w    : Nat
  m    : List Nat
  skip : Bool
  large : Bool
  deriving DecidableEq, Repr

/-- One element of OXUPD: R238, R241. -/
def oxUpdate (p : Hyper) (rule grad w : Nat) (ms : List Nat) (bits : Nat) : OxEl :=
  let one := 0x3F800000
  let g := fmul grad p.gscale
  if !finite32 g then ⟨w, ms, true, false⟩
  else
    let w32 := toF32 .bf16 w
    let r : List Nat × Nat :=
      if rule = 0 then
        let m := ffma p.b1 (ms.getD 0 0) (fmul (fsub one p.b1) g)
        let v := ffma p.b2 (ms.getD 1 0) (fmul (fsub one p.b2) (fmul g g))
        let d := frsqrt (fadd (fmul v p.c2) p.eps)
        ([m, v], ffma p.wd w32 (fmul (fmul m p.c1) d))
      else if rule = 1 then
        let m := ffma p.b1 (ms.getD 0 0) g
        ([m], ffma p.wd w32 m)
      else ([], ffma p.wd w32 g)
    let o := srRne (ffma (p.lr ^^^ 2 ^ 31) r.2 w32) bits
    ⟨o, r.1, false, finite32 w32 && o % 2 ^ 15 == 0x7F80⟩

/-- An OX fault bit. -/
def State.oxFault (s : State) (x : Ctx) (b : Nat) : State := s.coreFault x.core .ox b (s.pc x)

/-- One row's bytes written, each line with its own mark. -/
def State.oxRow (s : State) (x : Ctx) (o : Nat) (bs : List Byte) (mark : Nat → Bool) : State :=
  State.each (List.range ((bs.length + 63) / 64)) (fun i s => s.opWrite x .ox (o + 64 * i) ((bs.drop (64 * i)).take 64) (mark i)) s

/-- Line marks of an output row whose elements take `e` bytes: a line is marked when an element of it was computed from a marked line. -/
def oxMarks (e : Nat) (dirty : List Bool) (i : Nat) : Bool := ((dirty.drop (64 * i / e)).take (64 / e)).any id

/-- OXUPD and OXSR started. -/
def State.startOx (s : State) (upd : Bool) (h : Hdr) (o : OxOps) (x : Ctx) : State :=
  let c := x.core
  let n := o.len.toNat
  let rows := if o.row1 then 1 else x.ctr o.rowc
  let rule := o.rule.toNat
  let w0 := lineOp (x.gen o.agw) 0
  let g0 := lineOp (x.gen o.agg) 0
  let m0 := lineOp (x.gen o.agm) 0
  let h0 := lineOp (x.gen o.agh) 0
  let hl := s.opBytes x .ox h0 64
  let mw := if upd then (if rule = 0 then 8 else if rule = 1 then 4 else 0) else 0
  if h.rsv != 0 || o.len == 0 || (upd && rule == 3) || (upd && (hl.drop 32).any (· != 0)) then s.noEffect .ox h x .ox
  else if rows = 0 then s.begin h x .ox
  else
    let p := Hyper.ofBytes hl
    let wp := up64 (2 * n)
    let gp := up64 (4 * n)
    let mp := up64 (mw * n)
    let seed := s.reg (Reg.OX_SEED c)
    let ws := (List.range rows).map (fun r => (w0 + r * wp, 2 * n))
    let gs := (List.range rows).map (fun r => (g0 + r * gp, 4 * n))
    let ms := if mw = 0 then [] else (List.range rows).map (fun r => (m0 + r * mp, mw * n))
    let hp := upd && s.opPoison x h0 64
    let out := (List.range rows).map (fun r => (r, (List.range n).map (fun i =>
      let ga := g0 + r * gp + 4 * i
      let wa := w0 + r * wp + 2 * i
      let ma := m0 + r * mp + mw * i
      let g := leNat (s.opBytes x .ox ga 4)
      let bits := srbits seed (x.ctr o.stepc) o.tensor.toNat (x.ctr o.ebc + r * n + i)
      let dirty := hp || s.opPoison x ga 4 || (upd && (s.opPoison x wa 2 || s.opPoison x ma mw))
      let el := if upd then
          oxUpdate p rule g (leNat (s.opBytes x .ox wa 2)) (elems 4 (s.opBytes x .ox ma mw)) bits
        else
          let v := srRne g bits
          ⟨v, [], false, finite32 g && v % 2 ^ 15 == 0x7F80⟩
      (el, dirty))))
    let s := s.operands x .ox ((if upd then (h0, 64) :: ws ++ ms else []) ++ gs) (ws ++ ms)
    let s := State.each out (fun q s =>
      let es := q.2.map Prod.fst
      let dirty := q.2.map Prod.snd
      let s := s.oxRow x (w0 + q.1 * wp) (es.flatMap (fun e => leBytes 2 e.w)) (oxMarks 2 dirty)
      if mw = 0 then s
      else s.oxRow x (m0 + q.1 * mp) (es.flatMap (fun e => e.m.flatMap (leBytes 4))) (oxMarks mw dirty)) s
    let all := out.flatMap Prod.snd
    let skipped := (all.filter (fun e => e.1.skip)).length
    let s := (s.addReg (Reg.OX_ELEMS c) (all.length - skipped)).addReg (Reg.OX_NONFINITE c) skipped
    let s := if skipped = 0 then s else s.oxFault x 2
    let s := if all.any (fun e => e.1.large) then s.oxFault x 3 else s
    let s := if all.any Prod.snd then s.oxFault x 1 else s
    s.begin h x .ox

end Sys2Proof.Machine
end

