-- ==== Sys2Proof/Machine/Sx.lean ====
section
/-! DEFINITION. Machine/Sx.lean: the select engine's instructions (R209, R210, R286 to R289). -/

namespace Sys2Proof.Machine

open Sys2Proof

/-- An SX fault bit, with the index it concerns. -/
def State.sxFault (s : State) (x : Ctx) (b q : Nat) : State := s.coreFault x.core .sx b (s.pc x) (q * 2 ^ 8)

/-- Bytes of SX output whose every line carries mark `p`; poison_in when it does. -/
def State.sxWrite (s : State) (x : Ctx) (o : Nat) (bs : List Byte) (p : Bool) : State := s.opWrite x .sx o bs p

/-- A list as SX writes it: its header line, then its entries (R209). -/
def listOut (rs : List Cand) : List Byte := fitTo 64 0 (leBytes 4 rs.length) ++ rs.flatMap Cand.toBytes

/-- The entry count in the header of the list at `o`. -/
def State.listLen (s : State) (x : Ctx) (o : Nat) : Nat := leNat (s.opBytes x .sx o 4)

/-- The entries of `n` records from `o`. -/
def State.candsAt (s : State) (x : Ctx) (o n : Nat) : List Cand :=
  (List.range n).map (fun i => Cand.ofBytes (s.opBytes x .sx (o + 16 * i) 16))

/-- An instruction that ranks lists and candidates into the first `k` and writes them to `d`. -/
def State.sxRank (s : State) (h : Hdr) (x : Ctx) (desc u32 : Bool) (k d : Nat) (reads : List (Nat × Nat)) (rs : List Cand) : State :=
  let out := rankAll desc u32 k rs
  let dirty := reads.any (fun r => s.opPoison x r.1 r.2)
  let s := s.operands x .sx reads [(d, 64 + 16 * out.length)]
  let s := s.sxWrite x d (listOut out) dirty
  let s := if dirty then s.sxFault x 1 0 else s
  s.begin h x .sx

/-- SXTOPK started. -/
def State.startTopk (s : State) (h : Hdr) (ain agl : BitVec 5) (nc : BitVec 4) (desc u32 : Bool) (k : Nat) (fresh : Bool) (x : Ctx) : State :=
  if h.rsv != 0 || k == 0 || decide (4096 < k) then s.noEffect .sx h x .sx
  else
    let n := x.ctr nc
    let a := lineOp (x.gen ain) 0
    let l := lineOp (x.gen agl) 0
    let m := if fresh then 0 else s.listLen x l
    let rs := (if fresh then [] else s.candsAt x (l + 64) m) ++ s.candsAt x a n
    s.sxRank h x desc u32 k l ((a, 16 * n) :: (if fresh then [] else [(l, 64 + 16 * m)])) rs

/-- SXMERGE started. -/
def State.startMerge (s : State) (h : Hdr) (aa ab ad : BitVec 5) (desc u32 : Bool) (k : Nat) (x : Ctx) : State :=
  if h.rsv != 0 || k == 0 || decide (4096 < k) then s.noEffect .sx h x .sx
  else
    let a := lineOp (x.gen aa) 0
    let b := lineOp (x.gen ab) 0
    let m := s.listLen x a
    let n := s.listLen x b
    s.sxRank h x desc u32 k (lineOp (x.gen ad) 0) [(a, 64 + 16 * m), (b, 64 + 16 * n)] (s.candsAt x (a + 64) m ++ s.candsAt x (b + 64) n)

/-- One bits of a byte. -/
def onesOf (b : Byte) : Nat := ((List.range 8).filter b.getLsbD).length

/-- SXAND started: ad <- aa AND ab over C[nc] lines, the count of one bits at agp. -/
def State.startAnd (s : State) (h : Hdr) (aa ab ad agp : BitVec 5) (nc : BitVec 4) (x : Ctx) : State :=
  if h.rsv != 0 then s.noEffect .sx h x .sx
  else
    let n := x.ctr nc
    let a := lineOp (x.gen aa) 0
    let b := lineOp (x.gen ab) 0
    let p := lineOp (x.gen agp) 0
    let la := s.readLines x .sx a n
    let lb := s.readLines x .sx b n
    let out := (la.zip lb).map (fun q => ((q.1.1.zip q.2.1).map (fun c => c.1 &&& c.2), q.1.2 || q.2.2))
    let ones := out.foldl (fun m l => l.1.foldl (fun m c => m + onesOf c) m) 0
    let s := s.operands x .sx [(a, 64 * n), (b, 64 * n)] [(lineOp (x.gen ad) 0, 64 * n), (p, 8)]
    let s := s.writeLines x .sx (lineOp (x.gen ad) 0) out
    let s := s.sxWrite x p (leBytes 8 ones) (anyMark out)
    let s := if anyMark out then s.sxFault x 1 0 else s
    s.begin h x .sx

/-- SXROUTE started: each of C[nc] tokens to its best experts (R184, R210). -/
def State.startRoute (s : State) (h : Hdr) (as_ ad ap : BitVec 5) (nc : BitVec 4) (em1 rm1 : Nat) (x : Ctx) : State :=
  if h.rsv != 0 then s.noEffect .sx h x .sx
  else
    let n := x.ctr nc
    let ne := em1 + 1
    let pitch := up64 (4 * ne)
    let a := lineOp (x.gen as_) 0
    let d := lineOp (x.gen ad) 0
    let p := lineOp (x.gen ap) 0
    let toks := (List.range n).map (fun t =>
      let row := (List.range ne).map (fun e => (⟨leNat (s.opBytes x .sx (a + t * pitch + 4 * e) 4), 0, e⟩ : Cand))
      (t, rankAll true false (rm1 + 1) row, s.opPoison x (a + t * pitch) (4 * ne)))
    let dirty := toks.any (fun t => t.2.2)
    let lists := (List.range ne).map (fun e => (toks.filter (fun t => t.2.1.any (fun c => c.id == e))).map Prod.fst)
    let cpad := up64 (4 * ne)
    let l := up64 (4 * n)
    let s := s.operands x .sx [(a, n * pitch)]
      ((d, cpad) :: ((List.range ne).zip lists).map (fun q => (d + cpad + q.1 * l, 4 * q.2.length)) ++
        toks.map (fun t => (p + 64 * t.1, 8 * t.2.1.length)))
    let s := s.sxWrite x d (fitTo cpad 0 (lists.flatMap (fun q => leBytes 4 q.length))) dirty
    let s := State.each ((List.range ne).zip lists) (fun q s => s.sxWrite x (d + cpad + q.1 * l) (q.2.flatMap (leBytes 4)) dirty) s
    let s := State.each toks (fun t s => s.sxWrite x (p + 64 * t.1) (t.2.1.flatMap (fun c => leBytes 4 c.id ++ leBytes 4 c.key)) t.2.2) s
    let s := if dirty then s.sxFault x 1 0 else s
    s.begin h x .sx

/-- `n` free bytes: what the spec leaves unspecified. -/
def State.freeBytes (s : State) (n : Nat) : List Byte := (List.range n).map (fun i => Config.freeByte (s.free + i))

/-- The result of one query written: its list at its block's out and at `ad`, its gathered vectors, its visited table and its block's words
(R210, R286 to R288). `dirty` tells that a line of its block, or of the batch header, was poisoned: what is made of it is poisoned too (R159). -/
def State.walkOut (s : State) (w : Query_) (dirty : Bool) (ad aq i : Nat) : State :=
  let x := w.x
  let q := w.b.q
  let held := s.holds q w.e
  let k : Walk := if held then w.walk s else { stop := some 3 }
  let vs := s.vecBytes q
  let gather := w.b.flags.testBit 2 && held
  let vlost := gather && k.cands.any (fun c => s.idxLost q (s.vecAt q c.id) vs)
  let poison := k.poison || vlost || dirty
  let status := if poison then 4 else k.stop.getD 0
  let cands := if status = 3 ∨ status = 5 then [] else k.cands
  let vecs := if gather then cands.map (fun c => (s.idxBytes q false (s.vecAt q c.id) vs, s.idxLost q (s.vecAt q c.id) vs)) else []
  let s := s.countWalk x.core (s.pc x) q k
  let s := if status = 3 then s.sxFault x 2 q else s
  let s := if poison then s.sxFault x 1 q else s
  let s := if k.lost || vlost then s.raise .sidx 0 (q * 2 ^ 8) else s
  let s := (s.chargeCore x.core 4 k.lines).chargeCore x.core 5 (k.reads + vecs.length)
  let vis := if held then s.freeBytes (64 * w.b.visLines) else []
  let s := { s.sxWrite x w.b.vis vis false with free := s.free + vis.length }
  let s := (s.sxWrite x w.b.out (listOut cands) poison).sxWrite x ad (listOut cands) poison
  let s := State.each ((List.range vecs.length).zip vecs) (fun p s => s.sxWrite x (w.b.vecs + p.1 * vs) p.2.1 p.2.2) s
  s.sxWrite x (aq + 64 + 256 * i + 48)
    (leBytes 1 status ++ leBytes 3 0 ++ leBytes 4 w.e ++ leBytes 4 k.hops ++ leBytes 4 k.seen.length) false

/-- The SRAM ranges of one query: what it reads and what it writes. -/
def State.walkRanges (s : State) (b : QBlock) (ad : Nat) : List (Nat × Nat) × List (Nat × Nat) :=
  ([(b.table, 32768)],
   [(b.out, 64 + 16 * b.candN s), (ad, 64 + 16 * b.candN s), (b.vis, 64 * b.visLines)] ++
     (if b.flags.testBit 2 then [(b.vecs, b.candN s * s.vecBytes b.q)] else []))

/-- Where the lists of a batch lie from `d` on, one after another, each with room for its cand entries, in whole lines. -/
def State.listPlaces (s : State) : Nat → List QBlock → List Nat
  | _, [] => []
  | d, b :: r => d :: s.listPlaces (d + up64 (64 + 16 * b.candN s)) r

/-- SXWALK started: every query of the batch walked at its epoch, to which it stays bound until the instruction retires (R286 to R288, R293).
Each list goes to its block's out, as R288 says, and to ad, as R210 says. DESIGN CHOICE: at ad the lists of a batch lie one after another. -/
def State.startWalk (s : State) (h : Hdr) (aq ad : BitVec 5) (x : Ctx) : State :=
  let a := lineOp (x.gen aq) 0
  let p := s.payer x.core
  let hd := s.opBytes x .sx a 64
  let n := leNat (hd.take 4)
  let bs := (List.range (min n 64)).map (fun i => QBlock.ofBytes (s.opBytes x .sx (a + 64 + 256 * i) 256))
  if h.rsv != 0 || n == 0 || decide (64 < n) || (hd.drop 4).any (· != 0) || bs.any (fun b => b.bad s p) then s.noEffect .sx h x .sx
  else
    let ws := bs.map (fun b => (⟨x, b, if b.epoch = 0xFFFFFFFF then s.epoch b.q else b.epoch, []⟩ : Query_))
    let bound := (ws.filter (fun w => s.holds w.b.q w.e)).map (fun w => (w.b.q, w.e))
    let ds := s.listPlaces (lineOp (x.gen ad) 0) bs
    let rg := (bs.zip ds).map (fun b => s.walkRanges b.1 b.2)
    let dirty := (List.range n).map (fun i => s.opPoison x a 64 || s.opPoison x (a + 64 + 256 * i) 256)
    let s := s.operands x .sx ((a, 64 + 256 * n) :: rg.flatMap Prod.fst) ((a, 64 + 256 * n) :: rg.flatMap Prod.snd)
    let s := State.each bound (fun q s => s.bindEpoch q.1 q.2) s
    let s := State.each ((List.range n).zip (ws.zip (dirty.zip ds))) (fun q s => s.walkOut q.2.1 q.2.2.1 q.2.2.2 a q.1) s
    s.begin h x .sx .done bound

end Sys2Proof.Machine
end

