-- ==== Sys2Proof/Machine/Vx.lean ====
section
/-! DEFINITION. Machine/Vx.lean: the vector engine (R97 to R102, R207, R208) and the KL term (R233 to R235). An instruction reads all its operands
and writes all its rows in the step that starts it, but for a KL row that waits for its tally record. -/

namespace Sys2Proof.Machine

open Sys2Proof

/-! ### What an instruction is -/

/-- The VX operations. -/
inductive VxFn where
  | add | sub | mul | fma | min_ | max_ | cmp | sel | abs | neg | exp2 | log2 | rcp | rsq | cvt | req | lf | lfa | rsum | rmax | smax | rms | lnorm | kl
  deriving DecidableEq, Repr

/-- Whether the operation reads b, and c, element by element. -/
def VxFn.usesB : VxFn → Bool
  | .add | .sub | .mul | .fma | .min_ | .max_ | .cmp | .sel | .lfa => true
  | _ => false

def VxFn.usesC : VxFn → Bool
  | .fma | .sel => true
  | _ => false

/-- Formats and fields that R207, R208 and R233 reserve or forbid. -/
def vxBad (fn : VxFn) (o : VxOps) : Bool :=
  let fa := o.fa.toNat
  let fb := o.fb.toNat
  let fd := o.fd.toNat
  let src := decide (fa ≤ 4) && decide (fb ≤ 4)
  o.len == 0 ||
  (match fn with
   | .cmp => !(src && decide (fd ≤ 2)) || decide (5 < o.imm.toNat)
   | .req => !(src && decide (fd ≤ 4))
   | .lf => !(fa == 5 && decide (fb ≤ 4) && fd == 0)
   | .lfa => !(fa == 5 && fb == 5 && fd == 5)
   | .kl => !(decide (fa ≤ 2) && fb == 0 && decide (fd ≤ 2)) || o.bsc || o.csc || o.tag != 0 || o.bmap || o.ssrc || o.imm != 0
   | _ => !(src && decide (fd ≤ 2)))

/-- An instruction's layout: rows, elements a row, element bytes, bases. -/
structure VxLay where
  fn   : VxFn
  o    : VxOps
  rows : Nat
  n    : Nat
  d    : Nat
  a    : Nat
  b    : Nat
  c    : Nat
  deriving DecidableEq, Repr

/-- The layout that an instruction and its context give. -/
def vxLay (fn : VxFn) (o : VxOps) (x : Ctx) : VxLay :=
  { fn := fn, o := o, rows := if o.row1 then 1 else x.ctr o.rowc, n := o.len.toNat
    d := lineOp (x.gen o.agd) 0, a := lineOp (x.gen o.aga) 0, b := lineOp (x.gen o.agb) 0, c := lineOp (x.gen o.agc) 0 }

def VxLay.ea (l : VxLay) : Nat := fmtBytes l.o.fa.toNat
def VxLay.eb (l : VxLay) : Nat := fmtBytes l.o.fb.toNat
def VxLay.ed (l : VxLay) : Nat := fmtBytes l.o.fd.toNat

/-- Where row `r` of each operand begins: R207's pitch. -/
def VxLay.rowA (l : VxLay) (r : Nat) : Nat := l.a + r * up64 (l.n * l.ea)
def VxLay.rowB (l : VxLay) (r : Nat) : Nat := l.b + r * up64 (l.n * l.eb)
def VxLay.rowC (l : VxLay) (r : Nat) : Nat := l.c + r * up64 (l.n * 4)
def VxLay.rowD (l : VxLay) (r : Nat) : Nat := l.d + r * up64 (l.n * l.ed)

/-- Elements of an element group, which give a lane its number: R208. -/
def VxLay.group (l : VxLay) : Nat :=
  let bytes := l.ea + l.ed + (if l.fn.usesB && !l.o.bsc then l.eb else 0) + (if l.fn.usesC && !l.o.csc then 4 else 0)
  if bytes ≤ 12 then 512 else 6144 / bytes / 64 * 64

/-- Lane operations issued for each element: one, or the vectors a row takes by the timing of R208 and R235. -/
def VxFn.lanes : VxFn → Nat
  | .smax => 6
  | .rms => 3
  | .lnorm => 5
  | .kl => 8
  | _ => 1

/-! ### Elements and rows -/

/-- The FP32 patterns of `n` elements of format `f` from SRAM offset `o`. -/
def State.vals (s : State) (x : Ctx) (f o n : Nat) : List Nat := widen f (s.opBytes x .vx o (n * fmtBytes f))

/-- The long forms of a row. -/
def State.lfs (s : State) (x : Ctx) (o n : Nat) : List LF := (chunksOf 16 (16 * n) (s.opBytes x .vx o (16 * n))).map LF.ofBytes

/-- Operand b or c of row `r`: a scalar repeated, or the row's elements. -/
def VxLay.valsB (l : VxLay) (s : State) (x : Ctx) (r : Nat) : List Nat :=
  if l.o.bsc then List.replicate l.n ((s.vals x l.o.fb.toNat l.b 1).headD 0) else s.vals x l.o.fb.toNat (l.rowB r) l.n

def VxLay.valsC (l : VxLay) (s : State) (x : Ctx) (r : Nat) : List Nat :=
  if l.o.csc then List.replicate l.n ((s.vals x 0 l.c 1).headD 0) else s.vals x 0 (l.rowC r) l.n

/-- 1.0 or 0.0. -/
def f32Bool (b : Bool) : Nat := if b then 0x3F800000 else 0

/-- VCMP: a NaN operand gives 0.0, except under NE (R208). -/
def vcmp (p a b : Nat) : Nat :=
  let u := dec32 a
  let v := dec32 b
  f32Bool (if isNan32 a || isNan32 b then p == 1
    else match p with
      | 0 => u.eq v
      | 1 => !u.eq v
      | 2 => u.lt v
      | 3 => u.lt v || u.eq v
      | 4 => v.lt u
      | _ => v.lt u || u.eq v)

/-- A lane operation on FP32 patterns: R97, R208. -/
def laneOp (fn : VxFn) (imm a b c : Nat) : Nat :=
  match fn with
  | .add => fadd a b
  | .sub => fsub a b
  | .mul => fmul a b
  | .fma => ffma a b c
  | .min_ => fmin a b
  | .max_ => fmax a b
  | .cmp => vcmp imm a b
  | .sel => if isNan32 a || !(dec32 a).eq (.fin false 0 0) then b else c
  | .abs => a % 2 ^ 31
  | .neg => a ^^^ 2 ^ 31
  | .exp2 => fexp2 a
  | .log2 => flog2 a
  | .rcp => frcp a
  | .rsq => frsqrt a
  | _ => a

/-- Softmax of a row: R99. -/
def softmax (t : Nat) (xs : List Nat) : List Nat :=
  let m := reduceMax xs
  let c := fmul t 0x3FB8AA3B
  let e := xs.map (fun v => fexp2 (fmul (fsub v m) c))
  let r := frcp (reduceSum e)
  e.map (fun v => fmul v r)

/-- RMS normalisation: R99. -/
def rmsNorm (invN eps : Nat) (xs ws : List Nat) : List Nat :=
  let q := fmul (reduceSum (xs.map (fun v => fmul v v))) invN
  let g := frsqrt (fadd q eps)
  (xs.zip ws).map (fun p => fmul (fmul p.1 g) p.2)

/-- Layer normalisation: R99. -/
def layerNorm (invN eps : Nat) (xs ws bs : List Nat) : List Nat :=
  let mean := fmul (reduceSum xs) invN
  let d := xs.map (fun v => fsub v mean)
  let q := fmul (reduceSum (d.map (fun v => fmul v v))) invN
  let g := frsqrt (fadd q eps)
  (d.zip (ws.zip bs)).map (fun p => ffma (fmul p.1 g) p.2.1 p.2.2)

/-- What requantisation of one element gives: the pattern in format `f`, and whether it counts as high, low or NaN (R100). -/
structure Requant where
  out : Nat
  high : Bool := false
  low : Bool := false
  nan : Bool := false
  deriving DecidableEq, Repr

def requant (f scale v : Nat) : Requant :=
  match fmtOf f with
  | none => { out := 0 }
  | some t =>
    let y := fmul v scale
    if isNan32 y then { out := t.nanBits, nan := true }
    else if (t.decode t.maxBits).lt (dec32 (y % 2 ^ 31)) then { out := t.signed (neg32 y) t.maxBits, high := true }
    else
      let o := ofF32 t y
      { out := o, low := o % 2 ^ (t.width - 1) == 0 && y % 2 ^ 31 != 0 }

/-! ### Poison (R102) -/

/-- Whether the lines under elements `lo` to `hi` of an operand row are poisoned. -/
def State.elPoison (s : State) (x : Ctx) (base e lo hi : Nat) : Bool := s.opPoison x (base + lo * e) ((hi - lo) * e)

/-- Whether anything that elements `lo` to `hi` of row `r` are computed from is poisoned, for operations element by element. -/
def VxLay.elDirty (l : VxLay) (s : State) (x : Ctx) (r lo hi : Nat) : Bool :=
  s.elPoison x (l.rowA r) l.ea lo hi ||
  (l.fn.usesB && (if l.o.bsc then s.elPoison x l.b l.eb 0 1 else s.elPoison x (l.rowB r) l.eb lo hi)) ||
  (l.fn.usesC && (if l.o.csc then s.elPoison x l.c 4 0 1 else s.elPoison x (l.rowC r) 4 lo hi)) ||
  (l.fn == .req && l.o.ssrc && s.elPoison x l.c 4 0 1)

/-- Whether anything that a whole row's result is computed from is poisoned. -/
def VxLay.rowDirty (l : VxLay) (s : State) (x : Ctx) (r : Nat) : Bool :=
  s.elPoison x (l.rowA r) l.ea 0 l.n ||
  (match l.fn with
   | .rms => s.elPoison x l.b l.eb 0 (if l.o.bsc then 1 else l.n) || s.opPoison x l.c 8
   | .lnorm => s.elPoison x l.b l.eb 0 (if l.o.bsc then 1 else l.n) || s.opPoison x l.c 8 || s.elPoison x (l.c + 64) 4 0 l.n
   | _ => false)

/-- Bytes of one row written with a mark for each of its lines. -/
def State.vxRow (s : State) (x : Ctx) (o : Nat) (bs : List Byte) (mark : Nat → Bool) : State :=
  State.each (List.range ((bs.length + 63) / 64)) (fun i s => s.opWrite x .vx (o + 64 * i) ((bs.drop (64 * i)).take 64) (mark i)) s

/-- A VX fault bit with its lane. -/
def State.vxFault (s : State) (x : Ctx) (b lane : Nat) : State := s.coreFault x.core .vx b (s.pc x) (lane * 2 ^ 8)

/-- Elements that line `i` of an output row holds. -/
def VxLay.lineEls (l : VxLay) (i : Nat) : Nat × Nat := (i * 64 / l.ed, min l.n ((i + 1) * 64 / l.ed))

/-- Lines of an output row. -/
def VxLay.outLines (l : VxLay) : Nat := (l.n * l.ed + 63) / 64

/-! ### Element by element -/

/-- One row of a lane operation, requantisation or long-form operation: its bytes, and its lines with a failed long-form check (and the first
element that fails), with a marked input, and with a marked result. -/
structure VxOut where
  bytes : List Byte
  resid : List Nat := []
  residEl : Nat := 0
  dirty : List Nat := []
  self_ : List Nat := []
  reqs  : List Requant := []
  deriving DecidableEq, Repr

/-- Row `r`. -/
def VxLay.elRow (l : VxLay) (s : State) (x : Ctx) (r : Nat) : VxOut :=
  let ls := List.range l.outLines
  let els := fun {α : Type} (i : Nat) (xs : List α) => let p := l.lineEls i; (xs.drop p.1).take (p.2 - p.1)
  let dirty := fun i => let p := l.lineEls i; l.elDirty s x r p.1 p.2
  match l.fn with
  | .lf =>
    let as_ := s.lfs x (l.rowA r) l.n
    { bytes := as_.flatMap (fun v => leBytes 4 v.toF32), resid := ls.filter (fun i => (els i as_).any LF.bad), residEl := as_.findIdx LF.bad
      dirty := ls.filter (fun i => dirty i || (els i as_).any LF.marked) }
  | .lfa =>
    let as_ := s.lfs x (l.rowA r) l.n
    let bs := if l.o.bsc then List.replicate l.n ((s.lfs x l.b 1).headD {}) else s.lfs x (l.rowB r) l.n
    let out := (as_.zip bs).map (fun p => p.1.add p.2)
    { bytes := out.flatMap LF.toBytes
      resid := ls.filter (fun i => (els i as_).any LF.bad || (els i bs).any LF.bad)
      residEl := (as_.zip bs).findIdx (fun p => p.1.bad || p.2.bad)
      dirty := ls.filter (fun i => dirty i || (els i as_).any LF.marked || (els i bs).any LF.marked)
      self_ := ls.filter (fun i => (els i out).any LF.marked) }
  | .req =>
    let sc := if l.o.ssrc then (s.vals x 0 l.c 1).headD 0 else l.o.imm.toNat
    let qs := (s.vals x l.o.fa.toNat (l.rowA r) l.n).map (requant l.o.fd.toNat sc)
    { bytes := qs.flatMap (fun q => leBytes l.ed q.out), dirty := ls.filter dirty, reqs := qs }
  | _ =>
    let as_ := s.vals x l.o.fa.toNat (l.rowA r) l.n
    let bs := if l.fn.usesB then l.valsB s x r else as_
    let cs := if l.fn.usesC then l.valsC s x r else as_
    let vs := (as_.zip (bs.zip cs)).map (fun p => laneOp l.fn l.o.imm.toNat p.1 p.2.1 p.2.2)
    { bytes := narrow l.o.fd.toNat vs, dirty := ls.filter dirty }

/-- A clip counter advanced by `n`, saturating at 2^32 - 1: R101. -/
def State.clip (s : State) (off n : Nat) : State := s.setReg off (BitVec.ofNat 64 (min (2 ^ 32 - 1) ((s.reg off).toNat + n)))

/-- The zero bitmap of slab `k` of an output row: R86, R100. -/
def zeroMap (t : FpFmt) (qs : List Requant) (k : Nat) : List Byte :=
  leBytes 16 (((qs.drop (128 * k)).take 128).foldr (fun q n => 2 * n + (if q.out % 2 ^ (t.width - 1) = 0 then 0 else 1)) 0)

/-- Row `r` written, with its faults, clip counts and bitmaps. `hit` says that the injected residue strikes its first line. DESIGN CHOICE: for a
poisoned operand VX_FAULT_CAP.lane names the first element of the first marked output line, modulo the group, and lane 0 for a row of a
reduction or normalisation (R105 does not say which lane a whole line's fault names). -/
def VxLay.putRow (l : VxLay) (x : Ctx) (r : Nat) (o : VxOut) (hit : Bool) (s : State) : State :=
  let c := x.core
  let bad := fun i => o.resid.contains i || o.dirty.contains i || o.self_.contains i || (hit && i == 0)
  let s := s.vxRow x (l.rowD r) o.bytes bad
  let lane := fun i => (l.lineEls i).1 % l.group
  let s := match o.resid with
    | _ :: _ => ((s.vxFault x 0 (o.residEl % l.group)).addReg (Reg.VX_RESIDUE_COUNT c) o.resid.length).residueHits c o.resid.length
    | [] => s
  let s := match o.dirty with
    | i :: _ => s.vxFault x 2 (lane i)
    | [] => s
  let s := if hit then s.vxFault x 1 0 else s
  if l.fn = .req then
    let t := l.o.tag.toNat
    let s := s.clip (Reg.VX_CLIP_TOTAL c t) o.reqs.length
    let s := s.clip (Reg.VX_CLIP_HIGH c t) (o.reqs.filter Requant.high).length
    let s := s.clip (Reg.VX_CLIP_LOW c t) (o.reqs.filter Requant.low).length
    let s := s.clip (Reg.VX_CLIP_NAN c t) (o.reqs.filter Requant.nan).length
    match fmtOf l.o.fd.toNat with
    | some f =>
      if l.o.bmap then
        State.each (List.range ((l.n + 127) / 128)) (fun k s =>
          s.opWrite x .vx (l.b + 16 * (k * l.rows + r)) (zeroMap f o.reqs k)
            ((List.range l.outLines).any (fun i => bad i && decide ((l.lineEls i).1 < 128 * k + 128) && decide (128 * k < (l.lineEls i).2)))) s
      else s
    | none => s
  else s

/-! ### Whole rows -/

/-- A row of a reduction or normalisation: the FP32 values it gives. -/
def VxLay.wholeRow (l : VxLay) (s : State) (x : Ctx) (r : Nat) : List Nat :=
  let as_ := s.vals x l.o.fa.toNat (l.rowA r) l.n
  let ws := if l.o.bsc then List.replicate l.n ((s.vals x l.o.fb.toNat l.b 1).headD 0) else s.vals x l.o.fb.toNat l.b l.n
  let p := s.vals x 0 l.c 2
  match l.fn with
  | .rsum => [reduceSum as_]
  | .rmax => [reduceMax as_]
  | .smax => softmax l.o.imm.toNat as_
  | .rms => rmsNorm (p.getD 0 0) (p.getD 1 0) as_ ws
  | .lnorm => layerNorm (p.getD 0 0) (p.getD 1 0) as_ ws (s.vals x 0 (l.c + 64) l.n)
  | _ => []

/-- Where row `r` of a whole-row result lands. -/
def VxLay.wholeAt (l : VxLay) (r : Nat) : Nat := if l.fn = .rsum ∨ l.fn = .rmax then l.d + 64 * r else l.rowD r

/-! ### Operand ranges -/

/-- The SRAM ranges read. -/
def VxLay.reads (l : VxLay) : List (Nat × Nat) :=
  let rows := List.range l.rows
  rows.map (fun r => (l.rowA r, l.n * l.ea)) ++
  (if l.fn.usesB then (if l.o.bsc then [(l.b, l.eb)] else rows.map (fun r => (l.rowB r, l.n * l.eb))) else []) ++
  (if l.fn.usesC then (if l.o.csc then [(l.c, 4)] else rows.map (fun r => (l.rowC r, l.n * 4))) else []) ++
  (match l.fn with
   | .req => if l.o.ssrc then [(l.c, 4)] else []
   | .rms => [(l.b, (if l.o.bsc then 1 else l.n) * l.eb), (l.c, 8)]
   | .lnorm => [(l.b, (if l.o.bsc then 1 else l.n) * l.eb), (l.c, 8), (l.c + 64, l.n * 4)]
   | _ => [])

/-- The SRAM ranges written. -/
def VxLay.writes (l : VxLay) : List (Nat × Nat) :=
  let rows := List.range l.rows
  (if l.fn = .rsum ∨ l.fn = .rmax then rows.map (fun r => (l.d + 64 * r, l.ed)) else rows.map (fun r => (l.rowD r, l.n * l.ed))) ++
  (if l.fn = .req ∧ l.o.bmap then [(l.b, 16 * ((l.n + 127) / 128) * l.rows)] else [])

/-- A VX instruction other than VKL started. -/
def State.startVx (s : State) (fn : VxFn) (h : Hdr) (o : VxOps) (x : Ctx) : State :=
  let l := vxLay fn o x
  if h.rsv != 0 || vxBad fn o then s.noEffect .vx h x .vx
  else if l.rows = 0 then s.begin h x .vx
  else
    let c := x.core
    let s := (s.operands x .vx l.reads l.writes).chargeCore c 2 (l.rows * l.n * fn.lanes)
    let s := match fn with
      | .rsum | .rmax | .smax | .rms | .lnorm =>
        let rs := (List.range l.rows).map (fun r => (r, l.wholeRow s x r, l.rowDirty s x r))
        State.each rs (fun p s =>
          let s := s.vxRow x (l.wholeAt p.1) (narrow o.fd.toNat p.2.1) (fun _ => p.2.2)
          if p.2.2 then s.vxFault x 2 0 else s) s
      | _ =>
        let hit := (fn == VxFn.mul || fn == VxFn.fma) && (s.core c).vxArmed
        let rs := (List.range l.rows).map (fun r => (r, l.elRow s x r))
        let s := if hit then s.modCore c (fun k => { k with vxArmed := false }) else s
        State.each rs (fun p s => l.putRow x p.1 p.2 (hit && p.1 == 0) s) s
    s.begin h x .vx

/-! ### VKL (R233 to R235) -/

/-- The loss and the gradient of a row of logits `z` against a record of `k` entries: R234. -/
def klRow (t w : Nat) (z : List Nat) (k res : Nat) (lp : List Nat) (ids : List Nat) : Nat × List Nat :=
  let one := 0x3F800000
  let n := z.length
  let m := reduceMax z
  let c := fmul t 0x3FB8AA3B
  let u := z.map (fun v => fmul (fsub v m) c)
  let e := u.map fexp2
  let sm := reduceSum e
  let lg := flog2 sm
  let rs := frcp sm
  let q := e.map (fun v => fmul v rs)
  let js := (List.range k).map (fun j => (ids.getD j 0, lp.getD j 0))
  let d := js.map (fun p => fmul (fexp2 p.2) (fsub p.2 (fsub (u.getD p.1 0) lg)))
  let pt := js.foldl (fun (l : Sparse (Option Nat)) p => sput none l p.1 (some (fadd ((sget none l p.1).getD 0) (fexp2 p.2)))) []
  let qs := js.map (fun p => q.getD p.1 0)
  let r := fexp2 res
  let qrest := fmax (fsub one (reduceSum qs)) 0x00800000
  let dr := fmul r (fsub res (flog2 qrest))
  let loss := fadd (reduceSum d) dr
  let g := fmul r (frcp qrest)
  (loss, (List.range n).map (fun i =>
    let qi := q.getD i 0
    let p := (sget none pt i).getD (fmul qi g)
    fmul w (fsub qi p)))

/-- Row `r` of a VKL computed from a record's lines: the gradient row at agd and the loss at agc + 64 + 4 r. -/
def State.vklRow (s : State) (x : Ctx) (o : VxOps) (aga agc agd r : Nat) (rec_ : MarkedLines) : State :=
  let n := o.len.toNat
  let ea := fmtBytes o.fa.toNat
  let ed := fmtBytes o.fd.toNat
  let zo := aga + r * up64 (n * ea)
  let b := rec_.flatMap Prod.fst
  let k := leNat ((b.drop 4).take 2)
  let res := toF32 .f16 (leNat ((b.drop 6).take 2))
  let lp := (elems 2 ((b.drop 16).take 512)).map (toF32 .f16)
  let idw := leNat ((b.drop 528).take 640)
  let ids := (List.range 256).map (fun j => idw / 2 ^ (20 * j) % 2 ^ 20)
  let bad := k == 0 || decide (256 < k) || (ids.take k).any (fun v => decide (n ≤ v))
  let ps := s.vals x 0 agc 2
  let dirty := anyMark rec_ || s.opPoison x zo (n * ea) || s.opPoison x agc 8
  let s := s.chargeCore x.core 2 (8 * n + 2 * k)
  let put := fun (s : State) (g loss : List Byte) (p : Bool) =>
    (s.vxRow x (agd + r * up64 (n * ed)) g (fun _ => p)).opWrite x .vx (agc + 64 + 4 * r) loss p
  let s := if dirty then s.vxFault x 2 0 else s
  if bad then put (s.violate x.core .vx (s.pc x)) (List.replicate (n * ed) 0) (List.replicate 4 0) true
  else
    let v := klRow (ps.getD 0 0) (ps.getD 1 0) (s.vals x o.fa.toNat zo n) k res lp ids
    put s (narrow o.fd.toNat v.2) (leBytes 4 v.1) dirty

/-- Rows `r` on of a VKL that reads a ring, as long as records have arrived: the first row that still waits (R233, R235). -/
def State.vklRing (x : Ctx) (o : VxOps) (b n aga agc agd : Nat) : Nat → Nat → State → Nat × State
  | 0, r, s => (r, s)
  | f + 1, r, s =>
    match s.nextRecord b n with
    | some (ls, s) =>
      let s := s.chargeCore x.core 3 ls.length
      State.vklRing x o b n aga agc agd f (r + 1) ((s.vklRow x o aga agc agd r ls).consumeRecord b n)
    | none => (r, s)

/-- The tally ring whose first slot agb addresses, if it does: R233. -/
def State.ringAtOff (s : State) (c o : Nat) : Option (Nat × Nat) :=
  let p := s.payer c
  match s.bindingOf p with
  | some b =>
    ((List.range 8).find? (fun n => s.ringOn b n && !s.ringAct b n && s.ringDst b n == c && s.ringReceiver b n == some p &&
      s.ringBase b n == o)).map (fun n => (b, n))
  | none => none

/-- VKL started. In ring mode each record is read from its slot as its row is computed, so agb names no range of its own (R233). -/
def State.startVkl (s : State) (h : Hdr) (o : VxOps) (x : Ctx) : State :=
  let l := vxLay .kl o x
  let c := x.core
  if h.rsv != 0 || vxBad .kl o then s.noEffect .vx h x .vx
  else if l.rows = 0 then s.begin h x .vx
  else
    let rows := List.range l.rows
    let zs := rows.map (fun r => (l.rowA r, l.n * l.ea))
    let outs := rows.map (fun r => (l.rowD r, l.n * l.ed)) ++ [(l.c + 64, 4 * l.rows)]
    match s.ringAtOff c l.b with
    | some (b, n) =>
      let s := s.operands x .vx (zs ++ [(l.c, 8)]) outs
      if s.bindBroken b then
        ((s.deadRows x o l.ed 0 l.rows l.d l.c).hxFault c 2 n (s.pc x)).begin h x .vx
      else
        let r := State.vklRing x o b n l.a l.c l.d l.rows 0 s
        r.2.begin h x .vx (if l.rows ≤ r.1 then .done else .hxRow b n o r.1 l.rows) [(0, l.d), (1, l.c), (2, l.a)]
    | none =>
      let s := s.operands x .vx (zs ++ [(l.c, 8), (l.b, 1216 * l.rows)]) outs
      let recs := rows.map (fun r => (r, (List.range 19).map (fun i =>
        (s.opBytes x .vx (l.b + 1216 * r + 64 * i) 64, s.opPoison x (l.b + 1216 * r + 64 * i) 64))))
      (State.each recs (fun p s => s.vklRow x o l.a l.c l.d p.1 p.2) s).begin h x .vx

/-- A VKL that waited for records goes on with those that there now are. -/
def State.resumeRow (s : State) (c : Nat) (q : Busy) : State :=
  match q.wait with
  | .hxRow b n o row rows =>
    let x : Ctx := { core := c, idx := q.idx, gens := [], ctrs := [] }
    let r := State.vklRing x o b n (sget 0 q.args 2) (sget 0 q.args 1) (sget 0 q.args 0) (rows - row) row s
    r.2.modCore c (fun k => { k with
      busy := k.busy.map (fun t => if t == q then { t with wait := if rows ≤ r.1 then .done else .hxRow b n o r.1 rows } else t), stalled := false })
  | _ => s

end Sys2Proof.Machine
end

