-- ==== Sys2Proof/Machine/Boundary.lean ====
section
/-! DEFINITION. Machine/Boundary.lean: what the instruction boundary of a core does (R12, R29 to R31): its shadow fields become live, a lace
configuration is checked first (R130), and the write-only actions written since the last boundary act (R90, R101, R102, R155, R157). -/

namespace Sys2Proof.Machine

open Sys2Proof

/-! ### The lace configuration (R130) -/

/-- A lace control word. -/
structure LaceCtl where
  on     : Bool
  role   : Nat
  succ   : Nat
  credits : Nat
  deriving DecidableEq, Repr

/-- Core `c`'s control of channel `l` as written: its shadow where a write waits, else what is live. -/
def State.lacePlan (s : State) (c l : Nat) : LaceCtl :=
  let w := s.shadowOf (Reg.DX_LACE_CTL c l)
  ⟨Machine.bit w 0, Machine.fld w 1 2, Machine.fld w 8 5, Machine.fld w 16 7⟩

/-- The members from core `c` on toward the tail, or none where a successor has no place on the channel or the chain does not end. -/
def State.laceDown (s : State) (l : Nat) : Nat → Nat → Option (List Nat)
  | 0, _ => none
  | f + 1, c =>
    let t := s.lacePlan c l
    if t.role = 2 then some [c]
    else
      let u := s.lacePlan t.succ l
      if s.hasCore t.succ && u.on && u.role != 0 then (s.laceDown l f t.succ).map (fun r => c :: r) else none

/-- The members before core `c`, nearest first, back to the head. -/
def State.laceUp (s : State) (l : Nat) : Nat → Nat → Option (List Nat)
  | 0, _ => none
  | f + 1, c =>
    let preds := (List.range s.coreCount).filter (fun p => let t := s.lacePlan p l; t.on && t.role != 2 && t.succ == c)
    if (s.lacePlan c l).role = 0 then (if preds.isEmpty then some [] else none)
    else
      match preds with
      | [p] => (s.laceUp l f p).map (fun r => p :: r)
      | _ => none

/-- Whether channel `l` of core `c` forms a lace: one chain from head to tail over cores of the head's job. -/
def State.laceForms (s : State) (c l : Nat) : Bool :=
  match s.laceUp l 33 c, s.laceDown l 33 c with
  | some up, some down =>
    let all := up ++ down
    let job := (s.core (up.getLast?.getD c)).job
    decide (2 ≤ all.length) && decide (all.length ≤ s.coreCount) && job.isSome && all.all (fun m => (s.core m).job == job)
  | _, _ => false

/-- The lowest channel on which core `c`'s configuration fails to form, if any; channel 0 for credits that sum to more than 64. -/
def State.laceBad (s : State) (c : Nat) : Option Nat :=
  let on := (List.range 4).filter (fun l => (s.lacePlan c l).on)
  match on.find? (fun l => !s.laceForms c l) with
  | some l => some l
  | none => if 64 < on.foldl (fun n l => n + (s.lacePlan c l).credits) 0 then some 0 else none

/-- Every credit core `c` has granted on channel `l` returned, its slots free: what an ended lace leaves (R134). -/
def State.laceReturn (s : State) (c l : Nat) : State :=
  let v := (s.core c).laceCh l
  let s := s.modCore c (fun k => k.setLace l {})
  if v.granted = 0 then s
  else
    let part := if v.drained = 0 then 0 else 1
    let s := (s.slotDrain c (v.granted - v.done - part)).slotFree c v.granted
    (s.setFld (Reg.DX_LACE_CREDIT c l) 32 32 (s.fld (Reg.DX_LACE_CREDIT c l) 32 32 + v.granted)).tick 1 v.granted

/-- After the lace controls of core `c` have become live: credits of disabled channels return, enabled members grant theirs (R132). -/
def State.laceLive (s : State) (c : Nat) : State :=
  State.each (List.range 4) (fun l s =>
    let t := s.laceCtl c l
    if t.1 then
      let s := s.grant 64 c l
      if t.2.1 = 2 then s else s.grant 64 t.2.2.1 l
    else s.laceReturn c l) s

/-! ### Check-bit injection (R157) -/

/-- The arm and the mask of a flip register as its shadow `w` has them: the latched mask, when the arm was written or a live mask of zero
cancels. `live` is the mask live after the swap. -/
def flipNext (pend : BitVec 8) (armed wroteMask : Bool) (live : BitVec 8) : BitVec 8 :=
  if armed then live else if wroteMask && live == 0 then 0 else pend

/-- Group `g` of core `c`'s SRAM at the boundary. -/
def State.flipBoundary (s : State) (c g : Nat) : State :=
  let off := Reg.SRAM_FLIP c g
  match s.shadow.find? (fun e => e.1 == off) with
  | some e =>
    let s := s.takeShadow off
    let k := s.core c
    let m := flipNext (sget 0 k.flipPend g) (Machine.bit e.2 8) true (BitVec.ofNat 8 (s.fld off 0 8))
    s.setCore c { k with flipPend := sput 0 k.flipPend g m }
  | none => s

/-- The hub SRAM's group: R157. -/
def State.hubFlipBoundary (s : State) : State :=
  let off := Reg.HUB_SRAM_FLIP 0
  match s.shadow.find? (fun e => e.1 == off) with
  | some e =>
    let s := s.takeShadow off
    s.modHub (fun h => { h with pend := flipNext h.pend (Machine.bit e.2 8) true (BitVec.ofNat 8 (s.fld off 0 8)) })
  | none => s

/-! ### The boundary -/

/-- A clip counter set zeroed: R101. -/
def State.clipZero (c t : Nat) (s : State) : State :=
  (((s.setReg (Reg.VX_CLIP_TOTAL c t) 0).setReg (Reg.VX_CLIP_HIGH c t) 0).setReg (Reg.VX_CLIP_LOW c t) 0).setReg (Reg.VX_CLIP_NAN c t) 0

/-- Whether a write-only bit of a register waits in its shadow. -/
def State.waits (s : State) (off i : Nat) : Bool :=
  match s.shadow.find? (fun e => e.1 == off) with
  | some e => Machine.bit e.2 i
  | none => false

/-- Every valid bit of the hub SRAM cleared: the records of the daybook's rings read as zero, and no line carries a mark or an injected error
(R155). DESIGN CHOICE: a flit that waits in a port's queue has left its buffer. -/
def State.hubClear (s : State) : State :=
  let s := s.modHub (fun h => { h with valid := [], poison := [], flipped := [] })
  { s with daybook := { s.daybook with rings := s.daybook.rings.map (fun e => (e.1, e.2.map (fun _ => ⟨0, false, false, 0, 0, 0⟩))) } }

/-- The instruction boundary of core `c`: every shadow field of its window becomes live at once, and the armed actions act. -/
def State.boundary (s : State) (c : Nat) : State :=
  let mxArm := s.waits (Reg.MX_TEST c) 8
  let vxArm := s.waits (Reg.VX_TEST c) 8
  let clips := (List.range 16).filter (s.waits (Reg.VX_CLIP_CTL c))
  let clear := s.waits (Reg.SRAM_CTL c) 0
  let lace := (List.range 4).map (Reg.DX_LACE_CTL c)
  let laceWaits := s.shadow.any (fun e => lace.contains e.1)
  let bad := if laceWaits then s.laceBad c else none
  let s := match bad with
    | some l => s.coreFault c .dx 4 (s.pcOf c (s.core c).index) (l * 2 ^ 8)
    | none => s
  let s := State.each (List.range 6) (fun g s => s.flipBoundary c g) s
  let mine := s.waiting .instr (fun o => decide (coreWin c ≤ o) && decide (o < coreWin c + 0x100000) && !(bad.isSome && lace.contains o))
  let s := State.each mine (fun o s => s.takeShadow o) s
  let s := if laceWaits && bad.isNone then s.laceLive c else s
  let s := if mxArm then s.modCore c (fun k => { k with mxArmed := setAdd k.mxArmed (s.fld (Reg.MX_TEST c) 0 2) }) else s
  let s := if vxArm then s.modCore c (fun k => { k with vxArmed := true }) else s
  let s := State.each clips (fun t s => s.clipZero c t) s
  let s := if clear then s.clearValid c else s
  let s := if s.waits Reg.HUB_SRAM_CTL 0 then s.hubClear else s
  s.hubFlipBoundary.takeShadow Reg.HUB_SRAM_CTL

end Sys2Proof.Machine
end

