-- ==== Sys2Proof/Machine/Start.lean ====
section
/-! DEFINITION. Machine/Start.lean: what an instruction is found to be at its issue (R165, R169, R192), and the start of an engine instruction
from its queue (R163, R166). -/

namespace Sys2Proof.Machine

open Sys2Proof

/-! ### Instructions that retire without effect (R169, R192) -/

/-- What an instruction is found to be at issue: good, or one that retires without effect. -/
inductive Fate where
  | good | opcode | fused | operand
  deriving DecidableEq, Repr

/-- The VX operation of a VX instruction. -/
def vxOf : Instr → Option (VxFn × VxOps)
  | .vadd _ o => some (.add, o)
  | .vsub _ o => some (.sub, o)
  | .vmul _ o => some (.mul, o)
  | .vfma _ o => some (.fma, o)
  | .vmin _ o => some (.min_, o)
  | .vmax _ o => some (.max_, o)
  | .vcmp _ o => some (.cmp, o)
  | .vsel _ o => some (.sel, o)
  | .vabs _ o => some (.abs, o)
  | .vneg _ o => some (.neg, o)
  | .vexp2 _ o => some (.exp2, o)
  | .vlog2 _ o => some (.log2, o)
  | .vrcp _ o => some (.rcp, o)
  | .vrsq _ o => some (.rsq, o)
  | .vcvt _ o => some (.cvt, o)
  | .vreq _ o => some (.req, o)
  | .vlf _ o => some (.lf, o)
  | .vlfa _ o => some (.lfa, o)
  | .vrsum _ o => some (.rsum, o)
  | .vrmax _ o => some (.rmax, o)
  | .vsmax _ o => some (.smax, o)
  | .vrms _ o => some (.rms, o)
  | .vlnorm _ o => some (.lnorm, o)
  | .vkl _ o => some (.kl, o)
  | _ => none

/-- Operand values that an instruction's row reserves or forbids, as its own bits show them: R192 to R217. What only a block in SRAM shows is
found when the engine starts. -/
def badOps (i : Instr) : Bool :=
  match i with
  | .loop _ l _ n => decide (6 ≤ l.toNat) || n == 0
  | .exitLoop _ _ l | .cidx _ _ l => decide (6 ≤ l.toNat)
  | .skip _ _ n => n == 0
  | .cmp _ _ _ _ _ _ c => decide (6 ≤ c.toNat)
  | .cldr _ _ _ _ off => decide (off.toNat % 8 ≠ 0)
  | .aginc _ _ l _ => decide (6 ≤ l.toNat)
  | .mxt _ o => mxtBad o || mxtSplit16 o
  | .mxp _ _ p => decide (2 ≤ p.toNat)
  | .allred _ o | .redscat _ o | .bcast _ o | .clear _ o => o.opHi != 0
  | .sxtopk _ _ _ _ _ _ k _ | .sxmerge _ _ _ _ _ _ k => k == 0 || decide (4096 < k.toNat)
  | .oxupd _ o => o.len == 0 || o.rule == 3
  | .oxsr _ o => o.len == 0
  | i => match vxOf i with
    | some (f, o) => vxBad f o
    | none => false

/-- What instruction `i` of class `cls` with header `h` is found to be: R169 and R192. A DX instruction's operands are its descriptor's affair
(R113). -/
def State.fate (s : State) (i : Instr) (cls : Cls) (h : Hdr) : Fate :=
  if h.badTok then .opcode
  else if s.fusedOff && (cls == .ox || cls == .hx) then .fused
  else if cls != .dx && (h.rsv != 0 || badOps i) then .operand
  else .good

/-- The unit of a class's violations under R192; the sequencer stands for itself and the hub. -/
def clsUnit : Cls → CoreUnit
  | .dx => .dx
  | .mx => .mx
  | .vx => .vx
  | .sx => .sx
  | .ox => .ox
  | .hx => .hx
  | .gx => .gx
  | .seq | .media | .purse => .seq

/-- The violation of an instruction that retires without effect: R169, R192. -/
def State.fateViolate (s : State) (c : Nat) (cls : Cls) (f : Fate) : State :=
  let pc := s.pcOf c (s.core c).index
  match f with
  | .good => s
  | .opcode => s.seqViolate c 0 pc
  | .fused => s.seqViolate c 1 pc
  | .operand => if clsUnit cls = .seq then s.seqViolate c 0 pc else s.violate c (clsUnit cls) pc

/-- The counter or comparator that a no-op of R169 would have written reads as zero. -/
def Core.zeroDest (k : Core) : Instr → Core
  | .cset _ cd _ | .cadd _ cd _ _ | .csub _ cd _ _ | .cmul _ cd _ _ | .cmin _ cd _ _ | .cmax _ cd _ _ | .cdiv _ cd _ _ | .cidx _ cd _
  | .cldr _ cd _ _ _ | .clds _ cd _ _ => k.setC cd.toNat 0
  | .cmp _ kk _ _ _ _ _ => k.setK kk.toNat false
  | _ => k

/-! ### Starting (R163, R166) -/

/-- A queued engine instruction started: its whole effect, and its place among the started ones until it retires. -/
def State.start (s : State) (q : Queued) : State :=
  let x := q.x
  match q.i with
  | .dxs h o => s.dxStart false h o x
  | .dxg h o => s.dxStart true h o x
  | .mxt h o => s.startMxt h o x
  | .mxl h slot kind g imm => s.startMxl h slot.toNat kind.toNat g.toNat imm.toNat x
  | .mxp h slot p => s.startMxp h slot.toNat p.toNat x
  | .sxtopk h a l nc d u k f => s.startTopk h a l nc d u k.toNat f x
  | .sxmerge h a b d ds u k => s.startMerge h a b d ds u k.toNat x
  | .sxand h a b d p nc => s.startAnd h a b d p nc x
  | .sxroute h a d p nc e r => s.startRoute h a d p nc e.toNat r.toNat x
  | .sxwalk h aq ad => s.startWalk h aq ad x
  | .oxupd h o => s.startOx true h o x
  | .oxsr h o => s.startOx false h o x
  | .hxsend h o => s.startHx true h o x
  | .hxrecv h o => s.startHx false h o x
  | .gxput h o => s.startGx false h o x
  | .gxget h o => s.startGx true h o x
  | .allred h o => s.startColl 0 h o x
  | .redscat h o => s.startColl 1 h o x
  | .bcast h o => s.startColl 2 h o x
  | .clear h o => s.startColl 3 h o x
  | .mrd h a imm => s.startMedia .rd h a imm x
  | .mwr h a imm => s.startMedia .wr h a imm x
  | .mapp h a imm => s.startMedia .app h a imm x
  | .pread h a => s.startPread h a x
  | .pres h a ec => s.startPres h a ec x
  | .vkl h o => s.startVkl h o x
  | i => match vxOf i, i.op? with
    | some (f, o), some (_, h) => s.startVx f h o x
    | _, _ => s

/-- The queue a class's instructions go to: media and purse share one (R163). -/
def clsQueue : Cls → Cls
  | .purse => .media
  | c => c

/-- Entries of a queue: R163. -/
def clsCap (c : Cls) : Nat := if clsQueue c = .media then 4 else 8

/-- The queue an instruction stands in. -/
def Queued.lane (q : Queued) : Cls :=
  match q.i.op? with
  | some (c, _) => clsQueue c
  | none => .seq

/-- The first entry of a queue. -/
def Core.headOf (k : Core) (c : Cls) : Option Queued := k.queue.find? (fun q => q.lane == c)

/-- Whether a class's queue is full. -/
def Core.full (k : Core) (c : Cls) : Bool := decide (clsCap c ≤ (k.queue.filter (fun q => q.lane == clsQueue c)).length)

/-- Whether a started instruction holds its engine: one that waits on a harness ring (R212, R233). -/
def Busy.holds (b : Busy) (c : Cls) : Bool :=
  b.cls == c &&
    (match b.wait with
     | .hxSend _ _ _ _ _ | .hxRecv _ _ _ _ _ | .hxRow _ _ _ _ _ => true
     | .done | .gx _ | .coll _ _ | .pres | .media _ => false)

/-- Whether a class's engine can start another instruction: DX runs 16 streams (R116), GX 64 transactions (R384); SXWALK needs its partition's
reins open, a media request the media rein (R400) and nothing that holds it at the dies (R315, R328). -/
def State.engineFree (s : State) (c : Nat) (q : Queued) : Bool :=
  let k := s.core c
  match q.lane with
  | .dx => decide (k.streams.length < 16)
  | .gx => decide ((s.girth.txns.filter (fun t => t.core == c)).length < 64)
  | .sx => (match q.i with
    | .sxwalk _ _ _ => s.reinOpen (s.payer c) .dram && s.reinOpen (s.payer c) .media
    | _ => true)
  | .media => (match q.i with
    | .mrd _ a m => s.reinOpen (s.payer c) .media && !s.mediaWaits q.x .rd a m
    | .mwr _ a m | .mapp _ a m => s.reinOpen (s.payer c) .media && !s.mediaWaits q.x .wr a m
    | _ => true)
  | l => !k.busy.any (fun b => b.holds l)

/-- Whether an instruction waits on a token. -/
def Queued.waits (q : Queued) : Bool :=
  match q.i.op? with
  | some (_, h) => h.wait
  | none => false

/-- The order in which waiters are served: R177. -/
def laneOrder : List Cls := [.mx, .vx, .sx, .ox, .dx, .hx, .gx, .media]

/-- A queue's head taken out and started. -/
def State.launch (s : State) (c : Nat) (q : Queued) : State := (s.modCore c (fun k => { k with queue := k.queue.erase q })).start q

end Sys2Proof.Machine
end

