-- ==== Sys2Proof/Machine/Seq.lean ====
section
/-! DEFINITION. Machine/Seq.lean: the sequencer (R163 to R181, R194 to R197): fetch and issue, the sequencer's own instructions, queues and
their heads, tokens, retirement, boundaries and the report of a stopped core. -/

namespace Sys2Proof.Machine

open Sys2Proof

/-! ### The instruction cache (R167) -/

/-- The cached lines of the set that line `l` belongs to, most recently used first. -/
def Core.ways (k : Core) (l : Nat) : List Nat := sget [] k.icache (l % 256)

/-- A line fetched into the cache: four ways, the least recently used replaced; a DRAM access charged to the partition. -/
def State.fillLine (s : State) (c l : Nat) : State :=
  (s.modCore c (fun k => { k with icache := sput [] k.icache (l % 256) ((l :: k.ways l).take 4) })).chargeCore c 4 1

/-- The line of the next instruction in the cache: a hit, or a miss fetched from DRAM; the next sequential line of the code is fetched with
it. None while a DRAM rein of zero holds a fetch that issue needs (R400). -/
def State.fetch (s : State) (c : Nat) : Option State :=
  let k := s.core c
  let l := s.pcOf c k.index / 64
  let hit := (k.ways l).contains l
  if !hit && !s.mayMove c (64 * l) then none
  else
    let s := if hit then s.modCore c (fun k => { k with icache := sput [] k.icache (l % 256) (l :: (k.ways l).erase l) })
      else (s.addReg (Reg.SEQ_ICACHE_MISS c) 1).fillLine c l
    let n := l + 1
    let more := decide (64 * n < k.codeBase + 16 * k.codeLen) && !((s.core c).ways n).contains n && s.mayMove c (64 * n)
    some (if more then s.fillLine c n else s)

/-! ### The next index (R168, R170) -/

/-- Levels at which index `n` is the end of the body: another iteration, or the level done. -/
def wrapLevels : List Level → Nat → List Level × Nat
  | [], n => ([], n)
  | v :: r, n =>
    if n = v.stop then (if v.idx + 1 < v.trips then ({ v with idx := v.idx + 1 } :: r, v.start) else wrapLevels r n)
    else (v :: r, n)

/-- Issue continues at index `n`, or where the loops that end there lead. -/
def Core.goto (k : Core) (n : Nat) : Core :=
  let r := wrapLevels k.levels n
  { k with levels := r.1, index := r.2 }

/-- Issue past the code acts as END: R168. -/
def State.rangeCheck (s : State) (c : Nat) : State :=
  let k := s.core c
  if k.run = .running ∧ k.held = none ∧ k.ended = false ∧ k.codeLen ≤ k.index then
    (s.seqViolate c 2 (s.pcOf c k.index)).modCore c (fun k => { k with held := some (.atEnd false) })
  else s

/-! ### Queues (R163) -/

/-- An engine instruction put in its queue with what it finds at issue; a boundary instruction holds issue (R180). -/
def State.queueIn (s : State) (c : Nat) (i : Instr) (h : Hdr) : State :=
  let x := s.ctx c i
  (s.modCore c (fun k =>
    { k.goto (k.index + 1) with queue := k.queue ++ [⟨i, x⟩], held := if h.boundary then some .atBoundary else none, stalled := false })).addReg
    (Reg.SEQ_ISSUED c) 1

/-- The instruction the sequencer holds for a full queue, once there is room. -/
def Core.heldEngine (k : Core) : Option (Instr × Hdr) :=
  match k.held with
  | some (.instr i) =>
    match i.op? with
    | some (cls, h) => if cls != .seq && !k.full cls then some (i, h) else none
    | none => none
  | _ => none

/-- Queue heads that wait on no token started in their engines, and held instructions taken into their queues, until nothing moves. -/
def State.kick : Nat → Nat → State → State
  | 0, _, s => s
  | f + 1, c, s =>
    let k := s.core c
    match laneOrder.findSome? (fun l => (k.headOf l).filter (fun q => !q.waits && s.engineFree c q)) with
    | some q => State.kick f c (s.launch c q)
    | none =>
      match k.heldEngine with
      | some (i, h) => State.kick f c (s.queueIn c i h)
      | none => s

/-- Core `c` goes on as far as it can without a token or an arrival. A core that is switching starts nothing more (R182). -/
def State.run (s : State) (c : Nat) : State :=
  if (s.core c).run = .switchedOut then s else ((State.kick 128 c s).rangeCheck c).settle c

/-- Every core goes on: after what may have opened a rein. -/
def State.runAll (s : State) : State := State.each (List.range s.coreCount) (fun c s => s.run c) s

/-! ### The end of a sequencer instruction -/

/-- The sequencer instruction has executed: it signals (R166), issue continues at index `n`, and a boundary holds it (R180). -/
def State.seqDone (s : State) (h : Hdr) (n : Nat) : State :=
  let c := h.core.toNat
  let s := s.signal? c h.sig (s.core c).index
  s.modCore c (fun k => { k.goto n with held := if h.boundary then some .atBoundary else none, stalled := false })

/-! ### Prefetches given up (R122, R176, R179, R197) -/

/-- Whether the instruction that a prefetch was made for has issued and waits in DX's queue. -/
def Core.waitsQueued (k : Core) (f : Prefetch) : Bool := k.queue.any (fun q => q.lane == .dx && f.is q.x)

/-- Prefetches for instructions that have not issued cancelled, where `p` holds. -/
def State.cancelAhead (s : State) (c : Nat) (p : Prefetch → Bool) : State :=
  s.cancelPrefetch c (fun f => p f && !(s.core c).waitsQueued f)

/-- Whether a prefetch is for an instruction at index `lo` up to `hi` under loop indices that end in `iter`. -/
def Prefetch.within (f : Prefetch) (lo hi : Nat) (iter : List Nat) : Bool :=
  decide (lo ≤ f.idx) && decide (f.idx < hi) && iter.isSuffixOf f.iter

/-- Whether a prefetch is for an iteration beyond `trips` of a loop over `lo` up to `hi` entered under `iter`. -/
def Prefetch.beyondTrips (f : Prefetch) (lo hi trips : Nat) (iter : List Nat) : Bool :=
  f.within lo hi iter && decide (trips ≤ (f.iter.reverse.getD iter.length 0))

/-- The index after the instruction now at issue on core `c`. -/
def State.nextIx (s : State) (c : Nat) : Nat := (s.core c).index + 1

/-- A sequencer fault that counts as a violation, at the instruction now at issue. -/
def State.seqBad (s : State) (c b : Nat) : State := s.seqViolate c b (s.pcOf c (s.core c).index)

/-! ### The instructions' effects (R195) -/

/-- END: the core's part of the step is over once every earlier instruction has retired (R188). -/
def State.doEnd (s : State) (h : Hdr) : State :=
  let s := (s.signal? h.core.toNat h.sig (s.core h.core.toNat).index).cancelAhead h.core.toNat (fun _ => true)
  s.modCore h.core.toNat (fun k => { k with index := k.index + 1, held := some (.atEnd h.boundary), stalled := false })

/-- LOOP: R170, R171. -/
def State.doLoop (s : State) (h : Hdr) (l ca n : Nat) : State :=
  let c := h.core.toNat
  let k := s.core c
  let start := k.index + 1
  let stop := start + n
  let iter := k.levels.map Level.idx
  let bad := match k.levels.head? with
    | some v => decide (v.stop < stop ∨ v.level ≤ l)
    | none => false
  let trips := if bad then 0 else (k.c ca).toNat
  -- what prefetch took from another count of the loop is given up (R179)
  let s := s.cancelAhead c (fun f => f.beyondTrips start stop trips iter)
  if bad then (s.seqBad c 3).seqDone h (match k.levels.head? with
    | some v => min stop v.stop
    | none => stop)
  else if trips = 0 then s.seqDone h stop
  else (s.modCore c (fun k => { k with levels := ⟨l, start, stop, trips, 0⟩ :: k.levels })).seqDone h start

/-- EXIT: R175, R122. -/
def State.doExit (s : State) (h : Hdr) (kk l : Nat) : State :=
  let c := h.core.toNat
  let k := s.core c
  match k.level? l with
  | some v =>
    if k.k kk then
      let s := s.setCore c { k with levels := (k.levels.dropWhile (fun u => u.level != l)).tail }
      (s.cancelAhead c (fun _ => true)).seqDone h v.stop
    else s.seqDone h (s.nextIx c)
  | none => s.seqDone h (s.nextIx c)

/-- SKIP: R176. -/
def State.doSkip (s : State) (h : Hdr) (kk n : Nat) : State :=
  let c := h.core.toNat
  let k := s.core c
  let stop := k.index + 1 + n
  if k.k kk then
    let s := s.cancelAhead c (fun f => f.within k.index stop (k.levels.map Level.idx))
    match k.levels.head? with
    | some v => if v.stop < stop then (s.seqBad c 3).seqDone h v.stop else s.seqDone h stop
    | none => s.seqDone h stop
  else s.seqDone h (s.nextIx c)

/-- The outcome of a comparison: R174. -/
def cmpCond (cond : Nat) (a b : BitVec 32) : Bool :=
  match cond with
  | 0 => a == b
  | 1 => a != b
  | 2 => decide (a.toNat < b.toNat)
  | 3 => decide (b.toNat ≤ a.toNat)
  | 4 => decide (a.toInt < b.toInt)
  | _ => decide (b.toInt ≤ a.toInt)

/-- CMP: R174, R194. -/
def State.doCmp (s : State) (h : Hdr) (kk ca : Nat) (bimm : Bool) (cb : BitVec 4) (imm : BitVec 16) (cond : Nat) : State :=
  let c := h.core.toNat
  let k := s.core c
  let b := if bimm then imm.signExtend 32 else k.c cb.toNat
  (s.setCore c (k.setK kk (cmpCond cond (k.c ca) b))).seqDone h (s.nextIx c)

/-- JMP: R197. -/
def State.doJmp (s : State) (h : Hdr) (kk : Nat) (cond : Bool) (t : Nat) : State :=
  let c := h.core.toNat
  let k := s.core c
  let inside := match k.levels.head? with
    | some v => decide (v.start ≤ t) && decide (t < v.stop)
    | none => true
  if cond && !k.k kk then s.seqDone h (s.nextIx c)
  else if inside then (s.cancelAhead c (fun _ => true)).seqDone h t
  else (s.seqBad c 3).seqDone h (s.nextIx c)

/-- A counter instruction: `f` makes the new value from C[ca] and the source (R173, R194). -/
def State.doCount (s : State) (h : Hdr) (cd ca : Nat) (src : CSrc) (f : BitVec 32 → BitVec 32 → BitVec 32) : State :=
  let c := h.core.toNat
  let k := s.core c
  (s.setCore c (k.setC cd (f (k.c ca) (k.src src)))).seqDone h (s.nextIx c)

/-- The quotient rounded up: R173. -/
def divUp (a b : BitVec 32) : BitVec 32 := if b = 0 then 0 else BitVec.ofNat 32 ((a.toNat + b.toNat - 1) / b.toNat)

/-- CDIV: a division by zero is zero and a violation (R173). -/
def State.doDiv (s : State) (h : Hdr) (cd ca : Nat) (src : CSrc) : State :=
  let c := h.core.toNat
  (if (s.core c).src src = 0 then s.seqBad c 4 else s).doCount h cd ca src divUp

/-- CIDX: R195. -/
def State.doIdx (s : State) (h : Hdr) (cd l : Nat) : State :=
  let c := h.core.toNat
  let k := s.core c
  let v := match k.level? l with
    | some v => v.idx
    | none => 0
  (s.setCore c (k.setC cd (BitVec.ofNat 32 v))).seqDone h (s.nextIx c)

/-- CLDR: a field of a register in the core's own window (R173, R195). -/
def State.doLdr (s : State) (h : Hdr) (cd lsb wm1 off : Nat) : State :=
  let c := h.core.toNat
  let ok := corePresent off
  let v := if ok then (s.readCore c off).toNat / 2 ^ lsb % 2 ^ (wm1 + 1) else 0
  let s := if ok then s else s.seqBad c 5
  (s.modCore c (fun k => k.setC cd (BitVec.ofNat 32 v))).seqDone h (s.nextIx c)

/-- The offset of the word that CLDS and CSTS name: bits [1:0] ignored (R193). -/
def State.wordAt (s : State) (h : Hdr) (g imm : Nat) : Nat := sramOp ((s.core h.core.toNat).agen g).toNat imm / 4 * 4

/-- CLDS: R173. A poisoned line stops issue, and the step fails when what has issued has retired. -/
def State.doLds (s : State) (h : Hdr) (cd g imm : Nat) : State :=
  let c := h.core.toNat
  let o := s.wordAt h g imm
  if beyond o 4 then
    ((s.seqBad c 5).modCore c (fun k => k.setC cd 0)).seqDone h (s.nextIx c)
  else if s.touchesWindow c o 4 then
    (((s.seqBad c 5).harnViolate c).modCore c (fun k => k.setC cd 0)).seqDone h (s.nextIx c)
  else
    let s := (s.sramCheck c o 4).chargeCore c 3 1
    if s.sramPoison c o 4 then
      (s.coreFault c .seq 9 (s.pcOf c (s.core c).index)).modCore c (fun k => { k with held := some .poisoned, stalled := false })
    else
      let v := leNat ((List.range 4).map (fun i => s.miscorrect c (o + i) (s.sramByte c (o + i))))
      (s.modCore c (fun k => k.setC cd (BitVec.ofNat 32 v))).seqDone h (s.nextIx c)

/-- CSTS: R173, through the merge buffer of R156. -/
def State.doSts (s : State) (h : Hdr) (cd g imm : Nat) : State :=
  let c := h.core.toNat
  let o := s.wordAt h g imm
  if beyond o 4 then (s.seqBad c 5).seqDone h (s.nextIx c)
  else if s.touchesWindow c o 4 then ((s.seqBad c 5).harnViolate c).seqDone h (s.nextIx c)
  else ((s.sramWrite c o (leBytes 4 ((s.core c).c cd).toNat)).chargeCore c 3 1).seqDone h (s.nextIx c)

/-- AGSET: R196. -/
def State.doAgset (s : State) (h : Hdr) (g : Nat) (src : AgSrc) : State :=
  let c := h.core.toNat
  let k := s.core c
  let v := match src with
    | .imm v => v
    | .gen gs t => k.agen gs.toNat + BitVec.ofInt 48 (k.term t)
  (s.setCore c { k with agBase := sput 0 k.agBase g v }).seqDone h (s.nextIx c)

/-- AGADD: R196. -/
def State.doAgadd (s : State) (h : Hdr) (g : Nat) (t : AgTerm) : State :=
  let c := h.core.toNat
  let k := s.core c
  (s.setCore c { k with agBase := sput 0 k.agBase g (sget 0 k.agBase g + BitVec.ofInt 48 (k.term t)) }).seqDone h (s.nextIx c)

/-- AGINC: R196. -/
def State.doAginc (s : State) (h : Hdr) (g l : Nat) (src : AgIncSrc) : State :=
  let c := h.core.toNat
  let k := s.core c
  let v := match src with
    | .imm v => v
    | .term t => BitVec.ofInt 32 (k.term t)
  (s.setCore c { k with agInc := sput 0 k.agInc (8 * g + l) v }).seqDone h (s.nextIx c)

/-- TADD: R178, R195. -/
def State.doTadd (s : State) (h : Hdr) (t n : Nat) : State := (s.signal h.core.toNat t n (s.core h.core.toNat).index).seqDone h (s.nextIx h.core.toNat)

/-- The effect of a sequencer instruction once its wait is over. -/
def State.seqEffect (s : State) : Instr → State
  | .nop h => s.seqDone h (s.nextIx h.core.toNat)
  | .endStep h => s.doEnd h
  | .loop h l ca n => s.doLoop h l.toNat ca.toNat n.toNat
  | .exitLoop h k l => s.doExit h k.toNat l.toNat
  | .skip h k n => s.doSkip h k.toNat n.toNat
  | .cmp h k ca bimm cb imm cond => s.doCmp h k.toNat ca.toNat bimm cb imm cond.toNat
  | .jmp h k cond t => s.doJmp h k.toNat cond t.toNat
  | .cset h cd src => s.doCount h cd.toNat 0 src (fun _ b => b)
  | .cadd h cd ca src => s.doCount h cd.toNat ca.toNat src (fun a b => a + b)
  | .csub h cd ca src => s.doCount h cd.toNat ca.toNat src (fun a b => a - b)
  | .cmul h cd ca src => s.doCount h cd.toNat ca.toNat src (fun a b => a * b)
  | .cmin h cd ca src => s.doCount h cd.toNat ca.toNat src (fun a b => if a.toNat ≤ b.toNat then a else b)
  | .cmax h cd ca src => s.doCount h cd.toNat ca.toNat src (fun a b => if a.toNat ≤ b.toNat then b else a)
  | .cdiv h cd ca src => s.doDiv h cd.toNat ca.toNat src
  | .cidx h cd l => s.doIdx h cd.toNat l.toNat
  | .cldr h cd lsb wm1 off => s.doLdr h cd.toNat lsb.toNat wm1.toNat off.toNat
  | .clds h cd g imm => s.doLds h cd.toNat g.toNat imm.toNat
  | .csts h cd g imm => s.doSts h cd.toNat g.toNat imm.toNat
  | .agset h g src => s.doAgset h g.toNat src
  | .agadd h g t => s.doAgadd h g.toNat t
  | .aginc h g l src => s.doAginc h g.toNat l.toNat src
  | .tadd h t n => s.doTadd h t.toNat (n.toNat + 1)
  | _ => s

/-! ### Issue (R163, R168, R169, R177, R192) -/

/-- Whether core `c` can issue now. -/
def State.canIssue (s : State) (c : Nat) : Bool :=
  let k := s.core c
  s.hasCore c && k.run == .running && k.held.isNone && !k.ended && decide (k.index < k.codeLen)

/-- The sequencer held on `x`. -/
def State.hold (s : State) (c : Nat) (x : Held) : State := s.modCore c (fun k => { k with held := some x, stalled := false })

/-- A sequencer instruction issued: it executes, or waits in the sequencer. -/
def State.issueSeq (s : State) (i : Instr) (h : Hdr) : State :=
  let c := h.core.toNat
  if (s.core c).canTake h then ((s.addReg (Reg.SEQ_ISSUED c) 1).take c h).seqEffect i else s.hold c (.instr i)

/-- An engine instruction issued: into its queue, or held while that is full. -/
def State.issueEngine (s : State) (i : Instr) (cls : Cls) (h : Hdr) : State :=
  let c := h.core.toNat
  if (s.core c).full cls then s.hold c (.instr i) else s.queueIn c i h

/-- An instruction without effect whose wait is over: its violation, the zero it returns (R169), and its one signal. -/
def State.noopRetire (s : State) (i : Option Instr) (cls : Cls) (h : Hdr) (f : Fate) : State :=
  let c := h.core.toNat
  let s := (s.addReg (Reg.SEQ_ISSUED c) 1).fateViolate c cls f
  let s := match i with
    | some i => if f = Fate.operand then s else s.modCore c (fun k => k.zeroDest i)
    | none => s
  s.seqDone h (s.nextIx c)

/-- An instruction without effect at issue: it waits in the sequencer and signals once when its token field is well formed, and else does neither
(R169). -/
def State.issueNoop (s : State) (i : Option Instr) (cls : Cls) (h : Hdr) (f : Fate) : State :=
  let c := h.core.toNat
  if h.badTok then s.noopRetire i cls { h with signal := false } f
  else if (s.core c).canTake h then (s.take c h).noopRetire i cls h f
  else s.hold c (.noop i h)

/-- A Wenmel instruction issued on its core, when the core is at issue and its line can be fetched. -/
def State.issue (s : State) (i : Instr) : State :=
  match i.op? with
  | none => s
  | some (cls, h) =>
    let c := h.core.toNat
    if !s.canIssue c then s
    else
      match s.fetch c with
      | none => s
      | some s =>
        let s := match s.fate i cls h with
          | .good => if cls = Cls.seq then s.issueSeq i h else s.issueEngine i cls h
          | f => s.issueNoop (some i) cls h f
        s.run c

/-! ### Events of a core -/

/-- What the sequencer itself waits for on a token: R177. -/
def Core.seqWaiter (k : Core) : Option Hdr :=
  match k.held with
  | some (.instr i) =>
    match i.op? with
    | some (.seq, h) => some h
    | _ => none
  | some (.noop _ h) => some h
  | _ => none

/-- The sequencer's own waiter goes on. -/
def State.proceedSeq (s : State) (c : Nat) : State :=
  match (s.core c).held with
  | some (.instr i) =>
    match i.op? with
    | some (_, h) => (((s.modCore c (fun k => { k with held := none })).addReg (Reg.SEQ_ISSUED c) 1).take c h).seqEffect i
    | none => s
  | some (.noop none h) => ((s.modCore c (fun k => { k with held := none })).take c h).noopRetire none .seq h .opcode
  | some (.noop (some i) h) =>
    match i.op? with
    | some (cls, _) => ((s.modCore c (fun k => { k with held := none })).take c h).noopRetire (some i) cls h (s.fate i cls h)
    | none => s
  | _ => s

/-- The first queue head in the order of R177 that can take its units and start. -/
def State.readyHead (s : State) (c : Nat) : Option (Queued × Hdr) :=
  let k := s.core c
  laneOrder.findSome? (fun l =>
    match k.headOf l with
    | some q =>
      match q.i.op? with
      | some (_, h) => if h.wait && k.canTake h && s.engineFree c q then some (q, h) else none
      | none => none
    | none => none)

/-- A waiting instruction finds its token count sufficient and proceeds: the sequencer first, then the queue heads in the order of R177. With
`reservedOp` the event is the issue of an instruction with a reserved class or opcode, which retires as a no-op (R169). -/
def State.tokenProceed (s : State) (c : Nat) (reservedOp : Option Hdr) : State :=
  match reservedOp with
  | some h =>
    let h := { h with core := BitVec.ofNat 5 c }
    if !s.canIssue c then s
    else
      match s.fetch c with
      | none => s
      | some s => (s.issueNoop none .seq h .opcode).run c
  | none =>
    if (s.core c).run ≠ .running then s
    else
      match (s.core c).seqWaiter.filter (s.core c).canTake with
      | some _ => (s.proceedSeq c).run c
      | none =>
        match s.readyHead c with
        | some (q, h) => ((s.take c h).launch c q).run c
        | none => s

/-- The oldest started instruction of a class whose last effect is complete and which is no boundary. -/
def Core.retirable (k : Core) (cls : Cls) : Option Busy :=
  k.busy.find? (fun b => b.cls == cls && b.wait == .done && !b.bnd)

/-- A started instruction gone from core `c`: its bindings released, its token signalled (R166). -/
def State.retire (s : State) (c : Nat) (b : Busy) : State :=
  let s := s.modCore c (fun k => { k with busy := k.busy.erase b, stalled := false })
  (b.release s).signal? c b.sig b.idx

/-- INSTRUCTION_RETIRE: R166. -/
def State.instrRetire (s : State) (c : Nat) (cls : Cls) : State :=
  match (s.core c).retirable cls with
  | some b => (s.retire c b).run c
  | none => s

/-- Lace slots of the core that hold lines, or whose credit has not gone back: R125, R132. -/
def Core.laceSlots (k : Core) : Bool := k.lace.any (fun e => decide (e.2.drained + e.2.done ≠ 0))

/-- Whether a boundary instruction that has issued can retire: it has completed, every earlier instruction and stream has too, and every slot
that held their lines is free (R125, R180). -/
def Core.atBoundary (k : Core) : Bool :=
  (k.held == some .atBoundary || k.held == some (.atEnd true)) && k.queue.isEmpty && k.streams.isEmpty && !k.laceSlots &&
  k.busy.all (fun b => b.bnd && b.wait == .done)

/-- BOUNDARY_RETIRE: the boundary instruction retires, and its core's instruction boundary falls (R29, R31, R180). -/
def State.boundaryRetire (s : State) (c : Nat) : State :=
  let k := s.core c
  if k.run = .running ∧ k.atBoundary = true then
    let s := State.each k.busy (fun b s => s.retire c b) s
    let s := s.boundary c
    if k.held = some (.atEnd true) then s.endRetired c
    else (s.modCore c (fun k => { k with held := none, stalled := false })).run c
  else s

/-- Whether core `c` has stopped: R181. -/
def State.stopped (s : State) (c : Nat) : Bool :=
  let k := s.core c
  let headWaits := fun (q : Queued) => match q.i.op? with
    | some (_, h) => h.wait && !k.canTake h
    | none => false
  let heads := laneOrder.filterMap k.headOf
  let seqHeld := match k.held with
    | some (.instr _) => (match k.seqWaiter with
      | some h => !k.canTake h
      | none => true)
    | some (.noop _ h) => !k.canTake h
    | some (.atEnd _) | some .atBoundary => !heads.isEmpty
    | _ => false
  k.run == .running && seqHeld && heads.all headWaits && k.busy.isEmpty && k.streams.isEmpty &&
  k.lace.all (fun e => e.2.transit.isEmpty && e.2.held.isEmpty && e.2.drained == 0 && e.2.done == 0) &&
  !s.girth.txns.any (fun t => t.core == c) && !s.girth.colls.any (fun v => v.core == c)

/-- CORE_STALL_DETECT: a stopped core is reported once for that stoppage, and goes on waiting (R181). -/
def State.stallDetect (s : State) (c : Nat) : State :=
  if s.hasCore c && s.stopped c && !(s.core c).stalled then
    (s.coreFault c .seq 7 (s.pcOf c (s.core c).index)).modCore c (fun k => { k with stalled := true })
  else s

end Sys2Proof.Machine
end

