-- ==== Sys2Proof/Machine/Ahead.lean ====
section
/-! DEFINITION. Machine/Ahead.lean: reading ahead of issue (R120 to R128, R179): the streams that prefetch can reach in the program's code, and
the lines it reads for them. -/

namespace Sys2Proof.Machine

open Sys2Proof

/-! ### Looking ahead in the code (R120, R179) -/

/-- The instruction word at index `i` of core `c`'s program: R164, R187. -/
def State.codeWord (s : State) (c i : Nat) : BitVec 128 := BitVec.ofNat 128 (leNat (memBytes s.mem (s.pcOf c i) 16))

/-- A stream instruction that prefetch reaches: its index, the loop levels it will issue under, whether a boundary instruction lies before it,
and its operands. -/
structure Reached where
  idx    : Nat
  levels : List Level
  past   : Bool
  gather : Bool
  h      : Hdr
  o      : DxOps
  deriving DecidableEq, Repr

/-- The next index and levels after an instruction at index `ix`, as prefetch takes them: loops with their latched trip counts, a loop not yet
entered with the current value of its counter, comparator paths not taken, an unconditional jump inside its body followed (R120, R179). None at
the end of the step. -/
def State.pathNext (s : State) (c : Nat) (levels : List Level) (ix : Nat) (i : Option Instr) : Option (List Level × Nat) :=
  let inner := levels.head?
  let jump := fun t => some (wrapLevels levels t)
  match i with
  | some (.endStep _) => none
  | some (.loop _ l ca n) =>
    let l := l.toNat
    let start := ix + 1
    let stop := start + n.toNat
    let trips := ((s.core c).c ca.toNat).toNat
    let bad := match inner with
      | some v => decide (v.stop < stop ∨ v.level ≤ l)
      | none => false
    if bad then jump (match inner with
      | some v => min stop v.stop
      | none => stop)
    else if trips = 0 then jump stop
    else some (wrapLevels (⟨l, start, stop, trips, 0⟩ :: levels) start)
  | some (.jmp _ _ cond t) =>
    let inside := match inner with
      | some v => decide (v.start ≤ t.toNat) && decide (t.toNat < v.stop)
      | none => true
    jump (if !cond && inside then t.toNat else ix + 1)
  | _ => jump (ix + 1)

/-- The stream instructions that prefetch reaches from index `ix` on, within `f` instructions. In native mode it stops at an instruction with
hold, and past one boundary reaches no further than the next (R120, R125, R127); in fixed-lead mode it ignores both (R123). -/
def State.reach (s : State) (c : Nat) (native : Bool) : Nat → List Level → Nat → Bool → List Reached
  | 0, _, _, _ => []
  | f + 1, levels, ix, past =>
    if (s.core c).codeLen ≤ ix then []
    else
      let w := s.codeWord c ix
      let core := BitVec.ofNat 5 c
      let h := headerOf core w 0
      if native && h.hold then []
      else
        let i := decodeWenmel core w
        let rest := match s.pathNext c levels ix i with
          | some (lv, n) => if native && past && h.boundary then [] else s.reach c native f lv n (past || h.boundary)
          | none => []
        match i with
        | some (.dxs h o) => if h.badTok then rest else ⟨ix, levels, past, false, h, o⟩ :: rest
        | some (.dxg h o) => if h.badTok then rest else ⟨ix, levels, past, true, h, o⟩ :: rest
        | _ => rest

/-- How many instructions ahead prefetch looks. DESIGN CHOICE: the spec gives no bound. -/
def aheadReach : Nat := 256

/-- What prefetch reaches from where core `c` now issues: nothing past END or a poisoned load. -/
def State.reached (s : State) (c : Nat) : List Reached :=
  let k := s.core c
  match k.held with
  | some (.atEnd _) | some .poisoned => []
  | some .atBoundary => s.reach c (!s.bit (Reg.DX_CTL c) 0) aheadReach k.levels k.index true
  | some (.instr _) | some (.noop _ _) | none => s.reach c (!s.bit (Reg.DX_CTL c) 0) aheadReach k.levels k.index false

/-- What the instruction will find at its issue, as far as prefetch can tell: the generators under its loop indices, the counters as they are. -/
def Reached.ctx (v : Reached) (s : State) (c : Nat) : Ctx :=
  let k := { s.core c with levels := v.levels }
  { core := c, idx := v.idx, gens := (List.range 32).map (fun g => (k.agen g).toNat), ctrs := (List.range 16).map (fun n => (k.c n).toNat)
    iter := v.levels.map Level.idx }

/-! ### Reading (R118, R120, R123, R124) -/

/-- What reading ahead has so far: the lines, the next element, the flash page of the last line. -/
structure AheadRun where
  lines : List DxLine
  pos   : Nat
  page  : Option Nat
  deriving DecidableEq, Repr

/-- At most `f` lines of stream `d` read ahead, up to element `stop`. It leaves to issue a line that is a violation, that needs a poisoned weight
page, that comes from the host, or of which nothing would be placed. -/
def State.readAhead (x : Ctx) (d : Desc) (stop : Nat) : Nat → AheadRun → State → AheadRun × State
  | 0, r, s => (r, s)
  | f + 1, r, s =>
    if stop ≤ r.pos then (r, s)
    else
      let a := d.addr r.pos
      if a < 0 ∨ (2 : Int) ^ 48 ≤ a then (r, s)
      else
        let la := (a / 64 * 64).toNat
        let mapped := match s.tier la with
          | .dram => true
          | .sram k o => s.partOf k == some (s.payer x.core) && !s.touchesWindow k o 64
          | .weight => (s.attached (weightPage la)).isSome
          | .hostWin | .regs | .absent => false
        let n := runLen d r.pos
        let st : Stream := { id := 0, idx := x.idx, d := d, pos := r.pos, sig := none, bnd := false, slot := none, viol := false }
        if !mapped || !s.mayMove x.core la || s.lineWaits la || !s.needsLine x st n then (r, s)
        else
          let q := s.outerRead x .dx la 64 .clean [] (fun p => r.page == some p || s.inflight p)
          if q.1.kill || q.1.viol then (r, s)
          else
            State.readAhead x d stop f ⟨r.lines ++ [⟨la, q.1.bytes, q.1.poison, 0, false⟩], r.pos + max 1 n, q.1.page⟩
              (q.2.addReg (Reg.DX_LINES_IN x.core) 1)

/-- The base of a persistent stream as prefetch takes it: from the shadow past a boundary, where a write waits there (R127). -/
def State.prefetchBase (s : State) (c n : Nat) (past : Bool) : Nat :=
  if past then Machine.fld (s.shadowOf (Reg.DX_PSTREAM_BASE c n)) 0 48 else s.fld (Reg.DX_PSTREAM_BASE c n) 0 48

/-- Planes of the stream now being written that lie ahead of its plane: R123. -/
def Core.planesLeft (k : Core) : Nat :=
  match (k.streams.filter (fun t => !t.d.wr)).getLast? with
  | some t => (t.d.total + t.d.plane - 1) / t.d.plane - t.pos / t.d.plane - 1
  | none => 0

/-- The lines that `m` more slots, as far as prefetch may take them, and the free places of an entry of `n` lines hold: R118. -/
def Core.aheadRoom (k : Core) (m n : Nat) : Nat := 16 * min m (k.freeSlots - 15) + (16 - n % 16) % 16

/-- Reading ahead for one reached stream into `m` more slots at most, and `planes` planes of it in fixed-lead mode: none where nothing of it can be
read now. -/
def State.prefetchOne (s : State) (c m : Nat) (v : Reached) (planes : Option Nat) : Option State :=
  let k := s.core c
  let x := v.ctx s c
  let r := s.rawDesc v.o x
  if r.faulty v.gather v.h v.o x || r.flag 3 || r.flag 11 || (planes.isNone && v.past && !r.flag 5) then none
  else
    let d := s.resolve v.gather v.o x r (s.prefetchBase c r.pnum v.past)
    let old := k.prefetch.find? (fun f => f.is x)
    let f : Prefetch := old.getD { idx := v.idx, iter := x.iter, sig := v.h.sig, d := d, slots := 0, lines := [], pos := 0
                                   shadowBase := v.past && r.flag 5 }
    if f.d != d then none
    else
      let stop := match planes with
        | some n => min d.total (n * d.plane)
        | none => d.total
      let a := State.readAhead x d stop (k.aheadRoom m f.lines.length) ⟨f.lines, f.pos, none⟩ s
      if a.1.lines.length ≤ f.lines.length then none
      else
        let n := (a.1.lines.length + 15) / 16
        let g := { f with lines := a.1.lines, pos := a.1.pos, slots := n }
        some ((a.2.slotFill c (n - f.slots)).modCore c (fun k =>
          { k with prefetch := if old.isSome then k.prefetch.map (fun e => if e.is x then g else e) else k.prefetch ++ [g] }))

/-- The first of the streams reached at index `ix` for which lines can be read; in fixed-lead mode within `lead` planes, which each stream on the
way uses up (R123). -/
def State.prefetchFirst (s : State) (c ix m : Nat) : List Reached → Option Nat → Option State
  | [], _ => none
  | v :: r, lead =>
    (if v.idx = ix then s.prefetchOne c m v lead else none).orElse (fun _ =>
      let x := v.ctx s c
      let d := s.resolve v.gather v.o x (s.rawDesc v.o x) 0
      s.prefetchFirst c ix m r (lead.map (fun n => n - (if d.wr then 0 else (d.total + d.plane - 1) / d.plane))))

/-- DX reads ahead for the stream instruction at index `ix`, not yet issued, into `m` more slots at most: R120, R123. It takes slots only while 16
are free (R118), and reads nothing where prefetch is off or does not reach. -/
def State.prefetchStart (s : State) (c ix m : Nat) : State :=
  let k := s.core c
  if k.run ≠ .running ∨ s.bit (Reg.DX_CTL c) 1 = true then s
  else
    let lead := if s.bit (Reg.DX_CTL c) 0 then some (s.fld (Reg.DX_CTL c) 8 7 - k.planesLeft) else none
    (s.prefetchFirst c ix m (s.reached c) lead).getD s

end Sys2Proof.Machine
end

