-- ==== Sys2Proof/Machine/Dbk.lean ====
section
/-! DEFINITION. Machine/Dbk.lean: the daybook controller (R411 to R420): delivery, completion, software sources, steward rings, sleep and stuck
stewards. -/

namespace Sys2Proof.Machine

open Sys2Proof

/-- Steward `w`'s unread records, oldest first. -/
def State.dbkRing (s : State) (w : Nat) : List DbkRec := sget [] s.daybook.rings w

def State.setDbkRing (s : State) (w : Nat) (r : List DbkRec) : State :=
  { s with daybook := { s.daybook with rings := sput [] s.daybook.rings w r } }

/-! ### Delivery (R413 to R415) -/

/-- The number a source that is no fault source puts in its record: partition, purse, core, port or binding (R414). -/
def sourceNumber (n : Nat) : Nat :=
  if n = 64 ∨ n = 65 then n - 64
  else if 128 ≤ n ∧ n < 132 then n - 128
  else if 160 ≤ n ∧ n < 168 then n - 160
  else if 176 ≤ n ∧ n < 185 then n - 176
  else 0

/-- The info word of a record: the low half of the fault register that fired the source, or the source's number (R414). -/
def State.srcInfo (s : State) (n : Nat) : BitVec 32 :=
  match s.daybook.reg.find? (fun e => e.1 == n) with
  | some e => (s.reg e.2).setWidth 32
  | none => BitVec.ofNat 32 (sourceNumber n)

/-- The record of source `n` as it is built: R414. -/
def State.dbkRecord (s : State) (n : Nat) : DbkRec :=
  let led := decide (256 ≤ n) && decide (n < 264)
  { source := n, refire := setHas s.daybook.refire n, redelivered := setHas s.daybook.redel n
    seqKind := if led then n - 255 else 0, info := s.srcInfo n
    seq := if led then s.reg (Reg.LEDGER_SEQ (n - 256)) else BitVec.ofNat 64 s.sampleSeq }

/-- The source and steward that the controller would deliver next: the lowest-numbered pending source that has an eligible steward (R413). -/
def State.nextDelivery (s : State) : Option (Nat × Nat) :=
  ((List.range 512).filter s.srcPend).findSome? (fun n => if s.srcActive n then none else (s.routeOf n).map (fun w => (n, w)))

/-- The offset in hub SRAM of record `slot` of steward `w`'s ring: R414, R416. -/
def recordAt (w slot : Nat) : Nat := Config.daybookArea.toNat / 8 * 8 + w * 4096 + slot * 16

/-- One record delivered: R413, R416, R419. Nothing while delivery is held (R418). -/
def State.deliver (s : State) : State :=
  if s.bit Reg.DBK_CTL 0 then s
  else
    match s.nextDelivery with
    | none => s
    | some (n, w) =>
      let r := s.dbkRecord n
      let slot := s.fld (Reg.DBK_RING w) 8 8
      let s := s.hubWrite (recordAt w slot) 16
      let s := s.setDbkRing w (s.dbkRing w ++ [r])
      let s := (s.setFld (Reg.DBK_RING w) 8 8 (slot + 1)).setFld (Reg.DBK_RING w) 16 9 (s.ringCount w + 1)
      let s := (s.addReg Reg.DBK_RECORDS 1).setBit (Reg.DBK_STW w) 5 false
      let s := (s.setPend n false).setActive n true
      { s with daybook := { s.daybook with
          on := sput 0 s.daybook.on n (w + 1), refire := setDel s.daybook.refire n, redel := setDel s.daybook.redel n } }

/-! ### Completion (R417) -/

/-- A source no longer active on any steward. -/
def State.dbkOff (s : State) (n : Nat) : State :=
  let s := s.setActive n false
  { s with daybook := { s.daybook with on := sdel s.daybook.on n } }

/-- A source pending again at the completion of its record, its next record marked refire. -/
def State.dbkRefire (s : State) (n : Nat) : State :=
  let s := s.setPend n true
  ({ s with daybook := { s.daybook with refire := setAdd s.daybook.refire n } }).wakeHeld

/-- Completion of source `n`: R417. -/
def State.eoi (s : State) (n : Nat) : State :=
  if s.srcActive n then
    let again := s.srcPend n || (s.srcLevel n && s.srcEn n)
    let s := s.dbkOff n
    if again then s.dbkRefire n else s
  else (s.setFault .dbk 1 (dbkExtra n 0) 0 s.sampleSeq).addReg Reg.DBK_VIOL_COUNT 1

/-! ### Enables and software sources (R411, R412) -/

/-- An undelivered firing dropped because its source was disabled: no record, and no fault (R411). -/
def State.dropPend (s : State) (n : Nat) : State :=
  let s := s.setPend n false
  { s with daybook := { s.daybook with refire := setDel s.daybook.refire n, redel := setDel s.daybook.redel n } }

/-- The enables of sources 64 i to 64 i + 63 written: R411, R417. -/
def State.writeEn (s : State) (i : Nat) (v : Word) : State :=
  let old := s.reg (Reg.DBK_EN i)
  let s := s.setReg (Reg.DBK_EN i) v
  State.each (List.range 64) (fun j s =>
    let n := 64 * i + j
    if old.getLsbD j && !v.getLsbD j then (if s.srcPend n then s.dropPend n else s)
    else if !old.getLsbD j && v.getLsbD j && s.srcLevel n && !s.srcActive n then (s.setPend n true).wakeHeld
    else s) s

/-- A software source set or cleared: R412. A number outside 320 to 351 is a reserved encoding (R422). -/
def State.softSource (s : State) (off : Nat) (v : Word) : State :=
  let n := Machine.fld v 0 9
  if 320 ≤ n ∧ n < 352 then
    if Machine.bit v 9 then (if s.srcLevel n then s else s.fire n)
    else if s.srcLevel n then s.unfire n else s
  else s.devFault 1 off

/-! ### Stewards (R416, R419, R420) -/

/-- `k` records of steward `w`'s ring read from slot `h` on: R416. -/
def State.readRecords (s : State) (w h k : Nat) : State :=
  State.each (List.range k) (fun i s => s.hubRead (recordAt w ((h + i) % 256)) 16) s

/-- The head of steward `w`'s ring moved on to `h`, past the records taken; past the tail it does not move (R416, R422). -/
def State.writeHead (s : State) (w h : Nat) : State :=
  let old := s.fld (Reg.DBK_RING w) 0 8
  let k := (h + 256 - old) % 256
  if s.ringCount w < k then s.addReg Reg.DBK_VIOL_COUNT 1
  else
    let s := s.readRecords w old k
    let s := (s.setFld (Reg.DBK_RING w) 0 8 h).setFld (Reg.DBK_RING w) 16 9 (s.ringCount w - k)
    s.setDbkRing w ((s.dbkRing w).drop k)

/-- Whether steward `w`'s interrupt line is asserted: R416. -/
def State.stwLine (s : State) (w : Nat) : Bool := decide (0 < s.ringCount w) && !s.bit (Reg.DBK_STW w) 4

/-- A steward's sleep instruction: R419. -/
def State.stwSleep (s : State) (w : Nat) : State := (s.setBit (Reg.DBK_STW w) 5 true).wakeHeld

/-- A steward marked stuck: its sources and its unread records go back to pending, redelivered (R420). -/
def State.stwStuck (s : State) (w : Nat) : State :=
  if s.ringCount w = 0 ∨ s.bit (Reg.DBK_STW w) 6 = true then s
  else
    let act := (List.range 512).filter (fun n => s.srcActive n && sget 0 s.daybook.on n == w + 1)
    let unread := (s.dbkRing w).map DbkRec.source
    let s := s.setBit (Reg.DBK_STW w) 6 true
    let s := s.setDbkRing w []
    let s := (s.setFld (Reg.DBK_RING w) 0 8 (s.fld (Reg.DBK_RING w) 8 8)).setFld (Reg.DBK_RING w) 16 9 0
    let s := State.each (act ++ unread).eraseDups (fun n s =>
      let s := s.dbkOff n
      if s.srcEn n then
        let s := s.setPend n true
        { s with daybook := { s.daybook with redel := setAdd s.daybook.redel n } }
      else s) s
    (s.setFault .dbk 2 (dbkExtra 0 w) 0 s.sampleSeq).wakeHeld

/-- DBK_STW_s written: priority and mask, and a one written to stuck clears it (R420, R422). -/
def State.writeStw (s : State) (w : Nat) (v : Word) : State :=
  let s := (s.setFld (Reg.DBK_STW w) 0 4 (Machine.fld v 0 4)).setBit (Reg.DBK_STW w) 4 (Machine.bit v 4)
  (if Machine.bit v 6 then s.setBit (Reg.DBK_STW w) 6 false else s).wakeHeld

/-- DBK_CTL written: the hold, and the stuck interval of R420 in its range (R11, R422). -/
def State.writeHold (s : State) (v : Word) : State :=
  let t := Machine.fld v 8 5
  let s := s.setBit Reg.DBK_CTL 0 (Machine.bit v 0)
  (if 16 ≤ t then s.setFld Reg.DBK_CTL 8 5 t else s.devFault 1 Reg.DBK_CTL).wakeHeld

end Sys2Proof.Machine
end

