-- ==== Sys2Proof/Machine/MlDsa.lean ====
section
/-! DEFINITION. Machine/MlDsa.lean: ML-DSA-87 of FIPS 204, as far as the device's rules use it: KeyGen_internal (R441) and the verification of a
HashML-DSA signature with SHA3-512 (R444). A polynomial is the list of its 256 coefficients modulo q. FIPS 204 bounds no rejection loop; here each
reads a run of output that is longer than what its Appendix C asks. -/

namespace Sys2Proof.Machine

open Sys2Proof

/-! ### Parameters -/

/-- The modulus. -/
def mldsaQ : Nat := 8380417

/-- Rows and columns of the matrix. -/
def mldsaK : Nat := 8
def mldsaL : Nat := 7

/-- The hash H and the bytes of a small number. -/
def mldsaH (n : Nat) (m : List Byte) : List Byte := shake256 n m

abbrev Poly := List Nat

/-! ### Polynomials -/

def polyAdd (a b : Poly) : Poly := (a.zip b).map (fun p => (p.1 + p.2) % mldsaQ)
def polySub (a b : Poly) : Poly := (a.zip b).map (fun p => (p.1 + mldsaQ - p.2 % mldsaQ) % mldsaQ)
def polyMul (a b : Poly) : Poly := (a.zip b).map (fun p => p.1 * p.2 % mldsaQ)
def polyZero : Poly := List.replicate 256 0

/-- A power modulo q, by squaring; `f` bounds the bits of the exponent. -/
def powQ : Nat → Nat → Nat → Nat
  | 0, _, _ => 1
  | f + 1, b, e =>
    let r := powQ f (b * b % mldsaQ) (e / 2)
    if e % 2 = 1 then r * b % mldsaQ else r

/-- Eight bits reversed. -/
def rev8 (n : Nat) : Nat := (List.range 8).foldl (fun r i => if n.testBit i then r + 2 ^ (7 - i) else r) 0

/-- The twiddle factor of node `k`: a power of the 512th root of unity 1753. -/
def zeta (k : Nat) : Nat := powQ 9 1753 (rev8 k)

/-- Its inverse. -/
def zetaInv (k : Nat) : Nat := powQ 9 1753 (512 - rev8 k)

/-- The number-theoretic transform, node `k` of its tree over 2^d coefficients. -/
def ntt : Nat → Nat → Poly → Poly
  | 0, _, w => w
  | d + 1, k, w =>
    let h := 2 ^ d
    let z := zeta k
    let a := w.take h
    let b := (w.drop h).map (fun x => x * z % mldsaQ)
    ntt d (2 * k) (polyAdd a b) ++ ntt d (2 * k + 1) (polySub a b)

/-- Its inverse, but for the factor 1/256. -/
def nttBack : Nat → Nat → Poly → Poly
  | 0, _, w => w
  | d + 1, k, w =>
    let h := 2 ^ d
    let z := zetaInv k
    let a := nttBack d (2 * k) (w.take h)
    let b := nttBack d (2 * k + 1) (w.drop h)
    polyAdd a b ++ (polySub a b).map (fun x => x * z % mldsaQ)

def toNtt (w : Poly) : Poly := ntt 8 1 w
def ofNtt (w : Poly) : Poly := (nttBack 8 1 w).map (fun x => x * 8347681 % mldsaQ)

/-- A matrix times a vector, in the transformed domain. -/
def matVec (m : List (List Poly)) (v : List Poly) : List Poly :=
  m.map (fun row => (row.zip v).foldl (fun acc p => polyAdd acc (polyMul p.1 p.2)) polyZero)

/-! ### Bit packing -/

/-- Values of `b` bits packed into bytes, lowest first. -/
def packBits (b : Nat) (l : List Nat) : List Byte := leBytes (l.length * b / 8) (l.foldr (fun v n => v + n * 2 ^ b) 0)

/-- 256 values of `b` bits unpacked. -/
def unpackBits (b : Nat) (bs : List Byte) : List Nat :=
  let n := leNat bs
  (List.range 256).map (fun i => n / 2 ^ (b * i) % 2 ^ b)

/-! ### Sampling -/

/-- Three bytes as a coefficient below q, if they are one. -/
def coeff3 (b : List Byte) : Option Nat :=
  let z := leNat b % 2 ^ 23
  if z < mldsaQ then some z else none

/-- A uniform polynomial of the transformed domain: RejNTTPoly. -/
def rejNtt (seed : List Byte) : Poly := ((chunksOf 3 448 (shake128 1344 seed)).filterMap coeff3).take 256

/-- A small polynomial with coefficients of -2 to 2, modulo q: RejBoundedPoly. -/
def rejSmall (seed : List Byte) : Poly :=
  let half := fun (n : Nat) => if n < 15 then [(mldsaQ + 2 - n % 5) % mldsaQ] else []
  ((mldsaH 544 seed).flatMap (fun b => half (b.toNat % 16) ++ half (b.toNat / 16))).take 256

/-- The matrix of a public seed: ExpandA. -/
def expandA (rho : List Byte) : List (List Poly) :=
  (List.range mldsaK).map (fun r => (List.range mldsaL).map (fun c => rejNtt (rho ++ leBytes 1 c ++ leBytes 1 r)))

/-- A coefficient of the challenge placed: what of the hash is left, and the polynomial. -/
def ballStep (signs : Nat) (st : List Byte × Poly) (i : Nat) : List Byte × Poly :=
  let rest := st.1.dropWhile (fun b => decide (i < b.toNat))
  let j := (rest.headD 0).toNat
  let c := (st.2.set i (st.2.getD j 0)).set j (if signs.testBit (i + 60 - 256) then mldsaQ - 1 else 1)
  (rest.drop 1, c)

/-- The challenge polynomial: SampleInBall, with 60 coefficients of 1 or -1. -/
def sampleBall (seed : List Byte) : Poly :=
  let h := mldsaH 1088 seed
  (((List.range 60).map (· + 196)).foldl (ballStep (leNat (h.take 8))) (h.drop 8, polyZero)).2

/-! ### Rounding -/

/-- The high bits of Power2Round, and the 13-bit code of its low bits: 2^12 less the low part. -/
def power2High (r : Nat) : Nat := (r + 4095) / 8192
def power2Low (r : Nat) : Nat := 4096 + power2High r * 8192 - r

/-- Decompose with gamma2 = (q - 1) / 32: the high part, and whether the low part is positive. -/
def decompose (r : Nat) : Nat × Bool :=
  let m := 523776
  let low := r % m
  let up := decide (m / 2 < low)
  let high := if up then r / m + 1 else r / m
  if high = 16 then (0, false) else (high, !up && decide (0 < low))

/-- UseHint. -/
def useHint (h : Bool) (r : Nat) : Nat :=
  let d := decompose r
  if !h then d.1 else if d.2 then (d.1 + 1) % 16 else (d.1 + 15) % 16

/-! ### Keys (R441) -/

/-- What KeyGen_internal derives from a seed: the public key of 2,592 bytes and the secret key of 4,896. -/
def mldsaKeyGen (xi : List Byte) : List Byte × List Byte :=
  let h := mldsaH 128 (xi ++ leBytes 1 mldsaK ++ leBytes 1 mldsaL)
  let rho := h.take 32
  let rhoS := (h.drop 32).take 64
  let s1 := (List.range mldsaL).map (fun r => rejSmall (rhoS ++ leBytes 2 r))
  let s2 := (List.range mldsaK).map (fun r => rejSmall (rhoS ++ leBytes 2 (r + mldsaL)))
  let t := ((matVec (expandA rho) (s1.map toNtt)).zip s2).map (fun p => polyAdd (ofNtt p.1) p.2)
  let pk := rho ++ t.flatMap (fun p => packBits 10 (p.map power2High))
  let small := fun (p : Poly) => packBits 3 (p.map (fun c => (mldsaQ + 2 - c) % mldsaQ))
  (pk, rho ++ h.drop 96 ++ mldsaH 64 pk ++ (s1 ++ s2).flatMap small ++ t.flatMap (fun p => packBits 13 (p.map power2Low)))

/-! ### Verification (R444) -/

/-- One polynomial's hints, positions `lo` to `hi` of the list: ascending, or none. -/
def hintRow (y : List Byte) (lo hi : Nat) : Option (List Nat) :=
  let r := ((y.drop lo).take (hi - lo)).map BitVec.toNat
  if decide (lo ≤ hi) && decide (hi ≤ 75) && (r.zip (r.drop 1)).all (fun p => decide (p.1 < p.2)) then some r else none

/-- The hints of a signature, as the ones of each polynomial: HintBitUnpack, none where they are malformed. -/
def unpackHints (y : List Byte) : Option (List (List Nat)) :=
  let ends := 0 :: (y.drop 75).map BitVec.toNat
  let last := ends.getD mldsaK 0
  if ((y.take 75).drop last).any (· != 0) then none
  else ((List.range mldsaK).map (fun i => hintRow y (ends.getD i 0) (ends.getD (i + 1) 0))).mapM id

/-- Verify_internal: whether a signature of 4,627 bytes is one of a formatted message under a public key of 2,592 bytes. -/
def mldsaVerifyInternal (pk msg sig : List Byte) : Bool :=
  match unpackHints (sig.drop 4544) with
  | none => false
  | some h =>
    let t1 := (List.range mldsaK).map (fun i => unpackBits 10 ((pk.drop (32 + 320 * i)).take 320))
    let zc := (List.range mldsaL).map (fun i => unpackBits 20 ((sig.drop (64 + 640 * i)).take 640))
    let z := zc.map (fun p => p.map (fun c => (mldsaQ + 524288 - c) % mldsaQ))
    let small := zc.all (fun p => p.all (fun c => decide (120 < c) && decide (c < 1048456)))
    let mu := mldsaH 64 (mldsaH 64 pk ++ msg)
    let c := toNtt (sampleBall (sig.take 64))
    let az := matVec (expandA (pk.take 32)) (z.map toNtt)
    let w := (az.zip t1).map (fun p => ofNtt (polySub p.1 (polyMul c (toNtt (p.2.map (fun x => x * 8192 % mldsaQ))))))
    let w1 := (w.zip h).map (fun p => ((List.range 256).zip p.1).map (fun e => useHint (p.2.contains e.1) e.2))
    small && pk.length == 2592 && sig.length == 4627 && mldsaH 64 (mu ++ w1.flatMap (packBits 4)) == sig.take 64

/-- The DER object identifier of SHA3-512, 2.16.840.1.101.3.4.2.10. -/
def sha3Oid : List Byte := [0x06, 0x09, 0x60, 0x86, 0x48, 0x01, 0x65, 0x03, 0x04, 0x02, 0x0A]

/-- HashML-DSA verification with SHA3-512 as the pre-hash and an empty context: R444. -/
def mldsaVerify (pk msg sig : List Byte) : Bool := mldsaVerifyInternal pk ([0x01, 0x00] ++ sha3Oid ++ sha3_512 msg) sig

end Sys2Proof.Machine
end

