-- ==== Sys2Proof/Machine/Ports.lean ====
section
/-! DEFINITION. Machine/Ports.lean: girth links and ports that go down or come up, and what that does to a peer set (R380, R385 to R388). -/

namespace Sys2Proof.Machine

open Sys2Proof

/-- The place of a port or link fault in GIRTH_FAULT_CAP: R395. -/
def girthExtra (g l : Nat) : Nat := g * 2 ^ 8 + l * 2 ^ 11

/-- The ports that are up. -/
def State.upPorts (s : State) : List Nat := (List.range 6).filter (fun g => s.portState g == 3)

/-- The links of port `g` that are up. -/
def State.upLinks (s : State) (g : Nat) : List Nat := (List.range 6).filter (fun l => s.linkState g l == 2)

/-- A presence notice passed to every up port but one: R387. What a CTRL flit carries inside is the model's own form: its tag is the notice
sequence, its address the module, port and state. -/
def State.passNotice (s : State) (m g st seq : Nat) (not : Option Nat) : State :=
  State.each (s.upPorts.filter (fun q => some q != not)) (fun q s => s.sendCtrl q seq (m + g * 2 ^ 16 + st * 2 ^ 20 + 2 ^ 40)) s

/-- This module's notice of its own port's change: R387. -/
def State.ownNotice (s : State) (g : Nat) : State :=
  let n := s.girth.noticeSeq + 1
  let s := { s with girth := { s.girth with noticeSeq := n } }
  s.passNotice s.me g (s.portState g) n none

/-- Port `g` put into a state: a notice tells of every change between up and another (R387). -/
def State.setPortState (s : State) (g v : Nat) : State :=
  let was := s.portState g
  let s := s.setFld (Reg.GIRTH_PORT_STATUS g) 0 3 v
  if (was == 3) == (v == 3) then s else s.ownNotice g

/-- What follows when a set stands no longer as it did, `was` telling whether it was complete: R388. -/
def State.broke (s : State) (was : Bool) : State :=
  let s := if was && !s.setComplete then s.raise .girth 4 else s
  s.endBroken.breakRemote

/-- This module's transactions that have a flit among the given ones. -/
def State.txnsIn (s : State) (fs : List Flit) : List Txn :=
  s.girth.txns.filter (fun t => fs.any (fun f => f.src.toNat == s.me && (f.typ == 1 || f.typ == 2) && f.tag.toNat == t.tag))

/-- The last link of port `g` is gone: the port goes to state `v`, its waiting and unacknowledged flits are lost and their transactions end
with error (R380). -/
def State.portDown (s : State) (g v : Nat) : State :=
  let was := s.setComplete
  let fs := (sget [] s.girth.outq g ++ (List.range 6).flatMap (fun l => (s.link g l).replay)).map OutFlit.f
  let ts := s.txnsIn fs
  let wait := sget [] s.girth.outq g
  let s := State.each wait State.freeBuf { s with girth := { s.girth with outq := sput [] s.girth.outq g [] } }
  let s := State.each (List.range 6) (fun l s => s.setLink g l { s.link g l with replay := [] }) s
  let up := s.portState g == 3
  let s := s.setPortState g v
  let s := if up then s.raise .girth 2 (girthExtra g 0) else s
  let s := State.each ts (fun t s => s.endTxn t true) s
  s.broke was

/-- The credits outstanding on a link counted as returned: R380. -/
def State.writeOff (s : State) (g l : Nat) : State :=
  let n := (s.fld (Reg.GIRTH_CREDIT g l) 0 32 + 2 ^ 32 - s.fld (Reg.GIRTH_CREDIT g l) 32 32) % 2 ^ 32
  let s := s.setLink g l { s.link g l with credits := [16, 16, 16, 16] }
  if n = 0 then s else (s.setFld (Reg.GIRTH_CREDIT g l) 32 32 (s.fld (Reg.GIRTH_CREDIT g l) 0 32)).tick 1 n

/-- A link goes down, to state `v` (3 declared down, 0 disabled): a surviving link carries the handover, or the port goes down (R380). -/
def State.linkDown (s : State) (g l v : Nat) : State :=
  let s := s.setLinkState g l v
  let s := if v = 3 then s.raise .girth 1 (girthExtra g l) else s
  let s := (s.writeOff g l).dropVia (linkKey g l)
  if s.upLinks g = [] then s.portDown g 0
  else if s.portState g = 3 ∨ s.portState g = 4 then
    s.sendCtrl g ((s.link g l).rxSeq - 1).toNat (l + 2 ^ 41)
  else s

/-- A link that was down begins to train, from fresh sequence numbers and credits: R385. -/
def State.trainLink (s : State) (g l : Nat) : State :=
  let s := ((s.setLink g l {}).dropVia (linkKey g l)).setLinkState g l 1
  if s.portState g = 0 then s.setPortState g 1 else s

/-- GIRTH_PORT_CTL.link_enable becomes live as `m`: disabled links go down and enabled ones that are down train (R385). -/
def State.enableLinks (s : State) (g m : Nat) : State :=
  if !s.hasPort g then s
  else
    let s := State.each ((List.range 6).filter (fun l => !m.testBit l && decide (s.linkState g l ≠ 0))) (fun l s =>
      if s.linkState g l = 2 then s.linkDown g l 0 else s.setLinkState g l 0) s
    let s := if s.portState g = 1 ∧ ¬ (List.range 6).any (fun l => s.linkState g l == 1) then s.setPortState g 0 else s
    State.each ((List.range 6).filter (fun l => m.testBit l && (s.linkState g l == 0 || s.linkState g l == 3))) (fun l s => s.trainLink g l) s

/-- Port `g` authenticates again: R386. -/
def State.reauthenticate (s : State) (g : Nat) : State :=
  if s.upLinks g = [] then s
  else
    let was := s.setComplete
    (s.setPortState g 2).broke was

end Sys2Proof.Machine
end

