-- ==== Sys2Proof/Machine/Throttle.lean ====
section
/-! DEFINITION. Machine/Throttle.lean: the ratio of each compute tile and its causes (R57), and the lowest state (R58, R59). -/

namespace Sys2Proof.Machine

open Sys2Proof

/-! ### The ratio (R57) -/

/-- The five ratios of a tile in the order of its cause field: cap, thermal, droop, alert, software limit. -/
def State.ratios (s : State) : Tile → List Nat
  | .west => [s.power.capW, s.power.thermW, s.power.droopW, s.power.alert, s.fld Reg.PWR_THROTTLE 0 5]
  | .east => [s.power.capE, s.power.thermE, s.power.droopE, s.power.alert, s.fld Reg.PWR_THROTTLE 8 5]

/-- The ratio in force: the least of the five. -/
def State.ratio (s : State) (t : Tile) : Nat := (s.ratios t).foldl min 16

/-- The causes that stand at the minimum; none while the tile runs at 16. -/
def State.causes (s : State) (t : Tile) : Nat :=
  let n := s.ratio t
  if n = 16 then 0 else ((List.range 5).zip (s.ratios t)).foldl (fun m p => if p.2 = n then m + 2 ^ p.1 else m) 0

/-- PWR_THROTTLE shows the ratios in force and their causes. -/
def State.throttle (s : State) : State :=
  (((s.setFld Reg.PWR_THROTTLE 16 5 (s.ratio .west)).setFld Reg.PWR_THROTTLE 24 5 (s.ratio .east)).setFld
    Reg.PWR_THROTTLE 32 5 (s.causes .west)).setFld Reg.PWR_THROTTLE 40 5 (s.causes .east)

/-! ### The lowest state (R58, R59) -/

/-- A running erase suspended. -/
def State.suspendErase (k : Nat) (s : State) : State :=
  if (s.fblk k).use = .erasing then (s.setFblk k { s.fblk k with use := .suspended }).addReg Reg.MEDIA_SUSPENDS 1 else s

/-- Every running erase suspended. -/
def State.suspendErases (s : State) : State :=
  State.each ((s.media.blks.filter (fun e => e.2.use == .erasing)).map Prod.fst) State.suspendErase s

/-- A 16-bit count that saturates. -/
def State.satCount (s : State) (off lo : Nat) : State := s.setFld off lo 16 (min 65535 (s.fld off lo 16 + 1))

/-- Whether the alert is called for: by the wire, by SLED_ALERT_N through the regulator, or by force (R59, R470). -/
def State.alertWanted (s : State) : Bool := s.power.wireLow || s.power.sledLow || s.bit Reg.PWR_ALERT_CTL 0

/-- The alert asserts: both tiles at ratio 1, the media issue gate closed, running erases suspended, and the event recorded (R58, R59). -/
def State.alertAssert (s : State) : State :=
  let s := { s with power := { s.power with alert := 1, alertHold := true, highCount := 0, gate := s.power.gate + 1 } }
  let s := (s.suspendErases.satCount Reg.PWR_EVENT_COUNT 0).throttle
  s.raise .pwr (if s.bit Reg.PWR_ALERT_CTL 0 then 2 else 1)

end Sys2Proof.Machine
end

