-- ==== Sys2Proof/Machine/Reset.lean ====
section
/-! DEFINITION. Machine/Reset.lean: what a warm reset and a power-on keep and clear (R9, R66, R106, R136, R162, R190, R249, R278, R304, R339, R369,
R371, R397, R423, R439, R457 to R462), and the steps of start-up that the guard runs by itself (R445 to R449, R454). -/

namespace Sys2Proof.Machine

open Sys2Proof

/-! ### Registers -/

/-- Whether a register belongs to the guard block, which warm reset does not reset: R440, R462. -/
def isGuardReg (off : Nat) : Bool := decide (off < 0x10000)

/-- Every block with a fault register. -/
def allUnits : List FaultUnit := hubUnits ++ (List.range 32).flatMap (fun c => coreUnits.map (FaultUnit.core c))

/-- The capture, PC and address registers of every fault register, and the captures of the faults and ledger blocks: R9, R429, R430. -/
def captureRegs : List Nat :=
  allUnits.flatMap (fun u => u.cap :: u.addr.toList) ++
    [Reg.FAULT_FIRST, Reg.FAULT_DEV_ADDR, Reg.LEDGER_IMBAL_LHS, Reg.LEDGER_IMBAL_RHS]

/-- Values from flash: the state of the media outlives power (R338, R339), as the poisoned-page list does (R149). -/
def flashRegs : List Nat :=
  [Reg.MEDIA_FREE, Reg.MEDIA_SLC, Reg.MEDIA_SPARE, Reg.MEDIA_LIFE, Reg.MEDIA_PAGE_TOTAL, Reg.MEDIA_PAGE_VALID, Reg.MEDIA_PAGE_INVALID,
   Reg.MEDIA_PAGE_FREE, Reg.MEDIA_PAGE_ERASING, Reg.MEDIA_PAGE_BAD, Reg.MEDIA_PAGE_PARITY, Reg.MEDIA_PAGE_LOST, Reg.WPOISON_COUNT]

/-- What counts since power-on (R41, R65), and what R66, R158, R439 and R462 keep whole across a warm reset. -/
def warmRegs : List Nat :=
  [Reg.PWR_SAMPLE, Reg.PWR_THR_COUNT 0, Reg.PWR_THR_COUNT 1, Reg.PWR_EVENT_COUNT, Reg.LEDGER_SEQ 0, Reg.MEDIA_PAGE_SEQ] ++
    (List.range 32).map Reg.FAULT_RESIDUE ++ captureRegs

/-- The remap tables, which the stewards reload: R158, R162. -/
def isRemap (off : Nat) : Bool := (List.range 32).any (fun c => decide (Reg.SRAM_REMAP c 0 ≤ off) && decide (off ≤ Reg.SRAM_REMAP c 47))

/-- The W1C bit of the register space, DBK_STW_s.stuck, which warm reset clears where it keeps RS bits: R9, R420. -/
def eventBits (off : Nat) : Word := if (List.range 8).any (fun w => off == Reg.DBK_STW w) then 0x40 else 0

/-- A register's value after a warm reset. -/
def warmValue (off : Nat) (v : Word) : Word :=
  if isGuardReg off || flashRegs.contains off || warmRegs.contains off || isRemap off then v
  else if off = Reg.HOST_PORT 0 ∨ off = Reg.HOST_PORT 1 then v &&& mask 32 32
  else
    match regInfo off with
    | some i =>
      let keep := i.w1 &&& ~~~ eventBits off
      (v &&& keep) ||| (i.reset &&& ~~~ keep)
    | none => 0

/-- A register's value after a power-on: what flash keeps, and the count of starts (R461). -/
def powerValue (off : Nat) (v : Word) : Word :=
  if flashRegs.contains off then v
  else if off = Reg.GUARD_BOOT then v &&& mask 32 32
  else resetVal off

/-- Every register through `f`, the map kept in its form. -/
def mapRegs (f : Nat → Word → Word) (m : List (Nat × Word)) : List (Nat × Word) :=
  (m.map (fun e => (e.1, f e.1 e.2))).filter (fun e => e.2 != resetVal e.1)

/-! ### The blocks -/

/-- The media after a flush: erases abandoned, the dump written, nothing mounted (R331); the map cache and what the hub held are gone. -/
def Media.flushed (m : Media) (dump : Bool) : Media :=
  { m with around := [], rebuilt := [], cache := [], writes := [], dumped := dump, mounted := false }

/-- Pages of the dump: one for each unit in the buffer, one for each active media-direct zone's parity accumulator, one for the rest (R331 lists
what is written; DESIGN CHOICE: how many pages it takes). -/
def State.dumpPages (s : State) : Nat := s.media.buffered + s.activeDirect + 1

/-- The dump written: its pages, in SLC mode, go from free to valid (R330, R331). A dump already written is the flush (R458). -/
def State.writeDump (s : State) : State :=
  if s.media.dumped then s else s.movePages Reg.MEDIA_PAGE_FREE Reg.MEDIA_PAGE_VALID (min (4 * s.dumpPages) (s.fld Reg.MEDIA_PAGE_FREE 0 36))

/-- What the host's side of the device keeps: what it has posted and sent, health pages, the Timestamp and the log of lost jobs (R369, R460). -/
def HostState.lost (h : HostState) (jobs : List Job) : HostState :=
  { h with
    ctrls := [], wins := [], winSets := [], raised := [], queuedEv := [], ps := 0, psPhase := .operational, psWait := [], delayed := [], stalled := []
    ranges := [], refusedImg := []
    persist := h.persist ++ jobs.map (fun j => (j.prog.nsid, j.n)) }

/-- Every block but the guard, and the guard's transports, back at reset: jobs, requests, frames and queries are lost without a completion (R369).
Name spaces, flash, the poisoned-page list and what manufacture fixed stay. -/
def State.clearBlocks (s : State) : State :=
  { s with
    shadow := [], mem := [], valid := [], poison := [], scrubAt := 0
    cores := (s.cores.map (fun e => (e.1, ({ remap := e.2.remap } : Core)))).filter (fun e => e.2 != {})
    jobs := [], fifo := [], purseFrac := [], programs := [], allocs := s.allocs.filter (fun a => a.kind == .memNs), saved := [], switchSeq := 0
    power := { wireLow := s.power.wireLow, tripped := s.power.tripped }
    weight := { poisoned := s.weight.poisoned, wholeNs := s.weight.wholeNs }
    media := s.media.flushed true, host := s.host.lost s.jobs
    harness := {}, serving := {}, search := {}, girth := {}, daybook := {}, hub := { remap := s.hub.remap } }

/-! ### Measurement (R447 to R449) -/

def State.modGuard (s : State) (f : Guard → Guard) : State := { s with guard := f s.guard }

/-- An index extended by `m`, with its entry in the log: R447, R448. -/
def State.extend (s : State) (index : Nat) (m : List Byte) (part : Nat := 255) (program nsid : Nat := 0) : State :=
  let d := sget (List.replicate 64 0) s.guard.meas index
  let s := s.modGuard (fun g => { g with
    meas := sins g.meas index (sha3_512 (d ++ m)), log := g.log ++ [⟨index, part, program, nsid, m⟩] })
  s.setFld Reg.GUARD_BOOT 10 10 s.guard.log.length

/-- SHA3-512 of component `t` of a package, from the package when it was downloaded, else what manufacture left (a free value). -/
def FwPkg.digest (p : FwPkg) (slot : Nat) (ts : List Nat) : List Byte :=
  if p.comps.isEmpty then (List.range 64).map (Config.secretByte (ts.foldl (fun n t => 8 * n + t) 1) slot)
  else sha3_512 (ts.flatMap (fun t => p.comps.getD (t - 1) []))

/-- The package in slot 1 or 2. -/
def State.fwPkg (s : State) (slot : Nat) : Option FwPkg := s.guard.slots[slot - 1]?

/-- GUARD_ID: R461. -/
def State.guardId (s : State) : Word := BitVec.ofNat 64 (s.fuse.grade + 2 ^ 8 + (2 ^ s.coreCount - 1) * 2 ^ 32)

/-- GUARD_SVN: R461. -/
def State.guardSvn (s : State) : Word :=
  let p := s.fwPkg s.guard.running
  let u := decide (2 ≤ s.fld Reg.GUARD_BOOT 0 3)
  BitVec.ofNat 64 (s.fuse.svn + (if u then (p.map FwPkg.svn).getD 0 else 0) * 2 ^ 8 + (if u then (p.map FwPkg.keySlot).getD 0 else 0) * 2 ^ 16 +
    s.fuse.revoked.toNat * 2 ^ 24)

/-- Indices 1 and 2, at guard boot: R447. -/
def State.measureGuard (s : State) : State :=
  match s.fwPkg s.guard.running with
  | some p => (s.extend 1 ((List.range 64).map (Config.secretByte 0 0))).extend 2 (p.digest s.guard.running [1])
  | none => s

/-- Indices 3 to 5, at step 2: R447. -/
def State.measureFirmware (s : State) : State :=
  match s.fwPkg s.guard.running with
  | some p =>
    let k := s.guard.running
    ((s.extend 3 (p.digest k [2])).extend 4 (p.digest k [3, 4])).extend 5
      (sha3_512 (leBytes 8 s.guardId.toNat ++ leBytes 8 s.guardSvn.toNat ++ leBytes 8 s.fuse.revoked.toNat))
  | none => s

/-! ### Start-up (R445, R454 to R456) -/

/-- A start-up step reached. -/
def State.stage (s : State) (n : Nat) : State := if s.fld Reg.GUARD_BOOT 0 3 < n then s.setFld Reg.GUARD_BOOT 0 3 n else s

/-- Whether a package boots: valid, its key slot not revoked, its svn not below the counter (R444). -/
def State.bootable (s : State) (p : FwPkg) : Bool := p.valid && !s.fuse.revoked.getLsbD p.keySlot && decide (s.fuse.svn ≤ p.svn)

/-- The failing check's bit for slot `k`: R445. -/
def State.slotFault (s : State) (k : Nat) : State :=
  match s.fwPkg k with
  | some p => s.raise .guard (if p.valid && !s.fuse.revoked.getLsbD p.keySlot then 1 else 0) (k * 2 ^ 8)
  | none => s.raise .guard 0 (k * 2 ^ 8)

/-- Whether slot `k` boots. -/
def State.slotOk (s : State) (k : Nat) : Bool :=
  match s.fwPkg k with
  | some p => s.bootable p
  | none => false

/-- The slot that start-up runs: the active one, else the other with fallback set, else none with no_image set (R445). -/
def State.chooseSlot (s : State) : State :=
  let a := s.guard.next
  let b := 3 - a
  let run := fun (s : State) (k : Nat) => (s.modGuard (fun g => { g with running := k, noImage := false })).setFld Reg.GUARD_BOOT 8 2 k
  if s.slotOk a then run s a
  else
    let s := s.slotFault a
    if s.slotOk b then (run s b).raise .guard 2 (b * 2 ^ 8)
    else ((s.slotFault b).raise .guard 3).modGuard (fun g => { g with noImage := true })

/-- One more start counted: R461. -/
def State.countBoot (s : State) : State :=
  s.setFld Reg.GUARD_BOOT 32 32 (min (2 ^ 32 - 1) (s.fld Reg.GUARD_BOOT 32 32 + 1))

/-- Steps 2 and 3: firmware measured and started, the root and SerDes PLLs locked, DRAM trained or not (R454, R456). -/
def State.startFirmware (s : State) (dramTrained : Bool) : State :=
  if s.guard.noImage then s
  else
    let s := ((s.stage 2).measureFirmware.setBit Reg.PWR_CLK 0 true).setBit Reg.PWR_CLK 2 true
    let s := (s.setBit Reg.PWR_CLK 1 dramTrained).modGuard (fun g => { g with phase := .starting, step3 := true, dramBad := !dramTrained, mountBad := false })
    -- step 7 begins: the enabled links of every port train (R385)
    let s := State.each (List.range 6) (fun g s => s.enableLinks g (s.fld (Reg.GIRTH_PORT_CTL g) 0 6)) s
    let s := s.stage 3
    let s := if dramTrained then s else s.raise .guard 6
    -- a regulator alert that stands as the power block leaves reset is a new assertion (R59, R66)
    if s.alertWanted then s.alertAssert else s

/-! ### Warm reset (R457, R458) -/

/-- The causes of R457 by their bits of GUARD_RESET_CAUSE. -/
inductive ResetCause where
  | request | nssr | perst | pllLoss | droop | therm
  deriving DecidableEq, Repr

/-- The cause's bit. -/
def ResetCause.bitNo : ResetCause → Nat
  | .request => 1
  | .nssr => 2
  | .perst => 3
  | .pllLoss => 4
  | .droop => 5
  | .therm => 6

/-- Whether the module's blocks run: not unpowered, not held in reset, not flushing for a loss of input. -/
def State.alive (s : State) : Bool := s.guard.phase == .starting || s.guard.phase == .up

/-- A warm reset up to its fourth step: the flush, every block but the guard reset, the log remade (R457). -/
def State.warmBlocks (s : State) (c : ResetCause) : State :=
  let s := s.writeDump
  let s := { s.clearBlocks with regs := mapRegs warmValue s.regs }
  let s := (s.setReg Reg.GUARD_RESET_CAUSE (BitVec.ofNat 64 (2 ^ c.bitNo))).countBoot
  let s := s.modGuard (fun g => { g with
    phase := .resetting, step3 := false, step4 := false, conns := [], pendResp := [], dl := [], dlLen := 0
    meas := g.meas.filter (fun e => decide (e.1 < 3)), log := g.log.filter (fun e => decide (e.index < 3)) })
  ((s.setFld Reg.GUARD_BOOT 0 3 1).setFld Reg.GUARD_BOOT 10 10 s.guard.log.length).chooseSlot

/-- A cause of warm reset arrives. A further one during a reset is only recorded (R458); in thermal trip start-up waits for the temperatures of
R56. -/
def State.warmReset (s : State) (c : ResetCause) : State :=
  match s.guard.phase with
  | .unpowered | .losing => s
  | .resetting => s.setBit Reg.GUARD_RESET_CAUSE c.bitNo true
  | .starting | .up =>
    let s := s.warmBlocks c
    if s.power.tripped then s else s.startFirmware true

/-! ### Power (R454, R460, R475) -/

/-- Every block at its power-on values: R460. -/
def State.powerOn (s : State) : State :=
  let t := { s.clearBlocks with regs := mapRegs powerValue s.regs }
  { t with
    cores := [], power := { wireLow := s.power.wireLow }
    host := { t.host with persist := s.host.persist, stamp := 0, stampRem := 0, origin := false }
    guard := { phase := .starting, perst := s.guard.perst, pwrDis := s.guard.pwrDis, vinLow := false, leak := s.guard.leak, slots := s.guard.slots
               running := s.guard.running, next := s.guard.next, transcript := s.guard.transcript, burns := s.guard.burns } }

/-- The label of R441 in ASCII. -/
def identityLabel : List Byte := "KALVEBEL SJN-1440 IDENTITY".toList.map (fun c => BitVec.ofNat 8 c.toNat)

/-- The device key pair of a unique device secret: R441. -/
def identityKeys (uds : List Byte) : List Byte × List Byte := mldsaKeyGen ((sha3_512 (uds ++ identityLabel ++ leBytes 4 0)).take 32)

/-- Key derivation at guard boot: the same pair at every boot (R441, R454). -/
def State.deriveKeys (s : State) : State := s.modGuard (fun g => { g with pk := (identityKeys s.fuse.uds).1, sk := (identityKeys s.fuse.uds).2 })

/-- Start-up from power good: steps 1 to 3 (R454). -/
def State.powerGood (s : State) (dramTrained : Bool) : State :=
  let s := s.powerOn.countBoot.deriveKeys.chooseSlot
  if s.guard.noImage then s.stage 1 else ((s.stage 1).measureGuard).startFirmware dramTrained

end Sys2Proof.Machine
end

