-- ==== Sys2Proof/Machine/Ledgers.lean ====
section
/-! DEFINITION. Machine/Ledgers.lean: the eight ledgers' balances and their checker (R33, R424 to R427, R437). The checker compares at the
period boundary, the model having no cycle of its own. -/

namespace Sys2Proof.Machine

open Sys2Proof

/-- The two sides of one balance. -/
abbrev Sides := Int × Int

/-- A register as an integer. -/
def State.term (s : State) (off : Nat) : Int := ((s.reg off).toNat : Int)

/-- The page ledger, from mount on: R329. -/
def State.pageSides (s : State) : Option Sides :=
  if s.media.mounted then
    some ([Reg.MEDIA_PAGE_VALID, Reg.MEDIA_PAGE_INVALID, Reg.MEDIA_PAGE_FREE, Reg.MEDIA_PAGE_ERASING, Reg.MEDIA_PAGE_BAD,
      Reg.MEDIA_PAGE_PARITY].foldl (fun n r => n + s.term r) 0, (pagesTotal : Int))
  else none

/-- issued = returned + outstanding, modulo 2^32: R425. -/
def State.creditSides (s : State) (reg out : Nat) : Sides :=
  ((s.fld reg 0 32 : Int), (((s.fld reg 32 32 + out) % 2 ^ 32 : Nat) : Int))

/-- The credits of a harness ring that are with its receiver: none at the receiving end of a remote ring, whose sender holds the ledger's terms. -/
def State.ringOut (s : State) (b n : Nat) : Nat := if (s.ringSender b n).isSome then s.ringSlots b n - (s.ring b n).credits else 0

/-- The credit ledger of instance `i`: a girth link, a lace channel or a harness ring. -/
def State.creditInst (s : State) (i : Nat) : Option Sides :=
  if i < 36 then
    if s.hasPort (i / 6) then
      some (s.creditSides (Reg.GIRTH_CREDIT (i / 6) (i % 6)) ((s.link (i / 6) (i % 6)).credits.foldl (fun n k => n + (16 - k)) 0))
    else none
  else if 64 ≤ i ∧ i < 192 then
    let c := (i - 64) / 4
    if s.hasCore c then some (s.creditSides (Reg.DX_LACE_CREDIT c (i % 4)) (sget {} (s.core c).lace (i % 4)).granted) else none
  else if 192 ≤ i ∧ i < 224 then
    let b := (i - 192) / 8
    if s.bindOn b && s.ringOn b (i % 8) then some (s.creditSides (Reg.HARN_RING_CREDIT b (i % 8)) (s.ringOut b (i % 8)))
    else none
  else none

/-- The two sides of instance `i` of ledger kind `k`, the first term of R33's balance on the left; none where there is no such instance. -/
def State.sides (s : State) (k i : Nat) : Option Sides :=
  match k with
  | 0 => if i = 0 then s.pageSides else none
  | 1 => s.creditInst i
  | 2 => if s.hasCore i then some (((s.core i).freeSlots + (s.core i).filled + (s.core i).draining : Nat), 128) else none
  | 3 =>
    if i < 9 then
      some (s.term (Reg.PURSE_GRANTED i),
        s.term (Reg.PURSE_SPENT i) + s.term (Reg.PURSE_RESERVED i) + s.remaining i + s.term (Reg.PURSE_RETURNED i))
    else none
  | 4 =>
    if decide (i < 16) && s.poolOn i then
      let free := (s.poolBlocks i : Int) - ((s.blks i).filter (fun e => e.2.st != .free)).length
      some (free + s.commitCount i + s.escrowCount i, (s.poolBlocks i : Int))
    else none
  | 5 =>
    if decide (i < 4) && s.bindOn i then
      some (s.term (Reg.HARN_TALLY_PROD i), s.term (Reg.HARN_TALLY_CONS i) + s.inFlight i)
    else none
  | 6 =>
    if decide (i < 16) && s.bit (Reg.HARN_REDUCE i) 0 then
      some (s.term (Reg.HARN_CONTRIB_EXP i), s.term (Reg.HARN_CONTRIB_INC i) + s.term (Reg.HARN_CONTRIB_CAR i) + s.term (Reg.HARN_CONTRIB_DROP i))
    else none
  | 7 =>
    if s.hasCore i then
      some (((s.core i).sigs : Int), ((s.core i).takes + (s.core i).tok.foldl (fun n e => n + e.2) 0 : Nat))
    else none
  | _ => none

/-- The block bit of R425, with what its capture names: the port and link (R395), the lace channel (R135), the binding (R246), the pool (R276). -/
def ledgerUnit (k i : Nat) : Option (FaultUnit × Nat × Nat) :=
  match k with
  | 0 => some (.media, 0, 0)
  | 1 =>
    if i < 36 then some (.girth, 0, i / 6 * 2 ^ 8 + i % 6 * 2 ^ 11)
    else if i < 192 then some (.core ((i - 64) / 4) .dx, 6, i % 4 * 2 ^ 8)
    else some (.harn, 1, (i - 192) / 8 * 2 ^ 8)
  | 2 => some (.core i .dx, 5, 0)
  | 4 => some (.srv, 0, i * 2 ^ 8)
  | 5 => some (.harn, 0, i * 2 ^ 8)
  | 6 => some (.harn, 2, 0)
  | 7 => some (.core i .seq, 8, 0)
  | _ => none

/-- Instance `i` of kind `k` found out of balance: R426. An injected imbalance sets `injected` and no block bit (R437). -/
def State.imbalance (s : State) (k i : Nat) (d : Sides) (injected : Bool) : State :=
  let clear := s.reg Reg.LEDGER_FAULT == 0
  let s := s.setFault .ledger k (i * 2 ^ 8) 0 ((s.reg (Reg.LEDGER_SEQ k)).toNat % 2 ^ 48)
  let s := if clear then
      (s.setReg Reg.LEDGER_IMBAL_LHS (BitVec.ofInt 64 d.1)).setReg Reg.LEDGER_IMBAL_RHS (BitVec.ofInt 64 d.2)
    else s
  let s := { s with daybook := { s.daybook with reg := sput 0 s.daybook.reg (256 + k) Reg.LEDGER_FAULT } }.fire (256 + k)
  if injected then s.setBit Reg.LEDGER_FAULT 8 true
  else
    match ledgerUnit k i with
    | some (u, b, e) => s.raise u b e
    | none => s

/-- One check of instance `i` of kind `k`; `armed` adds one to its first term for this check. -/
def State.checkLedger (k i : Nat) (armed : Bool) (s : State) : State :=
  match s.sides k i with
  | none => s
  | some d =>
    let d := if armed then (d.1 + 1, d.2) else d
    if d.1 = d.2 then s else s.imbalance k i d armed

/-- How many instance numbers kind `k` has. -/
def ledgerInstances : Nat → Nat
  | 0 => 1
  | 1 => 224
  | 2 => 32
  | 3 => 9
  | 4 => 16
  | 5 => 4
  | 6 => 16
  | 7 => 32
  | _ => 0

/-- Every ledger checked, the instance that LEDGER_TEST has armed with one added: R426, R437. -/
def State.checkLedgers (s : State) (arm : Option (Nat × Nat)) : State :=
  State.each (List.range 8) (fun k s =>
    State.each (List.range (ledgerInstances k)) (fun i s => s.checkLedger k i (arm == some (k, i))) s) s

end Sys2Proof.Machine
end

