-- ==== Sys2Proof/Machine/Power.lean ====
section
/-! DEFINITION. Machine/Power.lean: a sample of the power monitor and all that follows from it (R41 to R61, R480), droop, the alert, and the
loss of a PLL (R36). -/

namespace Sys2Proof.Machine

open Sys2Proof

/-! ### Refill and static charges (R44, R52) -/

/-- Purse `p` refilled: R44. -/
def State.refill (p : Nat) (s : State) : State :=
  let acc := s.fld Reg.PWR_CAP 0 10 * s.fld (Reg.PURSE_CTL p) 0 10 * 25 + s.fld (Reg.PURSE_RESIDUE p) 32 10
  let uj := acc / 1000
  let s := s.setFld (Reg.PURSE_RESIDUE p) 32 10 (acc % 1000)
  if uj = 0 then s else ((s.addRemaining p uj).addReg (Reg.PURSE_GRANTED p) uj).tick 3

/-- Whether the compute tiles are powered: not in PS4 (R367). -/
def State.tilesPowered (s : State) : Bool := s.host.psPhase != .low 4

/-- `n` PCLK of core static for every powered core, and of the module base: R52. -/
def State.staticCharge (s : State) (n : Nat) : State :=
  let s := if s.tilesPowered then State.each (List.range s.coreCount) (fun c s => s.chargeCore c 9 n) s else s
  s.chargeHouse 10 n

/-! ### Droop debits (R61) -/

/-- The cores of a tile. -/
def tileCores : Tile → List Nat
  | .west => List.range 16
  | .east => (List.range 16).map (· + 16)

/-- `n` debits of a tile: each partition with a core on it pays from remaining, charged to the job on the lowest of those cores. -/
def State.droopDebit (s : State) (t : Tile) (n : Nat) : State :=
  if n = 0 then s
  else
    let uj := n * s.fld Reg.PWR_DROOP_CTL 32 32
    State.each (List.range 8) (fun p s =>
      match (tileCores t).find? (fun c => s.hasCore c && s.partOf c == some p) with
      | some c =>
        let s := match (s.core c).job with
          | some j => s.modJob j (fun j => { j with spent := j.spent + uj })
          | none => s
        if uj = 0 then s else ((s.addRemaining p (-(uj : Int))).addReg (Reg.PURSE_SPENT p) uj).tick 3
      | none => s) s

/-! ### The gain (R53) -/

/-- The estimate of the sample in microjoules, with what it carries on. -/
def State.takeEstimate (s : State) : Nat × State :=
  let acc := s.power.rawFj + s.power.estRem
  (acc / 1000000000, { s with power := { s.power with rawFj := 0, estRem := acc % 1000000000 } })

/-- The corrected gain before the clamp. -/
def gainNext (g meas est : Nat) : Int := (g : Int) + Int.tdiv (((meas * 16384 / est : Nat) : Int) - (g : Int)) 16

/-- The clamp of R53. -/
def gainClamp (g : Int) : Nat := if g < 0x2000 then 0x2000 else if 0x7FFF < g then 0x7FFF else g.toNat

/-- The gain corrected against measured power `dw`; `calHit` tells whether it was clamped. -/
def State.correctGain (s : State) (dw : Nat) : State :=
  let e := s.takeEstimate
  let s := { e.2 with power := { e.2.power with calHit := false } }
  if s.bit Reg.PWR_CAL 16 then s.setFld Reg.PWR_CAL 0 16 (s.fld Reg.PWR_CAL 32 16)
  else if e.1 = 0 then s
  else
    let g := gainNext (s.fld Reg.PWR_CAL 0 16) (dw * 25 / 10) e.1
    { s.setFld Reg.PWR_CAL 0 16 (gainClamp g) with power := { s.power with calHit := decide (g < 0x2000) || decide (0x7FFF < g) } }

/-! ### Cap and thermal throttling (R55, R56) -/

/-- One up, to 16. -/
def ratioUp (n : Nat) : Nat := min 16 (n + 1)

/-- One down, to a floor. -/
def ratioDown (floor n : Nat) : Nat := max floor (n - 1)

/-- The cap ratios after a sample at `dw` tenths of a watt: R55. -/
def State.capSample (s : State) (dw : Nat) : State :=
  let cap := s.fld Reg.PWR_CAP 0 10
  let f := if cap * 10 < dw then ratioDown 4 else if dw * 16 ≤ cap * 150 then ratioUp else id
  { s with power := { s.power with capW := f s.power.capW, capE := f s.power.capE } }

/-- A tile's thermal ratio after a reading of its junction. -/
def thermNext (warn : Int) (j : Int) (n : Nat) : Nat :=
  if 16 * warn ≤ j then ratioDown 2 n else if j < 16 * (warn - 3) then ratioUp n else n

/-- Whether a sample is at a trip level: R56. -/
def Sample.trips (js : List Int) (flash : Int) : Bool := js.any (fun j => decide (16 * 112 ≤ j)) || decide (16 * 90 ≤ flash)

/-- The junctions that count: the east tile of a -A is unpowered (R17). -/
def State.junctions (s : State) (w e h : BitVec 16) : List Int :=
  if s.fuse.grade = 2 then [w.toInt, h.toInt] else [w.toInt, e.toInt, h.toInt]

/-- The thermal actions of a sample, but for its fault bits and the trip: R56. -/
def State.thermalSample (s : State) (p : Sample) : State :=
  let s := s.setReg Reg.PWR_TEMP (p.junctionW.setWidth 64 ||| (p.junctionE.setWidth 64 <<< 16) ||| (p.junctionHub.setWidth 64 <<< 32) |||
    (p.flashMax.setWidth 64 <<< 48))
  let a := s.fuse.grade == 2
  let warn : Int := s.fld Reg.PWR_THERM_CTL 0 8
  let w := p.junctionW.toInt
  let e := p.junctionE.toInt
  let flash := p.flashMax.toInt
  let limit := (s.junctions p.junctionW p.junctionE p.junctionHub).any (fun j => decide (16 * 105 ≤ j))
  let f85 := decide (16 * 85 ≤ flash)
  let was := s.power.flash85
  let f80 := decide (16 * (s.fld Reg.PWR_THERM_CTL 8 8 : Int) ≤ flash)
  let new := (limit && !s.power.therm105) || (f80 && !s.power.flash80) || (f85 && !was)
  let s := { s with power := { s.power with
    thermW := if limit then 2 else thermNext warn w s.power.thermW
    thermE := if limit then 2 else if a then s.power.thermE else thermNext warn e s.power.thermE
    therm105 := limit, flash80 := f80, flash85 := f85, gate := s.power.gate + (if new then 1 else 0) } }
  if f85 && !was then s.suspendErases else if was && !f85 then s.startErases else s

/-- The standing conditions of a sample recorded in ascending order of their bits, so that a capture loaded now names the lowest of them (R10,
R55, R56, R480); `trip` is the thermal trip's. -/
def State.sampleFaults (s : State) (p : Sample) (trip : Bool) : State :=
  let warn : Int := s.fld Reg.PWR_THERM_CTL 0 8
  let hot := decide (16 * warn ≤ p.junctionW.toInt) || (s.fuse.grade != 2 && decide (16 * warn ≤ p.junctionE.toInt))
  let s := if hot then s.raiseStanding .pwr 6 else s
  let s := if s.power.therm105 then s.raiseStanding .pwr 7 else s
  let s := if trip then (s.satCount Reg.PWR_EVENT_COUNT 48).raise .pwr 8 else s
  let s := if s.power.flash85 then s.raiseStanding .pwr 9 else s
  let s := if s.power.capW < 16 ∨ s.power.capE < 16 then s.raiseStanding .pwr 10 else s
  if s.power.calHit then s.raiseStanding .pwr 11 else s

/-- The temperatures below which a trip is released: R56. -/
def State.tripRelease (s : State) (w e h f : BitVec 16) : State :=
  let cool := (s.junctions w e h).all (fun j => decide (j < 16 * 95)) && decide (f.toInt < 16 * 75)
  if s.power.tripped && cool then
    let s := { s with power := { s.power with tripped := false } }
    if s.guard.phase = .resetting then s.startFirmware true else s
  else s

/-! ### The alert at a sample (R59) -/

/-- The wire's level at a sample, and the alert's release. -/
def State.alertSample (s : State) (low : Bool) : State :=
  let s :=
    if !low then { s with power := { s.power with wireLow := false, sledLow := false } }
    else if s.alertWanted then s
    else { s with power := { s.power with wireLow := true } }.alertAssert
  if s.alertWanted then { s with power := { s.power with highCount := 0 } }
  else if s.power.alert = 16 then s
  else
    let n := s.power.highCount + 1
    let s := { s with power := { s.power with highCount := n } }
    if n < s.fld Reg.PWR_ALERT_CTL 8 4 then s
    else { s with power := { s.power with alert := ratioUp s.power.alert, alertHold := false } }.startErases

/-! ### The sample (R41, R50) -/

/-- What a sample reads: its number and the measured power. -/
def State.takeSample (s : State) (dw : BitVec 16) : State :=
  s.setReg Reg.PWR_SAMPLE (dw.setWidth 64 ||| BitVec.ofNat 64 ((s.sampleSeq + 1) * 2 ^ 16))

/-- The sample's purse work: refills, then charges (R50), then the gain for the next sample. -/
def State.purseSample (s : State) (p : Sample) : State :=
  let s := State.each (List.range 9) State.refill s
  let s := s.staticCharge p.pclk
  let s := s.droopDebit .west s.power.debitW
  let s := s.droopDebit .east s.power.debitE
  let s := { s with power := { s.power with debitW := 0, debitE := 0 } }
  s.correctGain p.powerDw.toNat

/-- The NVMe Timestamp advanced by one millisecond per 400,000 PCLK: R40. -/
def State.timePasses (s : State) (pclk : Nat) : State :=
  let n := s.host.stampRem + pclk
  { s with host := { s.host with stamp := (s.host.stamp + n / 400000) % 2 ^ 48, stampRem := n % 400000 } }

/-- A completed sample. While the module is held in reset only the sample itself is taken. -/
def State.sample (s : State) (p : Sample) : State :=
  match s.guard.phase with
  | .unpowered | .losing => s
  | .resetting => (s.takeSample p.powerDw).timePasses p.pclk
  | .starting | .up =>
    let s := ((s.takeSample p.powerDw).timePasses p.pclk).purseSample p
    let s := (s.addReg (Reg.PWR_THR_COUNT 0) p.swW).addReg (Reg.PWR_THR_COUNT 1) (if s.fuse.grade = 2 then 0 else p.swE)
    let s := ((s.capSample p.powerDw.toNat).thermalSample p).alertSample p.alertLow
    let s := { s.throttle with power := { s.power with inPeriod := s.power.inPeriod + 1 } }
    let s := State.each (List.range 8) (fun q s => s.headLevel q) s
    let trip := Sample.trips (s.junctions p.junctionW p.junctionE p.junctionHub) p.flashMax.toInt && !s.power.tripped
    let s := s.sampleFaults p trip
    if trip then { s with power := { s.power with tripped := true } }.warmReset .therm else s

/-! ### The alert wire and force (R58, R59, R470) -/

/-- PWR_ALERT_N falls, or SLED_ALERT_N does; neither in reset or unpowered. -/
def State.alertFalls (s : State) (sled : Bool) : State :=
  -- SLED_ALERT_N is ignored until step 4 of start-up (R470, R473)
  if sled && !s.guard.step4 then s
  -- the regulator's wire is found low when the block leaves reset (R59)
  else if !s.alive then if sled then s else { s with power := { s.power with wireLow := true } }
  else
    let was := s.alertWanted
    let s := { s with power := if sled then { s.power with sledLow := true } else { s.power with wireLow := true } }
    if was then s else s.alertAssert

/-- PWR_ALERT_CTL written: force acts as the wire (R59); release_samples in its range (R11). -/
def State.writeAlertCtl (s : State) (v : Word) : State :=
  let was := s.alertWanted
  let n := Machine.fld v 8 4
  let s := s.setBit Reg.PWR_ALERT_CTL 0 (Machine.bit v 0)
  let s := if n = 0 then s.devFault 1 Reg.PWR_ALERT_CTL else s.setFld Reg.PWR_ALERT_CTL 8 4 n
  if !was && s.alertWanted then s.alertAssert else s

/-! ### Droop (R60 to R62) -/

/-- Whether a tile's rail exists. -/
def State.hasTile (s : State) (t : Tile) : Bool := t == .west || s.fuse.grade != 2

/-- A rail below 620 mV: R62. -/
def State.droopReset (s : State) (t : Tile) (mv : Nat) : State :=
  if s.alive && s.hasTile t && decide (mv < 620) then (s.raise .pwr 5).warmReset .droop else s

/-- What the droop detectors keep of a tile: below the warning level, and in the hold interval. -/
def Power.rail (p : Power) : Tile → Bool × Bool
  | .west => (p.belowW, p.holdW)
  | .east => (p.belowE, p.holdE)

def Power.setRail (p : Power) (t : Tile) (below hold : Bool) (n : Nat) : Power :=
  match t with
  | .west => { p with belowW := below, holdW := hold, droopW := n }
  | .east => { p with belowE := below, holdE := hold, droopE := n }

/-- A debit owed for a tile, and programs held from now on. -/
def Power.owe (p : Power) : Tile → Power
  | .west => { p with debitW := p.debitW + 1, gate := p.gate + 1 }
  | .east => { p with debitE := p.debitE + 1, gate := p.gate + 1 }

/-- A tile's rail falls below the warning level: R61. -/
def State.droopWarn (s : State) (t : Tile) (mv : Nat) : State :=
  if mv < 620 then s.droopReset t mv
  else if !s.alive || !s.hasTile t || (s.power.rail t).1 || decide (s.fld Reg.PWR_DROOP_CTL 0 10 ≤ mv) then s
  else
    let s := { s with power := (s.power.setRail t true false 8).owe t }
    let w := t == .west
    ((s.satCount Reg.PWR_EVENT_COUNT (if w then 16 else 32)).raise .pwr (if w then 3 else 4)).throttle

/-- The rail is back: the hold interval begins (R60, R61). -/
def State.droopRecover (s : State) (t : Tile) (mv : Nat) : State :=
  if (s.power.rail t).1 && decide (s.fld Reg.PWR_DROOP_CTL 0 10 ≤ mv) then { s with power := s.power.setRail t false true 8 } else s

/-- The hold interval ends: the droop ratio returns to 16 (R61). -/
def State.droopExpire (s : State) (t : Tile) : State :=
  if (s.power.rail t).2 then ({ s with power := s.power.setRail t false false 16 }).throttle else s

/-- Whether the power block holds new programs: the alert, droop or flash at 85 °C (R56, R58, R61). -/
def State.programHeld (s : State) : Bool :=
  s.eraseHeld || s.power.belowW || s.power.holdW || s.power.belowE || s.power.holdE

/-! ### PLLs (R36) -/

/-- The root PLL loses lock: a warm reset, or in one its record (R458). Without power there is no PLL. -/
def State.rootLoss (s : State) : State :=
  match s.guard.phase with
  | .unpowered | .losing => s
  | .resetting | .starting | .up => ((s.setBit Reg.PWR_CLK 0 false).raise .pwr 0).warmReset .pllLoss

/-- An interface PLL loses lock: its link retrains under R380 where it is a girth SerDes. -/
def State.pllLoss (s : State) (p : IfPll) : State :=
  if !s.alive then s
  else
    match p with
    | .dram => s.setBit Reg.PWR_CLK 1 false
    | .serdes g l =>
      -- the PLL of an absent or disabled link is not among those whose lock counts (R65)
      if s.hasPort g.toNat && s.bit (Reg.GIRTH_PORT_CTL g.toNat) l.toNat && decide (l.toNat < 6) && s.host.psPhase != .low 4 then
        let s := s.setBit Reg.PWR_CLK 2 false
        let st := s.linkState g.toNat l.toNat
        if st = 0 ∨ st = 3 then s.trainLink g.toNat l.toNat else s.retrain g.toNat l.toNat
      else s
    | .pcie _ => s.setBit Reg.PWR_CLK 3 false

/-! ### PURSE_CTL (R46) -/

/-- The sum of the nine share shadows with `share` in place of purse `p`'s. -/
def State.shareSum (s : State) (p share : Nat) : Nat :=
  (List.range 9).foldl (fun n q => n + (if q = p then share else Machine.fld (s.shadowOf (Reg.PURSE_CTL q)) 0 10)) 0

end Sys2Proof.Machine
end

