-- ==== Sys2Proof/Machine/Fields.lean ====
section
/-! DEFINITION. Machine/Fields.lean: what a write puts into a register's fields (R9, R11, R12): reserved encodings, sticky bits, shadows. -/

namespace Sys2Proof.Machine

open Sys2Proof

/-- Whether a value's field holds an encoding that the register's table lists: R11. -/
def FieldRule.ok : FieldRule → Word → Bool
  | .range lo w a b, v => decide (a ≤ Machine.fld v lo w) && decide (Machine.fld v lo w ≤ b)
  | .zeroOr lo w a b, v => Machine.fld v lo w == 0 || (decide (a ≤ Machine.fld v lo w) && decide (Machine.fld v lo w ≤ b))
  | .zero lo k, v => Machine.fld v lo k == 0
  | .gc, v =>
    let f := fun lo => Machine.fld v lo 16
    [0, 16, 32].all (fun lo => decide (10 ≤ f lo) && decide (f lo ≤ 5000)) && decide (f 32 < f 16) && decide (f 16 < f 0)

/-- The writable bits that run on from bit `lo`: the field that begins there. -/
def runFrom (rw : Word) (lo : Nat) : Nat := ((List.range (64 - lo)).takeWhile (fun i => rw.getLsbD (lo + i))).length

/-- The bits of the field that a rule governs. -/
def FieldRule.bits (rw : Word) : FieldRule → Word
  | .range lo w _ _ => mask lo w
  | .zeroOr lo w _ _ => mask lo w
  | .zero lo _ => mask lo (runFrom rw lo)
  | .gc => rw

/-- The read-write fields of a write of `v` over `old`: a field with a reserved encoding keeps what it held. -/
def RegInfo.accept (i : RegInfo) (old v : Word) : Word :=
  i.rules.foldl (fun w r => if r.ok v then w else (w &&& ~~~ r.bits i.rw) ||| (old &&& r.bits i.rw)) v &&& i.rw

/-- Whether a write holds a reserved encoding anywhere. -/
def RegInfo.reserved (i : RegInfo) (v : Word) : Bool := i.rules.any (fun r => !r.ok v)

/-- A write of `v` to a register whose fields take effect at a boundary lands in the shadow; the last write before the boundary wins (R12). -/
def State.writeShadow (s : State) (off : Nat) (i : RegInfo) (v : Word) : State :=
  let s := if i.reserved v then s.devFault 1 off else s
  -- a reserved value written to the harness block refuses its binding's shadows at the boundary (R226)
  let s := if decide (0x400000 ≤ off) && decide (off < 0x500000) then
      { s with harness := { s.harness with reserved := if i.reserved v then setAdd s.harness.reserved off else setDel s.harness.reserved off } }
    else s
  s.setShadow off (i.accept (s.shadowOf off) v ||| (v &&& i.wo))

/-- A write of `v` to a register whose fields take effect at once. -/
def State.writeNow (s : State) (off : Nat) (i : RegInfo) (v : Word) : State :=
  let s := if i.reserved v then s.devFault 1 off else s
  s.setReg off ((s.reg off &&& ~~~ i.rw) ||| i.accept (s.reg off) v)

/-! ### Writes that the device refuses when they are made (R24, R46, R400) -/

/-- PURSE_CTL_p written: a share that takes the nine shares above 1,000 is refused (R46). -/
def State.writePurse (s : State) (p : Nat) (v : Word) : State :=
  let off := Reg.PURSE_CTL p
  match regInfo off with
  | some i =>
    let w := i.accept (s.shadowOf off) v
    if 1000 < s.shareSum p (Machine.fld w 0 10) then
      (if i.reserved v then s.devFault 1 off else s).raise .pwr 12
    else s.writeShadow off i v
  | none => s

/-- The rates of one resource in the nine rein shadows, with `w` in place of purse `p`'s register. -/
def State.reinSum (s : State) (girth : Bool) (lo n p : Nat) (w : Word) : Nat :=
  (List.range 9).foldl (fun m q =>
    m + Machine.fld (if q = p then w else s.shadowOf (if girth then Reg.SCHED_GREIN q else Reg.SCHED_REIN q)) lo n) 0

/-- SCHED_REIN_p or SCHED_GREIN_p written: refused where a resource's rates would sum to more than its rein capacity, or where a -A would have
a rate on a port it lacks (R24, R400). -/
def State.writeRein (s : State) (girth : Bool) (p : Nat) (v : Word) : State :=
  let off := if girth then Reg.SCHED_GREIN p else Reg.SCHED_REIN p
  match regInfo off with
  | some i =>
    let w := i.accept (s.shadowOf off) v
    let above := if girth then (List.range 6).any (fun g => decide (160 < s.reinSum true (8 * g) 8 p w))
      else decide (13653 < s.reinSum false 0 14 p w) || decide (341 < s.reinSum false 16 9 p w)
    let dark := girth && (List.range 6).any (fun g => !s.hasPort g && Machine.fld w (8 * g) 8 != 0)
    if above || dark then (if i.reserved v then s.devFault 1 off else s).raise .sched 1 (p * 2 ^ 8)
    else s.writeShadow off i v
  | none => s

end Sys2Proof.Machine
end

