-- ==== Sys2Proof/Machine/Sched.lean ====
section
/-! DEFINITION. Machine/Sched.lean: where jobs are placed (R403, R404), time slices and the switching of jobs (R405 to R409, R129, R134, R182). -/

namespace Sys2Proof.Machine

open Sys2Proof

/-! ### Placement (R403, R404) -/

/-- Whether core `c` is idle for placement: no job, nothing of an ended job still to end, not quarantined, and not held out of the pool by an
enabled binding (R221, R403, R436, R481). -/
def State.idleCore (s : State) (c : Nat) : Bool :=
  s.hasCore c && (s.core c).job.isNone && (s.core c).busy.isEmpty && !(s.core c).kept && !s.bit Reg.FAULT_QUARANTINE c

/-- The idle cores of partition `p`, ascending. -/
def State.idleCores (s : State) (p : Nat) : List Nat := (s.partCores p).filter s.idleCore

/-- A job and the cores it would be placed on. -/
structure Placement where
  job   : NHdr
  cores : List Nat
  fresh : Bool
  deriving DecidableEq, Repr

/-- The switched-out job that left first among those whose cores are all free. -/
def State.oldestOut (s : State) (p : Nat) (free : List Nat) : Option Job :=
  (s.jobs.filter (fun j => j.part == p && j.phase == .out && j.cores.all free.contains)).foldl (fun best j =>
    match best with
    | none => some j
    | some b => if j.switchSeq < b.switchSeq then some j else some b) none

/-- What the scheduler would place on the free cores of partition `p`: R404. A new job that cannot be placed holds back every later one. -/
def State.nextPlacement (s : State) (p : Nat) (free : List Nat) : Option Placement :=
  match s.oldestOut p free with
  | some j => some ⟨j.n, j.cores, false⟩
  | none =>
    match s.jobs.find? (fun j => j.part == p && j.phase == .waiting) with
    | some j => if j.prog.ncores ≤ free.length then some ⟨j.n, free.take j.prog.ncores, true⟩ else none
    | none => none

/-- A new job put on a core: R155, R187, R188, R361. -/
def State.placeOn (s : State) (j : Job) (c : Nat) : State :=
  let s := s.clearValid c
  let k := s.core c
  let s := s.setCore c { k with
    job := some j.n, run := .idle, held := none, index := 0, levels := [], queue := [], ended := false, stalled := false
    icache := if k.codeBase = j.prog.base ∧ k.codeLen = j.prog.len then k.icache else []
    codeBase := j.prog.base, codeLen := j.prog.len }
  let s := s.setReg (Reg.OX_SEED c) j.seed
  if j.prog.flags.testBit 2 then s.setBit (Reg.DX_CTL c) 0 true else s

/-- Core `c` reserved for a job whose context is being reloaded. -/
def State.reserveCore (n : NHdr) (c : Nat) (s : State) : State :=
  s.modCore c (fun k => { k with job := some n, run := .switchedOut, held := none, queue := [], ended := false })

/-- The scheduler places what comes next in partition `p`, if anything can be: a new job starts, a switched-out one begins its reload. -/
def State.placeNext (s : State) (p : Nat) : State :=
  if !s.bit (Reg.SCHED_PART p) 0 then s
  else
    match s.nextPlacement p (s.idleCores p) with
    | none => s
    | some q =>
      match s.job? q.job with
      | none => s
      | some j =>
        if q.fresh then
          let s := State.each q.cores (fun c s => s.placeOn j c) s
          let s := s.modJob j.n (fun j => { j with cores := q.cores, phase := .needEntry })
          let s := State.each q.cores (fun c s => s.laceLive c) s
          if j.serving then s else if j.rings != 0 then s.enterFrame j.n else s.queueStep j.n
        else (State.each q.cores (State.reserveCore j.n) s).modJob j.n (fun j => { j with phase := .loading })

/-! ### Switching out (R405 to R407) -/

/-- Cores of partition `p` whose contexts are saved: SCHED_CTX_p.used. -/
def State.ctxUsed (s : State) (p : Nat) : Nat := (s.saved.filter (fun v => (s.job? v.job).any (fun j => j.part == p))).length

/-- Whether a job holds its cores and may be switched out: not in a partition of an enabled binding (R221, R405). -/
def State.switchable (s : State) (j : Job) : Bool :=
  !j.cores.isEmpty && (s.bindingOf j.part).isNone &&
  (match j.phase with
   | .needEntry | .queued | .running | .ended => true
   | .waiting | .stopping | .out | .loading | .dying => false)

/-- Whether a waiting job could be placed on a job's cores once they were freed: R405. -/
def State.wanted (s : State) (j : Job) : Bool :=
  match s.nextPlacement j.part ((s.partCores j.part).filter (fun c => s.idleCore c || (j.cores.contains c && !s.bit Reg.FAULT_QUARANTINE c))) with
  | some q => q.cores.any j.cores.contains
  | none => false

/-- A core that stops for a switch: nothing more issues or starts, prefetches are cancelled and the slots of its streams are free (R129, R406). -/
def State.stopCore (c : Nat) (s : State) : State :=
  let s := s.modCore c (fun k => { k with run := .switchedOut })
  let s := s.cancelPrefetch c (fun _ => true)
  let n := ((s.core c).streams.filter (fun t => t.slot.isSome)).length
  let s := if n = 0 then s else s.slotFree c n
  s.modCore c (fun k => { k with streams := k.streams.map (fun t => { t with slot := none, page := none }) })

/-- A time slice of partition `p` expires: R405. -/
def State.sliceExpiry (s : State) (p : Nat) : State :=
  if s.fld (Reg.SCHED_PART p) 1 6 = 0 then s
  else
    match s.jobs.find? (fun j => j.part == p && s.switchable j && s.wanted j) with
    | none => s
    | some j =>
      if s.fld (Reg.SCHED_CTX p) 0 8 < s.ctxUsed p + j.cores.length then s.raise .sched 2 (p * 2 ^ 8)
      else (State.each j.cores State.stopCore s).modJob j.n (fun j => { j with phase := .stopping, back := j.phase })

/-- Whether a core has a GX transaction, a collective or a media request outstanding: R407. -/
def State.outstanding (s : State) (c : Nat) : Bool :=
  (s.core c).busy.any (fun b => match b.wait with
    | .media _ => true
    | .done | .hxSend _ _ _ _ _ | .hxRecv _ _ _ _ _ | .hxRow _ _ _ _ _ | .gx _ | .coll _ _ | .pres => false) ||
  s.girth.txns.any (fun t => t.core == c) || s.girth.colls.any (fun v => v.core == c)

/-- The job of partition `p` that is switching out and has nothing outstanding. -/
def State.parking (s : State) (p : Nat) : Option Job :=
  s.jobs.find? (fun j => j.part == p && j.phase == .stopping && !j.cores.any s.outstanding)

/-- The deferral of R407 ends: the merge buffers are emptied (R406 step 4). -/
def State.deferEnd (s : State) (p : Nat) : State :=
  match s.parking p with
  | some j => State.each j.cores (fun c s => s.emptyMerge c) s
  | none => s

/-! ### A lace switched out (R134)

What the members hold of the stream that the head is sending is dropped, and the head sends it again from the first line that some member lacks;
a member that has a line already discards the repeat. Lines of a stream that its head has finished sending cannot be sent again: they stay with
the member's context. -/

/-- The members of the lace on channel `l` from core `c` on. -/
def State.laceChain (s : State) (l : Nat) : Nat → Nat → List Nat
  | 0, _ => []
  | f + 1, c =>
    let t := s.laceCtl c l
    if !t.1 then []
    else if t.2.1 = 2 then [c]
    else c :: s.laceChain l f t.2.2.1

/-- Slots that lines fill, the first of them holding `n` lines already done with: a slot ends with its sixteenth line or with its stream's last. -/
def slotsOf : Nat → List DxLine → Nat
  | n, [] => if n = 0 then 0 else 1
  | n, v :: r => if v.last || n + 1 == 16 then slotsOf 0 r + 1 else slotsOf (n + 1) r

/-- Slots of a core that its lace channels hold, filled and draining. -/
def Core.laceHeld (k : Core) : Core :=
  let part := (k.lace.filter (fun e => decide (e.2.drained ≠ 0))).length
  { k with filled := k.lace.foldl (fun n e => n + e.2.granted) 0 - part, draining := part }

/-- Member `m`'s place in the stream of head stream `id` given up from line `first` on: what it holds of that stream dropped, its credits and slots
free but for those that hold lines of earlier streams. -/
def State.laceDrop (l id first : Nat) (m : Nat) (s : State) : State :=
  let v := (s.core m).laceCh l
  let keep := fun (q : DxLine) => q.sid != id
  let mine := v.cur == id + 1
  let drained := if mine then 0 else v.drained
  let held := v.held.filter keep
  let transit := v.transit.filter keep
  let granted := min v.granted (slotsOf drained (held ++ transit))
  let back := v.granted - granted
  let s := s.modCore m (fun k => (k.setLace l
    { v with cred := 0, sent := 0, held := held, transit := transit, drained := drained, done := 0, granted := granted
             skip := if mine then v.took - first else v.skip }).laceHeld)
  if back = 0 then s
  else ((s.setFld (Reg.DX_LACE_CREDIT m l) 32 32 (s.fld (Reg.DX_LACE_CREDIT m l) 32 32 + back)).tick 1 back).tick 2 back

/-- The laces whose head is core `c` made ready for a switch. -/
def State.laceRestart (c : Nat) (s : State) : State :=
  State.each (List.range 4) (fun l s =>
    let t := s.laceCtl c l
    match (s.core c).laceStream l with
    | some st =>
      if !t.1 || t.2.1 != 0 then s
      else
        let ms := (s.laceChain l 33 c).drop 1
        let done := runsTo st.d st.pos st.pos 0
        let has := fun m => let v := (s.core m).laceCh l; if v.cur = st.id + 1 then v.took else 0
        let first := ms.foldl (fun n m => min n (has m)) done
        let s := s.modLace c l (fun v => { v with cred := 0, sent := 0, again := done - first })
        State.each ms (State.laceDrop l st.id first) s
    | none => s) s

/-- Lines of a saved context as DRAM accesses: its valid SRAM lines and 2,228,224 bytes of banks and state (R408). -/
def SavedCtx.accesses (v : SavedCtx) : Nat := v.valid.length + 2228224 / 64

/-- Whether an offset lies in core `c`'s window. -/
def inCoreWin (c off : Nat) : Bool := decide (coreWin c ≤ off) && decide (off < coreWin c + 0x100000)

/-- The boundary fields of core `c`, live: R32. -/
def State.liveFields (s : State) (c : Nat) : List (Nat × Word) :=
  s.regs.filterMap (fun e =>
    if inCoreWin c e.1 then
      match regInfo e.1 with
      | some i => if i.scope = RegScope.instr then some (e.1, e.2 &&& i.rw) else none
      | none => none
    else none)

/-- The words of core `c` that hold injected errors read whole: R157. -/
def State.readFlipped (s : State) (c : Nat) : State :=
  State.each (s.core c).flipped (State.checkWord c) s

/-- The SRAM bytes of core `c` as a read of every valid line returns them: R157. -/
def State.readLinesOf (s : State) (c : Nat) : List Host.Cell :=
  let lo := sramBase c
  let own := s.mem.filter (fun e => decide (lo ≤ e.1) && decide (e.1 < lo + sramSize))
  (s.core c).flipped.foldl (fun m j => memPut m (lo + 8 * j.word) (s.wordBytes c j.word)) own

/-- Core `c`'s context as it is written to a slot: R406 step 5. -/
def State.contextOf (s : State) (n : NHdr) (c : Nat) : SavedCtx :=
  let lo := sramBase c
  let inC := fun (l : Nat) => decide (lo ≤ 64 * l) && decide (64 * l < lo + sramSize)
  { job := n, core := c, saved := s.core c, regs := s.liveFields c, shadow := s.shadow.filter (fun e => inCoreWin c e.1)
    valid := s.valid.filter inC, poison := s.poison.filter inC
    bytes := s.readLinesOf c }

/-- What stays with the physical core when a job leaves it; its token counts stay readable until the next step begins there (R178). -/
def Core.husk (k : Core) : Core :=
  { codeBase := k.codeBase, codeLen := k.codeLen, icache := k.icache, mxArmed := k.mxArmed, vxArmed := k.vxArmed, flipPend := k.flipPend,
    ceOnce := k.ceOnce, lost := k.lost, remap := k.remap, tok := k.tok, sigs := k.sigs, takes := k.takes, kept := k.kept }

/-- Lace credits of every channel of core `c` returned as its slots free, or granted anew, with the slots themselves: R134. -/
def State.laceMoves (s : State) (c : Nat) (back : Bool) (k : Core) : State :=
  let s := State.each k.lace (fun e s =>
    if e.2.granted = 0 then s
    else
      let lo := if back then 32 else 0
      (s.setFld (Reg.DX_LACE_CREDIT c e.1) lo 32 (s.fld (Reg.DX_LACE_CREDIT c e.1) lo 32 + e.2.granted)).tick 1 e.2.granted) s
  if k.filled + k.draining = 0 then s else s.tick 2 (k.filled + k.draining)

/-- One core's context saved, the core idle and its valid bits clear; the traffic is charged to the partition for the job that comes in (R25).
DESIGN CHOICE: where that job's step holds a reservation, the charge draws on it first, as every other charge to the job does (R49 says nothing
of a switch). -/
def State.saveCore (n : NHdr) (p : Nat) (next : Option NHdr) (c : Nat) (s : State) : State :=
  let s := (s.emptyMerge c).readFlipped c
  let v := s.contextOf n c
  let s := { s with saved := s.saved ++ [v] }
  let s := s.laceMoves c true v.saved
  ((s.setCore c v.saved.husk).clearValid c).charge p next 4 v.accesses

/-- Every core's context has been written: the job is out (R406). The traffic runs under the DRAM rein of the partition that is switched in (R25):
at a rate of zero it waits. -/
def State.switchOut (s : State) (p : Nat) : State :=
  match s.parking p with
  | none => s
  | some j =>
    if !s.reinOpen p .dram then s else
    let s := State.each j.cores State.laceRestart s
    let next := (s.nextPlacement p ((s.partCores p).filter (fun c => s.idleCore c || j.cores.contains c))).map Placement.job
    let s := State.each j.cores (State.saveCore j.n p next) s
    let s := { s.modJob j.n (fun k => { k with phase := .out, switchSeq := s.switchSeq }) with switchSeq := s.switchSeq + 1 }
    s.addReg (Reg.SCHED_SWITCHES p) 1

/-! ### Switching in (R406) -/

/-- Core `c`'s boundary fields as a context holds them, live and shadow: R32. -/
def State.restoreFields (s : State) (v : SavedCtx) : State :=
  let now := s.liveFields v.core
  let s := State.each (now.map Prod.fst ++ v.regs.map Prod.fst).eraseDups (fun off s =>
    match regInfo off with
    | some i =>
      let w := match v.regs.find? (fun e => e.1 == off) with
        | some e => e.2
        | none => i.reset &&& i.rw
      s.setReg off ((s.reg off &&& ~~~ i.rw) ||| w)
    | none => s) s
  let s := { s with shadow := s.shadow.filter (fun e => !inCoreWin v.core e.1) }
  State.each v.shadow (fun e s => s.setShadow e.1 e.2) s

/-- Of the words of lines written whole, each named by its first word, those whose writing shows: words to be remapped, and the first word of each
bank group that holds a pending injection (R157, R158). -/
def Core.rewritten (k : Core) (lines : List Nat) : List Nat :=
  k.lost.filter (fun w => lines.contains (w / 8 * 8)) ++
  (List.range 6).filterMap (fun g =>
    if sget 0 k.flipPend g = 0 then none
    else lines.find? (fun w => bankOf (8 * w) / 8 == g && !k.lost.contains w))

/-- A context reloaded into its core: valid bits cleared first, then the lines with their marks, the fields and the state (R129, R155, R182). -/
def State.loadCore (p : Nat) (v : SavedCtx) (s : State) : State :=
  let c := v.core
  let s := s.clearValid c
  let s := { s with
    mem := v.bytes.foldl (fun m (e : Nat × Byte) => sput 0 m e.1 e.2) s.mem
    valid := v.valid.foldl setAdd s.valid
    poison := v.poison.foldl setAdd s.poison }
  let s := State.each ((s.core c).rewritten (v.valid.map (fun l => (64 * l - sramBase c) / 8)))
    (fun w s => s.putWord c w (memBytes s.mem (sramBase c + 8 * w) 8)) s
  let s := s.restoreFields v
  let h := s.core c
  let k := { v.saved with
    run := if v.saved.ended then .idle else .running, flipped := h.flipped, merge := []
    icache := if h.codeBase = v.saved.codeBase then h.icache else []
    mxArmed := h.mxArmed, vxArmed := h.vxArmed, flipPend := h.flipPend, ceOnce := h.ceOnce, lost := h.lost, remap := h.remap, kept := h.kept }
  ((s.setCore c k).laceMoves c false k).charge p (some v.job) 4 v.accesses

/-- The reload of partition `p`'s incoming job ends: its sequencers are released (R406). -/
def State.switchIn (s : State) (p : Nat) : State :=
  match s.jobs.find? (fun j => j.part == p && j.phase == .loading) with
  | none => s
  | some j =>
    if !s.reinOpen p .dram then s else
    let mine := s.saved.filter (fun v => v.job == j.n)
    let s := State.each mine (State.loadCore p) s
    let s := { s with saved := s.saved.filter (fun v => v.job != j.n) }
    let s := s.modJob j.n (fun k => { k with phase := k.back })
    let s := if j.back = .running then s else State.each j.cores (fun c s => s.modCore c (fun k => { k with run := .idle })) s
    let s := State.each j.cores (fun c s => s.laceLive c) s
    (State.each j.cores (fun c s => s.run c) s).enterFrame j.n

/-! ### Waiting jobs that can never be placed (R403) -/

/-- A waiting new job whose partition no longer has the cores fails with Invalid Field in Command. -/
def State.failUnplaceable (s : State) : State :=
  State.each (s.jobs.filter (fun j => j.phase == .waiting && decide ((s.partCores j.part).length < j.prog.ncores))) (fun j s => s.failJob j.n .fieldError) s

end Sys2Proof.Machine
end

