-- ==== Sys2Proof/Machine/Period.lean ====
section
/-! DEFINITION. Machine/Period.lean: the period boundary (R29, R42, R45, R48): what returns, which shadows become live and which are refused,
and what each register's new value does. -/

namespace Sys2Proof.Machine

open Sys2Proof

/-! ### Shadows -/

/-- A field of the value that a register will have once its shadow is taken. -/
def State.plan (s : State) (off lo n : Nat) : Nat := Machine.fld (s.shadowOf off) lo n

/-- Whether a write waits in the register's shadow. -/
def State.hasShadow (s : State) (off : Nat) : Bool := s.shadow.any (fun e => e.1 == off)

/-- A shadow refused: what waited is gone and the configuration in force stays in force. -/
def State.dropShadow (off : Nat) (s : State) : State := { s with shadow := sdel s.shadow off }

/-- Shadows taken live together. -/
def State.takeAll (s : State) (offs : List Nat) : State := State.each offs (fun o s => s.takeShadow o) s

/-! ### Purses (R45, R46) -/

/-- Remaining above carry_uj moves to returned: R45. -/
def State.returnExcess (p : Nat) (s : State) : State :=
  let carry := s.fld (Reg.PURSE_CTL p) 16 32
  let excess := (s.remaining p - (carry : Int)).toNat
  if excess = 0 then s else ((s.addRemaining p (-(excess : Int))).addReg (Reg.PURSE_RETURNED p) excess).tick 3

/-- The nine PURSE_CTL shadows: none becomes live while their shares pass 1,000 (R46). -/
def State.pursePeriod (s : State) : State :=
  if 1000 < (List.range 9).foldl (fun n p => n + s.plan (Reg.PURSE_CTL p) 0 10) 0 then s.raise .pwr 12
  else s.takeAll ((List.range 9).map (fun p => Reg.PURSE_CTL p))

/-! ### The weight pool (R142 to R145) -/

/-- Every heat counter halved: R143. -/
def State.halveHeat (s : State) : State :=
  { s with weight := { s.weight with heat := s.weight.heat.filterMap (fun e => if e.2 / 2 = 0 then none else some (e.1, e.2 / 2)) } }

/-- Pages that hold frames at or above `n` leave the pool; a copy in progress there is given up. -/
def State.leaveFrames (s : State) (n : Nat) : State :=
  let gone := (s.weight.frame.filter (fun e => decide (n ≤ e.2))).map Prod.fst
  State.each gone (fun p s => s.evict p) s

/-- DRAM_POOL_CTL at the boundary: R142. -/
def State.poolPeriod (s : State) : State :=
  let s := match s.weight.limitAfter with
    | some l =>
      { s with weight := { s.weight with limitAfter := none } }.setFld Reg.DRAM_LIMIT 0 48 l |>.setBit Reg.DRAM_POOL_CTL 8 false
    | none => s
  let old := s.fld Reg.DRAM_POOL_CTL 0 6
  let s := s.takeShadow Reg.DRAM_POOL_CTL
  let new := s.fld Reg.DRAM_POOL_CTL 0 6
  if new = old then s
  else
    let s := s.setFld Reg.DRAM_POOL_CTL 16 48 (poolBase new / 65536)
    if old < new then s.setFld Reg.DRAM_LIMIT 0 48 (poolBase new - 1)
    else (s.leaveFrames (4096 * new)).setBit Reg.DRAM_POOL_CTL 8 true

/-- A page's heat. -/
def State.heat (s : State) (p : Nat) : Nat := sget 0 s.weight.heat p

/-- A page put in a list by descending heat, ties to the lower page. -/
def byHeat (h : Nat → Nat) (p : Nat) : List Nat → List Nat
  | [] => [p]
  | q :: r => if h q < h p ∨ (h q = h p ∧ p < q) then p :: q :: r else q :: byHeat h p r

/-- Whether a page may be copied into the pool. -/
def State.candidate (s : State) (p : Nat) : Bool :=
  !setHas s.weight.resident p && !setHas s.weight.copying p &&
  (match s.attached p with
   | some t => !s.pagePoisoned t p
   | none => false)

/-- The first `k` candidates of heat zero among `n` pages from `p`. -/
def State.coldPages (s : State) : Nat → Nat → Nat → List Nat
  | 0, _, _ => []
  | _ + 1, _, 0 => []
  | n + 1, p, k + 1 => if s.candidate p && s.heat p == 0 then p :: s.coldPages n (p + 1) k else s.coldPages n (p + 1) (k + 1)

/-- The candidates in the order R144 takes them, at most `k`. -/
def State.hottest (s : State) (k : Nat) : List Nat :=
  let hot := ((s.weight.heat.map Prod.fst).filter s.candidate).foldl (fun l p => byHeat s.heat p l) []
  let cold := s.weight.attached.flatMap (fun t => s.coldPages t.pages t.base k)
  ((hot ++ (if s.fld Reg.PROMO_CTL 16 24 = 0 then cold.foldl (fun l p => byHeat (fun _ => 0) p l) [] else [])).take k)

/-- The `k`-th number not in an ascending list. -/
def nthGap : Nat → List Nat → Nat
  | k, [] => k
  | k, u :: r => if u ≤ k then nthGap (k + 1) r else k

/-- The coldest resident page, ties to the lower. -/
def State.coldest (s : State) : Option Nat :=
  s.weight.resident.foldl (fun b p => match b with
    | none => some p
    | some q => if s.heat p < s.heat q then some p else some q) none

/-- A copy of page `p` into frame `f` begins: its 128 flash pages are charged to housekeeping (R144). -/
def State.beginCopy (s : State) (p f : Nat) : State :=
  { s with weight := { s.weight with copying := setAdd s.weight.copying p, frame := sput 0xFFFFFFFF s.weight.frame p f } }.chargeHouse 5 128

/-- One candidate considered: R144, R145. Which free frame it takes is open. -/
def State.promoteOne (p : Nat) (s : State) : State :=
  let used := (s.weight.frame.map Prod.snd).foldl setAdd []
  let free := 4096 * s.fld Reg.DRAM_POOL_CTL 0 6 - used.length
  if 0 < free then
    if s.fld Reg.PROMO_CTL 16 24 ≤ s.heat p then
      (s.beginCopy p (nthGap (Config.place 8 0x200000 s.free % free) used)).fresh
    else s
  else
    match s.coldest with
    | some c =>
      if s.heat c + s.fld Reg.PROMO_CTL 40 24 < s.heat p then
        let f := sget 0 s.weight.frame c
        (s.evict c).beginCopy p f
      else s
    | none => s

/-- Promotion: R144. -/
def State.promote (s : State) : State :=
  if s.bit Reg.PROMO_CTL 0 then State.each (s.hottest (s.fld Reg.PROMO_CTL 8 8)) State.promoteOne s else s

/-! ### Partitions, contexts and functions (R399, R402) -/

/-- The registers that R399 checks together. -/
def schedGroup : List Nat :=
  (List.range 8).flatMap (fun p => [Reg.SCHED_PART p, Reg.SCHED_CTX p, Reg.SCHED_CTXBASE p])

/-- A planned context area: partition, base and size. -/
def State.planCtx (s : State) (p : Nat) : Nat × Nat × Nat := (p, s.plan (Reg.SCHED_CTXBASE p) 0 48, s.plan (Reg.SCHED_CTX p) 0 8 * 0x1C00000)

/-- Memory name spaces as runs. -/
def State.memNsRuns (s : State) : List (Nat × Nat × Nat) := (s.allocs.filter (fun a => a.kind == .memNs)).map (fun r => (r.part, r.base, r.size))

/-- Whether the planned context area of partition `p` leaves its program memory or meets what R399 names. -/
def State.ctxBad (s : State) (p : Nat) : Bool :=
  let r := s.planCtx p
  let others := s.poolRuns ++ s.ringRuns ++ s.indexRuns ++ s.overlayRuns ++ s.allocRuns ++ ((List.range 8).filter (· != p)).map s.planCtx
  r.2.2 != 0 &&
    (!(decide (dramBase ≤ r.2.1) && decide (r.2.1 + r.2.2 ≤ s.dramLimit + 1)) ||
     others.any (fun o => o.1 != p && meets r.2.1 r.2.2 o) ||
     (s.poolRuns ++ s.ringRuns ++ s.indexRuns ++ s.memNsRuns).any (meets r.2.1 r.2.2))

/-- Whether core `c` runs a job of partition `p` or holds its saved context. -/
def State.holdsCore (s : State) (p c : Nat) : Bool :=
  s.jobs.any (fun j => j.part == p && j.cores.contains c && j.phase != .out) ||
  s.saved.any (fun v => v.core == c && (s.job? v.job).any (fun j => j.part == p))

/-- The first partition whose planned fields R399 refuses; a core of an enabled binding's partition does not leave it either (R221). -/
def State.schedBad (s : State) : Option Nat :=
  (List.range 8).find? (fun p =>
    let cs := bitsOf 32 (s.plan (Reg.SCHED_PART p) 32 32)
    cs.any (fun c => !s.hasCore c) ||
    (List.range p).any (fun q => cs.any (fun c => (s.plan (Reg.SCHED_PART q) 32 32).testBit c)) ||
    (s.partCores p).any (fun c => !cs.contains c && (s.holdsCore p c || (s.bindingOf p).isSome)) ||
    (s.bit (Reg.SCHED_PART p) 0 && s.plan (Reg.SCHED_PART p) 0 1 == 0 && s.jobs.any (fun j => j.part == p)) ||
    s.ctxBad p)

/-- The scheduler's group at the boundary: R399. A core that changes hands loses its valid bits (R155). -/
def State.schedPeriod (s : State) : State :=
  if schedGroup.any s.hasShadow then
    match s.schedBad with
    | some p => s.raise .sched 0 (p * 2 ^ 8)
    | none =>
      let before := (List.range 32).map s.partOf
      let s := s.takeAll schedGroup
      State.each ((List.range s.coreCount).filter (fun c => s.partOf c != none && s.partOf c != before.getD c none)) (fun c s => s.clearValid c) s
  else s

/-- Whether controller `k` has commands outstanding: R402. -/
def State.ctrlBusy (s : State) (k : Nat) : Bool :=
  let mine := fun (n : NHdr) => n.ctrl.toNat == k
  s.jobs.any (fun j => mine j.n) || s.serving.reqs.any (fun r => mine r.n) ||
  s.serving.frames.any (fun e => e.2.pend.any (fun f => mine f.n) || e.2.run.any (fun f => mine f.n)) ||
  s.search.idx.any (fun e => e.2.closer.any mine || e.2.waiting.any (fun i => match i with
    | .updateIndex n _ _ _ | .advanceEpoch n _ _ _ | .compactIndex n _ _ _ => mine n
    | _ => false)) ||
  s.host.winSets.any (fun w => mine w.n) || s.host.psWait.any mine || !(sget {} s.host.ctrls k).aers.isEmpty

/-- One SCHED_VFMAP register at the boundary, entry by entry: R402. -/
def State.vfmapPeriod (i : Nat) (s : State) : State :=
  let off := Reg.SCHED_VFMAP i
  if s.hasShadow off then
    let s := State.each (List.range 8) (fun j s =>
      let e := 8 * i + j
      let old := s.fld off (8 * j) 8
      if s.plan off (8 * j) 8 = old ∨ !s.ctrlBusy (e / 64 * 65 + e % 64 + 1) then s
      else (s.setShadow off (Machine.setFld (s.shadowOf off) (8 * j) 8 old)).raise .sched 0 (old % 8 * 2 ^ 8)) s
    s.takeShadow off
  else s

/-! ### Bindings, rings and reduction slots (R221, R226, R228, R245) -/

/-- The planned local teacher and student of binding `b`. -/
def State.planTeacher (s : State) (b : Nat) : Option Nat :=
  if s.plan (Reg.HARN_BIND b) 7 2 = 3 then none else some (s.plan (Reg.HARN_BIND b) 1 3)
def State.planStudent (s : State) (b : Nat) : Option Nat :=
  if s.plan (Reg.HARN_BIND b) 7 2 = 1 then none else some (s.plan (Reg.HARN_BIND b) 4 3)
def State.planOn (s : State) (b : Nat) : Bool := s.plan (Reg.HARN_BIND b) 0 1 == 1

/-- The cores of binding `b`, as it stands or as it is planned. -/
def State.bindCores (s : State) (b : Nat) : List Nat :=
  let ps := (if s.bindOn b then s.bindParts b else []) ++ (if s.planOn b then (s.planTeacher b).toList ++ (s.planStudent b).toList else [])
  (List.range s.coreCount).filter (fun c => ps.any (fun p => (s.partCores p).contains c))

/-- The registers of binding `b` that are checked and taken together. -/
def State.bindGroup (s : State) (b : Nat) : List Nat :=
  Reg.HARN_BIND b :: (List.range 8).map (fun n => Reg.HARN_RING b n) ++ (s.bindCores b).map (fun c => Reg.HARN_WIN c)

/-- The slot area of planned ring `n` of binding `b`, where its receiver is local: core, base and size. -/
def State.planArea (s : State) (b n : Nat) : Option (Nat × Nat × Nat) :=
  let f := fun lo w => s.plan (Reg.HARN_RING b n) lo w
  let act := f 1 1 == 1
  let area := if act && f 2 1 == 1 then s.planTeacher b else s.planStudent b
  if s.planOn b && f 0 1 == 1 && area.isSome then some (f 8 5, f 27 25, f 13 7 * f 20 7 * 64) else none

/-- Whether planned ring `n` of binding `b` is refused: R226. -/
def State.ringBad (s : State) (b n : Nat) : Bool :=
  let f := fun lo w => s.plan (Reg.HARN_RING b n) lo w
  let act := f 1 1 == 1
  let back := act && f 2 1 == 1
  let inPart := fun (p : Option Nat) c => match p with
    | some p => (s.partCores p).contains c && s.hasCore c
    | none => true
  f 0 1 == 1 &&
    (f 13 7 == 0 || !inPart (if back then s.planStudent b else s.planTeacher b) (f 3 5) ||
     !inPart (if back then s.planTeacher b else s.planStudent b) (f 8 5) ||
     (!act && (f 2 1 == 1 || f 20 7 != 19)) ||
     (match s.planArea b n with
      | none => false
      | some a =>
        let w := Reg.HARN_WIN a.1
        decide (sramSize < a.2.1 + a.2.2) ||
        (!act && !(decide (s.plan w 0 25 ≤ a.2.1) && decide (a.2.1 + a.2.2 ≤ s.plan w 0 25 + 64 * s.plan w 32 19))) ||
        (List.range 32).any (fun k => k != 8 * b + n &&
          (match (if k / 8 = b ∨ s.bindOn (k / 8) then s.planArea (k / 8) (k % 8) else none) with
           | some o => o.1 == a.1 && decide (a.2.1 < o.2.1 + o.2.2) && decide (o.2.1 < a.2.1 + a.2.2)
           | none => false))))

/-- Whether the planned binding `b` is refused: R218, R226. A reserved value that waits in a shadow refuses the group whatever else it says. -/
def State.bindBad (s : State) (b : Nat) : Bool :=
  (s.bindGroup b).any (fun o => s.hasShadow o && setHas s.harness.reserved o) || s.planOn b &&
    (let ps := (s.planTeacher b).toList ++ (s.planStudent b).toList
     (s.planTeacher b == s.planStudent b) ||
     (List.range 4).any (fun o => o != b && s.bindOn o && (s.bindParts o).any ps.contains) ||
     (List.range 8).any (s.ringBad b))

/-- Whether a started instruction waits on ring `n` of binding `b`. -/
def BusyWait.onRing (w : BusyWait) (b n : Nat) : Bool :=
  match w with
  | .hxSend c m _ _ _ | .hxRecv c m _ _ _ | .hxRow c m _ _ _ => c == b && m == n
  | _ => false

/-- A ring taken out of use: its waiting instructions end and its records are discarded (R221, R231). -/
def State.stopRing (b n : Nat) (s : State) : State :=
  State.discardRing b n (State.each (List.range s.coreCount) (fun c s =>
    State.each ((s.core c).busy.filter (fun q => q.wait.onRing b n)) (fun q s => s.breakWait c q) s) s)

/-- Binding `b` disabled, in the order of R221. -/
def State.disableBind (s : State) (b : Nat) : State :=
  let cs := (List.range s.coreCount).filter (fun c => (s.bindParts b).any (fun p => (s.partCores p).contains c))
  let s := State.each (List.range 8) (State.discardRing b) (s.breakWaits b)
  (State.each cs (fun c s => (s.clearWindow c).modCore c (fun k => { k with kept := false })) s).setBit (Reg.HARN_BIND b) 23 false

/-- The ledger instances of a binding start: R424. -/
def State.startBind (s : State) (b : Nat) : State :=
  ((s.setReg (Reg.HARN_TALLY_PROD b) 0).setReg (Reg.HARN_TALLY_CONS b) 0).setReg (Reg.HARN_TALLY_DISC b) 0

/-- Binding `b`'s shadows at the boundary. -/
def State.bindPeriod (b : Nat) (s : State) : State :=
  let group := s.bindGroup b
  if !group.any s.hasShadow then s
  else if s.bindBad b then s.raise .harn 3 (b * 2 ^ 8)
  else
    let was := s.bindOn b
    let on := s.planOn b
    let changed := (List.range 8).filter (fun n => s.shadowOf (Reg.HARN_RING b n) != s.reg (Reg.HARN_RING b n))
    let s := if was && !on then s.disableBind b
      else if was then State.each (changed.filter (s.ringOn b)) (State.stopRing b) s else s
    let s := s.takeAll group
    if on then
      let s := if was then s else s.startBind b
      State.each ((List.range 8).filter (fun n => s.ringOn b n && (!was || changed.contains n))) (fun n s => s.startRing b n) s
    else s

/-- A reduction slot's shadow at the boundary: R245, R424. -/
def State.reducePeriod (j : Nat) (s : State) : State :=
  let off := Reg.HARN_REDUCE j
  let was := s.bit off 0
  let g := s.fld off 1 8
  let live := s.plan off 0 1 == 1
  let moved := s.plan off 1 8 != g
  let s := if was && (!live || moved) then s.dropCarries j else s
  let s := s.takeShadow off
  if live && (!was || moved) then
    s |>.setReg (Reg.HARN_CONTRIB_EXP j) 0 |>.setReg (Reg.HARN_CONTRIB_INC j) 0 |>.setReg (Reg.HARN_CONTRIB_CAR j) 0
      |>.setReg (Reg.HARN_CONTRIB_DROP j) 0
  else s

/-- The bindings that leave at the boundary, before any core changes hands: R221. -/
def State.harnLeave (s : State) : State := State.each ((List.range 4).filter (fun b => !s.planOn b)) State.bindPeriod s

/-- The harness block at the boundary, its leaving bindings gone: the others, then windows of no binding and reduction slots. -/
def State.harnPeriod (s : State) : State :=
  let on := (List.range 4).filter (fun b => s.planOn b)
  let bound := (List.range 4).flatMap s.bindCores
  let s := State.each on State.bindPeriod s
  let s := s.takeAll (((List.range 32).filter (fun c => !bound.contains c)).map (fun c => Reg.HARN_WIN c))
  State.each (List.range 16) State.reducePeriod s

/-! ### KV pools, overlays and frame rings (R254, R263, R274, R277) -/

/-- Whether a planned change touches more than bit 0 of a unit that is on. -/
def State.lockedChange (s : State) (live : Bool) (ctl base : Nat) : Bool :=
  live && ((s.shadowOf ctl ||| 1) != (s.reg ctl ||| 1) || s.shadowOf base != s.reg base)

/-- The planned pool q: partition, base and size. -/
def State.planPool (s : State) (q : Nat) : Nat × Nat × Nat :=
  (s.plan (Reg.SRV_POOL q) 1 3, s.plan (Reg.SRV_POOL_BASE q) 0 48, s.plan (Reg.SRV_POOL q) 12 12 * 4096 * s.plan (Reg.SRV_POOL q) 24 24)

/-- Whether the planned pool q is refused: R254. -/
def State.poolBad (s : State) (q : Nat) : Bool :=
  s.lockedChange (s.poolOn q) (Reg.SRV_POOL q) (Reg.SRV_POOL_BASE q) ||
  (s.plan (Reg.SRV_POOL q) 0 1 == 1 && !s.poolOn q &&
    (let r := s.planPool q
     !s.progMem r.1 r.2.1 r.2.2 || s.poolRuns.any (meets r.2.1 r.2.2) ||
     decide (2 ≤ (s.poolRuns.filter (fun o => o.1 == r.1)).length)))

/-- Pool q at the boundary. -/
def State.srvPoolPeriod (q : Nat) (s : State) : State :=
  let group := [Reg.SRV_POOL q, Reg.SRV_POOL_BASE q]
  if !group.any s.hasShadow then s
  else if s.poolBad q then (State.each group State.dropShadow s).raise .srv 1 (q * 2 ^ 8)
  else
    let was := s.poolOn q
    let s := s.takeAll group
    if was && !s.poolOn q then s.disablePool q else s

/-- Partition p's overlay region at the boundary: R263. -/
def State.overlayPeriod (p : Nat) (s : State) : State :=
  let group := [Reg.SRV_OVL p, Reg.SRV_OVL_BASE p]
  if !group.any s.hasShadow then s
  else if s.plan (Reg.SRV_OVL p) 0 1 == 1 &&
      !s.progMem p (s.plan (Reg.SRV_OVL_BASE p) 0 48) (s.plan (Reg.SRV_OVL p) 1 10 * s.plan (Reg.SRV_OVL p) 11 8 * 8192) then
    (State.each group State.dropShadow s).raise .srv 1 (p * 2 ^ 8)
  else s.takeAll group

/-- Whether the planned frame ring r is refused: R274, R277. A ring that drains is still enabled. -/
def State.frameBad (s : State) (r : Nat) : Bool :=
  s.lockedChange (s.ringHeld r) (Reg.FRM_CTL r) (Reg.FRM_BASE r) ||
  (s.plan (Reg.FRM_CTL r) 0 1 == 1 && !s.ringHeld r &&
    (let a := s.plan (Reg.FRM_BASE r) 0 48
     let n := s.plan (Reg.FRM_CTL r) 4 8 * s.plan (Reg.FRM_CTL r) 12 20 * 4096
     !s.progMem (s.plan (Reg.FRM_CTL r) 1 3) a n || (s.poolRuns ++ s.ringRuns).any (meets a n)))

/-- A job bound to frame rings ends when the last of them is disabled and no frame of it runs: R274. -/
def State.framesOver (s : State) (n : NHdr) : State :=
  match s.job? n with
  | some j =>
    if j.rings != 0 && !j.serving && (bitsOf 8 j.rings).all (fun r => !s.bit (Reg.FRM_CTL r) 0 && (s.fring r).run.isNone) then s.closeJob j (0, 0)
    else s
  | none => s

/-- Frame ring r at the boundary: R274. -/
def State.framePeriod (r : Nat) (s : State) : State :=
  let group := [Reg.FRM_CTL r, Reg.FRM_BASE r]
  if !group.any s.hasShadow then s
  else if s.frameBad r then (State.each group State.dropShadow s).raise .srv 1 (r * 2 ^ 8)
  else
    let was := s.bit (Reg.FRM_CTL r) 0
    let s := s.takeAll group
    if was && !s.bit (Reg.FRM_CTL r) 0 then
      let v := s.fring r
      let s := State.each v.pend (fun f s => s.vendor f.n 0xCA) s
      let s := s.setFring r { v with pend := [] }
      match v.job with
      | some n => s.framesOver n
      | none => s
    else s

/-! ### The girth block (R385 to R388) -/

/-- GIRTH_SET, the groups, port and link controls at the boundary. Instance numbers restart when a set becomes live (R388). -/
def State.girthPeriod (s : State) : State :=
  let was := s.setComplete
  let set := s.hasShadow Reg.GIRTH_SET
  let s := s.takeAll (Reg.GIRTH_SET :: (List.range 256).map (fun g => Reg.GIRTH_GROUP g))
  let s := if set then { s with girth := { s.girth with instNo := [], downKnown := [], isolated := [] } }.broke was else s
  State.each (List.range 6) (fun g s =>
    let ctl := Reg.GIRTH_PORT_CTL g
    let again := Machine.bit (s.shadowOf ctl) 8
    let s := s.takeAll (ctl :: (List.range 6).map (fun l => Reg.GIRTH_LINK_CTL g l))
    let s := if s.host.psPhase == .low 4 then s else s.enableLinks g (s.fld ctl 0 6)
    if again then s.reauthenticate g else s) s

/-! ### Host commands that end at the boundary (R355, R367) -/

/-- Set Host Window commands take their windows live and complete: R355. -/
def State.windowsLive (s : State) : State :=
  let w := s.host.winSets
  let s := State.each w (fun x s =>
    let rest := s.host.wins.filter (fun v => !(v.ctrl == x.w.ctrl && v.win == x.w.win))
    { s with host := { s.host with wins := if x.w.len = 0 then rest else rest ++ [x.w] } }.ok x.n) s
  { s with host := { s.host with winSets := [] } }

/-- Set Features commands for PS0, PS1 or PS2 complete: R367. -/
def State.capsLive (s : State) : State :=
  let w := s.host.psWait
  State.each w (fun n s => s.ok n) { s with host := { s.host with psWait := [] } }

/-! ### The boundary -/

/-- Registers whose shadows the groups above take. -/
def grouped (off : Nat) : Bool :=
  let has := fun r n1 s1 n2 s2 => (RegRow.mk r n1 s1 n2 s2 ⟨.period, 0, 0, 0, 0, []⟩).has off
  has (Reg.PURSE_CTL 0) 9 0x40 1 8 || off == Reg.DRAM_POOL_CTL || off == Reg.LEDGER_TEST || schedGroup.contains off ||
  (List.range 16).any (fun i => off == Reg.SCHED_VFMAP i || off == Reg.SRV_POOL i || off == Reg.SRV_POOL_BASE i || off == Reg.HARN_REDUCE i) ||
  (List.range 4).any (fun b => off == Reg.HARN_BIND b || (List.range 8).any (fun n => off == Reg.HARN_RING b n)) ||
  (List.range 32).any (fun c => off == Reg.HARN_WIN c) ||
  (List.range 8).any (fun p => off == Reg.SRV_OVL p || off == Reg.SRV_OVL_BASE p || off == Reg.FRM_CTL p || off == Reg.FRM_BASE p) ||
  off == Reg.GIRTH_SET || (List.range 256).any (fun g => off == Reg.GIRTH_GROUP g) ||
  (List.range 6).any (fun g => off == Reg.GIRTH_PORT_CTL g || (List.range 6).any (fun l => off == Reg.GIRTH_LINK_CTL g l))

/-- What LEDGER_TEST arms at this boundary: R437. -/
def State.ledgerTest (s : State) : Option (Nat × Nat) :=
  let w := s.shadowOf Reg.LEDGER_TEST
  if s.hasShadow Reg.LEDGER_TEST && Machine.bit w 16 then some (Machine.fld w 0 3, Machine.fld w 8 8) else none

/-- Every shadow of the period scope becomes live, but for the groups that are refused: R29, R45. -/
def State.periodShadows (s : State) : State :=
  let s := s.pursePeriod
  let s := s.takeAll (s.waiting .period (fun off => !grouped off))
  let s := s.poolPeriod
  let s := s.harnLeave.schedPeriod
  let s := State.each (List.range 16) State.vfmapPeriod s
  let s := s.harnPeriod
  let s := State.each (List.range 16) State.srvPoolPeriod s
  let s := State.each (List.range 8) State.overlayPeriod s
  let s := State.each (List.range 8) State.framePeriod s
  s.girthPeriod

/-- The head entries re-tested: one above cover fails (R48). -/
def State.headsAgain (s : State) : State :=
  State.each (List.range 8) (fun p s =>
    match s.fifoOf p with
    | e :: _ => if s.cover p < e.uj then s.admitHead p else s.headLevel p
    | [] => s) s

/-- Whether the period's last sample has been taken, on a module that runs: R42. -/
def State.periodDue (s : State) : Bool := s.alive && decide (s.fld Reg.PWR_PERIOD 0 12 ≤ s.power.inPeriod)

/-- The period boundary: R42, R45. -/
def State.periodBoundary (s : State) : State :=
  let s := State.each (List.range 9) State.returnExcess s
  let arm := s.ledgerTest
  let s := ((s.periodShadows.takeShadow Reg.LEDGER_TEST).starveFrom s.starved).throttle
  let s := s.halveHeat.promote
  let s := s.slcTarget.windowsLive.capsLive
  let s := s.failUnplaceable.headsAgain
  (s.checkLedgers arm).runAll

end Sys2Proof.Machine
end

