-- ==== Sys2Proof/Machine/View.lean ====
section
/-! DEFINITION. Machine/View.lean: what a register shows (R12, R65, R160, R246, R276, R277, R370, R395, R421, R422, R437, R438, R461): its
stored bits, with the fields that are counted from state held elsewhere. -/

namespace Sys2Proof.Machine

open Sys2Proof

/-- Which of `n` registers, `stride` apart from `base`, `off` is. -/
def nth? (base n stride off : Nat) : Option Nat :=
  if base ≤ off ∧ (off - base) % stride = 0 ∧ (off - base) / stride < n then some ((off - base) / stride) else none

/-- Word `w` of a list of bytes. -/
def wordOf (bs : List Byte) (w : Nat) : Word := BitVec.ofNat 64 (leNat ((bs.drop (8 * w)).take 8))

/-- Entry `e` of the attestation log as its 80 bytes: R448. -/
def LogEntry.bytes (l : LogEntry) (seq : Nat) : List Byte :=
  leBytes 1 l.index ++ leBytes 1 l.part ++ leBytes 2 l.program ++ leBytes 4 seq ++ leBytes 4 l.nsid ++ leBytes 4 0 ++ l.m

/-- The guard's words: GUARD_MEAS_n and the log (R447, R448, R461). -/
def State.guardWord (s : State) (off : Nat) (w : Word) : Word :=
  if off = Reg.GUARD_ID then s.guardId
  else if off = Reg.GUARD_SERIAL then s.fuse.serial
  else if off = Reg.GUARD_SVN then s.guardSvn
  else if Reg.GUARD_LOG 0 0 ≤ off then
    let d := off - Reg.GUARD_LOG 0 0
    match s.guard.log[d / 80]? with
    | some e => wordOf (e.bytes (d / 80)) (d % 80 / 8)
    | none => 0
  else if Reg.GUARD_MEAS_LO 0 0 ≤ off then
    let d := off - Reg.GUARD_MEAS_LO 0 0
    let n := d / 64
    wordOf (sget (List.replicate 64 0) s.guard.meas (if n < 8 then n + 1 else n + 8)) (d % 64 / 8)
  else w

/-- A core's place in SCHED_CORE_STATE: 0 idle, 1 running, 2 switching, 3 absent (R421). -/
def State.coreState (s : State) (c : Nat) : Nat :=
  if !s.hasCore c then 3
  else
    match s.jobOn c with
    | none => 0
    | some j => (match j.phase with
      | .stopping | .loading => 2
      | _ => 1)

/-- The host's writes to media-direct zones that have not completed: R327. -/
def State.hostWrites (s : State) : List ZoneWrite :=
  s.media.writes.filter (fun q => match q.owner with
    | .host _ _ _ => true
    | .core _ _ _ => false)

/-- Host commands fetched and not yet completed: HOST_FETCHED (R370). -/
def State.fetched (s : State) : Nat :=
  s.jobs.length + s.serving.reqs.length + s.serving.frames.foldl (fun n e => n + e.2.pend.length + (if e.2.run.isSome then 1 else 0)) 0 +
  s.search.idx.foldl (fun n e => n + e.2.waiting.length + (if e.2.closer.isSome then 1 else 0)) 0 +
  (s.search.asks.filter (fun a => a.n.isSome)).length +
  s.host.winSets.length + s.host.psWait.length + s.host.delayed.length + s.host.stalled.length + s.hostWrites.length + s.host.ctrls.foldl (fun n e => n + e.2.aers.length) 0

/-- GIRTH_SET_STATUS: R395. -/
def State.setStatus (s : State) : Word :=
  BitVec.ofNat 64 ((if s.setComplete then 1 else 0) + s.downPorts.length * 2 ^ 2 + s.me * 2 ^ 16 + s.setSize * 2 ^ 32)

/-- FRM_STATUS_r's pending and running beside its stored slot and refused: R277. -/
def State.frmStatus (s : State) (r : Nat) (w : Word) : Word :=
  Machine.setBit (Machine.setFld w 0 5 (s.fring r).pend.length) 8 (s.fring r).run.isSome

/-- The hub registers below 0x0100_0000 whose fields are counted elsewhere. -/
def State.hubWord (s : State) (off : Nat) (w : Word) : Word :=
  let num := fun n => BitVec.ofNat 64 n
  if off < 0x10000 then s.guardWord off w
  else if off = Reg.FAULT_SUM then num s.faultSum
  else if off = Reg.FAULT_SUM_CORE then num s.faultSumCore
  else if off = Reg.DBK_STATUS then
    let n := fun (f : Nat → Bool) => ((List.range 512).filter f).length
    num (n s.srcPend + n s.srcActive * 2 ^ 16)
  else if off = Reg.SCHED_CORE_STATE then num ((List.range 32).foldl (fun n c => n + s.coreState c * 4 ^ c) 0)
  else if off = Reg.HUB_SRAM_FLIP 0 then Machine.setBit w 9 (s.hub.pend != 0)
  else if off = Reg.PROMO_STATUS then num (4096 * s.fld Reg.DRAM_POOL_CTL 0 6 + s.weight.resident.length * 2 ^ 32)
  else if off = Reg.WPOISON_COUNT then num (s.weight.poisoned.length)
  else if off = Reg.GIRTH_SET_STATUS then s.setStatus
  else if off = Reg.HOST_FETCHED then num s.fetched
  else if let some c := nth? (Reg.FAULT_CORE 0) 32 8 off then num (s.faultCore c)
  else if let some c := nth? (Reg.LEDGER_TOKEN_SIG 0) 32 16 off then num (s.core c).sigs
  else if let some c := nth? (Reg.LEDGER_TOKEN_TAKE 0) 32 16 off then num (s.core c).takes
  else if let some p := nth? (Reg.SCHED_CTX 0) 8 0x40 off then Machine.setFld w 16 8 (s.ctxUsed p)
  else if let some q := nth? (Reg.SRV_BLK_FREE 0) 16 0x80 off then
    num (if s.poolOn q then s.poolBlocks q - s.commitCount q - s.escrowCount q else 0)
  else if let some q := nth? (Reg.SRV_BLK_COMMIT 0) 16 0x80 off then num (s.commitCount q)
  else if let some q := nth? (Reg.SRV_BLK_ESCROW 0) 16 0x80 off then num (s.escrowCount q)
  else if let some q := nth? (Reg.SRV_BLK_CACHED 0) 16 0x80 off then num (s.cachedCount q)
  else if let some r := nth? (Reg.FRM_STATUS 0) 8 0x40 off then s.frmStatus r w
  else if let some b := nth? (Reg.HARN_TALLY_FLIGHT 0) 4 0x40 off then num (s.inFlight b)
  else
    match (List.range 36).find? (fun k => off == Reg.GIRTH_LINK_STATUS (k / 6) (k % 6)) with
    | some k => Machine.setFld w 8 8 (s.link (k / 6) (k % 6)).replay.length
    | none => w

/-- What the register at `off` of the register space shows: live values, reserved and write-only bits as zero (R9, R11, R12). -/
def State.readReg (s : State) (off : Nat) : Word :=
  match regInfo off with
  | some i =>
    let w := s.reg off &&& ~~~ i.wo
    if off < 0x1000000 then s.hubWord off w else s.coreWord ((off - 0x1000000) / 0x100000) ((off - 0x1000000) % 0x100000) w
  | none => 0

end Sys2Proof.Machine
end

