-- ==== Sys2Proof/Machine/RegWrite.lean ====
section
/-! DEFINITION. Machine/RegWrite.lean: a write of a register through the register space (R8 to R12, R137, R138), with what each register's
own write does. -/

namespace Sys2Proof.Machine

open Sys2Proof

/-- Whether this grade has the register at `off`: R17, R138, R219. -/
def State.regHere (s : State) (off : Nat) : Bool :=
  (regInfo off).isSome &&
  (if 0x1000000 ≤ off then s.hasCore ((off - 0x1000000) / 0x100000)
   else if 0x400000 ≤ off ∧ off < 0x500000 then !s.fusedOff
   else if 0x101000 ≤ off ∧ off < 0x107000 then s.hasPort ((off - 0x101000) / 0x1000)
   else true)

/-- A write of a field that is only read and set by hardware changes nothing else: the generic write, by the register's Takes effect column
(R12). -/
def State.writePlain (s : State) (off : Nat) (v : Word) : State :=
  match regInfo off with
  | none => s
  | some i =>
    match i.scope with
    | .ro => s
    | .imm => s.writeNow off i v
    | .instr | .period | .frame | .epoch => s.writeShadow off i v

/-- The fault unit whose register is at `off`. -/
def unitAt (off : Nat) : Option FaultUnit := allUnits.find? (fun u => u.reg == off)

/-! ### Writes with effects of their own -/

/-- DRAM_POOL_CTL: a growth over an allocation, and any write while a shrink is pending, is refused (R142). -/
def State.writePool (s : State) (v : Word) : State :=
  let n := Machine.fld v 0 6
  let lo := poolBase n
  if n ≤ 32 ∧ (s.bit Reg.DRAM_POOL_CTL 8 = true ∨ (s.allRuns.any (fun r => r.2.2 != 0 && meets lo (s.placeEnd - lo) r)) = true) then s
  else s.writePlain Reg.DRAM_POOL_CTL v

/-- Whether R381 refuses a value of GIRTH_SET. -/
def State.girthSetBad (s : State) (w : Word) : Bool :=
  let dx := Machine.fld w 1 7
  let dy := Machine.fld w 8 7
  let dz := Machine.fld w 15 7
  decide (2048 < dx * dy * dz) || decide (dx ≤ Machine.fld w 22 6) || decide (dy ≤ Machine.fld w 28 6) ||
    decide (dz ≤ Machine.fld w 34 6) || (s.fuse.grade == 2 && (decide (1 < dy) || decide (1 < dz)))

/-- GIRTH_SET: a size outside its range is a reserved encoding, and the field keeps its value (R11); a value that R381 refuses, as written or
as it would then stand, never reaches the shadow. -/
def State.writeGirthSet (s : State) (v : Word) : State :=
  let off := Reg.GIRTH_SET
  match regInfo off with
  | some i =>
    if s.girthSetBad v || s.girthSetBad (i.accept (s.shadowOf off) v) then
      (if i.reserved v then s.devFault 1 off else s).raise .girth 7
    else s.writeShadow off i v
  | none => s

/-- GIRTH_GROUP_g: a box beyond the set's sizes or a root not below M is a reserved encoding, and the box and root keep their values (R395). The
sizes are those of GIRTH_SET's shadow, which becomes live with it. -/
def State.writeGroup (s : State) (g : Nat) (v : Word) : State :=
  let off := Reg.GIRTH_GROUP g
  let box := fun lo so => decide (Machine.fld v lo 6 + Machine.fld v (lo + 18 + (lo - 1) / 6) 7 ≤ s.plan Reg.GIRTH_SET so 7)
  let m := Machine.fld v 19 7 * Machine.fld v 26 7 * Machine.fld v 33 7
  let old := s.shadowOf off
  if box 1 1 && box 7 8 && box 13 15 && decide (Machine.fld v 40 11 < m) then s.writePlain off v
  else (s.devFault 1 off).writePlain off ((v &&& ~~~ mask 1 50) ||| (old &&& mask 1 50))

/-- DX_PSTREAM_BASE_n: a prefetch that took its base from this shadow is cancelled (R127). -/
def State.writePstream (s : State) (c n : Nat) (v : Word) : State :=
  (s.writePlain (Reg.DX_PSTREAM_BASE c n) v).cancelPrefetch c (fun f => f.shadowBase && f.d.persistent && f.d.pnum == n)

/-- FAULT_QUARANTINE: a one releases the core and zeroes its count (R436). -/
def State.releaseQuarantine (s : State) (v : Word) : State :=
  State.each (bitsOf 32 v.toNat) (fun c s => (s.setBit Reg.FAULT_QUARANTINE c false).setReg (Reg.FAULT_RESIDUE c) 0) s

/-- A write to the registers whose write acts by itself: daybook, alert, reset and quarantine (immediate, R12). -/
def State.writeActs (s : State) (off : Nat) (v : Word) : Option State :=
  if off = Reg.GUARD_RESET then some (if v.getLsbD 0 then s.warmReset .request else s)
  else if off = Reg.PWR_ALERT_CTL then some (s.writeAlertCtl v)
  else if off = Reg.FAULT_QUARANTINE then some (s.releaseQuarantine v)
  else if off = Reg.DBK_CTL then some (s.writeHold v)
  else if off = Reg.DBK_EOI then some (s.eoi (Machine.fld v 0 9))
  else if off = Reg.DBK_SOFT then some (s.softSource off v)
  else if let some i := nth? (Reg.DBK_EN 0) 8 8 off then some (s.writeEn i v)
  else if let some i := nth? (Reg.DBK_ROUTE 0) 64 8 off then some ((s.setReg (Reg.DBK_ROUTE i) v).wakeHeld)
  else if let some w := nth? (Reg.DBK_STW 0) 8 0x20 off then some (s.writeStw w v)
  else if let some w := nth? (Reg.DBK_RING 0) 8 0x20 off then some (s.writeHead w (Machine.fld v 0 8))
  else none

/-- A whole, aligned write to a register of this module. -/
def State.writeAt (s : State) (off : Nat) (v : Word) : State :=
  match unitAt off with
  | some u => s.clearFault u v
  | none =>
    match s.writeActs off v with
    | some t => t
    | none =>
      if off = Reg.DRAM_POOL_CTL then s.writePool v
      else if off = Reg.GIRTH_SET then s.writeGirthSet v
      else if let some p := nth? (Reg.PURSE_CTL 0) 9 0x40 off then s.writePurse p v
      else if let some p := nth? (Reg.SCHED_REIN 0) 9 0x40 off then s.writeRein false p v
      else if let some p := nth? (Reg.SCHED_GREIN 0) 9 0x40 off then s.writeRein true p v
      else if let some g := nth? (Reg.GIRTH_GROUP 0) 256 8 off then s.writeGroup g v
      else if let some k := (List.range 256).find? (fun k => off == Reg.DX_PSTREAM_BASE (k / 8) (k % 8)) then s.writePstream (k / 8) (k % 8) v
      else s.writePlain off v

/-- A write of `size` bytes at register-space offset `off`: a wrong size or alignment is a violation of R8, an absent register one of R137,
seen also as HOST_FAULT.bar_violation (R342). A module that is unpowered or held in reset answers no write. -/
def State.registerWrite (s : State) (off size : Nat) (v : Word) : State :=
  if !s.alive then s
  else if size ≠ 8 ∨ off % 8 ≠ 0 then s.devFault 0 off
  else if s.regHere off then s.writeAt off v
  else (s.memViolation off).hostViolation 2 0 off

/-! ### The SRAM windows as a virtual function sees them (R139, R342) -/

/-- An access by controller `k`, a virtual function, to `n` bytes at offset `off` of its BAR2-3, which lays the SRAM windows out as at
0x0001_0000_0000: the core and the offset in its SRAM where the window is open to it, else the state with the violation recorded (R137, R139,
R227, R342). -/
def State.vfAccess (s : State) (k off n : Nat) : Sum (Nat × Nat) State :=
  let a := 0x100000000 + off
  let refuse := Sum.inr ((s.sramWinViolation a).hostViolation 2 k a)
  match s.tier a with
  | .sram c o =>
    if !(s.partOf c).any (s.funcOf k) || decide (sramSize < o + n) then refuse
    else if s.touchesWindow c o n then Sum.inr ((s.harnViolate c).hostViolation 2 k a)
    else Sum.inl (c, o)
  | .absent | .dram | .weight | .hostWin | .regs => refuse

/-- Bytes that a virtual function writes through its BAR2-3: one SRAM access, charged to its partition (R52). -/
def State.vfWrite (s : State) (k off : Nat) (bs : List Byte) : State :=
  if !s.alive then s
  else
    match s.vfAccess k off bs.length with
    | .inl (c, o) => (s.sramWrite c o bs).charge (s.payer c) none 3 1
    | .inr t => t

/-- Bytes that it reads there, zeros where the access is a violation, and the state after. -/
def State.vfRead (s : State) (k off n : Nat) : List Byte × State :=
  match s.vfAccess k off n with
  | .inl (c, o) =>
    let t := s.sramCheck c o n
    ((List.range n).map (fun i => t.miscorrect c (o + i) (t.sramByte c (o + i))), t.charge (t.payer c) none 3 1)
  | .inr t => (List.replicate n 0, t)

end Sys2Proof.Machine
end

