-- ==== Sys2Proof/Machine/CoreEvents.lean ====
section
/-! DEFINITION. Machine/CoreEvents.lean: events of the cores: token waits, retirements, stream lines, prefetch, lace, and the SRAM's own repairs
(R117 to R134, R154 to R158, R166, R177, R180, R181). -/

namespace Sys2Proof.Machine

open Sys2Proof

/-! ### Streams (R117, R120 to R127) -/

/-- A requested line arrives for an issued stream and is placed: R117. A line of a poisoned weight page ends the job (R149). -/
def State.lineArrives (s : State) (c id : Nat) (out : LineOutcome) (host : List Byte) : State :=
  match (s.core c).run, (s.core c).streams.find? (fun t => t.id == id) with
  | .running, some st =>
    let r := s.streamStep c st out host
    (if r.1 then r.2.failCore c .weightPoison else r.2).run c
  | _, _ => s

/-! ### Laces (R131 to R134) -/

/-- A lace line lands in member `c`'s slot; what can be written and sent on is: R131, R133. -/
def State.laceLands (s : State) (c l : Nat) : State :=
  match ((s.core c).laceCh l).transit with
  | line :: rest =>
    let s := s.modLace c l (fun v => { v with transit := rest, held := v.held ++ [line] })
    if (s.core c).run = .running then (State.laceProcess ((s.core c).laceCh l).held.length c l s).run c else s
  | [] => s

/-- A slot of member `c` that has been written and sent on is free again, its credit goes back, and credits are granted anew: R132. -/
def State.laceCreditBack (s : State) (c l : Nat) : State :=
  if ((s.core c).laceCh l).done = 0 then s
  else
    let s := (s.slotFree c 1).modLace c l (fun v => { v with done := v.done - 1, granted := v.granted - 1 })
    let s := (s.setFld (Reg.DX_LACE_CREDIT c l) 32 32 (s.fld (Reg.DX_LACE_CREDIT c l) 32 32 + 1)).tick 1
    let s := State.grant 64 c l s
    match s.lacePred c l with
    | some p => if (s.core p).run = .running then (State.laceProcess ((s.core p).laceCh l).held.length p l s).run p else s
    | none => s

/-! ### The SRAM's own repairs (R154, R156, R158) -/

/-- The oldest merge entry of a bank retires: its read is checked, and the merged bytes land whatever it found (R156). -/
def State.mergeRetire (s : State) (c bank : Nat) (out : LineOutcome) : State :=
  match (s.core c).merge.find? (fun e => bankOf (8 * e.word) == bank) with
  | none => s
  | some e => State.retireEntry c e (s.wordRead c e.word out)

/-- What a read of an SRAM word finds, and the corrected word written back: R154. A real double-bit error poisons the word's line and writes
nothing. An injected error of a correctable mask leaves no count, and ends with the write (R157). An entry that the word has in its merge buffer
stays, unless a flip injection is about to land (R156). DEDUCED: an injected error does not count toward remapping the word, as its errors set
the injected bits in place of the real bits and counters (R157, R158). -/
def State.ceWriteback (s : State) (c o : Nat) (out : LineOutcome) : State :=
  let w := o / 8
  if !setHas s.valid ((sramBase c + 8 * w) / 64) then s
  else
    match (s.core c).flipped.find? (fun j => j.word == w), out with
    | none, .clean | none, .hostError => s
    | none, .uncorrectable => s.wordLost c w
    | j, _ =>
      let s := if sget 0 (s.core c).flipPend (bankOf (8 * w) / 8) = 0 then s
        else State.each ((s.core c).merge.filter (fun e => e.word == w)) (State.retirePlain c) s
      let bytes := s.wordBytes c w
      match j with
      | some j => if badMask j.mask then s else (s.sramCheck c (8 * w) 8).putWord c w bytes
      | none => (s.wordCorrected c w).putWord c w bytes

/-- The same for a word of the hub SRAM, within its 2^25 bytes: R154. -/
def State.hubWriteback (s : State) (o : Nat) (out : LineOutcome) : State :=
  let w := o / 8
  if !setHas s.hub.valid (w / 8) then s
  else
    match s.hub.flipped.find? (fun j => j.word == w) with
    | some j => if badMask j.mask then s else (s.hubRead (8 * w) 8).hubWrite (8 * w) 8
    | none => s.hubFound w out

/-! ### The commands -/

/-- TOKEN_WAIT_PROCEED: R177. -/
def execTokenWaitProceed (core : CoreId) (reservedOp : Option Hdr) (s : State) : Host.Outcome State Fault Refusal :=
  .next (s.tokenProceed core.toNat reservedOp)

/-- INSTRUCTION_RETIRE: R166. -/
def execInstructionRetire (core : CoreId) (cls : Cls) (s : State) : Host.Outcome State Fault Refusal :=
  .next (s.instrRetire core.toNat cls)

/-- BOUNDARY_RETIRE: R180. -/
def execBoundaryRetire (core : CoreId) (s : State) : Host.Outcome State Fault Refusal :=
  .next (s.boundaryRetire core.toNat)

/-- CORE_STALL_DETECT: R181. -/
def execCoreStallDetect (core : CoreId) (s : State) : Host.Outcome State Fault Refusal :=
  .next (s.stallDetect core.toNat)

/-- STREAM_LINE_ARRIVAL: R117. -/
def execStreamLineArrival (core : CoreId) (stream : Nat) (out : LineOutcome) (hostLine : List Byte) (s : State) :
    Host.Outcome State Fault Refusal :=
  .next (s.lineArrives core.toNat stream out hostLine)

/-- PREFETCH_START: R120. -/
def execPrefetchStart (core : CoreId) (index slots : Nat) (s : State) : Host.Outcome State Fault Refusal :=
  .next (s.prefetchStart core.toNat index slots)

/-- PSTREAM_BASE_WRITE: R127. -/
def execPstreamBaseWrite (core : CoreId) (n : BitVec 3) (value : Word) (s : State) : Host.Outcome State Fault Refusal :=
  .next (s.registerWrite (Reg.DX_PSTREAM_BASE core.toNat n.toNat) 8 value)

/-- LACE_LINE_ARRIVAL: R133. -/
def execLaceLineArrival (core : CoreId) (channel : BitVec 2) (s : State) : Host.Outcome State Fault Refusal :=
  .next (s.laceLands core.toNat channel.toNat)

/-- LACE_CREDIT_RETURN: R132. -/
def execLaceCreditReturn (core : CoreId) (channel : BitVec 2) (s : State) : Host.Outcome State Fault Refusal :=
  .next (s.laceCreditBack core.toNat channel.toNat)

/-- MX_INJECT_ARM: R90. -/
def execMxInjectArm (core : CoreId) (value : Word) (s : State) : Host.Outcome State Fault Refusal :=
  .next (s.registerWrite (Reg.MX_TEST core.toNat) 8 value)

/-- VX_INJECT_ARM: R102. -/
def execVxInjectArm (core : CoreId) (value : Word) (s : State) : Host.Outcome State Fault Refusal :=
  .next (s.registerWrite (Reg.VX_TEST core.toNat) 8 value)

/-- CLIP_CLEAR: R101. -/
def execClipClear (core : CoreId) (value : Word) (s : State) : Host.Outcome State Fault Refusal :=
  .next (s.registerWrite (Reg.VX_CLIP_CTL core.toNat) 8 value)

/-- CLEAR_VALID: R155. -/
def execClearValid (core : CoreId) (value : Word) (s : State) : Host.Outcome State Fault Refusal :=
  .next (s.registerWrite (Reg.SRAM_CTL core.toNat) 8 value)

/-- FLIP_ARM: R157. -/
def execFlipArm (hub : Bool) (core : CoreId) (g : BitVec 3) (value : Word) (s : State) : Host.Outcome State Fault Refusal :=
  .next (s.registerWrite (if hub then Reg.HUB_SRAM_FLIP 0 else Reg.SRAM_FLIP core.toNat g.toNat) 8 value)

/-- MERGE_ENTRY_RETIRE: R156. -/
def execMergeEntryRetire (core : CoreId) (bank : BitVec 6) (out : LineOutcome) (s : State) : Host.Outcome State Fault Refusal :=
  .next (s.mergeRetire core.toNat bank.toNat out)

/-- SRAM_CE_WRITEBACK: R154. -/
def execSramCeWriteback (word : SramAt) (out : LineOutcome) (s : State) : Host.Outcome State Fault Refusal :=
  .next (match word with
    | .core c o => s.ceWriteback c.toNat o.toNat out
    | .hub o => s.hubWriteback o.toNat out)

end Sys2Proof.Machine
end

