-- ==== Sys2Proof/Machine/HostCore.lean ====
section
/-! DEFINITION. Machine/HostCore.lean: what every NVMe command meets (R341, R345, R346, R354, R362): controllers, queues, partitions of
functions, name spaces as a controller sees them, and the statuses the NVMe specifications give. -/

namespace Sys2Proof.Machine

open Sys2Proof

/-! ### Controllers (R341) -/

/-- The number of a command's controller. -/
def nctrl (n : NHdr) : Nat := n.ctrl.toNat

/-- Whether a controller is a physical function's. -/
def physCtrl (k : Nat) : Bool := k % 65 == 0

/-- The port of a controller. -/
def portOf (k : Nat) : Nat := k / 65

/-- Controller `k`. -/
def State.ctrl (s : State) (k : Nat) : Ctrl := sget {} s.host.ctrls k

/-- Controller `k` changed. -/
def State.modCtrl (s : State) (k : Nat) (f : Ctrl → Ctrl) : State :=
  { s with host := { s.host with ctrls := sput {} s.host.ctrls k (f (s.ctrl k)) } }

/-- The partition to which a virtual function is bound: R402. -/
def State.vfPart (s : State) (k : Nat) : Option Nat :=
  if physCtrl k then none
  else
    let e := k / 65 * 64 + k % 65 - 1
    if s.bit (Reg.SCHED_VFMAP (e / 8)) (8 * (e % 8) + 7) then some (s.fld (Reg.SCHED_VFMAP (e / 8)) (8 * (e % 8)) 3) else none

/-- Who pays for a command's media traffic: the function's partition, or housekeeping (R320, R341). -/
def State.hostPayer (s : State) (n : NHdr) : Nat := (s.vfPart (nctrl n)).getD 8

/-- The partition a command names: a virtual function's own, whatever the field holds (R354). -/
def State.namedPart (s : State) (n : NHdr) (p : Nat) : Nat := (s.vfPart (nctrl n)).getD p

/-- Host work charged under R52 to the command's payer. -/
def State.chargeHost (s : State) (n : NHdr) (i count : Nat) : State := s.charge (s.hostPayer n) none i count

/-- Whether a command came in on the admin queue. -/
def isAdmin (n : NHdr) : Bool := n.sqid == 0

/-! ### Statuses of the NVMe specifications (R362) -/

/-- Invalid Command Opcode. -/
def State.badOpcode (s : State) (n : NHdr) : State := s.complete n 0 1

/-- Invalid Namespace or Format: the name space does not exist or is not attached to the controller. -/
def State.badNs (s : State) (n : NHdr) : State := s.complete n 0 0x0B

/-- Namespace Is Write Protected. -/
def State.protectedNs (s : State) (n : NHdr) : State := s.complete n 0 0x20

/-- Sanitize In Progress. -/
def State.sanitizeBusy (s : State) (n : NHdr) : State := s.complete n 0 0x1D

/-- LBA Out of Range. -/
def State.badLba (s : State) (n : NHdr) : State := s.complete n 0 0x80

/-- Unrecovered Read Error. -/
def State.unread (s : State) (n : NHdr) : State := s.complete n 2 0x81

/-- Write Fault. -/
def State.writeFault (s : State) (n : NHdr) : State := s.complete n 2 0x80

/-- Name space busy. -/
def State.busyNs (s : State) (n : NHdr) : State := s.vendor n 0xCF

/-- A command-specific status. -/
def State.specific (s : State) (n : NHdr) (sc : Nat) (dw0 : Nat := 0) : State := s.complete n 1 sc dw0

/-! ### Name spaces as a command finds them -/

/-- The name space `nsid` where it is attached to the command's controller. -/
def State.nsOf (s : State) (n : NHdr) (nsid : BitVec 32) : Option Nspace :=
  match s.ns? nsid.toNat with
  | some v => if setHas v.ctrls (nctrl n) then some v else none
  | none => none

/-! ### Fetching (R346) -/

/-- Commands of port `p` that its doorbells name and that are not yet fetched. -/
def State.unfetched (s : State) (p : Nat) : Bool :=
  s.host.ctrls.any (fun e => portOf e.1 == p && e.2.sqs.any (fun q => q.head != q.tail))

/-- Source 64 or 65 follows whether its port has commands to fetch: R412. -/
def State.doorLevel (s : State) (p : Nat) : State :=
  if s.unfetched p && !s.srcLevel (64 + p) then s.fire (64 + p)
  else if !s.unfetched p && s.srcLevel (64 + p) then s.unfire (64 + p)
  else s

/-- A submission queue of a controller. -/
def Ctrl.sq? (c : Ctrl) (q : Nat) : Option Queue := c.sqs.find? (fun x => x.qid == q)

/-- A completion queue of a controller. -/
def Ctrl.cq? (c : Ctrl) (q : Nat) : Option Queue := c.cqs.find? (fun x => x.qid == q)

/-- One command fetched from a queue: its head moves on, if a doorbell has named an entry. -/
def Queue.fetch (q : Queue) : Queue := if q.head = q.tail then q else { q with head := (q.head + 1) % q.size }

/-- The queue of a command gives it up. -/
def State.fetchFrom (s : State) (n : NHdr) : State :=
  let k := nctrl n
  let s := s.modCtrl k (fun c => { c with sqs := c.sqs.map (fun q => if q.qid == n.sqid.toNat then q.fetch else q) })
  s.doorLevel (portOf k)

/-- Whether a command can be fetched at all: its controller is ready and its queue exists, and fewer than 65,536 commands are in the device. -/
def State.canFetch (s : State) (n : NHdr) : Bool :=
  let c := s.ctrl (nctrl n)
  s.alive && decide (nctrl n < 130) && c.enabled && c.ready && (isAdmin n || (c.sq? n.sqid.toNat).isSome) && decide (s.fetched < 65536)

/-- A doorbell write: R346. A submission doorbell names new commands, a completion doorbell frees entries; a value outside the queue, or a queue
that does not exist, changes nothing. -/
def State.doorbell (s : State) (k : Nat) (cq : Bool) (qid value : Nat) : State :=
  let c := s.ctrl k
  if !s.alive || !c.enabled || decide (130 ≤ k) then s
  else if cq then
    s.modCtrl k (fun c => { c with cqs := c.cqs.map (fun q => if q.qid == qid && decide (value < q.size) then { q with head := value } else q) })
  else
    let s := s.modCtrl k (fun c => { c with sqs := c.sqs.map (fun q => if q.qid == qid && decide (value < q.size) then { q with tail := value } else q) })
    s.doorLevel (portOf k)

/-- `n` bytes that only the NVMe specifications lay out, with what this spec puts at their places. -/
def nvmePage (page n : Nat) (known : List (Nat × List Byte)) : List Byte :=
  known.foldl (fun l (e : Nat × List Byte) => l.take e.1 ++ e.2 ++ l.drop (e.1 + e.2.length)) ((List.range n).map (Config.nvmeByte page))

end Sys2Proof.Machine
end

