-- ==== Sys2Proof/Machine/HostAdmin.lean ====
section
/-! DEFINITION. Machine/HostAdmin.lean: the admin commands of R345 but for name spaces, firmware, security and Abort: Identify, features, log
pages, queues, events (chapter 12, R333, R336, R337). -/

namespace Sys2Proof.Machine

open Sys2Proof

/-! ### Identify (R3, R345) -/

/-- Text as bytes, padded with spaces. -/
def padText (n : Nat) (l : List Byte) : List Byte := fitTo n 0x20 l

/-- The grade's name: SJN-1440-D, SJN-1440-Q or SJN-1440-A (R1, R3). -/
def State.gradeName (s : State) : List Byte :=
  [0x53, 0x4A, 0x4E, 0x2D, 0x31, 0x34, 0x34, 0x30, 0x2D, if s.fuse.grade = 0 then 0x44 else if s.fuse.grade = 1 then 0x51 else 0x41]

/-- The firmware revision of slot `k`: R443. -/
def State.fwRev (s : State) (k : Nat) : List Byte :=
  match s.fwPkg k with
  | some p => if p.frs.isEmpty then (List.range 8).map (Config.secretByte 2 k) else padText 8 p.frs
  | none => List.replicate 8 0

/-- The Identify Controller page of controller `k`: what this spec states of it, at the places that the NVMe base specification gives. -/
def State.identCtrl (s : State) (k : Nat) : List Byte :=
  nvmePage 0x101 4096
    [(24, padText 40 s.gradeName), (64, s.fwRev s.guard.running), (77, [9]), (78, leBytes 2 k), (80, leBytes 4 0x00020100), (258, [7]), (259, [15]),
     (262, [63]), (263, [4]), (265, [1]), (516, leBytes 4 256), (525, [0])]

/-- The Identify Namespace page: its size, capacity and use in logical blocks; deallocated blocks read as zeros (R319). -/
def State.identNs (s : State) (nsid : Nat) : List Byte :=
  match s.ns? nsid with
  | some v => nvmePage 0x100 4096 [(0, leBytes 8 v.lbas), (8, leBytes 8 v.lbas), (16, leBytes 8 (4 * v.mapped.length)), (33, [1]), (128, leBytes 4 0x0C0000)]
  | none => List.replicate 4096 0

/-- A list of numbers of `w` bytes each in a page of 4,096. -/
def identList (w : Nat) (l : List Nat) : List Byte := fitTo 4096 0 ((l.take (4096 / w)).flatMap (leBytes w))

/-- Identify: the pages whose contents this spec gives, the others free. -/
def State.identify (s : State) (n : NHdr) (cns : Nat) (nsid : BitVec 32) : State :=
  let k := nctrl n
  let above := (s.nss.filter (fun e => decide (nsid.toNat < e.1)))
  if cns = 0x00 then (if (s.nsOf n nsid).isSome || nsid == 0xFFFFFFFF then s.ok n 0 0 (s.identNs nsid.toNat) else s.badNs n)
  else if cns = 0x01 then s.ok n 0 0 (s.identCtrl k)
  else if cns = 0x02 then s.ok n 0 0 (identList 4 ((above.filter (fun e => setHas e.2.ctrls k)).map Prod.fst))
  else if cns = 0x10 then s.ok n 0 0 (identList 4 (above.map Prod.fst))
  else if cns = 0x11 then (if (s.ns? nsid.toNat).isSome then s.ok n 0 0 (s.identNs nsid.toNat) else s.badNs n)
  else if cns = 0x12 then
    (match s.ns? nsid.toNat with
     | some v => s.ok n 0 0 (fitTo 4096 0 (leBytes 2 v.ctrls.length ++ v.ctrls.flatMap (leBytes 2)))
     | none => s.badNs n)
  else if cns = 0x13 then
    s.ok n 0 0 (fitTo 4096 0 (leBytes 2 s.host.ctrls.length ++ (s.host.ctrls.map Prod.fst).flatMap (leBytes 2)))
  else if cns ≤ 0x1F then s.ok n 0 0 (nvmePage (0x100 + cns) 4096 [])
  else s.badField n

/-! ### Features (R40, R345, R367) -/

/-- The features that R345 names. -/
def featureIds : List Nat := [0x01, 0x02, 0x04, 0x07, 0x08, 0x09, 0x0B, 0x0C, 0x0E, 0x0F]

/-- 512 queues of each kind, counted from zero. -/
def queueCount : Nat := 511 + 511 * 65536

/-- Get Features. -/
def State.getFeatures (s : State) (n : NHdr) (fid : Nat) : State :=
  if !featureIds.contains fid then s.badField n
  else if fid = 0x02 then s.ok n s.host.ps
  else if fid = 0x07 then s.ok n queueCount
  else if fid = 0x0E then s.ok n 0 0 (leBytes 6 s.host.stamp ++ [if s.host.origin then 2 else 0, 0])
  else s.ok n (sget (0 : BitVec 32) (s.ctrl (nctrl n)).feats fid).toNat

/-- Set Features of a feature other than power and time. -/
def State.setFeatures (s : State) (n : NHdr) (fid : Nat) (v : BitVec 32) : State :=
  if !featureIds.contains fid || fid == 0x02 || fid == 0x0E then s.badField n
  else
    let s := s.modCtrl (nctrl n) (fun c => { c with feats := sput 0 c.feats fid v })
    s.ok n (if fid = 0x07 then queueCount else 0)

/-- The Timestamp set by the host: R40. -/
def State.setStamp (s : State) (n : NHdr) (ms : Nat) : State :=
  { s with host := { s.host with stamp := ms, stampRem := 0, origin := true } }.ok n

/-- Admission stops and running steps are waited for: entry into PS3 or PS4 (R367). -/
def State.enterPs (s : State) (ps : Nat) : State := { s with host := { s.host with psPhase := .entering ps } }

/-- The cap of an operational power state: R367. -/
def psCap (ps : Nat) : Nat := if ps = 0 then 900 else if ps = 1 then 600 else 400

/-- Set Features Power Management: R367. -/
def State.setPower (s : State) (n : NHdr) (ps : Nat) : State :=
  if 4 < ps then s.badField n
  else if ps ≤ 2 then
    let s := s.setShadow Reg.PWR_CAP (Machine.setFld (s.shadowOf Reg.PWR_CAP) 0 10 (psCap ps))
    { s with host := { s.host with ps := ps, psWait := s.host.psWait ++ [n] } }
  else (s.enterPs ps).ok n

/-! ### Health (R333 to R337) -/

/-- Good blocks as manufactured. -/
def State.madeGood (s : State) : Nat := rawBlocks - s.fuse.factoryBad.foldl (fun n e => n + e.2) 0

/-- Available Spare: R333. -/
def State.availableSpare (s : State) : Nat := s.fld Reg.MEDIA_SPARE 0 32 * 100 / (s.madeGood - neededBlocks)

/-- Whether a threshold condition of R56 holds at the last sample. -/
def State.tooHot (s : State) : Bool :=
  let t := s.reg Reg.PWR_TEMP
  let at_ := fun lo => sext 16 (Machine.fld t lo 16)
  let warn : Int := 16 * (s.fld Reg.PWR_THERM_CTL 0 8 : Int)
  let tiles := if s.fuse.grade = 2 then [at_ 0] else [at_ 0, at_ 16]
  tiles.any (fun j => decide (warn ≤ j)) || (at_ 32 :: tiles).any (fun j => decide (16 * 105 ≤ j)) ||
    decide (16 * (s.fld Reg.PWR_THERM_CTL 8 8 : Int) ≤ at_ 48) || s.power.tripped

/-- Critical Warning: R333. -/
def State.criticalWarning (s : State) : Nat :=
  (if s.availableSpare < 10 then 1 else 0) + (if s.tooHot then 2 else 0) + (if s.media.hurt then 4 else 0) + (if s.mediaRo then 8 else 0) +
    (if s.media.holdupLow then 16 else 0)

/-- The SMART / Health page. -/
def State.smartPage (s : State) : List Byte :=
  nvmePage 0x02 512
    [(0, leBytes 1 s.criticalWarning), (3, leBytes 1 (min 255 s.availableSpare)), (4, [10]), (5, leBytes 1 (s.fld Reg.MEDIA_LIFE 0 8)),
     (160, leBytes 16 s.media.errors)]

/-- The 64-byte header of the vendor log pages. -/
def logHeader (count : Nat) (at4 : Nat) (stamp : Nat) (gen : List Byte) : List Byte :=
  leBytes 4 count ++ leBytes 4 at4 ++ leBytes 8 stamp ++ gen ++ List.replicate 40 0

/-- Blocks of die `d` that the model lists. -/
def State.dieBlks (s : State) (d : Nat) : List Blk := (s.media.blks.filter (fun e => keyDie e.1 == d)).map Prod.snd

/-- A free byte of a log page, `i` its place. -/
def State.freeAt (s : State) (i : Nat) : Byte := Config.freeByte (s.free * 131072 + i)

/-- The generation number of a health page: the spec gives it no rule, and it is free. -/
def State.freeGen (s : State) : List Byte := (List.range 8).map (fun i => s.freeAt (131000 + i))

/-- Entry `d` of log page 0xD0: R336. Package temperatures and the minutes at temperature are free. -/
def State.dieEntry (s : State) (d : Nat) : List Byte :=
  let v := s.die d
  let own := s.dieBlks d
  let bad := sget 0 s.fuse.factoryBad d
  let good := 5088 - bad - (own.filter (fun b => b.use == .bad)).length
  let live := own.filter (fun b => b.use != .bad)
  let sum := live.foldl (fun n b => n + b.erases) 0
  let slow := decide (655 < (v.aroundAt.filter (fun i => decide (v.reads < i + 65536))).length)
  leBytes 2 d ++ [if v.retired then 2 else if slow then 1 else 0, s.freeAt (64 * d + 3), s.freeAt (64 * d + 4), 0, 0, 0] ++
  leBytes 2 bad ++ leBytes 2 v.grown ++ leBytes 4 (good - neededBlocks / 1536) ++ leBytes 4 (if good = 0 then 0 else sum * 16 / good) ++
  leBytes 4 (live.foldl (fun n b => max n b.erases) 0) ++ leBytes 4 v.progFail ++ leBytes 4 v.eraseFail ++ leBytes 8 v.corrected ++
  leBytes 4 v.retried ++ leBytes 4 v.uncorr ++ leBytes 4 v.readAround ++ (List.range 8).map (fun i => s.freeAt (64 * d + 52 + i)) ++ [0, 0, 0, 0]

/-- Log page 0xD0. -/
def State.diePage (s : State) : List Byte := logHeader 1536 0 s.host.stamp s.freeGen ++ (List.range 1536).flatMap s.dieEntry

/-- Entry `c` of log page 0xD1: R337. Bus errors and PCLK counts are free. -/
def State.chanEntry (s : State) (c : Nat) : List Byte :=
  let v := s.chan c
  leBytes 1 c ++ [if v.down then 1 else 0] ++ leBytes 1 ((List.range 24).filter (fun p => (s.die (24 * c + p)).retired)).length ++
  List.replicate 5 0 ++ leBytes 8 v.reads ++ leBytes 8 v.writes ++ (List.range 4).map (fun i => s.freeAt (64 * c + 24 + i)) ++ leBytes 4 v.retrains ++
  (List.range 16).map (fun i => s.freeAt (64 * c + 32 + i)) ++ List.replicate 16 0

/-- Log page 0xD1. -/
def State.chanPage (s : State) : List Byte := logHeader 64 0 s.host.stamp s.freeGen ++ (List.range 64).flatMap s.chanEntry

/-! ### Lost extents and faults (R365, R366) -/

/-- A lost-extent entry as its 32 bytes. -/
def LostEntry.bytes (e : LostEntry) : List Byte :=
  leBytes 4 e.nsid ++ leBytes 1 e.reason ++ [0, 0, 0] ++ leBytes 8 e.slba ++ leBytes 4 e.nlb ++ leBytes 4 0 ++ leBytes 8 e.stamp

/-- Log page 0xD2. -/
def State.lostPage (s : State) : List Byte :=
  logHeader s.host.d2.length (if s.host.d2over then 1 else 0) s.host.stamp (leBytes 8 s.host.d2gen) ++ s.host.d2.flatMap LostEntry.bytes

/-- An extent recorded in log page 0xD2; a full log sets its overflow flag (R366). -/
def State.recordLost (s : State) (nsid reason slba nlb : Nat) : State :=
  if s.host.d2.length < 4096 then
    { s with host := { s.host with d2 := s.host.d2 ++ [⟨nsid, reason, slba, nlb, s.host.stamp⟩], d2gen := s.host.d2gen + 1 } }
  else { s with host := { s.host with d2over := true } }

/-- Entries of log page 0xD2 that satisfy `p` removed. -/
def State.dropLost (s : State) (p : LostEntry → Bool) : State :=
  { s with host := { s.host with d2 := s.host.d2.filter (fun e => !p e), d2gen := s.host.d2gen + 1 } }

/-- The entries that a read of bytes `lo` to `hi` of log page 0xD2 returned whole are removed. -/
def State.takeLost (s : State) (lo hi : Nat) : State :=
  let keep := (List.range s.host.d2.length).zip s.host.d2 |>.filter (fun p => !(decide (lo ≤ 64 + 32 * p.1) && decide (96 + 32 * p.1 ≤ hi)))
  if keep.length = s.host.d2.length then s
  else { s with host := { s.host with d2 := keep.map Prod.snd, d2gen := s.host.d2gen + 1 } }

/-- Log page 0xD3: every fault register with a bit set. -/
def State.faultPage (s : State) : List Byte :=
  let us := allUnits.filter (fun u => s.reg u.reg != 0)
  leBytes 4 us.length ++ leBytes 4 0 ++ leBytes 8 s.host.stamp ++ List.replicate 48 0 ++
    us.flatMap (fun u =>
      leBytes 4 u.reg ++ leBytes 4 0 ++ leBytes 8 (s.reg u.reg).toNat ++ leBytes 8 (s.reg u.cap).toNat ++
      leBytes 8 (match u.addr with
        | some a => (s.reg a).toNat
        | none => 0))

/-- The Persistent Event log: the NVMe header, then 16 bytes for each job lost to a reset, which this model lays out itself (R369). -/
def State.persistPage (s : State) : List Byte :=
  nvmePage 0x0D 512 [] ++ s.host.persist.flatMap (fun e =>
    leBytes 4 e.1 ++ leBytes 2 e.2.sqid.toNat ++ leBytes 2 e.2.cid.toNat ++ [0xD0, e.2.ctrl] ++ List.replicate 6 0)

/-- The log pages that R345 names. -/
def State.logPage (s : State) (lid : Nat) : Option (List Byte) :=
  if lid = 0x01 then some (nvmePage 0x01 4096 [])
  else if lid = 0x02 then some s.smartPage
  else if lid = 0x03 then
    some (nvmePage 0x03 512 [(0, leBytes 1 (s.guard.running + 16 * s.guard.next)), (8, s.fwRev 1), (16, s.fwRev 2)])
  else if lid = 0x04 then some (nvmePage 0x04 4096 [])
  else if lid = 0x05 then some (nvmePage 0x05 4096 [])
  else if lid = 0x0D then some s.persistPage
  else if lid = 0x81 then
    some (nvmePage 0x81 512 [(2, leBytes 2 (if s.host.sanitizing then 2 else if s.host.sanitized then 1 else 0))])
  else if lid = 0xD0 then some s.diePage
  else if lid = 0xD1 then some s.chanPage
  else if lid = 0xD2 then some s.lostPage
  else if lid = 0xD3 then some s.faultPage
  else none

/-- Get Log Page; with Retain Asynchronous Event clear it re-arms the page's events, and a read of 0xD2 removes what it returned (R364, R366). -/
def State.getLog (s : State) (n : NHdr) (lid : Nat) (rae : Bool) (off len : Nat) : State :=
  match s.logPage lid with
  | none => s.specific n 0x09
  | some page =>
    if page.length < off then s.badField n
    else
      let s := s.ok n 0 0 ((page.drop off).take len)
      let s := s.fresh
      if rae then s
      else
        let s := { s with host := { s.host with raised := s.host.raised.filter (fun e => eventPage e != lid) } }
        if lid = 0xD2 then s.takeLost off (off + len) else s

/-! ### Queues and events (R345, R364) -/

/-- Create I/O Completion Queue or Submission Queue; `size` counts from zero. -/
def State.createQueue (s : State) (n : NHdr) (cq : Bool) (qid size cqid : Nat) : State :=
  let c := s.ctrl (nctrl n)
  if qid = 0 ∨ 512 < qid ∨ (if cq then (c.cq? qid).isSome else (c.sq? qid).isSome) = true then s.specific n 0x01
  else if size = 0 then s.specific n 0x02
  else if !cq && (cqid == 0 || (c.cq? cqid).isNone) then s.specific n 0x00
  else
    let q : Queue := { qid := qid, size := size + 1, cqid := cqid }
    (s.modCtrl (nctrl n) (fun c => if cq then { c with cqs := c.cqs ++ [q] } else { c with sqs := c.sqs ++ [q] })).ok n

/-- Delete I/O Completion Queue or Submission Queue. -/
def State.deleteQueue (s : State) (n : NHdr) (cq : Bool) (qid : Nat) : State :=
  let c := s.ctrl (nctrl n)
  if qid = 0 ∨ (if cq then (c.cq? qid).isNone else (c.sq? qid).isNone) = true then s.specific n 0x01
  else if cq && c.sqs.any (fun q => q.cqid == qid && q.qid != 0) then s.specific n 0x0C
  else
    let s := s.modCtrl (nctrl n) (fun c =>
      if cq then { c with cqs := c.cqs.filter (fun q => q.qid != qid) } else { c with sqs := c.sqs.filter (fun q => q.qid != qid) })
    (s.ok n).doorLevel (portOf (nctrl n))

/-- Asynchronous Event Request: 16 outstanding at most (AERL = 15). -/
def State.eventRequest (s : State) (n : NHdr) : State :=
  if 16 ≤ (s.ctrl (nctrl n)).aers.length then s.specific n 0x05
  else
    let s := s.modCtrl (nctrl n) (fun c => { c with aers := c.aers ++ [n.cid] })
    { s with host := s.host.serveAer }

/-! ### Other admin commands (R345) -/

/-- Device Self-test: the short one, or its abort. -/
def State.selfTest (s : State) (n : NHdr) (code : Nat) : State :=
  if code = 1 then { s with host := { s.host with tests := s.host.tests + 1 } }.ok n
  else if code = 0xF then s.ok n
  else s.badField n

end Sys2Proof.Machine
end

