-- ==== Sys2Proof/Machine/HostFw.lean ====
section
/-! DEFINITION. Machine/HostFw.lean: firmware packages, their download and commit (R443, R444). -/

namespace Sys2Proof.Machine

open Sys2Proof

/-- Part of a package stored: Firmware Image Download. -/
def State.fwDownload (s : State) (n : NHdr) (off : Nat) (data : List Byte) : State :=
  (s.modGuard (fun g => { g with dl := memPut g.dl off data, dlLen := max g.dlLen (off + data.length) })).ok n

/-- A package as downloaded. -/
structure Pkg where
  bytes : List Byte
  deriving DecidableEq, Repr

/-- The field of `n` bytes at offset `o`. -/
def Pkg.u (p : Pkg) (o n : Nat) : Nat := leNat ((p.bytes.drop o).take n)

/-- Bytes signed. -/
def Pkg.signed (p : Pkg) : Nat := p.u 12 4

/-- Whether `n` bytes from `o` are all zero. -/
def Pkg.zero (p : Pkg) (o n : Nat) : Bool := ((p.bytes.drop o).take n).all (· == 0)

/-- Entry `i` of the component table: type, offset, size. -/
def Pkg.comp (p : Pkg) (i : Nat) : Nat × Nat × Nat := (p.u (2656 + 32 * i) 4, p.u (2660 + 32 * i) 4, p.u (2664 + 32 * i) 4)

/-- Whether the component table is as R443 asks. -/
def Pkg.tableOk (p : Pkg) : Bool :=
  let cs := (List.range 4).map p.comp
  (List.range 4).all (fun i =>
    let c := p.comp i
    p.zero (2668 + 32 * i) 20 && c.2.1 % 4096 == 0 && decide (c.2.1 + c.2.2 ≤ p.signed)) &&
  [1, 2, 3, 4].all (fun t => (cs.filter (fun c => c.1 == t)).length == 1) &&
  (List.range 4).all (fun i => (List.range i).all (fun j =>
    let a := p.comp i
    let b := p.comp j
    decide (a.2.1 + a.2.2 ≤ b.2.1) || decide (b.2.1 + b.2.2 ≤ a.2.1)))

/-- Whether the package's format is right: R443. -/
def Pkg.formOk (p : Pkg) : Bool :=
  p.u 0 4 == 0x50464E53 && p.u 4 2 == 1 && decide (p.u 6 2 ≤ 128) && decide (p.u 8 1 ≤ 3) && decide (p.u 9 1 ≤ 1) && p.u 10 2 == 4 &&
  p.signed % 4096 == 0 && decide (2784 ≤ p.signed) && decide (p.bytes.length = p.signed + 4627) && p.zero 24 40 && p.tableOk

/-- Whether a package is valid: R444. -/
def State.pkgValid (s : State) (p : Pkg) : Bool :=
  let pk := (p.bytes.drop 64).take 2592
  let slot := p.u 8 1
  p.formOk && s.fuse.keyHash[slot]? == some (sha3_512 pk) && !s.fuse.revoked.getLsbD slot &&
  mldsaVerify pk (p.bytes.take p.signed) (p.bytes.drop p.signed) && decide (s.fuse.svn ≤ p.u 6 2)

/-- What a slot keeps of a package. -/
def Pkg.store (p : Pkg) : FwPkg :=
  { valid := true, svn := p.u 6 2, keySlot := p.u 8 1, advance := p.u 9 1 == 1, frs := (p.bytes.drop 16).take 8
    comps := [1, 2, 3, 4].map (fun t =>
      match ((List.range 4).map p.comp).find? (fun c => c.1 == t) with
      | some c => (p.bytes.drop c.2.1).take c.2.2
      | none => []) }

/-- The downloaded package. -/
def State.dlPkg (s : State) : Pkg := ⟨memBytes s.guard.dl 0 s.guard.dlLen⟩

/-- The slot a commit writes: the one it names, or for 0 the one that is not running. -/
def State.commitSlot (s : State) (slot : Nat) : Nat := if slot = 0 then 3 - s.guard.running else slot

/-- A valid package written to slot `k`; what was downloaded is used up. -/
def State.fwStore (s : State) (k : Nat) : State :=
  s.modGuard (fun g => { g with slots := g.slots.set (k - 1) s.dlPkg.store, dl := [], dlLen := 0 })

/-- Slot `k` runs from the next warm reset on. -/
def State.fwActivate (s : State) (k : Nat) : State := s.modGuard (fun g => { g with next := k })

/-- Firmware Commit: R444. -/
def State.fwCommit (s : State) (n : NHdr) (slot action : Nat) : State :=
  let k := s.commitSlot slot
  if 2 < slot then s.specific n 0x06
  else if action = 2 then (s.fwActivate k).ok n
  else if 3 < action then s.badField n
  else if !s.pkgValid s.dlPkg then s.specific n 0x07
  else
    let t := s.fwStore k
    if action = 0 then t.ok n
    else if action = 1 then (t.fwActivate k).ok n
    else (t.fwActivate k).specific n 0x10

end Sys2Proof.Machine
end

