-- ==== Sys2Proof/Machine/HostNs.lean ====
section
/-! DEFINITION. Machine/HostNs.lean: name space management, Format NVM, Sanitize, the weight range and host windows as the host commands them
(R145, R348 to R353, R355). -/

namespace Sys2Proof.Machine

open Sys2Proof

/-! ### Create, delete and attach (R348 to R350) -/

/-- 320 TB in logical blocks. -/
def userLbas : Nat := 78125000000

/-- What kinds 0 to 4 hold together, in logical blocks. -/
def State.usedLbas (s : State) : Nat := s.nss.foldl (fun n e => if e.2.blocky then n + e.2.lbas else n) 0

/-- What Namespace Management Create asks for. -/
structure NsAsk where
  kind  : Nat
  part  : Nat
  lbas  : Nat
  bytes : Nat
  rsv   : Bool
  deriving DecidableEq, Repr

/-- The fields that R349 refuses. -/
def NsAsk.bad (a : NsAsk) (s : State) : Bool :=
  a.rsv || decide (6 < a.kind) ||
  (if a.kind = 5 ∨ a.kind = 6 then decide (7 < a.part) else a.part != 255) ||
  (if a.kind = 6 then a.bytes == 0 || a.bytes % 4096 != 0 else a.bytes != 0) ||
  (if a.kind ≤ 4 then a.lbas == 0 else a.lbas != 0) ||
  (a.kind == 3 && a.lbas % 512 != 0) ||
  (a.kind == 5 && s.nss.any (fun e => e.2.kind == 5 && e.2.part == a.part))

/-- Namespace Management Create: R348, R349. The lowest free identifier is taken. -/
def State.createNs (s : State) (n : NHdr) (a : NsAsk) : State :=
  let id := lowestGap 1 s.nss
  if a.bad s then s.badField n
  else if 256 ≤ s.nss.length then s.specific n 0x16
  else if a.kind ≤ 4 then
    if userLbas < s.usedLbas + a.lbas then s.specific n 0x15
    else (s.setNs id { kind := a.kind, lbas := a.lbas }).ok n id
  else if a.kind = 5 then (s.setNs id { kind := 5, part := a.part }).ok n id
  else
    match s.findPlace a.part a.bytes with
    | none => s.specific n 0x15
    | some b => ((s.takePlace a.part b a.bytes .memNs (progKey id 0)).setNs id { kind := 6, part := a.part, base := b, bytes := a.bytes }).ok n id

/-- Whether a weight name space is attached to the weight range. -/
def State.weightBound (s : State) (id : Nat) : Bool := s.weight.attached.any (fun t => t.nsid == id)

/-- Whether a name space is an open index. -/
def State.indexBound (s : State) (id : Nat) : Bool := s.search.idx.any (fun e => e.2.nsid == id && s.indexOpen e.1)

/-- Entries that name data which no longer exist leave the poisoned-page list and log page 0xD2: R351. -/
def State.forget (s : State) (id : Nat) : State :=
  let s := { s with weight := { s.weight with
    poisoned := s.weight.poisoned.filter (fun k => k / 2 ^ 25 != id), wholeNs := setDel s.weight.wholeNs id } }
  if s.host.d2.any (fun e => e.nsid == id) then s.dropLost (fun e => e.nsid == id) else s

/-- A name space emptied: every unit unmapped, every zone reset, media-direct zones left to erase (R319, R328, R351). -/
def State.wipeNs (s : State) (id : Nat) : State :=
  match s.ns? id with
  | none => s
  | some v =>
    if !v.blocky then s
    else if v.kind = 2 then (State.each (v.zones.map Prod.fst) (fun z s => s.zoneReset id z) s).forget id
    else
      let s := State.each v.mapped (State.dropUnit id) s
      (s.modNs id (fun v => { v with data := [], mapped := [], lost := [], zones := [], deferOn := [] })).forget id

/-- The blocks of a name space that still await their erase, left to the queue of no zone. -/
def State.orphanErases (s : State) (id : Nat) : State :=
  match s.ns? id with
  | some v => State.each (v.zones.flatMap (fun z => z.2.toErase)) State.queueErase s
  | none => s

/-- Programs of a compute name space leave program memory. -/
def State.dropPrograms (s : State) (id : Nat) : State :=
  let mine := s.programs.filter (fun p => p.nsid == id)
  let s := State.each mine (fun p s => (s.dropPlace .code (progKey p.nsid p.index)).dropPlace .data (progKey p.nsid p.index)) s
  { s with programs := s.programs.filter (fun p => p.nsid != id) }

/-- Namespace Management Delete: R350. -/
def State.deleteNs (s : State) (n : NHdr) (id : Nat) : State :=
  match s.ns? id with
  | none => s.badNs n
  | some v =>
    if s.weightBound id || s.indexBound id || (v.kind == 5 && s.jobs.any (fun j => j.prog.nsid == id)) then s.busyNs n
    else
      let s := ((s.wipeNs id).orphanErases id).dropPrograms id
      let s := s.dropPlace .memNs (progKey id 0)
      { s with nss := sdel s.nss id }.startErases.writesDone.ok n

/-- Namespace Attachment: R341. -/
def State.attachNs (s : State) (n : NHdr) (id : Nat) (attach : Bool) (ks : List Nat) : State :=
  match s.ns? id with
  | none => s.badNs n
  | some v =>
    if ks.isEmpty || ks.any (fun k => decide (130 ≤ k)) then s.specific n 0x1C
    else if attach && ks.any (setHas v.ctrls) then s.specific n 0x18
    else if !attach && ks.any (fun k => !setHas v.ctrls k) then s.specific n 0x1A
    else (s.setNs id { v with ctrls := ks.foldl (fun m k => if attach then setAdd m k else setDel m k) v.ctrls }).ok n

/-! ### Format and Sanitize (R351) -/

/-- A media key replaced. -/
def State.newKey (id : Nat) (s : State) : State := s.modNs id (fun v => { v with keyGen := v.keyGen + 1 })

/-- Format NVM of one name space, or of all. -/
def State.format (s : State) (n : NHdr) (nsid : BitVec 32) (crypto : Bool) : State :=
  let all := (s.nss.filter (fun e => e.2.blocky)).map Prod.fst
  let one := fun (id : Nat) (s : State) => (if crypto then State.newKey id s else s).wipeNs id
  if nsid = 0xFFFFFFFF then
    if all.any (fun id => s.weightBound id || s.indexBound id) || !s.jobs.isEmpty then s.busyNs n
    else (State.each all one s).writesDone.ok n
  else
    match s.ns? nsid.toNat with
    | none => s.badNs n
    | some v =>
      if !v.blocky then s.specific n 0x0A
      else if s.weightBound nsid.toNat || s.indexBound nsid.toNat then s.busyNs n
      else (one nsid.toNat s).writesDone.ok n

/-- The KV pools emptied: every block is free. -/
def State.emptyPools (s : State) : State :=
  let n := s.serving.pools.foldl (fun n e => n + e.2.length) 0
  { s with serving := { s.serving with pools := [] } }.tick 4 n

/-- A memory name space zeroed. -/
def State.zeroMem (v : Nspace) (s : State) : State :=
  { s with mem := memZero s.mem v.base v.bytes
           poison := s.poison.filter (fun l => decide (l * 64 < v.base) || decide (v.base + v.bytes ≤ l * 64)) }

/-- Sanitize, block erase: every block outside the dump area is erased; its end is an event of its own. -/
def State.sanitizeAll (s : State) (n : NHdr) (blockErase : Bool) : State :=
  if !blockErase then s.badField n
  else if !s.weight.attached.isEmpty || s.search.idx.any (fun e => s.indexOpen e.1) || !s.jobs.isEmpty then s.busyNs n
  else
    let s := State.each (s.nss.map Prod.fst) (fun id s => s.wipeNs id) s
    let s := State.each ((s.nss.filter (fun e => e.2.kind == 6)).map Prod.snd) State.zeroMem s
    let s := State.each s.weight.resident (fun p s => s.evict p) s
    let s := s.emptyPools
    let s := { s with
      weight := { s.weight with poisoned := [], wholeNs := [] }
      host := { s.host with d2 := [], d2over := false, d2gen := s.host.d2gen + 1, sanitizing := true } }
    let used := (s.media.blks.filter (fun e => e.2.use == .open_ || e.2.use == .closed)).map Prod.fst
    ((State.each used State.queueErase s).startErases).writesDone.ok n

/-- The Sanitize ends: R351. -/
def State.sanitizeDone (s : State) : State :=
  if s.alive && s.media.mounted && s.host.sanitizing then
    { s with host := { s.host with sanitizing := false, sanitized := true } }
  else s

/-! ### The weight range (R352) -/

/-- Weight pages there are. -/
def weightPages : Nat := 33554432

/-- Attach Weight. -/
def State.attachWeight (s : State) (n : NHdr) (id base : Nat) (rsv : Bool) : State :=
  match s.ns? id with
  | none => s.badNs n
  | some v =>
    let k := v.lbas / 512
    if rsv || v.kind != 3 || s.weightBound id || decide (weightPages < base + k) ||
        s.weight.attached.any (fun t => decide (base < t.base + t.pages) && decide (t.base < base + k)) then s.badField n
    else { s with weight := { s.weight with attached := s.weight.attached ++ [({ nsid := id, base := base, pages := k } : Attachment)] } }.ok n

/-- Pages of an attachment that are in the pool or on their way to it, evicted: R145. -/
def State.evictRun (s : State) (t : Attachment) : State :=
  let mine := fun p => decide (t.base ≤ p) && decide (p < t.base + t.pages)
  let s := State.each ((s.weight.resident ++ s.weight.copying).filter mine) (fun p s => s.evict p) s
  { s with weight := { s.weight with heat := s.weight.heat.filter (fun e => !mine e.1) } }

/-- Detach Weight: refused while a job runs in a partition to which the name space is attached. -/
def State.detachWeight (s : State) (n : NHdr) (id : Nat) (rsv : Bool) : State :=
  match s.ns? id, s.weight.attached.find? (fun t => t.nsid == id) with
  | none, _ => s.badNs n
  | some _, none => s.badField n
  | some v, some t =>
    if rsv then s.badField n
    else if s.jobs.any (fun j => s.nsOfPart v j.part) then s.busyNs n
    else
      let s := s.evictRun t
      { s with weight := { s.weight with attached := s.weight.attached.filter (fun t => t.nsid != id) } }.ok n

/-- The attached page that holds zone `z` of a weight name space evicted: R147. -/
def State.evictZone (s : State) (id z : Nat) : State :=
  match s.weight.attached.find? (fun t => t.nsid == id) with
  | some t => if z < t.pages then s.evict (t.base + z) else s
  | none => s

/-! ### Host windows (R355) -/

/-- The windows as they will stand once every accepted command has taken effect. -/
def State.plannedWins (s : State) : List HostWin :=
  s.host.winSets.foldl (fun (l : List HostWin) x =>
    l.filter (fun v => !(v.ctrl == x.w.ctrl && v.win == x.w.win)) ++ (if x.w.len = 0 then [] else [x.w])) s.host.wins

/-- Whether two controllers' windows serve one partition. -/
def State.sameServed (s : State) (a b : Nat) : Bool := a == b || ((s.vfPart a).isSome && s.vfPart a == s.vfPart b)

/-- Set Host Window: it waits for the period boundary. -/
def State.setWindow (s : State) (n : NHdr) (w : HostWin) (enable rsv : Bool) : State :=
  let others := s.plannedWins.filter (fun v => !(v.ctrl == w.ctrl && v.win == w.win) && s.sameServed v.ctrl w.ctrl)
  let hits := others.any (fun v => decide (w.start < v.start + v.len) && decide (v.start < w.start + w.len))
  if rsv || (enable && (w.len == 0 || w.start % 4096 != 0 || w.bus % 4096 != 0 || decide (2 ^ 47 < w.start + w.len) || hits)) then s.badField n
  else
    let w := if enable then w else { w with len := 0 }
    { s with host := { s.host with winSets := s.host.winSets ++ [⟨n, w⟩] } }

end Sys2Proof.Machine
end

