-- ==== Sys2Proof/Machine/HostIo.lean ====
section
/-! DEFINITION. Machine/HostIo.lean: the I/O commands of the NVM, Zoned and Subsystem Local Memory command sets (R316 to R320, R326 to R328,
R335, R345, R353, R362). -/

namespace Sys2Proof.Machine

open Sys2Proof

/-! ### Waits (R315, R328, R400) -/

/-- Free blocks below the stall floor: writes that need a block of the translation layer's wait (R315). -/
def State.belowStall (s : State) : Bool := decide (s.freeBp < s.fld Reg.MEDIA_GC_CTL 32 16)

/-- Whether a write to zone `z` of a name space has to wait: for free blocks, for room in the write buffer (R318), or for the erase of a reset
media-direct zone. -/
def State.writeWaits (s : State) (v : Nspace) (z : Nat) : Bool :=
  (decide (v.kind ≤ 1) && s.belowStall) || (v.kind != 2 && s.bufferFull) || (v.kind == 2 && !(v.zone z).toErase.isEmpty)

/-! ### Reading (R316, R319, R353) -/

/-- What a read of logical blocks finds; blocks on an erasing block read as zeros and fail nothing. -/
inductive ReadFate where
  | good | lost | poisonedPage
  deriving DecidableEq, Repr

/-- The fate of a read of `nlb` blocks from `a`. -/
def State.readFate (s : State) (id : Nat) (v : Nspace) (a nlb : Nat) : ReadFate :=
  if v.kind == 3 && (List.range nlb).any (fun i => setHas s.weight.poisoned (wkey id ((a + i) / 512)) || setHas s.weight.wholeNs id) then .poisonedPage
  else if s.readLost id v a nlb then .lost
  else .good

/-- One more read that failed: the Media and Data Integrity Errors of R333. -/
def State.mediaError (s : State) : State := { s with media := { s.media with errors := s.media.errors + 1 } }

/-- Logical blocks that a command moves at most: MDTS (R345). -/
def maxBlocks : Nat := 512

/-- A command that reads `nlb` blocks from `a` and then answers with `f` of their bytes. -/
def State.reading (s : State) (n : NHdr) (id a nlb : Nat) (f : List Byte → State → State) : State :=
  match s.ns? id with
  | none => s.badNs n
  | some v =>
    if !v.blocky then s.badOpcode n
    else if nlb = 0 ∨ maxBlocks < nlb then s.badField n
    else if !v.inside a nlb then s.badLba n
    else
      let s := (s.useMaps id v a nlb).chargeHost n 5 (s.pagesRead v a nlb)
      let s := s.eraseReads (s.erasingPages v a nlb)
      match s.readFate id v a nlb with
      | .good => f (s.readBlocks v a nlb) s
      | .lost => s.mediaError.unread n
      | .poisonedPage => s.mediaError.vendor n 0xC0

/-- Read. -/
def State.doRead (s : State) (n : NHdr) (id a nlb : Nat) : State := s.reading n id a nlb (fun bs s => s.ok n 0 0 bs)

/-- Compare. -/
def State.doCompare (s : State) (n : NHdr) (id a : Nat) (data : List Byte) : State :=
  if data.length % lbaBytes ≠ 0 then s.badField n
  else s.reading n id a (data.length / lbaBytes) (fun bs s => if bs = data then s.ok n else s.complete n 2 0x85)

/-- Verify. -/
def State.doVerify (s : State) (n : NHdr) (id a nlb : Nat) : State := s.reading n id a nlb (fun _ s => s.ok n)

/-! ### Writing (R318, R327, R335, R353) -/

/-- The reads that a write to `nlb` blocks from `a` needs before it: of units that it covers in part (R318), with their map pages. -/
def State.readToMerge (s : State) (n : NHdr) (id : Nat) (v : Nspace) (a nlb : Nat) : State :=
  let k := s.mergeReads v a nlb
  if k = 0 then s else (s.useMaps id v a nlb).chargeHost n 5 k

/-- Blocks stored where they were asked for, outside zones: the pages they replace become invalid. -/
def State.storeAt (s : State) (n : NHdr) (id : Nat) (v : Nspace) (a : Nat) (bs : List Byte) : State :=
  let nlb := bs.length / lbaBytes
  let s := (s.readToMerge n id v a nlb).chargeHost n 6 (pagesOver a nlb)
  (s.setNs id (v.write a bs)).putUnits id a nlb

/-- Active zones a name space may have: R345, R326. -/
def State.zonesFull (s : State) (v : Nspace) (w : Zone) : Bool :=
  w.st == .empty &&
    (if v.kind = 2 then decide (256 ≤ s.activeDirect) else decide (256 ≤ (v.zones.filter (fun z => z.2.active)).length))

/-- Whether zone `z` of a weight name space is on a poisoned page: it then takes only Weight Page Rewrite and Read (R353). -/
def State.zonePoisoned (s : State) (id : Nat) (v : Nspace) (z : Nat) : Bool :=
  v.kind == 3 && (setHas s.weight.poisoned (wkey id z) || setHas s.weight.wholeNs id)

/-- Blocks written at a zone's write pointer; `at_` is the block a Write names, none for an append. The answer carries the block written for an
append. -/
def State.zonePut (s : State) (n : NHdr) (id : Nat) (v : Nspace) (z : Nat) (at_ : Option Nat) (bs : List Byte) : State :=
  let w := v.zone z
  let nlb := bs.length / lbaBytes
  let here := z * zoneSize v.kind + w.wp
  if s.zonePoisoned id v z then s.vendor n 0xC0
  else if w.st = .offline then s.specific n 0xBB
  else if w.st = .full then s.specific n 0xB9
  else if v.kind = 2 ∧ (nlb % 4 ≠ 0 ∨ (at_ != none && at_ != some here) = true) then s.badField n
  else if at_ != none && at_ != some here then s.specific n 0xBC
  else if zoneCap v.kind < w.wp + nlb then s.specific n 0xB8
  else if s.zonesFull v w then s.specific n 0xBD
  else
    let s := (((s.readToMerge n id v here nlb).chargeHost n 6 (pagesOver here nlb)).evictZone id z).zoneWrite id z bs
    let d := if at_.isSome then (0, 0) else (here % 2 ^ 32, here / 2 ^ 32)
    -- a media-direct write completes when every page of it has passed (R327)
    if v.kind = 2 then (s.queueWrite id z w.wp nlb (.host n d.1 d.2)).2 else s.ok n d.1 d.2

/-- Write, and Write Zeroes with its zeros. -/
def State.doWrite (s : State) (n : NHdr) (id a : Nat) (bs : List Byte) : State :=
  let nlb := bs.length / lbaBytes
  match s.ns? id with
  | none => s.badNs n
  | some v =>
    if !v.blocky then s.badOpcode n
    else if nlb = 0 ∨ bs.length % lbaBytes ≠ 0 then s.badField n
    else if !v.inside a nlb then s.badLba n
    else if s.mediaRo then s.protectedNs n
    else if v.zoned then s.zonePut n id v (a / zoneSize v.kind) (some a) bs
    else (s.storeAt n id v a bs).ok n

/-- Zone Append: completion DW0 and DW1 give the block written. -/
def State.doAppend (s : State) (n : NHdr) (id a : Nat) (bs : List Byte) : State :=
  let nlb := bs.length / lbaBytes
  match s.ns? id with
  | none => s.badNs n
  | some v =>
    if !v.zoned then s.badOpcode n
    else if nlb = 0 ∨ maxBlocks < nlb ∨ bs.length % lbaBytes ≠ 0 ∨ a % zoneSize v.kind ≠ 0 then s.badField n
    else if v.lbas ≤ a then s.badLba n
    else if s.mediaRo then s.protectedNs n
    else s.zonePut n id v (a / zoneSize v.kind) none bs

/-- One range deallocated: whole units lose their mapping, the covered blocks of others are written with zeros (R319). -/
def State.dropRange (id : Nat) (r : Nat × Nat) (s : State) : State :=
  match s.ns? id with
  | none => s
  | some v =>
    let us := (unitsOver r.1 r.2).filter (setHas v.mapped)
    let whole := fun (u : Nat) => decide (r.1 ≤ 4 * u) && decide (4 * u + 4 ≤ r.1 + r.2)
    let s := State.each (us.filter whole) (State.dropUnit id) s
    let s := State.each (us.filter (fun u => !whole u)) (State.putUnit id) s
    s.modNs id (fun v => v.unmap r.1 r.2)

/-- Dataset Management, Deallocate: R319. Name spaces mapped in units take it. -/
def State.doDeallocate (s : State) (n : NHdr) (id : Nat) (rs : List (Nat × Nat)) : State :=
  match s.ns? id with
  | none => s.badNs n
  | some v =>
    if !v.blocky then s.badOpcode n
    else if v.zoned || rs.isEmpty || decide (256 < rs.length) then s.badField n
    else if rs.any (fun r => !v.inside r.1 r.2) then s.badLba n
    else if s.mediaRo then s.protectedNs n
    else (State.each rs (State.dropRange id) s).ok n

/-! ### Zones (R326 to R328, R345) -/

/-- The actions of Zone Management Send. -/
inductive ZoneAct where
  | open_ | close | finish | reset | offline
  deriving DecidableEq, Repr

/-- A zone put in a state. -/
def State.setZone (s : State) (id z : Nat) (f : Zone → Zone) : State :=
  s.modNs id (fun v => v.setZone z (f (v.zone z)))

/-- Data of a zone given up. -/
def State.emptyZone (s : State) (id z : Nat) : State :=
  match s.ns? id with
  | some v =>
    let a := z * zoneSize v.kind
    let s := if v.kind = 2 then s
      else State.each (v.mapped.filter (fun u => decide (a ≤ 4 * u) && decide (4 * u < a + zoneSize v.kind))) (State.dropUnit id) s
    ((s.evictZone id z).zoneReset id z).writesDone
  | none => s

/-- Zone Management Send on one zone. -/
def State.zoneSend (s : State) (n : NHdr) (id a : Nat) (act : ZoneAct) : State :=
  match s.ns? id with
  | none => s.badNs n
  | some v =>
    let z := a / zoneSize v.kind
    let w := v.zone z
    let wrong := fun (s : State) => s.specific n 0xBF
    if !v.zoned then s.badOpcode n
    else if v.lbas ≤ a then s.badLba n
    else if a % zoneSize v.kind ≠ 0 then s.badField n
    else if s.zonePoisoned id v z then s.vendor n 0xC0
    else
      match act with
      | .open_ =>
        if w.st = .full ∨ w.st = .offline then wrong s
        else if s.zonesFull v w then s.specific n 0xBD
        else (s.setZone id z (fun w => { w with st := .explicitlyOpen })).ok n
      | .close =>
        if w.st = .closed then s.ok n
        else if w.st = .implicitlyOpen ∨ w.st = .explicitlyOpen then
          (s.setZone id z (fun w => { w with st := if w.wp = 0 then .empty else .closed })).ok n
        else wrong s
      | .finish =>
        if w.st = .offline then wrong s
        else if s.zonesFull v w then s.specific n 0xBD
        else (s.setZone id z (fun w => { w with st := .full })).ok n
      | .reset =>
        if w.st = .offline then wrong s
        else if s.mediaRo then s.protectedNs n
        else (s.emptyZone id z).ok n
      | .offline =>
        if w.st = .offline then s.ok n
        else if s.mediaRo then ((s.emptyZone id z).setZone id z (fun w => { w with st := .offline })).ok n
        else wrong s

/-- A zone's state as the Zoned Namespace command set numbers it; a zone of read-only media reads as Read Only. -/
def State.zoneCode (s : State) (w : Zone) : Nat :=
  match w.st with
  | .offline => 0xF
  | .full => 0xE
  | .empty => if s.mediaRo then 0xD else 1
  | .implicitlyOpen => if s.mediaRo then 0xD else 2
  | .explicitlyOpen => if s.mediaRo then 0xD else 3
  | .closed => if s.mediaRo then 0xD else 4

/-- A zone descriptor. -/
def State.zoneDesc (s : State) (v : Nspace) (z : Nat) : List Byte :=
  let w := v.zone z
  leBytes 1 2 ++ leBytes 1 (16 * s.zoneCode w) ++ List.replicate 6 0 ++ leBytes 8 (zoneCap v.kind) ++ leBytes 8 (z * zoneSize v.kind) ++
    leBytes 8 (z * zoneSize v.kind + w.wp) ++ List.replicate 32 0

/-- Zone Management Receive: the descriptors of zones from the one named on, `count` at most. -/
def State.zoneReceive (s : State) (n : NHdr) (id a count : Nat) : State :=
  match s.ns? id with
  | none => s.badNs n
  | some v =>
    if !v.zoned then s.badOpcode n
    else if v.lbas ≤ a then s.badLba n
    else
      let z := a / zoneSize v.kind
      let m := (v.lbas + zoneSize v.kind - 1) / zoneSize v.kind - z
      s.ok n 0 0 (leBytes 8 m ++ List.replicate 56 0 ++ (List.range (min m count)).flatMap (fun i => s.zoneDesc v (z + i)))

/-! ### Weight Page Rewrite (R150, R353) -/

/-- A whole zone written out of place and read back; on a good read-back the page is remapped and leaves the poisoned-page list.
DESIGN CHOICE: a name space that is poisoned as a whole, the list having been full, stays so (R150 speaks of a page on the list). -/
def State.doRewrite (s : State) (n : NHdr) (id a : Nat) (data : List Byte) (good : Bool) : State :=
  match s.ns? id with
  | none => s.badNs n
  | some v =>
    let z := a / 512
    if v.kind ≠ 3 ∨ a % 512 ≠ 0 ∨ data.length ≠ 512 * lbaBytes then s.badField n
    else if !v.inside a 512 then s.badLba n
    else if s.mediaRo then s.protectedNs n
    else
      let s := (s.chargeHost n 6 128).chargeHouse 5 128
      if !good then s.writeFault n
      else
        let s := ((s.evictZone id z).setNs id ((v.write a data).setZone z { v.zone z with st := .full, wp := 512 })).putUnits id a 512
        { s with weight := { s.weight with poisoned := setDel s.weight.poisoned (wkey id z) } }.ok n

/-! ### Subsystem local memory (R345, R362) -/

/-- A run inside a memory name space: its DRAM address. -/
def Nspace.memAt (v : Nspace) (off len : Nat) : Option Nat := if v.kind = 6 ∧ off + len ≤ v.bytes then some (v.base + off) else none

/-- The name space's memory at `off`, or the answer to a command that names none. -/
def State.slm (s : State) (n : NHdr) (id off len : Nat) (f : Nat → State) : State :=
  match s.ns? id with
  | none => s.badNs n
  | some v =>
    if v.kind ≠ 6 then s.badOpcode n
    else
      match v.memAt off len with
      | some a => f a
      | none => s.badField n

/-- How many of `len` bytes from `a` come before the first poisoned line. -/
def State.cleanRun (s : State) (a len : Nat) : Nat :=
  match (List.range ((a + len + 63) / 64 - a / 64)).find? (fun i => s.poisoned (a / 64 + i)) with
  | some i => 64 * (a / 64 + i) - a
  | none => len

/-- Lines that `len` bytes from `a` touch. -/
def linesOver (a len : Nat) : Nat := if len = 0 then 0 else (a + len - 1) / 64 - a / 64 + 1

/-- SLM Memory Read: the lines before a poisoned one are transferred. -/
def State.memRead (s : State) (n : NHdr) (id off len : Nat) : State :=
  s.slm n id off len (fun a =>
    let m := s.cleanRun a len
    let bs := s.dramRead a m
    let s := s.chargeHost n 4 (linesOver a len)
    if m = len then s.ok n 0 0 bs else s.complete n 7 0xC3 0 0 bs)

/-- Memory Range Set Management: a set of runs of memory name spaces, each named by identifier, offset and length. -/
def State.rangeSet (s : State) (n : NHdr) (create : Bool) (id : Nat) (rs : List (BitVec 32 × Nat × Nat)) : State :=
  let have_ := s.host.ranges.any (fun e => e.1 == id)
  if create then
    let ok := rs.all (fun r => match s.nsOf n r.1 with
      | some v => (v.memAt r.2.1 r.2.2).isSome
      | none => false)
    if rs.isEmpty || !ok || have_ then s.badField n
    else { s with host := { s.host with ranges := sins s.host.ranges id rs } }.ok n
  else if have_ then { s with host := { s.host with ranges := sdel s.host.ranges id } }.ok n
  else s.badField n

end Sys2Proof.Machine
end

