-- ==== Sys2Proof/Machine/HostIndex.lean ====
section
/-! DEFINITION. Machine/HostIndex.lean: an index opened, changed epoch by epoch, and closed (R279 to R282, R289, R293 to R297, R300, R301, R335,
R357). -/

namespace Sys2Proof.Machine

open Sys2Proof

/-! ### The header (R279, R280) -/

/-- The little-endian field of `n` bytes at `o` of an index header. -/
def hdrField (b : List Byte) (o n : Nat) : Nat := leNat ((b.drop o).take n)

/-- Bytes of a vector entry, of the codebook region and of one bitmap for the shape a header gives: R280. -/
def hdrVec (b : List Byte) : Nat := up64 (64 + hdrField b 8 2 * (if hdrField b 7 1 = 1 then 1 else 2))
def centStride (dim : Nat) : Nat := up64 (2 * (dim / 32))
def hdrBook (b : List Byte) : Nat := 8192 * centStride (hdrField b 8 2) + 32768
def hdrMap (b : List Byte) : Nat := bitmapBytes (hdrField b 16 8)

/-- The regions of an index name space, the header's block first: first byte and length. -/
def hdrRegions (b : List Byte) : List (Nat × Nat) :=
  let n := hdrField b 16 8
  let at_ := fun (o len : Nat) => (hdrField b o 8 * 4096, len)
  [(0, 4096), at_ 24 (hdrBook b), at_ 32 (32 * n), at_ 40 (1024 * n), at_ 48 (n * hdrVec b), at_ 56 (2 * hdrMap b)] ++
    (if hdrField b 72 1 = 0 then [] else [at_ 64 (hdrField b 72 1 * hdrMap b)])

/-- Whether two of the runs overlap. -/
def overlapping : List (Nat × Nat) → Bool
  | [] => false
  | r :: t => t.any (fun q => decide (r.1 < q.1 + q.2) && decide (q.1 < r.1 + r.2)) || overlapping t

/-- What Open Index refuses in a header, for a name space of `lbas` blocks: R279, R280. -/
def hdrBad (b : List Byte) (lbas : Nat) : Bool :=
  let f := hdrField b
  f 0 4 != 0x58444E49 || f 4 2 != 1 || decide (1 < f 6 1) || decide (1 < f 7 1) || decide (f 8 2 < 32) || decide (1024 < f 8 2) || f 8 2 % 32 != 0 ||
  f 10 1 == 0 || decide (64 < f 10 1) || f 11 1 != 0 || f 12 4 == 0 || f 12 4 == 0xFFFFFFFF || f 16 8 == 0 || decide (8589934592 < f 16 8) ||
  decide (64 < f 72 1) || f 73 1 == 0 || decide (16 < f 73 1) || ((b.drop 74).take 54).any (· != 0) || ((b.drop 256).take 3840).any (· != 0) ||
  (List.range 16).any (fun i => decide (2 ^ 33 ≤ f (128 + 8 * i) 8)) ||
  (hdrRegions b).any (fun r => decide (lbas * 4096 < r.1 + r.2)) || overlapping (hdrRegions b)

/-! ### Open Index (R282) -/

/-- A region of a name space copied to DRAM at `a`; a block that flash lost leaves its lines poisoned. -/
def State.copyRegion (s : State) (v : Nspace) (from_ len a : Nat) : State :=
  State.each (List.range ((len + 4095) / 4096)) (fun i s =>
    s.dramWrite (a + 4096 * i) (memBytes v.data (from_ + 4096 * i) (min 4096 (len - 4096 * i))) (setHas v.lost (from_ / 4096 + i))) s

/-- The parts of an index that lie in DRAM: first byte in the name space and length, codes and live copies first (R282). -/
def State.copiedParts (s : State) (q : Nat) (filters : List Nat) : List (Nat × Nat) :=
  let m := bitmapBytes (s.slots q)
  let live := s.idxHdr q 56 8 * 4096
  [(s.idxHdr q 32 8 * 4096, 32 * s.slots q), (live, m), (live + m, m)] ++ filters.map (fun f => (s.idxHdr q 64 8 * 4096 + f * m, m))

/-- The slots of index `q` live, tombstoned and free at its current epoch: SIDX_LIVE, SIDX_TOMB and SIDX_FREE (R303). -/
def State.countSlots (s : State) (q : Nat) : State :=
  let e := s.epoch q
  let live := ((List.range (s.slots q)).filter (fun v => s.liveAt q e v)).length
  let tomb := ((List.range (s.slots q)).filter (fun v => !s.liveAt q e v && (s.recOf q false v e).isSome)).length
  ((s.setFld (Reg.SIDX_LIVE q) 0 34 live).setFld (Reg.SIDX_TOMB q) 0 34 tomb).setFld (Reg.SIDX_FREE q) 0 34 (s.slots q - live - tomb)

/-- The DRAM that the copies of an index take: R282. -/
def hdrCopies (b : List Byte) (filters : Nat) : Nat := up4k (32 * hdrField b 16 8) + (2 + filters) * up4k (hdrMap b)

/-- Whether the place named for the copies is refused: R282; a memory name space counts as occupied (R349). -/
def State.copiesBad (s : State) (p a n : Nat) : Bool :=
  a % 4096 != 0 || !s.progMem p a n || (s.poolRuns ++ s.ringRuns ++ s.indexRuns ++ s.memNsRuns).any (meets a n)

/-- The index's registers as the header gives them. -/
def State.shapeIndex (s : State) (q p a : Nat) (b : List Byte) : State :=
  let f := hdrField b
  let st := 1 + p * 2 + f 12 4 * 2 ^ 32
  let sh := f 16 8 + f 8 2 * 2 ^ 34 + f 10 1 * 2 ^ 45 + f 6 1 * 2 ^ 52 + f 7 1 * 2 ^ 53
  let s := (s.setReg (Reg.SIDX_STATE q) (BitVec.ofNat 64 st)).setReg (Reg.SIDX_SHAPE q) (BitVec.ofNat 64 sh)
  (s.setReg (Reg.SIDX_DBASE q) (BitVec.ofNat 64 a)).setReg (Reg.SIDX_BOUND q) 0

/-- Open Index. -/
def State.openIdx (s : State) (n : NHdr) (id q part a : Nat) (filters : List (BitVec 8)) (rsv : Bool) : State :=
  match s.ns? id with
  | none => s.badNs n
  | some v =>
    let p := s.namedPart n part
    let fs := (filters.filter (· != 0xFF)).map BitVec.toNat
    let b := memBytes v.data 0 4096
    if v.kind ≠ 4 then s.badOpcode n
    else if rsv || decide (8 < filters.length) || s.indexOpen q || s.indexBound id then s.badField n
    else if setHas v.lost 0 || hdrBad b v.lbas || fs.any (fun f => decide (hdrField b 72 1 ≤ f)) || s.copiesBad p a (hdrCopies b fs.length) then
      s.vendor n 0xCB
    else
      let s := (s.shapeIndex q p a b).setIdx q { nsid := id, filters := fs }
      let parts := s.copiedParts q fs
      let s := State.each ((List.range parts.length).zip parts) (fun e s => s.copyRegion v e.2.1 e.2.2 (s.indexAt q e.1)) s
      let s := if parts.any (fun r => s.idxLost q r.1 r.2) then s.raise .sidx 0 (q * 2 ^ 8) else s
      let bytes := parts.foldl (fun (k : Nat) r => k + r.2) 0
      let s := (s.chargeHost n 5 (1 + (bytes + 16383) / 16384)).chargeHouse 4 ((bytes + 63) / 64)
      (s.countSlots q).ok n

/-! ### Staging (R294) -/

/-- Whether staging for the next epoch has begun. -/
def State.staging (s : State) (q : Nat) : Bool := s.bit (Reg.SIDX_STATE q) 5

/-- Staging begins: the live bitmap of the current epoch is copied over the other. -/
def State.beginStaging (s : State) (q : Nat) : State :=
  if s.staging q then s
  else
    let c := s.epoch q
    let src := s.indexAt q (1 + c % 2)
    let dst := s.indexAt q (1 + (c + 1) % 2)
    let k := bitmapBytes (s.slots q) / 64
    let s := State.each (List.range k) (fun i s =>
      s.dramWrite (dst + 64 * i) (memBytes s.mem (src + 64 * i) 64) (s.poisoned (src / 64 + i))) s
    (s.chargeHouse 4 (2 * k)).setBit (Reg.SIDX_STATE q) 5 true

/-- Bytes staged for the name space of index `q`. -/
def State.stageBytes (s : State) (q a : Nat) (bs : List Byte) : State :=
  s.modIdx q (fun v =>
    { v with staged := ((List.range bs.length).zip bs).map (fun e => (a + e.1, e.2)) ++
        v.staged.filter (fun e => decide (e.1 < a) || decide (a + bs.length ≤ e.1)) })

/-- Bit `v` of the bitmap that the next epoch will read. -/
def State.nextLive (s : State) (q v : Nat) : Bool :=
  (memByte s.mem (s.indexAt q (1 + (s.epoch q + 1) % 2) + v / 8)).getLsbD (v % 8)

/-- That bit written. -/
def State.setNextLive (s : State) (q v : Nat) (on : Bool) : State :=
  let a := s.indexAt q (1 + (s.epoch q + 1) % 2) + v / 8
  let b := memByte s.mem a
  let m : Byte := BitVec.ofNat 8 (2 ^ (v % 8))
  { s with mem := sput 0 s.mem a (if on then b ||| m else b &&& ~~~ m) }.chargeHouse 4 1

/-- A slot as staged: its record at the next epoch. -/
def State.nextRec (s : State) (q v : Nat) : Option VRec := s.recOf q true v (s.epoch q + 1)

/-- Whether a slot is free for an Insert: it is neither live nor tombstoned, and this staging has not just released it (R297). -/
def State.slotIsFree (s : State) (q v : Nat) : Bool :=
  let r := s.recs q true v
  let gone := fun (x : VRec) (a : Nat) => x.stamp == s.epoch q + 1 && x.rel && s.recStaged q a
  !s.nextLive q v && (s.nextRec q v).isNone && !gone r.1 (s.recAt q v) && !gone r.2 (s.recAt q v + 512)

/-- Where the staging record of a slot lies: R294. -/
def State.stagingRec (s : State) (q v : Nat) : Nat :=
  let r := s.recs q true v
  let e := s.epoch q + 1
  let a := s.recAt q v
  if r.1.stamp = e then a
  else if r.2.stamp = e then a + 512
  else if r.1.stamp = 0xFFFFFFFF then a
  else if r.2.stamp = 0xFFFFFFFF then a + 512
  else if r.2.stamp < r.1.stamp then a + 512
  else a

/-- A record staged for the next epoch: stamped by the stewards. -/
def State.stageRec (s : State) (q v : Nat) (rec_ : List Byte) : State :=
  s.stageBytes q (s.stagingRec q v) (leBytes 4 (s.epoch q + 1) ++ rec_.drop 4)

/-- The bytes of a record with these edges, as the stewards write it. -/
def recBytes (edges : List Nat) (rel : Bool) : List Byte :=
  fitTo 512 0 (leBytes 4 0 ++ leBytes 1 edges.length ++ leBytes 1 (if rel then 1 else 0) ++ List.replicate 58 0 ++ edges.flatMap (leBytes 6))

/-- Whether a supplied record has a reserved value, for a largest degree `d`: R281. -/
def recBad (b : List Byte) (d : Nat) : Bool :=
  let deg := leNat ((b.drop 4).take 1)
  b.length != 512 || decide (d < deg) || ((b.drop 5).take 59).any (· != 0) || ((b.drop (64 + 6 * deg)).take (384 - 6 * deg)).any (· != 0) ||
  (b.drop 448).any (· != 0)

/-- Whether an operation has a reserved value or data of the wrong length: R357. -/
def State.indexOpBad (s : State) (q : Nat) : IndexOp → Bool
  | .insert _ _ code rec_ vec => code.length != 32 || recBad rec_ (s.degree q) || vec.length != s.vecBytes q || ((vec.drop 12).take 52).any (· != 0)
  | .delete _ => false
  | .writeRecord _ rec_ => recBad rec_ (s.degree q)

/-- Whether every edge of a record names a slot that will have a record, slot `v` counted in: R289. -/
def State.edgesOk (s : State) (q v : Nat) (rec_ : List Byte) : Bool :=
  (s.edgesOf q (VRec.ofBytes rec_)).all (fun u => decide (u < s.slots q) && (u == v || (s.nextRec q u).isSome))

/-- One operation staged; none where R289 refuses it. -/
def State.stageOp (s : State) (q : Nat) : IndexOp → Option State
  | .insert v gid code rec_ vec =>
    if s.slots q ≤ v ∨ !s.slotIsFree q v ∨ !s.edgesOk q v rec_ then none
    else
      let s := (s.dramWrite (s.indexAt q 0 + 32 * v) code).chargeHouse 4 1
      let s := s.stageBytes q (s.idxHdr q 32 8 * 4096 + 32 * v) code
      let s := s.stageBytes q (s.vecAt q v) (leBytes 8 gid.toNat ++ vec.drop 8)
      some ((s.stageRec q v rec_).setNextLive q v true)
  | .delete v => if s.slots q ≤ v ∨ !s.nextLive q v then none else some (s.setNextLive q v false)
  | .writeRecord v rec_ =>
    if s.slots q ≤ v ∨ !(s.nextLive q v || (s.nextRec q v).isSome) ∨ !s.edgesOk q v rec_ then none else some (s.stageRec q v rec_)

/-- The operations of a command in order: how many were staged before one was refused, if one was. -/
def State.stageOps (q : Nat) : Nat → List IndexOp → State → Option Nat × State
  | _, [], s => (none, s)
  | i, o :: r, s =>
    match s.stageOp q o with
    | none => (some i, s)
    | some t => State.stageOps q (i + 1) r t

/-- Update Index performed. -/
def State.doUpdate (s : State) (n : NHdr) (q : Nat) (ops : List IndexOp) : State :=
  let r := State.stageOps q 0 ops (s.beginStaging q)
  match r.1 with
  | none => r.2.ok n
  | some i => (r.2.raise .sidx 1 (q * 2 ^ 8)).vendor n 0xCB i

/-! ### Compact Index (R297) -/

/-- Whether slot `v` is tombstoned at the current epoch. -/
def State.tombAt (s : State) (q v : Nat) : Bool := !s.liveAt q (s.epoch q) v && (s.recOf q false v (s.epoch q)).isSome

/-- The edges of slot `v` at the current epoch. -/
def State.edgesAt (s : State) (q v : Nat) : List Nat :=
  match s.recOf q false v (s.epoch q) with
  | some r => s.edgesOf q r
  | none => []

/-- The edges that compaction gives slot `v`. -/
def State.compactEdges (s : State) (q v : Nat) : List Nat :=
  let live := s.liveAt q (s.epoch q)
  let out := (s.edgesAt q v).foldl (fun (l : List Nat) t =>
    if live t then (if l.contains t then l else l ++ [t])
    else (s.edgesAt q t).foldl (fun (l : List Nat) u => if live u && u != v && !l.contains u then l ++ [u] else l) l) []
  out.take (s.degree q)

/-- Compact Index performed: every rewrite computed from the records at the current epoch. -/
def State.doCompact (s : State) (n : NHdr) (q : Nat) : State :=
  let s := s.beginStaging q
  let vs := List.range (s.slots q)
  let ns := vs.filter (fun v => s.liveAt q (s.epoch q) v && (s.edgesAt q v).any (s.tombAt q))
  let ts := vs.filter (s.tombAt q)
  let w := ns.map (fun v => (v, recBytes (s.compactEdges q v) false)) ++ ts.map (fun t => (t, recBytes [] true))
  let s := s.chargeHost n 5 ((vs.filter (fun v => (s.recOf q false v (s.epoch q)).isSome)).length)
  (State.each w (fun e s => s.stageRec q e.1 e.2) s).ok n

/-! ### Advance Epoch (R295) -/

/-- The blocks that an advance makes whole again: every slot with a record whose part lies in the block has been staged anew (R300). -/
def State.healed (s : State) (q : Nat) (v : Idx) (b : Nat) : Bool :=
  let part := fun (base size : Nat) =>
    let lo := b * 4096
    let meets_ := (List.range (s.slots q)).filter (fun i => decide (base + size * i < lo + 4096) && decide (lo < base + size * (i + 1)))
    !meets_.isEmpty && meets_.all (fun i =>
      (s.nextRec q i).isNone || v.staged.any (fun e => decide (base + size * i ≤ e.1) && decide (e.1 < base + size * (i + 1))))
  part (s.recAt q 0) 1024 || part (s.vecAt q 0) (s.vecBytes q)

/-- The staged state of an index written to flash: staged bytes, the next epoch's bitmap and the header's epoch. -/
def State.writeStaged (s : State) (n : NHdr) (q : Nat) (v : Idx) : State :=
  match s.ns? v.nsid with
  | none => s
  | some ns =>
    let e := s.epoch q + 1
    let m := bitmapBytes (s.slots q)
    let at_ := s.idxHdr q 56 8 * 4096 + (e % 2) * m
    let lost := ns.lost.filter (fun b => !s.healed q v b)
    let units : NatSet := (v.staged.map (fun (c : Nat × Byte) => c.1 / 16384) ++ (List.range ((at_ + m - 1) / 16384 - at_ / 16384 + 1)).map (at_ / 16384 + ·) ++ [0]).foldl setAdd []
    let data := v.staged.foldl (fun d (c : Nat × Byte) => sput 0 d c.1 c.2) ns.data
    let data := memPut (memPut data at_ (memBytes s.mem (s.indexAt q (1 + e % 2)) m)) 12 (leBytes 4 e)
    let s := (s.chargeHost n 6 units.length).setNs v.nsid { ns with data := data, lost := lost, mapped := units.foldl setAdd ns.mapped }
    State.each units (State.putUnit v.nsid) s

/-- A poisoned line of the DRAM copies read again from flash; a line whose block flash has lost stays as it is (R300). -/
def State.reloadLine (s : State) (v : Nspace) (from_ a l : Nat) : State :=
  let o := from_ + (64 * l - a)
  if setHas v.lost (o / 4096) then s
  else ((s.dramWrite (64 * l) (memBytes v.data o 64)).chargeHouse 4 1).chargeHouse 5 1

/-- Lines of the DRAM copies that errors had poisoned, read from flash again: R300. -/
def State.reloadCopies (s : State) (q : Nat) : State :=
  match s.idx? q with
  | none => s
  | some x =>
    match s.ns? x.nsid with
    | none => s
    | some v =>
      let ps := s.copiedParts q x.filters
      State.each ((List.range ps.length).zip ps) (fun e s =>
        let a := s.indexAt q e.1
        State.each (s.poison.filter (fun l => decide (a ≤ 64 * l) && decide (64 * l < a + e.2.2))) (fun l s => s.reloadLine v e.2.1 a l) s) s

/-- Advance Epoch performed. -/
def State.doAdvance (s : State) (n : NHdr) (q : Nat) : State :=
  if s.epoch q = 0xFFFFFFFE then s.vendor n 0xCB
  else
    match s.idx? q with
    | none => s.badField n
    | some v =>
      let s := (s.beginStaging q).writeStaged n q v
      let e := s.epoch q + 1
      let cur := s.fld (Reg.SIDX_BOUND q) 0 32
      let s := (s.setFld (Reg.SIDX_STATE q) 32 32 e).setBit (Reg.SIDX_STATE q) 5 false
      let s := (s.setBit (Reg.SIDX_STATE q) 4 (decide (0 < cur))).setReg (Reg.SIDX_BOUND q) (BitVec.ofNat 64 (cur * 2 ^ 32))
      let s := (s.takeShadow (Reg.SIDX_DEF q)).setIdx q { v with staged := [] }
      ((s.reloadCopies q).countSlots q).ok n e

/-! ### Waiting (R294, R295, R297) -/

/-- A waiting command performed. -/
def State.perform (s : State) (q : Nat) : Instr → State
  | .updateIndex n _ _ ops => s.doUpdate n q ops.ops
  | .advanceEpoch n _ _ _ => s.doAdvance n q
  | .compactIndex n _ _ _ => s.doCompact n q
  | _ => s

/-- Whether a command is an Advance Epoch. -/
def isAdvance : Instr → Bool
  | .advanceEpoch _ _ _ _ => true
  | _ => false

/-- What waits on index `q`, and with it whether an advance does: R303. -/
def State.setWaiting (s : State) (q : Nat) (l : List Instr) : State :=
  (s.modIdx q (fun v => { v with waiting := l })).setBit (Reg.SIDX_STATE q) 6 (l.any isAdvance)

/-- The waiting commands of index `q` performed in arrival order, for as long as the previous epoch is not held. -/
def State.runWaiting (q : Nat) : List Instr → State → State
  | [], s => s.setWaiting q []
  | i :: r, s =>
    if s.prevHeld q then s.setWaiting q (i :: r)
    else State.runWaiting q r (s.perform q i)

/-- An index command arriving: performed at once, or waiting behind the previous epoch or an earlier command. -/
def State.arrive (s : State) (q : Nat) (i : Instr) : State :=
  match s.idx? q with
  | none => s
  | some v =>
    if s.prevHeld q || !v.waiting.isEmpty then s.setWaiting q (v.waiting ++ [i])
    else s.perform q i

/-- STAGING_START: with the previous epoch released, what waited goes ahead. -/
def State.startStaging (s : State) (q : Nat) : State :=
  match s.idx? q with
  | none => s
  | some v => if !s.indexOpen q || s.prevHeld q || v.waiting.isEmpty then s else State.runWaiting q v.waiting (s.beginStaging q)

/-! ### Commands on an open index (R301) -/

/-- A command on index `q` of name space `id`: `f` where it is open and not closing. -/
def State.onIndex (s : State) (n : NHdr) (id q : Nat) (rsv : Bool) (f : State → State) : State :=
  match s.ns? id, s.idx? q with
  | none, _ => s.badNs n
  | some v, x =>
    if v.kind ≠ 4 then s.badOpcode n
    else if rsv || !s.indexOpen q || x.all (fun x => x.nsid != id) then s.badField n
    else if s.closing q then s.vendor n 0xCD
    else f s

/-- Update Index. -/
def State.updateIdx (s : State) (n : NHdr) (nsid : BitVec 32) (q : BitVec 4) (ops : IndexOps) : State :=
  s.onIndex n nsid.toNat q.toNat (ops.rsv || ops.ops.isEmpty || decide (65536 < ops.ops.length) || ops.ops.any (s.indexOpBad q.toNat)) (fun s =>
    if s.mediaRo then s.protectedNs n else s.arrive q.toNat (.updateIndex n nsid q ops))

/-- Advance Epoch. -/
def State.advanceIdx (s : State) (n : NHdr) (nsid : BitVec 32) (q : BitVec 4) (rsv : Bool) : State :=
  s.onIndex n nsid.toNat q.toNat rsv (fun s => s.arrive q.toNat (.advanceEpoch n nsid q rsv))

/-- Compact Index. -/
def State.compactIdx (s : State) (n : NHdr) (nsid : BitVec 32) (q : BitVec 4) (rsv : Bool) : State :=
  s.onIndex n nsid.toNat q.toNat rsv (fun s => s.arrive q.toNat (.compactIndex n nsid q rsv))

/-- The NVMe header of a waiting index command. -/
def waitHdr : Instr → Option NHdr
  | .updateIndex n _ _ _ | .advanceEpoch n _ _ _ | .compactIndex n _ _ _ => some n
  | _ => none

/-- Close Index: what waits completes at once; its own completion comes with INDEX_CLOSE_COMPLETE. -/
def State.closeIdx (s : State) (n : NHdr) (id q : Nat) (rsv : Bool) : State :=
  s.onIndex n id q rsv (fun s =>
    match s.idx? q with
    | none => s
    | some v =>
      let s := State.each (v.waiting.filterMap waitHdr) (fun w s => s.vendor w 0xCD) s
      ((s.setIdx q { v with closer := some n }).setWaiting q []).setBit (Reg.SIDX_STATE q) 7 true)

/-- INDEX_CLOSE_COMPLETE: no query remains bound; staged state is discarded and the copies are freed. Its command completes, if a reset has not
taken its controller since. -/
def State.closeDone (s : State) (q : Nat) : State :=
  match s.idx? q with
  | none => s
  | some v =>
    if !s.closing q || s.reg (Reg.SIDX_BOUND q) != 0 then s
    else
      let s := { s with search := { s.search with idx := sdel s.search.idx q } }
      let regs := [Reg.SIDX_STATE q, Reg.SIDX_BOUND q, Reg.SIDX_LIVE q, Reg.SIDX_TOMB q, Reg.SIDX_FREE q, Reg.SIDX_DBASE q, Reg.SIDX_SHAPE q]
      let s := State.each regs (fun r s => s.setReg r 0) s
      match v.closer with
      | some n => s.ok n
      | none => s

end Sys2Proof.Machine
end

