-- ==== Sys2Proof/Machine/HostSearch.lean ====
section
/-! DEFINITION. Machine/HostSearch.lean: the Search command: its buffer, its distance table, its walk, its exact distances and the clearing of a
sharded query (R283, R284, R290 to R293, R298 to R300, R358, R360). -/

namespace Sys2Proof.Machine

open Sys2Proof

/-! ### The buffer (R358) -/

/-- A Search buffer's parameters. -/
structure SearchAsk where
  epoch : Nat
  beam  : Nat
  cand  : Nat
  hops  : Nat
  k     : Nat
  nEntry : Nat
  flags : Nat
  filt  : Nat
  group : Nat
  visLines : Nat
  rsv   : Bool
  entry : List Nat
  query : List Byte
  rest  : List Byte            -- from the next 64-byte boundary on: the filter bitmap
  deriving DecidableEq, Repr

def SearchAsk.ofBytes (b : List Byte) (dim : Nat) : SearchAsk :=
  let u := hdrField b
  { epoch := u 0 4, beam := u 4 2, cand := u 6 2, hops := u 8 4, k := u 12 2, nEntry := u 14 1, flags := u 15 1, filt := u 16 1, group := u 17 1
    visLines := u 20 4, rsv := ((b.drop 18).take 2 ++ (b.drop 24).take 40).any (· != 0), entry := (List.range 16).map (fun i => u (64 + 8 * i) 8)
    query := (b.drop 192).take (2 * dim), rest := b.drop (up64 (192 + 2 * dim)) }

def SearchAsk.supplied (a : SearchAsk) : Bool := a.flags.testBit 0
def SearchAsk.sharded (a : SearchAsk) : Bool := a.flags.testBit 2

/-- Bytes that the input takes. -/
def SearchAsk.inputLen (a : SearchAsk) (dim slots : Nat) : Nat :=
  if a.supplied then up64 (192 + 2 * dim) + bitmapBytes slots else 192 + 2 * dim

/-- The query block that the search program walks with: R286. `filter` is where a supplied bitmap has been placed. -/
def SearchAsk.block (a : SearchAsk) (q filter : Nat) : QBlock :=
  { q := q, flags := a.flags % 4, nEntry := a.nEntry, filt := a.filt, epoch := a.epoch, beam := a.beam, cand := a.cand, hops := a.hops, table := 0
    out := 0, vis := 0, visLines := a.visLines, filter := filter, vecs := 0, k := a.k, rsv := a.rsv || decide (7 < a.flags), entry := a.entry }

/-! ### Distances (R283, R284) -/

/-- BF16 elements of a byte string, as FP32. -/
def bfVals (b : List Byte) : List Nat := (chunksOf 2 b.length b).map (fun e => toF32 FpFmt.bf16 (leNat e))

/-- An MX tile in the BF16 pairing with an FP32 drain, one cell: ascending k, each step one rounding (R79). -/
def mxdot (a b : List Nat) : Nat := (a.zip b).foldl (fun acc p => enc32 (((dec32 p.1).mul (dec32 p.2)).add (dec32 acc))) 0

/-- The sum of squares in R98 order. -/
def sumSquares (l : List Nat) : Nat := reduceSum (l.map (fun v => fmul v v))

/-- A distance from a norm, an inner product and the query's norm: R283, R284. Every NaN is the canonical one (R97). -/
def distOf (metric vn dot qn : Nat) : Nat :=
  if metric = 0 then fadd (fsub vn (fmul 0x40000000 dot)) qn else if keyNan false dot then nan32 else Nat.xor dot 0x80000000

/-- The distance table that the search program builds. -/
def State.searchTable (s : State) (q : Nat) (qv : List Nat) : List Nat :=
  let w := s.dim q / 32
  let cs := centStride (s.dim q)
  let cb := s.idxHdr q 24 8 * 4096
  let metric := s.fld (Reg.SIDX_SHAPE q) 52 1
  (List.range 32).flatMap (fun j =>
    let part := (qv.drop (j * w)).take w
    let qn := sumSquares part
    (List.range 256).map (fun c =>
      let cent := bfVals (s.idxBytes q false (cb + (256 * j + c) * cs) (2 * w))
      let cn := leNat (s.idxBytes q false (cb + 8192 * cs + 4 * (256 * j + c)) 4)
      distOf metric cn (mxdot part cent) qn))

/-- The exact distance of a query to the vector of slot `v`. -/
def State.exactDist (s : State) (q : Nat) (qv : List Nat) (v : Nat) : Nat :=
  let b := s.idxBytes q false (s.vecAt q v) (s.vecBytes q)
  let el := (b.drop 64).take (s.vecBytes q - 64)
  let dot :=
    if s.bit (Reg.SIDX_SHAPE q) 53 then
      let qe := qv.map (fun x => FpFmt.e4m3.decode (requant 3 0x3F800000 x).out)
      LF.toF32 (lfCell (qe.zip ((el.take (s.dim q)).map (fun x => FpFmt.e4m3.decode x.toNat))) (s.dim q))
    else mxdot qv (bfVals (el.take (2 * s.dim q)))
  distOf (s.fld (Reg.SIDX_SHAPE q) 52 1) (leNat ((b.drop 8).take 4)) dot (sumSquares qv)

/-- Item `i` of the candidates as a result record: key its distance, aux its place, id its global item id. -/
def State.resultOf (s : State) (q : Nat) (qv : List Nat) (e : Nat × Cand) : Cand :=
  ⟨s.exactDist q qv e.2.id, e.1, leNat (s.idxBytes q false (s.vecAt q e.2.id) 8)⟩

/-! ### One shard's search (R290) -/

/-- What a search found on this module. -/
structure Found where
  status : Nat                 -- the walk status of R286
  cands  : List Cand
  scanned : Nat                -- DRAM lines read
  pages  : Nat                 -- flash pages read
  hurt   : Bool                -- the poison came from the index itself
  walk   : Walk
  deriving DecidableEq, Repr

/-- The walk, the exact distances and the ranking, with epoch `e` held. -/
def State.findLocal (s : State) (b : QBlock) (e : Nat) (qv : List Nat) : Found :=
  let q := b.q
  let w : Query_ := { x := { core := 0, idx := 0, gens := [], ctrs := [] }, b := b, e := e, tab := s.searchTable q qv }
  let k := w.walk s
  let vs := s.vecBytes q
  let book := s.idxLost q (s.idxHdr q 24 8 * 4096) (8192 * centStride (s.dim q) + 32768)
  let lost := k.cands.any (fun c => s.idxLost q (s.vecAt q c.id) vs)
  let bad := k.poison || lost || book
  let rs := rankAll false false b.k (((List.range k.cands.length).zip k.cands).map (s.resultOf q qv))
  { status := if bad then 4 else k.stop.getD 0, cands := if bad then [] else rs, scanned := k.lines, pages := k.reads + k.cands.length
    hurt := k.lost || lost || book, walk := k }

/-! ### A query on this module -/

/-- The query's charges: its lines and pages, and the search program's own work (R282, R290). -/
def State.chargeSearch (s : State) (p : Nat) (f : Found) : State :=
  (((s.charge p none 4 f.scanned).charge p none 5 f.pages).chargeFj p none (Config.searchEnergy s.free)).fresh

/-- The energy purse `p` has spent since it stood at `before`. -/
def State.spentSince (s : State) (p before : Nat) : Nat := (s.reg (Reg.PURSE_SPENT p)).toNat - before

/-- A query completed, with its energy in DW0 and DW1 (R360). -/
def State.searchDone (s : State) (n : NHdr) (p before sct sc : Nat) (out : List Byte) : State :=
  let e := s.spentSince p before
  s.complete n sct sc (e % 2 ^ 32) (e / 2 ^ 32) out

/-- The core whose SX the search program walks on: the group's for a sharded query, else the lowest of the partition's, where it has one. -/
def State.searchCore (s : State) (a : SearchAsk) (p : Nat) : Option Nat :=
  if a.sharded then some (s.fld (Reg.GIRTH_GROUP a.group) 51 5) else (s.partCores p).head?

/-- A query run here at epoch `e`, held: its charges, what its walk moves in SX, and the fault of an index it found damaged (R289, R300, R302). -/
def State.ranHere (s : State) (a : SearchAsk) (q : Nat) (f : Found) : State :=
  let p := s.fld (Reg.SIDX_STATE q) 1 3
  let s := s.chargeSearch p f
  let s := match s.searchCore a p with
    | some c => let s := s.countWalk c 0 q f.walk; if f.status = 4 then s.coreFault c .sx 1 0 (q * 2 ^ 8) else s
    | none => s
  if f.hurt then s.raise .sidx 0 (q * 2 ^ 8) else s

/-- The query run at epoch `e` and its results returned. -/
def State.runSearch (s : State) (n : NHdr) (a : SearchAsk) (b : QBlock) (e : Nat) : State :=
  let p := s.fld (Reg.SIDX_STATE b.q) 1 3
  let before := (s.reg (Reg.PURSE_SPENT p)).toNat
  let f := s.findLocal b e (bfVals a.query)
  let s := s.ranHere a b.q f
  if f.status = 4 then s.searchDone n p before 7 0xC3 (searchOut e 4 [])
  else s.searchDone n p before 0 0 (searchOut e f.status f.cands)

/-! ### Sharded searches (R298, R299) -/

/-- This module's part in a sharded search entered, `n` the command it coordinates: its instance of the group's collectives (R390), and the
epoch bound where it holds it (R293). -/
def State.enterAsk (s : State) (n : Option NHdr) (a : SearchAsk) (q e spent walk : Nat) (bound : Bool) : Ask × State :=
  let inst := sget 0 s.girth.instNo a.group
  let k : Ask := ⟨a.group, inst, n, [], q, e, bound, a.k, walk, spent⟩
  let s := { s with girth := { s.girth with instNo := sput 0 s.girth.instNo a.group (inst + 1) }
                    search := { s.search with asks := s.search.asks ++ [k] } }
  (k, if bound then s.bindEpoch q e else s)

/-- The lines of a query on their way to the other members. The spec gives them no form; the model's own is a line that holds the index number,
then the input of the Search command. -/
def queryLines (q len : Nat) (buf : List Byte) : MarkedLines :=
  (chunksOf 64 (2 + len / 64) (fitTo 64 0 [BitVec.ofNat 8 q] ++ buf.take len)).map (fun l => (fitTo 64 0 l, false))

/-- A sharded query run here and sent to every other member, whose lists the CLEAR brings together (R298). -/
def State.runShards (s : State) (n : NHdr) (a : SearchAsk) (b : QBlock) (e : Nat) (buf : List Byte) : State :=
  let q := b.q
  let p := s.fld (Reg.SIDX_STATE q) 1 3
  let c := s.fld (Reg.GIRTH_GROUP a.group) 51 5
  let before := (s.reg (Reg.PURSE_SPENT p)).toNat
  let f := s.findLocal b e (bfVals a.query)
  let s := s.ranHere a q f
  let r := s.enterAsk (some n) a q e (s.spentSince p before) f.status true
  let ls := queryLines q (a.inputLen (s.dim q) (s.slots q)) buf
  let s := State.each ((s.groupMembers a.group).filter (· != s.me)) (State.putQuery a.group r.1.inst c p (some n) ls) r.2
  s.joinAsk r.1 c p f.cands (f.status == 4)

/-- A query that a peer has put at this module's place for them, run on its own shard (R298). False where this module refuses it: its list in
the CLEAR is then empty. A filter that came with the query is read where it landed. -/
def State.shardArrives (s : State) (at_ len part : Nat) : Bool × State :=
  let bytes := (List.range len).map (fun i => match s.tier (at_ + i) with
    | .sram c o => s.sramByte c o
    | _ => memByte s.mem (at_ + i))
  let q := (bytes.headD 0).toNat
  let a := SearchAsk.ofBytes (bytes.drop 64) (s.dim q)
  let filter := at_ + 64 + up64 (192 + 2 * s.dim q)
  let b := a.block q filter
  let g := a.group
  if !a.sharded || !s.inSet || !s.bit (Reg.GIRTH_GROUP g) 0 || (s.groupIndex g).isNone || a.k == 0 then (false, s)
  else
    let c := s.fld (Reg.GIRTH_GROUP g) 51 5
    let bad := decide (len < 64 + a.inputLen (s.dim q) (s.slots q)) || b.rsv || b.bad s part || !s.holds q a.epoch
    let f : Found := if bad then ⟨3, [], 0, 0, false, {}⟩ else s.findLocal b a.epoch (bfVals a.query)
    let s := if bad then s else s.ranHere a q f
    let r := s.enterAsk none a q a.epoch 0 f.status (!bad)
    (!bad, r.2.joinAsk r.1 c part f.cands (f.status == 4))

/-! ### The command -/

/-- A supplied filter put into the index partition's program memory: its address, where there is room. -/
def State.placeFilter (s : State) (a : SearchAsk) (q : Nat) : Option (Nat × State) :=
  if !a.supplied then some (0, s)
  else
    let z := bitmapBytes (s.slots q)
    match s.findPlace (s.fld (Reg.SIDX_STATE q) 1 3) z with
    | none => none
    | some m => some (m, ((s.dramWrite m (a.rest.take z)).chargeHouse 4 (z / 64)).fresh)

/-- Search. -/
def State.searchIdx (s : State) (n : NHdr) (id q : Nat) (buf : List Byte) : State :=
  let a := SearchAsk.ofBytes buf (s.dim q)
  let ms := s.groupMembers a.group
  let p := s.fld (Reg.SIDX_STATE q) 1 3
  let len := max (a.inputLen (s.dim q) (s.slots q)) (64 + 16 * a.k)
  let grp := a.sharded && (a.epoch == 0xFFFFFFFF || !s.bit (Reg.GIRTH_GROUP a.group) 0 || !ms.contains s.me)
  s.onIndex n id q (decide (buf.length < len) || grp || (a.block q dramBase).rsv) (fun s =>
    match s.placeFilter a q with
    | none => s.vendor n 0xD1
    | some m =>
      let b := a.block q m.1
      let e := if a.epoch = 0xFFFFFFFF then s.epoch q else a.epoch
      if b.bad m.2 p then s.badField n
      else if a.sharded && !s.setComplete then s.complete n 7 0xC1 0 0 (searchOut 0 0 [])
      else if !m.2.holds q e then m.2.complete n 7 0xCC 0 0 (searchOut e 3 [])
      else if a.sharded then m.2.runShards n a b e buf
      else m.2.runSearch n a b e)

end Sys2Proof.Machine
end

