-- ==== Sys2Proof/Machine/HostJobs.lean ====
section
/-! DEFINITION. Machine/HostJobs.lean: Wenmel images and jobs as the host commands them (R185 to R187, R361, R398, R403, R448). -/

namespace Sys2Proof.Machine

open Sys2Proof

/-! ### Images (R185, R186) -/

/-- The header of a Wenmel image. -/
structure Image where
  flags  : Nat
  code   : Nat          -- instructions
  steps  : Nat
  ncores : Nat
  dataLen : Nat
  deriving DecidableEq, Repr

/-- The little-endian field of `n` bytes at `o`. -/
def fieldAt (b : List Byte) (o n : Nat) : Nat := leNat ((b.drop o).take n)

def Image.ofBytes (b : List Byte) : Image :=
  { flags := fieldAt b 6 2, code := fieldAt b 8 4, steps := fieldAt b 12 2, ncores := fieldAt b 14 2, dataLen := fieldAt b 16 8 }

/-- Where the code begins in the image, and where the data section does. -/
def Image.codeAt (m : Image) : Nat := 64 + 16 * m.steps
def Image.dataAt (m : Image) : Nat := up64 (m.codeAt + 16 * m.code)

/-- The step table: entry index and declared energy of each step. -/
def Image.table (m : Image) (b : List Byte) : List (Nat × Nat) :=
  (List.range m.steps).map (fun i => (fieldAt b (64 + 16 * i) 4, fieldAt b (72 + 16 * i) 8))

/-- Whether the stewards refuse an image: R186. -/
def State.imageBad (s : State) (b : List Byte) : Bool :=
  let m := Image.ofBytes b
  fieldAt b 0 4 != 0x4C4D4E57 || fieldAt b 4 2 != 1 || decide (7 < m.flags) ||
  m.code == 0 || decide (262144 < m.code) || m.steps == 0 || decide (256 < m.steps) || m.ncores == 0 || decide (32 < m.ncores) ||
  decide (1073741824 < m.dataLen) || ((b.drop 24).take 40).any (· != 0) ||
  decide (b.length < (if m.dataLen = 0 then m.codeAt + 16 * m.code else m.dataAt + m.dataLen)) ||
  (m.table b).any (fun e => decide (m.code ≤ e.1)) ||
  (List.range m.steps).any (fun i => fieldAt b (68 + 16 * i) 4 != 0) ||
  decide (s.coreCount < m.ncores) || (s.fusedOff && m.flags % 4 != 0)

/-! ### Load Program and activation (R187, R345, R448) -/

/-- A loaded program. -/
def State.program? (s : State) (id index : Nat) : Option Program := s.programs.find? (fun p => p.nsid == id && p.index == index)

/-- A program's regions given back. -/
def State.unload (s : State) (id index : Nat) : State :=
  let s := (s.dropPlace .code (progKey id index)).dropPlace .data (progKey id index)
  { s with programs := s.programs.filter (fun p => !(p.nsid == id && p.index == index)) }

/-- Every core's instruction cache emptied: R167, R187. -/
def State.dropCaches (s : State) : State :=
  State.each ((s.cores.filter (fun e => !e.2.icache.isEmpty)).map Prod.fst) (fun c s => s.modCore c (fun k => { k with icache := [] })) s

/-- A refused image: nothing is kept, and the index remembers the refusal. -/
def State.refuseImage (s : State) (n : NHdr) (id index : Nat) : State :=
  let bad : List (Nat × Nat) := (id, index) :: s.host.refusedImg.filter (fun e => e != (id, index))
  let s := { s with host := { s.host with refusedImg := bad } }
  s.vendor n 0xC4

/-- An accepted image measured, its code and data copied, the program entered. -/
def State.keepImage (s : State) (n : NHdr) (id index p base : Nat) (b : List Byte) : State :=
  let m := Image.ofBytes b
  let code := up64 (16 * m.code)
  let s := s.extend (16 + p) (sha3_512 b) p index id
  let s := (s.takePlace p base code .code (progKey id index)).takePlace p (base + code) m.dataLen .data (progKey id index)
  let s := s.dramWrite base ((b.drop m.codeAt).take (16 * m.code))
  let s := s.dramWrite (base + code) ((b.drop m.dataAt).take m.dataLen)
  let s := s.chargeHouse 4 (linesOver base (code + m.dataLen))
  let g : Program := ⟨id, index, p, base, m.code, base + code, m.dataLen, m.ncores, m.flags, m.table b, false⟩
  let s := { s with
    programs := s.programs ++ [g]
    host := { s.host with refusedImg := s.host.refusedImg.filter (fun e => e != (id, index)) } }
  s.dropCaches.ok n

/-- Load Program. An empty image unloads the program at the index; an index whose program a job uses keeps it. -/
def State.loadImage (s : State) (n : NHdr) (id index ptype : Nat) (b : List Byte) : State :=
  match s.ns? id with
  | none => s.badNs n
  | some v =>
    if v.kind ≠ 5 then s.badOpcode n
    else if s.jobs.any (fun j => j.prog.nsid == id && j.prog.index == index) then s.badField n
    else if b.isEmpty then (s.unload id index).ok n
    else if ptype ≠ 0xC1 then s.badField n
    else if s.imageBad b then s.refuseImage n id index
    else
      let t := s.unload id index
      let m := Image.ofBytes b
      match t.findPlace v.part (up64 (16 * m.code) + m.dataLen) with
      | none => s.vendor n 0xD1
      | some base =>
        if 512 ≤ s.guard.log.length then (s.raise .guard 5).refuseImage n id index
        else t.keepImage n id index v.part base b

/-- Program Activation Management. -/
def State.activate (s : State) (n : NHdr) (id index : Nat) (on : Bool) : State :=
  match s.program? id index with
  | none => s.badField n
  | some _ =>
    let ps := s.programs.map (fun p => if p.nsid == id && p.index == index then { p with active := on } else p)
    { s with programs := ps }.ok n

/-! ### Execute Program (R361) -/

/-- The job header. -/
structure JobHdr where
  part   : Nat
  flags  : Nat
  rings  : Nat
  seed   : Word
  argLen : Nat
  rsv    : Bool
  deriving DecidableEq, Repr

def JobHdr.ofBytes (b : List Byte) : JobHdr :=
  { part := fieldAt b 0 1, flags := fieldAt b 1 1, rings := fieldAt b 2 1, seed := BitVec.ofNat 64 (fieldAt b 8 8), argLen := fieldAt b 16 4
    rsv := ((b.drop 3).take 5 ++ (b.drop 20).take 44).any (· != 0) }

/-- Bytes of a block table of a serving job's request: an entry for every position of the largest request and its drafts. -/
def tabBytes : Nat := 65600

/-- Where a serving job's batch table begins behind its arguments, its report behind that, and its block tables last. -/
def batchAt (argLen : Nat) : Nat := up64 argLen
def reportAt (argLen : Nat) : Nat := batchAt argLen + 64 + 65536
def tablesAt (argLen : Nat) : Nat := reportAt argLen + 16384

/-- Bytes of a job's argument region. -/
def JobHdr.region (h : JobHdr) : Nat :=
  if h.flags.testBit 0 then tablesAt h.argLen + 2048 * tabBytes else if h.rings = 0 then h.argLen else max h.argLen 64

/-- Whether a frame ring cannot be bound to a new job of partition `p` whose program has `steps` steps. -/
def State.ringTaken (s : State) (p steps r : Nat) : Bool :=
  !s.bit (Reg.FRM_CTL r) 0 || s.fld (Reg.FRM_CTL r) 1 3 != p || (s.fring r).job.isSome || decide (steps ≤ s.fld (Reg.FRM_CTL r) 32 8)

/-- A job accepted: its argument region filled, its rings bound, itself waiting for its cores. -/
def State.startJob (s : State) (n : NHdr) (g : Program) (h : JobHdr) (base : Nat) (args : List Byte) : State :=
  let s := s.takePlace g.part base h.region .args (jobKey n)
  let s := (s.dramWrite base args).chargeHouse 4 (linesOver base args.length)
  let s := State.each (bitsOf 8 h.rings) (fun r s => s.setFring r { s.fring r with job := some n }) s
  { s with jobs := s.jobs ++
      [{ n := n, part := g.part, prog := g, serving := h.flags.testBit 0, rings := h.rings, seed := h.seed, argBase := base, argLen := h.argLen }] }

/-- Execute Program. -/
def State.execute (s : State) (n : NHdr) (id index : Nat) (b : List Byte) : State :=
  match s.ns? id with
  | none => s.badNs n
  | some v =>
    if v.kind ≠ 5 then s.badOpcode n
    else if s.host.refusedImg.contains (id, index) then s.vendor n 0xC4
    else
      match s.program? id index with
      | none => s.badField n
      | some g =>
        let h := JobHdr.ofBytes b
        let p := s.namedPart n h.part
        let steps := g.steps.length
        if !g.active || p != g.part || h.rsv || decide (1 < h.flags) || decide (b.length < 64 + h.argLen) then s.badField n
        else if !s.bit (Reg.SCHED_PART p) 0 || decide ((s.partCores p).length < g.ncores) || (s.job? n).isSome then s.badField n
        else if (bitsOf 8 h.rings).any (s.ringTaken p steps) then s.badField n
        else
          match s.findPlace p h.region with
          | none => s.vendor n 0xD1
          | some base => s.startJob n g h base ((b.drop 64).take h.argLen)

end Sys2Proof.Machine
end

