-- ==== Sys2Proof/Machine/HostServe.lean ====
section
/-! DEFINITION. Machine/HostServe.lean: serving requests from submission to their end, overlays, and frames (R250 to R275, R356, R359). -/

namespace Sys2Proof.Machine

open Sys2Proof

/-! ### Submit Request (R251, R267) -/

/-- A request block as a request of job `j`. -/
def Request.ofBlock (n : NHdr) (j : Job) (b : List Byte) : Request :=
  let u := fieldAt b
  { n := n, job := j.n, tag := BitVec.ofNat 32 (u 0 4), variant := u 4 2, mainPool := u 6 1, draftPool := u 7 1, promptLen := u 8 4, maxNew := u 12 4
    seed := BitVec.ofNat 64 (u 16 8), invTemp := BitVec.ofNat 32 (u 24 4), draftLen := u 28 1, window := u 29 1, floor := u 30 1, flags := u 31 1
    retryAfter := u 32 2, endToken := BitVec.ofNat 32 (u 36 4), tokens := u 40 8 }

/-- Whether pool `q` is enabled for partition `p`. -/
def State.poolFor (s : State) (q p : Nat) : Bool := decide (q < 16) && s.poolOn q && s.fld (Reg.SRV_POOL q) 1 3 == p

/-- What R251 refuses. -/
def State.reqBad (s : State) (j : Job) (r : Request) (b : List Byte) : Bool :=
  decide (1023 < r.variant) || r.promptLen == 0 || decide (1048575 < r.promptLen) || r.maxNew == 0 || decide (1048575 < r.maxNew) ||
  decide (1048576 < r.promptLen + r.maxNew) || decide (16 < r.draftLen) || r.window == 0 || decide (3 < r.flags) ||
  fieldAt b 34 2 != 0 || ((b.drop 48).take 16).any (· != 0) || decide (b.length < 64) ||
  (decide (0 < r.draftLen) && r.draftPool == 255) || !s.poolFor r.mainPool j.part || (r.draftPool != 255 && !s.poolFor r.draftPool j.part) ||
  !s.progMem j.part r.tokens (4 * (r.promptLen + r.maxNew)) || (s.reqsOf j.n).any (fun q => q.tag == r.tag)

/-- Blocks that hold `n` positions. -/
def blocksFor (n : Nat) : Nat := (n + 63) / 64

/-- Submit Request. -/
def State.submit (s : State) (n : NHdr) (job : CmdRef) (b : List Byte) : State :=
  match s.job? ⟨n.ctrl, job.sqid, job.cid⟩ with
  | none => s.badField n
  | some j =>
    let r := Request.ofBlock n j b
    if !j.serving then s.badField n
    else if s.reqBad j r b then s.vendor n 0xC5
    else if s.poolBlocks r.mainPool < blocksFor r.promptLen then s.vendor n 0xC8
    else { s with serving := { s.serving with reqs := s.serving.reqs ++ [r] } }

/-- A request with its confirmed prefix blocks, in both pools: R259. -/
def State.lookupPrefix (s : State) (r : Request) : Request × State :=
  let most := (r.promptLen - 1) / 64
  let m := State.confirm r r.mainPool most 0 0 none s
  let d := if r.draftLen = 0 ∨ r.draftPool = 255 then ([], m.2) else State.confirm r r.draftPool most 0 0 none m.2
  ({ r with admitted := true, mblks := m.1, dblks := d.1, p := 64 * m.1.length, pd := 64 * d.1.length, confirmed := m.1.length }, d.2)

/-- The first request of a job that awaits admission, if its prompt's blocks can be allocated, admitted: R259, R267. -/
def State.admitOne (n : NHdr) (s : State) : State :=
  match (s.reqsOf n).find? (fun r => !r.admitted) with
  | none => s
  | some r =>
    let a := s.lookupPrefix r
    if a.2.canAlloc r.mainPool (blocksFor r.promptLen - a.1.mblks.length) then a.2.modReq r.n (fun _ => a.1) else s

/-- Serving jobs of partition `p`. -/
def State.servingJobs (s : State) (p : Nat) : List NHdr := (s.jobs.filter (fun j => j.part == p && j.serving)).map Job.n

/-- REQUEST_ADMIT: one request of each serving job of the partition considered. -/
def State.requestAdmit (s : State) (p : Nat) : State := State.each (s.servingJobs p) State.admitOne s

/-! ### Step entry (R252, R256, R265 to R268) -/

/-- Draft tokens of a speculative step. -/
def Request.draftNow (r : Request) : Nat := if r.emitted = 0 ∨ !r.spec then 0 else min r.draftLen (r.maxNew - r.emitted - 1)

/-- A request planned for a step in a mode with `d` draft tokens: its blocks are allocated, or none is. -/
def State.planReq (s : State) (r : Request) (mode d : Nat) : Option (Request × State) :=
  let p := if mode = 0 then r.promptLen - 1 else r.p
  match State.growTo r.mainPool p (p + d) 16400 r.mblks s with
  | none => none
  | some m =>
    if mode = 2 then
      match State.growTo r.draftPool p (p + d - 1) 16400 r.dblks m.2 with
      | none => none
      | some g => some ({ r with mblks := m.1, dblks := g.1, mode := 2, d := d, inStep := true }, g.2)
    else some ({ r with mblks := m.1, mode := mode, d := 0, inStep := true }, m.2)

/-- A request's part in the next step: its mode, the plainer mode where drafts find no blocks, or none. -/
def State.joinStep (s : State) (r : Request) : State :=
  let d := r.draftNow
  let mode := if r.emitted = 0 then 0 else if 0 < d then 2 else 1
  let plan := match s.planReq r mode d with
    | some x => some x
    | none => if mode = 2 then s.planReq r 1 0 else none
  match plan with
  | some x => x.2.modReq r.n (fun _ => x.1)
  | none => (s.modReq r.n (fun r => { r with inStep := false })).addReg (Reg.SRV_BLOCK_WAIT r.mainPool) 1

/-- Positions the main model computes for a request: R252. -/
def Request.rows (r : Request) : Nat := if r.mode = 0 then r.promptLen - r.p else r.d + 1

/-- A batch entry: R252. -/
def Request.entry (r : Request) (mtab dtab : Nat) : List Byte :=
  leBytes 4 r.tag.toNat ++ leBytes 2 r.variant ++ leBytes 1 r.mode ++ leBytes 1 r.d ++ leBytes 4 r.p ++ leBytes 4 r.rows ++ leBytes 8 r.tokens ++
  leBytes 8 mtab ++ leBytes 8 (if r.mode = 2 then dtab else 0) ++ leBytes 8 r.seed.toNat ++ leBytes 4 r.invTemp.toNat ++ leBytes 4 r.endToken.toNat ++
  leBytes 4 r.pd ++ leBytes 1 r.flags ++ [0, 0, 0]

/-- The batch table of a job's step, with its block tables, written by the stewards; each request of it takes its entry's place. -/
def State.writeBatch (s : State) (j : Job) : State :=
  let rs := (s.reqsOf j.n).filter (fun r => r.inStep)
  let s := State.each ((List.range rs.length).zip rs) (fun e s => s.modReq e.2.n (fun r => { r with seat := e.1 })) s
  let s := s.modJob j.n (fun k => { k with batch := rs.length })
  let at_ := fun i k => j.argBase + tablesAt j.argLen + (2 * i + k) * tabBytes
  let es := (List.range rs.length).zip rs
  let head := leBytes 4 rs.length ++ leBytes 4 0 ++ leBytes 8 j.stepNo ++ leBytes 8 (j.argBase + reportAt j.argLen) ++ List.replicate 40 0
  let bytes := head ++ es.flatMap (fun e => e.2.entry (at_ e.1 0) (at_ e.1 1))
  let s := (s.dramWrite (j.argBase + batchAt j.argLen) bytes).chargeHouse 4 (linesOver 0 bytes.length)
  State.each es (fun e s =>
    let tab := fun (l : List Nat) => l.flatMap (leBytes 4)
    let s := s.dramWrite (at_ e.1 0) (tab e.2.mblks)
    let s := if e.2.mode = 2 then s.dramWrite (at_ e.1 1) (tab e.2.dblks) else s
    s.chargeHouse 4 (linesOver 0 (4 * e.2.mblks.length) + (if e.2.mode = 2 then linesOver 0 (4 * e.2.dblks.length) else 0))) s

/-- A serving job's next step: its batch formed in admission order, its table written, the step queued. With no admitted request nothing happens.
Where none can run the table has no entry, the batch stalls, and the job waits until a request ends (R267); no step is queued for it. -/
def State.enterServing (n : NHdr) (s : State) : State :=
  match s.job? n with
  | none => s
  | some j =>
    let live := ((s.reqsOf n).filter (fun r => r.admitted)).take 1024
    if j.phase ≠ .needEntry ∨ live.isEmpty ∨ j.stalled then s
    else
      let s := (State.each live (fun r s => s.joinStep r) s).writeBatch j
      if (s.reqsOf n).any (fun r => r.inStep) then
        (s.modJob n (fun j => { j with step := 0, stepNo := j.stepNo + 1 })).queueStep n
      else (s.modJob n (fun j => { j with stalled := true })).raise .srv 4

/-- SERVING_STEP_ENTRY. -/
def State.servingEntry (s : State) (p : Nat) : State := State.each (s.servingJobs p) State.enterServing s

/-! ### Step end (R253, R257, R262, R265, R268) -/

/-- A step report entry: R253. -/
structure Report where
  tag : Nat
  emitted : Nat
  acc : Nat
  fin : Nat
  rsv : Bool
  deriving DecidableEq, Repr

def Report.ofBytes (b : List Byte) : Report :=
  { tag := fieldAt b 0 4, emitted := fieldAt b 4 2, acc := fieldAt b 6 2, fin := fieldAt b 8 1, rsv := (b.drop 9).any (· != 0) }

/-- Whether an entry is valid for a request. -/
def Report.ok (e : Report) (r : Request) : Bool :=
  e.tag == r.tag.toNat && (if r.mode = 2 then decide (e.acc ≤ r.d) && e.emitted == e.acc + 1 else e.emitted == 1)

/-- The acceptance window after a verification step, and the switch to plain decoding: R268. -/
def Request.verified (r : Request) (a : Nat) : Request × Bool :=
  let h : List (Nat × Nat) := ((r.d, a) :: r.hist).take r.window
  let sd : Nat := h.foldl (fun n e => n + e.1) 0
  let sa : Nat := h.foldl (fun n e => n + e.2) 0
  let r := { r with verif := r.verif + 1, sumD := r.sumD + r.d, sumA := r.sumA + a }
  if h.length = r.window ∧ 256 * sa < r.floor * sd then ({ r with hist := [], spec := false, plain := 0, switches := r.switches + 1 }, true)
  else ({ r with hist := h }, false)

/-- A plain step of a request that has switched: speculation resumes after retry_after of them. -/
def Request.plainStep (r : Request) : Request :=
  if r.spec || r.draftLen == 0 then r
  else if r.retryAfter ≠ 0 ∧ r.retryAfter ≤ r.plain + 1 then { r with spec := true, plain := 0, hist := [] }
  else { r with plain := r.plain + 1 }

/-- A valid entry committed: rows, blocks, window, and the request's end. -/
def State.commitReq (s : State) (r : Request) (e : Report) : State :=
  let a := if r.mode = 2 then e.acc else 0
  let upTo := if r.mode = 0 then r.promptLen - 1 else r.p + a
  let m := State.commitRows r r.mainPool upTo 0 [] r.mblks s
  let dUp := min upTo (r.p + r.d - 1)
  let d := if r.mode = 2 then State.commitRows r r.draftPool dUp 0 [] r.dblks m.2 else (r.dblks, m.2)
  let w := if r.mode = 2 then r.verified a else if r.mode = 1 then (r.plainStep, false) else (r, false)
  let r := { w.1 with mblks := m.1, dblks := d.1, p := upTo + 1, pd := if r.mode = 2 then dUp + 1 else r.pd
                      emitted := r.emitted + e.emitted, inStep := false }
  let s := d.2.modReq r.n (fun _ => r)
  let s := if w.2 then s.addReg Reg.SRV_SPEC_SWITCH 1 else s
  if e.fin % 2 = 1 ∨ r.maxNew ≤ r.emitted then s.endReq r 0 0 0 else s

/-- A request that is to pause or to be aborted ends. -/
def State.stopReq (s : State) (r : Request) : State := if r.stop = 1 then s.endReq r 1 0 0 else s.endReq r 2 0 7

/-- One request at the step's end with its report entry. -/
def State.settleReq (p : List Byte × Request) (s : State) : State :=
  let r := p.2
  let e := Report.ofBytes p.1
  if r.stop ≠ 0 then s.stopReq r
  else if e.ok r then s.commitReq r e
  else (s.raise .srv 3).endReq r 3 7 0xC6

/-- The end of a serving job's step: its report read, its requests settled in order, then the job ready for its next entry. -/
def State.leaveServing (n : NHdr) (s : State) : State :=
  match s.job? n with
  | none => s
  | some j =>
    if j.phase ≠ .ended then s
    else
      let rs := (s.reqsOf n).filter (fun r => r.inStep)
      let at_ := j.argBase + reportAt j.argLen
      let s := s.chargeHouse 4 (linesOver 0 (16 * j.batch))
      let s := State.each (rs.map (fun r => (s.dramRead (at_ + 16 * r.seat) 16, r))) State.settleReq s
      let s := State.each ((s.reqsOf n).filter (fun r => r.stop != 0)) (fun r s => s.stopReq r) s
      s.modJob n (fun j => { j with phase := .needEntry })

/-- Source 160 + p falls once no job of the partition awaits the stewards: R412. -/
def State.stepLevel (s : State) (p : Nat) : State :=
  if s.srcLevel (160 + p) && !s.jobs.any (fun j => j.part == p && j.phase == .ended) then s.unfire (160 + p) else s

/-- SERVING_STEP_END. -/
def State.servingEnd (s : State) (p : Nat) : State := (State.each (s.servingJobs p) State.leaveServing s).stepLevel p

/-! ### Pause Request (R262) -/

/-- A request told to stop: at its next step end (R257). DEDUCED: at once where it is not admitted yet (R363), and where its job's batch has stalled,
which only the end of a request can end (R267). -/
def State.tellStop (s : State) (r : Request) (how : Nat) : State :=
  let stuck := match s.job? r.job with
    | some j => j.stalled
    | none => true
  if !r.admitted || stuck then s.stopReq { r with stop := how } else s.modReq r.n (fun r => { r with stop := how })

/-- Pause Request completes at once. -/
def State.pause (s : State) (n : NHdr) (ref : CmdRef) : State :=
  match s.serving.reqs.find? (fun r => r.n == ⟨n.ctrl, ref.sqid, ref.cid⟩) with
  | none => s.badField n
  | some r => (if r.stop = 0 then s.tellStop r 1 else s).ok n

/-! ### Set Overlay (R263, R264) -/

/-- Whether an overlay record has a reserved value. -/
def overlayBad (b : List Byte) : Bool :=
  let fmt := fieldAt b 2 1
  decide (2 < fieldAt b 0 2) || decide (1 < fmt) || fieldAt b 3 1 != 0 || decide ((if fmt = 0 then 4064 else 8128) < fieldAt b 4 4) ||
  ((b.drop 16).take 48).any (· != 0)

/-- Set Overlay: the variant's records published whole. -/
def State.overlay (s : State) (n : NHdr) (id : Nat) (part variant layer0 : Nat) (data : List Byte) (rsv : Bool) : State :=
  match s.ns? id with
  | none => s.badNs n
  | some v =>
    let p := s.namedPart n part
    let k := data.length / 8192
    if v.kind ≠ 5 then s.badOpcode n
    else if rsv || data.length % 8192 != 0 || k == 0 || decide (511 < k) || !s.bit (Reg.SRV_OVL p) 0 || variant == 0 ||
        decide (s.fld (Reg.SRV_OVL p) 1 10 < variant) || decide (s.fld (Reg.SRV_OVL p) 11 8 < layer0 + k) ||
        (chunksOf 8192 data.length data).any overlayBad then s.badField n
    else if s.serving.reqs.any (fun r => r.variant == variant && (s.job? r.job).any (fun j => j.part == p)) then s.vendor n 0xC9
    else
      let a := s.fld (Reg.SRV_OVL_BASE p) 0 48 + ((variant - 1) * s.fld (Reg.SRV_OVL p) 11 8 + layer0) * 8192
      ((s.dramWrite a data).chargeHouse 4 (linesOver a data.length)).ok n

/-! ### Frames (R271 to R275) -/

/-- A Frame Start refused: R271. -/
def State.refuseFrame (s : State) (n : NHdr) (r : Nat) : State :=
  let k := s.fld (Reg.FRM_STATUS r) 32 32
  (s.setFld (Reg.FRM_STATUS r) 32 32 (min (2 ^ 32 - 1) (k + 1))).vendor n 0xCA

/-- Frame Start. -/
def State.frameStart (s : State) (n : NHdr) (id r slot : Nat) (frame : Word) (rsv : Bool) : State :=
  match s.ns? id with
  | none => s.badNs n
  | some ns =>
    let v := s.fring r
    if ns.kind ≠ 5 then s.badOpcode n
    else if rsv then s.badField n
    else if !s.bit (Reg.FRM_CTL r) 0 || v.job.isNone || decide (16 ≤ v.pend.length) || v.pend.any (fun f => f.slot == slot) ||
        v.run.any (fun f => f.slot == slot) then s.refuseFrame n r
    else if s.fld (Reg.FRM_CTL r) 4 8 ≤ slot then s.badField n
    else s.setFring r { v with pend := v.pend ++ [{ n := n, slot := slot, frame := frame }] }

/-- A frame boundary: the next pending frame of an enabled ring that runs none is accepted, and the fields of frame scope become live (R272). Its
step follows once the job awaits an entry. -/
def State.frameAccept (s : State) (r : Nat) : State :=
  let v := s.fring r
  match v.run, v.pend, v.job.bind s.job? with
  | none, f :: rest, some j =>
    if s.bit (Reg.FRM_CTL r) 0 = false ∨ j.phase = .dying then s
    else
      let s := s.takeAll [Reg.FRM_BOUND r, Reg.FRM_PARAM r]
      let s := s.setFring r { v with pend := rest, run := some f, param := s.reg (Reg.FRM_PARAM r), bound := s.fld (Reg.FRM_BOUND r) 0 48 }
      let s := s.setFld (Reg.FRM_STATUS r) 16 8 f.slot
      (s.modJob j.n (fun k => { k with frames := k.frames ++ [r] })).enterFrame j.n
  | _, _, _ => s

/-- A frame's step has ended: its count checked, its command completed (R275), and the job enters the next frame accepted. -/
def State.frameComplete (s : State) (r mclk : Nat) : State :=
  let v := s.fring r
  match v.run, v.job.bind s.job? with
  | some f, some j =>
    if j.phase ≠ .ended ∨ j.frames.head? ≠ some r then s
    else
      let s := (s.setReg (Reg.FRM_LAST r) (BitVec.ofNat 64 mclk)).addReg (Reg.FRM_DONE r) 1
      let s := if v.bound ≠ 0 ∧ v.bound < mclk then (s.addReg (Reg.FRM_OVERRUN r) 1).raise .srv 5 (r * 2 ^ 8) else s
      let s := (s.completeUj f.n (0, 0) (f.energy j)).setFring r { v with run := none }
      let s := (s.modJob j.n (fun k => { k with phase := .needEntry, frames := k.frames.drop 1 })).stepLevel j.part
      (s.enterFrame j.n).framesOver j.n
  | _, _ => s

/-! ### Writes into a slot that is the device's (R273) -/

/-- The ring whose running frame's slot a byte run meets. -/
def State.busySlot? (s : State) (a n : Nat) : Option Nat :=
  (List.range 8).find? (fun r =>
    match (s.fring r).run with
    | some f => let b := s.frameSlot r f.slot; decide (a < b + s.fld (Reg.FRM_CTL r) 12 20 * 4096) && decide (b < a + n)
    | none => false)

/-- A host write through a memory range: what meets a busy slot is ignored and counted (R273); what meets a code region, an index's copies or an
overlay region is dropped as a violation of R137 (R187, R264, R282). Each counts once for the command. -/
def State.hostDram (s : State) (a : Nat) (bs : List Byte) : State :=
  let ps := linePieces (bs.length + 1) a bs
  let t := State.each (ps.filter (fun p => (s.busySlot? p.1 p.2.length).isNone && !s.readOnly p.1 p.2.length)) (State.dramPiece false) s
  let t := match ps.find? (fun p => s.readOnly p.1 p.2.length) with
    | some p => (if s.inOverlay p.1 p.2.length then t.overlayViolate else t).memViolation p.1 |>.countViolation
    | none => t
  match ps.findSome? (fun p => s.busySlot? p.1 p.2.length) with
  | some r => ((t.raise .srv 2 (r * 2 ^ 8)).addReg Reg.SRV_VIOL_COUNT 1).countViolation
  | none => t

/-- SLM Memory Write. -/
def State.memWrite (s : State) (n : NHdr) (id off : Nat) (data : List Byte) : State :=
  s.slm n id off data.length (fun a => ((s.hostDram a data).chargeHost n 4 (linesOver a data.length)).ok n)

/-- SLM Memory Copy. -/
def State.memCopy (s : State) (n : NHdr) (dst doff src soff len : Nat) : State :=
  s.slm n dst doff len (fun d => s.slm n src soff len (fun a =>
    let m := s.cleanRun a len
    let s := (s.hostDram d (s.dramRead a m)).chargeHost n 4 (linesOver a len + linesOver d m)
    if m = len then s.ok n else s.vendor n 0xC3))

end Sys2Proof.Machine
end

