-- ==== Sys2Proof/Machine/HostCtrl.lean ====
section
/-! DEFINITION. Machine/HostCtrl.lean: commands cancelled (R363, R459) and controllers, functions and ports reset (R459, R460). -/

namespace Sys2Proof.Machine

open Sys2Proof

/-! ### A frame's step cancelled -/

/-- A job's step given up while the job stays: its FIFO entries leave, its reservation returns, its cores are emptied and stay its own. -/
def State.dropStep (s : State) (j : Job) : State :=
  let mine := fun (e : FifoEntry) => match e with
    | .step n _ => n == j.n
    | .pres n _ _ _ => n == some j.n
  let s := s.setFifo j.part ((s.fifoOf j.part).filter (fun e => !mine e))
  let away := j.phase == .out || j.phase == .loading
  let s :=
    if away then
      { s with saved := s.saved.map (fun v =>
          if v.job == j.n then
            { v with saved :=
              { v.saved with
                  run := .idle, held := none, levels := [], queue := [], ended := false, busy := [], streams := [], lace := [], filled := 0
                  draining := 0 } }
          else v) }
    else State.each j.cores (fun c s => (s.freeCore c).modCore c (fun k => { k with job := some j.n })) s
  let s := (s.release j.n).modJob j.n (fun k =>
    if k.phase = .out ∨ k.phase = .loading ∨ k.phase = .stopping then { k with back := .needEntry } else { k with phase := .needEntry })
  s.headLevel j.part

/-- The running frame of ring `r` cancelled: its command completes with the energy spent so far (R360, R363). One whose step has not begun leaves
the others of its job as they are. -/
def State.cancelRun (s : State) (r : Nat) : State :=
  let v := s.fring r
  match v.run, v.job.bind s.job? with
  | some f, some j =>
    let s := (s.completeUj f.n (0, 7) (f.energy j)).setFring r { v with run := none }
    let s := s.modJob j.n (fun k => { k with frames := k.frames.filter (· != r) })
    let s := if f.spent0.isSome then (s.dropStep j).enterFrame j.n else s
    s.framesOver j.n
  | _, _ => s

/-- A pending frame of ring `r` removed. -/
def State.cancelPend (s : State) (r : Nat) (n : NHdr) : State :=
  let v := s.fring r
  (s.completeUj n (0, 7) 0).setFring r { v with pend := v.pend.filter (fun f => f.n != n) }

/-! ### A controller's outstanding work (R459) -/

/-- The header of a host command. -/
def hostHdr : Instr → Option NHdr
  | .identify n _ _ | .getFeatures n _ | .setFeatures n _ _ | .powerManagement n _ | .timestamp n _ | .getLogPage n _ _ _ _
  | .createIoQueue n _ _ _ _ | .deleteIoQueue n _ _ | .abort n _ | .asynchronousEventRequest n | .namespaceCreate n _ _ _ _ _
  | .namespaceDelete n _ | .namespaceAttachment n _ _ _ | .firmwareImageDownload n _ _ | .firmwareCommit n _ _ | .formatNvm n _ _
  | .sanitize n _ | .virtualizationManagement n _ _ _ | .keepAlive n | .deviceSelfTest n _ | .securitySend n _ _ _ | .securityReceive n _ _ _
  | .attachWeight n _ _ _ | .detachWeight n _ _ | .setHostWindow n _ _ _ _ _ _ | .read n _ _ _ | .write n _ _ _ | .writeZeroes n _ _ _
  | .flush n _ | .deallocate n _ _ | .compare n _ _ _ | .verify n _ _ _ | .zoneAppend n _ _ _ | .zoneOpen n _ _ | .zoneClose n _ _
  | .zoneFinish n _ _ | .resetZone n _ _ | .zoneOffline n _ _ | .zoneManagementReceive n _ _ _ | .loadProgram n _ _ _ _
  | .programActivationManagement n _ _ _ | .executeProgram n _ _ _ | .memoryRangeSetManagement n _ _ _ | .memoryRead n _ _ _
  | .memoryWrite n _ _ _ | .memoryCopy n _ _ _ _ _ | .weightPageRewrite n _ _ _ _ | .openIndex n _ _ _ _ _ _ | .closeIndex n _ _ _
  | .updateIndex n _ _ _ | .advanceEpoch n _ _ _ | .compactIndex n _ _ _ | .search n _ _ _ | .submitRequest n _ _ _
  | .setOverlay n _ _ _ _ _ _ | .frameStart n _ _ _ _ _ | .pauseRequest n _ _ | .unsupportedCommand n _ => some n
  | _ => none

/-- Whether a host command came from controller `k`. -/
def fromCtrl (k : Nat) (i : Instr) : Bool := (hostHdr i).any (fun n => nctrl n == k)

/-- An effect whose completions to controller `k` are not posted. -/
def State.quietly (s : State) (k : Nat) (f : State → State) : State :=
  let t := f s
  let n := s.host.out.length
  { t with host := { t.host with out := t.host.out.take n ++ (t.host.out.drop n).filter (fun c => nctrl c.n != k) } }

/-- The jobs and frames of controller `k` cancelled. -/
def State.cancelJobs (s : State) (k : Nat) : State :=
  let s := State.each ((s.jobs.filter (fun j => nctrl j.n == k)).map Job.n) (fun n s => s.failJob n .aborted) s
  State.each (List.range 8) (fun r s =>
    let s := State.each ((s.fring r).pend.filter (fun f => nctrl f.n == k)) (fun f s => s.cancelPend r f.n) s
    if (s.fring r).run.any (fun f => nctrl f.n == k) then s.cancelRun r else s) s

/-- What controller `k` has waiting in the device forgotten: delayed and stalled commands, waiting index commands, windows and power changes.
Staged index operations stay; an index that is closing closes. -/
def State.forgetCtrl (s : State) (k : Nat) : State :=
  let idx := s.search.idx.map (fun e => (e.1, { e.2 with
    waiting := e.2.waiting.filter (fun i => !fromCtrl k i), closer := e.2.closer.filter (fun n => nctrl n != k) }))
  let s := State.each (s.search.asks.filter (fun a => a.n.any (fun n => nctrl n == k))) (fun a s =>
    (s.unbindAsk a).modAsk a.grp a.inst (fun b => { b with n := none })) s
  let s := State.each (idx.map (fun (e : Nat × Idx) => (e.1, e.2.waiting.any isAdvance))) (fun e s => s.setBit (Reg.SIDX_STATE e.1) 6 e.2) s
  { s with
    search := { s.search with idx := idx }
    media := { s.media with writes := s.media.writes.filter (fun q => match q.owner with
      | .host n _ _ => nctrl n != k
      | .core _ _ _ => true) }
    host := { s.host with
      delayed := s.host.delayed.filter (fun i => !fromCtrl k i), stalled := s.host.stalled.filter (fun i => !fromCtrl k i)
      winSets := s.host.winSets.filter (fun w => nctrl w.n != k), psWait := s.host.psWait.filter (fun n => nctrl n != k) } }

/-! ### Resets (R459, R460) -/

/-- Controller `k` at its reset: no queues, no features, no outstanding requests. -/
def Ctrl.cleared (c : Ctrl) : Ctrl := { online := c.online, resources := c.resources }

/-- A controller reset. -/
def State.resetCtrl (k : Nat) (s : State) : State :=
  let s := (s.quietly k (fun s => s.cancelJobs k)).forgetCtrl k
  (s.modCtrl k Ctrl.cleared).doorLevel (portOf k)

/-- The host windows of controller `k` disabled. -/
def State.dropWins (s : State) (k : Nat) : State := { s with host := { s.host with wins := s.host.wins.filter (fun w => w.ctrl != k) } }

/-- A function-level reset: of a virtual function, its controller and its windows; of a physical function, every function of its port. -/
def State.resetFn (s : State) (k : Nat) : State :=
  if physCtrl k then
    let s := State.each (List.range 65) (fun v s => (State.resetCtrl (k + v) s).dropWins (k + v)) s
    s.setFld (Reg.HOST_PORT (portOf k)) 16 7 0
  else (State.resetCtrl k s).dropWins k

/-! ### Virtualization Management (R345) -/

/-- Virtualization Management of a secondary controller: a virtual function's. Offline, it is reset. -/
def State.virtualize (s : State) (n : NHdr) (k : Nat) (act : VirtAct) (nr : Nat) : State :=
  if !physCtrl (nctrl n) then s.badField n
  else if 130 ≤ k ∨ physCtrl k = true ∨ portOf k ≠ portOf (nctrl n) then s.specific n 0x1F
  else
    match act with
    | .online => (s.modCtrl k (fun c => { c with online := true })).ok n
    | .offline => ((State.resetCtrl k s).modCtrl k (fun c => { c with online := false })).ok n
    | .setResources => if (s.ctrl k).online then s.badField n else (s.modCtrl k (fun c => { c with resources := nr })).ok n nr

end Sys2Proof.Machine
end

