-- ==== Sys2Proof/Machine/Spdm.lean ====
section
/-! DEFINITION. Machine/Spdm.lean: the SPDM responder of the guard (R442, R447 to R452). Its message layouts are DSP0274's; what this spec fixes of
a response is a value here, the signatures and nonces are free. -/

namespace Sys2Proof.Machine

open Sys2Proof

/-! ### What the responder presents (R442, R447, R448) -/

/-- The chain of slot 0 in the SPDM chain format: length, root hash, certificates. Manufacture wrote it, with the public key of R441. -/
def State.chain (s : State) : List Byte :=
  let body := sha3_512 Config.rootCert ++ Config.rootCert ++ Config.deviceCert s.fuse.serial (identityKeys s.fuse.uds).1
  leBytes 2 (4 + body.length) ++ [0, 0] ++ body

/-- The digest of a measurement index. -/
def State.digestOf (s : State) (i : Nat) : List Byte := sget (List.replicate 64 0) s.guard.meas i

/-- The measurement indices of R447. -/
def measIndices : List Nat := [1, 2, 3, 4, 5] ++ (List.range 8).map (16 + ·)

/-- The attestation log as its entries of 80 bytes, seq counted from the last emptying: R448. -/
def State.logBytes (s : State) : List Byte :=
  ((List.range s.guard.log.length).zip s.guard.log).flatMap (fun e =>
    leBytes 1 e.2.index ++ leBytes 1 e.2.part ++ leBytes 2 e.2.program ++ leBytes 4 e.1 ++ leBytes 4 e.2.nsid ++ leBytes 4 0 ++ fitTo 64 0 e.2.m)

/-- The measurement blocks an index names: one, the manifest, all of them, or (index 0) the number of them. -/
def State.measBlocks (s : State) (i : Nat) : Option (List (Nat × List Byte)) :=
  let all := measIndices.map (fun k => (k, s.digestOf k)) ++ [(0xFD, s.logBytes)]
  if i = 0 then some [(0, leBytes 1 all.length)]
  else if i = 0xFF then some all
  else match all.find? (fun e => e.1 == i) with
    | some e => some [e]
    | none => none

/-- A nonce of the guard's: free bytes. -/
def State.nonce (s : State) : List Byte := (List.range 32).map (Config.secretByte 100 s.guard.transcript)

/-- A signature with the device's secret key: 4,627 bytes, free (R452). -/
def State.signature (s : State) : List Byte := (List.range 4627).map (Config.signByte s.guard.sk s.guard.transcript)

/-! ### Requests (R451, R452) -/

/-- The SPDM error codes that R451 names, and the one by which a large response is announced. -/
def unsupportedRequest : SpdmResp := .error 7
def invalidRequest : SpdmResp := .error 1
def largeResponse : SpdmResp := .error 0x0F

/-- The number of a transport's connection. -/
def connOf : Transport → Nat
  | .doe p => p.toNat
  | .mctpPcie => 2
  | .mctpSmbus => 3
  | .nvme p => 4 + p.toNat

def State.conn (s : State) (t : Transport) : SpdmConn := sget {} s.guard.conns (connOf t)

def State.setConn (s : State) (t : Transport) (v : SpdmConn) : State := s.modGuard (fun g => { g with conns := sput {} g.conns (connOf t) v })

/-- One more signature made. -/
def State.signed (s : State) : State := s.modGuard (fun g => { g with transcript := g.transcript + 1 })

/-- Whether a request may come before negotiation has ended. -/
def SpdmConn.ready (v : SpdmConn) : Bool := v.version && v.caps && v.algs

/-- The responder's answer to one request over transport `t`, and what it leaves. -/
def State.spdmAnswer (s : State) (t : Transport) : SpdmReq → SpdmResp × State
  | .getVersion => (.version 0x13, s.setConn t { version := true })
  | .getCapabilities =>
    let v := s.conn t
    if v.version then (.capabilities true true true true true 4096 65536, s.setConn t { v with caps := true }) else (invalidRequest, s)
  | .negotiateAlgorithms sha3 mldsa =>
    let v := s.conn t
    if v.version && v.caps && sha3 && mldsa then (.algorithms (2 ^ 5) (2 ^ 6) 1 0 0x4B87, s.setConn t { v with algs := true }) else (invalidRequest, s)
  | .getDigests => if (s.conn t).ready then (.digests 1 (sha3_512 s.chain), s) else (invalidRequest, s)
  | .getCertificate slot offset len =>
    if !(s.conn t).ready || slot != 0 || decide (s.chain.length ≤ offset) then (invalidRequest, s)
    else
      let b := (s.chain.drop offset).take len
      (.certificate 0 b (s.chain.length - offset - b.length), s)
  | .challenge slot nonce =>
    if !(s.conn t).ready || slot != 0 || nonce.length != 32 then (invalidRequest, s)
    else (.challengeAuth 0 (sha3_512 s.chain) s.nonce s.signature, s.signed)
  | .getMeasurements index signed nonce =>
    match s.measBlocks index.toNat with
    | none => (invalidRequest, s)
    | some bs =>
      if !(s.conn t).ready || (signed && nonce.length != 32) then (invalidRequest, s)
      else if signed then (.measurements bs s.nonce s.signature, s.signed)
      else (.measurements bs s.nonce [], s.signed)
  | .unsupported _ => (unsupportedRequest, s)

/-! ### Large messages (R451) -/

/-- The fields of a response as bytes. -/
def SpdmResp.bytes : SpdmResp → List Byte
  | .version v => leBytes 2 (v * 256)
  | .capabilities c h m f k t x => leBytes 4 ((if c then 2 else 0) + (if h then 4 else 0) + (if m then 16 else 0) + (if f then 32 else 0) + (if k then 2 ^ 17 else 0)) ++ leBytes 4 t ++ leBytes 4 x
  | .algorithms a b c d e => leBytes 4 a ++ leBytes 4 b ++ leBytes 1 c ++ leBytes 4 d ++ leBytes 2 e
  | .digests m d => leBytes 1 m ++ d
  | .certificate k b r => leBytes 1 k ++ leBytes 2 b.length ++ leBytes 2 r ++ b
  | .challengeAuth k h n g => leBytes 1 k ++ h ++ n ++ g
  | .measurements bs n g => bs.flatMap (fun b => leBytes 1 b.1 ++ leBytes 4 b.2.length ++ b.2) ++ n ++ g
  | .chunkAck q => leBytes 2 q
  | .chunk q b l => leBytes 2 q ++ leBytes 1 (if l then 1 else 0) ++ b
  | .doeDiscovery v t n => leBytes 2 v ++ leBytes 1 t ++ leBytes 1 n
  | .error c => leBytes 1 c

/-- Bytes of a response with its four-byte header. -/
def SpdmResp.size (r : SpdmResp) : Nat := 4 + r.bytes.length

/-- DataTransferSize, and what of it a chunk's own header leaves. -/
def dataTransfer : Nat := 4096
def chunkRoom (seq : Nat) : Nat := if seq = 0 then 4080 else 4084

/-- A response given to its transport. Over NVMe it waits for a Security Receive, whole (R347); elsewhere one larger than DataTransferSize is
announced and left for CHUNK_GET. -/
def State.spdmSend (s : State) (t : Transport) (r : SpdmResp) : State :=
  match t with
  | .nvme p => s.modGuard (fun g => { g with pendResp := sins g.pendResp p.toNat r })
  | _ =>
    if r.size ≤ dataTransfer then s.modGuard (fun g => { g with spdm := g.spdm ++ [⟨t, r⟩] })
    else (s.setConn t { s.conn t with large := r.bytes, nextGet := 0 }).modGuard (fun g => { g with spdm := g.spdm ++ [⟨t, largeResponse⟩] })

/-- Whether requests over a transport reach the responder: the guard's firmware runs, and the port that carries it presents configuration space. -/
def State.spdmUp (s : State) (t : Transport) : Bool :=
  let port := fun (p : Nat) => s.alive && !(s.guard.perst.getD p true) && s.guard.step3
  s.guard.phase != .unpowered && !s.guard.noImage && decide (1 ≤ s.fld Reg.GUARD_BOOT 0 3) &&
    (match t with
     | .doe p | .nvme p => port p.toNat
     | .mctpPcie => port 0 || port 1
     | .mctpSmbus => true)

/-- One request served. -/
def State.spdm (s : State) (t : Transport) (q : SpdmReq) : State :=
  if !s.spdmUp t then s
  else
    let a := s.spdmAnswer t q
    a.2.spdmSend t a.1

/-- A request put together from its chunks, as DSP0274 lays it out. -/
def SpdmReq.ofBytes (b : List Byte) : SpdmReq :=
  let code := (b.getD 1 0).toNat
  let u := fun o n => leNat ((b.drop o).take n)
  if code = 0x84 then .getVersion
  else if code = 0xE1 then .getCapabilities
  else if code = 0xE3 then
    let es := (List.range (u 28 1)).map (fun i => (u (32 + 4 * i) 1, u (34 + 4 * i) 2))
    .negotiateAlgorithms ((u 12 4).testBit 5) (es.contains (0x04, 0x4B87))
  else if code = 0x81 then .getDigests
  else if code = 0x82 then .getCertificate (BitVec.ofNat 3 (u 2 1)) (u 4 2) (u 6 2)
  else if code = 0x83 then .challenge (BitVec.ofNat 3 (u 2 1)) ((b.drop 4).take 32)
  else if code = 0xE0 then .getMeasurements (BitVec.ofNat 8 (u 3 1)) ((u 2 1).testBit 0) ((b.drop 4).take 32)
  else .unsupported (BitVec.ofNat 8 code)

/-- CHUNK_SEND: one chunk of a large request, in order; the last brings the request's response. -/
def State.chunkSend (s : State) (t : Transport) (seq : Nat) (last : Bool) (bytes : List Byte) : State :=
  if !s.spdmUp t then s
  else
    let v := s.conn t
    if !v.caps || seq != v.nextChunk || decide (65536 < v.chunks.length + bytes.length) then
      (s.setConn t { v with chunks := [], nextChunk := 0 }).spdmSend t invalidRequest
    else if last then
      ((s.setConn t { v with chunks := [], nextChunk := 0 }).spdmSend t (.chunkAck seq)).spdm t (SpdmReq.ofBytes (v.chunks ++ bytes))
    else (s.setConn t { v with chunks := v.chunks ++ bytes, nextChunk := seq + 1 }).spdmSend t (.chunkAck seq)

/-- CHUNK_GET: the next chunk of a large response. -/
def State.chunkGet (s : State) (t : Transport) (seq : Nat) : State :=
  if !s.spdmUp t then s
  else
    let v := s.conn t
    if v.large.isEmpty || seq != v.nextGet then s.spdmSend t invalidRequest
    else
      let b := v.large.take (chunkRoom seq)
      let r := v.large.drop (chunkRoom seq)
      (s.setConn t { v with large := r, nextGet := if r.isEmpty then 0 else seq + 1 }).modGuard (fun g =>
        { g with spdm := g.spdm ++ [⟨t, .chunk seq b r.isEmpty⟩] })

/-- DOE Discovery: the Discovery protocol and CMA/SPDM, and no other (R450). -/
def State.doeFind (s : State) (p : BitVec 1) (index : Nat) : State :=
  if !s.spdmUp (.doe p) then s
  else
    let r : SpdmResp := if index = 0 then .doeDiscovery 1 0 1 else if index = 1 then .doeDiscovery 1 1 0 else .doeDiscovery 0xFFFF 0 0
    s.modGuard (fun g => { g with spdm := g.spdm ++ [⟨.doe p, r⟩] })

/-! ### The commands -/

/-- GET_VERSION: R451. -/
def execGetVersion (t : Transport) (s : State) : Host.Outcome State Fault Refusal := .next (s.spdm t .getVersion)

/-- GET_CAPABILITIES: R451. -/
def execGetCapabilities (t : Transport) (s : State) : Host.Outcome State Fault Refusal := .next (s.spdm t .getCapabilities)

/-- NEGOTIATE_ALGORITHMS: R451. -/
def execNegotiateAlgorithms (t : Transport) (sha3 mldsa : Bool) (s : State) : Host.Outcome State Fault Refusal :=
  .next (s.spdm t (.negotiateAlgorithms sha3 mldsa))

/-- GET_DIGESTS: R452. -/
def execGetDigests (t : Transport) (s : State) : Host.Outcome State Fault Refusal := .next (s.spdm t .getDigests)

/-- GET_CERTIFICATE: R452. -/
def execGetCertificate (t : Transport) (slot : BitVec 3) (offset len : Nat) (s : State) : Host.Outcome State Fault Refusal :=
  .next (s.spdm t (.getCertificate slot offset len))

/-- CHALLENGE: R452. -/
def execChallenge (t : Transport) (slot : BitVec 3) (nonce : List Byte) (s : State) : Host.Outcome State Fault Refusal :=
  .next (s.spdm t (.challenge slot nonce))

/-- GET_MEASUREMENTS: R452. -/
def execGetMeasurements (t : Transport) (index : BitVec 8) (signed : Bool) (nonce : List Byte) (s : State) : Host.Outcome State Fault Refusal :=
  .next (s.spdm t (.getMeasurements index signed nonce))

/-- CHUNK_SEND: R451. -/
def execChunkSend (t : Transport) (seq : Nat) (last : Bool) (bytes : List Byte) (s : State) : Host.Outcome State Fault Refusal :=
  .next (s.chunkSend t seq last bytes)

/-- CHUNK_GET: R451. -/
def execChunkGet (t : Transport) (seq : Nat) (s : State) : Host.Outcome State Fault Refusal := .next (s.chunkGet t seq)

/-- DOE_DISCOVERY: R450. -/
def execDoeDiscovery (port : BitVec 1) (index : BitVec 8) (s : State) : Host.Outcome State Fault Refusal := .next (s.doeFind port index.toNat)

/-- SPDM_UNSUPPORTED_REQUEST: R451. -/
def execSpdmUnsupportedRequest (t : Transport) (code : BitVec 8) (s : State) : Host.Outcome State Fault Refusal :=
  .next (s.spdm t (.unsupported code))

end Sys2Proof.Machine
end

