-- ==== Sys2Proof/Machine/HostEnter.lean ====
section
/-! DEFINITION. Machine/HostEnter.lean: how a host command reaches its effect (R346, R351, R365, R367, R400, R402), Abort (R363), Security Send and
Receive (R347), the power states (R367, R368), NVMe-MI (R345, R471), and the meaning of every NVMe row. -/

namespace Sys2Proof.Machine

open Sys2Proof

/-! ### Kinds of command -/

/-- Whether a command belongs to the admin queue. -/
def adminCmd : Instr → Bool
  | .identify _ _ _ | .getFeatures _ _ | .setFeatures _ _ _ | .powerManagement _ _ | .timestamp _ _ | .getLogPage _ _ _ _ _
  | .createIoQueue _ _ _ _ _ | .deleteIoQueue _ _ _ | .abort _ _ | .asynchronousEventRequest _ | .namespaceCreate _ _ _ _ _ _
  | .namespaceDelete _ _ | .namespaceAttachment _ _ _ _ | .firmwareImageDownload _ _ _ | .firmwareCommit _ _ _ | .formatNvm _ _ _
  | .sanitize _ _ | .virtualizationManagement _ _ _ _ | .keepAlive _ | .deviceSelfTest _ _ | .securitySend _ _ _ _ | .securityReceive _ _ _ _
  | .attachWeight _ _ _ _ | .detachWeight _ _ _ | .setHostWindow _ _ _ _ _ _ _ | .loadProgram _ _ _ _ _
  | .programActivationManagement _ _ _ _ | .memoryRangeSetManagement _ _ _ _ => true
  | _ => false

/-- Whether the admin and I/O queues make no difference to a command. -/
def anyQueue : Instr → Bool
  | .unsupportedCommand _ _ => true
  | _ => false

/-- The commands that the NVMe base specification allows during a sanitize. -/
def sanitizeOk : Instr → Bool
  | .abort _ _ | .asynchronousEventRequest _ | .createIoQueue _ _ _ _ _ | .deleteIoQueue _ _ _ | .getFeatures _ _ | .getLogPage _ _ _ _ _
  | .identify _ _ _ | .keepAlive _ | .setFeatures _ _ _ | .powerManagement _ _ | .timestamp _ _ => true
  | _ => false

/-- The name spaces an I/O command names. -/
def ioNs : Instr → List (BitVec 32)
  | .read _ d _ _ | .write _ d _ _ | .writeZeroes _ d _ _ | .deallocate _ d _ | .compare _ d _ _ | .verify _ d _ _
  | .zoneAppend _ d _ _ | .zoneOpen _ d _ | .zoneClose _ d _ | .zoneFinish _ d _ | .resetZone _ d _ | .zoneOffline _ d _
  | .zoneManagementReceive _ d _ _ | .executeProgram _ d _ _ | .memoryRead _ d _ _ | .memoryWrite _ d _ _ | .weightPageRewrite _ d _ _ _
  | .openIndex _ d _ _ _ _ _ | .closeIndex _ d _ _ | .updateIndex _ d _ _ | .advanceEpoch _ d _ _ | .compactIndex _ d _ _ | .search _ d _ _
  | .submitRequest _ d _ _ | .setOverlay _ d _ _ _ _ _ | .frameStart _ d _ _ _ _ | .pauseRequest _ d _ => [d]
  | .memoryCopy _ d _ e _ _ => [d, e]
  | .flush _ d => if d = 0xFFFFFFFF then [] else [d]
  | _ => []

/-! ### Security Send and Receive (R347) -/

/-- The list of supported security protocols: 00h and E8h. -/
def protocolList : List Byte := [0, 0, 0, 0, 0, 0, 0, 2, 0x00, 0xE8]

/-- Security Send. -/
def State.securityOut (s : State) (n : NHdr) (secp : Nat) (req : SpdmReq) : State :=
  if !physCtrl (nctrl n) || secp != 0xE8 then s.badField n
  else (s.spdm (.nvme (BitVec.ofNat 1 (portOf (nctrl n)))) req).ok n

/-- Security Receive. -/
def State.securityIn (s : State) (n : NHdr) (secp spsp alloc : Nat) : State :=
  let p := portOf (nctrl n)
  if !physCtrl (nctrl n) then s.badField n
  else if secp = 0 ∧ spsp = 0 then s.ok n 0 0 (protocolList.take alloc)
  else if secp ≠ 0xE8 then s.badField n
  else
    match s.guard.pendResp.find? (fun e => e.1 == p) with
    | none => s.badField n
    | some e =>
      if alloc < e.2.size then s.badField n
      else
        (s.modGuard (fun g => { g with
          pendResp := sdel g.pendResp p, spdm := g.spdm ++ [⟨.nvme (BitVec.ofNat 1 p), e.2⟩] })).ok n 0 0 e.2.bytes

/-! ### Abort (R363) -/

/-- Whether a command that has not started can be aborted. -/
def abortable : Instr → Bool
  | .read _ _ _ _ | .write _ _ _ _ | .zoneAppend _ _ _ _ | .zoneOpen _ _ _ | .zoneClose _ _ _ | .zoneFinish _ _ _ | .resetZone _ _ _
  | .zoneOffline _ _ _ | .zoneManagementReceive _ _ _ _ | .memoryRead _ _ _ _ | .memoryWrite _ _ _ _ | .memoryCopy _ _ _ _ _ _
  | .executeProgram _ _ _ _ | .submitRequest _ _ _ _ | .search _ _ _ _ | .frameStart _ _ _ _ _ _ | .updateIndex _ _ _ _ => true
  | _ => false

/-- Whether an instruction is an abortable command of header `t`. -/
def abortHit (t : NHdr) (i : Instr) : Bool := abortable i && hostHdr i == some t

/-- An Update Index that waits under R294 removed, if it is the one aborted. -/
def State.dropUpdate (s : State) (t : NHdr) : Option State :=
  match s.search.idx.find? (fun e => e.2.waiting.any (abortHit t)) with
  | some e => some (s.setIdx e.1 { e.2 with waiting := e.2.waiting.filter (fun i => !abortHit t i) })
  | none => none

/-- The command aborted, or none where nothing is. -/
def State.abortOne (s : State) (t : NHdr) : Option State :=
  if s.host.delayed.any (abortHit t) || s.host.stalled.any (abortHit t) then
    let h := { s.host with
      delayed := s.host.delayed.filter (fun i => !abortHit t i), stalled := s.host.stalled.filter (fun i => !abortHit t i) }
    some ({ s with host := h }.complete t 0 7)
  else if (s.job? t).isSome then some (s.failJob t .aborted)
  else
    match s.serving.reqs.find? (fun r => r.n == t) with
    | some r => if r.stop = 2 then none else some (s.tellStop r 2)
    | none =>
      match (List.range 8).find? (fun r => (s.fring r).pend.any (fun f => f.n == t)),
            (List.range 8).find? (fun r => (s.fring r).run.any (fun f => f.n == t)) with
      | some r, _ => some (s.cancelPend r t)
      | none, some r => some (s.cancelRun r)
      | none, none =>
        match s.search.asks.find? (fun a => a.n == some t) with
        | some a => some (s.abortAsk a)
        | none => (s.dropUpdate t).map (fun s => s.complete t 0 7)

/-- Abort: completion DW0 bit 0 tells whether nothing was aborted. -/
def State.doAbort (s : State) (n : NHdr) (t : CmdRef) : State :=
  match s.abortOne ⟨n.ctrl, t.sqid, t.cid⟩ with
  | some u => u.ok n 0
  | none => s.ok n 1

/-! ### Effects -/

/-- What a host command does once nothing keeps it: its own effect. -/
def State.hostEffect (s : State) : Instr → State
  | .identify n cns nsid => s.identify n cns.toNat nsid
  | .getFeatures n fid => s.getFeatures n fid.toNat
  | .setFeatures n fid v => s.setFeatures n fid.toNat v
  | .powerManagement n ps => s.setPower n ps.toNat
  | .timestamp n ms => s.setStamp n ms.toNat
  | .getLogPage n lid rae off len => s.getLog n lid.toNat rae off len
  | .createIoQueue n cq qid size cqid => s.createQueue n cq qid.toNat size.toNat cqid.toNat
  | .deleteIoQueue n cq qid => s.deleteQueue n cq qid.toNat
  | .abort n t => s.doAbort n t
  | .asynchronousEventRequest n => s.eventRequest n
  | .namespaceCreate n kind part lbas mem rsv => s.createNs n ⟨kind.toNat, part.toNat, lbas, mem, rsv⟩
  | .namespaceDelete n d => s.deleteNs n d.toNat
  | .namespaceAttachment n d on ks => s.attachNs n d.toNat on (ks.map BitVec.toNat)
  | .firmwareImageDownload n off data => s.fwDownload n off data
  | .firmwareCommit n slot act => s.fwCommit n slot.toNat act.toNat
  | .formatNvm n d crypto => s.format n d crypto
  | .sanitize n be => s.sanitizeAll n be
  | .virtualizationManagement n k act nr => s.virtualize n k.toNat act nr
  | .keepAlive n => s.ok n
  | .deviceSelfTest n code => s.selfTest n code.toNat
  | .securitySend n p _ r => s.securityOut n p.toNat r
  | .securityReceive n p q alloc => s.securityIn n p.toNat q.toNat alloc
  | .attachWeight n d base rsv => s.attachWeight n d.toNat base.toNat rsv
  | .detachWeight n d rsv => s.detachWeight n d.toNat rsv
  | .setHostWindow n w on len start bus rsv => s.setWindow n ⟨nctrl n, w.toNat, start.toNat, len.toNat * 4096, bus.toNat⟩ on rsv
  | .read n d a k => s.doRead n d.toNat a k
  | .write n d a data => if maxBlocks * lbaBytes < data.length then s.badField n else s.doWrite n d.toNat a data
  | .writeZeroes n d a k => s.doWrite n d.toNat a (List.replicate (k * lbaBytes) 0)
  | .flush n _ => s.ok n
  | .deallocate n d rs => s.doDeallocate n d.toNat rs
  | .compare n d a data => s.doCompare n d.toNat a data
  | .verify n d a k => s.doVerify n d.toNat a k
  | .zoneAppend n d a data => s.doAppend n d.toNat a data
  | .zoneOpen n d a => s.zoneSend n d.toNat a .open_
  | .zoneClose n d a => s.zoneSend n d.toNat a .close
  | .zoneFinish n d a => s.zoneSend n d.toNat a .finish
  | .resetZone n d a => s.zoneSend n d.toNat a .reset
  | .zoneOffline n d a => s.zoneSend n d.toNat a .offline
  | .zoneManagementReceive n d a k => s.zoneReceive n d.toNat a k
  | .loadProgram n d p t img => s.loadImage n d.toNat p.toNat t.toNat img
  | .programActivationManagement n d p on => s.activate n d.toNat p.toNat on
  | .executeProgram n d p ps => s.execute n d.toNat p.toNat ps
  | .memoryRangeSetManagement n c k rs => s.rangeSet n c k.toNat rs
  | .memoryRead n d o k => s.memRead n d.toNat o k
  | .memoryWrite n d o data => s.memWrite n d.toNat o data
  | .memoryCopy n d o e p k => s.memCopy n d.toNat o e.toNat p k
  | .weightPageRewrite n d a data good => s.doRewrite n d.toNat a data good
  | .openIndex n d q p base fs rsv => s.openIdx n d.toNat q.toNat p.toNat base.toNat fs rsv
  | .closeIndex n d q rsv => s.closeIdx n d.toNat q.toNat rsv
  | .updateIndex n d q ops => s.updateIdx n d q ops
  | .advanceEpoch n d q rsv => s.advanceIdx n d q rsv
  | .compactIndex n d q rsv => s.compactIdx n d q rsv
  | .search n d q buf => s.searchIdx n d.toNat q.toNat buf
  | .submitRequest n _ j b => s.submit n j b
  | .setOverlay n d p v l data rsv => s.overlay n d.toNat p.toNat v.toNat l.toNat data rsv
  | .frameStart n d r k f rsv => s.frameStart n d.toNat r.toNat k.toNat f rsv
  | .pauseRequest n _ r => s.pause n r
  | .unsupportedCommand n known => if known then s.badField n else s.badOpcode n
  | _ => s

/-! ### Waits (R315, R328, R400) -/

/-- Whether the reins let a command move its data: its payer's for media and memory name spaces, the index's partition's for Search. -/
def State.reinsPass (s : State) (n : NHdr) : Instr → Bool
  | .read _ _ _ _ | .write _ _ _ _ | .writeZeroes _ _ _ _ | .compare _ _ _ _ | .verify _ _ _ _ | .zoneAppend _ _ _ _ | .weightPageRewrite _ _ _ _ _
  | .advanceEpoch _ _ _ _ | .compactIndex _ _ _ _ | .openIndex _ _ _ _ _ _ _ => s.reinOpen (s.hostPayer n) .media
  | .memoryRead _ _ _ _ | .memoryWrite _ _ _ _ | .memoryCopy _ _ _ _ _ _ => s.reinOpen (s.hostPayer n) .dram
  | .search _ _ q _ =>
    let p := s.fld (Reg.SIDX_STATE q.toNat) 1 3
    !s.indexOpen q.toNat || (s.reinOpen p .dram && s.reinOpen p .media)
  | _ => true

/-- Whether a read waits for an erase that it may not suspend, or for a map page (R315, R317). -/
def State.readHeld (s : State) (d : BitVec 32) (a nlb : Nat) : Bool :=
  match s.ns? d.toNat with
  | some v => v.inside a nlb && decide (nlb ≤ maxBlocks) && (s.readWaits v a nlb || s.mapWaits d.toNat v a nlb)
  | none => false

/-- Whether a write waits for a free block or for an erase, or a read for an erase. -/
def State.blocksWait (s : State) : Instr → Bool
  | .read _ d a k | .verify _ d a k => s.readHeld d a k
  | .compare _ d a data => s.readHeld d a (data.length / lbaBytes)
  | .write _ d a _ | .writeZeroes _ d a _ | .zoneAppend _ d a _ =>
    match s.ns? d.toNat with
    | some v => s.writeWaits v (if v.zoned then a / zoneSize v.kind else 0)
    | none => false
  | _ => false

/-- The effect, or the wait for what it needs. -/
def State.effectOr (s : State) (n : NHdr) (i : Instr) : State :=
  if !s.reinsPass n i || s.blocksWait i then { s with host := { s.host with stalled := s.host.stalled ++ [i] } } else s.hostEffect i

/-- Commands that waited go ahead in order as far as they can. -/
def State.runStalled (s : State) : State :=
  if s.host.psPhase ≠ .operational then s
  else
    State.each s.host.stalled (fun i s =>
      match hostHdr i with
      | some n => s.effectOr n i
      | none => s) { s with host := { s.host with stalled := [] } }

/-! ### The way in -/

/-- The deferred write error that a controller owes for a name space reported: R365. -/
def State.reportDeferred (s : State) (n : NHdr) (d : BitVec 32) : State :=
  let s := s.modNs d.toNat (fun v => { v with deferOn := setDel v.deferOn (nctrl n) })
  ((s.addReg Reg.HOST_DEFERRED 1).raise .host 3 (nctrl n * 2 ^ 8)).vendor n 0xCE

/-- Whether controller `n` owes a deferred write error for a name space. -/
def State.owesError (s : State) (n : NHdr) (d : BitVec 32) : Bool := (s.ns? d.toNat).any (fun v => setHas v.deferOn (nctrl n))

/-- A fetched command carried out in the operational state. -/
def State.admitCmd (s : State) (n : NHdr) (i : Instr) : State :=
  if s.host.sanitizing && !sanitizeOk i then s.sanitizeBusy n
  else if !isAdmin n && !physCtrl (nctrl n) && (s.vfPart (nctrl n)).isNone then s.badField n
  else if (ioNs i).any (fun d => (s.nsOf n d).isNone) then s.badNs n
  else
    match (ioNs i).find? (s.owesError n) with
    | some d => s.reportDeferred n d
    | none => s.effectOr n i

/-- A fetched command: one on the wrong kind of queue is refused, one that arrives outside the operational state waits for it (R367). -/
def State.acceptCmd (s : State) (n : NHdr) (i : Instr) : State :=
  if !anyQueue i && isAdmin n != adminCmd i then s.badOpcode n
  else
    match s.host.psPhase with
    | .operational => s.admitCmd n i
    | .low _ => { s with host := { s.host with delayed := s.host.delayed ++ [i], psPhase := .exiting } }
    | .entering _ | .exiting => { s with host := { s.host with delayed := s.host.delayed ++ [i] } }

/-- A host command: fetched when it can be. -/
def State.hostCmd (s : State) (n : NHdr) (i : Instr) : State := if s.canFetch n then (s.fetchFrom n).acceptCmd n i else s

/-! ### Power states (R367, R368) -/

/-- Autonomous Power State Transition, where a physical function has enabled it. -/
def State.autoPs (s : State) (ps : Nat) : State :=
  let on := [0, 65].any (fun k => (sget (0 : BitVec 32) (s.ctrl k).feats 0x0C).getLsbD 0)
  if s.alive && on && (ps == 3 || ps == 4) && s.host.psPhase == .operational then s.enterPs ps else s

/-- Whether a step is running, or a switch is in progress. -/
def State.stepsRun (s : State) : Bool := s.jobs.any (fun j => j.phase == .running || j.phase == .stopping || j.phase == .loading)

/-- Entry into PS4: bindings broken, tally windows cleared, girth links down. -/
def State.enterPs4 (s : State) : State :=
  let s := State.each (List.range 4) (fun b s => s.breakBinding b) s
  let s := State.each ((List.range s.coreCount).filter (fun c => (s.partOf c).any (fun p => (s.bindingOf p).isSome))) (fun c s => s.clearWindow c) s
  State.each (List.range 6) (fun g s => State.each (s.upLinks g) (fun l s => s.linkDown g l 0) s) s

/-- POWER_STATE_ENTRY_COMPLETE: a command accepted meanwhile turns it round. -/
def State.psEntered (s : State) : State :=
  match s.host.psPhase with
  | .entering ps =>
    if s.stepsRun then s
    else
      let s := if ps = 4 then s.enterPs4 else s
      { s with host := { s.host with psPhase := if s.host.delayed.isEmpty then .low ps else .exiting } }
  | _ => s

/-- Links enabled in live port controls train again after PS4. -/
def State.retrainAll (s : State) : State :=
  State.each (List.range 6) (fun g s => s.enableLinks g (s.fld (Reg.GIRTH_PORT_CTL g) 0 6)) s

/-- POWER_STATE_EXIT_COMPLETE: the delayed commands execute. -/
def State.psExited (s : State) : State :=
  match s.host.psPhase with
  | .exiting =>
    let w := s.host.delayed
    let s := { s with host := { s.host with psPhase := .operational, delayed := [] } }.retrainAll
    State.each w (fun i s =>
      match hostHdr i with
      | some n => s.acceptCmd n i
      | none => s) s
  | _ => s

/-- The Keep Alive Timer of a controller expires: the controller fails and fetches no more until it is reset. -/
def State.keepAliveOut (s : State) (k : Nat) : State :=
  let c := s.ctrl k
  if s.alive && c.enabled && sget (0 : BitVec 32) c.feats 0x0F != 0 then s.modCtrl k (fun c => { c with cfs := true, ready := false }) else s

/-! ### NVMe-MI (R345, R471, R473) -/

/-- An NVMe-MI response sent. -/
def State.miOut (s : State) (status : Nat) (data : List Byte) : State := { s with host := { s.host with mi := s.host.mi ++ [(status, data)] } }

/-- A tunnelled admin command of the first physical function: the status and data its completion would carry. -/
def State.miTunnel (s : State) (f : State → State) : State :=
  match (f s).host.out.getLast? with
  | some c => s.miOut (if c.sc = 0 then 0 else 4) c.data
  | none => s

/-- An NVMe-MI command: answered from step 2 of start-up. -/
def State.miServe (s : State) (op : MiOp) : State :=
  let n : NHdr := { ctrl := 0, cid := 0 }
  if s.guard.phase = .unpowered ∨ s.fld Reg.GUARD_BOOT 0 3 < 2 then s
  else
    match op with
    | .subsystemHealthPoll =>
      let t := s.miOut 0 (nvmePage 0x200 8 [(1, leBytes 1 s.criticalWarning)])
      { t with host := { t.host with healthSeen := s.criticalWarning } }
    | .controllerHealthPoll k => if 130 ≤ k.toNat then s.miOut 4 [] else s.miOut 0 (nvmePage 0x201 16 [(0, leBytes 2 k.toNat)])
    | .configGet i =>
      (match s.host.miCfg.find? (fun e => e.1 == i.toNat) with
       | some e => s.miOut 0 (leBytes 4 e.2.toNat)
       | none => s.miOut 0 ((List.range 4).map (fun k => Config.nvmeByte 0x202 (4 * i.toNat + k))))
    | .configSet i v => { s with host := { s.host with miCfg := sins s.host.miCfg i.toNat v } }.miOut 0 []
    | .vpdRead => s.miOut 0 (nvmePage 0x203 256 [])
    | .tunnelIdentify cns => s.miTunnel (fun s => s.identify n cns.toNat 0)
    | .tunnelGetLogPage lid =>
      (match s.logPage lid.toNat with
       | some b => s.miOut 0 b
       | none => s.miOut 4 [])
    | .tunnelGetFeatures fid => s.miTunnel (fun s => s.getFeatures n fid.toNat)
    | .tunnelSetFeatures _ | .tunnelIo => s.miOut 3 []

end Sys2Proof.Machine
end

