-- ==== Sys2Proof/Machine/Waits.lean ====
section
/-! DEFINITION. Machine/Waits.lean: the counters of waiting (R47, R117, R125, R128, R134, R163, R177, R180, R230, R315, R328, R393, R400, R407).
In this model time passes at a power sample (R41): what stands then has stood since the sample before, and is counted for its cycles. -/

namespace Sys2Proof.Machine

open Sys2Proof

/-! ### A core (R163, R177, R180) -/

/-- Whether the sequencer itself waits on a token: R177. -/
def Core.seqTokenWait (k : Core) : Bool :=
  match k.held with
  | some (.instr i) =>
    (match i.op? with
     | some (cls, _) => cls == .seq
     | none => false)
  | some (.noop _ _) => true
  | some (.atEnd _) | some .atBoundary | some .poisoned | none => false

/-- The tokens on which queue heads wait: R177. -/
def Core.headTokens (k : Core) : List Nat :=
  laneOrder.filterMap (fun l =>
    match (k.headOf l).bind (fun q => q.i.op?) with
    | some (_, h) => if h.wait then some h.waitTok.toNat else none
    | none => none)

/-- Whether a boundary instruction has issued and not retired: R180. -/
def Core.bndIssued (k : Core) : Bool := k.held == some .atBoundary || k.held == some (.atEnd true)

/-- Whether the sequencer stalls on a full queue: R163. -/
def Core.queueStall (k : Core) : Bool :=
  match k.held with
  | some (.instr i) =>
    (match i.op? with
     | some (cls, _) => cls != .seq && k.full cls
     | none => false)
  | some (.noop _ _) | some (.atEnd _) | some .atBoundary | some .poisoned | none => false

/-- The tokens that issued or prefetched streams will signal: R128. -/
def Core.streamTokens (k : Core) : List Nat := k.streams.filterMap Stream.sig ++ k.prefetch.filterMap Prefetch.sig

/-- Whether the core's DX drains at a boundary: streams that are not persistent, or slots of theirs, are left (R125, R127). -/
def Core.draining? (k : Core) : Bool := k.bndIssued && (k.streams.any (fun t => !t.d.persistent) || k.laceSlots)

/-- Whether a 17th stream waits to issue: R117. -/
def State.dxStall (s : State) (c : Nat) : Bool :=
  match (s.core c).headOf .dx with
  | some q => !q.waits && !s.engineFree c q
  | none => false

/-- Whether core `c` holds lace lines before its own stream has issued, on any channel: R134. -/
def State.laceEarly (s : State) (c : Nat) : Bool :=
  (List.range 4).any (fun l => !((s.core c).laceCh l).held.isEmpty && ((s.core c).laceStream l).isNone)

/-- Whether core `c` has lines ready to send on a lace channel and no credit: R134. -/
def State.laceStall (s : State) (c : Nat) : Bool :=
  (List.range 4).any (fun l => ((s.core c).laceStream l).isSome && !s.laceMaySend c l &&
    (!((s.core c).laceCh l).held.isEmpty || (s.laceCtl c l).2.1 == 0))

/-- Whether a started instruction of the core waits for a credit of a harness ring: R230. -/
def Core.creditWait (k : Core) : Bool :=
  k.busy.any (fun b => match b.wait with
    | .hxSend _ _ _ _ _ => true
    | .done | .hxRecv _ _ _ _ _ | .hxRow _ _ _ _ _ | .gx _ | .coll _ _ | .pres | .media _ => false)

/-- Whether a started HXRECV, or a VKL on a ring, waits for records: R230. -/
def Core.recordWait (k : Core) : Bool :=
  k.busy.any (fun b => match b.wait with
    | .hxRecv _ _ _ _ _ | .hxRow _ _ _ _ _ => true
    | .done | .hxSend _ _ _ _ _ | .gx _ | .coll _ _ | .pres | .media _ => false)

/-! ### The girth (R393) -/

/-- The member that the collective's core waits on: R393. As a reducer whose bucket is not yet summed, the lowest-numbered member that has not
contributed to it; awaiting results, the reducer of the lowest bucket missing; in a BCAST the root, in a CLEAR the lowest-numbered member whose
list is not whole. -/
def State.collWaitsOn (s : State) (v : Coll) : Nat :=
  let ms := v.ms
  let me := (ms.findIdx? (· == s.me)).getD 0
  if v.op = 2 then v.root
  else if v.op = 3 then v.due.headD 0 / 2 ^ 32
  else
    let got := match s.rinst? (s.slotOf v.grp) me v.inst with
      | some r => r.got
      | none => []
    let own := v.due.any (fun l => bucketOfLine v.n ms.length l == me)
    match (List.range ms.length).find? (fun m => own && !setHas got m) with
    | some m => ms.getD m 0
    | none => ms.getD (bucketOfLine v.n ms.length (v.due.headD 0)) 0

/-- The member that core `c` waits on in its oldest GX instruction: R393. -/
def State.gxWaitsOn (s : State) (c : Nat) : Option Nat :=
  (s.core c).busy.findSome? (fun b => match b.wait with
    | .gx tag => (s.girth.txns.find? (fun t => t.tag == tag && t.core == c)).map Txn.peer
    | .coll g inst => (s.coll? g inst).map s.collWaitsOn
    | .done | .hxSend _ _ _ _ _ | .hxRecv _ _ _ _ _ | .hxRow _ _ _ _ _ | .pres | .media _ => none)

/-! ### What is counted -/

/-- Whether the head of partition `p`'s admission FIFO waits for cover: R47, R48. -/
def State.headWaits (s : State) (p : Nat) : Bool :=
  match s.fifoOf p with
  | e :: _ => decide (s.remaining p < (e.uj : Int)) && decide (e.uj ≤ s.cover p)
  | [] => false

/-- Whether the next SX or media instruction of core `c` waits on a rein. -/
def State.headRein (s : State) (c : Nat) : Bool :=
  let at_ := fun (l : Cls) => (((s.core c).headOf l).filter (fun q => !q.waits)).map Queued.i
  (match at_ .sx with
   | some (.sxwalk _ _ _) => !(s.reinOpen (s.payer c) .dram && s.reinOpen (s.payer c) .media)
   | _ => false) ||
  (match at_ .media with
   | some (.mrd _ _ _) | some (.mwr _ _ _) | some (.mapp _ _ _) => !s.reinOpen (s.payer c) .media
   | _ => false)

/-- Whether a transfer of index `p` waits on a rein: of its cores' streams and instructions, of a switch, of its flits, of a host command (R400). -/
def State.reinWaits (s : State) (p : Nat) : Bool :=
  (List.range s.coreCount).any (fun c => s.payer c == p && (s.core c).run == .running &&
    (s.headRein c || (s.core c).streams.any (fun st =>
      let a := st.d.addr st.pos
      decide (0 ≤ a) && !s.mayMove c (a / 64 * 64).toNat))) ||
  (!s.reinOpen p .dram && s.jobs.any (fun j => j.part == p && (j.phase == .loading || (j.phase == .stopping && !j.cores.any s.outstanding)))) ||
  (List.range 6).any (fun g => (sget [] s.girth.outq g).any (fun e => e.f.part.toNat == p && !s.mayInject g e.f)) ||
  s.host.stalled.any (fun i => (hostHdr i).any (fun n => s.hostPayer n == p && !s.reinsPass n i))

/-- The counters of core `c` that an FCLK advances as the core stands. -/
def State.coreWaits (s : State) (c : Nat) : List Nat :=
  let k := s.core c
  if k.run ≠ .running then []
  else
    let heads := k.headTokens
    (if k.seqTokenWait || !heads.isEmpty then [Reg.SEQ_STALL_TOKEN c] else []) ++
    (if k.queueStall then [Reg.SEQ_STALL_QUEUE c] else []) ++
    (if k.bndIssued then [Reg.SEQ_BOUNDARY_FCLK c] else []) ++
    (if k.draining? then [Reg.DX_DRAIN_FCLK c] else []) ++
    (if s.dxStall c then [Reg.DX_STALL_SLOT c] else []) ++
    (if heads.any k.streamTokens.contains then [Reg.DX_STARVE c] else []) ++
    (if s.laceEarly c then [Reg.DX_LACE_WAIT c] else []) ++
    (if s.laceStall c then [Reg.DX_LACE_STALL c] else []) ++
    (if k.creditWait then [Reg.HX_WAIT_CREDIT c] else []) ++
    (if k.recordWait then [Reg.HX_WAIT_RECORD c] else []) ++
    (match s.gxWaitsOn c with
     | some m => [Reg.GIRTH_WAIT m]
     | none => [])

/-- The counters of partition `p`: its head step without cover (R47), its transfers held by a rein (R400), its job being switched (R406). -/
def State.partWaits (s : State) (p : Nat) : List Nat :=
  (if s.headWaits p then [Reg.PURSE_WAIT p] else []) ++
  (if s.reinWaits p then [Reg.SCHED_REIN_WAIT p] else []) ++
  (if s.jobs.any (fun j => j.part == p && (j.phase == .stopping || j.phase == .loading)) then [Reg.SCHED_SWITCH_FCLK p] else [])

/-- Every counter that an FCLK advances as the device stands; one that several cores advance is listed for each. -/
def State.waitRegs (s : State) : List Nat :=
  (List.range s.coreCount).flatMap s.coreWaits ++ (List.range 8).flatMap s.partWaits ++
  (if s.jobs.any (fun j => j.phase == .stopping && j.cores.any s.outstanding) then [Reg.SCHED_DEFER_FCLK] else []) ++
  (if s.reinWaits 8 then [Reg.SCHED_REIN_WAIT 8] else []) ++
  (List.range 6).flatMap (fun g => if (sget [] s.girth.outq g).any (fun e => s.mayInject g e.f) then [Reg.GIRTH_PORT_WAIT g] else [])

/-- The name space and the zone of a write that waits for the media. -/
def State.stalledWrite (s : State) : Instr → Option (Nspace × Nat)
  | .write _ d a _ | .writeZeroes _ d a _ | .zoneAppend _ d a _ =>
    (s.ns? d.toNat).map (fun v => (v, if v.zoned then a / zoneSize v.kind else 0))
  | _ => none

/-- Whether a host read waits for an erase. -/
def State.stalledRead (s : State) : Instr → Bool
  | .read _ d a k | .verify _ d a k => (s.ns? d.toNat).any (fun v => s.readWaits v a k)
  | .compare _ d a data => (s.ns? d.toNat).any (fun v => s.readWaits v a (data.length / lbaBytes))
  | _ => false

/-- Whether the next media request of core `c` waits for an erase: R315, R328. -/
def State.mediaErase (s : State) (c : Nat) : Bool :=
  match (s.core c).headOf .media with
  | some q =>
    (s.core c).run == .running && !q.waits &&
      (match q.i with
       | .mrd _ a m =>
         let r := MediaReq.ofBytes (s.opBytes q.x .sram (lineOp (q.x.gen a) m.toNat) 64)
         (s.ns? r.nsid).any (fun v => v.inside r.slba r.nlb && decide (r.nlb ≤ 4096) && s.readWaits v r.slba r.nlb)
       | .mwr _ a m | .mapp _ a m => s.mediaWaits q.x .wr a m
       | _ => false)
  | none => false

/-- Whether a stream of core `c` waits for a flash page whose die erases: R315. -/
def State.streamErase (s : State) (c : Nat) : Bool :=
  (s.core c).run == .running &&
    (s.core c).streams.any (fun st => let a := st.d.addr st.pos; decide (0 ≤ a) && s.lineWaits a.toNat)

/-- The media counters that a PCLK advances: a read that waits for an erase below the suspend floor (R315), a write that waits for the last erase of
its media-direct zone (R328), and one that waits for free blocks or for the write buffer (R315, R318). -/
def State.mediaWaitRegs (s : State) : List Nat :=
  let w := (s.host.stalled.filterMap s.stalledWrite).filter (fun p => s.writeWaits p.1 p.2)
  let cores := List.range s.coreCount
  (if w.any (fun p => p.1.kind == 2) || s.host.stalled.any s.stalledRead || cores.any s.mediaErase || cores.any s.streamErase then
    [Reg.MEDIA_ERASE_WAIT] else []) ++
  (if w.any (fun p => p.1.kind != 2) then [Reg.MEDIA_WRITE_STALL] else [])

/-- `n` PCLK, of three FCLK each, pass with the device as it stands; none is counted while the module is unpowered or held in reset. -/
def State.cyclesPass (s : State) (n : Nat) : State :=
  if s.alive then State.each s.mediaWaitRegs (fun r s => s.addReg r n) (State.each s.waitRegs (fun r s => s.addReg r (3 * n)) s) else s

end Sys2Proof.Machine
end

