-- ==== Sys2Proof/Machine/HubEvents.lean ====
section
/-! DEFINITION. Machine/HubEvents.lean: events of the power block, the DRAM and its pool, the scheduler, the daybook, and the writes of the
registers that act by themselves (chapters 02, 05, 14, 15). -/

namespace Sys2Proof.Machine

open Sys2Proof

/-! ### The pool and the scrubber (R142, R144, R146, R153) -/

/-- Whether housekeeping's reins pass DRAM and media traffic: R25, R400. -/
def State.houseMoves (s : State) : Bool := s.reinOpen 8 .dram && s.reinOpen 8 .media

/-- A promotion copy's last line lands: the page is resident (R146), its 32,768 lines charged to housekeeping (R144). A page that became
poisoned meanwhile is never promoted (R150). -/
def State.copyDone (s : State) (p : Nat) : State :=
  if !setHas s.weight.copying p || !s.houseMoves then s
  else
    match s.attached p with
    | none => s.evict p
    | some t =>
      if s.pagePoisoned t p then s.evict p
      else
        let s := { s.frameClean p with weight := { s.weight with copying := setDel s.weight.copying p, resident := setAdd s.weight.resident p } }
        (s.addReg Reg.PROMO_IN_COUNT 1).chargeHouse 4 32768

/-- The frames released by a shrink are zero: DRAM_LIMIT rises at the next boundary (R142). -/
def State.zeroingDone (s : State) : State :=
  if s.bit Reg.DRAM_POOL_CTL 8 && s.weight.limitAfter.isNone then
    let lo := s.dramLimit + 1
    let hi := poolBase (s.fld Reg.DRAM_POOL_CTL 0 6)
    { s with mem := memZero s.mem lo (hi - lo), poison := s.poison.filter (fun l => decide (l * 64 < lo) || decide (hi ≤ l * 64))
             weight := { s.weight with limitAfter := some (hi - 1) } }.chargeHouse 4 ((hi - lo) / 64)
  else s

/-- Lines of DRAM. -/
def dramLines : Nat := 8589934592

/-- The scrubber reads the next line: R153. Every access is housekeeping's (R25). -/
def State.scrub (s : State) (out : LineOutcome) : State :=
  if !s.alive || !s.bit Reg.DRAM_SCRUB_CTL 0 || !s.reinOpen 8 .dram then s
  else
    let a := dramBase + 64 * s.scrubAt
    let s := { s with scrubAt := (s.scrubAt + 1) % dramLines }.chargeHouse 4 1
    if s.poisoned (a / 64) then s
    else
      match out with
      | .clean | .hostError => s
      | .corrected => (s.addReg Reg.DRAM_CE_COUNT 1).chargeHouse 4 1
      | .uncorrectable => (((s.markLine (a / 64) true true).raise .mem 1 0 a).addReg Reg.DRAM_UE_COUNT 1).chargeHouse 4 1

/-! ### Power and clocks -/

/-- POWER_SAMPLE: R41. The cycles since the sample before count where something waited. -/
def execPowerSample (p : Sample) (s : State) : Host.Outcome State Fault Refusal := .next ((s.cyclesPass p.pclk).sample p)

/-- THERMAL_TRIP_RELEASE: R56. -/
def execThermalTripRelease (junctionW junctionE junctionHub flashMax : BitVec 16) (s : State) : Host.Outcome State Fault Refusal :=
  .next (s.tripRelease junctionW junctionE junctionHub flashMax)

/-- What reins may have opened goes ahead: flits that wait to be injected, host commands that wait for media. -/
def State.goOn (s : State) : State := (State.each (List.range 6) (fun g s => s.pumpPort g) s).runStalled

/-- The next period begun: no sample of it is taken yet. -/
def State.nextPeriod (s : State) : State := { s with power := { s.power with inPeriod := 0 } }

/-- PERIOD_BOUNDARY: R42. -/
def execPeriodBoundary (s : State) : Host.Outcome State Fault Refusal := .next (if s.periodDue then s.periodBoundary.goOn.nextPeriod else s)

/-- STEP_ADMIT: R47. Entry into PS3 or PS4 has stopped admission until the module is operational again (R367). -/
def execStepAdmit (part : PartId) (s : State) : Host.Outcome State Fault Refusal :=
  .next (if s.host.psPhase == .operational then (s.admitHead part.toNat).runAll else s)

/-- PURSE_CTL_WRITE: R46. -/
def execPurseCtlWrite (p : BitVec 4) (value : Word) (s : State) : Host.Outcome State Fault Refusal :=
  .next (s.registerWrite (Reg.PURSE_CTL p.toNat) 8 value)

/-- PWR_ALERT_ASSERT: R58, and SLED_ALERT_N's of R470. -/
def execPwrAlertAssert (sled : Bool) (s : State) : Host.Outcome State Fault Refusal := .next (s.alertFalls sled)

/-- ALERT_FORCE_WRITE: R59. -/
def execAlertForceWrite (value : Word) (s : State) : Host.Outcome State Fault Refusal :=
  .next (s.registerWrite Reg.PWR_ALERT_CTL 8 value)

/-- DROOP_WARNING: R61. -/
def execDroopWarning (tile : Tile) (mv : Nat) (s : State) : Host.Outcome State Fault Refusal := .next (s.droopWarn tile mv)

/-- DROOP_HOLD_EXPIRY: R61. -/
def execDroopHoldExpiry (tile : Tile) (s : State) : Host.Outcome State Fault Refusal := .next (s.droopExpire tile)

/-- DROOP_RESET: R62. -/
def execDroopReset (tile : Tile) (mv : Nat) (s : State) : Host.Outcome State Fault Refusal := .next (s.droopReset tile mv)

/-- DROOP_RECOVERY: R61. -/
def execDroopRecovery (tile : Tile) (mv : Nat) (s : State) : Host.Outcome State Fault Refusal := .next (s.droopRecover tile mv)

/-- ROOT_PLL_LOSS: R36. -/
def execRootPllLoss (s : State) : Host.Outcome State Fault Refusal := .next s.rootLoss

/-- INTERFACE_PLL_LOSS: R36. -/
def execInterfacePllLoss (pll : IfPll) (s : State) : Host.Outcome State Fault Refusal := .next (s.pllLoss pll)

/-! ### Memory -/

/-- PROMOTION_COPY_DONE: R146. -/
def execPromotionCopyDone (page : Nat) (s : State) : Host.Outcome State Fault Refusal := .next (s.copyDone page)

/-- POOL_SIZE_WRITE: R142. -/
def execPoolSizeWrite (value : Word) (s : State) : Host.Outcome State Fault Refusal :=
  .next (s.registerWrite Reg.DRAM_POOL_CTL 8 value)

/-- POOL_ZEROING_DONE: R142. -/
def execPoolZeroingDone (s : State) : Host.Outcome State Fault Refusal := .next s.zeroingDone

/-- DRAM_SCRUB: R153. -/
def execDramScrub (out : LineOutcome) (s : State) : Host.Outcome State Fault Refusal := .next (s.scrub out)

/-! ### The scheduler -/

/-- SLICE_EXPIRY: R405. -/
def execSliceExpiry (part : PartId) (s : State) : Host.Outcome State Fault Refusal := .next (s.sliceExpiry part.toNat)

/-- SWITCH_DEFER_END: R407. -/
def execSwitchDeferEnd (part : PartId) (s : State) : Host.Outcome State Fault Refusal := .next (s.deferEnd part.toNat)

/-- SWITCH_OUT_COMPLETE: R406. -/
def execSwitchOutComplete (part : PartId) (s : State) : Host.Outcome State Fault Refusal := .next (s.switchOut part.toNat)

/-- SWITCH_IN_COMPLETE: R406. -/
def execSwitchInComplete (part : PartId) (s : State) : Host.Outcome State Fault Refusal := .next (s.switchIn part.toNat)

/-- JOB_PLACE: R403. -/
def execJobPlace (part : PartId) (s : State) : Host.Outcome State Fault Refusal := .next (s.placeNext part.toNat)

/-- REIN_WRITE: R400. -/
def execReinWrite (girth : Bool) (p : BitVec 4) (value : Word) (s : State) : Host.Outcome State Fault Refusal :=
  .next (s.registerWrite (if girth then Reg.SCHED_GREIN p.toNat else Reg.SCHED_REIN p.toNat) 8 value)

/-! ### The daybook -/

/-- DAYBOOK_DELIVER: R413. -/
def execDaybookDeliver (s : State) : Host.Outcome State Fault Refusal := .next (if s.alive then s.deliver else s)

/-- DBK_EOI: R417. -/
def execDbkEoi (value : Word) (s : State) : Host.Outcome State Fault Refusal := .next (s.registerWrite Reg.DBK_EOI 8 value)

/-- DBK_SOFT: R422. -/
def execDbkSoft (value : Word) (s : State) : Host.Outcome State Fault Refusal := .next (s.registerWrite Reg.DBK_SOFT 8 value)

/-- DBK_HOLD_WRITE: R418. -/
def execDbkHoldWrite (value : Word) (s : State) : Host.Outcome State Fault Refusal := .next (s.registerWrite Reg.DBK_CTL 8 value)

/-- DBK_RING_HEAD_WRITE: R416. -/
def execDbkRingHeadWrite (steward : BitVec 3) (value : Word) (s : State) : Host.Outcome State Fault Refusal :=
  .next (s.registerWrite (Reg.DBK_RING steward.toNat) 8 value)

/-- STEWARD_SLEEP: R419. -/
def execStewardSleep (steward : BitVec 3) (s : State) : Host.Outcome State Fault Refusal :=
  .next (if s.alive then s.stwSleep steward.toNat else s)

/-- STEWARD_STUCK: R420. -/
def execStewardStuck (steward : BitVec 3) (s : State) : Host.Outcome State Fault Refusal :=
  .next (if s.alive then s.stwStuck steward.toNat else s)

/-- STEWARD_STUCK_CLEAR: R420. -/
def execStewardStuckClear (steward : BitVec 3) (value : Word) (s : State) : Host.Outcome State Fault Refusal :=
  .next (s.registerWrite (Reg.DBK_STW steward.toNat) 8 value)

/-! ### Faults, ledgers and plain registers -/

/-- FAULT_REGISTER_CLEAR: R10. -/
def execFaultRegisterClear (offset : Nat) (value : Word) (s : State) : Host.Outcome State Fault Refusal :=
  .next (s.registerWrite offset 8 value)

/-- QUARANTINE_RELEASE: R436. -/
def execQuarantineRelease (value : Word) (s : State) : Host.Outcome State Fault Refusal :=
  .next (s.registerWrite Reg.FAULT_QUARANTINE 8 value)

/-- LEDGER_TEST_ARM: R437. -/
def execLedgerTestArm (value : Word) (s : State) : Host.Outcome State Fault Refusal := .next (s.registerWrite Reg.LEDGER_TEST 8 value)

/-- REGISTER_WRITE: R12; with a virtual function, a write through its BAR2-3, which shows SRAM windows in place of registers (R342). -/
def execRegisterWrite (place : BarAt) (size : Nat) (value : Word) (s : State) : Host.Outcome State Fault Refusal :=
  .next (match place with
    | .physical off => s.registerWrite off size value
    | .virtual k off => s.vfWrite k.toNat off (leBytes size value.toNat))

end Sys2Proof.Machine
end

