-- ==== Sys2Proof/Machine/FlashEvents.lean ====
section
/-! DEFINITION. Machine/FlashEvents.lean: what the dies and the channels report, and the work of the translation layer (chapter 11: R310 to R328,
and R476). -/

namespace Sys2Proof.Machine

open Sys2Proof

/-! ### Lost data (R149, R300, R324, R365) -/

/-- The jobs that request a line of the weight page at device address `a`, as their streams stand, failed: R149. -/
def State.failReaders (s : State) (a : Nat) : State :=
  let in_ := fun (n : Int) => decide ((a : Int) ≤ n) && decide (n < a + 2097152)
  State.each (List.range 32) (fun c s =>
    if (s.core c).run == .running && (s.core c).streams.any (fun t => !t.d.wr && in_ (t.d.addr t.pos)) then s.failCore c .weightPoison else s) s

/-- A weight page that flash cannot return: recorded, or its whole name space poisoned when the list is full (R149). -/
def State.poisonPage (s : State) (id z : Nat) : State :=
  let k := wkey id z
  if setHas s.weight.poisoned k || setHas s.weight.wholeNs id then s
  else
    let full := decide (65536 ≤ s.weight.poisoned.length)
    let s := if full then { s with weight := { s.weight with wholeNs := setAdd s.weight.wholeNs id } }
      else { s with weight := { s.weight with poisoned := setAdd s.weight.poisoned k } }
    let t := s.weight.attached.find? (fun t => t.nsid == id)
    let a := match t with
      | some t => weightBase + 2097152 * (t.base + z)
      | none => 0
    let s := match t with
      | some t => if setHas s.weight.copying (t.base + z) then s.evict (t.base + z) else s
      | none => s
    let s := s.raise .mem 3 0 a
    let s := if full then s.raise .mem 4 0 a else s
    ((s.recordLost id 2 (512 * z) 512).raiseEvent 0xC1).failReaders a

/-- Whether zone `z` of a weight name space is an attached page. -/
def State.attachedZone (s : State) (id z : Nat) : Bool := s.weight.attached.any (fun t => t.nsid == id && decide (z < t.pages))

/-- A unit of user data lost: the weight page of it poisoned, or its logical blocks marked; acknowledged data lost so are logged and owed to every
controller of the name space (R319, R324, R365). -/
def State.loseUnit (s : State) (id u : Nat) : State :=
  match s.ns? id with
  | none => s
  | some v =>
    if v.kind = 3 ∧ s.attachedZone id (u / 128) then s.poisonPage id (u / 128)
    else
      let ls := ((List.range 4).map (4 * u + ·)).filter (· < v.lbas)
      let s := s.setNs id { v with lost := ls.foldl setAdd v.lost }
      if v.kind = 2 then s
      else
        let s := s.modNs id (fun v => { v with deferOn := v.ctrls.foldl setAdd v.deferOn })
        (s.recordLost id 0 (4 * u) ls.length).raiseEvent 0xC0

/-- The unit that a flash page holds, by its place in a media-direct zone (R326) or by the map (R317). -/
def State.unitIn (s : State) (p : Ppa) : Option (Nat × Nat) :=
  match s.zoneOf (sbOf (s.servesAs p.key)) with
  | some (id, z, w) =>
    let st := p.page.toNat
    let m := p.channel.toNat % 32
    let n := dataPage m st
    if m ≠ st % 32 ∧ 4 * n < w.wp then some (id, (z * zoneSize 2 + 4 * n) / 4) else none
  | none => ((s.unitsOn (· == p.nat)).head?).map (fun e => (ukeyNs e.1, ukeyUnit e.1))

/-- A map page lost in flash: programmed again from the cache, or every unit that it maps takes the lost mark (R317, R324). -/
def State.loseMap (s : State) (m : Nat) : State :=
  let s := { s with media := { s.media with maps := sput 0 s.media.maps m 0 } }
  if s.media.cache.contains m then { s with media := { s.media with mapDirty := setAdd s.media.mapDirty m } }
  else
    match s.ns? (ukeyNs m) with
    | some v => State.each (v.mapped.filter (fun u => u / mapEntries == ukeyUnit m)) (fun u s => s.loseUnit (ukeyNs m) u) s
    | none => s

/-- A page declared lost: its slots move to bad and count as lost, its units take the mark (R324, R330). -/
def State.losePage (s : State) (p : Ppa) : State :=
  let b := s.fblk p.key
  let par := p.page.toNat % 32 == p.channel.toNat % 32
  let n := min b.step (if par then b.parity else b.valid)
  if b.erasing || b.use == .bad || n == 0 || decide (b.next ≤ p.page.toNat) then s
  else
    let s := s.setFblk p.key (if par then { b with parity := b.parity - n, bad := b.bad + n, lost := b.lost + n }
      else { b with valid := b.valid - n, bad := b.bad + n, lost := b.lost + n })
    let s := s.movePages (if par then Reg.MEDIA_PAGE_PARITY else Reg.MEDIA_PAGE_VALID) Reg.MEDIA_PAGE_BAD n
    let s := s.setFld Reg.MEDIA_PAGE_LOST 0 36 (s.fld Reg.MEDIA_PAGE_LOST 0 36 + n)
    let s := { s with media := { s.media with hurt := true } }.mediaFault 7 p.nat
    if par then s
    else
      match s.unitIn p, s.media.maps.find? (fun e => e.2 == p.nat + 1) with
      | some (id, u), _ => if s.directBlk p.key then s.loseUnit id u else (s.remap id u 0).loseUnit id u
      | none, some m => s.loseMap m.1
      | none, none => s

/-! ### Reads (R314, R322, R323, R325) -/

/-- Whether a PPA names a page that the media can reach. -/
def State.ppaHere (s : State) (p : Ppa) : Bool := s.alive && p.ok && !(s.die p.die).retired

/-- The block of a die whose erase runs. -/
def State.erasingOn (s : State) (d : Nat) : Option Nat := (s.media.blks.find? (fun e => keyDie e.1 == d && e.2.use == .erasing)).map Prod.fst

/-- A read reaches a die: it suspends a running erase, above the suspend floor, or at any fill for the reads of a rebuild (R314, R315, R323). -/
def State.readReaches (s : State) (d : Nat) (rebuild : Bool) : State :=
  match s.erasingOn d with
  | some k => if rebuild || decide (s.fld Reg.MEDIA_GC_CTL 16 16 ≤ s.freeBp) then s.suspendErase k else s
  | none => s

/-- A block scheduled for refresh: R325. -/
def State.scheduleRefresh (s : State) (k : Nat) : State :=
  if (s.fblk k).use = .bad then s else { s with media := { s.media with refreshQ := setAdd s.media.refreshQ k } }

/-- The dies of a page's stripe but its own. -/
def stripeMates (p : Ppa) : List Nat :=
  ((List.range 32).map (fun m => (p.channel.toNat / 32 * 32 + m) * 24 + p.position.toNat)).filter (· != p.die)

/-- The 31 reads of a stripe rebuild, housekeeping's: R320, R322. -/
def State.rebuildReads (s : State) (p : Ppa) : State :=
  let s := State.each (stripeMates p) (fun d s => (s.readReaches d true).modDie d (fun v => { v with reads := v.reads + 1 })) s
  ((s.addReg Reg.MEDIA_REBUILDS 1).addReg Reg.MEDIA_READS 31).chargeHouse 5 31

/-- A code word that needed any retry. -/
def State.retried (s : State) (d : Nat) : State :=
  (s.addReg Reg.MEDIA_RETRIES 1).modDie d (fun v => { v with retried := v.retried + 1 })

def State.corrected (s : State) (d : Nat) : State := s.modDie d (fun v => { v with corrected := v.corrected + 1 })

/-- Two pages lie in one stripe: the same page of two members of one superblock, whichever blocks serve as those members (R307). -/
def State.sameStripe (s : State) (p q : Ppa) : Bool :=
  q.die != p.die && sbOf (s.servesAs q.key) == sbOf (s.servesAs p.key) && q.page == p.page

/-- Whether a code word came to the stripe rebuild. -/
def Recovery.deep : Recovery → Bool
  | .rebuilt | .failed => true
  | .hard _ | .retry _ | .soft => false

/-- One code word of a page delivered, or not: what is counted, and whether the block is due for refresh (R322, R325). -/
def State.recoverWord (p : Ppa) (r : Recovery) (s : State) : State :=
  let d := p.die
  match r with
  | .hard n =>
    let s := if n = 0 then s else s.corrected d
    if s.fld Reg.MEDIA_REFRESH_CTL 8 8 ≤ n then s.scheduleRefresh p.key else s
  | .retry n =>
    let s := (s.corrected d).retried d
    if s.fld Reg.MEDIA_REFRESH_CTL 0 4 ≤ n then s.scheduleRefresh p.key else s
  | .soft => ((s.corrected d).retried d).scheduleRefresh p.key
  | .rebuilt => (s.retried d).scheduleRefresh p.key
  | .failed =>
    (((s.retried d).scheduleRefresh p.key).addReg Reg.MEDIA_UNCORR 1).modDie d (fun v => { v with uncorr := v.uncorr + 1 })

/-- FLASH_PAGE_READ_DONE: the page's four code words, each recovered on its own (R322); one rebuild returns the whole page, and runs on housekeeping's
rein (R25). A page that some code word of failed every step is lost (R324). A read of a block that is erasing never reaches the flash (R316). -/
def State.pageRead (s : State) (p : Ppa) (rs : List Recovery) (second : Option Ppa) : State :=
  if !s.ppaHere p || (s.fblk p.key).erasing || (rs.any Recovery.deep && !s.reinOpen 8 .media) then s
  else
    let d := p.die
    let s := (s.readReaches d false).addReg Reg.MEDIA_READS 1
    let s := s.modDie d (fun v => { v with reads := v.reads + 1 })
    let s := s.modChan p.channel.toNat (fun v => { v with reads := v.reads + 16384, fails := 0 })
    let s := { s with media := { s.media with around := setDel s.media.around p.nat } }
    let s := State.each rs (State.recoverWord p) s
    let s := if rs.any Recovery.deep then s.rebuildReads p else s
    if rs.contains .failed then
      let s := (s.mediaFault 6 p.nat).losePage p
      match second with
      | some q => if q.ok && s.sameStripe p q then s.losePage q else s
      | none => s
    else s

/-- READ_AROUND: R323. At most 8 run in a stripe group at a time; the original read stays queued unless the rebuild delivers first. -/
def State.readAround (s : State) (p : Ppa) (rebuildFirst : Bool) : State :=
  let g := groupOf p.channel.toNat p.position.toNat
  let inGroup := s.media.around.filter (fun q => groupOf (q % 64) (q / 64 % 32) == g)
  if !s.ppaHere p || !s.bit Reg.MEDIA_RA_CTL 0 || (s.fblk p.key).erasing || decide (8 ≤ inGroup.length) || setHas s.media.around p.nat ||
      !s.reinOpen 8 .media then s
  else
    let s := (s.addReg Reg.MEDIA_READ_AROUND 1).modDie p.die (fun v => { v with
      readAround := v.readAround + 1, aroundAt := v.aroundAt.filter (fun i => decide (v.reads < i + 65536)) ++ [v.reads] })
    let s := s.rebuildReads p
    if rebuildFirst then
      -- the rebuild serves the requests that waited for this page, which has been rebuilt (R325)
      let s := (s.modDie p.die (fun v => { v with reads := v.reads + 1 })).scheduleRefresh p.key
      { s with media := { s.media with rebuilt := setAdd s.media.rebuilt p.nat } }
    else { s with media := { s.media with around := setAdd s.media.around p.nat } }

/-! ### Programs (R310 to R312) -/

/-- Pages of a block in its mode. -/
def modePages (slc : Bool) : Nat := if slc then 768 else 3072

/-- Whether the page may hold what was programmed to it (R307, R317, R321, R326, R327): parity on member page mod 32 and nothing else there; in a
media-direct zone its own data as far as they have been written, or the parity of a stripe that is done; elsewhere a unit that waits in the
buffer, a host's in the SLC buffer while that has room and else in QLC, one that the layer moves in QLC; map pages and journal in SLC. -/
def State.progFits (s : State) (p : Ppa) (slc : Bool) (kind : ProgKind) : Bool :=
  let m := p.channel.toNat % 32
  let st := p.page.toNat
  let b := sbOf (s.servesAs p.key)
  let par := m == st % 32
  match s.zoneOf b with
  | some (_, _, w) =>
    !slc && (match kind with
      | .direct => !par && decide (4 * dataPage m st < w.wp)
      | .parity => par && s.stripeDone b w st
      | .unit _ _ | .map _ _ | .journal => false)
  | none =>
    match kind with
    | .unit id u =>
      !par && (if setHas s.media.fresh (ukey id u) then
          slc == s.slcRoom && (!slc || (s.fblk p.key).use == .open_ || decide (s.fld Reg.MEDIA_SLC 0 32 < s.slcBlocks))
        else setHas s.media.moved (ukey id u) && !slc)
    | .map id i => !par && slc && setHas s.media.mapDirty (ukey id i)
    | .journal => !par && slc && decide (0 < s.media.journal)
    | .parity => par
    | .direct => false

/-- Whether the program that a die reports can have been issued: before a hold or a limit came into force, or within it (R56, R58, R61). `beside`
lists the dies that were programming as it was issued: one program a channel pair from 105 °C, 32 channels from flash_warn_c. -/
def State.mayProgram (s : State) (d : Nat) (beside : List Nat) : Bool :=
  decide ((s.die d).gate < s.power.gate) ||
    (!s.programHeld && !beside.contains d &&
      (!s.power.therm105 || beside.all (fun e => e / 48 != d / 48)) &&
      (!s.power.flash80 || decide ((((d :: beside).map (· / 24)).foldl setAdd []).length ≤ 32)))

/-- A passed page put to its use: the unit has its home there and leaves the buffer, in QLC after its read-back (R311); a map page or the journal's
tail is in flash. -/
def State.progUse (s : State) (p : Ppa) (slc : Bool) (kind : ProgKind) : State :=
  match kind with
  | .unit id u =>
    let s := s.remap id u (p.nat + 1)
    { s with media := { s.media with
      fresh := setDel s.media.fresh (ukey id u), moved := setDel s.media.moved (ukey id u)
      held := if slc then s.media.held else setAdd s.media.held p.nat } }
  | .map id i =>
    let m := ukey id i
    let s := match sget 0 s.media.maps m with
      | 0 => s
      | a + 1 => s.dropPage a
    { s with media := { s.media with maps := sput 0 s.media.maps m (p.nat + 1), mapDirty := setDel s.media.mapDirty m } }
  | .journal => { s with media := { s.media with journal := 0 } }
  | .direct | .parity => s

/-- Who pays for a program: the parity, map and journal pages are housekeeping's (R320); a unit's was charged when it was written or moved. -/
def State.progCharge (s : State) : ProgKind → State
  | .parity | .map _ _ | .journal => s.chargeHouse 6 1
  | .unit _ _ | .direct => s

/-- FLASH_PROGRAM_DONE: R310, R312, R330. Pages are programmed in ascending order; the sequencers issue nothing else. -/
def State.programDone (s : State) (p : Ppa) (slc : Bool) (kind : ProgKind) (pass : Bool) (beside : List Nat) : State :=
  let k := p.key
  let b := s.fblk k
  if !s.ppaHere p || !(b.use == .good || (b.use == .open_ && b.slc == slc)) || p.page.toNat != b.next || decide (modePages slc ≤ p.page.toNat) ||
      !s.progFits p slc kind || !s.mayProgram p.die beside then s
  else
    let s := (s.addReg Reg.MEDIA_PROGRAMS 1).modChan p.channel.toNat (fun v => { v with writes := v.writes + 16384, fails := 0 })
    let s := ((s.modDie p.die (fun v => { v with gate := s.power.gate })).progCharge kind).openBlk k slc
    if pass then
      let b := s.fblk k
      let n := b.step
      let b := { b with next := b.next + 1, use := if b.next + 1 = modePages slc then .closed else .open_ }
      let s := if kind = .parity then (s.setFblk k { b with parity := b.parity + n }).movePages Reg.MEDIA_PAGE_FREE Reg.MEDIA_PAGE_PARITY n
        else (s.setFblk k { b with valid := b.valid + n }).movePages Reg.MEDIA_PAGE_FREE Reg.MEDIA_PAGE_VALID n
      s.progUse p slc kind
    else
      let s := (s.mediaFault 3 p.nat).modDie p.die (fun v => { v with progFail := v.progFail + 1 })
      s.growBad k p.nat

/-- READ_BACK: R311. Group w's data leave the buffer, or are written again and the block is closed and scheduled for refresh. The layer reads no
media-direct zone back (R327), and reads on housekeeping's rein (R25). -/
def State.readBack (s : State) (p : Ppa) (bits : Nat) (decoded : Bool) : State :=
  let k := p.key
  let b := s.fblk k
  let q := p.page.toNat
  if !s.ppaHere p || b.slc || b.erasing || b.use == .bad || q % 4 != 3 || decide (b.next ≤ q) || s.directBlk k || !s.reinOpen 8 .media then s
  else
    let group := (List.range 4).map (fun i => ppaNat k (q - i))
    let s := ((s.readReaches p.die false).addReg Reg.MEDIA_READS 1).chargeHouse 5 1
    let s := s.modDie p.die (fun v => { v with reads := v.reads + 1 })
    let us := s.unitsOn group.contains
    let s := { s with media := { s.media with held := s.media.held.filter (fun a => !group.contains a) } }
    if decoded && decide (bits < s.fld Reg.MEDIA_REFRESH_CTL 8 8) then s
    else
      let s := State.each us (fun e s => State.moveUnit (ukeyNs e.1) (ukeyUnit e.1) (s.dropPage e.2)) s
      let s := (s.setFblk k { s.fblk k with use := .closed }).chargeHouse 6 us.length
      (s.scheduleRefresh k).mediaFault 5 p.nat

/-! ### Erases (R313, R314, R328, R330) -/

/-- FLASH_ERASE_DONE: the slots are free, or the block is retired. -/
def State.eraseDone (s : State) (p : Ppa) (pass : Bool) : State :=
  let k := p.key
  let b := s.fblk k
  if !s.ppaHere p || b.use != .erasing then s
  else
    let s := ((s.addReg Reg.MEDIA_ERASES 1).chargeHouse 7 1).modChan p.channel.toNat (fun v => { v with fails := 0 })
    let s :=
      if pass then
        let s := s.movePages Reg.MEDIA_PAGE_ERASING Reg.MEDIA_PAGE_FREE (3072 - b.bad)
        let s := s.setFld Reg.MEDIA_FREE 32 32 (s.fld Reg.MEDIA_FREE 32 32 - 1)
        let s := if b.slc then s.setFld Reg.MEDIA_SLC 0 32 (s.fld Reg.MEDIA_SLC 0 32 - 1) else s
        let s := s.setFblk k { bad := b.bad, erases := b.erases + 1 }
        (s.setFree (s.freeBlocks + 1)).lifeCheck
      else ((s.mediaFault 4 p.nat).modDie p.die (fun v => { v with eraseFail := v.eraseFail + 1 })).growBad k p.nat
    let s := { s with media := { s.media with rebuilt := s.media.rebuilt.filter (fun a => keyDie (ppaBlk a) != p.die) } }
    (s.eraseOver k).startErases

/-- ERASE_RESUME: R314; not while the power block holds erases (R56, R58). -/
def State.eraseResume (s : State) (p : Ppa) : State :=
  if s.ppaHere p && (s.fblk p.key).use == .suspended && !s.eraseHeld then s.setFblk p.key { s.fblk p.key with use := .erasing } else s

/-! ### The translation layer's own work (R315, R321, R325) -/

/-- A superblock's valid data relocated, and its blocks queued for their erase. -/
def State.evacuate (s : State) (b : Nat) : State :=
  State.each (s.sbBlks b) (fun k s => if (s.fblk k).use = .good then s else State.queueErase k (s.relocate k)) s

/-- The closed superblock with the fewest valid pages, the lowest (group, plane, block) on a tie: R315. -/
def State.victim (s : State) : Option Nat :=
  let bs := s.media.blks.foldl (fun l e => if e.2.use = .closed ∧ !s.directBlk e.1 then setAdd l (sbOf (s.servesAs e.1)) else l) []
  let whole := bs.filter (fun b => (s.sbBlks b).all (fun k => (s.fblk k).use == .closed))
  let pages := fun b => (s.sbBlks b).foldl (fun n k => n + (s.fblk k).pages) 0
  whole.foldl (fun best b => match best with
    | none => some b
    | some a => if pages b < pages a then some b else some a) none

/-- GARBAGE_COLLECTION: on the housekeeping media rein, below gc_start_bp. -/
def State.collect (s : State) : State :=
  if !s.alive || !s.reinOpen 8 .media || decide (s.fld Reg.MEDIA_GC_CTL 0 16 ≤ s.freeBp) then s
  else
    match s.victim with
    | some b => (s.evacuate b).startErases
    | none => s

/-- FOLD: pages of an SLC block copied to QLC; a full block without valid data leaves the buffer through its erase. -/
def State.fold (s : State) (p : Ppa) (pages : Nat) : State :=
  let k := p.key
  let b := s.fblk k
  if !s.ppaHere p || !b.slc || b.erasing || b.use == .bad || !s.reinOpen 8 .media then s
  else
    let us := (s.unitsIn k).take pages
    let n := us.length
    let s := State.each us (fun e s => State.moveUnit (ukeyNs e.1) (ukeyUnit e.1) (s.dropPage e.2)) s
    let s := ((s.addReg Reg.MEDIA_READS n).chargeHouse 5 n).chargeHouse 6 n
    if (s.fblk k).use = .closed ∧ (s.fblk k).valid = 0 then (State.queueErase k s).startErases else s

/-- A media-direct zone's data moved to another superblock that nothing uses; it fills as the programs pass. -/
def State.moveDirect (s : State) (b t : Nat) : State :=
  { s with
    free := s.free + 1
    nss := s.nss.map (fun e => if e.2.kind = 2 then
        (e.1, { e.2 with zones := e.2.zones.map (fun z => if z.2.sb = some b then (z.1, { z.2 with sb := some t }) else z) })
      else e) }

/-- REFRESH: the valid data of a scheduled superblock relocated as housekeeping. -/
def State.refresh (s : State) (p : Ppa) : State :=
  let b := sbOf (s.servesAs p.key)
  let ks := s.sbBlks b
  if !s.alive || !p.ok || !s.reinOpen 8 .media || !ks.any (fun k => setHas s.media.refreshQ k) then s
  else
    let to_ := if s.directBlk p.key then s.freeSb (Config.superblock b 0 s.free % superblocks) else some b
    match to_ with
    | none => s
    | some t =>
      let s := (s.addReg Reg.MEDIA_REFRESHES 1).evacuate b
      let s := { s with media := { s.media with refreshQ := s.media.refreshQ.filter (fun k => !ks.contains k) } }
      (if t = b then s else s.moveDirect b t).startErases

/-! ### Channels, dies and the hold-up bank (R312, R476) -/

/-- CHANNEL_TRAINING_FAIL: the third in succession declares the channel down and retires its 24 dies. -/
def State.trainingFails (s : State) (c : Nat) : State :=
  if !s.alive || (s.chan c).down then s
  else
    let s := s.modChan c (fun v => { v with fails := v.fails + 1, retrains := v.retrains + 1 })
    if (s.chan c).fails < 3 then s
    else
      let s := s.modChan c (fun v => { v with down := true })
      let s := State.each (List.range 24) (fun i s => s.retireDie (c * 24 + i) (c + i * 64)) s
      { s with media := { s.media with hurt := true } }.mediaFault 9 c

/-- The write buffer's next cap takes effect once the buffer has drained below it: R476. -/
def State.takeCap (s : State) : State :=
  if s.media.buffered < s.media.capNext * 64 then { s with media := { s.media with bufCapMiB := s.media.capNext } } else s

/-- HOLDUP_MEASURE: a cap never returns. -/
def State.holdup (s : State) (uf : Nat) : State :=
  if !s.alive || decide (15000 ≤ uf) then s
  else { s with media := { s.media with holdupLow := true, capNext := min s.media.capNext (if uf < 8000 then 256 else 1024) } }.takeCap

/-! ### The commands -/

/-- What the media let go ahead: writes that are complete, commands that waited, instructions that waited for an erase. -/
def State.mediaOn (s : State) : State := s.takeCap.writesDone.runStalled.runAll

/-- FLASH_PAGE_READ_DONE: R322. -/
def execFlashPageReadDone (ppa : Ppa) (rs : List Recovery) (second : Option Ppa) (s : State) : Host.Outcome State Fault Refusal :=
  .next (s.pageRead ppa rs second)

/-- FLASH_PROGRAM_DONE: R310. -/
def execFlashProgramDone (ppa : Ppa) (slc : Bool) (kind : ProgKind) (report : ProgReport) (s : State) : Host.Outcome State Fault Refusal :=
  .next (s.programDone ppa slc kind report.pass (report.beside.map BitVec.toNat)).mediaOn

/-- READ_BACK: R311. -/
def execReadBack (ppa : Ppa) (correctedBits : Nat) (decoded : Bool) (s : State) : Host.Outcome State Fault Refusal :=
  .next (s.readBack ppa correctedBits decoded).mediaOn

/-- FLASH_ERASE_DONE: R330. -/
def execFlashEraseDone (ppa : Ppa) (pass : Bool) (s : State) : Host.Outcome State Fault Refusal := .next (s.eraseDone ppa pass).mediaOn

/-- ERASE_RESUME: R314. -/
def execEraseResume (ppa : Ppa) (s : State) : Host.Outcome State Fault Refusal := .next (s.eraseResume ppa)

/-- READ_AROUND: R323. -/
def execReadAround (ppa : Ppa) (rebuildFirst : Bool) (s : State) : Host.Outcome State Fault Refusal := .next (s.readAround ppa rebuildFirst).mediaOn

/-- GARBAGE_COLLECTION: R315. -/
def execGarbageCollection (s : State) : Host.Outcome State Fault Refusal := .next s.collect

/-- FOLD: R321. -/
def execFold (ppa : Ppa) (pages : Nat) (s : State) : Host.Outcome State Fault Refusal := .next (s.fold ppa pages)

/-- REFRESH: R325. -/
def execRefresh (ppa : Ppa) (s : State) : Host.Outcome State Fault Refusal := .next (s.refresh ppa)

/-- CHANNEL_TRAINING_FAIL: R312. -/
def execChannelTrainingFail (channel : BitVec 6) (s : State) : Host.Outcome State Fault Refusal := .next (s.trainingFails channel.toNat).mediaOn

/-- DIE_STOPS_ANSWERING: R312. -/
def execDieStopsAnswering (die : BitVec 11) (s : State) : Host.Outcome State Fault Refusal :=
  .next (if s.alive && decide (die.toNat < 1536) then (s.retireDie die.toNat (die.toNat / 24 + die.toNat % 24 * 64)).mediaOn else s)

/-- HOLDUP_MEASURE: R476. -/
def execHoldupMeasure (microfarad : Nat) (s : State) : Host.Outcome State Fault Refusal := .next (s.holdup microfarad)

end Sys2Proof.Machine
end

