-- ==== Sys2Proof/Machine/HarnEvents.lean ====
section
/-! DEFINITION. Machine/HarnEvents.lean: records and credits of harness rings as they arrive (R220, R228, R229), and the contributions that a
reducer takes (R242 to R245). -/

namespace Sys2Proof.Machine

open Sys2Proof

/-! ### Waiting instructions -/

/-- The instructions of the receiving core that wait for a record of the ring go on. -/
def State.recvGoes (s : State) (b n : Nat) : State :=
  let c := s.ringDst b n
  State.each (s.core c).busy (fun q s =>
    if q.wait.recvsOn b n then s.resumeHx c q
    else match q.wait with
      | .hxRow d m _ _ _ => if d = b ∧ m = n then s.resumeRow c q else s
      | _ => s) s

/-- The instructions of the sending core that wait for a credit of the ring go on. -/
def State.sendGoes (s : State) (b n : Nat) : State :=
  let c := s.ringSrc b n
  State.each (s.core c).busy (fun q s => if q.wait.sendsOn b n then s.resumeHx c q else s) s

/-! ### Records and credits -/

/-- The lines of a record written into its slot, from line `i` on. -/
def State.landLines (s : State) (b n m i : Nat) (ls : MarkedLines) : State :=
  let c := s.ringDst b n
  State.each ((List.range ls.length).zip ls) (fun p s => s.sramWrite c (s.slotAt b n m + 64 * (i + p.1)) p.2.1 p.2.2) s

/-- TALLY_RECORD_ARRIVAL: the oldest record on the lane lands in its slot. -/
def State.recordLands (s : State) (b n : Nat) : State :=
  let r := s.ring b n
  if !s.ringOn b n || s.bindRemote b || s.bindBroken b then s
  else
    match r.lane with
    | [] => s
    | ls :: rest =>
      let s := s.landLines b n r.arrived 0 ls
      (s.setRing b n { r with lane := rest, arrived := r.arrived + 1 }).recvGoes b n

/-- A line run of a remote binding's record lands: the record has arrived with its last line, and then counts as produced here (R220, R228). -/
def State.harnLines (s : State) (b n addr : Nat) (ls : MarkedLines) : State :=
  let r := s.ring b n
  let i := (addr - sramBase (s.ringDst b n) - s.slotAt b n r.arrived) / 64
  let s := s.landLines b n r.arrived i ls
  let got := r.part + ls.length
  if got < s.ringLines b n then s.setRing b n { r with part := got }
  else ((s.setRing b n { r with part := 0, arrived := r.arrived + 1 }).tally b n (Reg.HARN_TALLY_PROD b) 1).recvGoes b n

/-- The remote ring into which a HARN flit's lines go: its binding's peer sent it, and its first line lies in the slot due. -/
def State.harnRing (s : State) (f : Flit) : Option (Nat × Nat) :=
  let a := f.addr.toNat
  let ok := fun (b n : Nat) =>
    let lo := sramBase (s.ringDst b n) + s.slotAt b n (s.ring b n).arrived
    s.bindOn b && s.bindRemote b && !s.bindBroken b && s.bindFld b 9 11 == f.src.toNat && s.ringOn b n && (s.ringReceiver b n).isSome &&
      decide (lo ≤ a) && decide (a < lo + 64 * s.ringLines b n)
  ((List.range 4).flatMap (fun b => (List.range 8).map (fun n => (b, n)))).find? (fun p => ok p.1 p.2)

/-- TALLY_CREDIT_RETURN: a freed slot's credit is back with the sender. For a remote binding the sender's record then counts as consumed, and
the receiver's freed slot is accounted for. -/
def State.creditBack (s : State) (b n : Nat) : State :=
  let r := s.ring b n
  let back := fun (s : State) =>
    ((s.setFld (Reg.HARN_RING_CREDIT b n) 32 32 (s.fld (Reg.HARN_RING_CREDIT b n) 32 32 + 1)).tick 1).sendGoes b n
  if !s.ringOn b n || s.bindBroken b then s
  else if s.bindRemote b then
    if (s.ringSender b n).isSome then
      match r.lane with
      | [] => s
      | _ :: rest => back ((s.setRing b n { r with lane := rest, credits := r.credits + 1 }).tally b n (Reg.HARN_TALLY_CONS b) 1)
    else if r.freed = 0 then s else s.setRing b n { r with freed := r.freed - 1 }
  else if r.freed = 0 then s
  else back (s.setRing b n { r with freed := r.freed - 1, credits := r.credits + 1 })

/-! ### The reducer (R242, R243) -/

/-- The collective's op and lines, for a contribution to instance `inst` of group `g`: this module's own where it has issued, else an ALLRED whose
buckets are all as long as this one. -/
def State.collShape (s : State) (g inst lines : Nat) : Nat × Nat :=
  match s.coll? g inst with
  | some v => (v.op, v.n)
  | none => (0, lines * (s.groupMembers g).length)

/-- A whole contribution of member `m` at slot `j`, whose bucket this module reduces. -/
def State.contribution (s : State) (j bucket inst m : Nat) (lines : List (List Byte)) : State :=
  let g := s.fld (Reg.HARN_REDUCE j) 1 8
  if !s.bit (Reg.HARN_REDUCE j) 0 || s.groupIndex g != some bucket || decide ((s.groupMembers g).length ≤ m) then s
  else
    let h := s.collShape g inst lines.length
    s.contribute j g h.1 bucket inst h.2 m (lines.map (fun b => (fitTo 64 0 b, false)))

/-- REDUCE_INSTANCE_OPEN: the first contribution to an instance. -/
def State.openInst (s : State) (j bucket inst m : Nat) (lines : List (List Byte)) : State :=
  if (s.rinst? j bucket inst).isSome then s else s.contribution j bucket inst m lines

/-- REDUCE_CLOSE: every member has contributed. -/
def State.reduceClose (s : State) (j bucket inst : Nat) : State :=
  match s.rinst? j bucket inst with
  | some r => if (s.groupMembers r.grp).length ≤ r.got.length then s.closeInst r else s
  | none => s

/-- LATE_WINDOW_EXPIRY: a window of zero waits for every member. -/
def State.lateExpiry (s : State) (j bucket inst : Nat) : State :=
  match s.rinst? j bucket inst with
  | some r => if s.fld (Reg.HARN_REDUCE j) 10 32 = 0 then s else s.closeInst r
  | none => s

/-! ### The commands -/

/-- TALLY_RECORD_ARRIVAL: R229. -/
def execTallyRecordArrival (b : BitVec 2) (r : BitVec 3) (s : State) : Host.Outcome State Fault Refusal :=
  .next (if s.alive then (s.recordLands b.toNat r.toNat).runAll else s)

/-- TALLY_CREDIT_RETURN: R228. -/
def execTallyCreditReturn (b : BitVec 2) (r : BitVec 3) (s : State) : Host.Outcome State Fault Refusal :=
  .next (if s.alive then (s.creditBack b.toNat r.toNat).runAll else s)

/-- REDUCE_INSTANCE_OPEN: R242. -/
def execReduceInstanceOpen (j : BitVec 4) (bucket inst member : Nat) (lines : List (List Byte)) (s : State) : Host.Outcome State Fault Refusal :=
  .next (if s.alive then s.openInst j.toNat bucket inst member lines else s)

/-- CONTRIBUTION_ARRIVAL: R243. -/
def execContributionArrival (j : BitVec 4) (bucket inst member : Nat) (lines : List (List Byte)) (s : State) : Host.Outcome State Fault Refusal :=
  .next (if s.alive then s.contribution j.toNat bucket inst member lines else s)

/-- REDUCE_CLOSE: R242. -/
def execReduceClose (j : BitVec 4) (bucket inst : Nat) (s : State) : Host.Outcome State Fault Refusal :=
  .next (if s.alive then s.reduceClose j.toNat bucket inst else s)

/-- LATE_WINDOW_EXPIRY: R242. -/
def execLateWindowExpiry (j : BitVec 4) (bucket inst : Nat) (s : State) : Host.Outcome State Fault Refusal :=
  .next (if s.alive then s.lateExpiry j.toNat bucket inst else s)

end Sys2Proof.Machine
end

