-- ==== Sys2Proof/Machine/GirthEvents.lean ====
section
/-! DEFINITION. Machine/GirthEvents.lean: flits as they arrive on a link, the ends of retrains and handovers, ports that train and authenticate,
and presence notices (chapter 13: R374 to R388). -/

namespace Sys2Proof.Machine

open Sys2Proof

/-! ### The trailer: acceptance, acknowledgement, replay (R378, R379) -/

/-- A flit discarded: one NAK, then silence until the replay arrives (R379). -/
def State.refuseFlit (s : State) (g l : Nat) : State := if (s.link g l).nakSent then s else s.sendIdle g l true

/-- A NAK for sequence `a` arrives: what it covers is acknowledged, the rest resent; a flit whose replays have failed retry_limit times retrains
the link (R379, R380). -/
def State.nakIn (s : State) (g l : Nat) (a : BitVec 12) : State :=
  let s := s.takeAck g l a
  if s.fld (Reg.GIRTH_LINK_CTL g l) 0 4 ≤ (s.link g l).fails then s.retrain g l else s.replayLink g l

/-- The ack or NAK and the credits of a good flit's trailer. -/
def State.trailerIn (s : State) (g l : Nat) (f : Flit) : State :=
  let s := if f.nak then s.nakIn g l f.ack else s.takeAck g l f.ack
  (s.takeCredits g l f.credit).pumpPort g

/-- A flit accepted in sequence: the next is expected. -/
def State.nextSeq (s : State) (g l : Nat) : State :=
  let k := s.link g l
  s.setLink g l { k with rxSeq := k.rxSeq + 1, nakSent := false }

/-- A flit accepted whose buffer is free at once: its credit goes back with the next flit sent. -/
def State.acceptSeq (s : State) (g l : Nat) (vc : BitVec 2) : State :=
  let s := s.nextSeq g l
  s.setLink g l { s.link g l with owed := addAt (s.link g l).owed vc.toNat (· + 1) }

/-- A flit forwarded before its crc failed: sent on with its crc inverted and without a sequence number, so that its next receiver drops it
(R379). -/
def State.sendKilled (s : State) (f : Flit) (inPort : Nat) : State :=
  match hop s.dims s.me f.dst.toNat with
  | none => s
  | some (g, cross) =>
    let f := { f with vc := hopVc f (inPort / 2 == g / 2) cross }
    match s.pickLink g f with
    | none => s
    | some l =>
      let k := s.link g l
      let f := Flit.kill { f with lseq := 0, ack := k.rxSeq - 1, nak := false, credit := k.owed, rsvTrl := 0 }
      let s := s.setLink g l { k with owed := [0, 0, 0, 0], credits := addAt k.credits f.vc.toNat (· - 1) }
      let s := { s with girth := { s.girth with sent := s.girth.sent ++ [(linkKey g l, f)] } }
      let s := (s.setFld (Reg.GIRTH_CREDIT g l) 0 32 (s.fld (Reg.GIRTH_CREDIT g l) 0 32 + 1)).tick 1
      ((s.addReg (Reg.GIRTH_LINK_FLITS g l) 1).addReg Reg.GIRTH_FORWARDED 1).chargeHouse 8 1

/-! ### What a flit does where it ends -/

/-- The lines of a flit, whole and with its poison mark: R159. -/
def flitLines (f : Flit) : MarkedLines := f.payload.map (fun b => (fitTo 64 0 b, f.poison))

/-- Whether a PUT's lines lie where this module takes sharded queries (R298). -/
def State.isQuery (s : State) (f : Flit) : Bool :=
  let a := (Config.queryAddr s.me).toNat / 64 * 64
  decide (2 ≤ f.total.toNat) && decide (a ≤ f.addr.toNat) && decide (f.addr.toNat < a + 64 * f.total.toNat)

/-- Lines of a peer's PUT written; once all of them are, the ACK goes back (R384). A sharded query is then run, and a refusal of it goes back as an
ACK in error (R298). -/
def State.putArrives (s : State) (f : Flit) : State :=
  let ls := flitLines f
  let a := f.addr.toNat / 64 * 64
  let src := f.src.toNat
  let tag := f.tag.toNat
  let s := State.each ((List.range ls.length).zip ls) (fun p s => s.remoteWrite f.part.toNat none (a + 64 * p.1) p.2) s
  let was := match s.girth.rx.find? (fun e => e.1 == src && e.2.1 == tag) with
    | some e => e.2.2
    | none => 0
  let rest := s.girth.rx.filter (fun e => !(e.1 == src && e.2.1 == tag))
  let n := was + ls.length
  if f.total.toNat ≤ n then
    let s := { s with girth := { s.girth with rx := rest } }
    let r := if s.isQuery f then s.shardArrives ((Config.queryAddr s.me).toNat / 64 * 64) (64 * f.total.toNat) f.part.toNat else (true, s)
    r.2.sendFlit { typ := 4, part := f.part, dst := f.src, src := BitVec.ofNat 11 s.me, tag := f.tag, error := !r.1, last := true }
  else { s with girth := { s.girth with rx := rest ++ [(src, tag, n)] } }

/-- A peer's GET answered with the lines it names: R384. -/
def State.getArrives (s : State) (f : Flit) : State :=
  let a := f.addr.toNat / 64 * 64
  let r := State.remoteLines f.part.toNat none f.total.toNat a s
  let g : Flit := { typ := 3, part := f.part, dst := f.src, src := BitVec.ofNat 11 s.me, tag := f.tag, total := f.total, last := true }
  State.each (flitsOf g r.1 (fun i h => { h with addr := BitVec.ofNat 48 (a + 64 * i) })) (fun h s => s.sendFlit h) r.2

/-- A response or a completion for a transaction of this module: R214, R384. -/
def State.answerArrives (s : State) (f : Flit) : State :=
  match s.txn? f.tag.toNat with
  | none => s
  | some t =>
    if t.peer ≠ f.src.toNat then s
    else if f.typ = 3 then
      if !t.get then s
      else if f.error then s.endTxn t true
      else s.getLines t f.addr.toNat (flitLines f)
    else if t.get then s
    else (if f.error then s.refuseAsk t.tag else s).endTxn t f.error

/-- Lines of a remote binding's record land in its ring (R220); lines that no ring awaits are a peer's write to what it may not reach (R384). -/
def State.harnArrives (s : State) (f : Flit) : State :=
  match s.harnRing f with
  | some (b, n) => s.harnLines b n f.addr.toNat (flitLines f)
  | none => s.remoteViolation f.part.toNat f.addr.toNat

/-- A flit taken out of the girth here: R383. -/
def State.eject (s : State) (f : Flit) : State :=
  let s := s.addReg Reg.GIRTH_EJECTED 1
  if f.typ = 1 then s.putArrives f
  else if f.typ = 2 then s.getArrives f
  else if f.typ = 3 ∨ f.typ = 4 then s.answerArrives f
  else if f.typ = 5 then s.collArrive f
  else if f.typ = 6 then s.harnArrives f
  else s

/-- Whether an accepted flit goes on toward another member: only CTRL passes a port that is not up (R383, R385, R386). -/
def State.goesOn (s : State) (g : Nat) (f : Flit) : Bool :=
  f.typ != 7 && s.portState g == 3 && s.inSet && f.dst.toNat != s.me

/-- Whether it ends here. -/
def State.endsHere (s : State) (g : Nat) (f : Flit) : Bool :=
  f.typ != 7 && s.portState g == 3 && s.inSet && f.dst.toNat == s.me

/-- A flit arrives on a link that is up: R378, R379. `early` marks a header that the switch forwards before the crc is checked (R383). -/
def State.flitIn (s : State) (g l : Nat) (f : Flit) (early : Bool := false) : State :=
  if !s.alive || !s.hasPort g || s.linkState g l != 2 then s
  else
    if f.killed then
      -- dropped without a NAK, its credit back at once
      let k := s.link g l
      ((s.addReg (Reg.GIRTH_LINK_CRC g l) 1).setLink g l { k with owed := addAt k.owed f.vc.toNat (· + 1) }).payBack g l
    else if !f.crcOk then
      let s := (s.addReg (Reg.GIRTH_LINK_CRC g l) 1).refuseFlit g l
      if early && s.portState g == 3 && s.inSet && f.dst.toNat != s.me then s.sendKilled f g else s
    else if f.typ = 0 then s.trailerIn g l f
    else if f.lseq ≠ (s.link g l).rxSeq then s.refuseFlit g l
    else
      -- a flit that goes on holds its buffer until it has left; every other frees it (R378)
      let on := s.goesOn g f
      let s := (if on then s.nextSeq g l else s.acceptSeq g l f.vc).trailerIn g l f
      let s := if f.rsvHdr != 0 then s.raise .girth 8 (girthExtra g l) else s
      let s := if s.endsHere g f then s.eject f else if on then s.sendFlit f (some g) none (some (linkKey g l, f.vc.toNat)) else s
      s.payBack g l

/-- A flit of one type on a link, and what it lets go ahead. -/
def State.flitOf (s : State) (k : LinkId) (t : BitVec 8) (f : Flit) : State :=
  (s.flitIn k.port.toNat k.link.toNat { f with typ := t }).runAll

/-! ### Retrains and handover (R380) -/

/-- Whether a link is one of the module's and its blocks run. -/
def State.linkHere (s : State) (g l : Nat) : Bool := s.alive && s.hasPort g && decide (l < 6)

/-- PWR_CLK.serdes_lock returns once no link trains: R36. -/
def State.relock (s : State) : State :=
  if (List.range 36).any (fun k => s.linkState (k / 6) (k % 6) == 1) then s else s.setBit Reg.PWR_CLK 2 true

/-- A link has trained: it joins its port at once when that is up, else it waits for authentication (R380, R385). What it has not had
acknowledged goes out again. -/
def State.linkUp (s : State) (g l : Nat) : State :=
  let s := (s.setLinkState g l 2).setLink g l { s.link g l with retrainFails := 0, fails := 0 }
  let s := if (s.link g l).replay = [] then s else s.replayLink g l
  let s := if s.portState g ≤ 1 then s.setPortState g 2 else s
  s.relock.pumpPort g

/-- LINK_RETRAIN_DONE: three retrains that fail in succession declare the link down. -/
def State.retrainDone (s : State) (g l : Nat) (ok : Bool) : State :=
  if !s.linkHere g l || s.linkState g l != 1 then s
  else if ok then s.linkUp g l
  else
    let n := (s.link g l).retrainFails + 1
    if n < 3 then
      (s.setLink g l { s.link g l with retrainFails := n }).addReg (Reg.GIRTH_LINK_RETRAIN g l) 1
    else ((s.setLink g l { s.link g l with retrainFails := 0 }).linkDown g l 3).relock

/-- A CTRL flit accepted in sequence on a link that is up. -/
def State.ctrlIn (s : State) (g l : Nat) : State := (s.acceptSeq g l 2).addReg Reg.GIRTH_EJECTED 1

/-- Whether a CTRL flit can arrive on the link. -/
def State.ctrlCan (s : State) (g l : Nat) : Bool := s.linkHere g l && s.linkState g l == 2

/-- HANDOVER: the far end of a downed link tells what it accepted; the flits after that go out on the surviving links. -/
def State.handover (s : State) (g l d : Nat) (a : BitVec 12) : State :=
  if !s.ctrlCan g l then s
  else
    let s := s.ctrlIn g l
    if 6 ≤ d ∨ s.linkState g d = 2 then s
    else
      let k := s.link g d
      let again := k.replay.drop (ackedCount k a)
      let s := s.setLink g d { k with replay := [] }
      { s with girth := { s.girth with outq := sput [] s.girth.outq g (again ++ sget [] s.girth.outq g) } }.pumpPort g

/-! ### Bring-up (R385 to R387) -/

/-- PORT_TRAIN: the enabled links among those that train come up, and the port authenticates next. Without a neighbour nothing trains. -/
def State.portTrain (s : State) (g : Nat) (neighbour : Bool) (trained : BitVec 6) : State :=
  if !s.alive || !s.hasPort g || !neighbour then s
  else
    let on := s.fld (Reg.GIRTH_PORT_CTL g) 0 6
    let ls := (List.range 6).filter (fun l => on.testBit l && trained.getLsbD l && s.linkState g l != 2)
    State.each ls (fun l s => (if s.linkState g l = 1 then s else s.trainLink g l).linkUp g l) s

/-- The reason for which a peer isolates the port, 0 for none: R386. -/
def State.isolation (s : State) (g : Nat) (p : PeerId) : Nat :=
  let d := s.dims
  if !p.chainOk then 1
  else if !p.sigOk then 2
  else if p.setId.toNat ≠ s.fld Reg.GIRTH_SET 48 16 ∨ (p.dx.toNat, p.dy.toNat, p.dz.toNat) ≠ d then 3
  else if modNo d (p.x.toNat, p.y.toNat, p.z.toNat) ≠ neighbour d s.me g then 4
  else if !p.portPresent then 5
  else 0

/-- The ports known down, told to the neighbour that has just joined: R387. -/
def State.tellDown (s : State) (g : Nat) : State :=
  State.each s.downPorts (fun e s =>
    let q := match s.girth.notices.reverse.find? (fun n => n.1 == e.1 && n.2.1 == e.2) with
      | some n => n.2.2
      | none => s.girth.noticeSeq
    let st := if (e.1 == s.me && s.portState e.2 == 4) || s.girth.isolated.contains e then 4 else 0
    s.sendCtrl g q (e.1 + e.2 * 2 ^ 16 + st * 2 ^ 20 + 2 ^ 40)) s

/-- PORT_AUTHENTICATE: the exchange ends, and the port comes up or is isolated. -/
def State.authenticated (s : State) (g : Nat) (p : PeerId) : State :=
  if !s.alive || !s.hasPort g || s.portState g != 2 then s
  else
    let was := s.setComplete
    let st := Reg.GIRTH_PORT_STATUS g
    let why := s.isolation g p
    let s := s.setFld st 32 3 why
    if why = 0 then
      let d := s.dims
      let s := (s.setFld st 16 11 (modNo d (p.x.toNat, p.y.toNat, p.z.toNat))).setFld st 48 16 p.setId.toNat
      (((s.setPortState g 3).stage 7).tellDown g).pumpPort g
    else ((s.setPortState g 4).raise .girth 3 (girthExtra g 0)).broke was

/-- PRESENCE_NOTICE: recorded, passed on once, and the ports known down follow it (R387, R388). -/
def State.noticeIn (s : State) (g l m p st seq : Nat) : State :=
  if !s.ctrlCan g l then s
  else
    let s := s.ctrlIn g l
    let was := s.setComplete
    let s := s.setReg Reg.GIRTH_NOTICE (BitVec.ofNat 64 (m + p * 2 ^ 12 + st * 2 ^ 16 + min (2 ^ 32 - 1) (s.fld Reg.GIRTH_NOTICE 32 32 + 1) * 2 ^ 32))
    let s := s.fire 98
    if m = s.me ∨ s.girth.notices.contains (m, p, seq) then s
    else
      let down := s.girth.downKnown.filter (fun e => e != (m, p))
      let s := { s with girth := { s.girth with
        notices := s.girth.notices ++ [(m, p, seq)], downKnown := if st = 3 then down else down ++ [(m, p)]
        isolated := s.girth.isolated.filter (fun e => e != (m, p)) ++ (if st = 4 then [(m, p)] else []) } }
      (s.passNotice m p st seq (some g)).broke was

/-! ### The commands -/

/-- PUT: R384. -/
def execPut (l : LinkId) (f : Flit) (s : State) : Host.Outcome State Fault Refusal := .next (s.flitOf l 1 f)

/-- GET_REQ: R384. -/
def execGetReq (l : LinkId) (f : Flit) (s : State) : Host.Outcome State Fault Refusal := .next (s.flitOf l 2 f)

/-- GET_RSP: R384. -/
def execGetRsp (l : LinkId) (f : Flit) (s : State) : Host.Outcome State Fault Refusal := .next (s.flitOf l 3 f)

/-- ACK: R384. -/
def execAck (l : LinkId) (f : Flit) (s : State) : Host.Outcome State Fault Refusal := .next (s.flitOf l 4 f)

/-- COLL: R391. -/
def execColl (l : LinkId) (f : Flit) (s : State) : Host.Outcome State Fault Refusal := .next (s.flitOf l 5 f)

/-- HARN: R220. -/
def execHarn (l : LinkId) (f : Flit) (s : State) : Host.Outcome State Fault Refusal := .next (s.flitOf l 6 f)

/-- IDLE: R375. -/
def execIdle (l : LinkId) (f : Flit) (s : State) : Host.Outcome State Fault Refusal := .next (s.flitOf l 0 f)

/-- FLIT_FORWARD: R383. -/
def execFlitForward (l : LinkId) (f : Flit) (s : State) : Host.Outcome State Fault Refusal :=
  .next (s.flitIn l.port.toNat l.link.toNat f true).runAll

/-- NAK_REPLAY: R379. -/
def execNakReplay (l : LinkId) (seq : BitVec 12) (s : State) : Host.Outcome State Fault Refusal :=
  .next (if s.ctrlCan l.port.toNat l.link.toNat then (s.nakIn l.port.toNat l.link.toNat seq).pumpPort l.port.toNat else s)

/-- ACK_TIMEOUT: R380. -/
def execAckTimeout (l : LinkId) (s : State) : Host.Outcome State Fault Refusal :=
  .next (if s.ctrlCan l.port.toNat l.link.toNat && (s.link l.port.toNat l.link.toNat).replay != [] then s.retrain l.port.toNat l.link.toNat else s)

/-- LINK_IDLE_TIMEOUT: R380. -/
def execLinkIdleTimeout (l : LinkId) (s : State) : Host.Outcome State Fault Refusal :=
  .next (if s.ctrlCan l.port.toNat l.link.toNat then s.retrain l.port.toNat l.link.toNat else s)

/-- LINK_RETRAIN_DONE: R380. -/
def execLinkRetrainDone (l : LinkId) (ok : Bool) (s : State) : Host.Outcome State Fault Refusal :=
  .next (s.retrainDone l.port.toNat l.link.toNat ok).runAll

/-- HANDOVER: R380. -/
def execHandover (l : LinkId) (downed : BitVec 3) (lastSeq : BitVec 12) (s : State) : Host.Outcome State Fault Refusal :=
  .next (s.handover l.port.toNat l.link.toNat downed.toNat lastSeq)

/-- PORT_TRAIN: R385. -/
def execPortTrain (port : BitVec 3) (neighbour : Bool) (trained : BitVec 6) (s : State) : Host.Outcome State Fault Refusal :=
  .next (s.portTrain port.toNat neighbour trained)

/-- PORT_AUTHENTICATE: R386. -/
def execPortAuthenticate (port : BitVec 3) (peer : PeerId) (s : State) : Host.Outcome State Fault Refusal :=
  .next (s.authenticated port.toNat peer).runAll

/-- REAUTH: a write of the port's control register (R386). -/
def execReauth (port : BitVec 3) (value : Word) (s : State) : Host.Outcome State Fault Refusal :=
  .next (s.registerWrite (Reg.GIRTH_PORT_CTL port.toNat) 8 value)

/-- PRESENCE_NOTICE: R387. -/
def execPresenceNotice (l : LinkId) (module_ : BitVec 11) (port state : BitVec 3) (seq : BitVec 32) (s : State) : Host.Outcome State Fault Refusal :=
  .next (s.noticeIn l.port.toNat l.link.toNat module_.toNat port.toNat state.toNat seq.toNat).runAll

/-- GIRTH_SET_WRITE: R381. -/
def execGirthSetWrite (value : Word) (s : State) : Host.Outcome State Fault Refusal := .next (s.registerWrite Reg.GIRTH_SET 8 value)

end Sys2Proof.Machine
end

