-- ==== Sys2Proof/Machine/HostExec.lean ====
section
/-! DEFINITION. Machine/HostExec.lean: the meaning of each NVMe row: a command reaches its effect through the one way in, an event acts by itself. -/

namespace Sys2Proof.Machine

open Sys2Proof

/-- DOORBELL_WRITE: R346. -/
def execDoorbellWrite (ctrl : BitVec 8) (cq : Bool) (qid : BitVec 16) (value : BitVec 16) (s : State) : Host.Outcome State Fault Refusal :=
  .next (s.doorbell ctrl.toNat cq qid.toNat value.toNat)

/-- IDENTIFY: R345. -/
def execIdentify (n : NHdr) (cns : BitVec 8) (nsid : BitVec 32) (s : State) : Host.Outcome State Fault Refusal :=
  .next (s.hostCmd n (.identify n cns nsid))

/-- GET_FEATURES: R345. -/
def execGetFeatures (n : NHdr) (fid : BitVec 8) (s : State) : Host.Outcome State Fault Refusal :=
  .next (s.hostCmd n (.getFeatures n fid))

/-- SET_FEATURES: R345. -/
def execSetFeatures (n : NHdr) (fid : BitVec 8) (value : BitVec 32) (s : State) : Host.Outcome State Fault Refusal :=
  .next (s.hostCmd n (.setFeatures n fid value))

/-- POWER_MANAGEMENT: R367. -/
def execPowerManagement (n : NHdr) (ps : BitVec 5) (s : State) : Host.Outcome State Fault Refusal :=
  .next (s.hostCmd n (.powerManagement n ps))

/-- TIMESTAMP: R40. -/
def execTimestamp (n : NHdr) (ms : BitVec 48) (s : State) : Host.Outcome State Fault Refusal :=
  .next (s.hostCmd n (.timestamp n ms))

/-- GET_LOG_PAGE: R366. -/
def execGetLogPage (n : NHdr) (lid : BitVec 8) (rae : Bool) (offset : Nat) (len : Nat) (s : State) : Host.Outcome State Fault Refusal :=
  .next (s.hostCmd n (.getLogPage n lid rae offset len))

/-- CREATE_IO_QUEUE: R345. -/
def execCreateIoQueue (n : NHdr) (cq : Bool) (qid : BitVec 16) (size : BitVec 16) (cqid : BitVec 16) (s : State) : Host.Outcome State Fault Refusal :=
  .next (s.hostCmd n (.createIoQueue n cq qid size cqid))

/-- DELETE_IO_QUEUE: R345. -/
def execDeleteIoQueue (n : NHdr) (cq : Bool) (qid : BitVec 16) (s : State) : Host.Outcome State Fault Refusal :=
  .next (s.hostCmd n (.deleteIoQueue n cq qid))

/-- ABORT: R363. -/
def execAbort (n : NHdr) (target : CmdRef) (s : State) : Host.Outcome State Fault Refusal :=
  .next (s.hostCmd n (.abort n target))

/-- ASYNCHRONOUS_EVENT_REQUEST: R364. -/
def execAsynchronousEventRequest (n : NHdr) (s : State) : Host.Outcome State Fault Refusal :=
  .next (s.hostCmd n (.asynchronousEventRequest n))

/-- NAMESPACE_CREATE: R349. -/
def execNamespaceCreate (n : NHdr) (kind : BitVec 8) (part : BitVec 8) (lbas : Nat) (memBytes : Nat) (rsv : Bool) (s : State) : Host.Outcome State Fault Refusal :=
  .next (s.hostCmd n (.namespaceCreate n kind part lbas memBytes rsv))

/-- NAMESPACE_DELETE: R350. -/
def execNamespaceDelete (n : NHdr) (nsid : BitVec 32) (s : State) : Host.Outcome State Fault Refusal :=
  .next (s.hostCmd n (.namespaceDelete n nsid))

/-- NAMESPACE_ATTACHMENT: R341. -/
def execNamespaceAttachment (n : NHdr) (nsid : BitVec 32) (attach : Bool) (ctrls : List (BitVec 8)) (s : State) : Host.Outcome State Fault Refusal :=
  .next (s.hostCmd n (.namespaceAttachment n nsid attach ctrls))

/-- FIRMWARE_IMAGE_DOWNLOAD: R443. -/
def execFirmwareImageDownload (n : NHdr) (offset : Nat) (data : List Byte) (s : State) : Host.Outcome State Fault Refusal :=
  .next (s.hostCmd n (.firmwareImageDownload n offset data))

/-- FIRMWARE_COMMIT: R444. -/
def execFirmwareCommit (n : NHdr) (slot : BitVec 3) (action : BitVec 3) (s : State) : Host.Outcome State Fault Refusal :=
  .next (s.hostCmd n (.firmwareCommit n slot action))

/-- FORMAT_NVM: R351. -/
def execFormatNvm (n : NHdr) (nsid : BitVec 32) (crypto : Bool) (s : State) : Host.Outcome State Fault Refusal :=
  .next (s.hostCmd n (.formatNvm n nsid crypto))

/-- SANITIZE: R351. -/
def execSanitize (n : NHdr) (blockErase : Bool) (s : State) : Host.Outcome State Fault Refusal :=
  .next (s.hostCmd n (.sanitize n blockErase))

/-- SANITIZE_COMPLETE: R351. -/
def execSanitizeComplete (s : State) : Host.Outcome State Fault Refusal :=
  .next (if s.alive then s.sanitizeDone.runStalled else s)

/-- VIRTUALIZATION_MANAGEMENT: R345. -/
def execVirtualizationManagement (n : NHdr) (ctrl : BitVec 8) (act : VirtAct) (nr : Nat) (s : State) : Host.Outcome State Fault Refusal :=
  .next (s.hostCmd n (.virtualizationManagement n ctrl act nr))

/-- KEEP_ALIVE: R345. -/
def execKeepAlive (n : NHdr) (s : State) : Host.Outcome State Fault Refusal :=
  .next (s.hostCmd n (.keepAlive n))

/-- DEVICE_SELF_TEST: R345. -/
def execDeviceSelfTest (n : NHdr) (code : BitVec 4) (s : State) : Host.Outcome State Fault Refusal :=
  .next (s.hostCmd n (.deviceSelfTest n code))

/-- SECURITY_SEND: R347. -/
def execSecuritySend (n : NHdr) (secp : BitVec 8) (spsp : BitVec 16) (req : SpdmReq) (s : State) : Host.Outcome State Fault Refusal :=
  .next (s.hostCmd n (.securitySend n secp spsp req))

/-- SECURITY_RECEIVE: R347. -/
def execSecurityReceive (n : NHdr) (secp : BitVec 8) (spsp : BitVec 16) (alloc : Nat) (s : State) : Host.Outcome State Fault Refusal :=
  .next (s.hostCmd n (.securityReceive n secp spsp alloc))

/-- ATTACH_WEIGHT: R352. -/
def execAttachWeight (n : NHdr) (nsid : BitVec 32) (base : BitVec 25) (rsv : Bool) (s : State) : Host.Outcome State Fault Refusal :=
  .next (s.hostCmd n (.attachWeight n nsid base rsv))

/-- DETACH_WEIGHT: R352. -/
def execDetachWeight (n : NHdr) (nsid : BitVec 32) (rsv : Bool) (s : State) : Host.Outcome State Fault Refusal :=
  .next (s.hostCmd n (.detachWeight n nsid rsv))

/-- SET_HOST_WINDOW: R355. -/
def execSetHostWindow (n : NHdr) (window : BitVec 4) (enable : Bool) (len4k : BitVec 24) (start : BitVec 64) (bus : BitVec 64) (rsv : Bool) (s : State) : Host.Outcome State Fault Refusal :=
  .next (s.hostCmd n (.setHostWindow n window enable len4k start bus rsv))

/-- READ: R319. -/
def execRead (n : NHdr) (nsid : BitVec 32) (slba : Nat) (nlb : Nat) (s : State) : Host.Outcome State Fault Refusal :=
  .next (s.hostCmd n (.read n nsid slba nlb))

/-- WRITE: R318. -/
def execWrite (n : NHdr) (nsid : BitVec 32) (slba : Nat) (data : List Byte) (s : State) : Host.Outcome State Fault Refusal :=
  .next (s.hostCmd n (.write n nsid slba data))

/-- WRITE_ZEROES: R345. -/
def execWriteZeroes (n : NHdr) (nsid : BitVec 32) (slba : Nat) (nlb : Nat) (s : State) : Host.Outcome State Fault Refusal :=
  .next (s.hostCmd n (.writeZeroes n nsid slba nlb))

/-- FLUSH: R345. -/
def execFlush (n : NHdr) (nsid : BitVec 32) (s : State) : Host.Outcome State Fault Refusal :=
  .next (s.hostCmd n (.flush n nsid))

/-- DEALLOCATE: R319. -/
def execDeallocate (n : NHdr) (nsid : BitVec 32) (ranges : List (Nat × Nat)) (s : State) : Host.Outcome State Fault Refusal :=
  .next (s.hostCmd n (.deallocate n nsid ranges))

/-- COMPARE: R345. -/
def execCompare (n : NHdr) (nsid : BitVec 32) (slba : Nat) (data : List Byte) (s : State) : Host.Outcome State Fault Refusal :=
  .next (s.hostCmd n (.compare n nsid slba data))

/-- VERIFY: R345. -/
def execVerify (n : NHdr) (nsid : BitVec 32) (slba : Nat) (nlb : Nat) (s : State) : Host.Outcome State Fault Refusal :=
  .next (s.hostCmd n (.verify n nsid slba nlb))

/-- ZONE_APPEND: R327. -/
def execZoneAppend (n : NHdr) (nsid : BitVec 32) (zslba : Nat) (data : List Byte) (s : State) : Host.Outcome State Fault Refusal :=
  .next (s.hostCmd n (.zoneAppend n nsid zslba data))

/-- ZONE_OPEN: R345. -/
def execZoneOpen (n : NHdr) (nsid : BitVec 32) (zslba : Nat) (s : State) : Host.Outcome State Fault Refusal :=
  .next (s.hostCmd n (.zoneOpen n nsid zslba))

/-- ZONE_CLOSE: R345. -/
def execZoneClose (n : NHdr) (nsid : BitVec 32) (zslba : Nat) (s : State) : Host.Outcome State Fault Refusal :=
  .next (s.hostCmd n (.zoneClose n nsid zslba))

/-- ZONE_FINISH: R327. -/
def execZoneFinish (n : NHdr) (nsid : BitVec 32) (zslba : Nat) (s : State) : Host.Outcome State Fault Refusal :=
  .next (s.hostCmd n (.zoneFinish n nsid zslba))

/-- RESET_ZONE: R328. -/
def execResetZone (n : NHdr) (nsid : BitVec 32) (zslba : Nat) (s : State) : Host.Outcome State Fault Refusal :=
  .next (s.hostCmd n (.resetZone n nsid zslba))

/-- ZONE_OFFLINE: R345. -/
def execZoneOffline (n : NHdr) (nsid : BitVec 32) (zslba : Nat) (s : State) : Host.Outcome State Fault Refusal :=
  .next (s.hostCmd n (.zoneOffline n nsid zslba))

/-- ZONE_MANAGEMENT_RECEIVE: R345. -/
def execZoneManagementReceive (n : NHdr) (nsid : BitVec 32) (zslba : Nat) (count : Nat) (s : State) : Host.Outcome State Fault Refusal :=
  .next (s.hostCmd n (.zoneManagementReceive n nsid zslba count))

/-- LOAD_PROGRAM: R187. -/
def execLoadProgram (n : NHdr) (nsid : BitVec 32) (program : BitVec 16) (ptype : BitVec 8) (image : List Byte) (s : State) : Host.Outcome State Fault Refusal :=
  .next (s.hostCmd n (.loadProgram n nsid program ptype image))

/-- PROGRAM_ACTIVATION_MANAGEMENT: R345. -/
def execProgramActivationManagement (n : NHdr) (nsid : BitVec 32) (program : BitVec 16) (activate : Bool) (s : State) : Host.Outcome State Fault Refusal :=
  .next (s.hostCmd n (.programActivationManagement n nsid program activate))

/-- EXECUTE_PROGRAM: R361. -/
def execExecuteProgram (n : NHdr) (nsid : BitVec 32) (program : BitVec 16) (params : List Byte) (s : State) : Host.Outcome State Fault Refusal :=
  .next (s.hostCmd n (.executeProgram n nsid program params))

/-- MEMORY_RANGE_SET_MANAGEMENT: R345. -/
def execMemoryRangeSetManagement (n : NHdr) (create : Bool) (set : BitVec 16) (ranges : List (BitVec 32 × Nat × Nat)) (s : State) : Host.Outcome State Fault Refusal :=
  .next (s.hostCmd n (.memoryRangeSetManagement n create set ranges))

/-- MEMORY_READ: R362. -/
def execMemoryRead (n : NHdr) (nsid : BitVec 32) (offset : Nat) (len : Nat) (s : State) : Host.Outcome State Fault Refusal :=
  .next (s.hostCmd n (.memoryRead n nsid offset len))

/-- MEMORY_WRITE: R345. -/
def execMemoryWrite (n : NHdr) (nsid : BitVec 32) (offset : Nat) (data : List Byte) (s : State) : Host.Outcome State Fault Refusal :=
  .next (s.hostCmd n (.memoryWrite n nsid offset data))

/-- MEMORY_COPY: R362. -/
def execMemoryCopy (n : NHdr) (dst : BitVec 32) (doff : Nat) (src : BitVec 32) (soff : Nat) (len : Nat) (s : State) : Host.Outcome State Fault Refusal :=
  .next (s.hostCmd n (.memoryCopy n dst doff src soff len))

/-- WEIGHT_PAGE_REWRITE: R150. -/
def execWeightPageRewrite (n : NHdr) (nsid : BitVec 32) (slba : Nat) (data : List Byte) (readBackOk : Bool) (s : State) : Host.Outcome State Fault Refusal :=
  .next (s.hostCmd n (.weightPageRewrite n nsid slba data readBackOk))

/-- OPEN_INDEX: R282. -/
def execOpenIndex (n : NHdr) (nsid : BitVec 32) (q : BitVec 4) (part : PartId) (dbase : BitVec 64) (filters : List (BitVec 8)) (rsv : Bool) (s : State) : Host.Outcome State Fault Refusal :=
  .next (s.hostCmd n (.openIndex n nsid q part dbase filters rsv))

/-- CLOSE_INDEX: R301. -/
def execCloseIndex (n : NHdr) (nsid : BitVec 32) (q : BitVec 4) (rsv : Bool) (s : State) : Host.Outcome State Fault Refusal :=
  .next (s.hostCmd n (.closeIndex n nsid q rsv))

/-- INDEX_CLOSE_COMPLETE: R301. -/
def execIndexCloseComplete (q : BitVec 4) (s : State) : Host.Outcome State Fault Refusal :=
  .next (if s.alive then s.closeDone q.toNat else s)

/-- UPDATE_INDEX: R294. -/
def execUpdateIndex (n : NHdr) (nsid : BitVec 32) (q : BitVec 4) (ops : IndexOps) (s : State) : Host.Outcome State Fault Refusal :=
  .next (s.hostCmd n (.updateIndex n nsid q ops))

/-- STAGING_START: R294. -/
def execStagingStart (q : BitVec 4) (s : State) : Host.Outcome State Fault Refusal :=
  .next (if s.alive then s.startStaging q.toNat else s)

/-- ADVANCE_EPOCH: R295. -/
def execAdvanceEpoch (n : NHdr) (nsid : BitVec 32) (q : BitVec 4) (rsv : Bool) (s : State) : Host.Outcome State Fault Refusal :=
  .next (s.hostCmd n (.advanceEpoch n nsid q rsv))

/-- COMPACT_INDEX: R297. -/
def execCompactIndex (n : NHdr) (nsid : BitVec 32) (q : BitVec 4) (rsv : Bool) (s : State) : Host.Outcome State Fault Refusal :=
  .next (s.hostCmd n (.compactIndex n nsid q rsv))

/-- SEARCH: R290. -/
def execSearch (n : NHdr) (nsid : BitVec 32) (q : BitVec 4) (buf : List Byte) (s : State) : Host.Outcome State Fault Refusal :=
  .next (s.hostCmd n (.search n nsid q buf))

/-- SUBMIT_REQUEST: R251. -/
def execSubmitRequest (n : NHdr) (nsid : BitVec 32) (job : CmdRef) (block : List Byte) (s : State) : Host.Outcome State Fault Refusal :=
  .next (s.hostCmd n (.submitRequest n nsid job block))

/-- REQUEST_ADMIT: R259. -/
def execRequestAdmit (part : PartId) (s : State) : Host.Outcome State Fault Refusal :=
  .next (if s.alive then s.requestAdmit part.toNat else s)

/-- SERVING_STEP_ENTRY: R252. -/
def execServingStepEntry (part : PartId) (s : State) : Host.Outcome State Fault Refusal :=
  .next (if s.alive then s.servingEntry part.toNat else s)

/-- SERVING_STEP_END: R257. -/
def execServingStepEnd (part : PartId) (s : State) : Host.Outcome State Fault Refusal :=
  .next (if s.alive then s.servingEnd part.toNat else s)

/-- SET_OVERLAY: R264. -/
def execSetOverlay (n : NHdr) (nsid : BitVec 32) (part : PartId) (variant : BitVec 10) (layer0 : BitVec 8) (data : List Byte) (rsv : Bool) (s : State) : Host.Outcome State Fault Refusal :=
  .next (s.hostCmd n (.setOverlay n nsid part variant layer0 data rsv))

/-- FRAME_START: R271. -/
def execFrameStart (n : NHdr) (nsid : BitVec 32) (ring : BitVec 3) (slot : BitVec 8) (frame : BitVec 64) (rsv : Bool) (s : State) : Host.Outcome State Fault Refusal :=
  .next (s.hostCmd n (.frameStart n nsid ring slot frame rsv))

/-- FRAME_ACCEPT: R272. -/
def execFrameAccept (ring : BitVec 3) (s : State) : Host.Outcome State Fault Refusal :=
  .next (if s.alive then s.frameAccept ring.toNat else s)

/-- FRAME_COMPLETE: R275. -/
def execFrameComplete (ring : BitVec 3) (mclk : Nat) (s : State) : Host.Outcome State Fault Refusal :=
  .next (if s.alive then s.frameComplete ring.toNat mclk else s)

/-- PAUSE_REQUEST: R262. -/
def execPauseRequest (n : NHdr) (nsid : BitVec 32) (req : CmdRef) (s : State) : Host.Outcome State Fault Refusal :=
  .next (s.hostCmd n (.pauseRequest n nsid req))

/-- NVME_MI_COMMAND: R345. -/
def execNvmeMiCommand (op : MiOp) (s : State) : Host.Outcome State Fault Refusal :=
  .next (s.miServe op)

/-- AUTONOMOUS_POWER_STATE_TRANSITION: R367. -/
def execAutonomousPowerStateTransition (ps : BitVec 5) (s : State) : Host.Outcome State Fault Refusal :=
  .next (s.autoPs ps.toNat)

/-- POWER_STATE_ENTRY_COMPLETE: R367. -/
def execPowerStateEntryComplete (s : State) : Host.Outcome State Fault Refusal :=
  .next (s.psEntered)

/-- POWER_STATE_EXIT_COMPLETE: R367. -/
def execPowerStateExitComplete (s : State) : Host.Outcome State Fault Refusal :=
  .next (s.psExited)

/-- KEEP_ALIVE_TIMEOUT: R345. -/
def execKeepAliveTimeout (ctrl : BitVec 8) (s : State) : Host.Outcome State Fault Refusal :=
  .next (s.keepAliveOut ctrl.toNat)

/-- UNSUPPORTED_COMMAND: R345. -/
def execUnsupportedCommand (n : NHdr) (opcodeKnown : Bool) (s : State) : Host.Outcome State Fault Refusal :=
  .next (s.hostCmd n (.unsupportedCommand n opcodeKnown))

end Sys2Proof.Machine
end

