-- ==== Sys2Proof/Machine/Startup.lean ====
section
/-! DEFINITION. Machine/Startup.lean: the mount (R331, R332), the host's links and controllers as they come up (R446, R454 to R456), the resets of
R457 to R459, and the module's power input and pins (R465, R469 to R475). -/

namespace Sys2Proof.Machine

open Sys2Proof

/-! ### The mount (R328 to R332) -/

/-- Pages that stripe writes up to block `wp` of a media-direct zone put on member `m`, parity included: R326, R327. -/
def directPages (wp m : Nat) : Nat :=
  let n := (wp + 3) / 4
  let full := n / 31
  let j := n % 31
  let par := full % 32
  full + (if m = par then 0 else if (if m < par then m else m - 1) < j then 1 else 0)

/-- The lowest word-line group of an open zone's superblock that is not settled on some member: R328. A zone with nothing written has none. -/
def State.unsettled (s : State) (b wp : Nat) : Option Nat :=
  if wp = 0 then none
  else
    (List.range 32).foldl (fun best m =>
      let k := s.fblk (s.member (sbMember b m))
      if k.use != .bad && (k.next % 4 != 0 || decide (k.next < directPages wp m)) then
        let w := min k.next (directPages wp m) / 4
        match best with
        | none => some w
        | some v => some (min v w)
      else best) none

/-- A media-direct zone left open by a loss of power: Full from its first unsettled group on, whose blocks are lost (R328). -/
def State.closeZone (s : State) (id z : Nat) : State :=
  match s.ns? id with
  | none => s
  | some v =>
    let w := v.zone z
    match w.sb with
    | none => s
    | some b =>
      match s.unsettled b w.wp with
      | none => s
      | some g =>
        let lo := 4 * g * 31 * 4
        let a := z * zoneSize 2 + lo
        let n := w.wp - lo
        let v := v.setZone z { w with st := .full }
        let s := s.setNs id { v with lost := (List.range n).foldl (fun l i => setAdd l (a + i)) v.lost }
        let s := if n = 0 then s else (s.recordLost id 1 a n).raiseEvent 0xC0
        s.mediaFault 13 0

/-- The written slots of an open QLC block's unsettled group become invalid, and the block takes no more programs (R330). The layer's units in it
are in the buffer again, from the dump (R332). -/
def State.settleBlk (k : Nat) (s : State) : State :=
  let b := s.fblk k
  let r := b.next % 4
  if b.use != .open_ || b.slc || r == 0 then s
  else
    let ps := (List.range r).map (fun i => b.next - r + i)
    let par := (ps.filter (fun q => q % 32 == keyDie k / 24 % 32)).length
    let us := s.unitsOn (ps.map (ppaNat k)).contains
    let p := min par b.parity
    let d := min (if s.directBlk k then r - par else us.length) b.valid
    let s := State.each us (fun e s => State.moveUnit (ukeyNs e.1) (ukeyUnit e.1) s) s
    let s := { s with media := { s.media with held := s.media.held.filter (fun a => !(ps.map (ppaNat k)).contains a) } }
    s.setFblk k { b with use := .closed, valid := b.valid - d, parity := b.parity - p, invalid := b.invalid + d + p }

/-- What a loss of power left unsettled, settled. -/
def State.settleMedia (s : State) : State :=
  if !s.media.powerCut then s
  else
    let open_ := s.nss.flatMap (fun e => if e.2.kind = 2 then (e.2.zones.filter (fun z => z.2.active)).map (fun z => (e.1, z.1)) else [])
    let s := State.each open_ (fun p s => s.closeZone p.1 p.2) s
    State.each (s.media.blks.map Prod.fst) State.settleBlk s

/-- The extents of a dump page that failed its program are lost: a unit that only the buffer held (R324, R331); which, is open. -/
def State.dumpLost (s : State) : State :=
  if !s.media.dumpBad then s
  else
    let s := s.mediaFault 14 0
    let cand := s.media.fresh ++ s.media.moved
    let r := { s with free := s.free + 1 }
    match cand[Config.dumpUnit s.free % (cand.length + 1)]? with
    | some k => (State.dropUnit (ukeyNs k) (ukeyUnit k) r).loseUnit (ukeyNs k) (ukeyUnit k)
    | none => if cand.isEmpty then s else r

/-- The values that the mount rebuilds from the block-state table: R329, R332, R338. -/
def State.rebuildLedger (s : State) : State :=
  let live := s.media.blks.filter (fun e => e.2.use != .bad)
  let sum := fun (f : Blk → Nat) => live.foldl (fun n e => if e.2.erasing then n else n + f e.2) 0
  let ers := live.filter (fun e => e.2.erasing)
  let factory := s.fuse.factoryBad.foldl (fun n e => n + e.2) 0
  let gone := (s.media.dies.filter (fun e => e.2.retired)).foldl (fun n e => n + s.restOf e.1) 0
  let badBlks := (s.media.blks.filter (fun e => e.2.use == .bad)).length + factory + gone
  let valid := sum Blk.valid
  let invalid := sum Blk.invalid
  let parity := sum Blk.parity
  let bad := live.foldl (fun n e => n + e.2.bad) 0 + 3072 * badBlks
  let erasing := ers.foldl (fun n e => n + (3072 - e.2.bad)) 0
  let used := (live.filter (fun e => e.2.use != .good)).length
  let put := fun (r v : Nat) (s : State) => s.setReg r (BitVec.ofNat 64 v)
  let s := put Reg.MEDIA_PAGE_TOTAL pagesTotal (put Reg.MEDIA_PAGE_VALID valid (put Reg.MEDIA_PAGE_INVALID invalid s))
  let s := put Reg.MEDIA_PAGE_FREE (pagesTotal - valid - invalid - parity - bad - erasing) (put Reg.MEDIA_PAGE_ERASING erasing s)
  let s := put Reg.MEDIA_PAGE_BAD bad (put Reg.MEDIA_PAGE_PARITY parity (put Reg.MEDIA_PAGE_LOST (live.foldl (fun n e => n + e.2.lost) 0) s))
  let s := put (Reg.LEDGER_SEQ 0) 0 (put Reg.MEDIA_PAGE_SEQ 0 s)
  let s := put Reg.MEDIA_FREE (rawBlocks - badBlks - dumpBlocks - used + 2 ^ 32 * ers.length) s
  let s := s.setFld Reg.MEDIA_SLC 0 32 (live.filter (fun e => e.2.slc)).length
  ((s.setSpare (rawBlocks - badBlks - neededBlocks)).slcTarget).starveFrom false

/-- Every block left erasing is erased again: R332. -/
def State.eraseAgain (s : State) : State :=
  let s := { s with media := { s.media with blks := s.media.blks.map (fun (e : Nat × Blk) => (e.1, if e.2.use = BlkUse.suspended then { e.2 with use := BlkUse.erasing } else e.2)) } }
  s.startErases

/-! ### Controllers (R446, R454, R456) -/

/-- Fuses of the anti-rollback counter blown one by one: R446. -/
def State.burnFuses : Nat → State → State
  | 0, s => s
  | n + 1, s =>
    match s.fwPkg s.guard.running with
    | none => s
    | some p =>
      if p.advance && decide (s.fuse.svn < min 128 p.svn) then
        let k := s.guard.burns
        let s := s.modGuard (fun g => { g with burns := k + 1 })
        if Config.fuseFails k then s.raise .guard 4 (s.guard.running * 2 ^ 8)
        else State.burnFuses n { s with fuse := { s.fuse with svn := s.fuse.svn + 1 } }
      else s

/-- An enabled controller becomes ready; the first one ends start-up's sixth step. -/
def State.becomeReady (s : State) (k : Nat) : State :=
  let s := s.modCtrl k (fun c => { c with ready := true })
  if s.guard.phase = .up then s
  else State.burnFuses 128 ((s.stage 6).modGuard (fun g => { g with phase := .up }))

/-- Whether start-up has failed for good, so that controllers only fail: R456. -/
def State.startFailed (s : State) : Bool := s.guard.dramBad || s.guard.mountBad

/-- What an enabled controller does as start-up stands. -/
def State.settleCtrl (k : Nat) (s : State) : State :=
  if s.startFailed then s.modCtrl k (fun c => { c with cfs := true }) else if s.media.mounted then s.becomeReady k else s

/-- The enabled controllers that wait for the mount. -/
def State.waitingCtrls (s : State) : List Nat := (s.host.ctrls.filter (fun e => e.2.enabled && !e.2.ready)).map Prod.fst

/-- MOUNT: R331, R332. -/
def State.mountMedia (s : State) (ok : Bool) : State :=
  if !s.alive || !s.guard.step3 || s.media.mounted || s.startFailed then s
  else
    let s :=
      if ok then
        let s := (s.settleMedia.dumpLost.rebuildLedger.stage 5).eraseAgain
        { s with media := { s.media with mounted := true, dumped := false, dumpBad := false, powerCut := false } }
      else (s.raise .guard 7).modGuard (fun g => { g with mountBad := true })
    State.each s.waitingCtrls State.settleCtrl s

/-- Whether port `p` answers configuration requests: R455. -/
def State.portUp (s : State) (p : Nat) : Bool := s.alive && s.bit (Reg.HOST_PORT p) 0

/-- The admin queue as the model sizes it: AQA is the host's, and no command carries it. -/
def adminQueue : Queue := { qid := 0, size := 4096 }

/-- CONTROLLER_ENABLE: CC.EN set. -/
def State.enableCtrl (s : State) (k : Nat) : State :=
  if 130 ≤ k ∨ !s.portUp (portOf k) ∨ (s.ctrl k).enabled = true ∨ !(s.ctrl k).online then s
  else
    let s := s.modCtrl k (fun c => { c with enabled := true, sqs := [adminQueue], cqs := [adminQueue] })
    let hp := Reg.HOST_PORT (portOf k)
    let s := if physCtrl k then s else s.setFld hp 16 7 (max (s.fld hp 16 7) (k % 65))
    State.settleCtrl k s

/-! ### Host links (R340, R455, R459, R370) -/

/-- PWR_CLK.pcie_lock shows that both ports' PLLs have lock: R36. -/
def State.pcieLock (s : State) : State :=
  if s.bit (Reg.HOST_PORT 0) 0 && s.bit (Reg.HOST_PORT 1) 0 then s.setBit Reg.PWR_CLK 3 true else s

/-- The data link of a port active, as negotiated; FLIT mode at 64 GT/s alone (R340). Step 4 of start-up is reached (R454, R473). -/
def State.linkActive (s : State) (p speed width : Nat) : State :=
  let sp := max 1 (min 6 speed)
  let hp := Reg.HOST_PORT p
  (((((s.setBit hp 0 true).setFld hp 1 3 sp).setFld hp 4 4 (max 1 (min 8 width))).setBit hp 8 (sp == 6)).modGuard
    (fun g => { g with step4 := true })).pcieLock

/-- The link of a port in Detect. -/
def State.linkDetect (s : State) (p : Nat) : State := s.setFld (Reg.HOST_PORT p) 0 9 0

def State.setPerst (s : State) (p : Nat) (v : Bool) : State := s.modGuard (fun g => { g with perst := g.perst.set p v })

/-- PERST_DEASSERT: the port trains once step 3 has ended; until then it stays in Detect (R455). -/
def State.perstUp (s : State) (p speed width : Nat) : State :=
  let s := s.setPerst p false
  if s.alive && s.guard.step3 && !s.bit (Reg.HOST_PORT p) 0 then (s.linkActive p speed width).stage 4 else s

/-- PORT_RESET: R459. -/
def State.portReset (s : State) (p : Nat) : State :=
  let s := s.setPerst p true
  if s.alive then (s.resetFn (65 * p)).linkDetect p else s

/-- HOST_LINK_RETRAIN: R370. -/
def State.linkRetrains (s : State) (p : Nat) (up : Bool) (speed width : Nat) : State :=
  if !s.alive || !s.guard.step3 || s.guard.perst.getD p true then s
  else
    let hp := Reg.HOST_PORT p
    let s := s.setFld hp 32 32 (min (2 ^ 32 - 1) (s.fld hp 32 32 + 1))
    if up then s.linkActive p speed width else s.linkDetect p

/-! ### Power input (R331, R469, R475) -/

/-- A loss of input: fetching and admission stop, and the flush runs on the hold-up bank. One already running is the flush (R458). -/
def State.losePower (s : State) : State :=
  match s.guard.phase with
  | .unpowered | .losing => s
  | .starting | .up | .resetting => s.modGuard (fun g => { g with phase := .losing })

/-- FLUSH_COMPLETE: the dump is written, well or not, and the module is without power. -/
def State.flushed (s : State) (dumpOk : Bool) : State :=
  if s.guard.phase = .losing then
    let s := if dumpOk then s else s.mediaFault 14 0
    let s := s.writeDump
    { s with media := { s.media.flushed true with dumpBad := !dumpOk, powerCut := true } }.modGuard (fun g => { g with phase := .unpowered })
  else s

/-! ### Pins (R466, R471 to R473) -/

/-- IND_FAULT_N is low: R472, R473. -/
def State.indFaultLow (s : State) : Bool :=
  s.guard.phase != .unpowered && decide (1 ≤ s.fld Reg.GUARD_BOOT 0 3) &&
    (s.bit Reg.GUARD_FAULT 3 || s.bit Reg.GUARD_FAULT 6 || s.bit Reg.GUARD_FAULT 7 || s.bit Reg.MEDIA_SPARE 63 || s.criticalWarning.testBit 2 ||
      s.criticalWarning.testBit 4)

/-- IND_ACT_N is low, at this point of the run: R472. -/
def State.indActLow (s : State) : Bool :=
  s.alive && (decide (0 < s.fetched) || (List.range s.coreCount).any (fun c => (s.core c).run == .running))

/-- LEAK_N is low: R465, R473. -/
def State.leakLow (s : State) : Bool := s.guard.phase != .unpowered && s.guard.leak

/-- MOD_PWRGD is high: R468, R473. -/
def State.modPwrgd (s : State) : Bool := s.guard.phase != .unpowered

/-- SMB_ALERT_N is low while a Subsystem Health Status change awaits a poll: R471. -/
def State.smbAlertLow (s : State) : Bool := s.alive && s.criticalWarning != s.host.healthSeen

/-! ### The commands -/

/-- POWER_GOOD: R454; only from the unpowered state, with PWR_DIS low (R475). -/
def execPowerGood (dramTrained : Bool) (s : State) : Host.Outcome State Fault Refusal :=
  .next (if s.guard.phase = .unpowered ∧ s.guard.pwrDis = false then s.powerGood dramTrained else s)

/-- PERST_DEASSERT: R455. -/
def execPerstDeassert (port : BitVec 1) (speed : BitVec 3) (width : BitVec 4) (s : State) : Host.Outcome State Fault Refusal :=
  .next (s.perstUp port.toNat speed.toNat width.toNat)

/-- MOUNT: R332. -/
def execMount (ok : Bool) (s : State) : Host.Outcome State Fault Refusal := .next (s.mountMedia ok).runStalled

/-- CONTROLLER_ENABLE: R454. -/
def execControllerEnable (ctrl : BitVec 8) (s : State) : Host.Outcome State Fault Refusal := .next (s.enableCtrl ctrl.toNat)

/-- CONTROLLER_RESET: R459. -/
def execControllerReset (ctrl : BitVec 8) (s : State) : Host.Outcome State Fault Refusal :=
  .next (if s.alive && (s.ctrl ctrl.toNat).enabled then (State.resetCtrl ctrl.toNat s).runAll else s)

/-- FUNCTION_LEVEL_RESET: R459. -/
def execFunctionLevelReset (ctrl : BitVec 8) (s : State) : Host.Outcome State Fault Refusal :=
  .next (if s.alive && decide (ctrl.toNat < 130) then (s.resetFn ctrl.toNat).runAll else s)

/-- PORT_RESET: R459. -/
def execPortReset (port : BitVec 1) (s : State) : Host.Outcome State Fault Refusal := .next (s.portReset port.toNat).runAll

/-- WARM_RESET: R457, as the request of GUARD_RESET.warm. -/
def execWarmReset (s : State) : Host.Outcome State Fault Refusal := .next (s.warmReset .request)

/-- GUARD_RESET_WARM: R457. -/
def execGuardResetWarm (value : Word) (s : State) : Host.Outcome State Fault Refusal := .next (s.registerWrite Reg.GUARD_RESET 8 value)

/-- NVM_SUBSYSTEM_RESET: R457. -/
def execNvmSubsystemReset (port : BitVec 1) (s : State) : Host.Outcome State Fault Refusal :=
  .next (if s.portUp port.toNat then s.warmReset .nssr else s)

/-- PERST_BOTH_PORTS: R468. -/
def execPerstBothPorts (s : State) : Host.Outcome State Fault Refusal :=
  .next (((s.setPerst 0 true).setPerst 1 true).warmReset .perst)

/-- INPUT_POWER_LOSS: R475. -/
def execInputPowerLoss (s : State) : Host.Outcome State Fault Refusal := .next (s.modGuard (fun g => { g with vinLow := true })).losePower

/-- FLUSH_COMPLETE: R331. -/
def execFlushComplete (dumpOk : Bool) (s : State) : Host.Outcome State Fault Refusal := .next (s.flushed dumpOk)

/-- PWR_DIS_ASSERT: R469. -/
def execPwrDisAssert (s : State) : Host.Outcome State Fault Refusal := .next (s.modGuard (fun g => { g with pwrDis := true })).losePower

/-- PWR_DIS_DEASSERT: R469. -/
def execPwrDisDeassert (s : State) : Host.Outcome State Fault Refusal := .next (s.modGuard (fun g => { g with pwrDis := false }))

/-- LEAK_DETECT: R465. -/
def execLeakDetect (moist : Bool) (s : State) : Host.Outcome State Fault Refusal := .next (s.modGuard (fun g => { g with leak := moist }))

/-- HOST_LINK_RETRAIN: R370. -/
def execHostLinkRetrain (port : BitVec 1) (up : Bool) (speed : BitVec 3) (width : BitVec 4) (s : State) : Host.Outcome State Fault Refusal :=
  .next (s.linkRetrains port.toNat up speed.toNat width.toNat)

end Sys2Proof.Machine
end

