-- ==== Sys2Proof/Machine/Wenmel.lean ====
section
/-! DEFINITION. Machine/Wenmel.lean: the meaning of each Wenmel instruction as the sequencer of its core takes it up (R163 to R169, R191). What the
instruction does is in `State.seqEffect` for class 0 and in `State.start` for the engines: at issue it takes its token, enters its queue and starts
when its engine is free. -/

namespace Sys2Proof.Machine

open Sys2Proof

/-- NOP (R195): Sequencer no-operation that only carries a wait, a signal or a boundary flag. -/
def execNop (h : Hdr) (s : State) : Host.Outcome State Fault Refusal :=
  .next (s.issue (.nop h))

/-- END (R188): Ends the core's part of the current step once every earlier instruction of the core has retired. -/
def execEndStep (h : Hdr) (s : State) : Host.Outcome State Fault Refusal :=
  .next (s.issue (.endStep h))

/-- LOOP (R170): Opens a loop level over the next n instructions, with a trip count latched from a counter. -/
def execLoop (h : Hdr) (level : BitVec 3) (ca : BitVec 4) (n : BitVec 12) (s : State) : Host.Outcome State Fault Refusal :=
  .next (s.issue (.loop h level ca n))

/-- EXIT (R175): When its comparator is true, abandons a loop level and every level inside it. -/
def execExitLoop (h : Hdr) (k : BitVec 3) (level : BitVec 3) (s : State) : Host.Outcome State Fault Refusal :=
  .next (s.issue (.exitLoop h k level))

/-- SKIP (R176): When its comparator is true, leaves the next n instructions unissued. -/
def execSkip (h : Hdr) (k : BitVec 3) (n : BitVec 12) (s : State) : Host.Outcome State Fault Refusal :=
  .next (s.issue (.skip h k n))

/-- CMP (R174): Sets a comparator from a comparison of a counter with a counter or an immediate. -/
def execCmp (h : Hdr) (k : BitVec 3) (ca : BitVec 4) (bimm : Bool) (cb : BitVec 4) (imm16 : BitVec 16) (cond : BitVec 3) (s : State) : Host.Outcome State Fault Refusal :=
  .next (s.issue (.cmp h k ca bimm cb imm16 cond))

/-- JMP (R197): Continues issue at a target index, unconditionally or only when a comparator is true. -/
def execJmp (h : Hdr) (k : BitVec 3) (cond : Bool) (target : BitVec 19) (s : State) : Host.Outcome State Fault Refusal :=
  .next (s.issue (.jmp h k cond target))

/-- CSET (R173): Sets a counter from a counter or an immediate. -/
def execCset (h : Hdr) (cd : BitVec 4) (src : CSrc) (s : State) : Host.Outcome State Fault Refusal :=
  .next (s.issue (.cset h cd src))

/-- CADD (R173): Adds a source to a counter, modulo 2^32. -/
def execCadd (h : Hdr) (cd ca : BitVec 4) (src : CSrc) (s : State) : Host.Outcome State Fault Refusal :=
  .next (s.issue (.cadd h cd ca src))

/-- CSUB (R173): Subtracts a source from a counter, modulo 2^32. -/
def execCsub (h : Hdr) (cd ca : BitVec 4) (src : CSrc) (s : State) : Host.Outcome State Fault Refusal :=
  .next (s.issue (.csub h cd ca src))

/-- CMUL (R173): Multiplies a counter by a source and keeps the low 32 bits. -/
def execCmul (h : Hdr) (cd ca : BitVec 4) (src : CSrc) (s : State) : Host.Outcome State Fault Refusal :=
  .next (s.issue (.cmul h cd ca src))

/-- CMIN (R173): Sets a counter to the unsigned minimum of two sources. -/
def execCmin (h : Hdr) (cd ca : BitVec 4) (src : CSrc) (s : State) : Host.Outcome State Fault Refusal :=
  .next (s.issue (.cmin h cd ca src))

/-- CMAX (R173): Sets a counter to the unsigned maximum of two sources. -/
def execCmax (h : Hdr) (cd ca : BitVec 4) (src : CSrc) (s : State) : Host.Outcome State Fault Refusal :=
  .next (s.issue (.cmax h cd ca src))

/-- CDIV (R173): Divides unsigned with the quotient rounded up; a division by zero yields zero and records div_zero. -/
def execCdiv (h : Hdr) (cd ca : BitVec 4) (src : CSrc) (s : State) : Host.Outcome State Fault Refusal :=
  .next (s.issue (.cdiv h cd ca src))

/-- CIDX (R195): Loads the iteration index of a loop level into a counter. -/
def execCidx (h : Hdr) (cd : BitVec 4) (level : BitVec 3) (s : State) : Host.Outcome State Fault Refusal :=
  .next (s.issue (.cidx h cd level))

/-- CLDR (R173): Loads a bit field of a register in the core's own window into a counter. -/
def execCldr (h : Hdr) (cd : BitVec 4) (lsb : BitVec 6) (wm1 : BitVec 5) (off : BitVec 20) (s : State) : Host.Outcome State Fault Refusal :=
  .next (s.issue (.cldr h cd lsb wm1 off))

/-- CLDS (R173): Loads a 4-byte word from core SRAM into a counter; a poisoned line stops issue and fails the step. -/
def execClds (h : Hdr) (cd : BitVec 4) (g : BitVec 5) (imm24 : BitVec 24) (s : State) : Host.Outcome State Fault Refusal :=
  .next (s.issue (.clds h cd g imm24))

/-- CSTS (R173): Stores a counter to SRAM as a 4-byte write through the merge buffer. -/
def execCsts (h : Hdr) (cd : BitVec 4) (g : BitVec 5) (imm24 : BitVec 24) (s : State) : Host.Outcome State Fault Refusal :=
  .next (s.issue (.csts h cd g imm24))

/-- AGSET (R196): Sets an address generator's base from an immediate or from another generator plus a term. -/
def execAgset (h : Hdr) (g : BitVec 5) (src : AgSrc) (s : State) : Host.Outcome State Fault Refusal :=
  .next (s.issue (.agset h g src))

/-- AGADD (R196): Adds a counter-scaled term to an address generator's base. -/
def execAgadd (h : Hdr) (g : BitVec 5) (t : AgTerm) (s : State) : Host.Outcome State Fault Refusal :=
  .next (s.issue (.agadd h g t))

/-- AGINC (R196): Sets an address generator's increment for one loop level. -/
def execAginc (h : Hdr) (g : BitVec 5) (level : BitVec 3) (src : AgIncSrc) (s : State) : Host.Outcome State Fault Refusal :=
  .next (s.issue (.aginc h g level src))

/-- TADD (R178): Adds 1 to 16 units to a dependence token as signals. -/
def execTadd (h : Hdr) (token : BitVec 6) (nm1 : BitVec 4) (s : State) : Host.Outcome State Fault Refusal :=
  .next (s.issue (.tadd h token nm1))

/-- DXS (R199): Issues a stream from a descriptor between SRAM and the outer side, skewed or linear. -/
def execDxs (h : Hdr) (o : DxOps) (s : State) : Host.Outcome State Fault Refusal :=
  .next (s.issue (.dxs h o))

/-- DXG (R200): Issues a gather stream whose dimension-1 addresses come from an index list in SRAM. -/
def execDxg (h : Hdr) (o : DxOps) (s : State) : Host.Outcome State Fault Refusal :=
  .next (s.issue (.dxg h o))

/-- MXT (R204): Runs one matrix tile on each array whose column count is non-zero and drains it to SRAM. -/
def execMxt (h : Hdr) (o : MxtOps) (s : State) : Host.Outcome State Fault Refusal :=
  .next (s.issue (.mxt h o))

/-- MXL (R206): Loads an expander table slot from an image in SRAM. -/
def execMxl (h : Hdr) (slot : BitVec 6) (kind : BitVec 2) (g : BitVec 5) (imm24 : BitVec 24) (s : State) : Host.Outcome State Fault Refusal :=
  .next (s.issue (.mxl h slot kind g imm24))

/-- MXP (R206): Loads a preset bell-grid table into an expander slot. -/
def execMxp (h : Hdr) (slot : BitVec 6) (preset : BitVec 2) (s : State) : Host.Outcome State Fault Refusal :=
  .next (s.issue (.mxp h slot preset))

/-- VADD (R208): Elementwise FP32 addition over rows. -/
def execVadd (h : Hdr) (o : VxOps) (s : State) : Host.Outcome State Fault Refusal :=
  .next (s.issue (.vadd h o))

/-- VSUB (R208): Elementwise FP32 subtraction over rows. -/
def execVsub (h : Hdr) (o : VxOps) (s : State) : Host.Outcome State Fault Refusal :=
  .next (s.issue (.vsub h o))

/-- VMUL (R208): Elementwise FP32 multiplication over rows, with a residue check of each product. -/
def execVmul (h : Hdr) (o : VxOps) (s : State) : Host.Outcome State Fault Refusal :=
  .next (s.issue (.vmul h o))

/-- VFMA (R208): Elementwise fused multiply-add with one rounding. -/
def execVfma (h : Hdr) (o : VxOps) (s : State) : Host.Outcome State Fault Refusal :=
  .next (s.issue (.vfma h o))

/-- VMIN (R208): Elementwise minimum. -/
def execVmin (h : Hdr) (o : VxOps) (s : State) : Host.Outcome State Fault Refusal :=
  .next (s.issue (.vmin h o))

/-- VMAX (R208): Elementwise maximum. -/
def execVmax (h : Hdr) (o : VxOps) (s : State) : Host.Outcome State Fault Refusal :=
  .next (s.issue (.vmax h o))

/-- VCMP (R208): Elementwise comparison under a predicate, giving 1.0 or 0.0. -/
def execVcmp (h : Hdr) (o : VxOps) (s : State) : Host.Outcome State Fault Refusal :=
  .next (s.issue (.vcmp h o))

/-- VSEL (R208): Elementwise select of b or c according to a. -/
def execVsel (h : Hdr) (o : VxOps) (s : State) : Host.Outcome State Fault Refusal :=
  .next (s.issue (.vsel h o))

/-- VABS (R208): Elementwise absolute value. -/
def execVabs (h : Hdr) (o : VxOps) (s : State) : Host.Outcome State Fault Refusal :=
  .next (s.issue (.vabs h o))

/-- VNEG (R208): Elementwise negation. -/
def execVneg (h : Hdr) (o : VxOps) (s : State) : Host.Outcome State Fault Refusal :=
  .next (s.issue (.vneg h o))

/-- VEXP2 (R208): Elementwise correctly rounded 2^a. -/
def execVexp2 (h : Hdr) (o : VxOps) (s : State) : Host.Outcome State Fault Refusal :=
  .next (s.issue (.vexp2 h o))

/-- VLOG2 (R208): Elementwise correctly rounded log2(a). -/
def execVlog2 (h : Hdr) (o : VxOps) (s : State) : Host.Outcome State Fault Refusal :=
  .next (s.issue (.vlog2 h o))

/-- VRCP (R208): Elementwise correctly rounded reciprocal. -/
def execVrcp (h : Hdr) (o : VxOps) (s : State) : Host.Outcome State Fault Refusal :=
  .next (s.issue (.vrcp h o))

/-- VRSQ (R208): Elementwise correctly rounded reciprocal square root. -/
def execVrsq (h : Hdr) (o : VxOps) (s : State) : Host.Outcome State Fault Refusal :=
  .next (s.issue (.vrsq h o))

/-- VCVT (R208): Converts elements into the destination format with one rounding. -/
def execVcvt (h : Hdr) (o : VxOps) (s : State) : Host.Outcome State Fault Refusal :=
  .next (s.issue (.vcvt h o))

/-- VREQ (R100): Requantises with a scale, counts clipped elements and optionally writes zero bitmaps. -/
def execVreq (h : Hdr) (o : VxOps) (s : State) : Host.Outcome State Fault Refusal :=
  .next (s.issue (.vreq h o))

/-- VLF (R208): Rounds long forms to FP32 under R74, checking each record's residue. -/
def execVlf (h : Hdr) (o : VxOps) (s : State) : Host.Outcome State Fault Refusal :=
  .next (s.issue (.vlf h o))

/-- VLFA (R77): Adds two long forms into a long form. -/
def execVlfa (h : Hdr) (o : VxOps) (s : State) : Host.Outcome State Fault Refusal :=
  .next (s.issue (.vlfa h o))

/-- VRSUM (R98): Reduces each row to its sum in the fixed tree order. -/
def execVrsum (h : Hdr) (o : VxOps) (s : State) : Host.Outcome State Fault Refusal :=
  .next (s.issue (.vrsum h o))

/-- VRMAX (R98): Reduces each row to its maximum. -/
def execVrmax (h : Hdr) (o : VxOps) (s : State) : Host.Outcome State Fault Refusal :=
  .next (s.issue (.vrmax h o))

/-- VSMAX (R99): Computes the softmax of each row at an inverse temperature. -/
def execVsmax (h : Hdr) (o : VxOps) (s : State) : Host.Outcome State Fault Refusal :=
  .next (s.issue (.vsmax h o))

/-- VRMS (R99): Applies RMS normalisation to each row. -/
def execVrms (h : Hdr) (o : VxOps) (s : State) : Host.Outcome State Fault Refusal :=
  .next (s.issue (.vrms h o))

/-- VLNORM (R99): Applies layer normalisation with weight and bias to each row. -/
def execVlnorm (h : Hdr) (o : VxOps) (s : State) : Host.Outcome State Fault Refusal :=
  .next (s.issue (.vlnorm h o))

/-- VKL (R234): Computes the KL loss and gradient of student rows against tally records, optionally reading a ring directly. -/
def execVkl (h : Hdr) (o : VxOps) (s : State) : Host.Outcome State Fault Refusal :=
  .next (s.issue (.vkl h o))

/-- SXTOPK (R210): Ranks candidates together with a list and keeps the first k. -/
def execSxtopk (h : Hdr) (ain agl : BitVec 5) (nc : BitVec 4) (desc u32 : Bool) (k : BitVec 13) (fresh : Bool) (s : State) : Host.Outcome State Fault Refusal :=
  .next (s.issue (.sxtopk h ain agl nc desc u32 k fresh))

/-- SXMERGE (R210): Writes the first k records of the union of two lists. -/
def execSxmerge (h : Hdr) (aa ab ad : BitVec 5) (desc u32 : Bool) (k : BitVec 13) (s : State) : Host.Outcome State Fault Refusal :=
  .next (s.issue (.sxmerge h aa ab ad desc u32 k))

/-- SXAND (R210): ANDs two bitmaps and writes the count of one bits. -/
def execSxand (h : Hdr) (aa ab ad agp : BitVec 5) (nc : BitVec 4) (s : State) : Host.Outcome State Fault Refusal :=
  .next (s.issue (.sxand h aa ab ad agp nc))

/-- SXROUTE (R210): Routes tokens to their best experts and writes counts, token lists and choices. -/
def execSxroute (h : Hdr) (as_ ad ap : BitVec 5) (nc : BitVec 4) (em1 : BitVec 8) (rm1 : BitVec 3) (s : State) : Host.Outcome State Fault Refusal :=
  .next (s.issue (.sxroute h as_ ad ap nc em1 rm1))

/-- SXWALK (R287): Runs a batch of proximity-graph walks and writes each query's candidate list. -/
def execSxwalk (h : Hdr) (aq ad : BitVec 5) (s : State) : Host.Outcome State Fault Refusal :=
  .next (s.issue (.sxwalk h aq ad))

/-- OXUPD (R238): Updates BF16 master weights and moments with stochastic rounding. -/
def execOxupd (h : Hdr) (o : OxOps) (s : State) : Host.Outcome State Fault Refusal :=
  .next (s.issue (.oxupd h o))

/-- OXSR (R240): Rounds FP32 values to BF16 stochastically. -/
def execOxsr (h : Hdr) (o : OxOps) (s : State) : Host.Outcome State Fault Refusal :=
  .next (s.issue (.oxsr h o))

/-- HXSEND (R212): Offers tally or activation records from SRAM to a harness ring, taking one credit per record. -/
def execHxsend (h : Hdr) (o : HxOps) (s : State) : Host.Outcome State Fault Refusal :=
  .next (s.issue (.hxsend h o))

/-- HXRECV (R212): Takes records from a harness ring into SRAM. -/
def execHxrecv (h : Hdr) (o : HxOps) (s : State) : Host.Outcome State Fault Refusal :=
  .next (s.issue (.hxrecv h o))

/-- GXPUT (R213): Writes lines from local SRAM to a device address on a peer module. -/
def execGxput (h : Hdr) (o : GxOps) (s : State) : Host.Outcome State Fault Refusal :=
  .next (s.issue (.gxput h o))

/-- GXGET (R213): Reads lines from a device address on a peer module into local SRAM. -/
def execGxget (h : Hdr) (o : GxOps) (s : State) : Host.Outcome State Fault Refusal :=
  .next (s.issue (.gxget h o))

/-- ALLRED (R391): GXCOLL all-reduce of long forms over a group, by buckets and reducers. -/
def execAllred (h : Hdr) (o : CollOps) (s : State) : Host.Outcome State Fault Refusal :=
  .next (s.issue (.allred h o))

/-- REDSCAT (R391): GXCOLL reduce-scatter of long forms over a group. -/
def execRedscat (h : Hdr) (o : CollOps) (s : State) : Host.Outcome State Fault Refusal :=
  .next (s.issue (.redscat h o))

/-- BCAST (R392): GXCOLL broadcast of the root's lines to every member of a group. -/
def execBcast (h : Hdr) (o : CollOps) (s : State) : Host.Outcome State Fault Refusal :=
  .next (s.issue (.bcast h o))

/-- CLEAR (R392): GXCOLL clearing round that merges every member's list into each member. -/
def execClear (h : Hdr) (o : CollOps) (s : State) : Host.Outcome State Fault Refusal :=
  .next (s.issue (.clear h o))

/-- MRD (R216): Media service read of logical blocks into a buffer. -/
def execMrd (h : Hdr) (agr : BitVec 5) (imm24 : BitVec 24) (s : State) : Host.Outcome State Fault Refusal :=
  .next (s.issue (.mrd h agr imm24))

/-- MWR (R216): Media service write at a zone's write pointer. -/
def execMwr (h : Hdr) (agr : BitVec 5) (imm24 : BitVec 24) (s : State) : Host.Outcome State Fault Refusal :=
  .next (s.issue (.mwr h agr imm24))

/-- MAPP (R216): Media service append at a zone's write pointer, returning the block written. -/
def execMapp (h : Hdr) (agr : BitVec 5) (imm24 : BitVec 24) (s : State) : Host.Outcome State Fault Refusal :=
  .next (s.issue (.mapp h agr imm24))

/-- PREAD (R217): Writes the partition's purse terms and the job's energy figures to SRAM. -/
def execPread (h : Hdr) (agr : BitVec 5) (s : State) : Host.Outcome State Fault Refusal :=
  .next (s.issue (.pread h agr))

/-- PRES (R217): Declares more energy for the running step and joins the admission FIFO. -/
def execPres (h : Hdr) (agr : BitVec 5) (ec : BitVec 4) (s : State) : Host.Outcome State Fault Refusal :=
  .next (s.issue (.pres h agr ec))

end Sys2Proof.Machine
end

