-- ==== Sys2Proof/Machine/Dispatch.lean ====
section
/-! DEFINITION. Machine/Dispatch.lean: one arm per command or event, each a direct call of its meaning. -/

namespace Sys2Proof.Machine

open Sys2Proof

/-- The command's effect on everything but the queue. -/
def exec (i : Instr) (s : State) : Host.Outcome State Fault Refusal :=
  match i with
  | .nop h => Sys2Proof.Machine.execNop h s
  | .endStep h => Sys2Proof.Machine.execEndStep h s
  | .loop h level ca n => Sys2Proof.Machine.execLoop h level ca n s
  | .exitLoop h k level => Sys2Proof.Machine.execExitLoop h k level s
  | .skip h k n => Sys2Proof.Machine.execSkip h k n s
  | .cmp h k ca bimm cb imm16 cond => Sys2Proof.Machine.execCmp h k ca bimm cb imm16 cond s
  | .jmp h k cond target => Sys2Proof.Machine.execJmp h k cond target s
  | .cset h cd src => Sys2Proof.Machine.execCset h cd src s
  | .cadd h cd ca src => Sys2Proof.Machine.execCadd h cd ca src s
  | .csub h cd ca src => Sys2Proof.Machine.execCsub h cd ca src s
  | .cmul h cd ca src => Sys2Proof.Machine.execCmul h cd ca src s
  | .cmin h cd ca src => Sys2Proof.Machine.execCmin h cd ca src s
  | .cmax h cd ca src => Sys2Proof.Machine.execCmax h cd ca src s
  | .cdiv h cd ca src => Sys2Proof.Machine.execCdiv h cd ca src s
  | .cidx h cd level => Sys2Proof.Machine.execCidx h cd level s
  | .cldr h cd lsb wm1 off => Sys2Proof.Machine.execCldr h cd lsb wm1 off s
  | .clds h cd g imm24 => Sys2Proof.Machine.execClds h cd g imm24 s
  | .csts h cd g imm24 => Sys2Proof.Machine.execCsts h cd g imm24 s
  | .agset h g src => Sys2Proof.Machine.execAgset h g src s
  | .agadd h g t => Sys2Proof.Machine.execAgadd h g t s
  | .aginc h g level src => Sys2Proof.Machine.execAginc h g level src s
  | .tadd h token nm1 => Sys2Proof.Machine.execTadd h token nm1 s
  | .dxs h o => Sys2Proof.Machine.execDxs h o s
  | .dxg h o => Sys2Proof.Machine.execDxg h o s
  | .mxt h o => Sys2Proof.Machine.execMxt h o s
  | .mxl h slot kind g imm24 => Sys2Proof.Machine.execMxl h slot kind g imm24 s
  | .mxp h slot preset => Sys2Proof.Machine.execMxp h slot preset s
  | .vadd h o => Sys2Proof.Machine.execVadd h o s
  | .vsub h o => Sys2Proof.Machine.execVsub h o s
  | .vmul h o => Sys2Proof.Machine.execVmul h o s
  | .vfma h o => Sys2Proof.Machine.execVfma h o s
  | .vmin h o => Sys2Proof.Machine.execVmin h o s
  | .vmax h o => Sys2Proof.Machine.execVmax h o s
  | .vcmp h o => Sys2Proof.Machine.execVcmp h o s
  | .vsel h o => Sys2Proof.Machine.execVsel h o s
  | .vabs h o => Sys2Proof.Machine.execVabs h o s
  | .vneg h o => Sys2Proof.Machine.execVneg h o s
  | .vexp2 h o => Sys2Proof.Machine.execVexp2 h o s
  | .vlog2 h o => Sys2Proof.Machine.execVlog2 h o s
  | .vrcp h o => Sys2Proof.Machine.execVrcp h o s
  | .vrsq h o => Sys2Proof.Machine.execVrsq h o s
  | .vcvt h o => Sys2Proof.Machine.execVcvt h o s
  | .vreq h o => Sys2Proof.Machine.execVreq h o s
  | .vlf h o => Sys2Proof.Machine.execVlf h o s
  | .vlfa h o => Sys2Proof.Machine.execVlfa h o s
  | .vrsum h o => Sys2Proof.Machine.execVrsum h o s
  | .vrmax h o => Sys2Proof.Machine.execVrmax h o s
  | .vsmax h o => Sys2Proof.Machine.execVsmax h o s
  | .vrms h o => Sys2Proof.Machine.execVrms h o s
  | .vlnorm h o => Sys2Proof.Machine.execVlnorm h o s
  | .vkl h o => Sys2Proof.Machine.execVkl h o s
  | .sxtopk h ain agl nc desc u32 k fresh => Sys2Proof.Machine.execSxtopk h ain agl nc desc u32 k fresh s
  | .sxmerge h aa ab ad desc u32 k => Sys2Proof.Machine.execSxmerge h aa ab ad desc u32 k s
  | .sxand h aa ab ad agp nc => Sys2Proof.Machine.execSxand h aa ab ad agp nc s
  | .sxroute h as_ ad ap nc em1 rm1 => Sys2Proof.Machine.execSxroute h as_ ad ap nc em1 rm1 s
  | .sxwalk h aq ad => Sys2Proof.Machine.execSxwalk h aq ad s
  | .oxupd h o => Sys2Proof.Machine.execOxupd h o s
  | .oxsr h o => Sys2Proof.Machine.execOxsr h o s
  | .hxsend h o => Sys2Proof.Machine.execHxsend h o s
  | .hxrecv h o => Sys2Proof.Machine.execHxrecv h o s
  | .gxput h o => Sys2Proof.Machine.execGxput h o s
  | .gxget h o => Sys2Proof.Machine.execGxget h o s
  | .allred h o => Sys2Proof.Machine.execAllred h o s
  | .redscat h o => Sys2Proof.Machine.execRedscat h o s
  | .bcast h o => Sys2Proof.Machine.execBcast h o s
  | .clear h o => Sys2Proof.Machine.execClear h o s
  | .mrd h agr imm24 => Sys2Proof.Machine.execMrd h agr imm24 s
  | .mwr h agr imm24 => Sys2Proof.Machine.execMwr h agr imm24 s
  | .mapp h agr imm24 => Sys2Proof.Machine.execMapp h agr imm24 s
  | .pread h agr => Sys2Proof.Machine.execPread h agr s
  | .pres h agr ec => Sys2Proof.Machine.execPres h agr ec s
  | .tokenWaitProceed core reservedOp => Sys2Proof.Machine.execTokenWaitProceed core reservedOp s
  | .instructionRetire core cls => Sys2Proof.Machine.execInstructionRetire core cls s
  | .boundaryRetire core => Sys2Proof.Machine.execBoundaryRetire core s
  | .coreStallDetect core => Sys2Proof.Machine.execCoreStallDetect core s
  | .streamLineArrival core stream out hostLine => Sys2Proof.Machine.execStreamLineArrival core stream out hostLine s
  | .prefetchStart core index slots => Sys2Proof.Machine.execPrefetchStart core index slots s
  | .pstreamBaseWrite core n value => Sys2Proof.Machine.execPstreamBaseWrite core n value s
  | .laceLineArrival core channel => Sys2Proof.Machine.execLaceLineArrival core channel s
  | .laceCreditReturn core channel => Sys2Proof.Machine.execLaceCreditReturn core channel s
  | .mxInjectArm core value => Sys2Proof.Machine.execMxInjectArm core value s
  | .vxInjectArm core value => Sys2Proof.Machine.execVxInjectArm core value s
  | .clipClear core value => Sys2Proof.Machine.execClipClear core value s
  | .clearValid core value => Sys2Proof.Machine.execClearValid core value s
  | .flipArm hub core g value => Sys2Proof.Machine.execFlipArm hub core g value s
  | .mergeEntryRetire core bank out => Sys2Proof.Machine.execMergeEntryRetire core bank out s
  | .sramCeWriteback word out => Sys2Proof.Machine.execSramCeWriteback word out s
  | .powerSample p => Sys2Proof.Machine.execPowerSample p s
  | .thermalTripRelease junctionW junctionE junctionHub flashMax => Sys2Proof.Machine.execThermalTripRelease junctionW junctionE junctionHub flashMax s
  | .periodBoundary => Sys2Proof.Machine.execPeriodBoundary s
  | .stepAdmit part => Sys2Proof.Machine.execStepAdmit part s
  | .purseCtlWrite p value => Sys2Proof.Machine.execPurseCtlWrite p value s
  | .pwrAlertAssert sled => Sys2Proof.Machine.execPwrAlertAssert sled s
  | .alertForceWrite value => Sys2Proof.Machine.execAlertForceWrite value s
  | .droopWarning tile mv => Sys2Proof.Machine.execDroopWarning tile mv s
  | .droopHoldExpiry tile => Sys2Proof.Machine.execDroopHoldExpiry tile s
  | .droopReset tile mv => Sys2Proof.Machine.execDroopReset tile mv s
  | .rootPllLoss => Sys2Proof.Machine.execRootPllLoss s
  | .interfacePllLoss pll => Sys2Proof.Machine.execInterfacePllLoss pll s
  | .promotionCopyDone page => Sys2Proof.Machine.execPromotionCopyDone page s
  | .poolSizeWrite value => Sys2Proof.Machine.execPoolSizeWrite value s
  | .poolZeroingDone => Sys2Proof.Machine.execPoolZeroingDone s
  | .dramScrub out => Sys2Proof.Machine.execDramScrub out s
  | .sliceExpiry part => Sys2Proof.Machine.execSliceExpiry part s
  | .switchDeferEnd part => Sys2Proof.Machine.execSwitchDeferEnd part s
  | .switchOutComplete part => Sys2Proof.Machine.execSwitchOutComplete part s
  | .jobPlace part => Sys2Proof.Machine.execJobPlace part s
  | .reinWrite girth p value => Sys2Proof.Machine.execReinWrite girth p value s
  | .daybookDeliver => Sys2Proof.Machine.execDaybookDeliver s
  | .dbkEoi value => Sys2Proof.Machine.execDbkEoi value s
  | .dbkSoft value => Sys2Proof.Machine.execDbkSoft value s
  | .dbkHoldWrite value => Sys2Proof.Machine.execDbkHoldWrite value s
  | .dbkRingHeadWrite steward value => Sys2Proof.Machine.execDbkRingHeadWrite steward value s
  | .stewardSleep steward => Sys2Proof.Machine.execStewardSleep steward s
  | .stewardStuck steward => Sys2Proof.Machine.execStewardStuck steward s
  | .stewardStuckClear steward value => Sys2Proof.Machine.execStewardStuckClear steward value s
  | .faultRegisterClear offset value => Sys2Proof.Machine.execFaultRegisterClear offset value s
  | .quarantineRelease value => Sys2Proof.Machine.execQuarantineRelease value s
  | .ledgerTestArm value => Sys2Proof.Machine.execLedgerTestArm value s
  | .registerWrite place size value => Sys2Proof.Machine.execRegisterWrite place size value s
  | .doorbellWrite ctrl cq qid value => Sys2Proof.Machine.execDoorbellWrite ctrl cq qid value s
  | .identify n cns nsid => Sys2Proof.Machine.execIdentify n cns nsid s
  | .getFeatures n fid => Sys2Proof.Machine.execGetFeatures n fid s
  | .setFeatures n fid value => Sys2Proof.Machine.execSetFeatures n fid value s
  | .powerManagement n ps => Sys2Proof.Machine.execPowerManagement n ps s
  | .timestamp n ms => Sys2Proof.Machine.execTimestamp n ms s
  | .getLogPage n lid rae offset len => Sys2Proof.Machine.execGetLogPage n lid rae offset len s
  | .createIoQueue n cq qid size cqid => Sys2Proof.Machine.execCreateIoQueue n cq qid size cqid s
  | .deleteIoQueue n cq qid => Sys2Proof.Machine.execDeleteIoQueue n cq qid s
  | .abort n target => Sys2Proof.Machine.execAbort n target s
  | .asynchronousEventRequest n => Sys2Proof.Machine.execAsynchronousEventRequest n s
  | .namespaceCreate n kind part lbas memBytes rsv => Sys2Proof.Machine.execNamespaceCreate n kind part lbas memBytes rsv s
  | .namespaceDelete n nsid => Sys2Proof.Machine.execNamespaceDelete n nsid s
  | .namespaceAttachment n nsid attach ctrls => Sys2Proof.Machine.execNamespaceAttachment n nsid attach ctrls s
  | .firmwareImageDownload n offset data => Sys2Proof.Machine.execFirmwareImageDownload n offset data s
  | .firmwareCommit n slot action => Sys2Proof.Machine.execFirmwareCommit n slot action s
  | .formatNvm n nsid crypto => Sys2Proof.Machine.execFormatNvm n nsid crypto s
  | .sanitize n blockErase => Sys2Proof.Machine.execSanitize n blockErase s
  | .sanitizeComplete => Sys2Proof.Machine.execSanitizeComplete s
  | .virtualizationManagement n ctrl act nr => Sys2Proof.Machine.execVirtualizationManagement n ctrl act nr s
  | .keepAlive n => Sys2Proof.Machine.execKeepAlive n s
  | .deviceSelfTest n code => Sys2Proof.Machine.execDeviceSelfTest n code s
  | .securitySend n secp spsp req => Sys2Proof.Machine.execSecuritySend n secp spsp req s
  | .securityReceive n secp spsp alloc => Sys2Proof.Machine.execSecurityReceive n secp spsp alloc s
  | .attachWeight n nsid base rsv => Sys2Proof.Machine.execAttachWeight n nsid base rsv s
  | .detachWeight n nsid rsv => Sys2Proof.Machine.execDetachWeight n nsid rsv s
  | .setHostWindow n window enable len4k start bus rsv => Sys2Proof.Machine.execSetHostWindow n window enable len4k start bus rsv s
  | .read n nsid slba nlb => Sys2Proof.Machine.execRead n nsid slba nlb s
  | .write n nsid slba data => Sys2Proof.Machine.execWrite n nsid slba data s
  | .writeZeroes n nsid slba nlb => Sys2Proof.Machine.execWriteZeroes n nsid slba nlb s
  | .flush n nsid => Sys2Proof.Machine.execFlush n nsid s
  | .deallocate n nsid ranges => Sys2Proof.Machine.execDeallocate n nsid ranges s
  | .compare n nsid slba data => Sys2Proof.Machine.execCompare n nsid slba data s
  | .verify n nsid slba nlb => Sys2Proof.Machine.execVerify n nsid slba nlb s
  | .zoneAppend n nsid zslba data => Sys2Proof.Machine.execZoneAppend n nsid zslba data s
  | .zoneOpen n nsid zslba => Sys2Proof.Machine.execZoneOpen n nsid zslba s
  | .zoneClose n nsid zslba => Sys2Proof.Machine.execZoneClose n nsid zslba s
  | .zoneFinish n nsid zslba => Sys2Proof.Machine.execZoneFinish n nsid zslba s
  | .resetZone n nsid zslba => Sys2Proof.Machine.execResetZone n nsid zslba s
  | .zoneOffline n nsid zslba => Sys2Proof.Machine.execZoneOffline n nsid zslba s
  | .zoneManagementReceive n nsid zslba count => Sys2Proof.Machine.execZoneManagementReceive n nsid zslba count s
  | .loadProgram n nsid program ptype image => Sys2Proof.Machine.execLoadProgram n nsid program ptype image s
  | .programActivationManagement n nsid program activate => Sys2Proof.Machine.execProgramActivationManagement n nsid program activate s
  | .executeProgram n nsid program params => Sys2Proof.Machine.execExecuteProgram n nsid program params s
  | .memoryRangeSetManagement n create set ranges => Sys2Proof.Machine.execMemoryRangeSetManagement n create set ranges s
  | .memoryRead n nsid offset len => Sys2Proof.Machine.execMemoryRead n nsid offset len s
  | .memoryWrite n nsid offset data => Sys2Proof.Machine.execMemoryWrite n nsid offset data s
  | .memoryCopy n dst doff src soff len => Sys2Proof.Machine.execMemoryCopy n dst doff src soff len s
  | .weightPageRewrite n nsid slba data readBackOk => Sys2Proof.Machine.execWeightPageRewrite n nsid slba data readBackOk s
  | .openIndex n nsid q part dbase filters rsv => Sys2Proof.Machine.execOpenIndex n nsid q part dbase filters rsv s
  | .closeIndex n nsid q rsv => Sys2Proof.Machine.execCloseIndex n nsid q rsv s
  | .indexCloseComplete q => Sys2Proof.Machine.execIndexCloseComplete q s
  | .updateIndex n nsid q ops => Sys2Proof.Machine.execUpdateIndex n nsid q ops s
  | .stagingStart q => Sys2Proof.Machine.execStagingStart q s
  | .advanceEpoch n nsid q rsv => Sys2Proof.Machine.execAdvanceEpoch n nsid q rsv s
  | .compactIndex n nsid q rsv => Sys2Proof.Machine.execCompactIndex n nsid q rsv s
  | .search n nsid q buf => Sys2Proof.Machine.execSearch n nsid q buf s
  | .submitRequest n nsid job block => Sys2Proof.Machine.execSubmitRequest n nsid job block s
  | .requestAdmit part => Sys2Proof.Machine.execRequestAdmit part s
  | .servingStepEntry part => Sys2Proof.Machine.execServingStepEntry part s
  | .servingStepEnd part => Sys2Proof.Machine.execServingStepEnd part s
  | .setOverlay n nsid part variant layer0 data rsv => Sys2Proof.Machine.execSetOverlay n nsid part variant layer0 data rsv s
  | .frameStart n nsid ring slot frame rsv => Sys2Proof.Machine.execFrameStart n nsid ring slot frame rsv s
  | .frameAccept ring => Sys2Proof.Machine.execFrameAccept ring s
  | .frameComplete ring mclk => Sys2Proof.Machine.execFrameComplete ring mclk s
  | .pauseRequest n nsid req => Sys2Proof.Machine.execPauseRequest n nsid req s
  | .unsupportedCommand n opcodeKnown => Sys2Proof.Machine.execUnsupportedCommand n opcodeKnown s
  | .nvmeMiCommand op => Sys2Proof.Machine.execNvmeMiCommand op s
  | .tallyRecordArrival b r => Sys2Proof.Machine.execTallyRecordArrival b r s
  | .tallyCreditReturn b r => Sys2Proof.Machine.execTallyCreditReturn b r s
  | .reduceInstanceOpen j bucket inst member lines => Sys2Proof.Machine.execReduceInstanceOpen j bucket inst member lines s
  | .contributionArrival j bucket inst member lines => Sys2Proof.Machine.execContributionArrival j bucket inst member lines s
  | .reduceClose j bucket inst => Sys2Proof.Machine.execReduceClose j bucket inst s
  | .lateWindowExpiry j bucket inst => Sys2Proof.Machine.execLateWindowExpiry j bucket inst s
  | .put l f => Sys2Proof.Machine.execPut l f s
  | .getReq l f => Sys2Proof.Machine.execGetReq l f s
  | .getRsp l f => Sys2Proof.Machine.execGetRsp l f s
  | .ack l f => Sys2Proof.Machine.execAck l f s
  | .coll l f => Sys2Proof.Machine.execColl l f s
  | .harn l f => Sys2Proof.Machine.execHarn l f s
  | .idle l f => Sys2Proof.Machine.execIdle l f s
  | .flitForward l f => Sys2Proof.Machine.execFlitForward l f s
  | .nakReplay l seq => Sys2Proof.Machine.execNakReplay l seq s
  | .ackTimeout l => Sys2Proof.Machine.execAckTimeout l s
  | .linkIdleTimeout l => Sys2Proof.Machine.execLinkIdleTimeout l s
  | .linkRetrainDone l ok => Sys2Proof.Machine.execLinkRetrainDone l ok s
  | .handover l downed lastSeq => Sys2Proof.Machine.execHandover l downed lastSeq s
  | .portTrain port neighbour trained => Sys2Proof.Machine.execPortTrain port neighbour trained s
  | .portAuthenticate port peer => Sys2Proof.Machine.execPortAuthenticate port peer s
  | .reauth port value => Sys2Proof.Machine.execReauth port value s
  | .presenceNotice l module_ port state seq => Sys2Proof.Machine.execPresenceNotice l module_ port state seq s
  | .girthSetWrite value => Sys2Proof.Machine.execGirthSetWrite value s
  | .flashPageReadDone ppa rs second => Sys2Proof.Machine.execFlashPageReadDone ppa rs second s
  | .flashProgramDone ppa slc kind report => Sys2Proof.Machine.execFlashProgramDone ppa slc kind report s
  | .readBack ppa correctedBits decoded => Sys2Proof.Machine.execReadBack ppa correctedBits decoded s
  | .flashEraseDone ppa pass => Sys2Proof.Machine.execFlashEraseDone ppa pass s
  | .eraseResume ppa => Sys2Proof.Machine.execEraseResume ppa s
  | .readAround ppa rebuildFirst => Sys2Proof.Machine.execReadAround ppa rebuildFirst s
  | .garbageCollection => Sys2Proof.Machine.execGarbageCollection s
  | .fold ppa pages => Sys2Proof.Machine.execFold ppa pages s
  | .refresh ppa => Sys2Proof.Machine.execRefresh ppa s
  | .channelTrainingFail channel => Sys2Proof.Machine.execChannelTrainingFail channel s
  | .holdupMeasure microfarad => Sys2Proof.Machine.execHoldupMeasure microfarad s
  | .powerGood dramTrained => Sys2Proof.Machine.execPowerGood dramTrained s
  | .perstDeassert port speed width => Sys2Proof.Machine.execPerstDeassert port speed width s
  | .mount ok => Sys2Proof.Machine.execMount ok s
  | .controllerEnable ctrl => Sys2Proof.Machine.execControllerEnable ctrl s
  | .controllerReset ctrl => Sys2Proof.Machine.execControllerReset ctrl s
  | .functionLevelReset ctrl => Sys2Proof.Machine.execFunctionLevelReset ctrl s
  | .portReset port => Sys2Proof.Machine.execPortReset port s
  | .warmReset => Sys2Proof.Machine.execWarmReset s
  | .guardResetWarm value => Sys2Proof.Machine.execGuardResetWarm value s
  | .nvmSubsystemReset port => Sys2Proof.Machine.execNvmSubsystemReset port s
  | .perstBothPorts => Sys2Proof.Machine.execPerstBothPorts s
  | .inputPowerLoss => Sys2Proof.Machine.execInputPowerLoss s
  | .flushComplete dumpOk => Sys2Proof.Machine.execFlushComplete dumpOk s
  | .pwrDisAssert => Sys2Proof.Machine.execPwrDisAssert s
  | .pwrDisDeassert => Sys2Proof.Machine.execPwrDisDeassert s
  | .leakDetect moist => Sys2Proof.Machine.execLeakDetect moist s
  | .getVersion t => Sys2Proof.Machine.execGetVersion t s
  | .getCapabilities t => Sys2Proof.Machine.execGetCapabilities t s
  | .negotiateAlgorithms t sha3 mldsa => Sys2Proof.Machine.execNegotiateAlgorithms t sha3 mldsa s
  | .getDigests t => Sys2Proof.Machine.execGetDigests t s
  | .getCertificate t slot offset len => Sys2Proof.Machine.execGetCertificate t slot offset len s
  | .challenge t slot nonce => Sys2Proof.Machine.execChallenge t slot nonce s
  | .getMeasurements t index signed nonce => Sys2Proof.Machine.execGetMeasurements t index signed nonce s
  | .chunkSend t seq last bytes => Sys2Proof.Machine.execChunkSend t seq last bytes s
  | .chunkGet t seq => Sys2Proof.Machine.execChunkGet t seq s
  | .doeDiscovery port index => Sys2Proof.Machine.execDoeDiscovery port index s
  | .autonomousPowerStateTransition ps => Sys2Proof.Machine.execAutonomousPowerStateTransition ps s
  | .powerStateEntryComplete => Sys2Proof.Machine.execPowerStateEntryComplete s
  | .powerStateExitComplete => Sys2Proof.Machine.execPowerStateExitComplete s
  | .keepAliveTimeout ctrl => Sys2Proof.Machine.execKeepAliveTimeout ctrl s
  | .spdmUnsupportedRequest t code => Sys2Proof.Machine.execSpdmUnsupportedRequest t code s
  | .droopRecovery tile mv => Sys2Proof.Machine.execDroopRecovery tile mv s
  | .switchInComplete part => Sys2Proof.Machine.execSwitchInComplete part s
  | .dieStopsAnswering die => Sys2Proof.Machine.execDieStopsAnswering die s
  | .hostLinkRetrain port up speed width => Sys2Proof.Machine.execHostLinkRetrain port up speed width s

end Sys2Proof.Machine
end

