-- ==== Sys2Proof/Safety.lean ====
section
/-! DEFINITION. Safety.lean: what counts as a safe state and a safe run, in the terms the statements use. -/

namespace Sys2Proof

open Sys2Proof.Machine

/-- The canonical forms of memory and of the register map, and the fused facts within what R1, R440 and R446 let them be. -/
def Machine.State.Sound (s : State) : Prop :=
  Memory.wf s.mem = true ∧ Regs.wf s.regs = true ∧ s.fuse.grade ≤ 2 ∧ s.fuse.svn ≤ 128

/-- What no command may change: the commands that wait behind it, and what manufacture fused (R440, R460). -/
def Machine.State.SameFused (s t : State) : Prop :=
  t.pending = s.pending ∧ t.fuse.grade = s.fuse.grade ∧ t.fuse.serial = s.fuse.serial ∧ t.fuse.revoked = s.fuse.revoked ∧
  t.fuse.keyHash = s.fuse.keyHash ∧ t.fuse.bypass = s.fuse.bypass ∧ t.fuse.factoryBad = s.fuse.factoryBad ∧ t.fuse.uds = s.fuse.uds

/-! ### What else may have changed -/

/-- The registers of purse `p` that a charge moves, and the purse ledger's number (R43, R49, R53). -/
def purseMoves (p off : Nat) : Prop :=
  off = Reg.PURSE_LEVEL p ∨ off = Reg.PURSE_RESERVED p ∨ off = Reg.PURSE_SPENT p ∨ off = Reg.PURSE_RESIDUE p ∨ off = Reg.LEDGER_SEQ 3

/-- What a charge leaves of a job: all but its reservation and what it has spent (R49). -/
def Machine.Job.unspent (j : Job) : Job := { j with reserved := 0, spent := 0 }

/-- Nothing has changed but the energy accounts of purse `p`, and the registers that satisfy `R`, and core `c`. -/
def Machine.State.Charged (s t : State) (c p : Nat) (R : Nat → Prop) : Prop :=
  t = { s with cores := t.cores, regs := t.regs, jobs := t.jobs, purseFrac := t.purseFrac
               power := { s.power with rawFj := t.power.rawFj } } ∧
  t.jobs.map Job.unspent = s.jobs.map Job.unspent ∧ (∀ d, d ≠ c → t.core d = s.core d) ∧
  ∀ off, ¬ R off → ¬ purseMoves p off → t.reg off = s.reg off

/-- Nothing has changed but core `c` and the registers that satisfy `R`. -/
def Machine.State.CoreAndRegs (s t : State) (c : Nat) (R : Nat → Prop) : Prop :=
  t = { s with cores := t.cores, regs := t.regs } ∧ (∀ d, d ≠ c → t.core d = s.core d) ∧ ∀ off, ¬ R off → t.reg off = s.reg off

/-- Nothing has changed but registers, the daybook's own notes and the host's queued events: what recording a fault touches (R429, R411, R364). -/
def Machine.State.Recorded (s t : State) : Prop :=
  t = { s with regs := t.regs, daybook := t.daybook, host := { s.host with raised := t.host.raised, queuedEv := t.host.queuedEv, ctrls := t.host.ctrls, out := t.host.out } }

/-- Nothing runs and nothing waits: no core, job, step, frame, query or command is under way, no page moves, and the girth and the harness rest. -/
structure Machine.State.Asleep (s : State) : Prop where
  cores   : s.cores = []
  jobs    : s.jobs = [] ∧ s.fifo = [] ∧ s.saved = []
  weight  : s.weight = {}
  girth   : s.girth = {}
  harness : s.harness = {}
  serving : s.serving = {}
  search  : s.search = {}
  host    : s.host.winSets = [] ∧ s.host.psWait = [] ∧ s.host.stalled = [] ∧ s.host.delayed = [] ∧ s.host.psPhase = .operational

/-- Core `c` has nothing to go on with: no engine instruction queued, its job is not dying (R481), and either it issues inside its code or a boundary
holds it. -/
def Machine.State.Quiet (s : State) (c : Nat) : Prop :=
  (s.core c).queue = [] ∧ (∀ j ∈ s.jobOn c, j.phase ≠ .dying) ∧
  (((s.core c).held = none ∧ (s.core c).index < (s.core c).codeLen) ∨ (s.core c).held = some .atBoundary)

/-! ### A core at issue (R163 to R181) -/

/-- The line of core `c`'s next instruction is in its instruction cache, and so is the next line of its code (R167). -/
def Machine.State.cached (s : State) (c : Nat) : Bool :=
  let k := s.core c
  let l := s.pcOf c k.index / 64
  (k.ways l).contains l && (!decide (64 * (l + 1) < k.codeBase + 16 * k.codeLen) || (k.ways (l + 1)).contains (l + 1))

/-- The count of token `i` once the wait and the signal of `h` are done: R177, R178. -/
def Machine.Core.tokNext (k : Core) (h : Hdr) (i : Nat) : Nat :=
  sget 0 k.tok i - (if h.wait = true ∧ i = h.waitTok.toNat then h.waitN.toNat + 1 else 0) + (if h.signal = true ∧ i = h.sigTok.toNat then 1 else 0)

/-- The core of `h` issues, and an instruction with this header finds everything it needs there: its lines are cached, no engine instruction is
queued, its token field is well formed, the units it waits for are there, and the unit it signals fits. -/
structure Machine.State.AtIssue (s : State) (h : Hdr) : Prop where
  ready  : s.canIssue h.core.toNat = true
  cached : s.cached h.core.toNat = true
  empty  : (s.core h.core.toNat).queue = []
  token  : h.badTok = false
  rsv    : h.rsv = 0
  units  : (s.core h.core.toNat).canTake h = true
  room   : h.signal = true → (s.core h.core.toNat).tokNext h h.sigTok.toNat ≤ 65535

/-- Index `n` of core `c`, with the loops that end there, lies within the core's code (R168, R170). -/
def Machine.State.inCode_ (s : State) (c n : Nat) : Prop := ((s.core c).goto n).index < (s.core c).codeLen

/-- Nothing has changed but core `c`, its count of issued instructions, and the token ledger's number. -/
def Machine.State.OnlyCore (s t : State) (c : Nat) : Prop :=
  t = { s with cores := t.cores, regs := t.regs } ∧ (∀ d, d ≠ c → t.core d = s.core d) ∧
  t.reg (Reg.SEQ_ISSUED c) = s.reg (Reg.SEQ_ISSUED c) + 1 ∧
  ∀ off, off ≠ Reg.SEQ_ISSUED c → off ≠ Reg.LEDGER_SEQ 7 → t.reg off = s.reg off

/-- Of a core, nothing has changed but what a sequencer instruction may change. -/
def Machine.Core.SeqFrame (k j : Core) : Prop :=
  j = { k with index := j.index, levels := j.levels, held := j.held, tok := j.tok, sigs := j.sigs, takes := j.takes, icache := j.icache,
               stalled := j.stalled, ctr := j.ctr, cmp := j.cmp, agBase := j.agBase, agInc := j.agInc }

/-- Issue goes on at index `n` or where the loops that end there lead; the token counts follow the header; a boundary holds issue. -/
def Machine.Core.Moved (k j : Core) (h : Hdr) (n : Nat) : Prop :=
  j.index = (k.goto n).index ∧ j.levels = (k.goto n).levels ∧ j.held = (if h.boundary then some .atBoundary else none) ∧
  ∀ i, sget 0 j.tok i = k.tokNext h i

/-- Counter `cd` is `v`; the other counters, the comparators and the generators are as they were; issue goes on at the next index. -/
def Machine.Core.Counts (k j : Core) (h : Hdr) (cd : Nat) (v : BitVec 32) : Prop :=
  k.SeqFrame j ∧ k.Moved j h (k.index + 1) ∧ (∀ n, j.c n = if n = cd then v else k.c n) ∧ j.cmp = k.cmp ∧ j.agBase = k.agBase ∧ j.agInc = k.agInc

/-- The state from which an engine instruction starts that its core issues with its engine free: its line fetched, the count of issued
instructions advanced, issue at the next index and, for a boundary instruction, held. -/
def Machine.State.leaving (s : State) (h : Hdr) : State :=
  ((((s.fetch h.core.toNat).getD s).modCore h.core.toNat (fun k =>
    { k.goto (k.index + 1) with held := if h.boundary then some .atBoundary else none, stalled := false })).addReg (Reg.SEQ_ISSUED h.core.toNat) 1)

/-- The core of `h` issues engine instruction `i`, which waits on no token, takes no bits its row reserves, and finds its engine free. -/
structure Machine.State.EngineReady (s : State) (h : Hdr) (i : Instr) : Prop where
  issue  : s.AtIssue h
  inside : s.inCode_ h.core.toNat ((s.core h.core.toNat).index + 1)
  nowait : h.wait = false
  legal  : badOps i = false
  free   : (s.leaving h).engineFree h.core.toNat ⟨i, s.ctx h.core.toNat i⟩ = true

/-! ### The register space (R8 to R12) -/

/-- The register at `off` is present and a write of `v` to it has no effect of its own: only its Takes effect column says what becomes of it. -/
structure Machine.State.PlainReg (s : State) (off : Nat) (v : Word) : Prop where
  here   : s.regHere off = true
  clear  : unitAt off = none
  acts   : s.writeActs off v = none
  pool   : off ≠ Reg.DRAM_POOL_CTL
  set    : off ≠ Reg.GIRTH_SET
  purse  : nth? (Reg.PURSE_CTL 0) 9 0x40 off = none
  rein   : nth? (Reg.SCHED_REIN 0) 9 0x40 off = none
  grein  : nth? (Reg.SCHED_GREIN 0) 9 0x40 off = none
  group  : nth? (Reg.GIRTH_GROUP 0) 256 8 off = none
  stream : ∀ c n, c < 32 → n < 8 → off ≠ Reg.DX_PSTREAM_BASE c n

/-- The registers that recording an event in unit `u` may change: the fault register, its captures, FAULT_FIRST, and the daybook's. -/
def Machine.FaultUnit.touches (u : FaultUnit) (off : Nat) : Prop :=
  off = Reg.FAULT_FIRST ∨ off = u.reg ∨ off = u.cap ∨ u.addr = some off ∨
  (∃ i, i < 8 ∧ (off = Reg.DBK_PEND i ∨ off = Reg.DBK_LEVEL i ∨ off = Reg.DBK_STW i))

/-! ### Jobs -/

/-- No core has anything to go on with by itself: nothing queued, nothing held, no dying job's, and a running one issues inside its code. -/
def Machine.State.Still (s : State) : Prop :=
  ∀ c, c < 32 → (s.core c).queue = [] ∧ (s.core c).held = none ∧ (∀ j ∈ s.jobOn c, j.phase ≠ .dying) ∧
    ((s.core c).run = .running → (s.core c).index < (s.core c).codeLen)

/-- Job `j` has this identifier alone, and cores of the device, each once. -/
structure Machine.State.HasJob (s : State) (j : Job) : Prop where
  found : s.job? j.n = some j
  cores : ∀ c ∈ j.cores, c < 32
  once  : j.cores.Nodup

/-- The merge buffers of a core hold each word of its SRAM once (R156). -/
def Machine.Core.MergeOk (k : Core) : Prop := (k.merge.map MergeEntry.word).Nodup ∧ ∀ e ∈ k.merge, 8 * e.word < sramSize

/-- A completion has been posted: after all that the host has had so far. -/
def Machine.State.Posted (s t : State) (x : Completion) : Prop := ∃ a b, t.host.out = s.host.out ++ a ++ x :: b

/-- What a purse has been granted, less all that it has spent, reserved, kept and returned (R43), modulo 2^64. -/
def Machine.State.purseGap (s : State) (p : Nat) : Word :=
  s.reg (Reg.PURSE_GRANTED p) - (s.reg (Reg.PURSE_SPENT p) + s.reg (Reg.PURSE_RESERVED p) + s.reg (Reg.PURSE_LEVEL p) + s.reg (Reg.PURSE_RETURNED p))

/-! ### Host commands (R345, R346, R354, R365, R367, R400) -/

/-- Nothing keeps the host command `i` of header `n` from its effect: it can be fetched, it came in on its kind of queue, the module is operational and not
sanitizing, its function has a partition, its name spaces are attached and owe no deferred error, its reins are open and no write waits. -/
structure Machine.State.Accepts (s : State) (n : NHdr) (i : Instr) : Prop where
  fetch : s.canFetch n = true
  queue : (anyQueue i || isAdmin n == adminCmd i) = true
  phase : s.host.psPhase = .operational
  clean : s.host.sanitizing = false
  bound : (isAdmin n || physCtrl (nctrl n) || (s.vfPart (nctrl n)).isSome) = true
  ns    : ∀ d ∈ ioNs i, (s.nsOf n d).isSome = true
  owes  : ∀ d ∈ ioNs i, s.owesError n d = false
  reins : s.reinsPass n i = true
  moves : s.blocksWait i = false

/-- Name spaces are listed once each, in order. -/
def Machine.State.NsSorted (s : State) : Prop := (s.nss.map Prod.fst).Pairwise (· < ·)

/-- Index `q` is open on name space `d` and not closing: its record is `x` and the name space `v`. -/
structure Machine.State.OnIdx (s : State) (d : BitVec 32) (q : Nat) (v : Nspace) (x : Idx) : Prop where
  ns     : s.ns? d.toNat = some v
  kind   : v.kind = 4
  opened : s.indexOpen q = true
  idx    : s.idx? q = some x
  same   : x.nsid = d.toNat
  stays  : s.closing q = false

/-! ### Flits and flash pages (R306, R378, R379, R383) -/

/-- A flit `f` that arrives on link `l` of port `g` is accepted there: both are up, its crc is right, it is the next in sequence and its trailer carries no NAK. -/
structure Machine.State.Lands (s : State) (g l : Nat) (f : Flit) : Prop where
  awake  : s.alive = true
  port   : s.hasPort g = true
  link   : s.linkState g l = 2
  crc    : f.crcOk = true
  whole  : f.killed = false
  next   : f.lseq = (s.link g l).rxSeq
  nonak  : f.nak = false

/-- Port `g` is up, its module a set member, and the flit ends here. -/
def Machine.State.Ejects (s : State) (g : Nat) (f : Flit) : Prop := s.portState g = 3 ∧ s.inSet = true ∧ f.dst.toNat = s.me

/-- A flit has gone out, or waits at a port: one that satisfies `P`. -/
def Machine.State.Sends (t : State) (P : Flit → Prop) : Prop := ∃ f, P f ∧ ((∃ k, (k, f) ∈ t.girth.sent) ∨ ∃ g e, e ∈ sget [] t.girth.outq g ∧ e.f = f)

/-- Nothing waits for the media: no host command, no core, no write to a media-direct zone, no lower cap of the write buffer (R315, R327, R476). -/
structure Machine.State.NoneWait (s : State) : Prop where
  still  : s.Still
  host   : s.host.stalled = []
  writes : s.media.writes = []
  cap    : s.takeCap = s

/-- Nothing but the host's own bookkeeping, registers and the daybook's notes has changed. -/
def Machine.State.HostOnly (s t : State) : Prop := t = { s with regs := t.regs, daybook := t.daybook, host := t.host }

end Sys2Proof
end

