-- ==== Sys2Proof/Certificates/Slice0/Obligations.lean ====
section
/-! DEFINITION. Certificates/Slice0/Obligations.lean: the statements for the provers. -/

open Sys2Proof Sys2Proof.Machine

/-! ### The step and its invariant -/

/-- A step takes the command at the front of the queue and runs it on the state with the queue's rest; every command, in every state, completes: it answers a next
state.

The choices of log entry 166 in it are the model's. -/
def Obligations.StepTakesTheFrontCommand : Prop :=
  (∀ (s : State) (c : Instr) (r : List Instr), step { s with pending := c :: r } = exec c { s with pending := r }) ∧
  (∀ (s : State) (c : Instr), ∃ t, exec c s = .next t)

/-- Every step from a sound state answers a sound state: memory and the register map keep their canonical forms and the fused facts stay within
their ranges.

The choices of log entry 164 in it are the model's. -/
def Obligations.EveryStepKeepsSound : Prop :=
  ∀ (s t : State), s.Sound → step s = .next t → t.Sound

/-- The state right after reset is sound.

The choices of log entries 42 and 164 in it are the model's. -/
def Obligations.ResetIsSound : Prop :=
  State.reset.Sound

/-- No command touches the commands that wait behind it, nor what manufacture fused; the anti-rollback counter never falls. -/
def Obligations.CommandsLeaveQueueAndFusedFacts : Prop :=
  ∀ (i : Instr) (s t : State), exec i s = .next t → s.SameFused t ∧ s.fuse.svn ≤ t.fuse.svn

/-! ### The sequencer (class 0) -/

/-- CSET, CADD, CSUB, CMUL, CMIN and CMAX on a core at issue: the counter named takes the value of R173, wrapping modulo 2^32, and nothing else
changes but the index, the tokens its header names, the count of issued instructions and the token ledger's number.

CDIV: the quotient rounded up, or by zero, zero with SEQ_FAULT.div_zero set and SEQ_VIOL_COUNT advanced.

The choices of log entries 10, 19 and 69 in it are the model's. -/
def Obligations.CounterArithmeticComputes : Prop :=
  (∀ (s : State) (h : Hdr) (cd ca : BitVec 4) (src : CSrc), s.AtIssue h → s.inCode_ h.core.toNat ((s.core h.core.toNat).index + 1) →
     let c := h.core.toNat
     let k := s.core c
     (∃ t, exec (.cset h cd src) s = .next t ∧ s.OnlyCore t c ∧ k.Counts (t.core c) h cd.toNat (k.src src)) ∧
     (∃ t, exec (.cadd h cd ca src) s = .next t ∧ s.OnlyCore t c ∧ k.Counts (t.core c) h cd.toNat (k.c ca.toNat + k.src src)) ∧
     (∃ t, exec (.csub h cd ca src) s = .next t ∧ s.OnlyCore t c ∧ k.Counts (t.core c) h cd.toNat (k.c ca.toNat - k.src src)) ∧
     (∃ t, exec (.cmul h cd ca src) s = .next t ∧ s.OnlyCore t c ∧ k.Counts (t.core c) h cd.toNat (k.c ca.toNat * k.src src)) ∧
     (∃ t v, exec (.cmin h cd ca src) s = .next t ∧ s.OnlyCore t c ∧ k.Counts (t.core c) h cd.toNat v ∧
       v.toNat = min (k.c ca.toNat).toNat (k.src src).toNat) ∧
     (∃ t v, exec (.cmax h cd ca src) s = .next t ∧ s.OnlyCore t c ∧ k.Counts (t.core c) h cd.toNat v ∧
       v.toNat = max (k.c ca.toNat).toNat (k.src src).toNat)) ∧
  (∀ (s : State) (h : Hdr) (cd ca : BitVec 4) (src : CSrc), s.AtIssue h → s.inCode_ h.core.toNat ((s.core h.core.toNat).index + 1) →
     let c := h.core.toNat
     let k := s.core c
     (k.src src ≠ 0 → ∃ t v, exec (.cdiv h cd ca src) s = .next t ∧ s.OnlyCore t c ∧ k.Counts (t.core c) h cd.toNat v ∧
       (k.c ca.toNat).toNat ≤ v.toNat * (k.src src).toNat ∧ v.toNat * (k.src src).toNat < (k.c ca.toNat).toNat + (k.src src).toNat) ∧
     (k.src src = 0 → ∃ t, exec (.cdiv h cd ca src) s = .next t ∧ k.Counts (t.core c) h cd.toNat 0 ∧
       t.reg (Reg.SEQ_VIOL_COUNT c) = s.reg (Reg.SEQ_VIOL_COUNT c) + 1 ∧ t.reg Reg.FAULT_VIOL_TOTAL = s.reg Reg.FAULT_VIOL_TOTAL + 1 ∧
       t.bit (Reg.SEQ_FAULT c) 4 = true ∧ t.mem = s.mem ∧ ∀ d, d ≠ c → t.core d = s.core d))

/-- CMP sets its comparator to the comparison's outcome, and CIDX its counter to the level's iteration index, zero when the level is inactive.

CLDR of a register of the core's window: the counter takes bits [lsb + wm1 : lsb] of what the register shows once the issue is counted and the
header's wait is taken.

CLDS of a word in SRAM, outside the tally window, neither poisoned nor struck by an injected error: the counter takes its four bytes, low byte
first; the access is charged.

CSTS of a word in SRAM, outside the tally window, on a core that holds no injected error and no word lost to a real one: its four bytes become the counter's, low byte first, whether they stand in the merge buffer or
in SRAM; every other byte of SRAM and DRAM reads as before.

The choices of log entries 10, 18 and 19 in it are the model's. -/
def Obligations.CountersMeetRegistersAndMemory : Prop :=
  (∀ (s : State) (h : Hdr), s.AtIssue h → s.inCode_ h.core.toNat ((s.core h.core.toNat).index + 1) →
     let c := h.core.toNat
     let k := s.core c
     (∀ (kk : BitVec 3) (ca cb : BitVec 4) (bimm : Bool) (imm : BitVec 16) (cond : BitVec 3), cond.toNat < 6 →
       let a := k.c ca.toNat
       let b := if bimm then imm.signExtend 32 else k.c cb.toNat
       ∃ t, exec (.cmp h kk ca bimm cb imm cond) s = .next t ∧ s.OnlyCore t c ∧ k.SeqFrame (t.core c) ∧ k.Moved (t.core c) h (k.index + 1) ∧
         (∀ n, n < 8 → (t.core c).k n = if n = kk.toNat then
           (match cond.toNat with
            | 0 => decide (a = b)
            | 1 => decide (a ≠ b)
            | 2 => decide (a.toNat < b.toNat)
            | 3 => decide (b.toNat ≤ a.toNat)
            | 4 => decide (a.toInt < b.toInt)
            | _ => decide (b.toInt ≤ a.toInt)) else k.k n) ∧
         (t.core c).ctr = k.ctr ∧ (t.core c).agBase = k.agBase ∧ (t.core c).agInc = k.agInc) ∧
     (∀ (cd : BitVec 4) (l : BitVec 3), l.toNat < 6 →
       ∃ t, exec (.cidx h cd l) s = .next t ∧ s.OnlyCore t c ∧
         k.Counts (t.core c) h cd.toNat (BitVec.ofNat 32 (((k.levels.find? (fun v => v.level == l.toNat)).map Level.idx).getD 0)))) ∧
  (∀ (s : State) (h : Hdr) (cd : BitVec 4) (lsb : BitVec 6) (wm1 : BitVec 5) (off : BitVec 20), s.AtIssue h →
     s.inCode_ h.core.toNat ((s.core h.core.toNat).index + 1) → off.toNat % 8 = 0 → corePresent off.toNat = true →
     let c := h.core.toNat
     let v := ((s.addReg (Reg.SEQ_ISSUED c) 1).take c h).readCore c off.toNat
     ∃ t, exec (.cldr h cd lsb wm1 off) s = .next t ∧ s.OnlyCore t c ∧
       (s.core c).Counts (t.core c) h cd.toNat (BitVec.ofNat 32 (v.toNat / 2 ^ lsb.toNat % 2 ^ (wm1.toNat + 1)))) ∧
  (∀ (s : State) (h : Hdr) (cd : BitVec 4) (g : BitVec 5) (imm : BitVec 24), s.AtIssue h →
     s.inCode_ h.core.toNat ((s.core h.core.toNat).index + 1) →
     let c := h.core.toNat
     let o := (((s.core c).agen g.toNat).toNat % 2 ^ 25 + imm.toNat) / 4 * 4
     o + 4 ≤ sramSize → s.touchesWindow c o 4 = false → s.sramPoison c o 4 = false → (s.core c).flipped = [] →
     ∃ t, exec (.clds h cd g imm) s = .next t ∧
       s.Charged t c (s.payer c) (fun off => off = Reg.SEQ_ISSUED c ∨ off = Reg.LEDGER_SEQ 7) ∧ t.reg (Reg.SEQ_ISSUED c) = s.reg (Reg.SEQ_ISSUED c) + 1 ∧
       (s.core c).Counts (t.core c) h cd.toNat (s.sramByte c (o + 3) ++ s.sramByte c (o + 2) ++ s.sramByte c (o + 1) ++ s.sramByte c o)) ∧
  (∀ (s : State) (h : Hdr) (cd : BitVec 4) (g : BitVec 5) (imm : BitVec 24), s.AtIssue h →
     s.inCode_ h.core.toNat ((s.core h.core.toNat).index + 1) →
     let c := h.core.toNat
     let k := s.core c
     let o := ((k.agen g.toNat).toNat % 2 ^ 25 + imm.toNat) / 4 * 4
     o + 4 ≤ sramSize → s.touchesWindow c o 4 = false → k.MergeOk → k.flipped = [] → k.lost = [] →
     ∃ t, exec (.csts h cd g imm) s = .next t ∧
       s.Charged { t with mem := s.mem, valid := s.valid } c (s.payer c)
         (fun off => off = Reg.SEQ_ISSUED c ∨ off = Reg.LEDGER_SEQ 7 ∨ ∃ i < 6, off = Reg.SRAM_FLIP c i) ∧
       t.reg (Reg.SEQ_ISSUED c) = s.reg (Reg.SEQ_ISSUED c) + 1 ∧ t.valid = setAdd s.valid ((sramBase c + o) / 64) ∧
       k.SeqFrame { (t.core c) with merge := k.merge, flipped := k.flipped, flipPend := k.flipPend } ∧ k.Moved (t.core c) h (k.index + 1) ∧
       (t.core c).ctr = k.ctr ∧ (t.core c).cmp = k.cmp ∧ (t.core c).agBase = k.agBase ∧ (t.core c).agInc = k.agInc ∧
       (∀ i < 4, t.sramByte c (o + i) = ((k.c cd.toNat) >>> (8 * i)).setWidth 8) ∧
       (∀ a, a < o ∨ o + 4 ≤ a → t.sramByte c a = s.sramByte c a) ∧
       ∀ a, a < sramBase c ∨ sramBase c + sramSize ≤ a → memByte t.mem a = memByte s.mem a)

/-- AGSET and AGADD move a generator's base and AGINC an increment, as R196 gives; nothing else of the core changes but the index and the tokens. An AGINC that
names level 6 or 7 has no effect and is a violation. -/
def Obligations.GeneratorInstructionsCompute : Prop :=
  ∀ (s : State) (h : Hdr) (g : BitVec 5), s.AtIssue h → s.inCode_ h.core.toNat ((s.core h.core.toNat).index + 1) →
    let c := h.core.toNat
    let k := s.core c
    let term := fun (a : AgTerm) => (if a.one then 1 else ((k.c a.ca.toNat).toNat : Int)) * a.imm.toInt * 2 ^ a.sh.toNat
    let same := fun (t : State) => (t.core c).ctr = k.ctr ∧ (t.core c).cmp = k.cmp
    (∀ v : BitVec 48, ∃ t, exec (.agset h g (.imm v)) s = .next t ∧ s.OnlyCore t c ∧ k.SeqFrame (t.core c) ∧ k.Moved (t.core c) h (k.index + 1) ∧
      (∀ n, sget 0 (t.core c).agBase n = if n = g.toNat then v else sget 0 k.agBase n) ∧
      same t ∧ (t.core c).agInc = k.agInc) ∧
    (∀ (gs : BitVec 5) (a : AgTerm), ∃ t, exec (.agset h g (.gen gs a)) s = .next t ∧ s.OnlyCore t c ∧ k.SeqFrame (t.core c) ∧
      k.Moved (t.core c) h (k.index + 1) ∧
      (∀ n, sget 0 (t.core c).agBase n = if n = g.toNat then k.agen gs.toNat + BitVec.ofInt 48 (term a) else sget 0 k.agBase n) ∧
      same t ∧ (t.core c).agInc = k.agInc) ∧
    (∀ a : AgTerm, ∃ t, exec (.agadd h g a) s = .next t ∧ s.OnlyCore t c ∧ k.SeqFrame (t.core c) ∧ k.Moved (t.core c) h (k.index + 1) ∧
      (∀ n, sget 0 (t.core c).agBase n = if n = g.toNat then sget 0 k.agBase n + BitVec.ofInt 48 (term a) else sget 0 k.agBase n) ∧
      same t ∧ (t.core c).agInc = k.agInc) ∧
    (∀ (l : BitVec 3) (a : AgIncSrc), l.toNat < 6 → ∃ t, exec (.aginc h g l a) s = .next t ∧ s.OnlyCore t c ∧ k.SeqFrame (t.core c) ∧
      k.Moved (t.core c) h (k.index + 1) ∧
      (∀ n, sget 0 (t.core c).agInc n = if n = 8 * g.toNat + l.toNat then
        (match a with
         | .imm v => v
         | .term x => BitVec.ofInt 32 (term x)) else sget 0 k.agInc n) ∧
      same t ∧ (t.core c).agBase = k.agBase) ∧
    (∀ (l : BitVec 3) (a : AgIncSrc), 6 ≤ l.toNat → ∃ t, exec (.aginc h g l a) s = .next t ∧ t.reg (Reg.SEQ_VIOL_COUNT c) = s.reg (Reg.SEQ_VIOL_COUNT c) + 1 ∧
      t.reg Reg.FAULT_VIOL_TOTAL = s.reg Reg.FAULT_VIOL_TOTAL + 1 ∧ t.bit (Reg.SEQ_FAULT c) 0 = true ∧ t.mem = s.mem ∧ k.SeqFrame (t.core c) ∧
      k.Moved (t.core c) h (k.index + 1) ∧ same t ∧ (t.core c).agBase = k.agBase ∧ (t.core c).agInc = k.agInc)

/-- LOOP inside no level, or wholly within the innermost level's body and at a lower level: with a trip count of zero the body is left unissued;
with another it opens the level over the next n instructions, its trip count latched.

EXIT, SKIP and JMP: where a comparator is false nothing but the next index; where it is true the level and those inside it are left, the next n
instructions are left, or issue goes on at the target.

NOP, which an all-zero word spells, only moves issue on and does its header's wait and signal; TADD adds 1 to 16 units to its token, beside them.

END on a core at issue, with nothing read ahead there, holds issue after it. While something issued has still to retire, or END is a boundary, no more than that happens; with
nothing outstanding the core's part of the step is over, and where the job has a core whose part is not, the job goes on.

The choices of log entries 10, 11 and 19 in it are the model's. -/
def Obligations.ControlInstructionsMoveIssue : Prop :=
  (∀ (s : State) (h : Hdr) (l : BitVec 3) (ca : BitVec 4) (n : BitVec 12), s.AtIssue h → (s.core h.core.toNat).prefetch = [] → l.toNat < 6 → n ≠ 0 →
     let c := h.core.toNat
     let k := s.core c
     let open_ : Level := ⟨l.toNat, k.index + 1, k.index + 1 + n.toNat, (k.c ca.toNat).toNat, 0⟩
     (∀ v ∈ k.levels.head?, open_.stop ≤ v.stop ∧ l.toNat < v.level) →
     (k.c ca.toNat = 0 → s.inCode_ c open_.stop →
       ∃ t, exec (.loop h l ca n) s = .next t ∧ s.OnlyCore t c ∧ k.SeqFrame (t.core c) ∧ k.Moved (t.core c) h open_.stop ∧
         (t.core c).ctr = k.ctr ∧ (t.core c).cmp = k.cmp ∧ (t.core c).agBase = k.agBase ∧ (t.core c).agInc = k.agInc) ∧
     (k.c ca.toNat ≠ 0 → k.index + 1 < k.codeLen →
       ∃ t, exec (.loop h l ca n) s = .next t ∧ s.OnlyCore t c ∧ k.SeqFrame (t.core c) ∧
         (t.core c).index = k.index + 1 ∧ (t.core c).levels = open_ :: k.levels ∧
         (t.core c).ctr = k.ctr ∧ (t.core c).cmp = k.cmp ∧ (t.core c).agBase = k.agBase ∧ (t.core c).agInc = k.agInc)) ∧
  (∀ (s : State) (h : Hdr), s.AtIssue h → (s.core h.core.toNat).prefetch = [] →
     let c := h.core.toNat
     let k := s.core c
     let same := fun (t : State) => (t.core c).ctr = k.ctr ∧ (t.core c).cmp = k.cmp ∧ (t.core c).agBase = k.agBase ∧ (t.core c).agInc = k.agInc
     (∀ (kk l : BitVec 3), l.toNat < 6 → (k.k kk.toNat = false ∨ k.levels.all (fun v => v.level != l.toNat) = true) → s.inCode_ c (k.index + 1) →
       ∃ t, exec (.exitLoop h kk l) s = .next t ∧ s.OnlyCore t c ∧ k.SeqFrame (t.core c) ∧ k.Moved (t.core c) h (k.index + 1) ∧ same t) ∧
     (∀ (kk : BitVec 3) (inner : List Level) (v : Level) (outer : List Level), v.level < 6 → k.k kk.toNat = true → k.levels = inner ++ v :: outer →
       inner.all (fun u => u.level != v.level) = true →
       ({ k with levels := outer }.goto v.stop).index < k.codeLen →
       ∃ t, exec (.exitLoop h kk (BitVec.ofNat 3 v.level)) s = .next t ∧ s.OnlyCore t c ∧ k.SeqFrame (t.core c) ∧
         { k with levels := outer }.Moved (t.core c) h v.stop ∧ same t) ∧
     (∀ (kk : BitVec 3) (n : BitVec 12), n ≠ 0 → k.k kk.toNat = false → s.inCode_ c (k.index + 1) →
       ∃ t, exec (.skip h kk n) s = .next t ∧ s.OnlyCore t c ∧ k.SeqFrame (t.core c) ∧ k.Moved (t.core c) h (k.index + 1) ∧ same t) ∧
     (∀ (kk : BitVec 3) (n : BitVec 12), n ≠ 0 → k.k kk.toNat = true → (∀ v ∈ k.levels.head?, k.index + 1 + n.toNat ≤ v.stop) →
       s.inCode_ c (k.index + 1 + n.toNat) →
       ∃ t, exec (.skip h kk n) s = .next t ∧ s.OnlyCore t c ∧ k.SeqFrame (t.core c) ∧ k.Moved (t.core c) h (k.index + 1 + n.toNat) ∧ same t) ∧
     (∀ (kk : BitVec 3) (t_ : BitVec 19), k.k kk.toNat = false → s.inCode_ c (k.index + 1) →
       ∃ t, exec (.jmp h kk true t_) s = .next t ∧ s.OnlyCore t c ∧ k.SeqFrame (t.core c) ∧ k.Moved (t.core c) h (k.index + 1) ∧ same t) ∧
     (∀ (kk : BitVec 3) (cond : Bool) (t_ : BitVec 19), (cond = true → k.k kk.toNat = true) →
       (∀ v ∈ k.levels.head?, v.start ≤ t_.toNat ∧ t_.toNat < v.stop) → s.inCode_ c t_.toNat →
       ∃ t, exec (.jmp h kk cond t_) s = .next t ∧ s.OnlyCore t c ∧ k.SeqFrame (t.core c) ∧ k.Moved (t.core c) h t_.toNat ∧ same t)) ∧
  (∀ (s : State) (h : Hdr), s.AtIssue h → s.inCode_ h.core.toNat ((s.core h.core.toNat).index + 1) →
     let c := h.core.toNat
     let k := s.core c
     let same := fun (t : State) => (t.core c).ctr = k.ctr ∧ (t.core c).cmp = k.cmp ∧ (t.core c).agBase = k.agBase ∧ (t.core c).agInc = k.agInc
     decodeWenmel h.core 0 = some (.nop { core := h.core }) ∧
     (∃ t, exec (.nop h) s = .next t ∧ s.OnlyCore t c ∧ k.SeqFrame (t.core c) ∧ k.Moved (t.core c) h (k.index + 1) ∧ same t) ∧
     (∀ (tok : BitVec 6) (n : BitVec 4), k.tokNext h tok.toNat + (n.toNat + 1) ≤ 65535 →
       ∃ t, exec (.tadd h tok n) s = .next t ∧ s.OnlyCore t c ∧ k.SeqFrame (t.core c) ∧
         (t.core c).index = (k.goto (k.index + 1)).index ∧ (t.core c).levels = (k.goto (k.index + 1)).levels ∧
         (∀ i, sget 0 (t.core c).tok i = k.tokNext h i + if i = tok.toNat then n.toNat + 1 else 0) ∧ same t)) ∧
  (∀ (s : State) (h : Hdr), s.AtIssue h → (s.core h.core.toNat).prefetch = [] →
     let c := h.core.toNat
     let k := s.core c
     let same := fun (t : State) => (t.core c).ctr = k.ctr ∧ (t.core c).cmp = k.cmp ∧ (t.core c).agBase = k.agBase ∧ (t.core c).agInc = k.agInc
     ((h.boundary = true ∨ k.busy ≠ [] ∨ k.streams ≠ []) →
       ∃ t, exec (.endStep h) s = .next t ∧ s.OnlyCore t c ∧ k.SeqFrame (t.core c) ∧ (t.core c).index = k.index + 1 ∧
         (t.core c).levels = k.levels ∧ (t.core c).held = some (.atEnd h.boundary) ∧ (∀ i, sget 0 (t.core c).tok i = k.tokNext h i) ∧ same t) ∧
     (h.boundary = false → k.busy = [] → k.streams = [] →
       (∀ n ∈ k.job, ∃ j, s.job? n = some j ∧ ∃ d ∈ j.cores, d ≠ c ∧ (s.core d).ended = false) →
       ∃ t, exec (.endStep h) s = .next t ∧ s.OnlyCore t c ∧ k.SeqFrame { (t.core c) with run := k.run, ended := k.ended } ∧
         (t.core c).run = .idle ∧ (t.core c).ended = true ∧ (t.core c).held = none ∧ (t.core c).index = k.index + 1 ∧
         (t.core c).levels = k.levels ∧ (∀ i, sget 0 (t.core c).tok i = k.tokNext h i) ∧ same t))

/-! ### The engine classes -/

/-- An instruction of any engine class on a core that issues it with its queue empty, its engine free and no token to wait for: it starts, and the
control part of every core is left alone: issue is at the next index, or held when the instruction is a boundary, and no counter, comparator, generator
or level has moved; nor does anything wait in the queue.

The choices of log entries 6 and 19 in it are the model's. -/
def Obligations.EngineInstructionsLeaveTheSequencer : Prop :=
  ∀ (s : State) (h : Hdr) (i : Instr) (cls : Cls), i.op? = some (cls, h) → cls ≠ .seq → (s.fusedOff = false ∨ (cls ≠ .ox ∧ cls ≠ .hx)) →
    s.EngineReady h i →
    let c := h.core.toNat
    let k := s.core c
    ∃ t, exec i s = .next t ∧ (t.core c).queue = [] ∧ (t.core c).run = k.run ∧ (t.core c).index = (k.goto (k.index + 1)).index ∧
      (t.core c).levels = (k.goto (k.index + 1)).levels ∧ (t.core c).held = (if h.boundary then some .atBoundary else none) ∧
      (t.core c).ctr = k.ctr ∧ (t.core c).cmp = k.cmp ∧ (t.core c).agBase = k.agBase ∧ (t.core c).agInc = k.agInc ∧ (t.core c).job = k.job ∧
      ∀ d, d ≠ c → (t.core d).run = (s.core d).run ∧ (t.core d).index = (s.core d).index ∧ (t.core d).levels = (s.core d).levels ∧
        (t.core d).queue = (s.core d).queue ∧ (t.core d).ctr = (s.core d).ctr ∧ (t.core d).cmp = (s.core d).cmp ∧
        (t.core d).agBase = (s.core d).agBase ∧ (t.core d).agInc = (s.core d).agInc ∧ (t.core d).job = (s.core d).job

/-- Each VX instruction but VKL (R208), its operands read with the generators and counters as they stood at issue, and VKL (R233): started at once.

Each DX, MX, SX, OX, HX, GX, media and purse instruction: started at once, with the generators and counters as they stood at issue; OX and HX on a
grade that has them.

The choices of log entry 6 in it are the model's. -/
def Obligations.EngineInstructionsStart : Prop :=
  (∀ (s : State) (h : Hdr) (o : VxOps),
     let x := s.ctx h.core.toNat
     let u := s.leaving h
     (s.EngineReady h (.vadd h o) → exec (.vadd h o) s = .next (u.startVx .add h o (x (.vadd h o)))) ∧
     (s.EngineReady h (.vsub h o) → exec (.vsub h o) s = .next (u.startVx .sub h o (x (.vsub h o)))) ∧
     (s.EngineReady h (.vmul h o) → exec (.vmul h o) s = .next (u.startVx .mul h o (x (.vmul h o)))) ∧
     (s.EngineReady h (.vfma h o) → exec (.vfma h o) s = .next (u.startVx .fma h o (x (.vfma h o)))) ∧
     (s.EngineReady h (.vmin h o) → exec (.vmin h o) s = .next (u.startVx .min_ h o (x (.vmin h o)))) ∧
     (s.EngineReady h (.vmax h o) → exec (.vmax h o) s = .next (u.startVx .max_ h o (x (.vmax h o)))) ∧
     (s.EngineReady h (.vcmp h o) → exec (.vcmp h o) s = .next (u.startVx .cmp h o (x (.vcmp h o)))) ∧
     (s.EngineReady h (.vsel h o) → exec (.vsel h o) s = .next (u.startVx .sel h o (x (.vsel h o)))) ∧
     (s.EngineReady h (.vabs h o) → exec (.vabs h o) s = .next (u.startVx .abs h o (x (.vabs h o)))) ∧
     (s.EngineReady h (.vneg h o) → exec (.vneg h o) s = .next (u.startVx .neg h o (x (.vneg h o)))) ∧
     (s.EngineReady h (.vexp2 h o) → exec (.vexp2 h o) s = .next (u.startVx .exp2 h o (x (.vexp2 h o)))) ∧
     (s.EngineReady h (.vlog2 h o) → exec (.vlog2 h o) s = .next (u.startVx .log2 h o (x (.vlog2 h o)))) ∧
     (s.EngineReady h (.vrcp h o) → exec (.vrcp h o) s = .next (u.startVx .rcp h o (x (.vrcp h o)))) ∧
     (s.EngineReady h (.vrsq h o) → exec (.vrsq h o) s = .next (u.startVx .rsq h o (x (.vrsq h o)))) ∧
     (s.EngineReady h (.vcvt h o) → exec (.vcvt h o) s = .next (u.startVx .cvt h o (x (.vcvt h o)))) ∧
     (s.EngineReady h (.vreq h o) → exec (.vreq h o) s = .next (u.startVx .req h o (x (.vreq h o)))) ∧
     (s.EngineReady h (.vlf h o) → exec (.vlf h o) s = .next (u.startVx .lf h o (x (.vlf h o)))) ∧
     (s.EngineReady h (.vlfa h o) → exec (.vlfa h o) s = .next (u.startVx .lfa h o (x (.vlfa h o)))) ∧
     (s.EngineReady h (.vrsum h o) → exec (.vrsum h o) s = .next (u.startVx .rsum h o (x (.vrsum h o)))) ∧
     (s.EngineReady h (.vrmax h o) → exec (.vrmax h o) s = .next (u.startVx .rmax h o (x (.vrmax h o)))) ∧
     (s.EngineReady h (.vsmax h o) → exec (.vsmax h o) s = .next (u.startVx .smax h o (x (.vsmax h o)))) ∧
     (s.EngineReady h (.vrms h o) → exec (.vrms h o) s = .next (u.startVx .rms h o (x (.vrms h o)))) ∧
     (s.EngineReady h (.vlnorm h o) → exec (.vlnorm h o) s = .next (u.startVx .lnorm h o (x (.vlnorm h o)))) ∧
     (s.EngineReady h (.vkl h o) → exec (.vkl h o) s = .next (u.startVkl h o (x (.vkl h o))))) ∧
  (∀ (s : State) (h : Hdr),
     let x := s.ctx h.core.toNat
     let u := s.leaving h
     (∀ o, s.EngineReady h (.dxs h o) → exec (.dxs h o) s = .next (u.dxStart false h o (x (.dxs h o)))) ∧
     (∀ o, s.EngineReady h (.dxg h o) → exec (.dxg h o) s = .next (u.dxStart true h o (x (.dxg h o)))) ∧
     (∀ o, s.EngineReady h (.mxt h o) → exec (.mxt h o) s = .next (u.startMxt h o (x (.mxt h o)))) ∧
     (∀ slot kind g imm, s.EngineReady h (.mxl h slot kind g imm) →
       exec (.mxl h slot kind g imm) s = .next (u.startMxl h slot.toNat kind.toNat g.toNat imm.toNat (x (.mxl h slot kind g imm)))) ∧
     (∀ slot p, s.EngineReady h (.mxp h slot p) → exec (.mxp h slot p) s = .next (u.startMxp h slot.toNat p.toNat (x (.mxp h slot p)))) ∧
     (∀ a l nc d w k f, s.EngineReady h (.sxtopk h a l nc d w k f) → exec (.sxtopk h a l nc d w k f) s = .next (u.startTopk h a l nc d w k.toNat f (x (.sxtopk h a l nc d w k f)))) ∧
     (∀ a b d ds w k, s.EngineReady h (.sxmerge h a b d ds w k) → exec (.sxmerge h a b d ds w k) s = .next (u.startMerge h a b d ds w k.toNat (x (.sxmerge h a b d ds w k)))) ∧
     (∀ a b d p nc, s.EngineReady h (.sxand h a b d p nc) → exec (.sxand h a b d p nc) s = .next (u.startAnd h a b d p nc (x (.sxand h a b d p nc)))) ∧
     (∀ a d p nc e r, s.EngineReady h (.sxroute h a d p nc e r) → exec (.sxroute h a d p nc e r) s = .next (u.startRoute h a d p nc e.toNat r.toNat (x (.sxroute h a d p nc e r)))) ∧
     (∀ a d, s.EngineReady h (.sxwalk h a d) → exec (.sxwalk h a d) s = .next (u.startWalk h a d (x (.sxwalk h a d)))) ∧
     (s.fusedOff = false → ∀ o, s.EngineReady h (.oxupd h o) → exec (.oxupd h o) s = .next (u.startOx true h o (x (.oxupd h o)))) ∧
     (s.fusedOff = false → ∀ o, s.EngineReady h (.oxsr h o) → exec (.oxsr h o) s = .next (u.startOx false h o (x (.oxsr h o)))) ∧
     (s.fusedOff = false → ∀ o, s.EngineReady h (.hxsend h o) → exec (.hxsend h o) s = .next (u.startHx true h o (x (.hxsend h o)))) ∧
     (s.fusedOff = false → ∀ o, s.EngineReady h (.hxrecv h o) → exec (.hxrecv h o) s = .next (u.startHx false h o (x (.hxrecv h o)))) ∧
     (∀ o, s.EngineReady h (.gxput h o) → exec (.gxput h o) s = .next (u.startGx false h o (x (.gxput h o)))) ∧
     (∀ o, s.EngineReady h (.gxget h o) → exec (.gxget h o) s = .next (u.startGx true h o (x (.gxget h o)))) ∧
     (∀ o, s.EngineReady h (.allred h o) → exec (.allred h o) s = .next (u.startColl 0 h o (x (.allred h o)))) ∧
     (∀ o, s.EngineReady h (.redscat h o) → exec (.redscat h o) s = .next (u.startColl 1 h o (x (.redscat h o)))) ∧
     (∀ o, s.EngineReady h (.bcast h o) → exec (.bcast h o) s = .next (u.startColl 2 h o (x (.bcast h o)))) ∧
     (∀ o, s.EngineReady h (.clear h o) → exec (.clear h o) s = .next (u.startColl 3 h o (x (.clear h o)))) ∧
     (∀ a imm, s.EngineReady h (.mrd h a imm) → exec (.mrd h a imm) s = .next (u.startMedia .rd h a imm (x (.mrd h a imm)))) ∧
     (∀ a imm, s.EngineReady h (.mwr h a imm) → exec (.mwr h a imm) s = .next (u.startMedia .wr h a imm (x (.mwr h a imm)))) ∧
     (∀ a imm, s.EngineReady h (.mapp h a imm) → exec (.mapp h a imm) s = .next (u.startMedia .app h a imm (x (.mapp h a imm)))) ∧
     (∀ a, s.EngineReady h (.pread h a) → exec (.pread h a) s = .next (u.startPread h a (x (.pread h a)))) ∧
     (∀ a ec, s.EngineReady h (.pres h a ec) → exec (.pres h a ec) s = .next (u.startPres h a ec (x (.pres h a ec)))))

/-- MXP loads one of the two presets, the bell grid as E4M3 or as BF16, into its table slot, each entry with the
residue of its significand (R81), and stands among the started instructions until it
retires; nothing else changes but what leaving the sequencer changes.

A VX lane instruction on one row of FP32 elements whose operands and result lie inside SRAM, clear of the merge buffer, of flip injections and of
poison, with no residue injection armed: each element of the result is the lane operation of the elements in its place as they were before, and no byte
of memory outside the result row changes.

The choices of log entry 6 in it are the model's. -/
def Obligations.MxpAndLaneInstructionsCompute : Prop :=
  (∀ (s : State) (h : Hdr) (slot : BitVec 6) (p : BitVec 2), s.EngineReady h (.mxp h slot p) →
     let c := h.core.toNat
     let k := s.core c
     let bell : List Nat := if p = 0 then [0xB8, 0xB4, 0xB0, 0xAC, 0xA8, 0xA2, 0x98, 0x00, 0x18, 0x22, 0x28, 0x2B, 0x2F, 0x32, 0x35, 0x38]
       else [0xBF80, 0xBF40, 0xBF00, 0xBEC0, 0xBE80, 0xBE20, 0xBD80, 0x0000, 0x3D80, 0x3E20, 0x3E80, 0x3EB0, 0x3EF0, 0x3F20, 0x3F50, 0x3F80]
     let residues : List Nat := if p = 0 then [1, 5, 1, 5, 1, 3, 1, 0, 1, 3, 1, 4, 1, 3, 6, 1] else [2, 3, 2, 3, 2, 6, 2, 0, 2, 6, 2, 1, 2, 6, 5, 2]
     ∃ t, exec (.mxp h slot p) s = .next t ∧ s.CoreAndRegs t c (fun off => off = Reg.SEQ_ISSUED c) ∧
       t.reg (Reg.SEQ_ISSUED c) = s.reg (Reg.SEQ_ISSUED c) + 1 ∧
       (t.core c).tables = sins k.tables slot.toNat ⟨p.toNat, bell, residues, false⟩ ∧
       (t.core c).busy = k.busy ++ [⟨.mx, k.index, h.sig, h.boundary, .done, []⟩] ∧
       k.SeqFrame { (t.core c) with tables := k.tables, busy := k.busy }) ∧
  (∀ (s : State) (h : Hdr) (o : VxOps) (fn : VxFn) (i : Instr),
     (fn, i) ∈ [(.add, .vadd h o), (.sub, .vsub h o), (.mul, .vmul h o), (.fma, .vfma h o), (.min_, .vmin h o), (.max_, .vmax h o), (.cmp, .vcmp h o),
       (.sel, .vsel h o), (.abs, .vabs h o), (.neg, .vneg h o), (.exp2, .vexp2 h o), (.log2, .vlog2 h o), (.rcp, .vrcp h o), (.rsq, .vrsq h o),
       (.cvt, .vcvt h o)] →
     s.EngineReady h i → o.row1 = true → o.fa = 0 → o.fb = 0 → o.fd = 0 → o.bsc = false → o.csc = false →
     let c := h.core.toNat
     let k := s.core c
     let n := o.len.toNat
     let at_ := fun (g : BitVec 5) => (k.agen g.toNat).toNat % 2 ^ 25 / 64 * 64
     let el := fun (a : Nat) => toF32 .f32 (leNat (s.sramBytes c a 4))
     k.merge = [] → k.flipPend = [] → k.flipped = [] → k.vxArmed = false →
     (∀ g ∈ [o.agd, o.aga, o.agb, o.agc], at_ g + 4 * n ≤ sramSize ∧ s.sramPoison c (at_ g) (4 * n) = false) →
     ∃ t, exec i s = .next t ∧
       (∀ j < n, leNat (t.sramBytes c (at_ o.agd + 4 * j) 4) =
         ofF32 .f32 (laneOp fn o.imm.toNat (el (at_ o.aga + 4 * j)) (el (at_ o.agb + 4 * j)) (el (at_ o.agc + 4 * j))) % 2 ^ 32) ∧
       (∀ a, a < at_ o.agd ∨ at_ o.agd + 4 * n ≤ a → t.sramByte c a = s.sramByte c a) ∧
       (∀ a, a < sramBase c + at_ o.agd ∨ sramBase c + at_ o.agd + 4 * n ≤ a → memByte t.mem a = memByte s.mem a) ∧ t.poison = s.poison)

/-! ### Events of the cores -/

/-- TOKEN_WAIT_PROCEED: an instruction that the sequencer holds for its token takes its units as soon as they are there, executes, and issue goes on; an
instruction of a reserved class or opcode is counted as a violation and retires as a no-op, with its one wait and its one signal (R169).

INSTRUCTION_RETIRE: the oldest started instruction of the class that is complete and no boundary leaves the core and signals its token.

BOUNDARY_RETIRE on a core held by a boundary that nothing else is left to await: issue goes on, and what the core's instruction-scope registers
hold in their shadow becomes live or acts: nothing, OX_SEED, an armed MX or VX residue injection, cleared clip counters, cleared valid bits, a flip arm.

The choices of log entries 7, 10, 13, 17 and 19 in it are the model's. -/
def Obligations.IssueWaitsRetiresAndPassesBoundaries : Prop :=
  (∀ (s : State) (core : CoreId) (h : Hdr), h.core = core →
     let c := core.toNat
     let k := s.core c
     let same := fun (t : State) => (t.core c).ctr = k.ctr ∧ (t.core c).cmp = k.cmp ∧ (t.core c).agBase = k.agBase ∧ (t.core c).agInc = k.agInc
     (k.run = .running → k.held = some (.instr (.nop h)) → k.ended = false → k.canTake h = true → k.queue = [] → s.inCode_ c (k.index + 1) →
       (h.signal = true → k.tokNext h h.sigTok.toNat ≤ 65535) →
       ∃ t, exec (.tokenWaitProceed core none) s = .next t ∧ s.CoreAndRegs t c (fun off => off = Reg.SEQ_ISSUED c ∨ off = Reg.LEDGER_SEQ 7) ∧
         t.reg (Reg.SEQ_ISSUED c) = s.reg (Reg.SEQ_ISSUED c) + 1 ∧ k.SeqFrame (t.core c) ∧ k.Moved (t.core c) h (k.index + 1) ∧ same t) ∧
     (s.AtIssue h → s.inCode_ c (k.index + 1) →
       ∃ t, exec (.tokenWaitProceed core (some h)) s = .next t ∧ t.reg (Reg.SEQ_ISSUED c) = s.reg (Reg.SEQ_ISSUED c) + 1 ∧
         t.reg (Reg.SEQ_VIOL_COUNT c) = s.reg (Reg.SEQ_VIOL_COUNT c) + 1 ∧ t.reg Reg.FAULT_VIOL_TOTAL = s.reg Reg.FAULT_VIOL_TOTAL + 1 ∧
         t.bit (Reg.SEQ_FAULT c) 0 = true ∧ t.mem = s.mem ∧ k.SeqFrame (t.core c) ∧ k.Moved (t.core c) h (k.index + 1) ∧ same t)) ∧
  (∀ (s : State) (core : CoreId) (cls : Cls) (b : Busy),
     let c := core.toNat
     let k := s.core c
     k.busy.find? (fun b => b.cls == cls && b.wait == .done && !b.bnd) = some b → (b.cls = .sx → b.args = []) → s.Quiet c →
     (∀ n ∈ b.sig, sget 0 k.tok n < 65535) →
     ∃ t, exec (.instructionRetire core cls) s = .next t ∧ s.CoreAndRegs t c (fun off => off = Reg.LEDGER_SEQ 7) ∧
       t.core c = { k with busy := k.busy.erase b, tok := (t.core c).tok, sigs := (t.core c).sigs, stalled := false } ∧
       ∀ i, sget 0 (t.core c).tok i = sget 0 k.tok i + if b.sig = some i then 1 else 0) ∧
  (∀ (s : State) (core : CoreId) (w : Word),
     let c := core.toNat
     let k := s.core c
     let off := fun (r : Nat) => s.shadow = [(r, w)]
     let go := fun (P : State → Prop) => ∃ t, exec (.boundaryRetire core) s = .next t ∧ t.shadow = [] ∧ (t.core c).held = none ∧
       (t.core c).index = k.index ∧ (∀ d, d ≠ c → t.core d = s.core d) ∧ P t
     k.run = .running → k.ended = false → k.held = some .atBoundary → k.queue = [] → k.streams = [] → k.busy = [] → k.laceSlots = false →
     k.index < k.codeLen →
     (s.shadow = [] → go (fun t => t = { s with cores := t.cores } ∧ t.core c = { k with held := none, stalled := false })) ∧
     (off (Reg.OX_SEED c) → go (fun t => t.reg (Reg.OX_SEED c) = w ∧ ∀ r, r ≠ Reg.OX_SEED c → t.reg r = s.reg r)) ∧
     (off (Reg.MX_TEST c) → w.getLsbD 8 = true → go (fun t => (t.core c).mxArmed = setAdd k.mxArmed (w.toNat % 4) ∧ t.fld (Reg.MX_TEST c) 0 2 = w.toNat % 4)) ∧
     (off (Reg.VX_TEST c) → w.getLsbD 8 = true → go (fun t => (t.core c).vxArmed = true)) ∧
     (off (Reg.VX_CLIP_CTL c) → go (fun t => ∀ i < 16,
       t.reg (Reg.VX_CLIP_TOTAL c i) = (if w.getLsbD i then 0 else s.reg (Reg.VX_CLIP_TOTAL c i)) ∧
       t.reg (Reg.VX_CLIP_HIGH c i) = (if w.getLsbD i then 0 else s.reg (Reg.VX_CLIP_HIGH c i)) ∧
       t.reg (Reg.VX_CLIP_LOW c i) = (if w.getLsbD i then 0 else s.reg (Reg.VX_CLIP_LOW c i)) ∧
       t.reg (Reg.VX_CLIP_NAN c i) = (if w.getLsbD i then 0 else s.reg (Reg.VX_CLIP_NAN c i)))) ∧
     (off (Reg.SRAM_CTL c) → w.getLsbD 0 = true → k.merge = [] →
       go (fun t => (∀ a < sramSize, t.sramByte c a = 0 ∧ t.sramPoison c a 1 = false) ∧
         ∀ a, a < sramBase c ∨ sramBase c + sramSize ≤ a → memByte t.mem a = memByte s.mem a)) ∧
     (∀ g < 6, off (Reg.SRAM_FLIP c g) → w.getLsbD 8 = true → go (fun t => sget 0 (t.core c).flipPend g = w.setWidth 8)))

/-- CORE_STALL_DETECT: a core whose sequencer waits for units that it does not have, with nothing queued and nothing outstanding that could bring them,
has its stall recorded and its source fired; while that stoppage lasts a second report changes nothing.

The writes that arm something at the next instruction boundary: they land in the register's shadow, its read-write and write-only bits, and change
nothing that is live (R12).

MERGE_ENTRY_RETIRE and SRAM_CE_WRITEBACK of a valid word on a core with no flip injection armed or landed and no word lost to a real error: the entry's word is rewritten
with its merged bytes and the entry is gone, and every byte of the core's SRAM reads as before; a first corrected error of the word is counted and
remembered.

The choices of log entries 9, 13, 99, 163 and 186 in it are the model's. -/
def Obligations.CoreEventsAreRecorded : Prop :=
  (∀ (s : State) (core : CoreId) (h : Hdr),
     let c := core.toNat
     let k := s.core c
     s.hasCore c = true → k.run = .running → k.held = some (.instr (.nop h)) → k.canTake h = false → k.queue = [] → k.busy = [] → k.streams = [] → k.lace = [] →
     s.girth.txns = [] → s.girth.colls = [] →
     (k.stalled = false → ∃ t, exec (.coreStallDetect core) s = .next t ∧ s.Recorded { t with cores := s.cores } ∧
       t.core c = { k with stalled := true } ∧ (∀ d, d ≠ c → t.core d = s.core d) ∧ t.bit (Reg.SEQ_FAULT c) 7 = true ∧ t.srcLevel (192 + c) = true ∧
       (s.reg (Reg.SEQ_FAULT c) = 0 → t.reg (Reg.SEQ_FAULT_PC c) = BitVec.ofNat 64 (s.pcOf c k.index % 2 ^ 48)) ∧
       t.reg (Reg.SEQ_VIOL_COUNT c) = s.reg (Reg.SEQ_VIOL_COUNT c)) ∧
     (k.stalled = true → exec (.coreStallDetect core) s = .next s)) ∧
  (∀ (s : State) (core : CoreId) (v : Word), s.alive = true → s.hasCore core.toNat = true →
     let c := core.toNat
     exec (.mxInjectArm core v) s = .next (s.setShadow (Reg.MX_TEST c) (v &&& 0x103)) ∧
     exec (.vxInjectArm core v) s = .next (s.setShadow (Reg.VX_TEST c) (v &&& 0x100)) ∧
     exec (.clipClear core v) s = .next (s.setShadow (Reg.VX_CLIP_CTL c) (v &&& 0xFFFF)) ∧
     exec (.clearValid core v) s = .next (s.setShadow (Reg.SRAM_CTL c) (v &&& 1)) ∧
     (∀ g : BitVec 3, g.toNat < 6 → exec (.flipArm false core g v) s = .next (s.setShadow (Reg.SRAM_FLIP c g.toNat) (v &&& 0x1FF))) ∧
     (∀ g : BitVec 3, exec (.flipArm true core g v) s = .next (s.setShadow (Reg.HUB_SRAM_FLIP 0) (v &&& 0x1FF))) ∧
     ((s.core c).prefetch = [] → ∀ n : BitVec 3, ∃ t, exec (.pstreamBaseWrite core n v) s = .next t ∧
       t = { s with shadow := t.shadow, cores := t.cores, regs := t.regs } ∧
       t.shadow = sins s.shadow (Reg.DX_PSTREAM_BASE c n.toNat) (v &&& 0xFFFFFFFFFFFF) ∧ (∀ d, t.core d = s.core d) ∧ ∀ off, t.reg off = s.reg off)) ∧
  (∀ (s : State) (core : CoreId),
     let c := core.toNat
     let k := s.core c
     k.flipped = [] → k.flipPend = [] → k.lost = [] →
     (∀ (bank : BitVec 6) (e : MergeEntry), k.merge.find? (fun e => bankOf (8 * e.word) == bank.toNat) = some e →
       (∃ t, exec (.mergeEntryRetire core bank .clean) s = .next t ∧ t = { s with mem := t.mem, cores := t.cores } ∧ (∀ d, d ≠ c → t.core d = s.core d) ∧
         t.core c = { k with merge := k.merge.filter (fun x => x.word != e.word) } ∧ (∀ a, t.sramByte c a = s.sramByte c a) ∧
         ∀ a, a < sramBase c + 8 * e.word ∨ sramBase c + 8 * e.word + 8 ≤ a → memByte t.mem a = memByte s.mem a) ∧
       (setHas k.ceOnce e.word = false →
         ∃ t, exec (.mergeEntryRetire core bank .corrected) s = .next t ∧ t = { s with mem := t.mem, cores := t.cores, regs := t.regs } ∧
           t.reg (Reg.SRAM_CE_COUNT c) = s.reg (Reg.SRAM_CE_COUNT c) + 1 ∧ (∀ off, off ≠ Reg.SRAM_CE_COUNT c → t.reg off = s.reg off) ∧
           t.core c = { k with merge := k.merge.filter (fun x => x.word != e.word), ceOnce := setAdd k.ceOnce e.word } ∧
           ∀ a, t.sramByte c a = s.sramByte c a)) ∧
     (∀ o : BitVec 25, setHas s.valid ((sramBase c + 8 * (o.toNat / 8)) / 64) = true → setHas k.ceOnce (o.toNat / 8) = false →
       ∃ t, exec (.sramCeWriteback (.core core o) .corrected) s = .next t ∧ t = { s with mem := t.mem, cores := t.cores, regs := t.regs } ∧
         t.reg (Reg.SRAM_CE_COUNT c) = s.reg (Reg.SRAM_CE_COUNT c) + 1 ∧ (∀ off, off ≠ Reg.SRAM_CE_COUNT c → t.reg off = s.reg off) ∧
         t.core c = { k with ceOnce := setAdd k.ceOnce (o.toNat / 8) } ∧ ∀ a, memByte t.mem a = memByte s.mem a))

/-! ### Streams and laces -/

/-- STREAM_LINE_ARRIVAL of the one line of a linear read stream from DRAM: its bytes stand in SRAM where the descriptor puts them, no other byte of the
core's SRAM changes, the stream's token has its unit, and the stream and its slot are gone.

PREFETCH_START for the next instruction of the core's code, a DXS that carries no hold and reads one DRAM line, with leave for a slot or more: the line
waits in one filled slot, kept for that instruction under the loop indices it will issue with, and nothing is written to SRAM. With prefetch off, nothing changes.

LACE_LINE_ARRIVAL at a member whose own stream has not issued, no repeat being due: the line lands and waits there. LACE_CREDIT_RETURN at a member whose predecessor is
not running and had every credit: the slot's credit goes back to the predecessor and, with slots enough free, is granted anew.

The choices of log entries 4, 100, 181, 182 and 187 in it are the model's. -/
def Obligations.StreamLinesLand : Prop :=
  (∀ (s : State) (core : CoreId) (st : Stream) (n e b tok : Nat),
     let c := core.toNat
     let k := s.core c
     let d := st.d
     k.run = .running → s.Quiet c → k.streams.find? (fun t => t.id == st.id) = some st →
     e = dxBytes d.format → 0 < n → n * e ≤ 64 → d.counts = [n, 1, 1, 1, 1, 1] → d.strides = [(e : Int), 0, 0, 0, 0, 0] → d.base = b → b % 64 = 0 →
     d.wr = false → d.lace = false → d.transpose = false → d.gather = none → d.skew = 0 → d.format ≤ 11 → d.signal = 0 →
     st.pos = 0 → st.slot = none → st.viol = false → st.sig = some tok → sget 0 k.tok tok < 65535 → k.filled + k.draining < 128 →
     k.merge = [] → k.flipPend = [] → k.flipped = [] → d.sram + n * e ≤ sramSize → d.sram % 64 = 0 → s.touchesWindow c d.sram (n * e) = false →
     s.tier b = .dram → s.mayMove c b = true → s.poisoned (b / 64) = false →
     ∃ t, exec (.streamLineArrival core st.id .clean []) s = .next t ∧
       (∀ j < n * e, t.sramByte c (d.sram + j) = memByte s.mem (b + j)) ∧
       (∀ a, a < d.sram ∨ d.sram + n * e ≤ a → t.sramByte c a = s.sramByte c a) ∧
       (t.core c).streams = k.streams.filter (fun t => t.id != st.id) ∧ (t.core c).filled = k.filled ∧ (t.core c).draining = k.draining ∧
       (∀ i, sget 0 (t.core c).tok i = sget 0 k.tok i + if i = tok then 1 else 0) ∧
       t.reg (Reg.DX_LINES_IN c) = s.reg (Reg.DX_LINES_IN c) + 1) ∧
  (∀ (s : State) (core : CoreId),
     let c := core.toNat
     let k := s.core c
     (∀ (ix m : Nat), s.bit (Reg.DX_CTL c) 1 = true → exec (.prefetchStart core ix m) s = .next s) ∧
     (∀ (m : Nat) (h : Hdr) (o : DxOps), 0 < m → decodeWenmel core (s.codeWord c k.index) = some (.dxs h o) → h.badTok = false →
       (headerOf core (s.codeWord c k.index) 0).hold = false →
       let x := Reached.ctx ⟨k.index, k.levels, false, false, h, o⟩ s c
       let r := s.rawDesc o x
       let d := s.resolve false o x r (s.fld (Reg.DX_PSTREAM_BASE c r.pnum) 0 48)
       let a := (d.addr 0).toNat / 64 * 64
       k.run = .running → k.held = none → k.index < k.codeLen → s.bit (Reg.DX_CTL c) 0 = false → s.bit (Reg.DX_CTL c) 1 = false →
       r.faulty false h o x = false → r.flag 3 = false → r.flag 11 = false → k.filled + k.draining ≤ 112 → k.prefetch = [] →
       0 < d.total → d.total ≤ runLen d 0 → 0 ≤ d.addr 0 → d.addr 0 < 2 ^ 48 → d.addr 0 % (d.esize : Int) = 0 →
       (s.place c d 0).isSome = true → s.placeBad x d 0 = false →
       s.tier a = .dram → s.mayMove c a = true → s.poisoned (a / 64) = false →
       ∃ t, exec (.prefetchStart core k.index m) s = .next t ∧
         s.Charged t c (s.payer c) (fun off => off = Reg.DX_LINES_IN c ∨ off = Reg.LEDGER_SEQ 2) ∧
         t.reg (Reg.DX_LINES_IN c) = s.reg (Reg.DX_LINES_IN c) + 1 ∧
         ∃ f : Prefetch, t.core c = { k with prefetch := [f], filled := k.filled + 1 } ∧ f.idx = k.index ∧ f.iter = k.levels.map Level.idx ∧ f.d = d ∧
           f.slots = 1 ∧ f.lines = [⟨a, memBytes s.mem a 64, false, 0, false⟩])) ∧
  (∀ (s : State) (core : CoreId) (channel : BitVec 2),
     let c := core.toNat
     let l := channel.toNat
     let k := s.core c
     let v := k.laceCh l
     (∀ line rest, k.run = .running → s.Quiet c → k.streams = [] → v.skip = 0 → v.transit = line :: rest →
       exec (.laceLineArrival core channel) s =
         .next (s.modCore c (fun k => k.setLace l { v with transit := rest, held := v.held ++ [line] }))) ∧
     (∀ p, s.lacePred c l = some p → (s.laceCtl c l).1 = true → p ≠ c → (s.core p).run ≠ .running → 0 < v.done → 0 < k.draining → v.granted = (s.laceCtl c l).2.2.2 → 0 < v.granted →
       k.filled + k.draining ≤ 112 →
       ∃ t, exec (.laceCreditReturn core channel) s = .next t ∧
         t = { s with cores := t.cores, regs := t.regs } ∧ (∀ d, d ≠ c → d ≠ p → t.core d = s.core d) ∧
         t.core c = { k with lace := (t.core c).lace, filled := k.filled + 1, draining := k.draining - 1 } ∧
         (t.core c).laceCh l = { v with done := v.done - 1 } ∧ (∀ m, m ≠ l → (t.core c).laceCh m = k.laceCh m) ∧
         t.core p = (s.core p).setLace l { ((s.core p).laceCh l) with cred := ((s.core p).laceCh l).cred + 1 } ∧
         t.fld (Reg.DX_LACE_CREDIT c l) 0 32 = (s.fld (Reg.DX_LACE_CREDIT c l) 0 32 + 1) % 2 ^ 32 ∧
         t.fld (Reg.DX_LACE_CREDIT c l) 32 32 = (s.fld (Reg.DX_LACE_CREDIT c l) 32 32 + 1) % 2 ^ 32))

/-! ### Power, start-up and resets -/

/-- POWER_SAMPLE on a running module, short of a thermal trip: the sample number advances and the reading is shown, and the cap and thermal ratios move as the reading and the junctions say.

The choices of log entry 83 in it are the model's. -/
def Obligations.EverySampleMovesTheRatios : Prop :=
  ∀ (s : State) (p : Sample), s.guard.phase = .up → s.fuse.grade ≠ 2 →
    p.junctionW.toInt < 16 * 105 → p.junctionE.toInt < 16 * 105 → p.junctionHub.toInt < 16 * 105 → p.flashMax.toInt < 16 * 85 → s.power.flash85 = false →
    let cap := s.fld Reg.PWR_CAP 0 10
    let dw := p.powerDw.toNat
    let capNext := fun (n : Nat) => if cap * 10 < dw then max 4 (n - 1) else if dw * 16 ≤ cap * 150 then min 16 (n + 1) else n
    let warn : Int := s.fld Reg.PWR_THERM_CTL 0 8
    let thermNext := fun (j : Int) (n : Nat) => if 16 * warn ≤ j then max 2 (n - 1) else if j < 16 * (warn - 3) then min 16 (n + 1) else n
    ∃ t, exec (.powerSample p) s = .next t ∧ t.fld Reg.PWR_SAMPLE 0 16 = dw ∧ t.fld Reg.PWR_SAMPLE 16 48 = (s.fld Reg.PWR_SAMPLE 16 48 + 1) % 2 ^ 48 ∧
      t.power.inPeriod = s.power.inPeriod + 1 ∧
      t.power.capW = capNext s.power.capW ∧ t.power.capE = capNext s.power.capE ∧
      t.power.thermW = thermNext p.junctionW.toInt s.power.thermW ∧ t.power.thermE = thermNext p.junctionE.toInt s.power.thermE

/-- R44: the refill of purse p grants cap_w × period_share × 25 thousandths of a µJ with the remainder carried, adds the whole µJ to granted and to remaining
and changes no other register but the purse ledger's number; and every sample on a running module grants each purse exactly that. -/
def Obligations.EverySampleRefillsThePurses : Prop :=
  ∀ (s : State),
    let acc := fun (p : Nat) => s.fld Reg.PWR_CAP 0 10 * s.fld (Reg.PURSE_CTL p) 0 10 * 25 + s.fld (Reg.PURSE_RESIDUE p) 32 10
    (∀ p < 9, let t := State.refill p s
      t = { s with regs := t.regs } ∧ t.reg (Reg.PURSE_GRANTED p) = s.reg (Reg.PURSE_GRANTED p) + BitVec.ofNat 64 (acc p / 1000) ∧
      t.reg (Reg.PURSE_LEVEL p) = s.reg (Reg.PURSE_LEVEL p) + BitVec.ofNat 64 (acc p / 1000) ∧ t.fld (Reg.PURSE_RESIDUE p) 32 10 = acc p % 1000 ∧
      t.fld (Reg.PURSE_RESIDUE p) 0 32 = s.fld (Reg.PURSE_RESIDUE p) 0 32 ∧
      ∀ off, off ≠ Reg.PURSE_GRANTED p → off ≠ Reg.PURSE_LEVEL p → off ≠ Reg.PURSE_RESIDUE p → off ≠ Reg.LEDGER_SEQ 3 → t.reg off = s.reg off) ∧
    ∀ (x : Sample), s.guard.phase = .up → s.fuse.grade ≠ 2 →
      x.junctionW.toInt < 16 * 105 → x.junctionE.toInt < 16 * 105 → x.junctionHub.toInt < 16 * 105 → x.flashMax.toInt < 16 * 85 → s.power.flash85 = false →
      ∃ t, exec (.powerSample x) s = .next t ∧ ∀ p < 9,
        t.reg (Reg.PURSE_GRANTED p) = s.reg (Reg.PURSE_GRANTED p) + BitVec.ofNat 64 (acc p / 1000) ∧ t.fld (Reg.PURSE_RESIDUE p) 32 10 = acc p % 1000

/-- THERMAL_TRIP_RELEASE: in a trip, once every junction is below 95 degrees C and the flash below 75, the trip is over; before that nothing happens.

PWR_ALERT_ASSERT, by SLED_ALERT_N from step 4 of start-up on, and ALERT_FORCE_WRITE, where the alert was not called for: both tiles go to ratio 1 at once, no block is being erased any more,
the event is counted, and the fault bit of the wire or of the force is set.

DROOP_WARNING, DROOP_RECOVERY and DROOP_HOLD_EXPIRY of a rail that the grade has: the tile goes to ratio 8 and owes a debit, the hold interval
begins when the rail is back, and the droop ratio is gone when it ends.

The choices of log entries 9 and 73 in it are the model's. -/
def Obligations.ThrottleEventsSetTheRatios : Prop :=
  (∀ (s : State) (w e h f : BitVec 16), s.power.tripped = true → s.fuse.grade ≠ 2 →
     let cool := w.toInt < 16 * 95 ∧ e.toInt < 16 * 95 ∧ h.toInt < 16 * 95 ∧ f.toInt < 16 * 75
     (cool → ∃ t, exec (.thermalTripRelease w e h f) s = .next t ∧ t.power.tripped = false ∧
       (s.guard.phase ≠ .resetting → t = { s with power := { s.power with tripped := false } })) ∧
     (¬ cool → exec (.thermalTripRelease w e h f) s = .next s)) ∧
  (∀ (s : State), s.alive = true → s.alertWanted = false →
     let low := fun (t : State) => t.power.alert = 1 ∧ t.power.alertHold = true ∧ t.fld Reg.PWR_THROTTLE 16 5 ≤ 1 ∧ t.fld Reg.PWR_THROTTLE 24 5 ≤ 1 ∧
       (∀ k, (t.fblk k).use ≠ .erasing) ∧ t.fld Reg.PWR_EVENT_COUNT 0 16 = min 65535 (s.fld Reg.PWR_EVENT_COUNT 0 16 + 1)
     (∃ t, exec (.pwrAlertAssert false) s = .next t ∧ low t ∧ t.power.wireLow = true ∧ t.bit Reg.PWR_FAULT 1 = true) ∧
     (s.guard.step4 = true → ∃ t, exec (.pwrAlertAssert true) s = .next t ∧ low t ∧ t.power.sledLow = true ∧ t.bit Reg.PWR_FAULT 1 = true) ∧
     (s.guard.step4 = false → exec (.pwrAlertAssert true) s = .next s) ∧
     (∀ v : Word, v.getLsbD 0 = true → v.toNat / 256 % 16 ≠ 0 →
       ∃ t, exec (.alertForceWrite v) s = .next t ∧ low t ∧ t.bit Reg.PWR_ALERT_CTL 0 = true ∧ t.fld Reg.PWR_ALERT_CTL 8 4 = v.toNat / 256 % 16 ∧
         t.bit Reg.PWR_FAULT 2 = true)) ∧
  (∀ (s : State) (x : Tile) (mv : Nat), s.alive = true → s.hasTile x = true →
     let level := s.fld Reg.PWR_DROOP_CTL 0 10
     let w := x == .west
     ((s.power.rail x).1 = false → 620 ≤ mv → mv < level →
       ∃ t, exec (.droopWarning x mv) s = .next t ∧ t.power = (s.power.setRail x true false 8).owe x ∧
         t.bit Reg.PWR_FAULT (if w then 3 else 4) = true ∧
         t.fld Reg.PWR_EVENT_COUNT (if w then 16 else 32) 16 = min 65535 (s.fld Reg.PWR_EVENT_COUNT (if w then 16 else 32) 16 + 1) ∧
         t.fld Reg.PWR_THROTTLE (if w then 16 else 24) 5 ≤ 8) ∧
     ((s.power.rail x).1 = true → level ≤ mv →
       exec (.droopRecovery x mv) s = .next { s with power := s.power.setRail x false true 8 }) ∧
     ((s.power.rail x).2 = true → ∃ t, exec (.droopHoldExpiry x) s = .next t ∧ t = { s with power := t.power, regs := t.regs } ∧
       t.power = s.power.setRail x false false 16 ∧ ∀ off, off ≠ Reg.PWR_THROTTLE → t.reg off = s.reg off))

/-- INTERFACE_PLL_LOSS: the PLL's lock bit falls; a girth SerDes whose link was up retrains; that of an absent port or a link not enabled is not among the
locks.

The module's power input and pins: PWR_DIS and a loss of input start the flush, whose end leaves the module without power, the dump's pages moved from
free to valid; PWR_DIS low and the leak
input only show.

HOST_LINK_RETRAIN counts each retrain of a port that is out of PERST and shows what was negotiated, or Detect.

The choices of log entries 82, 161 and 162 in it are the model's. -/
def Obligations.PinsAndLinksShowTheirState : Prop :=
  (∀ (s : State), s.alive = true →
     exec (.interfacePllLoss .dram) s = .next (s.setBit Reg.PWR_CLK 1 false) ∧
     (∀ p, exec (.interfacePllLoss (.pcie p)) s = .next (s.setBit Reg.PWR_CLK 3 false)) ∧
     (∀ g l : BitVec 3, s.hasPort g.toNat = true → l.toNat < 6 → s.bit (Reg.GIRTH_PORT_CTL g.toNat) l.toNat = true → s.host.psPhase ≠ .low 4 →
       s.linkState g.toNat l.toNat = 2 →
       ∃ t, exec (.interfacePllLoss (.serdes g l)) s = .next t ∧ t = { s with regs := t.regs, girth := { s.girth with links := t.girth.links } } ∧
         t.bit Reg.PWR_CLK 2 = false ∧ t.linkState g.toNat l.toNat = 1 ∧
         t.reg (Reg.GIRTH_LINK_RETRAIN g.toNat l.toNat) = s.reg (Reg.GIRTH_LINK_RETRAIN g.toNat l.toNat) + 1) ∧
     (∀ g l : BitVec 3, s.hasPort g.toNat = false ∨ s.bit (Reg.GIRTH_PORT_CTL g.toNat) l.toNat = false →
       exec (.interfacePllLoss (.serdes g l)) s = .next s)) ∧
  (∀ (s : State),
     (s.guard.phase = .up → exec .inputPowerLoss s = .next { s with guard := { s.guard with vinLow := true, phase := .losing } } ∧
       exec .pwrDisAssert s = .next { s with guard := { s.guard with pwrDis := true, phase := .losing } }) ∧
     (s.guard.phase = .losing → s.media.dumped = true → exec (.flushComplete true) s =
       .next { s with media := { s.media with around := [], rebuilt := [], cache := [], writes := [], mounted := false, dumpBad := false, powerCut := true }
                      guard := { s.guard with phase := .unpowered } }) ∧
     (s.guard.phase = .losing → s.media.dumped = false →
       let n := min (4 * s.dumpPages) (s.fld Reg.MEDIA_PAGE_FREE 0 36)
       ∃ t, exec (.flushComplete true) s = .next t ∧ t = { s with regs := t.regs, media := t.media, guard := { s.guard with phase := .unpowered } } ∧
         t.media.dumped = true ∧ t.media.mounted = false ∧ t.media.dumpBad = false ∧ t.media.powerCut = true ∧
         t.fld Reg.MEDIA_PAGE_FREE 0 36 = s.fld Reg.MEDIA_PAGE_FREE 0 36 - n ∧
         t.fld Reg.MEDIA_PAGE_VALID 0 36 = (s.fld Reg.MEDIA_PAGE_VALID 0 36 + n) % 2 ^ 36) ∧
     (s.guard.phase = .losing → ∃ t, exec (.flushComplete false) s = .next t ∧ t.guard.phase = .unpowered ∧ t.media.dumpBad = true ∧ t.bit Reg.MEDIA_FAULT 14 = true) ∧
     exec .pwrDisDeassert s = .next { s with guard := { s.guard with pwrDis := false } } ∧
     (∀ moist, exec (.leakDetect moist) s = .next { s with guard := { s.guard with leak := moist } } ∧
       (s.guard.phase ≠ .unpowered → ({ s with guard := { s.guard with leak := moist } } : State).leakLow = moist))) ∧
  (∀ (s : State) (p : BitVec 1) (sp : BitVec 3) (w : BitVec 4), s.alive = true → s.guard.step3 = true → s.guard.perst.getD p.toNat true = false →
     1 ≤ sp.toNat → sp.toNat ≤ 6 → 1 ≤ w.toNat → w.toNat ≤ 8 →
     let hp := Reg.HOST_PORT p.toNat
     let n := min (2 ^ 32 - 1) (s.fld hp 32 32 + 1)
     (∃ t, exec (.hostLinkRetrain p true sp w) s = .next t ∧ t = { s with regs := t.regs, guard := { s.guard with step4 := true } } ∧ t.fld hp 32 32 = n ∧ t.bit hp 0 = true ∧
       t.fld hp 1 3 = sp.toNat ∧ t.fld hp 4 4 = w.toNat ∧ ∀ off, off ≠ hp → off ≠ Reg.PWR_CLK → t.reg off = s.reg off) ∧
     (∃ t, exec (.hostLinkRetrain p false sp w) s = .next t ∧ t = { s with regs := t.regs } ∧ t.fld hp 32 32 = n ∧ t.fld hp 0 9 = 0 ∧
       ∀ off, off ≠ hp → t.reg off = s.reg off))

/-- Every cause of a warm reset on a running module that is in no thermal trip: jobs, memory, shadows and cores are gone, the cause is recorded and the
start counted, name spaces and fuses stay, and the firmware runs again.

The choices of log entries 76, 79 and 80 in it are the model's. -/
def Obligations.WarmResetClearsTheBlocks : Prop :=
  ∀ (s : State), s.Sound → s.guard.phase = .up → s.power.tripped = false → s.slotOk s.guard.next = true →
    let reset := fun (cause : Nat) (t : State) => t.guard.phase = .starting ∧ t.jobs = [] ∧ t.mem = [] ∧ t.shadow = [] ∧ t.fifo = [] ∧ t.programs = [] ∧
      t.search = {} ∧ t.serving = {} ∧ t.harness = {} ∧ (∀ c, (t.core c).run = .idle ∧ (t.core c).job = none ∧ (t.core c).queue = []) ∧
      t.media.mounted = false ∧ t.nss = s.nss ∧ t.fuse = s.fuse ∧ t.reg Reg.GUARD_RESET_CAUSE = BitVec.ofNat 64 (2 ^ cause) ∧
      t.fld Reg.GUARD_BOOT 32 32 = min (2 ^ 32 - 1) (s.fld Reg.GUARD_BOOT 32 32 + 1)
    (∃ t, exec .warmReset s = .next t ∧ reset 1 t) ∧
    (∀ v : Word, v.getLsbD 0 = true → ∃ t, exec (.guardResetWarm v) s = .next t ∧ reset 1 t) ∧
    (∀ p : BitVec 1, s.bit (Reg.HOST_PORT p.toNat) 0 = true → ∃ t, exec (.nvmSubsystemReset p) s = .next t ∧ reset 2 t) ∧
    (∃ t, exec .perstBothPorts s = .next t ∧ reset 3 t) ∧
    (∃ t, exec .rootPllLoss s = .next t ∧ reset 4 t ∧ t.bit Reg.PWR_FAULT 0 = true) ∧
    (∀ x mv, s.hasTile x = true → mv < 620 → ∃ t, exec (.droopReset x mv) s = .next t ∧ reset 5 t ∧ t.bit Reg.PWR_FAULT 5 = true)

/-- PERIOD_BOUNDARY once the period's samples are taken: the next period begins, with no sample of it taken. Where nothing runs, a shadow of the period scope
becomes live and what a purse has above its carry moves to returned. Before the last sample, and on a module that does not run, the boundary has not come.

The choices of log entry 72 in it are the model's. -/
def Obligations.PeriodBoundaryMakesShadowsLive : Prop :=
  ∀ (s : State),
    (s.alive = true → s.fld Reg.PWR_PERIOD 0 12 ≤ s.power.inPeriod →
      ∃ t, exec .periodBoundary s = .next t ∧ t.power.inPeriod = 0 ∧ s.SameFused t ∧ s.fuse.svn ≤ t.fuse.svn) ∧
    (s.alive = true → s.Asleep → s.fld Reg.PWR_PERIOD 0 12 ≤ s.power.inPeriod → ∀ i < 11, ∀ w : Word, s.shadow = [(Reg.PWR_COEF i, w)] →
      ∃ t, exec .periodBoundary s = .next t ∧ t.shadow = [] ∧ t.power.inPeriod = 0 ∧ t.fld (Reg.PWR_COEF i) 0 48 = w.toNat % 2 ^ 48 ∧
        ∀ p < 9, t.reg (Reg.PURSE_RETURNED p) = s.reg (Reg.PURSE_RETURNED p) + BitVec.ofNat 64 (s.remaining p - (s.fld (Reg.PURSE_CTL p) 16 32 : Int)).toNat) ∧
    (s.alive = false ∨ s.power.inPeriod < s.fld Reg.PWR_PERIOD 0 12 → exec .periodBoundary s = .next s)

/-- POWER_GOOD with a bootable package in the active slot, and PERST_DEASSERT after step 3: the firmware runs with DRAM trained, and the port's data link is
active as negotiated. MOUNT and CONTROLLER_ENABLE then make a physical function ready, and the module is up.

The choices of log entries 75, 78, 157 and 158 in it are the model's. -/
def Obligations.StartUpReachesReady : Prop :=
  ∀ (s : State), s.Sound →
    (s.guard.phase = .unpowered → s.guard.pwrDis = false → s.slotOk s.guard.next = true →
      ∃ t, exec (.powerGood true) s = .next t ∧ t.guard.phase = .starting ∧ t.guard.step3 = true ∧ t.guard.running = s.guard.next ∧ t.mem = [] ∧
        t.jobs = [] ∧ t.cores = [] ∧ t.nss = s.nss ∧ 3 ≤ t.fld Reg.GUARD_BOOT 0 3 ∧ t.bit Reg.PWR_CLK 0 = true ∧ t.bit Reg.PWR_CLK 1 = true) ∧
    (∀ (p : BitVec 1) (sp : BitVec 3) (w : BitVec 4), s.alive = true → s.guard.step3 = true → s.bit (Reg.HOST_PORT p.toNat) 0 = false →
      1 ≤ sp.toNat → sp.toNat ≤ 6 → 1 ≤ w.toNat → w.toNat ≤ 8 →
      ∃ t, exec (.perstDeassert p sp w) s = .next t ∧ t.guard = { s.guard with perst := s.guard.perst.set p.toNat false, step4 := true } ∧
        t.bit (Reg.HOST_PORT p.toNat) 0 = true ∧ t.fld (Reg.HOST_PORT p.toNat) 1 3 = sp.toNat ∧ t.fld (Reg.HOST_PORT p.toNat) 4 4 = w.toNat ∧
        t.bit (Reg.HOST_PORT p.toNat) 8 = (sp.toNat == 6) ∧ 4 ≤ t.fld Reg.GUARD_BOOT 0 3) ∧
    (s.alive = true → s.guard.step3 = true → s.media.mounted = false → s.startFailed = false → s.waitingCtrls = [] → s.host.stalled = [] → s.media.powerCut = false →
      s.media.dumpBad = false → ∃ t, exec (.mount true) s = .next t ∧ t.media.mounted = true ∧ t.media.dumped = false ∧ 5 ≤ t.fld Reg.GUARD_BOOT 0 3 ∧
        (s.nss = [] → s.media.eraseQ = [] → t.reg (Reg.LEDGER_SEQ 0) = 0 ∧ t.reg Reg.MEDIA_PAGE_SEQ = 0)) ∧
    (∀ p < 2, s.alive = true → s.bit (Reg.HOST_PORT p) 0 = true → s.media.mounted = true → s.guard.dramBad = false → s.guard.mountBad = false →
      (s.ctrl (65 * p)).enabled = false → (s.ctrl (65 * p)).online = true → (s.ctrl (65 * p)).cfs = false →
      ∃ t, exec (.controllerEnable (BitVec.ofNat 8 (65 * p))) s = .next t ∧ t.guard.phase = .up ∧ (t.ctrl (65 * p)).enabled = true ∧
        (t.ctrl (65 * p)).ready = true ∧ (t.ctrl (65 * p)).cfs = false)

/-! ### Registers, faults and the daybook -/

/-- A whole, aligned write of a present register with no effect of its own: a read-only register ignores it; of any other only the shadow copy takes the
value, whatever waited there before, and a read shows what it showed. Through a virtual function's BAR the write goes to the SRAM of a core of the
function's own partition, and is charged to it.

A register access of the wrong size or alignment, of a reserved encoding, or to a register that is not there: a violation, recorded in FAULT_DEV or
in the memory and host blocks, counted once device-wide, and no register takes the value. Through a virtual
function's BAR, the window of a core that its partition does not hold is a violation, and no memory changes.

The choices of log entries 101 and 192 in it are the model's. -/
def Obligations.RegisterWritesLandOrAreViolations : Prop :=
  (∀ (s : State) (off : Nat) (v : Word) (i : RegInfo), s.alive = true → off % 8 = 0 → s.PlainReg off v → regInfo off = some i → i.reserved v = false →
     (i.scope = .ro → exec (.registerWrite (.physical off) 8 v) s = .next s) ∧
     (i.scope ≠ .ro → i.scope ≠ .imm → ∃ t, exec (.registerWrite (.physical off) 8 v) s = .next t ∧ t = s.setShadow off ((v &&& i.rw) ||| (v &&& i.wo)) ∧
       t.shadowOf off = (v &&& i.rw) ||| (v &&& i.wo) ∧ t.readReg off = s.readReg off) ∧
     (∀ (k : BitVec 8) (c o p size : Nat), s.hasCore c = true → o < sramSize → o + size ≤ sramSize → s.partOf c = some p → s.funcOf k.toNat p = true →
       s.touchesWindow c o size = false →
       exec (.registerWrite (.virtual k (0x2000000 * c + o)) size v) s = .next ((s.sramWrite c o (leBytes size v.toNat)).charge (s.payer c) none 3 1))) ∧
  (∀ (s : State) (off size : Nat) (v : Word), s.alive = true →
     (size ≠ 8 ∨ off % 8 ≠ 0 → ∃ t, exec (.registerWrite (.physical off) size v) s = .next t ∧ s.Recorded t ∧ t.bit Reg.FAULT_DEV 0 = true ∧
       (s.reg Reg.FAULT_DEV = 0 → t.fld Reg.FAULT_DEV_ADDR 0 32 = off % 2 ^ 32) ∧
       t.reg Reg.FAULT_VIOL_TOTAL = s.reg Reg.FAULT_VIOL_TOTAL + 1 ∧
       ∀ o, ¬ FaultUnit.dev.touches o → o ≠ Reg.FAULT_VIOL_TOTAL → t.reg o = s.reg o) ∧
     (off % 8 = 0 → s.regHere off = false → ∃ t, exec (.registerWrite (.physical off) 8 v) s = .next t ∧ s.Recorded t ∧ t.bit Reg.MEM_FAULT 5 = true ∧
       t.bit Reg.HOST_FAULT 2 = true ∧ t.reg Reg.MEM_VIOL_COUNT = s.reg Reg.MEM_VIOL_COUNT + 1 ∧ t.reg Reg.HOST_VIOL_COUNT = s.reg Reg.HOST_VIOL_COUNT + 1 ∧
       t.reg Reg.FAULT_VIOL_TOTAL = s.reg Reg.FAULT_VIOL_TOTAL + 1 ∧
       ∀ o, ¬ FaultUnit.mem.touches o → ¬ FaultUnit.host.touches o → o ≠ Reg.MEM_VIOL_COUNT → o ≠ Reg.HOST_VIOL_COUNT → o ≠ Reg.FAULT_VIOL_TOTAL → t.reg o = s.reg o) ∧
     (∀ i : RegInfo, off % 8 = 0 → s.PlainReg off v → regInfo off = some i → i.scope ≠ .ro → i.scope ≠ .imm → i.reserved v = true →
       ∃ t, exec (.registerWrite (.physical off) 8 v) s = .next t ∧ s.Recorded { t with shadow := s.shadow } ∧ t.bit Reg.FAULT_DEV 1 = true ∧
         (s.reg Reg.FAULT_DEV = 0 → t.fld Reg.FAULT_DEV_ADDR 0 32 = off % 2 ^ 32) ∧
         t.reg Reg.FAULT_VIOL_TOTAL = s.reg Reg.FAULT_VIOL_TOTAL + 1 ∧ t.reg off = s.reg off ∧
         ∀ r, r ∈ i.rules → r.ok v = false → t.shadowOf off &&& (r.bits i.rw &&& i.rw) = s.shadowOf off &&& (r.bits i.rw &&& i.rw)) ∧
     (∀ (k : BitVec 8) (c o : Nat), s.hasCore c = true → o < sramSize → (∀ p, s.partOf c = some p → s.funcOf k.toNat p = false) →
       ∃ t, exec (.registerWrite (.virtual k (0x2000000 * c + o)) size v) s = .next t ∧ t.bit Reg.HOST_FAULT 2 = true ∧ t.mem = s.mem ∧ t.cores = s.cores))

/-- An event recorded by a block sets its sticky bit and no other of that register; the first loads the capture, and FAULT_FIRST when no fault register
had a bit; its daybook source asserts and, enabled, is pending; event 0xC3 is raised; all else stays.

FAULT_REGISTER_CLEAR clears the bits written as ones and no other; a source that no bit holds any more is deasserted, and a firing of it that was not
yet delivered is dropped.

The choices of log entry 68 in it are the model's. -/
def Obligations.FaultsAreRecordedAndCleared : Prop :=
  (∀ (s : State) (u : FaultUnit) (b extra addr : Nat), u ∈ allUnits → b < 64 →
     let t := s.raise u b extra addr
     s.Recorded t ∧ (∀ i < 64, t.bit u.reg i = (decide (i = b) || s.bit u.reg i)) ∧
     (s.reg u.reg ≠ 0 → t.reg u.cap = s.reg u.cap ∧ ∀ a, u.addr = some a → t.reg a = s.reg a) ∧
     (s.reg u.reg = 0 → u ≠ .dev → t.reg u.cap = BitVec.ofNat 64 (b + extra + s.sampleSeq * 2 ^ u.seqLo) ∧
       ∀ a, u.addr = some a → t.reg a = BitVec.ofNat 64 (addr % 2 ^ 48)) ∧
     t.reg Reg.FAULT_FIRST = (if s.noFaults then BitVec.ofNat 64 (u.reg + s.sampleSeq % 2 ^ 32 * 2 ^ 32) else s.reg Reg.FAULT_FIRST) ∧
     (∀ n ∈ u.sources b, s.srcPresent n = true → t.srcLevel n = true ∧ (s.srcEn n = true → t.srcPend n = true)) ∧
     setHas t.host.raised 0xC3 = true ∧ ∀ o, ¬ u.touches o → t.reg o = s.reg o) ∧
  (∀ (s : State) (u : FaultUnit) (v : Word), s.alive = true → u ∈ allUnits → s.regHere u.reg = true →
     ∃ t, exec (.faultRegisterClear u.reg v) s = .next t ∧ t.reg u.reg = s.reg u.reg &&& ~~~ v ∧
       (∀ b n, n ∈ u.sources b → b < 64 → v.getLsbD b = true → s.bit u.reg b = true → t.faultLevel n = false →
         t.srcLevel n = false ∧ (s.srcLevel n = true → t.srcPend n = false)) ∧
       (∀ n < 512, (∀ b < 64, v.getLsbD b = true → s.bit u.reg b = true → n ∉ u.sources b) → t.srcLevel n = s.srcLevel n ∧ t.srcPend n = s.srcPend n) ∧
       t.mem = s.mem ∧ t.cores = s.cores ∧ t.jobs = s.jobs)

/-- R430: a bit of FAULT_SUM or FAULT_CORE_c is one while its fault register has any bit set, and a bit of FAULT_SUM_CORE while that core's FAULT_CORE_c has;
a write to them does nothing; and a block that records an event while all of them are zero is named in FAULT_FIRST, with the sample's number. -/
def Obligations.FaultSummariesShowTheRegisters : Prop :=
  ∀ (s : State),
    let hub := [Reg.PWR_FAULT, Reg.MEM_FAULT, Reg.HUB_SRAM_FAULT, Reg.MEDIA_FAULT, Reg.HOST_FAULT, Reg.GIRTH_FAULT, Reg.HARN_FAULT, Reg.SRV_FAULT,
      Reg.SIDX_FAULT, Reg.SCHED_FAULT, Reg.DBK_FAULT, Reg.LEDGER_FAULT, Reg.FAULT_DEV, Reg.GUARD_FAULT]
    let unit := fun (c : Nat) => [Reg.SEQ_FAULT c, Reg.DX_FAULT c, Reg.MX_FAULT c, Reg.VX_FAULT c, Reg.SX_FAULT c, Reg.OX_FAULT c, Reg.HX_FAULT c, Reg.GX_FAULT c,
      Reg.SRAM_FAULT c]
    let clear := s.readReg Reg.FAULT_SUM = 0 ∧ s.readReg Reg.FAULT_SUM_CORE = 0 ∧ ∀ c < 32, s.readReg (Reg.FAULT_CORE c) = 0
    (∀ i < 64, (s.readReg Reg.FAULT_SUM).getLsbD i = hub[i]?.any (fun r => s.reg r != 0)) ∧
    (∀ i < 64, (s.readReg Reg.FAULT_SUM_CORE).getLsbD i = (decide (i < 32) && s.readReg (Reg.FAULT_CORE i) != 0)) ∧
    (∀ c < 32, ∀ i < 64, (s.readReg (Reg.FAULT_CORE c)).getLsbD i = (unit c)[i]?.any (fun r => s.reg r != 0)) ∧
    (∀ (v : Word) (r : Nat), s.alive = true → (r = Reg.FAULT_SUM ∨ r = Reg.FAULT_SUM_CORE ∨ ∃ c < 32, r = Reg.FAULT_CORE c) →
      exec (.registerWrite (.physical r) 8 v) s = .next s) ∧
    ∀ (u : FaultUnit) (b extra addr : Nat), u ∈ allUnits → b < 64 →
      (clear → (s.raise u b extra addr).reg Reg.FAULT_FIRST = BitVec.ofNat 64 (u.reg + s.fld Reg.PWR_SAMPLE 16 48 % 2 ^ 32 * 2 ^ 32)) ∧
      (¬ clear → (s.raise u b extra addr).reg Reg.FAULT_FIRST = s.reg Reg.FAULT_FIRST)

/-- Daybook registers: a completion ends a record, and fires its source again when it is pending or still asserted; a software source is set or cleared; a
hold and a steward's priority and mask are taken; a ring's head moves past the records read.

The choices of log entry 69 in it are the model's. -/
def Obligations.DaybookWritesAct : Prop :=
  ∀ (s : State) (v : Word), s.alive = true →
    let n := Machine.fld v 0 9
    (∃ t, exec (.dbkEoi v) s = .next t ∧ t.mem = s.mem ∧ t.cores = s.cores ∧
      (s.srcActive n = true → t.srcActive n = false ∧ t.srcPend n = (s.srcPend n || (s.srcLevel n && s.srcEn n)) ∧
        ∀ m < 512, m ≠ n → t.srcActive m = s.srcActive m ∧ t.srcPend m = s.srcPend m) ∧
      (s.srcActive n = false → t.bit Reg.DBK_FAULT 1 = true ∧ t.reg Reg.DBK_VIOL_COUNT = s.reg Reg.DBK_VIOL_COUNT + 1 ∧
        ∀ m < 512, t.srcActive m = s.srcActive m ∧ t.srcPend m = s.srcPend m)) ∧
    (320 ≤ n → n < 352 → ∃ t, exec (.dbkSoft v) s = .next t ∧ t.srcLevel n = v.getLsbD 9 ∧
      (v.getLsbD 9 = true → s.srcLevel n = false → s.srcEn n = true → t.srcPend n = true) ∧
      (v.getLsbD 9 = false → s.srcLevel n = true → t.srcPend n = false)) ∧
    (16 ≤ v.toNat / 256 % 32 → ∃ t, exec (.dbkHoldWrite v) s = .next t ∧ t = { s with regs := t.regs } ∧ t.bit Reg.DBK_CTL 0 = v.getLsbD 0 ∧
      t.fld Reg.DBK_CTL 8 5 = v.toNat / 256 % 32) ∧
    (∀ w : BitVec 3, ∃ t, exec (.stewardStuckClear w v) s = .next t ∧ t = { s with regs := t.regs } ∧ t.fld (Reg.DBK_STW w.toNat) 0 4 = v.toNat % 16 ∧
      t.bit (Reg.DBK_STW w.toNat) 4 = v.getLsbD 4 ∧ t.bit (Reg.DBK_STW w.toNat) 6 = (s.bit (Reg.DBK_STW w.toNat) 6 && !v.getLsbD 6)) ∧
    (∀ w : BitVec 3, let k := (v.toNat % 256 + 256 - s.fld (Reg.DBK_RING w.toNat) 0 8) % 256
      (k ≤ s.ringCount w.toNat → ∃ t, exec (.dbkRingHeadWrite w v) s = .next t ∧ t.fld (Reg.DBK_RING w.toNat) 0 8 = v.toNat % 256 ∧
        t.fld (Reg.DBK_RING w.toNat) 8 8 = s.fld (Reg.DBK_RING w.toNat) 8 8 ∧ t.ringCount w.toNat = s.ringCount w.toNat - k ∧
        t.dbkRing w.toNat = (s.dbkRing w.toNat).drop k ∧ ∀ x, x ≠ w.toNat → t.dbkRing x = s.dbkRing x) ∧
      (s.ringCount w.toNat < k → exec (.dbkRingHeadWrite w v) s = .next (s.addReg Reg.DBK_VIOL_COUNT 1)))

/-- DAYBOOK_DELIVER puts the record of the lowest-numbered deliverable source on its steward's ring: the source is active, no longer pending, the steward
awake; while delivery is held or nothing can be delivered, nothing happens.

STEWARD_SLEEP shows the steward asleep; STEWARD_STUCK takes a steward with unread records out of routing, empties its ring, and makes the enabled
sources of its records pending again, to be delivered with the redelivered mark.

The choices of log entry 70 in it are the model's. -/
def Obligations.RecordsReachTheStewards : Prop :=
  (∀ (s : State), s.alive = true →
     (s.bit Reg.DBK_CTL 0 = true ∨ s.nextDelivery = none → exec .daybookDeliver s = .next s) ∧
     (∀ n w, s.bit Reg.DBK_CTL 0 = false → s.nextDelivery = some (n, w) →
       s.srcPend n = true ∧ s.srcActive n = false ∧ (∀ m < n, s.srcPend m = true → s.srcActive m = true ∨ s.routeOf m = none) ∧
       ∃ t, exec .daybookDeliver s = .next t ∧ t.dbkRing w = s.dbkRing w ++ [s.dbkRecord n] ∧ (∀ x, x ≠ w → t.dbkRing x = s.dbkRing x) ∧
         t.srcPend n = false ∧ t.srcActive n = true ∧ t.ringCount w = s.ringCount w + 1 ∧
         t.fld (Reg.DBK_RING w) 8 8 = (s.fld (Reg.DBK_RING w) 8 8 + 1) % 256 ∧ t.fld (Reg.DBK_RING w) 0 8 = s.fld (Reg.DBK_RING w) 0 8 ∧
         t.reg Reg.DBK_RECORDS = s.reg Reg.DBK_RECORDS + 1 ∧ t.bit (Reg.DBK_STW w) 5 = false ∧ t.mem = s.mem ∧ t.jobs = s.jobs ∧ t.cores = s.cores)) ∧
  (∀ (s : State) (w : BitVec 3), s.alive = true →
     (s.bit Reg.DBK_CTL 0 = false → exec (.stewardSleep w) s = .next (s.setBit (Reg.DBK_STW w.toNat) 5 true)) ∧
     (s.ringCount w.toNat = 0 ∨ s.bit (Reg.DBK_STW w.toNat) 6 = true → exec (.stewardStuck w) s = .next s) ∧
     (s.ringCount w.toNat ≠ 0 → s.bit (Reg.DBK_STW w.toNat) 6 = false → (∀ r ∈ s.dbkRing w.toNat, r.source < 512) → ∃ t, exec (.stewardStuck w) s = .next t ∧
       t.bit (Reg.DBK_STW w.toNat) 6 = true ∧ t.dbkRing w.toNat = [] ∧ t.ringCount w.toNat = 0 ∧ t.bit Reg.DBK_FAULT 2 = true ∧
       (∀ r ∈ s.dbkRing w.toNat, t.srcActive r.source = false ∧
         (s.srcEn r.source = true → t.srcPend r.source = true ∧ setHas t.daybook.redel r.source = true)) ∧ t.mem = s.mem ∧ t.cores = s.cores))

/-- Writes that wait for the period boundary in their shadow, and when they are refused: shares above 1,000, rein rates above a resource's capacity or on
a port the grade lacks, a growth of the promotion pool over an allocation or during a shrink, a GIRTH_SET value that is no set.

QUARANTINE_RELEASE: each core written as one may be placed again and its residue count is zero; the others keep both.

The choices of log entry 103 in it are the model's. -/
def Obligations.PlannedWritesAndQuarantine : Prop :=
  (∀ (s : State) (v : Word), s.alive = true →
     (∀ p : BitVec 4, p.toNat < 9 → v.toNat % 1024 ≤ 1000 →
       (s.shareSum p.toNat (v.toNat % 1024) ≤ 1000 → exec (.purseCtlWrite p v) s = .next (s.setShadow (Reg.PURSE_CTL p.toNat) (v &&& 0xFFFFFFFF03FF))) ∧
       (1000 < s.shareSum p.toNat (v.toNat % 1024) → ∃ t, exec (.purseCtlWrite p v) s = .next t ∧ s.Recorded t ∧ t.bit Reg.PWR_FAULT 12 = true ∧
         ∀ o, ¬ FaultUnit.pwr.touches o → t.reg o = s.reg o)) ∧
     (∀ p : BitVec 4, p.toNat < 9 → v.toNat % 16384 ≤ 13653 → v.toNat / 65536 % 512 ≤ 341 →
       let ok := s.reinSum false 0 14 p.toNat (v &&& 0x1FF3FFF) ≤ 13653 ∧ s.reinSum false 16 9 p.toNat (v &&& 0x1FF3FFF) ≤ 341
       (ok → exec (.reinWrite false p v) s = .next (s.setShadow (Reg.SCHED_REIN p.toNat) (v &&& 0x1FF3FFF))) ∧
       (¬ ok → ∃ t, exec (.reinWrite false p v) s = .next t ∧ s.Recorded t ∧ t.bit Reg.SCHED_FAULT 1 = true)) ∧
     (∀ p : BitVec 4, p.toNat < 9 → (∀ g < 6, v.toNat / 2 ^ (8 * g) % 256 ≤ 160) →
       let ok := ∀ g < 6, s.reinSum true (8 * g) 8 p.toNat (v &&& 0xFFFFFFFFFFFF) ≤ 160 ∧ (s.hasPort g = false → v.toNat / 2 ^ (8 * g) % 256 = 0)
       (ok → exec (.reinWrite true p v) s = .next (s.setShadow (Reg.SCHED_GREIN p.toNat) (v &&& 0xFFFFFFFFFFFF))) ∧
       (¬ ok → ∃ t, exec (.reinWrite true p v) s = .next t ∧ s.Recorded t ∧ t.bit Reg.SCHED_FAULT 1 = true)) ∧
     (v.toNat % 64 ≤ 32 →
       let lo := poolBase (v.toNat % 64)
       let clash := s.bit Reg.DRAM_POOL_CTL 8 = true ∨ ∃ r ∈ s.allRuns, r.2.2 ≠ 0 ∧ lo < r.2.1 + r.2.2 ∧ r.2.1 < lo + (s.placeEnd - lo)
       (clash → exec (.poolSizeWrite v) s = .next s) ∧ (¬ clash → exec (.poolSizeWrite v) s = .next (s.setShadow Reg.DRAM_POOL_CTL (v &&& 0x3F)))) ∧
     (let dx := v.toNat / 2 % 128
      let dy := v.toNat / 2 ^ 8 % 128
      let dz := v.toNat / 2 ^ 15 % 128
      1 ≤ dx → dx ≤ 64 → 1 ≤ dy → dy ≤ 64 → 1 ≤ dz → dz ≤ 64 →
       let ok := dx * dy * dz ≤ 2048 ∧ v.toNat / 2 ^ 22 % 64 < dx ∧ v.toNat / 2 ^ 28 % 64 < dy ∧ v.toNat / 2 ^ 34 % 64 < dz ∧
         (s.fuse.grade = 2 → dy = 1 ∧ dz = 1)
       (ok → exec (.girthSetWrite v) s = .next (s.setShadow Reg.GIRTH_SET (v &&& 0xFFFF00FFFFFFFFFF))) ∧
       (¬ ok → ∃ t, exec (.girthSetWrite v) s = .next t ∧ s.Recorded t ∧ t.bit Reg.GIRTH_FAULT 7 = true)) ∧
     exec (.ledgerTestArm v) s = .next (s.setShadow Reg.LEDGER_TEST (v &&& 0x1FF07))) ∧
  (∀ (s : State) (v : Word), s.alive = true → ∃ t, exec (.quarantineRelease v) s = .next t ∧ t = { s with regs := t.regs } ∧
     (∀ c < 32, t.bit Reg.FAULT_QUARANTINE c = (s.bit Reg.FAULT_QUARANTINE c && !v.getLsbD c) ∧
       t.reg (Reg.FAULT_RESIDUE c) = (if v.getLsbD c then 0 else s.reg (Reg.FAULT_RESIDUE c))) ∧
     ∀ o, o ≠ Reg.FAULT_QUARANTINE → (∀ c < 32, o ≠ Reg.FAULT_RESIDUE c) → t.reg o = s.reg o)

/-! ### Purses, jobs and memory pools -/

/-- Every operation on a purse (a charge, a reservation, its release, a refill) moves energy between its accounts and loses none of it, and each charge spends
the whole microjoules that its energy and the residue come to and keeps the rest.

The choices of log entry 84 in it are the model's. -/
def Obligations.PurseOperationsKeepTheBalance : Prop :=
  ∀ (s : State) (p : Nat), p < 9 →
    (∀ (n : Option NHdr) (i count : Nat), i < 11 → ∃ uj, let t := s.charge p n i count
      s.residue p + count * s.fld (Reg.PWR_COEF i) 0 48 * s.fld Reg.PWR_CAL 0 16 = ujUnits * uj + t.residue p ∧
      t.reg (Reg.PURSE_SPENT p) = s.reg (Reg.PURSE_SPENT p) + BitVec.ofNat 64 uj ∧ ∀ q < 9, t.purseGap q = s.purseGap q) ∧
    (∀ (n : Option NHdr) (uj q : Nat), q < 9 → (s.spend p n uj).purseGap q = s.purseGap q) ∧
    (∀ (uj q : Nat), q < 9 → (s.reserve p uj).purseGap q = s.purseGap q) ∧
    (∀ (n : NHdr) (j : Job) (q : Nat), s.job? n = some j → j.part < 9 → q < 9 → (s.release n).purseGap q = s.purseGap q) ∧
    ∀ q < 9, (State.refill p s).purseGap q = s.purseGap q

/-- STEP_ADMIT at the head of a partition's queue, every core at rest: a step whose energy is there is admitted, its energy moved to reserved and its cores
entered at the step's entry with the counters and generators of a new step; one that waits only holds the queue; one above cover fails its job.

STEP_ADMIT of a PRES at the head: covered and there, its energy is reserved and its request's status word is 0; above cover nothing is reserved and the
word is 1. Either way the instruction is done and leaves the queue.

The choices of log entries 20, 23 and 104 in it are the model's. -/
def Obligations.AdmissionFollowsThePurse : Prop :=
  (∀ (s : State) (p : PartId), s.Still →
     (s.host.psPhase ≠ .operational → exec (.stepAdmit p) s = .next s) ∧
     (s.host.psPhase = .operational → s.fifoOf p.toNat = [] → exec (.stepAdmit p) s = .next s) ∧
     (∀ e rest, s.host.psPhase = .operational → s.fifoOf p.toNat = e :: rest → e.uj ≤ s.cover p.toNat → s.remaining p.toNat < e.uj →
       exec (.stepAdmit p) s = .next (s.headLevel p.toNat) ∧ (s.headLevel p.toNat).srcLevel (176 + p.toNat) = true) ∧
     (∀ j d rest, s.host.psPhase = .operational → s.fifoOf p.toNat = .step j.n d :: rest → s.HasJob j → j.part = p.toNat → j.phase = .queued →
       d ≤ s.cover p.toNat → (d : Int) ≤ s.remaining p.toNat → (∀ c ∈ j.cores, (j.prog.steps.getD j.step (0, 0)).1 < (s.core c).codeLen) →
       ∃ t, exec (.stepAdmit p) s = .next t ∧ t.fifoOf p.toNat = rest ∧
         t.reg (Reg.PURSE_LEVEL p.toNat) = s.reg (Reg.PURSE_LEVEL p.toNat) - BitVec.ofNat 64 d ∧
         t.reg (Reg.PURSE_RESERVED p.toNat) = s.reg (Reg.PURSE_RESERVED p.toNat) + BitVec.ofNat 64 d ∧
         t.job? j.n = some { j with reserved := j.reserved + d, phase := .running } ∧
         (∀ r (hr : r < j.cores.length), t.core j.cores[r] = (s.core j.cores[r]).enter j r) ∧ (∀ c, c ∉ j.cores → t.core c = s.core c) ∧
         t.mem = s.mem ∧ t.host.out.take s.host.out.length = s.host.out) ∧
     (∀ j d rest, s.host.psPhase = .operational → s.fifoOf p.toNat = .step j.n d :: rest → s.HasJob j → j.part = p.toNat → j.phase = .queued →
       s.cover p.toNat < d → s.serving.reqs = [] → j.rings = 0 → s.bindingOf j.part = none → (∀ c ∈ j.cores, (s.core c).busy = []) → (∀ v ∈ s.saved, v.job ≠ j.n) →
       ∃ t, exec (.stepAdmit p) s = .next t ∧ t.job? j.n = none ∧ (∀ c ∈ j.cores, (t.core c).job = none ∧ (t.core c).run = .idle) ∧
         s.Posted t ⟨j.n, 7, 0xC2, j.spent % 2 ^ 32, j.spent / 2 ^ 32 % 2 ^ 32, []⟩ ∧ (∀ e ∈ t.fifoOf p.toNat, e ∈ rest) ∧ t.mem = s.mem)) ∧
  (∀ (s : State) (p : PartId) (n : Option NHdr) (c d a : Nat) (rest : List FifoEntry), s.Still → s.host.psPhase = .operational →
     s.fifoOf p.toNat = .pres n c d a :: rest → s.saved = [] → c < 32 → (s.core c).MergeOk → (s.core c).flipped = [] → a % 64 = 0 → a < sramSize →
     s.touchesWindow c a 4 = false →
     let done := fun (t : State) (status : Nat) => t.fifoOf p.toNat = rest ∧ t.sramBytes c a 4 = leBytes 4 status ∧
       (t.core c).busy = (s.core c).busy.map (fun b => if b.wait == .pres then { b with wait := .done } else b) ∧
       (∀ x, x < sramSize → x < a ∨ a + 4 ≤ x → t.sramByte c x = s.sramByte c x) ∧ ∀ k, k ≠ c → t.core k = s.core k
     (s.cover p.toNat < d → ∃ t, exec (.stepAdmit p) s = .next t ∧ done t 1 ∧ t.reg (Reg.PURSE_LEVEL p.toNat) = s.reg (Reg.PURSE_LEVEL p.toNat)) ∧
     (d ≤ s.cover p.toNat → (d : Int) ≤ s.remaining p.toNat → ∃ t, exec (.stepAdmit p) s = .next t ∧ done t 0 ∧
       t.reg (Reg.PURSE_LEVEL p.toNat) = s.reg (Reg.PURSE_LEVEL p.toNat) - BitVec.ofNat 64 d ∧
       t.reg (Reg.PURSE_RESERVED p.toNat) = s.reg (Reg.PURSE_RESERVED p.toNat) + BitVec.ofNat 64 d))

/-- JOB_PLACE puts the first waiting job on the lowest idle cores of its partition, cleared and at the job's code, and queues its first step; a job that
does not fit holds back the later ones; a partition that is not enabled gets nothing.

The choices of log entries 20, 21 and 193 in it are the model's. -/
def Obligations.PlacementTakesTheLowestIdleCores : Prop :=
  ∀ (s : State) (p : PartId),
    (s.bit (Reg.SCHED_PART p.toNat) 0 = false → exec (.jobPlace p) s = .next s) ∧
    (∀ j, s.oldestOut p.toNat (s.idleCores p.toNat) = none → s.jobs.find? (fun j => j.part == p.toNat && j.phase == .waiting) = some j →
      (s.idleCores p.toNat).length < j.prog.ncores → exec (.jobPlace p) s = .next s) ∧
    (∀ j, s.bit (Reg.SCHED_PART p.toNat) 0 = true → s.oldestOut p.toNat (s.idleCores p.toNat) = none →
      s.jobs.find? (fun j => j.part == p.toNat && j.phase == .waiting) = some j → s.job? j.n = some j → j.serving = false → j.rings = 0 →
      j.prog.ncores ≤ (s.idleCores p.toNat).length →
      let cs := (s.idleCores p.toNat).take j.prog.ncores
      let d := (j.prog.steps.getD j.step (0, 0)).2
      ∃ t, exec (.jobPlace p) s = .next t ∧ t.job? j.n = some { j with cores := cs, phase := .queued, declared := d } ∧
        t.fifoOf p.toNat = s.fifoOf p.toNat ++ [.step j.n d] ∧
        (∀ c ∈ cs, (t.core c).job = some j.n ∧ (t.core c).run = .idle ∧ (t.core c).queue = [] ∧ (t.core c).codeBase = j.prog.base ∧
          (t.core c).codeLen = j.prog.len ∧ t.reg (Reg.OX_SEED c) = j.seed ∧ ∀ o, o < sramSize → t.sramByte c o = 0) ∧
        (∀ c, c ∉ cs → (t.core c).job = (s.core c).job ∧ (t.core c).run = (s.core c).run)) ∧
    (∀ j, s.bit (Reg.SCHED_PART p.toNat) 0 = true → s.oldestOut p.toNat (s.idleCores p.toNat) = some j → s.job? j.n = some j →
      ∃ t, exec (.jobPlace p) s = .next t ∧ t.job? j.n = some { j with phase := .loading } ∧ ∀ c ∈ j.cores, (t.core c).job = some j.n)

/-- SLICE_EXPIRY: without a slice, or with no job to switch out, nothing happens; without room for its contexts the fault is recorded; else the first
switchable job that holds what a waiting one could use stops on all its cores.

SWITCH_DEFER_END empties the merge buffers of the leaving job's cores, and SWITCH_OUT_COMPLETE saves each core's context (its counters, generators,
tokens and loops, and every byte and mark of its SRAM) and leaves the core idle and clear; where a transaction is outstanding neither happens yet, and the
saving waits while the partition's DRAM rein is at zero.

SWITCH_IN_COMPLETE gives each core of the incoming job back what its context holds, and the job goes on as what it was; the reload
waits while the partition's DRAM rein is at zero.

The choices of log entries 85, 86, 87 and 176 in it are the model's. -/
def Obligations.SwitchingSavesAndRestores : Prop :=
  (∀ (s : State) (p : PartId),
     (s.fld (Reg.SCHED_PART p.toNat) 1 6 = 0 ∨ s.jobs.find? (fun j => j.part == p.toNat && s.switchable j && s.wanted j) = none →
       exec (.sliceExpiry p) s = .next s) ∧
     (∀ j, s.fld (Reg.SCHED_PART p.toNat) 1 6 ≠ 0 → s.jobs.find? (fun j => j.part == p.toNat && s.switchable j && s.wanted j) = some j →
       (s.fld (Reg.SCHED_CTX p.toNat) 0 8 < s.ctxUsed p.toNat + j.cores.length → exec (.sliceExpiry p) s = .next (s.raise .sched 2 (p.toNat * 2 ^ 8))) ∧
       (s.ctxUsed p.toNat + j.cores.length ≤ s.fld (Reg.SCHED_CTX p.toNat) 0 8 → s.job? j.n = some j →
         ∃ t, exec (.sliceExpiry p) s = .next t ∧ t.job? j.n = some { j with phase := .stopping, back := j.phase } ∧
           (∀ c ∈ j.cores, (t.core c).run = .switchedOut ∧ (t.core c).prefetch = [] ∧ (t.core c).ctr = (s.core c).ctr ∧ (t.core c).index = (s.core c).index) ∧
           (∀ c, c ∉ j.cores → t.core c = s.core c) ∧ t.mem = s.mem))) ∧
  (∀ (s : State) (p : PartId),
     (s.parking p.toNat = none → exec (.switchDeferEnd p) s = .next s ∧ exec (.switchOutComplete p) s = .next s) ∧
     (∀ j, s.parking p.toNat = some j → s.HasJob j → (∀ c ∈ j.cores, (s.core c).MergeOk ∧ (s.core c).flipped = []) →
       (∃ t, exec (.switchDeferEnd p) s = .next t ∧ t.jobs = s.jobs ∧
         ∀ c ∈ j.cores, (t.core c).merge = [] ∧ ∀ o, o < sramSize → memByte t.mem (sramBase c + o) = s.sramByte c o) ∧
       (s.reinOpen p.toNat .dram = false → exec (.switchOutComplete p) s = .next s) ∧
       (s.reinOpen p.toNat .dram = true →
       ∃ t, exec (.switchOutComplete p) s = .next t ∧ (∃ k, t.job? j.n = some k ∧ k.phase = .out ∧ k.cores = j.cores ∧ k.back = j.back) ∧
         t.reg (Reg.SCHED_SWITCHES p.toNat) = s.reg (Reg.SCHED_SWITCHES p.toNat) + 1 ∧
         (∀ c ∈ j.cores, (t.core c).job = none ∧ (t.core c).run = .idle ∧ (∀ o, o < sramSize → t.sramByte c o = 0) ∧
           ∃ v ∈ t.saved, v.job = j.n ∧ v.core = c ∧ v.saved.index = (s.core c).index ∧ v.saved.levels = (s.core c).levels ∧ v.saved.ctr = (s.core c).ctr ∧
             v.saved.cmp = (s.core c).cmp ∧ v.saved.agBase = (s.core c).agBase ∧ v.saved.agInc = (s.core c).agInc ∧ v.saved.tok = (s.core c).tok ∧
             ((s.core c).flipPend = [] → (∀ o, o < sramSize → memByte v.bytes (sramBase c + o) = s.sramByte c o) ∧
               ∀ l, sramBase c ≤ 64 * l → 64 * l < sramBase c + sramSize → (l ∈ v.poison ↔ l ∈ s.poison))) ∧
         ((∀ c ∈ j.cores, (s.core c).streams = []) → ∀ c, c ∉ j.cores → t.core c = s.core c)))) ∧
  (∀ (s : State) (p : PartId),
     (s.jobs.find? (fun j => j.part == p.toNat && j.phase == .loading) = none ∨ s.reinOpen p.toNat .dram = false → exec (.switchInComplete p) s = .next s) ∧
     (∀ j, s.jobs.find? (fun j => j.part == p.toNat && j.phase == .loading) = some j → s.HasJob j → s.reinOpen p.toNat .dram = true → j.back ≠ .dying → j.frames = [] →
       let mine := s.saved.filter (fun v => v.job == j.n)
       mine.map SavedCtx.core = j.cores →
       (∀ v ∈ mine, v.saved.job = some j.n ∧ v.saved.queue = [] ∧ v.saved.held = none ∧ v.saved.index < v.saved.codeLen ∧ Memory.wf v.bytes = true ∧
         ∀ e ∈ v.bytes, sramBase v.core ≤ e.1 ∧ e.1 < sramBase v.core + sramSize) →
       ∃ t, exec (.switchInComplete p) s = .next t ∧ t.saved = s.saved.filter (fun v => v.job != j.n) ∧
         (∃ k, t.job? j.n = some k ∧ k.phase = j.back ∧ k.cores = j.cores) ∧
         (∀ v ∈ mine, (∀ o, o < sramSize → t.sramByte v.core o = memByte v.bytes (sramBase v.core + o)) ∧
           (t.core v.core).job = some j.n ∧ (t.core v.core).index = v.saved.index ∧ (t.core v.core).levels = v.saved.levels ∧
           (t.core v.core).ctr = v.saved.ctr ∧ (t.core v.core).cmp = v.saved.cmp ∧ (t.core v.core).agBase = v.saved.agBase ∧
           (t.core v.core).agInc = v.saved.agInc ∧ (t.core v.core).tok = v.saved.tok ∧
           (j.back = .running → v.saved.ended = false → (t.core v.core).run = .running)) ∧
         ∀ c, c ∉ j.cores → t.core c = { s.core c with lace := (t.core c).lace, filled := (t.core c).filled }))

/-- PROMOTION_COPY_DONE makes a page that was being copied resident, unless it has become poisoned; POOL_ZEROING_DONE leaves the frames given up by a shrink
zero and without a mark, and the new limit waiting for the boundary; elsewhere memory keeps every byte.

DRAM_SCRUB reads the next line: a corrected error is counted, an uncorrectable one marks the line poisoned and is recorded; a clean line, or one that is
poisoned already, only moves the scrubber on. No byte of memory changes.

The choices of log entries 97 and 98 in it are the model's. -/
def Obligations.PoolAndScrubKeepMemory : Prop :=
  (∀ (s : State),
     (∀ page, setHas s.weight.copying page = false ∨ s.houseMoves = false → exec (.promotionCopyDone page) s = .next s) ∧
     (∀ page a, setHas s.weight.copying page = true → s.houseMoves = true → s.attached page = some a →
       ∃ t, exec (.promotionCopyDone page) s = .next t ∧ t.mem = s.mem ∧ setHas t.weight.copying page = false ∧
         (s.pagePoisoned a page = false → setHas t.weight.resident page = true ∧ t.reg Reg.PROMO_IN_COUNT = s.reg Reg.PROMO_IN_COUNT + 1 ∧
           ∀ o, o ≠ Reg.PROMO_IN_COUNT → ¬ purseMoves 8 o → t.reg o = s.reg o) ∧
         (s.pagePoisoned a page = true → setHas t.weight.resident page = false)) ∧
     (s.bit Reg.DRAM_POOL_CTL 8 = false ∨ s.weight.limitAfter ≠ none → exec .poolZeroingDone s = .next s) ∧
     (s.bit Reg.DRAM_POOL_CTL 8 = true → s.weight.limitAfter = none →
       let lo := s.dramLimit + 1
       let hi := poolBase (s.fld Reg.DRAM_POOL_CTL 0 6)
       ∃ t, exec .poolZeroingDone s = .next t ∧ t.weight = { s.weight with limitAfter := some (hi - 1) } ∧
         (∀ a, memByte t.mem a = if lo ≤ a ∧ a < lo + (hi - lo) then 0 else memByte s.mem a) ∧
         (∀ l ∈ t.poison, l * 64 < lo ∨ hi ≤ l * 64) ∧ ∀ o, ¬ purseMoves 8 o → t.reg o = s.reg o)) ∧
  (∀ (s : State) (out : LineOutcome),
     let a := dramBase + 64 * s.scrubAt
     (s.alive = false ∨ s.bit Reg.DRAM_SCRUB_CTL 0 = false ∨ s.reinOpen 8 .dram = false → exec (.dramScrub out) s = .next s) ∧
     (s.alive = true → s.bit Reg.DRAM_SCRUB_CTL 0 = true → s.reinOpen 8 .dram = true →
       ∃ t, exec (.dramScrub out) s = .next t ∧ t.scrubAt = (s.scrubAt + 1) % dramLines ∧ t.mem = s.mem ∧
         (s.poisoned (a / 64) = false → out = .corrected → t.poison = s.poison ∧ t.reg Reg.DRAM_CE_COUNT = s.reg Reg.DRAM_CE_COUNT + 1) ∧
         (s.poisoned (a / 64) = false → out = .uncorrectable → t.poisoned (a / 64) = true ∧ t.reg Reg.DRAM_UE_COUNT = s.reg Reg.DRAM_UE_COUNT + 1 ∧
           t.bit Reg.MEM_FAULT 1 = true) ∧
         (s.poisoned (a / 64) = true ∨ out = .clean ∨ out = .hostError → t.poison = s.poison ∧ ∀ o, ¬ purseMoves 8 o → t.reg o = s.reg o)))

/-! ### Host commands and controllers -/

/-- The way in of every host command: what cannot be fetched does nothing; on the wrong kind of queue, in PS3 or PS4, during a sanitize, from a function without
a partition, on a name space that is not attached or that owes a deferred error it meets that; otherwise it has its own effect.

The choices of log entries 43, 114, 136 and 137 in it are the model's. -/
def Obligations.HostCommandsReachTheirEffect : Prop :=
  ∀ (s : State) (n : NHdr) (i : Instr), hostHdr i = some n →
    let u := s.fetchFrom n
    let ready := s.canFetch n = true ∧ (anyQueue i || isAdmin n == adminCmd i) = true
    (s.canFetch n = false → exec i s = .next s) ∧
    (s.canFetch n = true → (anyQueue i || isAdmin n == adminCmd i) = false → exec i s = .next (u.complete n 0 1)) ∧
    (ready → ∀ ps, s.host.psPhase = .low ps → exec i s = .next { u with host := { u.host with delayed := u.host.delayed ++ [i], psPhase := .exiting } }) ∧
    (ready → s.host.psPhase = .operational → s.host.sanitizing = true → sanitizeOk i = false → exec i s = .next (u.complete n 0 0x1D)) ∧
    (ready → s.host.psPhase = .operational → s.host.sanitizing = false → isAdmin n = false → physCtrl (nctrl n) = false → s.vfPart (nctrl n) = none →
      exec i s = .next (u.complete n 0 2)) ∧
    (ready → s.host.psPhase = .operational → s.host.sanitizing = false → (isAdmin n || physCtrl (nctrl n) || (s.vfPart (nctrl n)).isSome) = true →
      (∃ d ∈ ioNs i, s.nsOf n d = none) → exec i s = .next (u.complete n 0 0x0B)) ∧
    (∀ d, ready → s.host.psPhase = .operational → s.host.sanitizing = false → (isAdmin n || physCtrl (nctrl n) || (s.vfPart (nctrl n)).isSome) = true →
      ioNs i = [d] → (s.nsOf n d).isSome = true → s.owesError n d = true →
      ∃ t, exec i s = .next t ∧ s.Posted t ⟨n, 7, 0xCE, 0, 0, []⟩ ∧ t.owesError n d = false ∧ t.bit Reg.HOST_FAULT 3 = true ∧
        t.reg Reg.HOST_DEFERRED = s.reg Reg.HOST_DEFERRED + 1) ∧
    (s.Accepts n i → exec i s = .next (u.hostEffect i))

/-- Doorbells and queues: a doorbell moves the tail or the head of its queue, when the value lies inside it; Create adds a queue and Delete takes it away,
each with the status the NVMe specifications give to a wrong one.

The choices of log entries 43, 114 and 115 in it are the model's. -/
def Obligations.QueuesComeAndGo : Prop :=
  (∀ (s : State) (k : BitVec 8) (qid v : BitVec 16) (q : Queue), s.alive = true → (s.ctrl k.toNat).enabled = true → k.toNat < 130 →
    ((s.ctrl k.toNat).sq? qid.toNat = some q → ∃ t, exec (.doorbellWrite k false qid v) s = .next t ∧ s.HostOnly t ∧
      (t.ctrl k.toNat).sq? qid.toNat = some (if v.toNat < q.size then { q with tail := v.toNat } else q) ∧
      ∀ x, x ≠ qid.toNat → (t.ctrl k.toNat).sq? x = (s.ctrl k.toNat).sq? x) ∧
    ((s.ctrl k.toNat).cq? qid.toNat = some q → ∃ t, exec (.doorbellWrite k true qid v) s = .next t ∧ s.HostOnly t ∧
      (t.ctrl k.toNat).cq? qid.toNat = some (if v.toNat < q.size then { q with head := v.toNat } else q) ∧
      ∀ x, x ≠ qid.toNat → (t.ctrl k.toNat).cq? x = (s.ctrl k.toNat).cq? x)) ∧
  (∀ (s : State) (n : NHdr) (cq : Bool) (qid size cqid : BitVec 16), s.Accepts n (.createIoQueue n cq qid size cqid) →
    let c := s.ctrl (nctrl n)
    let has := fun (c : Ctrl) (x : Nat) => if cq then c.cq? x else c.sq? x
    let bad := qid = 0 ∨ 512 < qid.toNat ∨ has c qid.toNat ≠ none
    let ends := fun (x : Completion) (q : Option Queue) => ∃ t, exec (.createIoQueue n cq qid size cqid) s = .next t ∧ s.HostOnly t ∧ s.Posted t x ∧
      has (t.ctrl (nctrl n)) qid.toNat = q
    (bad → ∃ t, exec (.createIoQueue n cq qid size cqid) s = .next t ∧ s.HostOnly t ∧ s.Posted t ⟨n, 1, 1, 0, 0, []⟩) ∧
    (¬ bad → size = 0 → ends ⟨n, 1, 2, 0, 0, []⟩ none) ∧
    (¬ bad → size ≠ 0 → cq = false → cqid = 0 ∨ c.cq? cqid.toNat = none → ends ⟨n, 1, 0, 0, 0, []⟩ none) ∧
    (¬ bad → size ≠ 0 → cq = true ∨ (cqid ≠ 0 ∧ c.cq? cqid.toNat ≠ none) →
      ends ⟨n, 0, 0, 0, 0, []⟩ (some { qid := qid.toNat, size := size.toNat + 1, cqid := cqid.toNat }))) ∧
  (∀ (s : State) (n : NHdr) (cq : Bool) (qid : BitVec 16), s.Accepts n (.deleteIoQueue n cq qid) →
    let c := s.ctrl (nctrl n)
    let has := fun (c : Ctrl) (x : Nat) => if cq then c.cq? x else c.sq? x
    let used := cq = true ∧ c.sqs.any (fun q => q.cqid == qid.toNat && q.qid != 0) = true
    (qid = 0 ∨ has c qid.toNat = none → ∃ t, exec (.deleteIoQueue n cq qid) s = .next t ∧ s.HostOnly t ∧ s.Posted t ⟨n, 1, 1, 0, 0, []⟩) ∧
    (qid ≠ 0 → has c qid.toNat ≠ none → used → ∃ t, exec (.deleteIoQueue n cq qid) s = .next t ∧ s.HostOnly t ∧ s.Posted t ⟨n, 1, 0x0C, 0, 0, []⟩) ∧
    (qid ≠ 0 → has c qid.toNat ≠ none → ¬ used → ∃ t, exec (.deleteIoQueue n cq qid) s = .next t ∧ s.HostOnly t ∧ s.Posted t ⟨n, 0, 0, 0, 0, []⟩ ∧
      has (t.ctrl (nctrl n)) qid.toNat = none))

/-- Identify, features, the Timestamp, log pages, events, Keep Alive, the self-test and power states, and what is not supported: each answers what the spec
states, and Set Features is what Get Features then reports.

The choices of log entries 43, 44, 45 and 107 in it are the model's. -/
def Obligations.AdminCommandsAnswer : Prop :=
  ∀ (s : State) (n : NHdr),
    (∀ ns, s.Accepts n (.identify n 1 ns) → ∃ t, exec (.identify n 1 ns) s = .next t ∧ s.HostOnly t ∧ s.Posted t ⟨n, 0, 0, 0, 0, s.identCtrl (nctrl n)⟩ ∧
      (s.identCtrl (nctrl n)).length = 4096 ∧ ((s.identCtrl (nctrl n)).drop 24).take 10 = s.gradeName) ∧
    (∀ cns ns, s.Accepts n (.identify n cns ns) → 0x1F < cns.toNat → ∃ t, exec (.identify n cns ns) s = .next t ∧ s.HostOnly t ∧ s.Posted t ⟨n, 0, 2, 0, 0, []⟩) ∧
    (∀ fid, s.Accepts n (.getFeatures n fid) → ∃ t, exec (.getFeatures n fid) s = .next t ∧ s.HostOnly t ∧
      (fid.toNat ∉ featureIds → s.Posted t ⟨n, 0, 2, 0, 0, []⟩) ∧
      (fid.toNat ∈ featureIds → fid ≠ 2 → fid ≠ 7 → fid ≠ 0xE → s.Posted t ⟨n, 0, 0, (sget (0 : BitVec 32) (s.ctrl (nctrl n)).feats fid.toNat).toNat, 0, []⟩) ∧
      (fid = 2 → s.Posted t ⟨n, 0, 0, s.host.ps, 0, []⟩) ∧ (fid = 7 → s.Posted t ⟨n, 0, 0, 511 + 511 * 65536, 0, []⟩) ∧
      (fid = 0xE → s.Posted t ⟨n, 0, 0, 0, 0, leBytes 6 s.host.stamp ++ [if s.host.origin then 2 else 0, 0]⟩)) ∧
    (∀ fid v, s.Accepts n (.setFeatures n fid v) → ∃ t, exec (.setFeatures n fid v) s = .next t ∧ s.HostOnly t ∧
      (fid.toNat ∉ featureIds ∨ fid = 2 ∨ fid = 0xE → s.Posted t ⟨n, 0, 2, 0, 0, []⟩) ∧
      (fid.toNat ∈ featureIds → fid ≠ 2 → fid ≠ 0xE → sget (0 : BitVec 32) (t.ctrl (nctrl n)).feats fid.toNat = v ∧
        s.Posted t ⟨n, 0, 0, if fid = 7 then 511 + 511 * 65536 else 0, 0, []⟩)) ∧
    (∀ ms, s.Accepts n (.timestamp n ms) → ∃ t, exec (.timestamp n ms) s = .next t ∧ s.HostOnly t ∧ t.host.stamp = ms.toNat ∧ t.host.origin = true ∧
      s.Posted t ⟨n, 0, 0, 0, 0, []⟩) ∧
    (∀ lid rae off len, s.Accepts n (.getLogPage n lid rae off len) → ∃ t, exec (.getLogPage n lid rae off len) s = .next t ∧
      (s.logPage lid.toNat = none → s.Posted t ⟨n, 1, 9, 0, 0, []⟩) ∧
      (lid ≠ 0xD3 → ∀ p, s.logPage lid.toNat = some p → off ≤ p.length → s.Posted t ⟨n, 0, 0, 0, 0, (p.drop off).take len⟩ ∧
        (rae = false → ∀ e, eventPage e = lid.toNat → setHas t.host.raised e = false))) ∧
    (s.Accepts n (.asynchronousEventRequest n) → ∃ t, exec (.asynchronousEventRequest n) s = .next t ∧ s.HostOnly t ∧
      (16 ≤ (s.ctrl (nctrl n)).aers.length → s.srcPend (64 + portOf (nctrl n)) = false → s.Posted t ⟨n, 1, 5, 0, 0, []⟩) ∧
      ((s.ctrl (nctrl n)).aers.length < 16 → s.srcPend (64 + portOf (nctrl n)) = false → s.host.queuedEv = [] →
        (t.ctrl (nctrl n)).aers = (s.ctrl (nctrl n)).aers ++ [n.cid] ∧ t.host.out = s.host.out)) ∧
    (s.Accepts n (.keepAlive n) → ∃ t, exec (.keepAlive n) s = .next t ∧ s.HostOnly t ∧ s.Posted t ⟨n, 0, 0, 0, 0, []⟩) ∧
    (∀ code, s.Accepts n (.deviceSelfTest n code) → ∃ t, exec (.deviceSelfTest n code) s = .next t ∧ s.HostOnly t ∧
      (if code = 1 then t.host.tests = s.host.tests + 1 ∧ s.Posted t ⟨n, 0, 0, 0, 0, []⟩
       else if code = 15 then s.Posted t ⟨n, 0, 0, 0, 0, []⟩ else s.Posted t ⟨n, 0, 2, 0, 0, []⟩)) ∧
    (∀ ps, s.Accepts n (.powerManagement n ps) → ∃ t, exec (.powerManagement n ps) s = .next t ∧
      (ps.toNat ≤ 2 → Machine.fld (t.shadowOf Reg.PWR_CAP) 0 10 = (if ps = 0 then 900 else if ps = 1 then 600 else 400) ∧ t.host.ps = ps.toNat ∧
        t.host.psWait = s.host.psWait ++ [n] ∧ t.reg Reg.PWR_CAP = s.reg Reg.PWR_CAP) ∧
      (ps = 3 ∨ ps = 4 → t.host.psPhase = .entering ps.toNat ∧ s.Posted t ⟨n, 0, 0, 0, 0, []⟩) ∧ (4 < ps.toNat → s.Posted t ⟨n, 0, 2, 0, 0, []⟩)) ∧
    (∀ known, s.Accepts n (.unsupportedCommand n known) → ∃ t, exec (.unsupportedCommand n known) s = .next t ∧ s.HostOnly t ∧
      s.Posted t ⟨n, 0, if known then 2 else 1, 0, 0, []⟩)

/-- Power states, and resets of controllers, functions and ports: entry and exit, a controller whose keep-alive time is over, a controller back at reset with its
jobs gone or, while GX transactions of theirs linger, dying, a function's windows with it, a port out of its link, and NVMe-MI's answers.

The choices of log entries 135, 137 and 138 in it are the model's. -/
def Obligations.ControllersSleepAndReset : Prop :=
  ∀ (s : State),
    (∀ ps : BitVec 5, let on := s.alive = true ∧ ((sget (0 : BitVec 32) (s.ctrl 0).feats 12).getLsbD 0 || (sget (0 : BitVec 32) (s.ctrl 65).feats 12).getLsbD 0) = true ∧
        (ps = 3 ∨ ps = 4) ∧ s.host.psPhase = .operational
      (on → exec (.autonomousPowerStateTransition ps) s = .next { s with host := { s.host with psPhase := .entering ps.toNat } }) ∧
      (¬ on → exec (.autonomousPowerStateTransition ps) s = .next s)) ∧
    (∀ ps, s.host.psPhase = .entering ps → s.stepsRun = true → exec .powerStateEntryComplete s = .next s) ∧
    (∀ ps, s.host.psPhase = .entering ps → s.stepsRun = false → ∃ t, exec .powerStateEntryComplete s = .next t ∧
      t.host.psPhase = (if s.host.delayed.isEmpty then .low ps else .exiting) ∧ (ps = 3 → t = { s with host := { s.host with psPhase := t.host.psPhase } }) ∧
      (ps = 4 → (∀ g l, g < 6 → l < 6 → t.linkState g l ≠ 2) ∧ ∀ b < 4, s.bindOn b = true → t.bindBroken b = true)) ∧
    (s.host.psPhase = .exiting → s.host.delayed = [] → (∀ g l, g < 6 → l < 6 → s.linkState g l ≠ 2) →
      ∃ t, exec .powerStateExitComplete s = .next t ∧ t.host.psPhase = .operational ∧ t.mem = s.mem ∧ t.jobs = s.jobs) ∧
    (∀ k : BitVec 8, let late := s.alive = true ∧ (s.ctrl k.toNat).enabled = true ∧ sget (0 : BitVec 32) (s.ctrl k.toNat).feats 15 ≠ 0
      (late → ∃ t, exec (.keepAliveTimeout k) s = .next t ∧ s.HostOnly t ∧ t.ctrl k.toNat = { s.ctrl k.toNat with cfs := true, ready := false } ∧
        ∀ j, j ≠ k.toNat → t.ctrl j = s.ctrl j) ∧ (¬ late → exec (.keepAliveTimeout k) s = .next s)) ∧
    (∀ k : BitVec 8, k.toNat < 130 → s.alive = true → s.Still → (s.ctrl k.toNat).enabled = true →
      ∃ t, exec (.controllerReset k) s = .next t ∧ (t.ctrl k.toNat).enabled = false ∧ (t.ctrl k.toNat).ready = false ∧ (t.ctrl k.toNat).sqs = [] ∧
        (t.ctrl k.toNat).cqs = [] ∧ (t.ctrl k.toNat).aers = [] ∧ (t.ctrl k.toNat).online = (s.ctrl k.toNat).online ∧
        ((s.jobs.map Job.n).Nodup → (∀ r < 8, (s.fring r).run = none) → (∀ j ∈ t.jobs, nctrl j.n = k.toNat → j.phase = .dying) ∧
          ((∀ c, (s.core c).busy = []) → (∀ j ∈ s.jobs, j.phase ≠ .dying) → ∀ j ∈ t.jobs, nctrl j.n ≠ k.toNat))) ∧
    (∀ k : BitVec 8, k.toNat < 130 → s.alive = true → s.Asleep →
      ∃ t, exec (.functionLevelReset k) s = .next t ∧ (t.ctrl k.toNat).enabled = false ∧ (∀ w ∈ t.host.wins, w.ctrl ≠ k.toNat) ∧
        (physCtrl k.toNat = true → ∀ v ≤ 64, (t.ctrl (k.toNat + v)).enabled = false)) ∧
    (∀ p : BitVec 1, s.alive = true → s.Asleep → ∃ t, exec (.portReset p) s = .next t ∧ t.fld (Reg.HOST_PORT p.toNat) 0 9 = 0 ∧
      (∀ v ≤ 64, (t.ctrl (65 * p.toNat + v)).enabled = false) ∧ t.guard.perst = s.guard.perst.set p.toNat true) ∧
    (s.guard.phase ≠ .unpowered → 2 ≤ s.fld Reg.GUARD_BOOT 0 3 →
      let out := fun (op : MiOp) (st : Nat) (data : List Byte → Prop) => ∃ t d, exec (.nvmeMiCommand op) s = .next t ∧ s.HostOnly t ∧
        t.host.mi = s.host.mi ++ [(st, d)] ∧ data d ∧ t.regs = s.regs
      out .subsystemHealthPoll 0 (fun d => d.length = 8 ∧ d[1]? = some (BitVec.ofNat 8 s.criticalWarning)) ∧ out .vpdRead 0 (fun d => d.length = 256) ∧
      (∀ i v, out (.configSet i v) 0 (fun d => d = [])) ∧ (∀ i v, (i.toNat, v) ∈ s.host.miCfg → (s.host.miCfg.map Prod.fst).Nodup →
        out (.configGet i) 0 (fun d => d = leBytes 4 v.toNat)) ∧
      (∀ f, out (.tunnelSetFeatures f) 3 (fun d => d = [])) ∧ out .tunnelIo 3 (fun d => d = []))

/-- Abort and Virtualization Management: a command that waits, or a job, is cancelled and Abort reports it in bit 0 of DW0; a secondary controller is set
online, offline (and reset) or given its resources by a physical function alone.

The choices of log entries 43 and 139 in it are the model's. -/
def Obligations.AbortAndVirtualizationAct : Prop :=
  ∀ (s : State) (n : NHdr),
    (∀ r : CmdRef, s.Accepts n (.abort n r) →
      let x : NHdr := ⟨n.ctrl, r.sqid, r.cid⟩
      (∀ i, s.host.delayed = [i] → abortHit x i = true → ∃ t, exec (.abort n r) s = .next t ∧ t.host.delayed = [] ∧ s.Posted t ⟨x, 0, 7, 0, 0, []⟩ ∧
        s.Posted t ⟨n, 0, 0, 0, 0, []⟩) ∧
      (∀ j, s.HasJob j → j.n = x → s.host.delayed = [] → s.host.stalled = [] → ∃ t, exec (.abort n r) s = .next t ∧
        s.Posted t ⟨n, 0, 0, 0, 0, []⟩ ∧ (∀ k, t.job? x = some k → k.phase = .dying) ∧
        (j.phase ≠ .dying → (∀ c ∈ j.cores, (s.core c).busy = []) → t.job? x = none)) ∧
      (s.Asleep → s.host.delayed = [] → exec (.abort n r) s = .next ((s.fetchFrom n).complete n 0 0 1))) ∧
    (∀ (k : BitVec 8) (a : VirtAct) (nr : Nat), s.Accepts n (.virtualizationManagement n k a nr) → s.Asleep →
      let wrong := 130 ≤ k.toNat ∨ physCtrl k.toNat = true ∨ portOf k.toNat ≠ portOf (nctrl n)
      ∃ t, exec (.virtualizationManagement n k a nr) s = .next t ∧
        (physCtrl (nctrl n) = false → s.Posted t ⟨n, 0, 2, 0, 0, []⟩ ∧ t.nss = s.nss) ∧
        (physCtrl (nctrl n) = true → wrong → s.Posted t ⟨n, 1, 0x1F, 0, 0, []⟩) ∧
        (physCtrl (nctrl n) = true → ¬ wrong → a = .online → (t.ctrl k.toNat).online = true ∧ s.Posted t ⟨n, 0, 0, 0, 0, []⟩) ∧
        (physCtrl (nctrl n) = true → ¬ wrong → a = .offline → (t.ctrl k.toNat).online = false ∧ (t.ctrl k.toNat).enabled = false ∧ s.Posted t ⟨n, 0, 0, 0, 0, []⟩) ∧
        (physCtrl (nctrl n) = true → ¬ wrong → a = .setResources → (s.ctrl k.toNat).online = false → (t.ctrl k.toNat).resources = nr ∧
          s.Posted t ⟨n, 0, 0, nr, 0, []⟩))

/-! ### Name spaces -/

/-- Name spaces are created with the lowest free identifier (a memory name space in program memory that no other run occupies), attached and detached,
and deleted; each refusal has its status and changes nothing.

The choices of log entries 43, 109 and 110 in it are the model's. -/
def Obligations.NamespacesComeAndGo : Prop :=
  (∀ (s : State) (n : NHdr) (kind part : BitVec 8) (lbas bytes : Nat) (rsv : Bool), s.NsSorted → (∀ e ∈ s.nss, 1 ≤ e.1) →
    s.Accepts n (.namespaceCreate n kind part lbas bytes rsv) →
    let ask : NsAsk := ⟨kind.toNat, part.toNat, lbas, bytes, rsv⟩
    let go := fun (x : Completion) (post : State → Prop) => ∃ t, exec (.namespaceCreate n kind part lbas bytes rsv) s = .next t ∧ s.Posted t x ∧ post t
    (ask.bad s = true → go ⟨n, 0, 2, 0, 0, []⟩ (fun t => t.nss = s.nss)) ∧
    (ask.bad s = false → 256 ≤ s.nss.length → go ⟨n, 1, 0x16, 0, 0, []⟩ (fun t => t.nss = s.nss)) ∧
    (ask.bad s = false → s.nss.length < 256 → kind.toNat ≤ 4 → userLbas < s.usedLbas + lbas → go ⟨n, 1, 0x15, 0, 0, []⟩ (fun t => t.nss = s.nss)) ∧
    (ask.bad s = false → s.nss.length < 256 → kind.toNat ≤ 5 → (kind.toNat ≤ 4 → s.usedLbas + lbas ≤ userLbas) →
      ∃ id, 1 ≤ id ∧ s.ns? id = none ∧ (∀ m, 1 ≤ m → m < id → s.ns? m ≠ none) ∧
        go ⟨n, 0, 0, id, 0, []⟩ (fun t => t.ns? id = some { kind := kind.toNat, part := if kind.toNat = 5 then part.toNat else 255, lbas := lbas } ∧
          ∀ m, m ≠ id → t.ns? m = s.ns? m)) ∧
    (ask.bad s = false → s.nss.length < 256 → kind = 6 → s.findPlace part.toNat bytes ≠ none →
      ∃ id b, s.ns? id = none ∧ dramBase ≤ b ∧ b % 64 = 0 ∧ b + bytes ≤ s.dramLimit + 1 ∧ (∀ r ∈ s.allRuns, r.2.2 ≠ 0 → r.2.1 + r.2.2 ≤ b ∨ b + bytes ≤ r.2.1) ∧
        go ⟨n, 0, 0, id, 0, []⟩ (fun t => t.ns? id = some { kind := 6, part := part.toNat, base := b, bytes := bytes }))) ∧
  (∀ (s : State) (n : NHdr) (d : BitVec 32) (on : Bool) (ks : List (BitVec 8)), s.Accepts n (.namespaceAttachment n d on ks) →
    let go := fun (x : Completion) (post : State → Prop) => ∃ t, exec (.namespaceAttachment n d on ks) s = .next t ∧ s.Posted t x ∧ post t
    (s.ns? d.toNat = none → go ⟨n, 0, 0x0B, 0, 0, []⟩ (fun t => t.nss = s.nss)) ∧
    (∀ v, s.ns? d.toNat = some v → (ks = [] ∨ ∃ k ∈ ks, 130 ≤ k.toNat) → go ⟨n, 1, 0x1C, 0, 0, []⟩ (fun t => t.nss = s.nss)) ∧
    (∀ v, s.ns? d.toNat = some v → ks ≠ [] → (∀ k ∈ ks, k.toNat < 130) →
      (on = true → (∃ k ∈ ks, setHas v.ctrls k.toNat = true) → go ⟨n, 1, 0x18, 0, 0, []⟩ (fun t => t.nss = s.nss)) ∧
      (on = false → (∃ k ∈ ks, setHas v.ctrls k.toNat = false) → go ⟨n, 1, 0x1A, 0, 0, []⟩ (fun t => t.nss = s.nss)) ∧
      ((∀ k ∈ ks, setHas v.ctrls k.toNat = !on) → go ⟨n, 0, 0, 0, 0, []⟩ (fun t => ∃ w, t.ns? d.toNat = some w ∧ w = { v with ctrls := w.ctrls } ∧
        (∀ k ∈ ks, setHas w.ctrls k.toNat = on) ∧ ∀ k, (∀ x ∈ ks, x.toNat ≠ k) → setHas w.ctrls k = setHas v.ctrls k)))) ∧
  (∀ (s : State) (n : NHdr) (d : BitVec 32), s.Accepts n (.namespaceDelete n d) →
    let go := fun (x : Completion) (post : State → Prop) => ∃ t, exec (.namespaceDelete n d) s = .next t ∧ s.Posted t x ∧ post t
    (s.ns? d.toNat = none → go ⟨n, 0, 0x0B, 0, 0, []⟩ (fun t => t.nss = s.nss)) ∧
    (∀ v, s.ns? d.toNat = some v →
      let busy := s.weightBound d.toNat = true ∨ s.indexBound d.toNat = true ∨ (v.kind = 5 ∧ ∃ j ∈ s.jobs, j.prog.nsid = d.toNat)
      (busy → go ⟨n, 7, 0xCF, 0, 0, []⟩ (fun t => t.nss = s.nss)) ∧
      (¬ busy → go ⟨n, 0, 0, 0, 0, []⟩ (fun t => t.ns? d.toNat = none ∧ ∀ p ∈ t.programs, p.nsid ≠ d.toNat))))

/-- Format NVM and Sanitize: what a name space held is gone, its poisoned pages and lost extents with it, and a crypto erase takes a new key; a Sanitize
empties every name space, every memory and the pools, and goes on until its end; neither begins while something uses the data.

The choices of log entry 110 in it are the model's. -/
def Obligations.ErasingLeavesNoData : Prop :=
  (∀ (s : State) (n : NHdr) (d : BitVec 32) (crypto : Bool), s.Accepts n (.formatNvm n d crypto) → d ≠ 0xFFFFFFFF →
    let go := fun (x : Completion) (post : State → Prop) => ∃ t, exec (.formatNvm n d crypto) s = .next t ∧ s.Posted t x ∧ post t
    (s.ns? d.toNat = none → go ⟨n, 0, 0x0B, 0, 0, []⟩ (fun t => t.nss = s.nss)) ∧
    (∀ v, s.ns? d.toNat = some v →
      (4 < v.kind → go ⟨n, 1, 0x0A, 0, 0, []⟩ (fun t => t.nss = s.nss)) ∧
      (v.kind ≤ 4 → s.weightBound d.toNat = true ∨ s.indexBound d.toNat = true → go ⟨n, 7, 0xCF, 0, 0, []⟩ (fun t => t.nss = s.nss)) ∧
      (v.kind ≤ 4 → v.kind ≠ 2 → s.weightBound d.toNat = false → s.indexBound d.toNat = false → go ⟨n, 0, 0, 0, 0, []⟩ (fun t =>
        (∃ w, t.ns? d.toNat = some w ∧
          w = { v with data := [], mapped := [], lost := [], zones := [], deferOn := [], ppa := w.ppa, keyGen := v.keyGen + (if crypto then 1 else 0) } ∧
          ∀ u, setHas v.mapped u = true → w.home u = 0) ∧
        (∀ k ∈ t.weight.poisoned, k / 2 ^ 25 ≠ d.toNat) ∧ (∀ e ∈ t.host.d2, e.nsid ≠ d.toNat) ∧ ∀ m, m ≠ d.toNat → t.ns? m = s.ns? m)))) ∧
  (∀ (s : State) (n : NHdr) (crypto : Bool), s.Accepts n (.formatNvm n 0xFFFFFFFF crypto) →
    (∃ e ∈ s.nss, e.2.kind ≤ 4 ∧ (s.weightBound e.1 = true ∨ s.indexBound e.1 = true)) ∨ s.jobs ≠ [] →
    ∃ t, exec (.formatNvm n 0xFFFFFFFF crypto) s = .next t ∧ s.Posted t ⟨n, 7, 0xCF, 0, 0, []⟩ ∧ t.nss = s.nss) ∧
  (∀ (s : State) (n : NHdr) (be : Bool), s.Accepts n (.sanitize n be) →
    let used := s.weight.attached ≠ [] ∨ (∃ e ∈ s.search.idx, s.indexOpen e.1 = true) ∨ s.jobs ≠ []
    let go := fun (x : Completion) (post : State → Prop) => ∃ t, exec (.sanitize n be) s = .next t ∧ s.Posted t x ∧ post t
    (be = false → go ⟨n, 0, 2, 0, 0, []⟩ (fun t => t.nss = s.nss ∧ t.mem = s.mem)) ∧
    (be = true → used → go ⟨n, 7, 0xCF, 0, 0, []⟩ (fun t => t.nss = s.nss ∧ t.mem = s.mem)) ∧
    (be = true → ¬ used → s.NsSorted → go ⟨n, 0, 0, 0, 0, []⟩ (fun t => t.host.sanitizing = true ∧ t.host.d2 = [] ∧ t.weight.poisoned = [] ∧ t.serving.pools = [] ∧
      (∀ id v, s.ns? id = some v → v.kind ≤ 4 → v.kind ≠ 2 → ∃ w, t.ns? id = some w ∧ w.data = [] ∧ w.mapped = [] ∧ w.lost = [] ∧ w.kind = v.kind ∧ w.lbas = v.lbas) ∧
      (s.media.writes = [] → ∀ id v a, s.ns? id = some v → v.kind = 6 → v.base ≤ a → a < v.base + v.bytes → memByte t.mem a = 0)))) ∧
  (∀ (s : State), s.alive = true → s.media.mounted = true → s.host.sanitizing = true → s.host.stalled = [] → s.host.psPhase = .operational →
    exec .sanitizeComplete s = .next { s with host := { s.host with sanitizing := false, sanitized := true } })

/-- Read, Compare, Verify, Write, Write Zeroes, Deallocate and Flush on a conventional name space inside its size: data read are what was stored, with an
Unrecovered Read Error where a block is lost; what is written or given up changes those blocks alone.

The choices of log entries 43, 116 and 118 in it are the model's. -/
def Obligations.BlocksHoldWhatIsWritten : Prop :=
  ∀ (s : State) (n : NHdr) (d : BitVec 32) (v : Nspace) (a : Nat), s.ns? d.toNat = some v → v.kind = 0 →
    let good := fun nlb => ∀ i < nlb, setHas v.lost (a + i) = false
    let read := fun (i : Instr) (nlb : Nat) (ok : Completion) => s.Accepts n i → 1 ≤ nlb → nlb ≤ 512 →
      (v.lbas < a + nlb → ∃ t, exec i s = .next t ∧ s.Posted t ⟨n, 0, 0x80, 0, 0, []⟩ ∧ t.nss = s.nss) ∧
      (a + nlb ≤ v.lbas → good nlb → ∃ t, exec i s = .next t ∧ s.Posted t ok ∧ t.nss = s.nss ∧ t.mem = s.mem) ∧
      (a + nlb ≤ v.lbas → ¬ good nlb → ∃ t, exec i s = .next t ∧ s.Posted t ⟨n, 2, 0x81, 0, 0, []⟩ ∧ t.nss = s.nss ∧ t.media.errors = s.media.errors + 1)
    (∀ nlb, read (.read n d a nlb) nlb ⟨n, 0, 0, 0, 0, memBytes v.data (4096 * a) (4096 * nlb)⟩) ∧
    (∀ nlb, read (.verify n d a nlb) nlb ⟨n, 0, 0, 0, 0, []⟩) ∧
    (∀ data : List Byte, data.length % 4096 = 0 → read (.compare n d a data) (data.length / 4096)
      (if memBytes v.data (4096 * a) data.length = data then ⟨n, 0, 0, 0, 0, []⟩ else ⟨n, 2, 0x85, 0, 0, []⟩)) ∧
    (∀ (i : Instr) (data : List Byte), i = .write n d a data ∨ (∃ k, i = .writeZeroes n d a k ∧ data = List.replicate (k * 4096) 0) → s.Accepts n i →
      data.length % 4096 = 0 → 1 ≤ data.length / 4096 → data.length / 4096 ≤ 512 →
      (v.lbas < a + data.length / 4096 → ∃ t, exec i s = .next t ∧ s.Posted t ⟨n, 0, 0x80, 0, 0, []⟩ ∧ t.nss = s.nss) ∧
      (a + data.length / 4096 ≤ v.lbas → s.mediaRo = true → ∃ t, exec i s = .next t ∧ s.Posted t ⟨n, 0, 0x20, 0, 0, []⟩ ∧ t.nss = s.nss) ∧
      (a + data.length / 4096 ≤ v.lbas → s.mediaRo = false → ∃ t w, exec i s = .next t ∧ s.Posted t ⟨n, 0, 0, 0, 0, []⟩ ∧ t.ns? d.toNat = some w ∧
        memBytes w.data (4096 * a) data.length = data ∧ (∀ x, x < 4096 * a ∨ 4096 * a + data.length ≤ x → memByte w.data x = memByte v.data x) ∧
        (∀ b, setHas w.lost b = (setHas v.lost b && (decide (b < a) || decide (a + data.length / 4096 ≤ b)))) ∧ (∀ m, m ≠ d.toNat → t.ns? m = s.ns? m) ∧
        t.mem = s.mem)) ∧
    (∀ k, s.Accepts n (.deallocate n d [(a, k)]) → a + k ≤ v.lbas → s.mediaRo = false →
      ∃ t w, exec (.deallocate n d [(a, k)]) s = .next t ∧ s.Posted t ⟨n, 0, 0, 0, 0, []⟩ ∧ t.ns? d.toNat = some w ∧
        (∀ x, memByte w.data x = if 4096 * a ≤ x ∧ x < 4096 * a + 4096 * k then 0 else memByte v.data x) ∧
        (∀ u, setHas w.mapped u = (setHas v.mapped u && !(decide (a ≤ 4 * u) && decide (4 * u + 4 ≤ a + k))))) ∧
    (s.Accepts n (.flush n d) → ∃ t, exec (.flush n d) s = .next t ∧ s.Posted t ⟨n, 0, 0, 0, 0, []⟩ ∧ t.nss = s.nss)

/-- Zones of a zoned name space: Append and a Write at the pointer store there and move it on, a Write elsewhere is refused; Open, Close, Finish, Reset and
Offline change the zone's state as it allows, and Zone Management Receive reports.

The choices of log entries 43 and 105 in it are the model's. -/
def Obligations.ZonesFollowTheirState : Prop :=
  ∀ (s : State) (n : NHdr) (d : BitVec 32) (v : Nspace) (z : Nat), s.ns? d.toNat = some v → v.kind = 1 → z * 524288 < v.lbas →
    let w := v.zone z
    let a := z * 524288
    let here := a + w.wp
    let active := (v.zones.filter (fun z => z.2.active)).length
    let room := w.st = .empty → active < 256
    let went := fun (i : Instr) (x : Completion) (post : Nspace → Prop) => ∃ t u, exec i s = .next t ∧ s.Posted t x ∧ t.ns? d.toNat = some u ∧ post u ∧
      (∀ y, y ≠ z → u.zone y = v.zone y) ∧ ∀ m, m ≠ d.toNat → t.ns? m = s.ns? m
    let ok : Completion := ⟨n, 0, 0, 0, 0, []⟩
    let put := fun (data : List Byte) (u : Nspace) => (u.zone z).wp = w.wp + data.length / 4096 ∧ memBytes u.data (4096 * here) data.length = data ∧
      (u.zone z).st = (if 524288 ≤ w.wp + data.length / 4096 then .full else if w.st = .explicitlyOpen then .explicitlyOpen else .implicitlyOpen)
    let writes := fun (data : List Byte) => data.length % 4096 = 0 ∧ 1 ≤ data.length / 4096 ∧ data.length / 4096 ≤ 512 ∧ s.mediaRo = false
    (∀ data, s.Accepts n (.zoneAppend n d a data) → writes data → w.st ≠ .full → w.st ≠ .offline →
      (524288 < w.wp + data.length / 4096 → went (.zoneAppend n d a data) ⟨n, 1, 0xB8, 0, 0, []⟩ (fun u => u = v)) ∧
      (w.wp + data.length / 4096 ≤ 524288 → ¬ room → went (.zoneAppend n d a data) ⟨n, 1, 0xBD, 0, 0, []⟩ (fun u => u = v)) ∧
      (w.wp + data.length / 4096 ≤ 524288 → room → went (.zoneAppend n d a data) ⟨n, 0, 0, here % 2 ^ 32, here / 2 ^ 32, []⟩ (put data))) ∧
    (∀ x data, s.Accepts n (.write n d x data) → writes data → x / 524288 = z → x + data.length / 4096 ≤ v.lbas → w.st ≠ .full → w.st ≠ .offline →
      (x ≠ here → went (.write n d x data) ⟨n, 1, 0xBC, 0, 0, []⟩ (fun u => u = v)) ∧
      (x = here → w.wp + data.length / 4096 ≤ 524288 → room → went (.write n d x data) ok (put data))) ∧
    (s.Accepts n (.zoneOpen n d a) → (w.st = .full ∨ w.st = .offline → went (.zoneOpen n d a) ⟨n, 1, 0xBF, 0, 0, []⟩ (fun u => u = v)) ∧
      (w.st ≠ .full → w.st ≠ .offline → room → went (.zoneOpen n d a) ok (fun u => u.zone z = { w with st := .explicitlyOpen } ∧ u.data = v.data))) ∧
    (s.Accepts n (.zoneClose n d a) → (w.st = .empty ∨ w.st = .full ∨ w.st = .offline → went (.zoneClose n d a) ⟨n, 1, 0xBF, 0, 0, []⟩ (fun u => u = v)) ∧
      (w.st = .implicitlyOpen ∨ w.st = .explicitlyOpen → went (.zoneClose n d a) ok (fun u => u.zone z = { w with st := if w.wp = 0 then .empty else .closed }))) ∧
    (s.Accepts n (.zoneFinish n d a) → w.st ≠ .offline → room → went (.zoneFinish n d a) ok (fun u => u.zone z = { w with st := .full } ∧ u.data = v.data)) ∧
    (s.Accepts n (.resetZone n d a) → w.st ≠ .offline → s.mediaRo = false → went (.resetZone n d a) ok (fun u => (u.zone z).st = .empty ∧ (u.zone z).wp = 0 ∧
      ∀ x, 4096 * a ≤ x → x < 4096 * (a + 524288) → memByte u.data x = 0)) ∧
    (s.Accepts n (.zoneOffline n d a) → w.st ≠ .offline →
      (s.mediaRo = false → went (.zoneOffline n d a) ⟨n, 1, 0xBF, 0, 0, []⟩ (fun u => u = v)) ∧
      (s.mediaRo = true → went (.zoneOffline n d a) ok (fun u => (u.zone z).st = .offline))) ∧
    (∀ k, s.Accepts n (.zoneManagementReceive n d a k) → ∃ t r, exec (.zoneManagementReceive n d a k) s = .next t ∧ t.nss = s.nss ∧ s.Posted t ⟨n, 0, 0, 0, 0, r⟩ ∧
      leNat (r.take 8) = ((v.lbas + 524287) / 524288 - z) % 2 ^ 64 ∧ r.length = 64 + 64 * min ((v.lbas + 524287) / 524288 - z) k)

/-- The weight range and host windows: Attach Weight maps a whole weight name space where the range is free, Detach gives it up, Weight Page Rewrite with a good
read-back heals its page, and Set Host Window waits for the period boundary.

The choices of log entries 112, 120 and 121 in it are the model's. -/
def Obligations.RangesAreAttached : Prop :=
  ∀ (s : State) (n : NHdr) (d : BitVec 32),
    (∀ (base : BitVec 25) (rsv : Bool) (v : Nspace), s.Accepts n (.attachWeight n d base rsv) → s.ns? d.toNat = some v →
      let k := v.lbas / 512
      let bad := rsv = true ∨ v.kind ≠ 3 ∨ s.weightBound d.toNat = true ∨ 33554432 < base.toNat + k ∨
        ∃ x ∈ s.weight.attached, base.toNat < x.base + x.pages ∧ x.base < base.toNat + k
      (bad → ∃ t, exec (.attachWeight n d base rsv) s = .next t ∧ s.Posted t ⟨n, 0, 2, 0, 0, []⟩ ∧ t.weight = s.weight) ∧
      (¬ bad → ∃ t, exec (.attachWeight n d base rsv) s = .next t ∧ s.Posted t ⟨n, 0, 0, 0, 0, []⟩ ∧
        t.weight = { s.weight with attached := s.weight.attached ++ [⟨d.toNat, base.toNat, k⟩] })) ∧
    (∀ v x, s.Accepts n (.detachWeight n d false) → s.ns? d.toNat = some v → s.weight.attached.find? (fun x => x.nsid == d.toNat) = some x →
      ((∃ j ∈ s.jobs, s.nsOfPart v j.part = true) → ∃ t, exec (.detachWeight n d false) s = .next t ∧ s.Posted t ⟨n, 7, 0xCF, 0, 0, []⟩ ∧ t.weight = s.weight) ∧
      ((∀ j ∈ s.jobs, s.nsOfPart v j.part = false) → ∃ t, exec (.detachWeight n d false) s = .next t ∧ s.Posted t ⟨n, 0, 0, 0, 0, []⟩ ∧
        (∀ y ∈ t.weight.attached, y.nsid ≠ d.toNat) ∧ ∀ p, x.base ≤ p → p < x.base + x.pages → setHas t.weight.resident p = false)) ∧
    (∀ (a : Nat) (data : List Byte) (v : Nspace), s.Accepts n (.weightPageRewrite n d a data true) → s.ns? d.toNat = some v → v.kind = 3 → a % 512 = 0 →
      data.length = 512 * 4096 → a + 512 ≤ v.lbas → s.mediaRo = false →
      ∃ t w, exec (.weightPageRewrite n d a data true) s = .next t ∧ s.Posted t ⟨n, 0, 0, 0, 0, []⟩ ∧ setHas t.weight.poisoned (wkey d.toNat (a / 512)) = false ∧
        t.ns? d.toNat = some w ∧ memBytes w.data (4096 * a) data.length = data ∧ (w.zone (a / 512)).st = .full ∧ (w.zone (a / 512)).wp = 512) ∧
    (∀ (a : Nat) (data : List Byte) (v : Nspace), s.Accepts n (.weightPageRewrite n d a data false) → s.ns? d.toNat = some v → v.kind = 3 → a % 512 = 0 →
      data.length = 512 * 4096 → a + 512 ≤ v.lbas → s.mediaRo = false →
      ∃ t, exec (.weightPageRewrite n d a data false) s = .next t ∧ s.Posted t ⟨n, 2, 0x80, 0, 0, []⟩ ∧ t.nss = s.nss ∧ t.weight = s.weight) ∧
    (∀ (w : BitVec 4) (len : BitVec 24) (start bus : BitVec 64), s.Accepts n (.setHostWindow n w true len start bus false) →
      let x : HostWin := ⟨nctrl n, w.toNat, start.toNat, len.toNat * 4096, bus.toNat⟩
      let bad := len = 0 ∨ start.toNat % 4096 ≠ 0 ∨ bus.toNat % 4096 ≠ 0 ∨ 2 ^ 47 < start.toNat + len.toNat * 4096
      (bad → ∃ t, exec (.setHostWindow n w true len start bus false) s = .next t ∧ s.Posted t ⟨n, 0, 2, 0, 0, []⟩ ∧ t.host.winSets = s.host.winSets) ∧
      (¬ bad → s.plannedWins = [] → ∃ t, exec (.setHostWindow n w true len start bus false) s = .next t ∧ t.host.winSets = s.host.winSets ++ [⟨n, x⟩] ∧
        t.host.wins = s.host.wins))

/-- Memory Read, Write and Copy and range sets on memory name spaces complete: bytes move as asked, up to the first poisoned line, which fails the command; a
line in a running frame's slot or closed to writes keeps its bytes; outside the name space the field is invalid; a range set is created once and deleted
once.

The choices of log entries 43 and 126 in it are the model's. -/
def Obligations.MemoryCommandsMoveBytes : Prop :=
  (∀ (s : State) (n : NHdr) (d : BitVec 32) (v : Nspace), s.ns? d.toNat = some v → v.kind = 6 →
    let free := fun (p : Nat × List Byte) => s.busySlot? p.1 p.2.length = none ∧ s.readOnly p.1 p.2.length = false
    let stored := fun (t : State) (a : Nat) (bs : List Byte) =>
      (∀ p ∈ linePieces (bs.length + 1) a bs, (free p → memBytes t.mem p.1 p.2.length = p.2) ∧
        (¬ free p → memBytes t.mem p.1 p.2.length = memBytes s.mem p.1 p.2.length)) ∧
      ((∀ p ∈ linePieces (bs.length + 1) a bs, free p) → memBytes t.mem a bs.length = bs) ∧
      ∀ x, x < a ∨ a + bs.length ≤ x → memByte t.mem x = memByte s.mem x
    let clean := fun (a len m : Nat) => m ≤ len ∧ (∀ x, a ≤ x → x < a + m → s.poisoned (x / 64) = false) ∧ (m < len → s.poisoned ((a + m) / 64) = true)
    let answer := fun (len m : Nat) (bs : List Byte) => (⟨n, if m = len then 0 else 7, if m = len then 0 else 0xC3, 0, 0, bs⟩ : Completion)
    (∀ off len, s.Accepts n (.memoryRead n d off len) →
      (v.bytes < off + len → ∃ t, exec (.memoryRead n d off len) s = .next t ∧ s.Posted t ⟨n, 0, 2, 0, 0, []⟩ ∧ t.mem = s.mem) ∧
      (off + len ≤ v.bytes → ∃ t m, exec (.memoryRead n d off len) s = .next t ∧ t.mem = s.mem ∧ clean (v.base + off) len m ∧
        s.Posted t (answer len m (memBytes s.mem (v.base + off) m)))) ∧
    (∀ off (data : List Byte), s.Accepts n (.memoryWrite n d off data) →
      (v.bytes < off + data.length → ∃ t, exec (.memoryWrite n d off data) s = .next t ∧ s.Posted t ⟨n, 0, 2, 0, 0, []⟩ ∧ t.mem = s.mem) ∧
      (off + data.length ≤ v.bytes →
        ∃ t, exec (.memoryWrite n d off data) s = .next t ∧ s.Posted t ⟨n, 0, 0, 0, 0, []⟩ ∧ stored t (v.base + off) data)) ∧
    (∀ (e : BitVec 32) (w : Nspace) doff soff len, s.ns? e.toNat = some w → w.kind = 6 → s.Accepts n (.memoryCopy n d doff e soff len) →
      (v.bytes < doff + len ∨ w.bytes < soff + len →
        ∃ t, exec (.memoryCopy n d doff e soff len) s = .next t ∧ s.Posted t ⟨n, 0, 2, 0, 0, []⟩ ∧ t.mem = s.mem) ∧
      (doff + len ≤ v.bytes → soff + len ≤ w.bytes → ∃ t m, exec (.memoryCopy n d doff e soff len) s = .next t ∧ clean (w.base + soff) len m ∧
        s.Posted t (answer len m []) ∧ stored t (v.base + doff) (memBytes s.mem (w.base + soff) m)))) ∧
  (∀ (s : State) (n : NHdr) (k : BitVec 16) (rs : List (BitVec 32 × Nat × Nat)),
      let has := s.host.ranges.any (fun e => e.1 == k.toNat)
      let good := rs ≠ [] ∧ ∀ r ∈ rs, ∃ u, s.nsOf n r.1 = some u ∧ u.kind = 6 ∧ r.2.1 + r.2.2 ≤ u.bytes
      (s.Accepts n (.memoryRangeSetManagement n true k rs) → has = false → good →
        ∃ t, exec (.memoryRangeSetManagement n true k rs) s = .next t ∧ s.Posted t ⟨n, 0, 0, 0, 0, []⟩ ∧ sget [] t.host.ranges k.toNat = rs) ∧
      (s.Accepts n (.memoryRangeSetManagement n true k rs) → has = true ∨ ¬ good → ∃ t, exec (.memoryRangeSetManagement n true k rs) s = .next t ∧
        s.Posted t ⟨n, 0, 2, 0, 0, []⟩ ∧ t.host.ranges = s.host.ranges) ∧
      (s.Accepts n (.memoryRangeSetManagement n false k rs) → ∃ t, exec (.memoryRangeSetManagement n false k rs) s = .next t ∧
        t.host.ranges.any (fun e => e.1 == k.toNat) = false ∧ s.Posted t ⟨n, 0, if has then 0 else 2, 0, 0, []⟩))

/-! ### Programs, indexes, serving and frames -/

/-- Load Program, activation and Execute Program: an image that passes R186 is copied, measured and entered, inactive, and every instruction cache is empty; one
that does not is refused and remembered; an active program started with a right header becomes a job that waits, its arguments in its own region.

The choices of log entries 16, 122 and 123 in it are the model's. -/
def Obligations.ProgramsLoadAndStart : Prop :=
  ∀ (s : State) (n : NHdr) (d : BitVec 32) (p : BitVec 16) (v : Nspace), s.ns? d.toNat = some v →
    (∀ (ty : BitVec 8) (b : List Byte), s.Accepts n (.loadProgram n d p ty b) →
      let go := fun (x : Completion) (post : State → Prop) => ∃ t, exec (.loadProgram n d p ty b) s = .next t ∧ s.Posted t x ∧ post t
      let used := s.jobs.any (fun j => j.prog.nsid == d.toNat && j.prog.index == p.toNat)
      let m := Image.ofBytes b
      (v.kind ≠ 5 → go ⟨n, 0, 1, 0, 0, []⟩ (fun t => t.programs = s.programs ∧ t.mem = s.mem)) ∧
      (v.kind = 5 → used = true ∨ (b ≠ [] ∧ ty ≠ 0xC1) → go ⟨n, 0, 2, 0, 0, []⟩ (fun t => t.programs = s.programs ∧ t.mem = s.mem)) ∧
      (v.kind = 5 → used = false → b = [] → go ⟨n, 0, 0, 0, 0, []⟩ (fun t => t.program? d.toNat p.toNat = none)) ∧
      (v.kind = 5 → used = false → b ≠ [] → ty = 0xC1 → s.imageBad b = true →
        go ⟨n, 7, 0xC4, 0, 0, []⟩ (fun t => (d.toNat, p.toNat) ∈ t.host.refusedImg ∧ t.programs = s.programs ∧ t.mem = s.mem)) ∧
      (v.kind = 5 → used = false → b ≠ [] → ty = 0xC1 → s.imageBad b = false → s.guard.log.length < 512 →
        (s.unload d.toNat p.toNat).findPlace v.part (up64 (16 * m.code) + m.dataLen) ≠ none →
        go ⟨n, 0, 0, 0, 0, []⟩ (fun t => (d.toNat, p.toNat) ∉ t.host.refusedImg ∧ (∀ c, (t.core c).icache = []) ∧ t.guard.log.length = s.guard.log.length + 1 ∧
          ∃ g, t.program? d.toNat p.toNat = some g ∧ g.part = v.part ∧ g.len = m.code ∧ g.ncores = m.ncores ∧ g.flags = m.flags ∧ g.steps = m.table b ∧
            g.active = false ∧ g.base % 64 = 0 ∧ memBytes t.mem g.base (16 * m.code) = (b.drop m.codeAt).take (16 * m.code) ∧
            memBytes t.mem g.data m.dataLen = (b.drop m.dataAt).take m.dataLen))) ∧
    (∀ on, s.Accepts n (.programActivationManagement n d p on) →
      (s.program? d.toNat p.toNat = none →
        ∃ t, exec (.programActivationManagement n d p on) s = .next t ∧ s.Posted t ⟨n, 0, 2, 0, 0, []⟩ ∧ t.programs = s.programs) ∧
      (∀ g, s.program? d.toNat p.toNat = some g → ∃ t, exec (.programActivationManagement n d p on) s = .next t ∧ s.Posted t ⟨n, 0, 0, 0, 0, []⟩ ∧
        t.program? d.toNat p.toNat = some { g with active := on } ∧ ∀ a b, (a ≠ d.toNat ∨ b ≠ p.toNat) → t.program? a b = s.program? a b)) ∧
    (∀ b : List Byte, s.Accepts n (.executeProgram n d p b) → v.kind = 5 →
      let go := fun (post : State → Prop) => ∃ t, exec (.executeProgram n d p b) s = .next t ∧ t.programs = s.programs ∧ post t
      let h := JobHdr.ofBytes b
      ((d.toNat, p.toNat) ∈ s.host.refusedImg → go (fun t => s.Posted t ⟨n, 7, 0xC4, 0, 0, []⟩ ∧ t.jobs = s.jobs ∧ t.mem = s.mem)) ∧
      ((d.toNat, p.toNat) ∉ s.host.refusedImg → s.program? d.toNat p.toNat = none → go (fun t => s.Posted t ⟨n, 0, 2, 0, 0, []⟩ ∧ t.jobs = s.jobs ∧ t.mem = s.mem)) ∧
      (∀ g, (d.toNat, p.toNat) ∉ s.host.refusedImg → s.program? d.toNat p.toNat = some g →
        let bad := g.active = false ∨ s.namedPart n h.part ≠ g.part ∨ h.rsv = true ∨ 1 < h.flags ∨ b.length < 64 + h.argLen ∨
          s.bit (Reg.SCHED_PART g.part) 0 = false ∨ (s.partCores g.part).length < g.ncores ∨ (s.job? n).isSome = true ∨
          ∃ r ∈ bitsOf 8 h.rings, s.ringTaken g.part g.steps.length r = true
        (bad → go (fun t => s.Posted t ⟨n, 0, 2, 0, 0, []⟩ ∧ t.jobs = s.jobs ∧ t.mem = s.mem)) ∧
        (¬ bad → s.findPlace g.part h.region = none → go (fun t => s.Posted t ⟨n, 7, 0xD1, 0, 0, []⟩ ∧ t.jobs = s.jobs ∧ t.mem = s.mem)) ∧
        (¬ bad → s.findPlace g.part h.region ≠ none → go (fun t => ∃ j, t.jobs = s.jobs ++ [j] ∧
          j = { n := n, part := g.part, prog := g, serving := h.flags.testBit 0, rings := h.rings, seed := h.seed, argBase := j.argBase, argLen := h.argLen } ∧
          j.argBase % 64 = 0 ∧ memBytes t.mem j.argBase h.argLen = (b.drop 64).take h.argLen ∧
          (∀ x, x < j.argBase ∨ j.argBase + h.argLen ≤ x → memByte t.mem x = memByte s.mem x) ∧
          ∀ r < 8, (t.fring r).job = if h.rings.testBit r then some n else (s.fring r).job))))

/-- Open Index takes the header's shape and epoch and copies the index's codes to DRAM, or refuses a wrong header with its status; Close Index turns the index to
closing and INDEX_CLOSE_COMPLETE, with no query bound, gives it up and completes the command.

The choices of log entries 34 and 127 in it are the model's. -/
def Obligations.IndexesOpenAndClose : Prop :=
  (∀ (s : State) (n : NHdr) (d : BitVec 32) (q : BitVec 4) (p : PartId) (a : BitVec 64) (fs : List (BitVec 8)) (rsv : Bool) (v : Nspace),
    s.Accepts n (.openIndex n d q p a fs rsv) → s.ns? d.toNat = some v →
    let go := fun (x : Completion) (post : State → Prop) => ∃ t, exec (.openIndex n d q p a fs rsv) s = .next t ∧ s.Posted t x ∧ post t
    let b := memBytes v.data 0 4096
    let gs := (fs.filter (· != 0xFF)).map BitVec.toNat
    let odd := rsv = true ∨ 8 < fs.length ∨ s.indexOpen q.toNat = true ∨ s.indexBound d.toNat = true
    let bad := setHas v.lost 0 = true ∨ hdrBad b v.lbas = true ∨ (∃ f ∈ gs, hdrField b 72 1 ≤ f) ∨
      s.copiesBad (s.namedPart n p.toNat) a.toNat (hdrCopies b gs.length) = true
    (v.kind ≠ 4 → go ⟨n, 0, 1, 0, 0, []⟩ (fun t => t.search = s.search)) ∧
    (v.kind = 4 → odd → go ⟨n, 0, 2, 0, 0, []⟩ (fun t => t.search = s.search)) ∧
    (v.kind = 4 → ¬ odd → bad → go ⟨n, 7, 0xCB, 0, 0, []⟩ (fun t => t.search = s.search)) ∧
    (v.kind = 4 → ¬ odd → ¬ bad → go ⟨n, 0, 0, 0, 0, []⟩ (fun t => t.indexOpen q.toNat = true ∧ t.closing q.toNat = false ∧ t.prevHeld q.toNat = false ∧
      t.epoch q.toNat = hdrField b 12 4 ∧ t.slots q.toNat = hdrField b 16 8 ∧ t.dim q.toNat = hdrField b 8 2 ∧
      t.idx? q.toNat = some { nsid := d.toNat, filters := gs } ∧ t.reg (Reg.SIDX_DBASE q.toNat) = a ∧ t.reg (Reg.SIDX_BOUND q.toNat) = 0 ∧
      ∀ i < 32 * hdrField b 16 8, memByte t.mem (a.toNat + i) = memByte v.data (hdrField b 32 8 * 4096 + i)))) ∧
  (∀ (s : State) (n : NHdr) (d : BitVec 32) (q : BitVec 4) (v : Nspace) (x : Idx), s.Accepts n (.closeIndex n d q false) → s.OnIdx d q.toNat v x →
    ∃ t, exec (.closeIndex n d q false) s = .next t ∧ t.closing q.toNat = true ∧ t.idx? q.toNat = some { x with waiting := [], closer := some n } ∧
      ∀ w ∈ x.waiting.filterMap waitHdr, s.Posted t ⟨w, 7, 0xCD, 0, 0, []⟩) ∧
  (∀ (s : State) (q : BitVec 4) (x : Idx), s.alive = true → s.idx? q.toNat = some x →
    (s.closing q.toNat = false ∨ s.reg (Reg.SIDX_BOUND q.toNat) ≠ 0 → exec (.indexCloseComplete q) s = .next s) ∧
    (s.closing q.toNat = true → s.reg (Reg.SIDX_BOUND q.toNat) = 0 → ∃ t, exec (.indexCloseComplete q) s = .next t ∧ t.idx? q.toNat = none ∧
      t.indexOpen q.toNat = false ∧ t.reg (Reg.SIDX_STATE q.toNat) = 0 ∧ t.reg (Reg.SIDX_SHAPE q.toNat) = 0 ∧ t.reg (Reg.SIDX_DBASE q.toNat) = 0 ∧
      t.mem = s.mem ∧ ∀ n, x.closer = some n → s.Posted t ⟨n, 0, 0, 0, 0, []⟩))

/-- Update, Compact and Advance on an open index whose previous epoch is held, or behind an earlier one, wait in order and STAGING_START runs what it can; else
the operations of an Update are staged for the next epoch alone, the first refused one reporting its place, Compact is staged, and Advance makes the next
epoch current.

The choices of log entries 128, 129 and 130 in it are the model's. -/
def Obligations.IndexChangesAreStaged : Prop :=
  ∀ (s : State) (n : NHdr) (d : BitVec 32) (q : BitVec 4) (v : Nspace) (x : Idx), s.OnIdx d q.toNat v x →
    let free := s.prevHeld q.toNat = false ∧ x.waiting = []
    let b := (s.fetchFrom n).beginStaging q.toNat
    let opsBad := fun (o : IndexOps) => o.rsv = true ∨ o.ops = [] ∨ 65536 < o.ops.length ∨ o.ops.any (s.indexOpBad q.toNat) = true
    let go := fun (i : Instr) (y : Completion) (post : State → Prop) => ∃ t, exec i s = .next t ∧ s.Posted t y ∧ post t
    (∀ o, s.Accepts n (.updateIndex n d q o) →
      (opsBad o → go (.updateIndex n d q o) ⟨n, 0, 2, 0, 0, []⟩ (fun t => t.mem = s.mem ∧ t.nss = s.nss)) ∧
      (¬ opsBad o → s.mediaRo = true → go (.updateIndex n d q o) ⟨n, 0, 0x20, 0, 0, []⟩ (fun t => t.mem = s.mem ∧ t.nss = s.nss)) ∧
      (¬ opsBad o → s.mediaRo = false → free →
        let r := State.stageOps q.toNat 0 o.ops b
        let staged := fun (t : State) => t.nss = s.nss ∧ t.mem = r.2.mem ∧ t.staging q.toNat = true ∧ t.epoch q.toNat = s.epoch q.toNat
        (r.1 = none → go (.updateIndex n d q o) ⟨n, 0, 0, 0, 0, []⟩ staged) ∧
        ∀ k, r.1 = some k → k < o.ops.length ∧
          go (.updateIndex n d q o) ⟨n, 7, 0xCB, k, 0, []⟩ (fun t => staged t ∧ t.bit Reg.SIDX_FAULT 1 = true))) ∧
    (∀ w : Nat, s.Accepts n (.updateIndex n d q ⟨[.delete w], false⟩) → s.mediaRo = false → free →
      (w < s.slots q.toNat → b.nextLive q.toNat w = true → go (.updateIndex n d q ⟨[.delete w], false⟩) ⟨n, 0, 0, 0, 0, []⟩ (fun t =>
        t.nextLive q.toNat w = false ∧ t.epoch q.toNat = s.epoch q.toNat ∧ ∀ z, z ≠ w → t.nextLive q.toNat z = b.nextLive q.toNat z)) ∧
      (s.slots q.toNat ≤ w ∨ b.nextLive q.toNat w = false →
        go (.updateIndex n d q ⟨[.delete w], false⟩) ⟨n, 7, 0xCB, 0, 0, []⟩ (fun t => t.mem = b.mem ∧ t.bit Reg.SIDX_FAULT 1 = true))) ∧
    (∀ (w : Nat) (gid : BitVec 64) (code rec_ vec : List Byte), let op : IndexOp := .insert w gid code rec_ vec
      s.Accepts n (.updateIndex n d q ⟨[op], false⟩) → s.mediaRo = false → free → s.indexOpBad q.toNat op = false →
      w < s.slots q.toNat → b.slotIsFree q.toNat w = true → b.edgesOk q.toNat w rec_ = true →
      go (.updateIndex n d q ⟨[op], false⟩) ⟨n, 0, 0, 0, 0, []⟩ (fun t => t.nextLive q.toNat w = true ∧
        memBytes t.mem (s.indexAt q.toNat 0 + 32 * w) 32 = code ∧ t.nss = s.nss)) ∧
    (s.Accepts n (.compactIndex n d q false) → free →
      go (.compactIndex n d q false) ⟨n, 0, 0, 0, 0, []⟩ (fun t => t.staging q.toNat = true ∧ t.nss = s.nss)) ∧
    (s.Accepts n (.advanceEpoch n d q false) → free →
      (s.epoch q.toNat = 0xFFFFFFFE → go (.advanceEpoch n d q false) ⟨n, 7, 0xCB, 0, 0, []⟩ (fun t => t.nss = s.nss)) ∧
      (s.epoch q.toNat < 0xFFFFFFFE → go (.advanceEpoch n d q false) ⟨n, 0, 0, s.epoch q.toNat + 1, 0, []⟩ (fun t =>
        t.epoch q.toNat = s.epoch q.toNat + 1 ∧ t.staging q.toNat = false ∧ t.prevHeld q.toNat = decide (0 < s.fld (Reg.SIDX_BOUND q.toNat) 0 32) ∧
        (∃ w, t.ns? d.toNat = some w ∧ memBytes w.data 12 4 = leBytes 4 (s.epoch q.toNat + 1)) ∧ t.idx? q.toNat = some { x with staged := [] }))) ∧
    (∀ i, i = .advanceEpoch n d q false ∨ i = .compactIndex n d q false ∨ (∃ o, i = .updateIndex n d q o ∧ ¬ opsBad o ∧ s.mediaRo = false) →
      s.Accepts n i → ¬ free →
      ∃ t, exec i s = .next t ∧ t.nss = s.nss ∧ t.mem = s.mem ∧ t.idx? q.toNat = some { x with waiting := x.waiting ++ [i] } ∧
        (i = .advanceEpoch n d q false → t.bit (Reg.SIDX_STATE q.toNat) 6 = true)) ∧
    (s.alive = true → (s.prevHeld q.toNat = true ∨ x.waiting = [] → exec (.stagingStart q) s = .next s) ∧
      (s.prevHeld q.toNat = false → x.waiting ≠ [] → ∃ t y, exec (.stagingStart q) s = .next t ∧ t.idx? q.toNat = some y ∧
        y.waiting.length < x.waiting.length ∧ (y.waiting = [] ∨ t.prevHeld q.toNat = true)))

/-- Search on an open index, with or without a filter of its own: at an epoch that is not held it says so; else it answers with what the walk found and ranked,
or with the poison the walk met; nothing that the host could read back changes. A sharded one needs a whole set, and is run with the other members.

The choices of log entries 131 and 132 in it are the model's. -/
def Obligations.SearchAnswersWithWhatItFinds : Prop :=
  ∀ (s : State) (n : NHdr) (d : BitVec 32) (q : BitVec 4) (buf : List Byte) (v : Nspace), s.Accepts n (.search n d q buf) → s.ns? d.toNat = some v →
    let u := s.fetchFrom n
    let a := SearchAsk.ofBytes buf (u.dim q.toNat)
    let p := u.fld (Reg.SIDX_STATE q.toNat) 1 3
    let e := if a.epoch = 0xFFFFFFFF then u.epoch q.toNat else a.epoch
    let short := buf.length < max (a.inputLen (u.dim q.toNat) (u.slots q.toNat)) (64 + 16 * a.k)
    let odd := a.sharded = true ∧ (a.epoch = 0xFFFFFFFF ∨ u.bit (Reg.GIRTH_GROUP a.group) 0 = false ∨ u.me ∉ u.groupMembers a.group)
    let refused := short ∨ odd ∨ (a.block q.toNat 0).rsv = true
    let ends := fun (sct sc : Nat) (out : List Byte) (mem : List Host.Cell) => ∃ t d0 d1, exec (.search n d q buf) s = .next t ∧
      s.Posted t ⟨n, sct, sc, d0, d1, out⟩ ∧ t.mem = mem ∧ t.nss = s.nss ∧ t.search = s.search
    (v.kind = 4 → s.indexOpen q.toNat = false → ends 0 2 [] s.mem) ∧
    (∀ x, s.OnIdx d q.toNat v x →
      (refused → ends 0 2 [] s.mem) ∧ (¬ refused → u.placeFilter a q.toNat = none → ends 7 0xD1 [] s.mem) ∧
      (∀ m w, ¬ refused → u.placeFilter a q.toNat = some (m, w) →
        let b := a.block q.toNat m
        let f := w.findLocal b e (bfVals a.query)
        (a.supplied = false → m = 0 ∧ w = u) ∧
        (b.bad w p = true → ends 0 2 [] s.mem) ∧
        (b.bad w p = false → a.sharded = true → u.setComplete = false → ends 7 0xC1 (searchOut 0 0 []) s.mem) ∧
        (b.bad w p = false → (a.sharded = true → u.setComplete = true) → w.holds q.toNat e = false → ends 7 0xCC (searchOut e 3 []) w.mem) ∧
        (b.bad w p = false → a.sharded = false → w.holds q.toNat e = true → f.status = 4 → ends 7 0xC3 (searchOut e 4 []) w.mem) ∧
        (b.bad w p = false → a.sharded = false → w.holds q.toNat e = true → f.status ≠ 4 → ends 0 0 (searchOut e f.status f.cands) w.mem) ∧
        (b.bad w p = false → a.sharded = true → u.setComplete = true → w.holds q.toNat e = true →
          exec (.search n d q buf) s = .next (w.runShards n a b e buf))))

/-- Submit Request enters a request of a serving job, or refuses a wrong one; REQUEST_ADMIT admits the first that waits in each serving job, once its prompt's
blocks can be had, past the blocks it finds; Pause Request ends a request that waits or whose job's batch has stalled with its record, and marks any other.

The choices of log entry 124 in it are the model's. -/
def Obligations.RequestsEnterAndPause : Prop :=
  (∀ (s : State) (n : NHdr) (d : BitVec 32) (r : CmdRef) (b : List Byte), s.Accepts n (.submitRequest n d r b) →
    let go := fun (post : State → Prop) => ∃ t, exec (.submitRequest n d r b) s = .next t ∧ t.jobs = s.jobs ∧ post t
    (s.job? ⟨n.ctrl, r.sqid, r.cid⟩ = none → go (fun t => s.Posted t ⟨n, 0, 2, 0, 0, []⟩ ∧ t.serving = s.serving)) ∧
    (∀ j, s.job? ⟨n.ctrl, r.sqid, r.cid⟩ = some j →
      let q := Request.ofBlock n j b
      let short := s.poolBlocks q.mainPool < blocksFor q.promptLen
      (j.serving = false → go (fun t => s.Posted t ⟨n, 0, 2, 0, 0, []⟩ ∧ t.serving = s.serving)) ∧
      (j.serving = true → s.reqBad j q b = true → go (fun t => s.Posted t ⟨n, 7, 0xC5, 0, 0, []⟩ ∧ t.serving = s.serving)) ∧
      (j.serving = true → s.reqBad j q b = false → short → go (fun t => s.Posted t ⟨n, 7, 0xC8, 0, 0, []⟩ ∧ t.serving = s.serving)) ∧
      (j.serving = true → s.reqBad j q b = false → ¬ short → go (fun t => t.serving = { s.serving with reqs := s.serving.reqs ++ [q] })))) ∧
  (∀ (s : State) (p : PartId), s.alive = true →
    (∃ t, exec (.requestAdmit p) s = .next t ∧ t = State.each (s.servingJobs p.toNat) State.admitOne s ∧ t.mem = s.mem ∧ t.jobs = s.jobs) ∧
    (∀ (j : NHdr) (r : Request), (s.reqsOf j).find? (fun r => !r.admitted) = some r →
      let u := s.lookupPrefix r
      let can := u.2.canAlloc r.mainPool (blocksFor r.promptLen - u.1.mblks.length)
      let t := State.admitOne j s
      (can = false → t = s) ∧
      (can = true → 1 ≤ r.promptLen → ∃ q, q ∈ t.serving.reqs ∧ q.n = r.n ∧ q.admitted = true ∧ q.p = 64 * q.mblks.length ∧ q.p < r.promptLen ∧ q.tag = r.tag ∧
        t.mem = s.mem ∧ t.jobs = s.jobs)) ∧
    ∀ j : NHdr, (s.reqsOf j).find? (fun r => !r.admitted) = none → State.admitOne j s = s) ∧
  (∀ (s : State) (n : NHdr) (d : BitVec 32) (r : CmdRef), s.Accepts n (.pauseRequest n d r) →
    let x : NHdr := ⟨n.ctrl, r.sqid, r.cid⟩
    let go := fun (post : State → Prop) => ∃ t, exec (.pauseRequest n d r) s = .next t ∧ t.mem = s.mem ∧ s.Posted t ⟨n, 0, 0, 0, 0, []⟩ ∧ post t
    (s.serving.reqs.find? (fun r => r.n == x) = none →
      ∃ t, exec (.pauseRequest n d r) s = .next t ∧ s.Posted t ⟨n, 0, 2, 0, 0, []⟩ ∧ t.serving = s.serving ∧ t.jobs = s.jobs) ∧
    (∀ q, s.serving.reqs.find? (fun r => r.n == x) = some q →
      let ends := q.admitted = false ∨ s.job? q.job = none ∨ ∃ j, s.job? q.job = some j ∧ j.stalled = true
      (q.stop ≠ 0 → go (fun t => t.serving = s.serving ∧ t.jobs = s.jobs)) ∧
      (q.stop = 0 → ends → go (fun t => s.Posted t ⟨x, 0, 0, 0, 0, reqRecord q 1⟩ ∧ (∀ w ∈ t.serving.reqs, w.n ≠ x) ∧
        t.jobs = s.jobs.map (fun (j : Job) => { j with stalled := false }))) ∧
      (q.stop = 0 → ¬ ends → go (fun t => { q with stop := 1 } ∈ t.serving.reqs ∧ t.jobs = s.jobs))))

/-- A serving job's step: SERVING_STEP_ENTRY forms the batch of the requests whose blocks can be had, its table in DRAM, and queues the step, or where none can
run leaves a table with no entry and the batch stalled; SERVING_STEP_END commits what each valid report entry says, ends a request that is finished, told to
stop or reported wrong, and readies the job for its next entry.

The choices of log entries 25, 26, 27, 124 and 205 in it are the model's. -/
def Obligations.ServingStepsCommitWhatIsReported : Prop :=
  ∀ (s : State) (p : PartId), s.alive = true →
    exec (.servingStepEntry p) s = .next (State.each (s.servingJobs p.toNat) State.enterServing s) ∧
    exec (.servingStepEnd p) s = .next ((State.each (s.servingJobs p.toNat) State.leaveServing s).stepLevel p.toNat) ∧
    ∀ j : Job, s.job? j.n = some j →
    let live := ((s.reqsOf j.n).filter (fun r => r.admitted)).take 1024
    let u := State.each live (fun r s => s.joinStep r) s
    let inStep := (u.reqsOf j.n).filter (fun r => r.inStep)
    let a := State.enterServing j.n s
    let z := State.leaveServing j.n s
    let table := leNat (memBytes a.mem (j.argBase + batchAt j.argLen) 4) = inStep.length % 2 ^ 32
    (j.phase ≠ .needEntry ∨ live = [] ∨ j.stalled = true → a = s) ∧
    (j.phase = .needEntry → live ≠ [] → j.stalled = false → inStep = [] →
      a.bit Reg.SRV_FAULT 4 = true ∧ a.job? j.n = some { j with batch := 0, stalled := true } ∧ a.fifo = s.fifo ∧ table) ∧
    (j.phase = .needEntry → live ≠ [] → j.stalled = false → inStep ≠ [] →
      a.job? j.n = some { j with phase := .queued, step := 0, stepNo := j.stepNo + 1, batch := inStep.length, declared := (j.prog.steps.getD 0 (0, 0)).2 } ∧
      a.fifoOf j.part = s.fifoOf j.part ++ [.step j.n (j.prog.steps.getD 0 (0, 0)).2] ∧ (inStep.length ≤ 1024 → table)) ∧
    (j.phase ≠ .ended → z = s) ∧
    (j.phase = .ended → (s.serving.reqs.map Request.n).Nodup →
      z.mem = s.mem ∧ (∃ k, z.job? j.n = some k ∧ k = { j with phase := .needEntry, stalled := k.stalled }) ∧
      (∀ r ∈ s.reqsOf j.n, r.inStep = false → (r.stop = 0 → r ∈ z.serving.reqs) ∧
        (r.stop ≠ 0 → (∀ w ∈ z.serving.reqs, w.n ≠ r.n) ∧ s.Posted z ⟨r.n, 0, if r.stop = 1 then 0 else 7, 0, 0, reqRecord r (if r.stop = 1 then 1 else 2)⟩)) ∧
      ∀ r ∈ s.reqsOf j.n, r.inStep = true →
        let e := Report.ofBytes (s.dramRead (j.argBase + reportAt j.argLen + 16 * r.seat) 16)
        let last := e.fin % 2 = 1 ∨ r.maxNew ≤ r.emitted + e.emitted
        let gone := ∀ w ∈ z.serving.reqs, w.n ≠ r.n
        (r.stop ≠ 0 → gone ∧ s.Posted z ⟨r.n, 0, if r.stop = 1 then 0 else 7, 0, 0, reqRecord r (if r.stop = 1 then 1 else 2)⟩) ∧
        (r.stop = 0 → e.ok r = false → gone ∧ s.Posted z ⟨r.n, 7, 0xC6, 0, 0, reqRecord r 3⟩ ∧ z.bit Reg.SRV_FAULT 3 = true) ∧
        (r.stop = 0 → e.ok r = true → last → gone ∧ ∃ rec_, s.Posted z ⟨r.n, 0, 0, 0, 0, rec_⟩ ∧
          leNat ((rec_.drop 8).take 4) = (r.emitted + e.emitted) % 2 ^ 32) ∧
        (r.stop = 0 → e.ok r = true → ¬ last → ∃ w ∈ z.serving.reqs, w.n = r.n ∧ w.emitted = r.emitted + e.emitted ∧ w.inStep = false ∧
          w.p = (if r.mode = 0 then r.promptLen - 1 else r.p + (if r.mode = 2 then e.acc else 0)) + 1))

/-- Set Overlay publishes its records where the variant's layers lie, unless a live request of the partition uses the variant.

Frames: Frame Start queues a frame, or refuses it and counts; FRAME_ACCEPT makes the oldest one of an enabled ring its running frame, and once the job awaits
an entry gives the job its number, slot and parameter and queues its step; FRAME_COMPLETE completes its command, counts it, and records one that ran past its
bound.

The choices of log entry 125 in it are the model's. -/
def Obligations.OverlaysAndFramesAct : Prop :=
  (∀ (s : State) (n : NHdr) (d : BitVec 32) (part : PartId) (variant : BitVec 10) (layer : BitVec 8) (data : List Byte) (v : Nspace),
     s.Accepts n (.setOverlay n d part variant layer data false) → s.ns? d.toNat = some v → v.kind = 5 →
     let p := s.namedPart n part.toNat
     let k := data.length / 8192
     let bad := data.length % 8192 ≠ 0 ∨ k = 0 ∨ 511 < k ∨ s.bit (Reg.SRV_OVL p) 0 = false ∨ variant = 0 ∨ s.fld (Reg.SRV_OVL p) 1 10 < variant.toNat ∨
       s.fld (Reg.SRV_OVL p) 11 8 < layer.toNat + k ∨ (chunksOf 8192 data.length data).any overlayBad = true
     let busy := s.serving.reqs.any (fun r => r.variant == variant.toNat && (s.job? r.job).any (fun j => j.part == p))
     let go := fun (x : Completion) (post : State → Prop) => ∃ t, exec (.setOverlay n d part variant layer data false) s = .next t ∧ s.Posted t x ∧ post t
     let a := s.fld (Reg.SRV_OVL_BASE p) 0 48 + ((variant.toNat - 1) * s.fld (Reg.SRV_OVL p) 11 8 + layer.toNat) * 8192
     (bad → go ⟨n, 0, 2, 0, 0, []⟩ (fun t => t.mem = s.mem)) ∧ (¬ bad → busy = true → go ⟨n, 7, 0xC9, 0, 0, []⟩ (fun t => t.mem = s.mem)) ∧
     (¬ bad → busy = false → go ⟨n, 0, 0, 0, 0, []⟩ (fun t => memBytes t.mem a data.length = data ∧
       ∀ x, x < a ∨ a + data.length ≤ x → memByte t.mem x = memByte s.mem x))) ∧
  ((∀ (s : State) (n : NHdr) (d : BitVec 32) (r : BitVec 3) (k : BitVec 8) (fr : BitVec 64) (v : Nspace), s.Accepts n (.frameStart n d r k fr false) →
     s.ns? d.toNat = some v → v.kind = 5 →
     let f := s.fring r.toNat
     let no := s.bit (Reg.FRM_CTL r.toNat) 0 = false ∨ f.job = none ∨ 16 ≤ f.pend.length ∨ (∃ x ∈ f.pend, x.slot = k.toNat) ∨ ∃ x, f.run = some x ∧ x.slot = k.toNat
     (no → ∃ t, exec (.frameStart n d r k fr false) s = .next t ∧ s.Posted t ⟨n, 7, 0xCA, 0, 0, []⟩ ∧ t.serving = s.serving ∧
       t.fld (Reg.FRM_STATUS r.toNat) 32 32 = min (2 ^ 32 - 1) (s.fld (Reg.FRM_STATUS r.toNat) 32 32 + 1)) ∧
     (¬ no → s.fld (Reg.FRM_CTL r.toNat) 4 8 ≤ k.toNat → ∃ t, exec (.frameStart n d r k fr false) s = .next t ∧ s.Posted t ⟨n, 0, 2, 0, 0, []⟩ ∧ t.serving = s.serving) ∧
     (¬ no → k.toNat < s.fld (Reg.FRM_CTL r.toNat) 4 8 → ∃ t, exec (.frameStart n d r k fr false) s = .next t ∧
       t.fring r.toNat = { f with pend := f.pend ++ [{ n := n, slot := k.toNat, frame := fr }] } ∧ ∀ x, x ≠ r.toNat → t.fring x = s.fring x)) ∧
   (∀ (s : State) (r : BitVec 3), s.alive = true →
     let v := s.fring r.toNat
     (v.run ≠ none ∨ v.pend = [] ∨ v.job.bind s.job? = none → exec (.frameAccept r) s = .next s) ∧
     (∀ f rest j, v.run = none → v.pend = f :: rest → v.job.bind s.job? = some j → s.job? j.n = some j →
       (s.bit (Reg.FRM_CTL r.toNat) 0 = false ∨ j.phase = .dying → exec (.frameAccept r) s = .next s) ∧
       (s.bit (Reg.FRM_CTL r.toNat) 0 = true → j.phase ≠ .dying →
         ∃ t, exec (.frameAccept r) s = .next t ∧ (t.fring r.toNat).pend = rest ∧
           (∃ g, (t.fring r.toNat).run = some g ∧ g.n = f.n ∧ g.slot = f.slot ∧ g.frame = f.frame) ∧
           (t.fring r.toNat).param = t.reg (Reg.FRM_PARAM r.toNat) ∧ t.fld (Reg.FRM_STATUS r.toNat) 16 8 = f.slot % 256 ∧
           (j.phase ≠ .needEntry → t.mem = s.mem ∧ (t.fring r.toNat).run = some f ∧ t.job? j.n = some { j with frames := j.frames ++ [r.toNat] }) ∧
           (j.phase = .needEntry → j.frames = [] → (t.fring r.toNat).run = some { f with spent0 := some j.spent } ∧
             memBytes t.mem j.argBase 24 = leBytes 8 f.frame.toNat ++ leBytes 8 (s.frameSlot r.toNat f.slot) ++ leBytes 8 (t.reg (Reg.FRM_PARAM r.toNat)).toNat ∧
             (∀ x, x < j.argBase ∨ j.argBase + 64 ≤ x → memByte t.mem x = memByte s.mem x) ∧
             ∃ k, t.job? j.n = some k ∧ k.phase = .queued ∧ k.step = s.fld (Reg.FRM_CTL r.toNat) 32 8 ∧ k.stepNo = j.stepNo + 1 ∧ k.frames = [r.toNat])))) ∧
   (∀ (s : State) (r : BitVec 3) (m : Nat), s.alive = true →
     let v := s.fring r.toNat
     (v.run = none ∨ v.job.bind s.job? = none → exec (.frameComplete r m) s = .next s) ∧
     (∀ f j, v.run = some f → v.job.bind s.job? = some j → s.job? j.n = some j →
       (j.phase ≠ .ended ∨ j.frames.head? ≠ some r.toNat → exec (.frameComplete r m) s = .next s) ∧
       (j.phase = .ended → j.frames.head? = some r.toNat →
         ∃ t, exec (.frameComplete r m) s = .next t ∧ s.Posted t ⟨f.n, 0, 0, f.energy j % 2 ^ 32, f.energy j / 2 ^ 32 % 2 ^ 32, []⟩ ∧
           (j.rings.testBit r.toNat = true → s.bit (Reg.FRM_CTL r.toNat) 0 = true → (t.fring r.toNat).run = none ∧
             t.reg (Reg.FRM_DONE r.toNat) = s.reg (Reg.FRM_DONE r.toNat) + 1 ∧ t.reg (Reg.FRM_LAST r.toNat) = BitVec.ofNat 64 m ∧
             (v.bound ≠ 0 → v.bound < m → t.reg (Reg.FRM_OVERRUN r.toNat) = s.reg (Reg.FRM_OVERRUN r.toNat) + 1 ∧ t.bit Reg.SRV_FAULT 5 = true) ∧
             (j.frames = [r.toNat] → t.mem = s.mem ∧ t.job? j.n = some { j with phase := .needEntry, frames := [] }))))))

/-! ### Firmware and security -/

/-- Firmware Image Download stores its part of the package and Firmware Commit checks the whole: a valid one is written to its slot, runs from the next reset on
where the action says so, and an invalid one changes nothing.

The choices of log entries 46 and 113 in it are the model's. -/
def Obligations.FirmwareIsDownloadedAndCommitted : Prop :=
  ∀ (s : State) (n : NHdr),
    (∀ off (data : List Byte), s.Accepts n (.firmwareImageDownload n off data) →
      ∃ t, exec (.firmwareImageDownload n off data) s = .next t ∧ s.Posted t ⟨n, 0, 0, 0, 0, []⟩ ∧
        t.guard = { s.guard with dl := t.guard.dl, dlLen := max s.guard.dlLen (off + data.length) } ∧ memBytes t.guard.dl off data.length = data ∧
        ∀ x, x < off ∨ off + data.length ≤ x → memByte t.guard.dl x = memByte s.guard.dl x) ∧
    (∀ slot act : BitVec 3, s.Accepts n (.firmwareCommit n slot act) →
      let k := s.commitSlot slot.toNat
      let go := fun (sct sc : Nat) (g : Guard) => ∃ t, exec (.firmwareCommit n slot act) s = .next t ∧ s.Posted t ⟨n, sct, sc, 0, 0, []⟩ ∧ t.guard = g
      let kept : Guard := { s.guard with slots := s.guard.slots.set (k - 1) s.dlPkg.store, dl := [], dlLen := 0 }
      (2 < slot.toNat → go 1 6 s.guard) ∧ (slot.toNat ≤ 2 → act = 2 → go 0 0 { s.guard with next := k }) ∧ (slot.toNat ≤ 2 → 3 < act.toNat → go 0 2 s.guard) ∧
      (slot.toNat ≤ 2 → act ≠ 2 → act.toNat ≤ 3 →
        if s.pkgValid s.dlPkg then go (if act = 3 then 1 else 0) (if act = 3 then 0x10 else 0) (if act = 0 then kept else { kept with next := k })
        else go 1 7 s.guard))

/-- The SPDM responder over the DOE and MCTP transports: version 1.3 and its capabilities and algorithms; digests, certificates, challenges and measurements once
these are agreed; an error to what comes out of order or is not served; a response too large is announced and read chunk by chunk.

Security Send gives protocol E8h to the responder, whose answer waits for Security Receive; Security Receive lists the protocols, returns the answer that
waits, or refuses; neither is a virtual function's.

The choices of log entries 133 and 134 in it are the model's. -/
def Obligations.SpdmIsAnsweredAndCarried : Prop :=
  (∀ (s : State) (t : Transport), s.spdmUp t = true → (∀ p, t ≠ .nvme p) →
     let v := s.conn t
     let sent := fun (u : State) (r : SpdmResp) =>
       if r.size ≤ 4096 then u.guard.spdm = s.guard.spdm ++ [⟨t, r⟩]
       else u.guard.spdm = s.guard.spdm ++ [⟨t, .error 0x0F⟩] ∧ (u.conn t).large = r.bytes ∧ (u.conn t).nextGet = 0
     let no := fun (i : Instr) (code : Nat) => ∃ u, exec i s = .next u ∧ u.guard.spdm = s.guard.spdm ++ [⟨t, .error code⟩] ∧ u.conn t = v
     let ready := v.version = true ∧ v.caps = true ∧ v.algs = true
     (∃ u, exec (.getVersion t) s = .next u ∧ sent u (.version 0x13) ∧ u.conn t = { version := true }) ∧
     (v.version = false → no (.getCapabilities t) 1) ∧
     (v.version = true → ∃ u, exec (.getCapabilities t) s = .next u ∧ sent u (.capabilities true true true true true 4096 65536) ∧ u.conn t = { v with caps := true }) ∧
     (∀ a b, ¬ (v.version = true ∧ v.caps = true ∧ a = true ∧ b = true) → no (.negotiateAlgorithms t a b) 1) ∧
     (v.version = true → v.caps = true → ∃ u, exec (.negotiateAlgorithms t true true) s = .next u ∧ sent u (.algorithms 32 64 1 0 0x4B87) ∧
       u.conn t = { v with algs := true }) ∧
     (¬ ready → no (.getDigests t) 1) ∧ (ready → ∃ u, exec (.getDigests t) s = .next u ∧ sent u (.digests 1 (sha3_512 s.chain))) ∧
     (∀ slot off len, ¬ (ready ∧ slot = 0 ∧ off < s.chain.length) → no (.getCertificate t slot off len) 1) ∧
     (∀ off len, ready → off < s.chain.length → let b := (s.chain.drop off).take len
       ∃ u, exec (.getCertificate t 0 off len) s = .next u ∧ sent u (.certificate 0 b (s.chain.length - off - b.length))) ∧
     (∀ slot nonce, ¬ (ready ∧ slot = 0 ∧ nonce.length = 32) → no (.challenge t slot nonce) 1) ∧
     (∀ nonce : List Byte, ready → nonce.length = 32 → ∃ u a b, exec (.challenge t 0 nonce) s = .next u ∧ sent u (.challengeAuth 0 (sha3_512 s.chain) a b) ∧
       a.length = 32 ∧ b.length = 4627 ∧ u.guard.transcript = s.guard.transcript + 1) ∧
     (∀ i sg nonce, ¬ ready ∨ s.measBlocks i.toNat = none ∨ (sg = true ∧ nonce.length ≠ 32) → no (.getMeasurements t i sg nonce) 1) ∧
     (∀ i sg nonce bs, ready → s.measBlocks i.toNat = some bs → (sg = true → nonce.length = 32) → ∃ u a b, exec (.getMeasurements t i sg nonce) s = .next u ∧
       sent u (.measurements bs a b) ∧ a.length = 32 ∧ b.length = (if sg then 4627 else 0)) ∧
     (∀ code, no (.spdmUnsupportedRequest t code) 7) ∧
     (∀ q last bytes, v.caps = false ∨ q ≠ v.nextChunk ∨ 65536 < v.chunks.length + bytes.length →
       ∃ u, exec (.chunkSend t q last bytes) s = .next u ∧ u.guard.spdm = s.guard.spdm ++ [⟨t, .error 1⟩] ∧ u.conn t = { v with chunks := [], nextChunk := 0 }) ∧
     (∀ bytes : List Byte, v.caps = true → v.chunks.length + bytes.length ≤ 65536 →
       (∃ u, exec (.chunkSend t v.nextChunk false bytes) s = .next u ∧ u.guard.spdm = s.guard.spdm ++ [⟨t, .chunkAck v.nextChunk⟩] ∧
         u.conn t = { v with chunks := v.chunks ++ bytes, nextChunk := v.nextChunk + 1 }) ∧
       ∃ u r, exec (.chunkSend t v.nextChunk true bytes) s = .next u ∧ u.guard.spdm = s.guard.spdm ++ [⟨t, .chunkAck v.nextChunk⟩, ⟨t, r⟩] ∧
         (SpdmReq.ofBytes (v.chunks ++ bytes) = .getVersion → r = .version 0x13)) ∧
     (∀ q, v.large = [] ∨ q ≠ v.nextGet → no (.chunkGet t q) 1) ∧
     (v.large ≠ [] → let k := if v.nextGet = 0 then 4080 else 4084
       ∃ u, exec (.chunkGet t v.nextGet) s = .next u ∧ u.guard.spdm = s.guard.spdm ++ [⟨t, .chunk v.nextGet (v.large.take k) (v.large.drop k).isEmpty⟩] ∧
         (u.conn t).large = v.large.drop k) ∧
     (∀ (p : BitVec 1) (i : BitVec 8), t = .doe p → ∃ u, exec (.doeDiscovery p i) s = .next u ∧
       u.guard.spdm = s.guard.spdm ++ [⟨t, if i = 0 then .doeDiscovery 1 0 1 else if i = 1 then .doeDiscovery 1 1 0 else .doeDiscovery 0xFFFF 0 0⟩])) ∧
  (∀ (s : State) (n : NHdr),
     let p := portOf (nctrl n)
     let tells := fun (i : Instr) (x : Completion) (post : State → Prop) => ∃ t, exec i s = .next t ∧ s.Posted t x ∧ post t
     (∀ pr sp r, s.Accepts n (.securitySend n pr sp r) →
       (physCtrl (nctrl n) = false ∨ pr ≠ 0xE8 → tells (.securitySend n pr sp r) ⟨n, 0, 2, 0, 0, []⟩ (fun t => t.guard = s.guard)) ∧
       (physCtrl (nctrl n) = true → pr = 0xE8 → s.spdmUp (.nvme (BitVec.ofNat 1 p)) = false → tells (.securitySend n pr sp r) ⟨n, 0, 0, 0, 0, []⟩ (fun t => t.guard = s.guard)) ∧
       (physCtrl (nctrl n) = true → pr = 0xE8 → s.spdmUp (.nvme (BitVec.ofNat 1 p)) = true → p < 2 →
         tells (.securitySend n pr sp r) ⟨n, 0, 0, 0, 0, []⟩ (fun t => t.guard.spdm = s.guard.spdm ∧
           ∃ a, t.guard.pendResp.find? (fun e => e.1 == p) = some (p, a) ∧ (r = .getVersion → a = .version 0x13)))) ∧
     (∀ pr sp k, s.Accepts n (.securityReceive n pr sp k) →
       let e := s.guard.pendResp.find? (fun e => e.1 == p)
       (physCtrl (nctrl n) = false ∨ (pr ≠ 0 ∧ pr ≠ 0xE8) ∨ (pr = 0 ∧ sp ≠ 0) ∨ (pr = 0xE8 ∧ e = none) →
         tells (.securityReceive n pr sp k) ⟨n, 0, 2, 0, 0, []⟩ (fun t => t.guard = s.guard)) ∧
       (physCtrl (nctrl n) = true → pr = 0 → sp = 0 → tells (.securityReceive n pr sp k) ⟨n, 0, 0, 0, 0, [0, 0, 0, 0, 0, 0, 0, 2, 0, 0xE8].take k⟩ (fun t => t.guard = s.guard)) ∧
       (∀ r, physCtrl (nctrl n) = true → pr = 0xE8 → e = some (p, r) →
         (k < r.size → tells (.securityReceive n pr sp k) ⟨n, 0, 2, 0, 0, []⟩ (fun t => t.guard = s.guard)) ∧
         (r.size ≤ k → tells (.securityReceive n pr sp k) ⟨n, 0, 0, 0, 0, r.bytes⟩ (fun t => t.guard.pendResp.find? (fun e => e.1 == p) = none)))) ∧
     (∀ t : Transport, s.spdmUp t = false → ∀ (a b : Bool) (k : BitVec 3) (o l : Nat) (x : BitVec 8) (c : List Byte), ∀ i ∈ [Instr.getVersion t, .getCapabilities t,
       .negotiateAlgorithms t a b, .getDigests t, .getCertificate t k o l, .challenge t k c, .getMeasurements t x a c, .chunkSend t o a c, .chunkGet t o,
       .spdmUnsupportedRequest t x], exec i s = .next s) ∧
     (∀ q : BitVec 1, s.spdmUp (.nvme q) = true → ∀ (a b : Bool) (k : BitVec 3) (o l : Nat) (x : BitVec 8) (c : List Byte), ∀ i ∈ [Instr.getVersion (.nvme q),
       .getCapabilities (.nvme q), .negotiateAlgorithms (.nvme q) a b, .getDigests (.nvme q), .getCertificate (.nvme q) k o l, .challenge (.nvme q) k c,
       .getMeasurements (.nvme q) x a c, .spdmUnsupportedRequest (.nvme q) x],
       ∃ t r, exec i s = .next t ∧ t.guard.spdm = s.guard.spdm ∧ t.guard.pendResp = sins s.guard.pendResp q.toNat r))

/-! ### Girth and harness -/

/-- Harness rings: the oldest record on the lane lands in its slot, and a returned credit lets the sender send one more; where there is none, nothing happens.

The choices of log entries 35, 36 and 140 in it are the model's. -/
def Obligations.RingsCarryRecordsAndCredits : Prop :=
  ∀ (s : State) (b : BitVec 2) (k : BitVec 3), s.alive = true → s.Still →
    let r := s.ring b.toNat k.toNat
    let c := s.ringDst b.toNat k.toNat
    let o := s.slotAt b.toNat k.toNat r.arrived
    let here := s.ringOn b.toNat k.toNat = true ∧ s.bindRemote b.toNat = false ∧ s.bindBroken b.toNat = false
    (¬ here ∨ r.lane = [] → exec (.tallyRecordArrival b k) s = .next s) ∧
    (∀ ls rest, here → r.lane = ls :: rest → (s.core c).busy = [] → ∃ t, exec (.tallyRecordArrival b k) s = .next t ∧
      t.ring b.toNat k.toNat = { r with lane := rest, arrived := r.arrived + 1 }) ∧
    (∀ ls rest, here → r.lane = ls :: rest → c < s.coreCount → c < 32 → (s.core c).MergeOk → (s.core c).flipPend = [] → (s.core c).busy = [] → o % 64 = 0 → o + 64 * ls.length ≤ sramSize →
      (∀ l ∈ ls, l.1.length = 64) → ∃ t, exec (.tallyRecordArrival b k) s = .next t ∧
        t.ring b.toNat k.toNat = { r with lane := rest, arrived := r.arrived + 1 } ∧
        (∀ i (h : i < ls.length), t.sramBytes c (o + 64 * i) 64 = ls[i].1 ∧ t.sramPoison c (o + 64 * i) 64 = ls[i].2) ∧
        (∀ x, x < sramSize → x < o ∨ o + 64 * ls.length ≤ x → t.sramByte c x = s.sramByte c x) ∧ ∀ d, d ≠ c → t.core d = s.core d) ∧
    (¬ (s.ringOn b.toNat k.toNat = true ∧ s.bindBroken b.toNat = false) ∨ (s.bindRemote b.toNat = false ∧ r.freed = 0) →
      exec (.tallyCreditReturn b k) s = .next s) ∧
    (here → r.freed ≠ 0 → (s.core (s.ringSrc b.toNat k.toNat)).busy = [] → ∃ t, exec (.tallyCreditReturn b k) s = .next t ∧
      t.ring b.toNat k.toNat = { r with freed := r.freed - 1, credits := r.credits + 1 } ∧ t.cores = s.cores ∧ t.mem = s.mem ∧
      t.fld (Reg.HARN_RING_CREDIT b.toNat k.toNat) 32 32 = (s.fld (Reg.HARN_RING_CREDIT b.toNat k.toNat) 32 32 + 1) % 2 ^ 32) ∧
    (s.ringOn b.toNat k.toNat = true → s.bindRemote b.toNat = true → s.bindBroken b.toNat = false →
      (s.ringSender b.toNat k.toNat = none → (r.freed = 0 → exec (.tallyCreditReturn b k) s = .next s) ∧
        (r.freed ≠ 0 → exec (.tallyCreditReturn b k) s = .next (s.setRing b.toNat k.toNat { r with freed := r.freed - 1 }))) ∧
      (s.ringSender b.toNat k.toNat ≠ none → (r.lane = [] → exec (.tallyCreditReturn b k) s = .next s) ∧
        (∀ ls rest, r.lane = ls :: rest → (s.core (s.ringSrc b.toNat k.toNat)).busy = [] → ∃ t, exec (.tallyCreditReturn b k) s = .next t ∧
          t.ring b.toNat k.toNat = { r with lane := rest, credits := r.credits + 1 } ∧ t.cores = s.cores ∧ t.mem = s.mem)))

/-- The reducer: a first contribution opens an instance, later ones join its sum once each, one awaited late is carried; the instance closes when every member has
contributed or its window ends, with the absent counted as carried or dropped, as the slot says.

The choices of log entries 32 and 141 in it are the model's. -/
def Obligations.ReducerCountsEveryContribution : Prop :=
  ∀ (s : State) (j : BitVec 4) (bucket inst m : Nat) (lines : List (List Byte)), s.alive = true →
    let g := s.fld (Reg.HARN_REDUCE j.toNat) 1 8
    let ls : MarkedLines := lines.map (fun b => (fitTo 64 0 b, false))
    let key := (j.toNat, bucket, inst, m)
    let mine := s.bit (Reg.HARN_REDUCE j.toNat) 0 = true ∧ s.groupIndex g = some bucket ∧ m < (s.groupMembers g).length
    let new := key ∉ s.harness.late ∧ key ∉ s.harness.lateDrop
    (¬ mine → exec (.contributionArrival j bucket inst m lines) s = .next s ∧ exec (.reduceInstanceOpen j bucket inst m lines) s = .next s) ∧
    (mine → new → s.rinst? j.toNat bucket inst = none → ∀ i, i = .contributionArrival j bucket inst m lines ∨ i = .reduceInstanceOpen j bucket inst m lines →
      ∃ t, exec i s = .next t ∧ t.regs = s.regs ∧
        t.rinst? j.toNat bucket inst = some ⟨j.toNat, g, (s.collShape g inst lines.length).1, bucket, inst, (s.collShape g inst lines.length).2, [m], ls, false⟩) ∧
    (mine → s.harness.late.contains key = true → (s.carryLines + lines.length) * 64 ≤ 0x800000 → ∃ t, exec (.contributionArrival j bucket inst m lines) s = .next t ∧
      t = { s with harness := { s.harness with late := s.harness.late.erase key, carries := s.harness.carries ++ [⟨j.toNat, bucket, ls⟩] } }) ∧
    (mine → s.harness.late.contains key = true → 0x800000 < (s.carryLines + lines.length) * 64 → ∃ t, exec (.contributionArrival j bucket inst m lines) s = .next t ∧
      t.harness = { s.harness with late := s.harness.late.erase key } ∧ t.bit Reg.HARN_FAULT 5 = true ∧
      t.reg (Reg.HARN_CONTRIB_DROP j.toNat) = s.reg (Reg.HARN_CONTRIB_DROP j.toNat) + 1 ∧ t.reg (Reg.HARN_CONTRIB_CAR j.toNat) = s.reg (Reg.HARN_CONTRIB_CAR j.toNat) - 1) ∧
    (mine → s.harness.late.contains key = false → s.harness.lateDrop.contains key = true → ∃ t, exec (.contributionArrival j bucket inst m lines) s = .next t ∧
      t = { s with harness := { s.harness with lateDrop := s.harness.lateDrop.erase key } }) ∧
    (∀ r, s.rinst? j.toNat bucket inst = some r →
      exec (.reduceInstanceOpen j bucket inst m lines) s = .next s ∧
      (mine → new → r.closed = true ∨ setHas r.got m = true → exec (.contributionArrival j bucket inst m lines) s = .next s) ∧
      (mine → new → r.closed = false → setHas r.got m = false → ∃ t, exec (.contributionArrival j bucket inst m lines) s = .next t ∧ t.regs = s.regs ∧
        t.rinst? j.toNat bucket inst = some { r with got := setAdd r.got m, sum := lfLinesAdd r.sum ls }) ∧
      (r.got.length < (s.groupMembers r.grp).length ∨ r.closed = true → exec (.reduceClose j bucket inst) s = .next s) ∧
      (s.fld (Reg.HARN_REDUCE j.toNat) 10 32 = 0 ∨ r.closed = true → exec (.lateWindowExpiry j bucket inst) s = .next s) ∧
      (∀ i, i = .reduceClose j bucket inst ∧ (s.groupMembers r.grp).length ≤ r.got.length ∨
          i = .lateWindowExpiry j bucket inst ∧ s.fld (Reg.HARN_REDUCE j.toNat) 10 32 ≠ 0 →
        r.closed = false → s.coll? r.grp r.inst = none →
        let absent := (List.range (s.groupMembers r.grp).length).filter (fun m => !setHas r.got m)
        let drop := s.bit (Reg.HARN_REDUCE j.toNat) 9
        let held := s.harness.carries.filter (fun c => c.j == j.toNat && c.bucket == bucket)
        let kept := s.reg (Reg.HARN_CONTRIB_CAR j.toNat) - BitVec.ofNat 64 held.length
        ∃ t, exec i s = .next t ∧ t.harness.carries = s.harness.carries.filter (fun c => !(c.j == j.toNat && c.bucket == bucket)) ∧
          t.rinst? j.toNat bucket inst = some { r with sum := held.foldl (fun a c => if a.isEmpty then c.lines else lfLinesAdd a c.lines) r.sum, closed := true } ∧
          t.reg (Reg.HARN_CONTRIB_EXP j.toNat) = s.reg (Reg.HARN_CONTRIB_EXP j.toNat) + BitVec.ofNat 64 (s.groupMembers r.grp).length ∧
          t.reg (Reg.HARN_CONTRIB_INC j.toNat) = s.reg (Reg.HARN_CONTRIB_INC j.toNat) + BitVec.ofNat 64 (r.got.length + held.length) ∧
          t.reg (Reg.HARN_CONTRIB_CAR j.toNat) = (if drop then kept else kept + BitVec.ofNat 64 absent.length) ∧
          t.reg (Reg.HARN_CONTRIB_DROP j.toNat) = s.reg (Reg.HARN_CONTRIB_DROP j.toNat) + BitVec.ofNat 64 (if drop then absent.length else 0) ∧
          ∀ x ∈ absent, (j.toNat, bucket, inst, x) ∈ (if drop then t.harness.lateDrop else t.harness.late)))

/-- What arrives on a link that is up: a flit accepted in sequence moves the expected number on; one with a wrong crc is counted and asks for a replay, one whose
crc is inverted is counted and dropped, one out of sequence asks for a replay alone, and none of these touches memory; one for another member goes on toward it;
an IDLE's trailer acknowledges and returns credits.

The choices of log entries 30, 144, 145 and 177 in it are the model's. -/
def Obligations.FlitsAreAcceptedInOrder : Prop :=
  ∀ (s : State) (k : LinkId) (f : Flit), s.Still →
    let g := k.port.toNat
    let l := k.link.toNat
    let v := s.link g l
    let up := s.alive = true ∧ s.hasPort g = true ∧ s.linkState g l = 2
    (∀ p ∈ [(Instr.idle k f, (0 : BitVec 8)), (.put k f, 1), (.getReq k f, 2), (.getRsp k f, 3), (.ack k f, 4), (.coll k f, 5), (.harn k f, 6), (.flitForward k f, f.typ)],
      let h : Flit := { f with typ := p.2 }
      (¬ up → exec p.1 s = .next s) ∧
      (s.Lands g l h → h.typ ≠ 0 → s.goesOn g h = false → s.endsHere g h = false → ∃ t, exec p.1 s = .next t ∧ (t.link g l).rxSeq = v.rxSeq + 1 ∧ t.mem = s.mem) ∧
      (s.Lands g l h → h.typ ≠ 0 → s.goesOn g h = true → ∃ t, exec p.1 s = .next t ∧ (t.link g l).rxSeq = v.rxSeq + 1 ∧ t.mem = s.mem ∧
        (hop s.dims s.me f.dst.toNat ≠ none → t.Sends (fun e => e.typ = p.2 ∧ e.dst = f.dst ∧ e.src = f.src ∧ e.tag = f.tag ∧ e.payload = f.payload ∧
          (s.hub.pend = 0 → e.poison = f.poison)))) ∧
      (up → h.crcOk = false → h.killed = false → ∃ t, exec p.1 s = .next t ∧ (t.link g l).rxSeq = v.rxSeq ∧ (t.link g l).nakSent = true ∧ t.mem = s.mem ∧
        t.reg (Reg.GIRTH_LINK_CRC g l) = s.reg (Reg.GIRTH_LINK_CRC g l) + 1) ∧
      (up → h.killed = true → ∃ t, exec p.1 s = .next t ∧ (t.link g l).rxSeq = v.rxSeq ∧ (t.link g l).nakSent = v.nakSent ∧ t.mem = s.mem ∧
        t.reg (Reg.GIRTH_LINK_CRC g l) = s.reg (Reg.GIRTH_LINK_CRC g l) + 1) ∧
      (up → h.crcOk = true → h.killed = false → h.typ ≠ 0 → f.lseq ≠ v.rxSeq →
        ∃ t, exec p.1 s = .next t ∧ (t.link g l).rxSeq = v.rxSeq ∧ (t.link g l).nakSent = true ∧ t.mem = s.mem ∧ t.regs = s.regs)) ∧
    (up → Flit.crcOk { f with typ := 0 } = true → Flit.killed { f with typ := 0 } = false → ∃ t, exec (.idle k f) s = .next t ∧ t.mem = s.mem ∧ (t.link g l).rxSeq = v.rxSeq ∧
        (f.nak = false → sget [] s.girth.outq g = [] → (t.link g l).replay = v.replay.drop (ackedCount v f.ack) ∧
          ∀ c < 4, (t.link g l).credits.getD c 0 = v.credits.getD c 0 + min (f.credit.getD c 0) (16 - v.credits.getD c 0)))

/-- Flits that end here: a PUT's lines are stored and acknowledged, or dropped as violations where its partition may not write; a GET is answered with its line, with
zero where it may not read; a GET_RSP and an ACK end their transaction, with its data or its error; a line of a remote record lands in its ring; a contribution
opens its instance.

The choices of log entries 132, 147, 148 and 197 in it are the model's. -/
def Obligations.FlitsHaveTheirEffect : Prop :=
  ∀ (s : State) (k : LinkId) (f : Flit) (b : List Byte), s.Still →
    let g := k.port.toNat
    let l := k.link.toNat
    let a := f.addr.toNat / 64 * 64
    let p := f.part.toNat
    let back := hop s.dims s.me f.src.toNat ≠ none
    let lands := fun (n : BitVec 8) => s.Lands g l { f with typ := n }
    s.Ejects g f →
    (∀ ls, lands 1 → f.payload = ls → (∀ b ∈ ls, b.length = 64) → s.isQuery f = false → s.girth.rx = [] →
      (∀ i, i < ls.length → s.tier (a + 64 * i) = .dram ∧ s.progMem p (a + 64 * i) 64 = true ∧ s.readOnly (a + 64 * i) 64 = false) →
      ∃ t, exec (.put k f) s = .next t ∧ (∀ i (h : i < ls.length), memBytes t.mem (a + 64 * i) 64 = ls[i] ∧ t.poisoned (a / 64 + i) = f.poison) ∧
        (∀ x, x < a ∨ a + 64 * ls.length ≤ x → memByte t.mem x = memByte s.mem x) ∧
        (f.total.toNat ≤ ls.length → t.girth.rx = [] ∧ (back → t.Sends (fun h => h.typ = 4 ∧ h.dst = f.src ∧ h.tag = f.tag))) ∧
        (ls.length < f.total.toNat → t.girth.rx = [(f.src.toNat, f.tag.toNat, ls.length)])) ∧
    (lands 1 → f.payload = [b] → s.isQuery f = false → s.remoteOk p a = false → ∃ t, exec (.put k f) s = .next t ∧ t.mem = s.mem ∧ t.bit Reg.GIRTH_FAULT 5 = true) ∧
    (lands 2 → f.total = 1 → s.tier a = .dram → s.progMem p a 64 = true → back → ∃ t, exec (.getReq k f) s = .next t ∧ t.mem = s.mem ∧
      t.Sends (fun h => h.typ = 3 ∧ h.dst = f.src ∧ h.tag = f.tag ∧ h.payload = [s.dramRead a 64] ∧ (s.hub.pend = 0 → h.poison = s.poisoned (a / 64)))) ∧
    (lands 2 → f.total = 1 → s.remoteOk p a = false → back → ∃ t, exec (.getReq k f) s = .next t ∧ t.mem = s.mem ∧ t.bit Reg.GIRTH_FAULT 5 = true ∧
      t.Sends (fun h => h.typ = 3 ∧ h.dst = f.src ∧ h.tag = f.tag ∧ h.payload = [List.replicate 64 0])) ∧
    (∀ x : Txn, lands 3 → f.payload = [b] → b.length = 64 → s.txn? f.tag.toNat = some x → x.peer = f.src.toNat → x.get = true → x.lines = 1 →
      x.remote = f.addr.toNat → x.got = [] → f.error = false → x.core < 32 → (s.core x.core).MergeOk → (s.core x.core).flipPend = [] → x.loc % 64 = 0 →
      x.loc + 64 ≤ sramSize → s.touchesWindow x.core x.loc 64 = false →
      ∃ t, exec (.getRsp k f) s = .next t ∧ t.txn? f.tag.toNat = none ∧ t.sramBytes x.core x.loc 64 = b ∧ t.sramPoison x.core x.loc 64 = f.poison ∧
        ∀ q ∈ (t.core x.core).busy, q.wait ≠ .gx x.tag) ∧
    (∀ x : Txn, lands 3 → s.txn? f.tag.toNat = some x → x.peer = f.src.toNat → x.get = true → f.error = true → ∃ t, exec (.getRsp k f) s = .next t ∧
      t.txn? f.tag.toNat = none ∧ (∀ q ∈ (t.core x.core).busy, q.wait ≠ .gx x.tag) ∧ (x.core < 32 → t.bit (Reg.GX_FAULT x.core) 2 = true)) ∧
    (∀ x : Txn, lands 4 → s.txn? f.tag.toNat = some x → x.peer = f.src.toNat → x.get = false →
      ∃ t, exec (.ack k f) s = .next t ∧ t.txn? f.tag.toNat = none ∧ t.mem = s.mem ∧ (∀ q ∈ (t.core x.core).busy, q.wait ≠ .gx x.tag) ∧
        (f.error = true → x.core < 32 → t.bit (Reg.GX_FAULT x.core) 2 = true)) ∧
    (∀ e ∈ [(Instr.getRsp k f, (3 : BitVec 8)), (.ack k f, 4)], lands e.2 → (∀ x, s.txn? f.tag.toNat = some x → x.peer ≠ f.src.toNat ∨ x.get ≠ (e.2 == 3)) →
      ∃ t, exec e.1 s = .next t ∧ t.mem = s.mem ∧ t.girth.txns = s.girth.txns) ∧
    (∀ r n, lands 6 → f.payload = [b] → b.length = 64 → s.harnRing f = some (r, n) → s.ringLines r n = 1 →
      f.addr.toNat = sramBase (s.ringDst r n) + s.slotAt r n (s.ring r n).arrived → s.ringDst r n < 32 → (s.core (s.ringDst r n)).MergeOk →
      (s.core (s.ringDst r n)).flipPend = [] → (s.core (s.ringDst r n)).busy = [] → s.slotAt r n (s.ring r n).arrived % 64 = 0 →
      s.slotAt r n (s.ring r n).arrived + 64 ≤ sramSize → (s.ring r n).part = 0 →
      ∃ t, exec (.harn k f) s = .next t ∧ (t.ring r n).arrived = (s.ring r n).arrived + 1 ∧
        t.sramBytes (s.ringDst r n) (s.slotAt r n (s.ring r n).arrived) 64 = b) ∧
    (lands 6 → s.harnRing f = none → ∃ t, exec (.harn k f) s = .next t ∧ t.mem = s.mem ∧ t.bit Reg.GIRTH_FAULT 5 = true) ∧
    (lands 5 → s.instIndex f.group.toNat f.inst.toNat = none → ∃ t, exec (.coll k f) s = .next t ∧ t.mem = s.mem ∧ t.girth.colls = s.girth.colls ∧ t.harness = s.harness) ∧
    (∀ me m, lands 5 → f.payload = [b] → b.length = 64 → s.groupIndex f.group.toNat = some me →
      (s.groupMembers f.group.toNat).findIdx? (· == f.src.toNat) = some m → f.op = 0 →
      (∃ j < 16, s.bit (Reg.HARN_REDUCE j) 0 = true ∧ s.fld (Reg.HARN_REDUCE j) 1 8 = f.group.toNat) → s.girth.part = [] → s.harness.late = [] → s.harness.lateDrop = [] →
      bucketOfLine f.total.toNat (s.groupMembers f.group.toNat).length f.offset.toNat = me →
      bucketLo f.total.toNat (s.groupMembers f.group.toNat).length me = f.offset.toNat → bucketLen f.total.toNat (s.groupMembers f.group.toNat).length me = 1 →
      s.coll? f.group.toNat f.inst.toNat = none → s.rinst? (s.slotOf f.group.toNat) me f.inst.toNat = none →
      ∃ t, exec (.coll k f) s = .next t ∧ t.mem = s.mem ∧
        t.rinst? (s.slotOf f.group.toNat) me f.inst.toNat = some ⟨s.slotOf f.group.toNat, f.group.toNat, 0, me, f.inst.toNat, f.total.toNat, [m], [(b, f.poison)], false⟩)

/-- Links: a NAK has what it does not cover sent again, until the limit of replays retrains the link, as an ack or the peer's silence does; a training that ends well
brings the link up, the third that fails in succession declares it down; a handover empties the downed link's replay buffer.

The choices of log entries 142 and 146 in it are the model's. -/
def Obligations.LinksReplayAndRetrain : Prop :=
  ∀ (s : State) (k : LinkId),
    let g := k.port.toNat
    let l := k.link.toNat
    let v := s.link g l
    (∀ i, i = .ackTimeout k ∨ i = .linkIdleTimeout k →
      (s.ctrlCan g l = false ∨ (i = .ackTimeout k ∧ v.replay = []) → exec i s = .next s) ∧
      (s.ctrlCan g l = true → (i = .ackTimeout k → v.replay ≠ []) → ∃ t, exec i s = .next t ∧ t.linkState g l = 1 ∧ (t.link g l).replay = v.replay ∧
        t.reg (Reg.GIRTH_LINK_RETRAIN g l) = s.reg (Reg.GIRTH_LINK_RETRAIN g l) + 1 ∧ t.mem = s.mem ∧ t.cores = s.cores)) ∧
    (∀ q, (s.ctrlCan g l = false → exec (.nakReplay k q) s = .next s) ∧
      (s.ctrlCan g l = true → ∃ t, exec (.nakReplay k q) s = .next t ∧ t.mem = s.mem ∧ t.cores = s.cores ∧ (t.link g l).rxSeq = v.rxSeq) ∧
      (s.ctrlCan g l = true → sget [] s.girth.outq g = [] →
        let rest := v.replay.drop (ackedCount v q)
        let fails := if ackedCount v q = 0 then v.fails else 0
        let lim := s.fld (Reg.GIRTH_LINK_CTL g l) 0 4
        (lim ≤ fails → ∃ t, exec (.nakReplay k q) s = .next t ∧ t.linkState g l = 1 ∧ (t.link g l).replay = rest ∧ t.mem = s.mem) ∧
        (fails < lim → ∃ t, exec (.nakReplay k q) s = .next t ∧ t.linkState g l = 2 ∧ (t.link g l).replay = rest ∧ (t.link g l).fails = fails + 1 ∧
          t.girth.sent = s.girth.sent ++ rest.map (fun e => (linkKey g l, e.f)) ∧ t.reg (Reg.GIRTH_LINK_REPLAY g l) = s.reg (Reg.GIRTH_LINK_REPLAY g l) + 1))) ∧
    (∀ ok, s.Still → (s.linkHere g l = false ∨ s.linkState g l ≠ 1 → exec (.linkRetrainDone k ok) s = .next s) ∧
      (s.linkHere g l = true → s.linkState g l = 1 →
        (ok = true → ∃ t, exec (.linkRetrainDone k ok) s = .next t ∧ t.linkState g l = 2 ∧ (t.link g l).retrainFails = 0 ∧ t.mem = s.mem) ∧
        (ok = false → v.retrainFails + 1 < 3 → ∃ t, exec (.linkRetrainDone k ok) s = .next t ∧ t.linkState g l = 1 ∧
          (t.link g l).retrainFails = v.retrainFails + 1 ∧ t.reg (Reg.GIRTH_LINK_RETRAIN g l) = s.reg (Reg.GIRTH_LINK_RETRAIN g l) + 1) ∧
        (ok = false → 3 ≤ v.retrainFails + 1 → ∃ t, exec (.linkRetrainDone k ok) s = .next t ∧ t.linkState g l = 3 ∧ t.bit Reg.GIRTH_FAULT 1 = true))) ∧
    (∀ (d : BitVec 3) q, (s.ctrlCan g l = false → exec (.handover k d q) s = .next s) ∧
      (s.ctrlCan g l = true → ∃ t, exec (.handover k d q) s = .next t ∧ (t.link g l).rxSeq = v.rxSeq + 1 ∧ t.mem = s.mem ∧
        (d.toNat < 6 → s.linkState g d.toNat ≠ 2 → (t.link g d.toNat).replay = [] ∧
          ∀ e ∈ (s.link g d.toNat).replay.drop (ackedCount (s.link g d.toNat) q), t.Sends (fun h => h.dst = e.f.dst ∧ h.src = e.f.src ∧ h.tag = e.f.tag ∧
            h.payload = e.f.payload))))

/-- Ports: what trains comes up, authentication brings the port up or isolates it for its reason, a re-authentication is a control write that waits for the boundary,
and a presence notice is recorded, passed on once, and its port known down or up again.

The choices of log entries 94, 143, 149 and 196 in it are the model's. -/
def Obligations.PortsTrainAndAuthenticate : Prop :=
  (∀ (s : State) (p : BitVec 3) (near : Bool) (m : BitVec 6), let g := p.toNat
    (s.alive = false ∨ s.hasPort g = false ∨ near = false → exec (.portTrain p near m) s = .next s) ∧
    (s.alive = true → s.hasPort g = true → near = true → ∃ t, exec (.portTrain p near m) s = .next t ∧ t.mem = s.mem ∧
      (∀ l < 6, (s.fld (Reg.GIRTH_PORT_CTL g) 0 6).testBit l = true → m.getLsbD l = true → t.linkState g l = 2) ∧
      (∀ l < 6, (s.fld (Reg.GIRTH_PORT_CTL g) 0 6).testBit l = false ∨ m.getLsbD l = false → t.linkState g l = s.linkState g l))) ∧
  (∀ (s : State) (p : BitVec 3) (e : PeerId), s.Still → let g := p.toNat
    let why := s.isolation g e
    (s.alive = false ∨ s.hasPort g = false ∨ s.portState g ≠ 2 → exec (.portAuthenticate p e) s = .next s) ∧
    (s.alive = true → s.hasPort g = true → s.portState g = 2 → ∃ t, exec (.portAuthenticate p e) s = .next t ∧ t.fld (Reg.GIRTH_PORT_STATUS g) 32 3 = why ∧
      (why = 0 → t.portState g = 3 ∧ t.fld (Reg.GIRTH_PORT_STATUS g) 16 11 = modNo s.dims (e.x.toNat, e.y.toNat, e.z.toNat) % 2 ^ 11 ∧
        t.fld (Reg.GIRTH_PORT_STATUS g) 48 16 = e.setId.toNat ∧ t.mem = s.mem) ∧
      (why ≠ 0 → t.portState g = 4 ∧ t.bit Reg.GIRTH_FAULT 3 = true))) ∧
  (∀ (s : State) (p : BitVec 3) (v : Word) (i : RegInfo), let off := Reg.GIRTH_PORT_CTL p.toNat
    s.alive = true → p.toNat < 6 → s.PlainReg off v → regInfo off = some i → i.reserved v = false →
    ∃ t, exec (.reauth p v) s = .next t ∧ t = s.setShadow off ((v &&& i.rw) ||| (v &&& i.wo)) ∧ Machine.bit (t.shadowOf off) 8 = v.getLsbD 8) ∧
  (∀ (s : State) (k : LinkId) (m : BitVec 11) (p st : BitVec 3) (q : BitVec 32), s.Still → let g := k.port.toNat
    let l := k.link.toNat
    (s.ctrlCan g l = false → exec (.presenceNotice k m p st q) s = .next s) ∧
    (s.ctrlCan g l = true → ∃ t, exec (.presenceNotice k m p st q) s = .next t ∧ (t.link g l).rxSeq = (s.link g l).rxSeq + 1 ∧
      t.fld Reg.GIRTH_NOTICE 0 11 = m.toNat ∧ t.fld Reg.GIRTH_NOTICE 12 3 = p.toNat ∧ t.fld Reg.GIRTH_NOTICE 16 3 = st.toNat ∧
      (m.toNat ≠ s.me → (m.toNat, p.toNat, q.toNat) ∉ s.girth.notices → (m.toNat, p.toNat, q.toNat) ∈ t.girth.notices ∧
        ((m.toNat, p.toNat) ∈ t.girth.isolated ↔ st = 4) ∧
        (st = 3 → (m.toNat, p.toNat) ∉ t.girth.downKnown) ∧ (st ≠ 3 → (m.toNat, p.toNat) ∈ t.girth.downKnown))))

/-! ### Media -/

/-- Programs, read-backs and erases: a page programmed in order takes its slots from the free to the valid or parity ones, and a failed one retires its block; a
read-back that decodes releases its data from the buffer and one that does not closes the block; a finished erase frees the block, a failed one retires it.

The choices of log entries 117, 150, 151 and 155 in it are the model's. -/
def Obligations.ProgramsAndErasesMovePages : Prop :=
  ∀ (s : State) (p : Ppa), s.NoneWait →
    let k := p.key
    let b := s.fblk k
    (∀ slc kind pass (beside : List (BitVec 11)),
      let can := s.ppaHere p = true ∧ (b.use = .good ∨ (b.use = .open_ ∧ b.slc = slc)) ∧ p.page.toNat = b.next ∧ p.page.toNat < modePages slc ∧
        s.progFits p slc kind = true ∧ s.mayProgram p.die (beside.map BitVec.toNat) = true
      let n := if slc then 4 else 1
      let to_ := if kind = .parity then Reg.MEDIA_PAGE_PARITY else Reg.MEDIA_PAGE_VALID
      let old := match kind with
        | .map id i => sget 0 s.media.maps (ukey id i)
        | .unit _ _ | .direct | .journal | .parity => 0
      (¬ can → exec (.flashProgramDone p slc kind ⟨pass, beside⟩) s = .next s) ∧
      (can → pass = true → ∃ t, exec (.flashProgramDone p slc kind ⟨pass, beside⟩) s = .next t ∧ t.mem = s.mem ∧ t.reg Reg.MEDIA_PROGRAMS = s.reg Reg.MEDIA_PROGRAMS + 1 ∧
        (old = 0 ∨ ppaBlk (old - 1) ≠ k →
          t.fblk k = { b with slc := slc, next := b.next + 1, use := if b.next + 1 = modePages slc then .closed else .open_
                              valid := if kind = .parity then b.valid else b.valid + n, parity := if kind = .parity then b.parity + n else b.parity }) ∧
        t.fld Reg.MEDIA_PAGE_FREE 0 36 = s.fld Reg.MEDIA_PAGE_FREE 0 36 - n ∧ (old = 0 → t.fld to_ 0 36 = (s.fld to_ 0 36 + n) % 2 ^ 36) ∧
        (∀ id u, kind = .unit id u → (∀ v, s.ns? id = some v → (t.ns? id).map (fun w => w.home u) = some (p.nat + 1)) ∧
          setHas t.media.fresh (ukey id u) = false ∧ setHas t.media.moved (ukey id u) = false ∧ (slc = false → setHas t.media.held p.nat = true)) ∧
        (∀ id i, kind = .map id i → sget 0 t.media.maps (ukey id i) = p.nat + 1 ∧ setHas t.media.mapDirty (ukey id i) = false) ∧
        (kind = .journal → t.media.journal = 0)) ∧
      (can → pass = false → ∃ t, exec (.flashProgramDone p slc kind ⟨pass, beside⟩) s = .next t ∧ (t.fblk k).use = .bad ∧ (t.fblk k).bad = 3072 ∧ t.bit Reg.MEDIA_FAULT 3 = true ∧
        (t.die p.die).progFail = (s.die p.die).progFail + 1)) ∧
    (∀ bits ok,
      let can := s.ppaHere p = true ∧ b.slc = false ∧ b.erasing = false ∧ b.use ≠ .bad ∧ p.page.toNat % 4 = 3 ∧ p.page.toNat < b.next ∧ s.directBlk k = false ∧
        s.reinOpen 8 .media = true
      let group := (List.range 4).map (fun i => ppaNat k (p.page.toNat - i))
      let us := s.unitsOn group.contains
      let good := ok = true ∧ bits < s.fld Reg.MEDIA_REFRESH_CTL 8 8
      (¬ can → exec (.readBack p bits ok) s = .next s) ∧
      (can → good → ∃ t, exec (.readBack p bits ok) s = .next t ∧ t.media.held = s.media.held.filter (fun a => !group.contains a) ∧
        t.media.fresh = s.media.fresh ∧ t.media.moved = s.media.moved ∧ t.fblk k = b ∧ t.nss = s.nss ∧
        t.reg Reg.MEDIA_READS = s.reg Reg.MEDIA_READS + 1) ∧
      (can → ¬ good → ∃ t, exec (.readBack p bits ok) s = .next t ∧ t.media.held = s.media.held.filter (fun a => !group.contains a) ∧
        t.media.fresh = s.media.fresh ∧ (∀ e ∈ us, setHas t.media.moved e.1 = true) ∧ setHas t.media.refreshQ k = true ∧
        t.fblk k = { b with use := .closed, valid := b.valid - min us.length b.valid, invalid := b.invalid + min us.length b.valid } ∧ t.bit Reg.MEDIA_FAULT 5 = true)) ∧
    (∀ pass, let can := s.ppaHere p = true ∧ b.use = .erasing
      (¬ can → exec (.flashEraseDone p pass) s = .next s) ∧
      (can → pass = true → ∃ t, exec (.flashEraseDone p pass) s = .next t ∧ t.fblk k = { bad := b.bad, erases := b.erases + 1 } ∧
        t.reg Reg.MEDIA_ERASES = s.reg Reg.MEDIA_ERASES + 1 ∧ setHas t.media.eraseQ k = false ∧ ∀ e ∈ t.nss, ∀ z ∈ e.2.zones, k ∉ z.2.toErase) ∧
      (can → pass = false → ∃ t, exec (.flashEraseDone p pass) s = .next t ∧ (t.fblk k).use = .bad ∧ t.bit Reg.MEDIA_FAULT 4 = true)) ∧
    (let can := s.ppaHere p = true ∧ b.use = .suspended ∧ s.eraseHeld = false;
      (¬ can → exec (.eraseResume p) s = .next s) ∧ (can → exec (.eraseResume p) s = .next (s.setFblk k { b with use := .erasing })))

/-- Reads from flash count, schedule a refresh where the margins say so, rebuild from the stripe, and record what they cannot recover; a read around a busy die
rebuilds it; the layer folds, collects and refreshes blocks, whose data wait in the buffer; a die or channel that fails is retired, the hold-up bank's cap falls.

The choices of log entries 117, 151, 152, 153, 154, 155, 156 and 190 in it are the model's. -/
def Obligations.ReadsAndUpkeepAreCounted : Prop :=
  ∀ (s : State) (p : Ppa),
    let k := p.key
    let b := s.fblk k
    (∀ rs q, let deep := rs.any Recovery.deep
      (s.ppaHere p = false ∨ b.erasing = true ∨ (deep = true ∧ s.reinOpen 8 .media = false) → exec (.flashPageReadDone p rs q) s = .next s) ∧
      (s.ppaHere p = true → b.erasing = false → (deep = true → s.reinOpen 8 .media = true) → ∃ t, exec (.flashPageReadDone p rs q) s = .next t ∧
        t.reg Reg.MEDIA_READS = s.reg Reg.MEDIA_READS + (if deep then 32 else 1) ∧ t.reg Reg.MEDIA_REBUILDS = s.reg Reg.MEDIA_REBUILDS + (if deep then 1 else 0) ∧
        t.reg Reg.MEDIA_UNCORR = s.reg Reg.MEDIA_UNCORR + BitVec.ofNat 64 (rs.count .failed) ∧ (Recovery.failed ∈ rs → t.bit Reg.MEDIA_FAULT 6 = true) ∧
        (Recovery.failed ∉ rs → t.nss = s.nss) ∧ (Recovery.failed ∉ rs ∨ (∀ c < 32, (s.core c).run ≠ .running) → t.mem = s.mem) ∧
        (b.use ≠ .bad → (∃ r ∈ rs, (∃ n, r = .hard n ∧ s.fld Reg.MEDIA_REFRESH_CTL 8 8 ≤ n) ∨ (∃ n, r = .retry n ∧ s.fld Reg.MEDIA_REFRESH_CTL 0 4 ≤ n) ∨
            r = .soft ∨ r = .rebuilt ∨ r = .failed) → setHas t.media.refreshQ k = true) ∧
        ((∀ r ∈ rs, ∃ n, r = .hard n ∧ n < s.fld Reg.MEDIA_REFRESH_CTL 8 8) → t.media.refreshQ = s.media.refreshQ))) ∧
    (s.NoneWait → ∀ first, let full := 8 ≤ (s.media.around.filter (fun q => groupOf (q % 64) (q / 64 % 32) == groupOf p.channel.toNat p.position.toNat)).length
      let can := s.ppaHere p = true ∧ s.bit Reg.MEDIA_RA_CTL 0 = true ∧ b.erasing = false ∧ ¬ full ∧ setHas s.media.around p.nat = false ∧ s.reinOpen 8 .media = true
      (¬ can → exec (.readAround p first) s = .next s) ∧
      (can → ∃ t, exec (.readAround p first) s = .next t ∧ t.reg Reg.MEDIA_READ_AROUND = s.reg Reg.MEDIA_READ_AROUND + 1 ∧ setHas t.media.around p.nat = !first ∧
        (first = true → setHas t.media.rebuilt p.nat = true ∧ (b.use ≠ .bad → setHas t.media.refreshQ k = true)) ∧
        t.reg Reg.MEDIA_REBUILDS = s.reg Reg.MEDIA_REBUILDS + 1 ∧ t.reg Reg.MEDIA_READS = s.reg Reg.MEDIA_READS + 31 ∧ t.nss = s.nss)) ∧
    (∀ pages, let can := s.ppaHere p = true ∧ b.slc = true ∧ b.erasing = false ∧ b.use ≠ .bad ∧ s.reinOpen 8 .media = true
      let us := (s.unitsIn k).take pages
      let n := us.length
      (¬ can → exec (.fold p pages) s = .next s) ∧
      (can → ∃ t, exec (.fold p pages) s = .next t ∧ (∀ e ∈ us, setHas t.media.moved e.1 = true) ∧ t.media.fresh = s.media.fresh ∧
        (t.fblk k).valid = b.valid - 4 * n ∧ t.reg Reg.MEDIA_READS = s.reg Reg.MEDIA_READS + BitVec.ofNat 64 n ∧
        (b.use ≠ .closed → t.fblk k = { b with valid := b.valid - 4 * n, invalid := b.invalid + min (4 * n) b.valid }))) ∧
    (s.alive = false ∨ s.reinOpen 8 .media = false ∨ s.fld Reg.MEDIA_GC_CTL 0 16 ≤ s.freeBp ∨ s.victim = none → exec .garbageCollection s = .next s) ∧
    (∀ v, s.alive = true → s.reinOpen 8 .media = true → s.freeBp < s.fld Reg.MEDIA_GC_CTL 0 16 → s.victim = some v →
      ∃ t, exec .garbageCollection s = .next t ∧ ∀ m ∈ s.sbBlks v, (t.fblk m).valid = 0 ∧ (0 < (s.fblk m).valid → ∀ e ∈ s.unitsIn m, setHas t.media.moved e.1 = true)) ∧
    (let v := sbOf (s.servesAs k)
      let can := s.alive = true ∧ p.ok = true ∧ s.reinOpen 8 .media = true ∧ (∃ m ∈ s.sbBlks v, setHas s.media.refreshQ m = true) ∧
        (s.directBlk k = true → s.freeSb (Config.superblock v 0 s.free % superblocks) ≠ none)
      (¬ can → exec (.refresh p) s = .next s) ∧
      (can → ∃ t, exec (.refresh p) s = .next t ∧ t.reg Reg.MEDIA_REFRESHES = s.reg Reg.MEDIA_REFRESHES + 1 ∧
        ∀ m ∈ s.sbBlks v, setHas t.media.refreshQ m = false ∧ ((s.fblk m).use ≠ .good → (t.fblk m).valid = 0))) ∧
    (s.NoneWait → ∀ c : BitVec 6, let v := s.chan c.toNat
      (s.alive = false ∨ v.down = true → exec (.channelTrainingFail c) s = .next s) ∧
      (s.alive = true → v.down = false → v.fails + 1 < 3 → ∃ t, exec (.channelTrainingFail c) s = .next t ∧ t.regs = s.regs ∧
        t.chan c.toNat = { v with fails := v.fails + 1, retrains := v.retrains + 1 }) ∧
      (s.alive = true → v.down = false → 3 ≤ v.fails + 1 → ∃ t, exec (.channelTrainingFail c) s = .next t ∧ (t.chan c.toNat).down = true ∧
        t.bit Reg.MEDIA_FAULT 9 = true ∧ ∀ i < 24, (t.die (c.toNat * 24 + i)).retired = true)) ∧
    (s.NoneWait → ∀ d : BitVec 11, (s.alive = false ∨ 1536 ≤ d.toNat ∨ (s.die d.toNat).retired = true → exec (.dieStopsAnswering d) s = .next s) ∧
      (s.alive = true → d.toNat < 1536 → (s.die d.toNat).retired = false → ∃ t, exec (.dieStopsAnswering d) s = .next t ∧ (t.die d.toNat).retired = true ∧
        t.bit Reg.MEDIA_FAULT 8 = true ∧ ∀ e ∈ s.media.blks, keyDie e.1 = d.toNat → (t.fblk e.1).use = .bad)) ∧
    (∀ uf, (s.alive = false ∨ 15000 ≤ uf → exec (.holdupMeasure uf) s = .next s) ∧
      (s.alive = true → uf < 15000 → let m := min s.media.capNext (if uf < 8000 then 256 else 1024)
        let cap := if s.media.buffered < m * 64 then m else s.media.bufCapMiB
        exec (.holdupMeasure uf) s = .next { s with media := { s.media with holdupLow := true, capNext := m, bufCapMiB := cap } }))
end

