-- ==== Sys2Proof/Laws/Sparse.lean ====
section
/-! SUPPORT. Laws/Sparse.lean: sparse maps: what a read finds after a write, and that writes keep the canonical form; sets of numbers. -/

namespace Sys2Proof.Machine

variable {α : Type}

theorem sget_sins_self (d v : α) (m : List (Nat × α)) (k : Nat) : sget d (sins m k v) k = v := by
  induction m with
  | nil => simp [sins, sget]
  | cons e r ih =>
    obtain ⟨j, u⟩ := e
    simp only [sins]
    split
    · simp [sget]
    · split
      · simp [sget]
      · rename_i h
        simp [sget, h, ih]

theorem sget_sins_ne (d v : α) (m : List (Nat × α)) {k i : Nat} (h : i ≠ k) : sget d (sins m k v) i = sget d m i := by
  induction m with
  | nil => simp [sins, sget, Ne.symm h]
  | cons e r ih =>
    obtain ⟨j, u⟩ := e
    simp only [sins]
    split
    · simp [sget, Ne.symm h]
    · split
      · rename_i hjk
        subst hjk
        simp [sget, Ne.symm h]
      · simp only [sget, ih]

theorem sget_sdel_ne (d : α) (m : List (Nat × α)) {k i : Nat} (h : i ≠ k) : sget d (sdel m k) i = sget d m i := by
  induction m with
  | nil => rfl
  | cons e r ih =>
    obtain ⟨j, u⟩ := e
    by_cases hj : j = k
    · subst hj
      simpa [sdel, sget, Ne.symm h] using ih
    · simp only [sdel, ne_eq, hj, not_false_eq_true, List.filter_cons, bne_iff_ne, if_true, sget] at ih ⊢
      rw [ih]

theorem sget_sdel_self (d : α) (m : List (Nat × α)) (k : Nat) : sget d (sdel m k) k = d := by
  induction m with
  | nil => rfl
  | cons e r ih =>
    obtain ⟨j, u⟩ := e
    by_cases hj : j = k
    · subst hj
      simpa [sdel] using ih
    · simp only [sdel, ne_eq, hj, not_false_eq_true, List.filter_cons, bne_iff_ne, if_true, sget, if_false] at ih ⊢
      exact ih

/-- Keys strictly rising, each above `lo`. -/
def risesFrom (lo : Option Nat) : List (Nat × α) → Prop
  | [] => True
  | (j, _) :: r => (∀ i ∈ lo, i < j) ∧ risesFrom (some j) r

theorem risesFrom_mono {m : List (Nat × α)} {a b : Nat} (h : a ≤ b) (hm : risesFrom (some b) m) : risesFrom (some a) m := by
  cases m with
  | nil => trivial
  | cons e r =>
    obtain ⟨j, u⟩ := e
    refine ⟨?_, hm.2⟩
    have := hm.1
    simp only [Option.mem_def, Option.some.injEq, forall_eq'] at this ⊢
    omega

theorem risesFrom_none {m : List (Nat × α)} {a : Option Nat} (hm : risesFrom a m) : risesFrom none m := by
  cases m with
  | nil => trivial
  | cons e r => exact ⟨by simp, hm.2⟩

theorem filter_risesFrom {m : List (Nat × α)} {a : Option Nat} (p : Nat × α → Bool) (hm : risesFrom a m) : risesFrom a (m.filter p) := by
  induction m generalizing a with
  | nil => trivial
  | cons e r ih =>
    obtain ⟨j, u⟩ := e
    by_cases hp : p (j, u) = true
    · rw [List.filter_cons_of_pos hp]
      exact ⟨hm.1, ih hm.2⟩
    · rw [List.filter_cons_of_neg hp]
      have := ih hm.2
      cases h : r.filter p with
      | nil => trivial
      | cons e' r' =>
        rw [h] at this
        refine ⟨fun i hi => ?_, this.2⟩
        have h1 := hm.1 i hi
        have h2 := this.1 j rfl
        omega

theorem sdel_risesFrom {m : List (Nat × α)} {a : Option Nat} (k : Nat) (hm : risesFrom a m) : risesFrom a (sdel m k) :=
  filter_risesFrom _ hm

theorem sins_risesFrom {m : List (Nat × α)} {a : Option Nat} (k : Nat) (v : α) (ha : ∀ i ∈ a, i < k) (hm : risesFrom a m) :
    risesFrom a (sins m k v) := by
  induction m generalizing a with
  | nil => exact ⟨ha, trivial⟩
  | cons e r ih =>
    obtain ⟨j, u⟩ := e
    simp only [sins]
    split
    · exact ⟨ha, by simpa using ‹k < j›, hm.2⟩
    · split
      · rename_i _ h
        subst h
        exact ⟨hm.1, hm.2⟩
      · refine ⟨hm.1, ih ?_ hm.2⟩
        simp only [Option.mem_def, Option.some.injEq, forall_eq']
        omega

theorem mem_sdel {m : List (Nat × α)} {k : Nat} {e : Nat × α} (h : e ∈ sdel m k) : e ∈ m := (List.mem_filter.1 h).1

theorem mem_sins {m : List (Nat × α)} {k : Nat} {v : α} {e : Nat × α} (h : e ∈ sins m k v) : e = (k, v) ∨ e ∈ m := by
  induction m with
  | nil => simpa [sins] using h
  | cons x r ih =>
    obtain ⟨j, u⟩ := x
    simp only [sins] at h
    split at h
    · rcases List.mem_cons.1 h with h | h
      · exact Or.inl h
      · exact Or.inr h
    · split at h
      · rcases List.mem_cons.1 h with h | h
        · exact Or.inl h
        · exact Or.inr (List.mem_cons_of_mem _ h)
      · rcases List.mem_cons.1 h with h | h
        · exact Or.inr (List.mem_cons.2 (Or.inl h))
        · rcases ih h with h | h
          · exact Or.inl h
          · exact Or.inr (List.mem_cons_of_mem _ h)

theorem sins_sins (m : List (Nat × α)) (k : Nat) (v w : α) : sins (sins m k v) k w = sins m k w := by
  induction m with
  | nil => simp [sins]
  | cons e r ih =>
    obtain ⟨j, u⟩ := e
    simp only [sins]
    split
    · simp [sins]
    · split
      · rename_i a b
        simp [sins]
      · rename_i a b
        simp [sins, a, b, ih]

theorem sdel_sins (m : List (Nat × α)) (k : Nat) (v : α) : sdel (sins m k v) k = sdel m k := by
  induction m with
  | nil => simp [sins, sdel]
  | cons e r ih =>
    obtain ⟨j, u⟩ := e
    simp only [sins]
    split
    · simp [sdel]
    · split
      · rename_i a b
        subst b
        simp [sdel]
      · rename_i a b
        simp only [sdel] at ih ⊢
        rw [List.filter_cons, List.filter_cons, ih]

variable [DecidableEq α]

/-- Two writes of one key: the second stands. -/
theorem sput_sput (d : α) (m : List (Nat × α)) (k : Nat) {v : α} (hv : v ≠ d) (w : α) : sput d (sput d m k v) k w = sput d m k w := by
  unfold sput
  rw [if_neg hv]
  split
  · exact sdel_sins m k v
  · exact sins_sins m k v w

/-- The canonical form in two parts: rising keys, and no entry at the default. -/
theorem swf_iff (d : α) (m : List (Nat × α)) : swf d m = true ↔ risesFrom none m ∧ ∀ e ∈ m, e.2 ≠ d := by
  induction m with
  | nil => simp [swf, risesFrom]
  | cons e r ih =>
    obtain ⟨j, v⟩ := e
    cases r with
    | nil => simp [swf, risesFrom]
    | cons e' r' =>
      obtain ⟨k, w⟩ := e'
      simp only [swf, Bool.and_eq_true, decide_eq_true_eq, ih, risesFrom, List.mem_cons, forall_eq_or_imp, Option.mem_def, Option.some.injEq,
        forall_eq', reduceCtorEq, false_implies, implies_true, true_and]
      constructor
      · rintro ⟨⟨a, b⟩, c, e, f⟩
        exact ⟨⟨b, c⟩, a, e, f⟩
      · rintro ⟨⟨b, c⟩, a, e, f⟩
        exact ⟨⟨a, b⟩, c, e, f⟩

theorem swf_sput (d : α) {m : List (Nat × α)} (hm : swf d m = true) (k : Nat) (v : α) : swf d (sput d m k v) = true := by
  rw [swf_iff] at hm ⊢
  unfold sput
  split
  · exact ⟨sdel_risesFrom k hm.1, fun e he => hm.2 e (mem_sdel he)⟩
  · refine ⟨sins_risesFrom k v (by simp) hm.1, fun e he => ?_⟩
    rcases mem_sins he with rfl | he
    · assumption
    · exact hm.2 e he

@[simp] theorem sget_sput_self (d : α) (m : List (Nat × α)) (k : Nat) (v : α) : sget d (sput d m k v) k = v := by
  unfold sput
  split
  · rename_i h
    rw [sget_sdel_self d m, h]
  · exact sget_sins_self d v m k

theorem sget_sput_ne (d d' v : α) (m : List (Nat × α)) {k i : Nat} (h : i ≠ k) : sget d (sput d' m k v) i = sget d m i := by
  unfold sput
  split
  · exact sget_sdel_ne d m h
  · exact sget_sins_ne d v m h

theorem swf_filter (d : α) {m : List (Nat × α)} (p : Nat × α → Bool) (hm : swf d m = true) : swf d (m.filter p) = true := by
  rw [swf_iff] at hm ⊢
  exact ⟨filter_risesFrom p hm.1, fun e he => hm.2 e (List.mem_filter.1 he).1⟩

theorem setHas_iff (m : NatSet) (i : Nat) : setHas m i = true ↔ i ∈ m := by
  simp [setHas]

theorem mem_setAdd (m : NatSet) (k i : Nat) : i ∈ setAdd m k ↔ i = k ∨ i ∈ m := by
  induction m with
  | nil => simp [setAdd]
  | cons j r ih =>
    simp only [setAdd]
    split
    · simp
    · split
      · rename_i h
        subst h
        simp
      · simp only [List.mem_cons, ih]
        constructor
        · rintro (h | h | h)
          · exact Or.inr (Or.inl h)
          · exact Or.inl h
          · exact Or.inr (Or.inr h)
        · rintro (h | h | h)
          · exact Or.inr (Or.inl h)
          · exact Or.inl h
          · exact Or.inr (Or.inr h)

theorem setHas_setAdd_self (m : NatSet) (k : Nat) : setHas (setAdd m k) k = true := (setHas_iff _ _).2 ((mem_setAdd m k k).2 (Or.inl rfl))

theorem setHas_setDel_self (m : NatSet) (k : Nat) : setHas (setDel m k) k = false := by
  simp [setHas, setDel]

end Sys2Proof.Machine
end

