-- ==== Sys2Proof/Laws/State.lean ====
section
/-! SUPPORT. Laws/State.lean: what each elementary update of the state leaves as it was: one lemma for each field. -/

namespace Sys2Proof.Machine

open Sys2Proof

variable (s : State)

/-! ### `setReg` -/

@[simp] theorem State.setReg_pending (off : Nat) (v : Word) : (s.setReg off v).pending = s.pending := rfl
@[simp] theorem State.setReg_fuse (off : Nat) (v : Word) : (s.setReg off v).fuse = s.fuse := rfl
@[simp] theorem State.setReg_shadow (off : Nat) (v : Word) : (s.setReg off v).shadow = s.shadow := rfl
@[simp] theorem State.setReg_mem (off : Nat) (v : Word) : (s.setReg off v).mem = s.mem := rfl
@[simp] theorem State.setReg_valid (off : Nat) (v : Word) : (s.setReg off v).valid = s.valid := rfl
@[simp] theorem State.setReg_poison (off : Nat) (v : Word) : (s.setReg off v).poison = s.poison := rfl
@[simp] theorem State.setReg_scrubAt (off : Nat) (v : Word) : (s.setReg off v).scrubAt = s.scrubAt := rfl
@[simp] theorem State.setReg_cores (off : Nat) (v : Word) : (s.setReg off v).cores = s.cores := rfl
@[simp] theorem State.setReg_jobs (off : Nat) (v : Word) : (s.setReg off v).jobs = s.jobs := rfl
@[simp] theorem State.setReg_fifo (off : Nat) (v : Word) : (s.setReg off v).fifo = s.fifo := rfl
@[simp] theorem State.setReg_purseFrac (off : Nat) (v : Word) : (s.setReg off v).purseFrac = s.purseFrac := rfl
@[simp] theorem State.setReg_programs (off : Nat) (v : Word) : (s.setReg off v).programs = s.programs := rfl
@[simp] theorem State.setReg_allocs (off : Nat) (v : Word) : (s.setReg off v).allocs = s.allocs := rfl
@[simp] theorem State.setReg_saved (off : Nat) (v : Word) : (s.setReg off v).saved = s.saved := rfl
@[simp] theorem State.setReg_switchSeq (off : Nat) (v : Word) : (s.setReg off v).switchSeq = s.switchSeq := rfl
@[simp] theorem State.setReg_power (off : Nat) (v : Word) : (s.setReg off v).power = s.power := rfl
@[simp] theorem State.setReg_weight (off : Nat) (v : Word) : (s.setReg off v).weight = s.weight := rfl
@[simp] theorem State.setReg_nss (off : Nat) (v : Word) : (s.setReg off v).nss = s.nss := rfl
@[simp] theorem State.setReg_media (off : Nat) (v : Word) : (s.setReg off v).media = s.media := rfl
@[simp] theorem State.setReg_host (off : Nat) (v : Word) : (s.setReg off v).host = s.host := rfl
@[simp] theorem State.setReg_harness (off : Nat) (v : Word) : (s.setReg off v).harness = s.harness := rfl
@[simp] theorem State.setReg_serving (off : Nat) (v : Word) : (s.setReg off v).serving = s.serving := rfl
@[simp] theorem State.setReg_search (off : Nat) (v : Word) : (s.setReg off v).search = s.search := rfl
@[simp] theorem State.setReg_girth (off : Nat) (v : Word) : (s.setReg off v).girth = s.girth := rfl
@[simp] theorem State.setReg_guard (off : Nat) (v : Word) : (s.setReg off v).guard = s.guard := rfl
@[simp] theorem State.setReg_daybook (off : Nat) (v : Word) : (s.setReg off v).daybook = s.daybook := rfl
@[simp] theorem State.setReg_hub (off : Nat) (v : Word) : (s.setReg off v).hub = s.hub := rfl
@[simp] theorem State.setReg_free (off : Nat) (v : Word) : (s.setReg off v).free = s.free := rfl

/-! ### `setFld` -/

@[simp] theorem State.setFld_pending (off lo n v : Nat) : (s.setFld off lo n v).pending = s.pending := rfl
@[simp] theorem State.setFld_fuse (off lo n v : Nat) : (s.setFld off lo n v).fuse = s.fuse := rfl
@[simp] theorem State.setFld_shadow (off lo n v : Nat) : (s.setFld off lo n v).shadow = s.shadow := rfl
@[simp] theorem State.setFld_mem (off lo n v : Nat) : (s.setFld off lo n v).mem = s.mem := rfl
@[simp] theorem State.setFld_valid (off lo n v : Nat) : (s.setFld off lo n v).valid = s.valid := rfl
@[simp] theorem State.setFld_poison (off lo n v : Nat) : (s.setFld off lo n v).poison = s.poison := rfl
@[simp] theorem State.setFld_scrubAt (off lo n v : Nat) : (s.setFld off lo n v).scrubAt = s.scrubAt := rfl
@[simp] theorem State.setFld_cores (off lo n v : Nat) : (s.setFld off lo n v).cores = s.cores := rfl
@[simp] theorem State.setFld_jobs (off lo n v : Nat) : (s.setFld off lo n v).jobs = s.jobs := rfl
@[simp] theorem State.setFld_fifo (off lo n v : Nat) : (s.setFld off lo n v).fifo = s.fifo := rfl
@[simp] theorem State.setFld_purseFrac (off lo n v : Nat) : (s.setFld off lo n v).purseFrac = s.purseFrac := rfl
@[simp] theorem State.setFld_programs (off lo n v : Nat) : (s.setFld off lo n v).programs = s.programs := rfl
@[simp] theorem State.setFld_allocs (off lo n v : Nat) : (s.setFld off lo n v).allocs = s.allocs := rfl
@[simp] theorem State.setFld_saved (off lo n v : Nat) : (s.setFld off lo n v).saved = s.saved := rfl
@[simp] theorem State.setFld_switchSeq (off lo n v : Nat) : (s.setFld off lo n v).switchSeq = s.switchSeq := rfl
@[simp] theorem State.setFld_power (off lo n v : Nat) : (s.setFld off lo n v).power = s.power := rfl
@[simp] theorem State.setFld_weight (off lo n v : Nat) : (s.setFld off lo n v).weight = s.weight := rfl
@[simp] theorem State.setFld_nss (off lo n v : Nat) : (s.setFld off lo n v).nss = s.nss := rfl
@[simp] theorem State.setFld_media (off lo n v : Nat) : (s.setFld off lo n v).media = s.media := rfl
@[simp] theorem State.setFld_host (off lo n v : Nat) : (s.setFld off lo n v).host = s.host := rfl
@[simp] theorem State.setFld_harness (off lo n v : Nat) : (s.setFld off lo n v).harness = s.harness := rfl
@[simp] theorem State.setFld_serving (off lo n v : Nat) : (s.setFld off lo n v).serving = s.serving := rfl
@[simp] theorem State.setFld_search (off lo n v : Nat) : (s.setFld off lo n v).search = s.search := rfl
@[simp] theorem State.setFld_girth (off lo n v : Nat) : (s.setFld off lo n v).girth = s.girth := rfl
@[simp] theorem State.setFld_guard (off lo n v : Nat) : (s.setFld off lo n v).guard = s.guard := rfl
@[simp] theorem State.setFld_daybook (off lo n v : Nat) : (s.setFld off lo n v).daybook = s.daybook := rfl
@[simp] theorem State.setFld_hub (off lo n v : Nat) : (s.setFld off lo n v).hub = s.hub := rfl
@[simp] theorem State.setFld_free (off lo n v : Nat) : (s.setFld off lo n v).free = s.free := rfl

/-! ### `setBit` -/

@[simp] theorem State.setBit_pending (off i : Nat) (b : Bool) : (s.setBit off i b).pending = s.pending := rfl
@[simp] theorem State.setBit_fuse (off i : Nat) (b : Bool) : (s.setBit off i b).fuse = s.fuse := rfl
@[simp] theorem State.setBit_shadow (off i : Nat) (b : Bool) : (s.setBit off i b).shadow = s.shadow := rfl
@[simp] theorem State.setBit_mem (off i : Nat) (b : Bool) : (s.setBit off i b).mem = s.mem := rfl
@[simp] theorem State.setBit_valid (off i : Nat) (b : Bool) : (s.setBit off i b).valid = s.valid := rfl
@[simp] theorem State.setBit_poison (off i : Nat) (b : Bool) : (s.setBit off i b).poison = s.poison := rfl
@[simp] theorem State.setBit_scrubAt (off i : Nat) (b : Bool) : (s.setBit off i b).scrubAt = s.scrubAt := rfl
@[simp] theorem State.setBit_cores (off i : Nat) (b : Bool) : (s.setBit off i b).cores = s.cores := rfl
@[simp] theorem State.setBit_jobs (off i : Nat) (b : Bool) : (s.setBit off i b).jobs = s.jobs := rfl
@[simp] theorem State.setBit_fifo (off i : Nat) (b : Bool) : (s.setBit off i b).fifo = s.fifo := rfl
@[simp] theorem State.setBit_purseFrac (off i : Nat) (b : Bool) : (s.setBit off i b).purseFrac = s.purseFrac := rfl
@[simp] theorem State.setBit_programs (off i : Nat) (b : Bool) : (s.setBit off i b).programs = s.programs := rfl
@[simp] theorem State.setBit_allocs (off i : Nat) (b : Bool) : (s.setBit off i b).allocs = s.allocs := rfl
@[simp] theorem State.setBit_saved (off i : Nat) (b : Bool) : (s.setBit off i b).saved = s.saved := rfl
@[simp] theorem State.setBit_switchSeq (off i : Nat) (b : Bool) : (s.setBit off i b).switchSeq = s.switchSeq := rfl
@[simp] theorem State.setBit_power (off i : Nat) (b : Bool) : (s.setBit off i b).power = s.power := rfl
@[simp] theorem State.setBit_weight (off i : Nat) (b : Bool) : (s.setBit off i b).weight = s.weight := rfl
@[simp] theorem State.setBit_nss (off i : Nat) (b : Bool) : (s.setBit off i b).nss = s.nss := rfl
@[simp] theorem State.setBit_media (off i : Nat) (b : Bool) : (s.setBit off i b).media = s.media := rfl
@[simp] theorem State.setBit_host (off i : Nat) (b : Bool) : (s.setBit off i b).host = s.host := rfl
@[simp] theorem State.setBit_harness (off i : Nat) (b : Bool) : (s.setBit off i b).harness = s.harness := rfl
@[simp] theorem State.setBit_serving (off i : Nat) (b : Bool) : (s.setBit off i b).serving = s.serving := rfl
@[simp] theorem State.setBit_search (off i : Nat) (b : Bool) : (s.setBit off i b).search = s.search := rfl
@[simp] theorem State.setBit_girth (off i : Nat) (b : Bool) : (s.setBit off i b).girth = s.girth := rfl
@[simp] theorem State.setBit_guard (off i : Nat) (b : Bool) : (s.setBit off i b).guard = s.guard := rfl
@[simp] theorem State.setBit_daybook (off i : Nat) (b : Bool) : (s.setBit off i b).daybook = s.daybook := rfl
@[simp] theorem State.setBit_hub (off i : Nat) (b : Bool) : (s.setBit off i b).hub = s.hub := rfl
@[simp] theorem State.setBit_free (off i : Nat) (b : Bool) : (s.setBit off i b).free = s.free := rfl

/-! ### `addReg` -/

@[simp] theorem State.addReg_pending (off n : Nat) : (s.addReg off n).pending = s.pending := rfl
@[simp] theorem State.addReg_fuse (off n : Nat) : (s.addReg off n).fuse = s.fuse := rfl
@[simp] theorem State.addReg_shadow (off n : Nat) : (s.addReg off n).shadow = s.shadow := rfl
@[simp] theorem State.addReg_mem (off n : Nat) : (s.addReg off n).mem = s.mem := rfl
@[simp] theorem State.addReg_valid (off n : Nat) : (s.addReg off n).valid = s.valid := rfl
@[simp] theorem State.addReg_poison (off n : Nat) : (s.addReg off n).poison = s.poison := rfl
@[simp] theorem State.addReg_scrubAt (off n : Nat) : (s.addReg off n).scrubAt = s.scrubAt := rfl
@[simp] theorem State.addReg_cores (off n : Nat) : (s.addReg off n).cores = s.cores := rfl
@[simp] theorem State.addReg_jobs (off n : Nat) : (s.addReg off n).jobs = s.jobs := rfl
@[simp] theorem State.addReg_fifo (off n : Nat) : (s.addReg off n).fifo = s.fifo := rfl
@[simp] theorem State.addReg_purseFrac (off n : Nat) : (s.addReg off n).purseFrac = s.purseFrac := rfl
@[simp] theorem State.addReg_programs (off n : Nat) : (s.addReg off n).programs = s.programs := rfl
@[simp] theorem State.addReg_allocs (off n : Nat) : (s.addReg off n).allocs = s.allocs := rfl
@[simp] theorem State.addReg_saved (off n : Nat) : (s.addReg off n).saved = s.saved := rfl
@[simp] theorem State.addReg_switchSeq (off n : Nat) : (s.addReg off n).switchSeq = s.switchSeq := rfl
@[simp] theorem State.addReg_power (off n : Nat) : (s.addReg off n).power = s.power := rfl
@[simp] theorem State.addReg_weight (off n : Nat) : (s.addReg off n).weight = s.weight := rfl
@[simp] theorem State.addReg_nss (off n : Nat) : (s.addReg off n).nss = s.nss := rfl
@[simp] theorem State.addReg_media (off n : Nat) : (s.addReg off n).media = s.media := rfl
@[simp] theorem State.addReg_host (off n : Nat) : (s.addReg off n).host = s.host := rfl
@[simp] theorem State.addReg_harness (off n : Nat) : (s.addReg off n).harness = s.harness := rfl
@[simp] theorem State.addReg_serving (off n : Nat) : (s.addReg off n).serving = s.serving := rfl
@[simp] theorem State.addReg_search (off n : Nat) : (s.addReg off n).search = s.search := rfl
@[simp] theorem State.addReg_girth (off n : Nat) : (s.addReg off n).girth = s.girth := rfl
@[simp] theorem State.addReg_guard (off n : Nat) : (s.addReg off n).guard = s.guard := rfl
@[simp] theorem State.addReg_daybook (off n : Nat) : (s.addReg off n).daybook = s.daybook := rfl
@[simp] theorem State.addReg_hub (off n : Nat) : (s.addReg off n).hub = s.hub := rfl
@[simp] theorem State.addReg_free (off n : Nat) : (s.addReg off n).free = s.free := rfl

/-! ### `subReg` -/

@[simp] theorem State.subReg_pending (off n : Nat) : (s.subReg off n).pending = s.pending := rfl
@[simp] theorem State.subReg_fuse (off n : Nat) : (s.subReg off n).fuse = s.fuse := rfl
@[simp] theorem State.subReg_shadow (off n : Nat) : (s.subReg off n).shadow = s.shadow := rfl
@[simp] theorem State.subReg_mem (off n : Nat) : (s.subReg off n).mem = s.mem := rfl
@[simp] theorem State.subReg_valid (off n : Nat) : (s.subReg off n).valid = s.valid := rfl
@[simp] theorem State.subReg_poison (off n : Nat) : (s.subReg off n).poison = s.poison := rfl
@[simp] theorem State.subReg_scrubAt (off n : Nat) : (s.subReg off n).scrubAt = s.scrubAt := rfl
@[simp] theorem State.subReg_cores (off n : Nat) : (s.subReg off n).cores = s.cores := rfl
@[simp] theorem State.subReg_jobs (off n : Nat) : (s.subReg off n).jobs = s.jobs := rfl
@[simp] theorem State.subReg_fifo (off n : Nat) : (s.subReg off n).fifo = s.fifo := rfl
@[simp] theorem State.subReg_purseFrac (off n : Nat) : (s.subReg off n).purseFrac = s.purseFrac := rfl
@[simp] theorem State.subReg_programs (off n : Nat) : (s.subReg off n).programs = s.programs := rfl
@[simp] theorem State.subReg_allocs (off n : Nat) : (s.subReg off n).allocs = s.allocs := rfl
@[simp] theorem State.subReg_saved (off n : Nat) : (s.subReg off n).saved = s.saved := rfl
@[simp] theorem State.subReg_switchSeq (off n : Nat) : (s.subReg off n).switchSeq = s.switchSeq := rfl
@[simp] theorem State.subReg_power (off n : Nat) : (s.subReg off n).power = s.power := rfl
@[simp] theorem State.subReg_weight (off n : Nat) : (s.subReg off n).weight = s.weight := rfl
@[simp] theorem State.subReg_nss (off n : Nat) : (s.subReg off n).nss = s.nss := rfl
@[simp] theorem State.subReg_media (off n : Nat) : (s.subReg off n).media = s.media := rfl
@[simp] theorem State.subReg_host (off n : Nat) : (s.subReg off n).host = s.host := rfl
@[simp] theorem State.subReg_harness (off n : Nat) : (s.subReg off n).harness = s.harness := rfl
@[simp] theorem State.subReg_serving (off n : Nat) : (s.subReg off n).serving = s.serving := rfl
@[simp] theorem State.subReg_search (off n : Nat) : (s.subReg off n).search = s.search := rfl
@[simp] theorem State.subReg_girth (off n : Nat) : (s.subReg off n).girth = s.girth := rfl
@[simp] theorem State.subReg_guard (off n : Nat) : (s.subReg off n).guard = s.guard := rfl
@[simp] theorem State.subReg_daybook (off n : Nat) : (s.subReg off n).daybook = s.daybook := rfl
@[simp] theorem State.subReg_hub (off n : Nat) : (s.subReg off n).hub = s.hub := rfl
@[simp] theorem State.subReg_free (off n : Nat) : (s.subReg off n).free = s.free := rfl

/-! ### `bump` -/

@[simp] theorem State.bump_pending (off lo w : Nat) : (s.bump off lo w).pending = s.pending := rfl
@[simp] theorem State.bump_fuse (off lo w : Nat) : (s.bump off lo w).fuse = s.fuse := rfl
@[simp] theorem State.bump_shadow (off lo w : Nat) : (s.bump off lo w).shadow = s.shadow := rfl
@[simp] theorem State.bump_mem (off lo w : Nat) : (s.bump off lo w).mem = s.mem := rfl
@[simp] theorem State.bump_valid (off lo w : Nat) : (s.bump off lo w).valid = s.valid := rfl
@[simp] theorem State.bump_poison (off lo w : Nat) : (s.bump off lo w).poison = s.poison := rfl
@[simp] theorem State.bump_scrubAt (off lo w : Nat) : (s.bump off lo w).scrubAt = s.scrubAt := rfl
@[simp] theorem State.bump_cores (off lo w : Nat) : (s.bump off lo w).cores = s.cores := rfl
@[simp] theorem State.bump_jobs (off lo w : Nat) : (s.bump off lo w).jobs = s.jobs := rfl
@[simp] theorem State.bump_fifo (off lo w : Nat) : (s.bump off lo w).fifo = s.fifo := rfl
@[simp] theorem State.bump_purseFrac (off lo w : Nat) : (s.bump off lo w).purseFrac = s.purseFrac := rfl
@[simp] theorem State.bump_programs (off lo w : Nat) : (s.bump off lo w).programs = s.programs := rfl
@[simp] theorem State.bump_allocs (off lo w : Nat) : (s.bump off lo w).allocs = s.allocs := rfl
@[simp] theorem State.bump_saved (off lo w : Nat) : (s.bump off lo w).saved = s.saved := rfl
@[simp] theorem State.bump_switchSeq (off lo w : Nat) : (s.bump off lo w).switchSeq = s.switchSeq := rfl
@[simp] theorem State.bump_power (off lo w : Nat) : (s.bump off lo w).power = s.power := rfl
@[simp] theorem State.bump_weight (off lo w : Nat) : (s.bump off lo w).weight = s.weight := rfl
@[simp] theorem State.bump_nss (off lo w : Nat) : (s.bump off lo w).nss = s.nss := rfl
@[simp] theorem State.bump_media (off lo w : Nat) : (s.bump off lo w).media = s.media := rfl
@[simp] theorem State.bump_host (off lo w : Nat) : (s.bump off lo w).host = s.host := rfl
@[simp] theorem State.bump_harness (off lo w : Nat) : (s.bump off lo w).harness = s.harness := rfl
@[simp] theorem State.bump_serving (off lo w : Nat) : (s.bump off lo w).serving = s.serving := rfl
@[simp] theorem State.bump_search (off lo w : Nat) : (s.bump off lo w).search = s.search := rfl
@[simp] theorem State.bump_girth (off lo w : Nat) : (s.bump off lo w).girth = s.girth := rfl
@[simp] theorem State.bump_guard (off lo w : Nat) : (s.bump off lo w).guard = s.guard := rfl
@[simp] theorem State.bump_daybook (off lo w : Nat) : (s.bump off lo w).daybook = s.daybook := rfl
@[simp] theorem State.bump_hub (off lo w : Nat) : (s.bump off lo w).hub = s.hub := rfl
@[simp] theorem State.bump_free (off lo w : Nat) : (s.bump off lo w).free = s.free := rfl

/-! ### `setShadow` -/

@[simp] theorem State.setShadow_pending (off : Nat) (v : Word) : (s.setShadow off v).pending = s.pending := rfl
@[simp] theorem State.setShadow_fuse (off : Nat) (v : Word) : (s.setShadow off v).fuse = s.fuse := rfl
@[simp] theorem State.setShadow_regs (off : Nat) (v : Word) : (s.setShadow off v).regs = s.regs := rfl
@[simp] theorem State.setShadow_mem (off : Nat) (v : Word) : (s.setShadow off v).mem = s.mem := rfl
@[simp] theorem State.setShadow_valid (off : Nat) (v : Word) : (s.setShadow off v).valid = s.valid := rfl
@[simp] theorem State.setShadow_poison (off : Nat) (v : Word) : (s.setShadow off v).poison = s.poison := rfl
@[simp] theorem State.setShadow_scrubAt (off : Nat) (v : Word) : (s.setShadow off v).scrubAt = s.scrubAt := rfl
@[simp] theorem State.setShadow_cores (off : Nat) (v : Word) : (s.setShadow off v).cores = s.cores := rfl
@[simp] theorem State.setShadow_jobs (off : Nat) (v : Word) : (s.setShadow off v).jobs = s.jobs := rfl
@[simp] theorem State.setShadow_fifo (off : Nat) (v : Word) : (s.setShadow off v).fifo = s.fifo := rfl
@[simp] theorem State.setShadow_purseFrac (off : Nat) (v : Word) : (s.setShadow off v).purseFrac = s.purseFrac := rfl
@[simp] theorem State.setShadow_programs (off : Nat) (v : Word) : (s.setShadow off v).programs = s.programs := rfl
@[simp] theorem State.setShadow_allocs (off : Nat) (v : Word) : (s.setShadow off v).allocs = s.allocs := rfl
@[simp] theorem State.setShadow_saved (off : Nat) (v : Word) : (s.setShadow off v).saved = s.saved := rfl
@[simp] theorem State.setShadow_switchSeq (off : Nat) (v : Word) : (s.setShadow off v).switchSeq = s.switchSeq := rfl
@[simp] theorem State.setShadow_power (off : Nat) (v : Word) : (s.setShadow off v).power = s.power := rfl
@[simp] theorem State.setShadow_weight (off : Nat) (v : Word) : (s.setShadow off v).weight = s.weight := rfl
@[simp] theorem State.setShadow_nss (off : Nat) (v : Word) : (s.setShadow off v).nss = s.nss := rfl
@[simp] theorem State.setShadow_media (off : Nat) (v : Word) : (s.setShadow off v).media = s.media := rfl
@[simp] theorem State.setShadow_host (off : Nat) (v : Word) : (s.setShadow off v).host = s.host := rfl
@[simp] theorem State.setShadow_harness (off : Nat) (v : Word) : (s.setShadow off v).harness = s.harness := rfl
@[simp] theorem State.setShadow_serving (off : Nat) (v : Word) : (s.setShadow off v).serving = s.serving := rfl
@[simp] theorem State.setShadow_search (off : Nat) (v : Word) : (s.setShadow off v).search = s.search := rfl
@[simp] theorem State.setShadow_girth (off : Nat) (v : Word) : (s.setShadow off v).girth = s.girth := rfl
@[simp] theorem State.setShadow_guard (off : Nat) (v : Word) : (s.setShadow off v).guard = s.guard := rfl
@[simp] theorem State.setShadow_daybook (off : Nat) (v : Word) : (s.setShadow off v).daybook = s.daybook := rfl
@[simp] theorem State.setShadow_hub (off : Nat) (v : Word) : (s.setShadow off v).hub = s.hub := rfl
@[simp] theorem State.setShadow_free (off : Nat) (v : Word) : (s.setShadow off v).free = s.free := rfl

/-! ### `validate` -/

@[simp] theorem State.validate_pending (l : Nat) : (s.validate l).pending = s.pending := rfl
@[simp] theorem State.validate_fuse (l : Nat) : (s.validate l).fuse = s.fuse := rfl
@[simp] theorem State.validate_regs (l : Nat) : (s.validate l).regs = s.regs := rfl
@[simp] theorem State.validate_shadow (l : Nat) : (s.validate l).shadow = s.shadow := rfl
@[simp] theorem State.validate_mem (l : Nat) : (s.validate l).mem = s.mem := rfl
@[simp] theorem State.validate_poison (l : Nat) : (s.validate l).poison = s.poison := rfl
@[simp] theorem State.validate_scrubAt (l : Nat) : (s.validate l).scrubAt = s.scrubAt := rfl
@[simp] theorem State.validate_cores (l : Nat) : (s.validate l).cores = s.cores := rfl
@[simp] theorem State.validate_jobs (l : Nat) : (s.validate l).jobs = s.jobs := rfl
@[simp] theorem State.validate_fifo (l : Nat) : (s.validate l).fifo = s.fifo := rfl
@[simp] theorem State.validate_purseFrac (l : Nat) : (s.validate l).purseFrac = s.purseFrac := rfl
@[simp] theorem State.validate_programs (l : Nat) : (s.validate l).programs = s.programs := rfl
@[simp] theorem State.validate_allocs (l : Nat) : (s.validate l).allocs = s.allocs := rfl
@[simp] theorem State.validate_saved (l : Nat) : (s.validate l).saved = s.saved := rfl
@[simp] theorem State.validate_switchSeq (l : Nat) : (s.validate l).switchSeq = s.switchSeq := rfl
@[simp] theorem State.validate_power (l : Nat) : (s.validate l).power = s.power := rfl
@[simp] theorem State.validate_weight (l : Nat) : (s.validate l).weight = s.weight := rfl
@[simp] theorem State.validate_nss (l : Nat) : (s.validate l).nss = s.nss := rfl
@[simp] theorem State.validate_media (l : Nat) : (s.validate l).media = s.media := rfl
@[simp] theorem State.validate_host (l : Nat) : (s.validate l).host = s.host := rfl
@[simp] theorem State.validate_harness (l : Nat) : (s.validate l).harness = s.harness := rfl
@[simp] theorem State.validate_serving (l : Nat) : (s.validate l).serving = s.serving := rfl
@[simp] theorem State.validate_search (l : Nat) : (s.validate l).search = s.search := rfl
@[simp] theorem State.validate_girth (l : Nat) : (s.validate l).girth = s.girth := rfl
@[simp] theorem State.validate_guard (l : Nat) : (s.validate l).guard = s.guard := rfl
@[simp] theorem State.validate_daybook (l : Nat) : (s.validate l).daybook = s.daybook := rfl
@[simp] theorem State.validate_hub (l : Nat) : (s.validate l).hub = s.hub := rfl
@[simp] theorem State.validate_free (l : Nat) : (s.validate l).free = s.free := rfl

/-! ### `setCore` -/

@[simp] theorem State.setCore_pending (c : Nat) (k : Core) : (s.setCore c k).pending = s.pending := rfl
@[simp] theorem State.setCore_fuse (c : Nat) (k : Core) : (s.setCore c k).fuse = s.fuse := rfl
@[simp] theorem State.setCore_regs (c : Nat) (k : Core) : (s.setCore c k).regs = s.regs := rfl
@[simp] theorem State.setCore_shadow (c : Nat) (k : Core) : (s.setCore c k).shadow = s.shadow := rfl
@[simp] theorem State.setCore_mem (c : Nat) (k : Core) : (s.setCore c k).mem = s.mem := rfl
@[simp] theorem State.setCore_valid (c : Nat) (k : Core) : (s.setCore c k).valid = s.valid := rfl
@[simp] theorem State.setCore_poison (c : Nat) (k : Core) : (s.setCore c k).poison = s.poison := rfl
@[simp] theorem State.setCore_scrubAt (c : Nat) (k : Core) : (s.setCore c k).scrubAt = s.scrubAt := rfl
@[simp] theorem State.setCore_jobs (c : Nat) (k : Core) : (s.setCore c k).jobs = s.jobs := rfl
@[simp] theorem State.setCore_fifo (c : Nat) (k : Core) : (s.setCore c k).fifo = s.fifo := rfl
@[simp] theorem State.setCore_purseFrac (c : Nat) (k : Core) : (s.setCore c k).purseFrac = s.purseFrac := rfl
@[simp] theorem State.setCore_programs (c : Nat) (k : Core) : (s.setCore c k).programs = s.programs := rfl
@[simp] theorem State.setCore_allocs (c : Nat) (k : Core) : (s.setCore c k).allocs = s.allocs := rfl
@[simp] theorem State.setCore_saved (c : Nat) (k : Core) : (s.setCore c k).saved = s.saved := rfl
@[simp] theorem State.setCore_switchSeq (c : Nat) (k : Core) : (s.setCore c k).switchSeq = s.switchSeq := rfl
@[simp] theorem State.setCore_power (c : Nat) (k : Core) : (s.setCore c k).power = s.power := rfl
@[simp] theorem State.setCore_weight (c : Nat) (k : Core) : (s.setCore c k).weight = s.weight := rfl
@[simp] theorem State.setCore_nss (c : Nat) (k : Core) : (s.setCore c k).nss = s.nss := rfl
@[simp] theorem State.setCore_media (c : Nat) (k : Core) : (s.setCore c k).media = s.media := rfl
@[simp] theorem State.setCore_host (c : Nat) (k : Core) : (s.setCore c k).host = s.host := rfl
@[simp] theorem State.setCore_harness (c : Nat) (k : Core) : (s.setCore c k).harness = s.harness := rfl
@[simp] theorem State.setCore_serving (c : Nat) (k : Core) : (s.setCore c k).serving = s.serving := rfl
@[simp] theorem State.setCore_search (c : Nat) (k : Core) : (s.setCore c k).search = s.search := rfl
@[simp] theorem State.setCore_girth (c : Nat) (k : Core) : (s.setCore c k).girth = s.girth := rfl
@[simp] theorem State.setCore_guard (c : Nat) (k : Core) : (s.setCore c k).guard = s.guard := rfl
@[simp] theorem State.setCore_daybook (c : Nat) (k : Core) : (s.setCore c k).daybook = s.daybook := rfl
@[simp] theorem State.setCore_hub (c : Nat) (k : Core) : (s.setCore c k).hub = s.hub := rfl
@[simp] theorem State.setCore_free (c : Nat) (k : Core) : (s.setCore c k).free = s.free := rfl

/-! ### `modCore` -/

@[simp] theorem State.modCore_pending (c : Nat) (f : Core → Core) : (s.modCore c f).pending = s.pending := rfl
@[simp] theorem State.modCore_fuse (c : Nat) (f : Core → Core) : (s.modCore c f).fuse = s.fuse := rfl
@[simp] theorem State.modCore_regs (c : Nat) (f : Core → Core) : (s.modCore c f).regs = s.regs := rfl
@[simp] theorem State.modCore_shadow (c : Nat) (f : Core → Core) : (s.modCore c f).shadow = s.shadow := rfl
@[simp] theorem State.modCore_mem (c : Nat) (f : Core → Core) : (s.modCore c f).mem = s.mem := rfl
@[simp] theorem State.modCore_valid (c : Nat) (f : Core → Core) : (s.modCore c f).valid = s.valid := rfl
@[simp] theorem State.modCore_poison (c : Nat) (f : Core → Core) : (s.modCore c f).poison = s.poison := rfl
@[simp] theorem State.modCore_scrubAt (c : Nat) (f : Core → Core) : (s.modCore c f).scrubAt = s.scrubAt := rfl
@[simp] theorem State.modCore_jobs (c : Nat) (f : Core → Core) : (s.modCore c f).jobs = s.jobs := rfl
@[simp] theorem State.modCore_fifo (c : Nat) (f : Core → Core) : (s.modCore c f).fifo = s.fifo := rfl
@[simp] theorem State.modCore_purseFrac (c : Nat) (f : Core → Core) : (s.modCore c f).purseFrac = s.purseFrac := rfl
@[simp] theorem State.modCore_programs (c : Nat) (f : Core → Core) : (s.modCore c f).programs = s.programs := rfl
@[simp] theorem State.modCore_allocs (c : Nat) (f : Core → Core) : (s.modCore c f).allocs = s.allocs := rfl
@[simp] theorem State.modCore_saved (c : Nat) (f : Core → Core) : (s.modCore c f).saved = s.saved := rfl
@[simp] theorem State.modCore_switchSeq (c : Nat) (f : Core → Core) : (s.modCore c f).switchSeq = s.switchSeq := rfl
@[simp] theorem State.modCore_power (c : Nat) (f : Core → Core) : (s.modCore c f).power = s.power := rfl
@[simp] theorem State.modCore_weight (c : Nat) (f : Core → Core) : (s.modCore c f).weight = s.weight := rfl
@[simp] theorem State.modCore_nss (c : Nat) (f : Core → Core) : (s.modCore c f).nss = s.nss := rfl
@[simp] theorem State.modCore_media (c : Nat) (f : Core → Core) : (s.modCore c f).media = s.media := rfl
@[simp] theorem State.modCore_host (c : Nat) (f : Core → Core) : (s.modCore c f).host = s.host := rfl
@[simp] theorem State.modCore_harness (c : Nat) (f : Core → Core) : (s.modCore c f).harness = s.harness := rfl
@[simp] theorem State.modCore_serving (c : Nat) (f : Core → Core) : (s.modCore c f).serving = s.serving := rfl
@[simp] theorem State.modCore_search (c : Nat) (f : Core → Core) : (s.modCore c f).search = s.search := rfl
@[simp] theorem State.modCore_girth (c : Nat) (f : Core → Core) : (s.modCore c f).girth = s.girth := rfl
@[simp] theorem State.modCore_guard (c : Nat) (f : Core → Core) : (s.modCore c f).guard = s.guard := rfl
@[simp] theorem State.modCore_daybook (c : Nat) (f : Core → Core) : (s.modCore c f).daybook = s.daybook := rfl
@[simp] theorem State.modCore_hub (c : Nat) (f : Core → Core) : (s.modCore c f).hub = s.hub := rfl
@[simp] theorem State.modCore_free (c : Nat) (f : Core → Core) : (s.modCore c f).free = s.free := rfl

/-! ### `modJob` -/

@[simp] theorem State.modJob_pending (n : NHdr) (f : Job → Job) : (s.modJob n f).pending = s.pending := rfl
@[simp] theorem State.modJob_fuse (n : NHdr) (f : Job → Job) : (s.modJob n f).fuse = s.fuse := rfl
@[simp] theorem State.modJob_regs (n : NHdr) (f : Job → Job) : (s.modJob n f).regs = s.regs := rfl
@[simp] theorem State.modJob_shadow (n : NHdr) (f : Job → Job) : (s.modJob n f).shadow = s.shadow := rfl
@[simp] theorem State.modJob_mem (n : NHdr) (f : Job → Job) : (s.modJob n f).mem = s.mem := rfl
@[simp] theorem State.modJob_valid (n : NHdr) (f : Job → Job) : (s.modJob n f).valid = s.valid := rfl
@[simp] theorem State.modJob_poison (n : NHdr) (f : Job → Job) : (s.modJob n f).poison = s.poison := rfl
@[simp] theorem State.modJob_scrubAt (n : NHdr) (f : Job → Job) : (s.modJob n f).scrubAt = s.scrubAt := rfl
@[simp] theorem State.modJob_cores (n : NHdr) (f : Job → Job) : (s.modJob n f).cores = s.cores := rfl
@[simp] theorem State.modJob_fifo (n : NHdr) (f : Job → Job) : (s.modJob n f).fifo = s.fifo := rfl
@[simp] theorem State.modJob_purseFrac (n : NHdr) (f : Job → Job) : (s.modJob n f).purseFrac = s.purseFrac := rfl
@[simp] theorem State.modJob_programs (n : NHdr) (f : Job → Job) : (s.modJob n f).programs = s.programs := rfl
@[simp] theorem State.modJob_allocs (n : NHdr) (f : Job → Job) : (s.modJob n f).allocs = s.allocs := rfl
@[simp] theorem State.modJob_saved (n : NHdr) (f : Job → Job) : (s.modJob n f).saved = s.saved := rfl
@[simp] theorem State.modJob_switchSeq (n : NHdr) (f : Job → Job) : (s.modJob n f).switchSeq = s.switchSeq := rfl
@[simp] theorem State.modJob_power (n : NHdr) (f : Job → Job) : (s.modJob n f).power = s.power := rfl
@[simp] theorem State.modJob_weight (n : NHdr) (f : Job → Job) : (s.modJob n f).weight = s.weight := rfl
@[simp] theorem State.modJob_nss (n : NHdr) (f : Job → Job) : (s.modJob n f).nss = s.nss := rfl
@[simp] theorem State.modJob_media (n : NHdr) (f : Job → Job) : (s.modJob n f).media = s.media := rfl
@[simp] theorem State.modJob_host (n : NHdr) (f : Job → Job) : (s.modJob n f).host = s.host := rfl
@[simp] theorem State.modJob_harness (n : NHdr) (f : Job → Job) : (s.modJob n f).harness = s.harness := rfl
@[simp] theorem State.modJob_serving (n : NHdr) (f : Job → Job) : (s.modJob n f).serving = s.serving := rfl
@[simp] theorem State.modJob_search (n : NHdr) (f : Job → Job) : (s.modJob n f).search = s.search := rfl
@[simp] theorem State.modJob_girth (n : NHdr) (f : Job → Job) : (s.modJob n f).girth = s.girth := rfl
@[simp] theorem State.modJob_guard (n : NHdr) (f : Job → Job) : (s.modJob n f).guard = s.guard := rfl
@[simp] theorem State.modJob_daybook (n : NHdr) (f : Job → Job) : (s.modJob n f).daybook = s.daybook := rfl
@[simp] theorem State.modJob_hub (n : NHdr) (f : Job → Job) : (s.modJob n f).hub = s.hub := rfl
@[simp] theorem State.modJob_free (n : NHdr) (f : Job → Job) : (s.modJob n f).free = s.free := rfl

/-! ### `setFifo` -/

@[simp] theorem State.setFifo_pending (p : Nat) (q : List FifoEntry) : (s.setFifo p q).pending = s.pending := rfl
@[simp] theorem State.setFifo_fuse (p : Nat) (q : List FifoEntry) : (s.setFifo p q).fuse = s.fuse := rfl
@[simp] theorem State.setFifo_regs (p : Nat) (q : List FifoEntry) : (s.setFifo p q).regs = s.regs := rfl
@[simp] theorem State.setFifo_shadow (p : Nat) (q : List FifoEntry) : (s.setFifo p q).shadow = s.shadow := rfl
@[simp] theorem State.setFifo_mem (p : Nat) (q : List FifoEntry) : (s.setFifo p q).mem = s.mem := rfl
@[simp] theorem State.setFifo_valid (p : Nat) (q : List FifoEntry) : (s.setFifo p q).valid = s.valid := rfl
@[simp] theorem State.setFifo_poison (p : Nat) (q : List FifoEntry) : (s.setFifo p q).poison = s.poison := rfl
@[simp] theorem State.setFifo_scrubAt (p : Nat) (q : List FifoEntry) : (s.setFifo p q).scrubAt = s.scrubAt := rfl
@[simp] theorem State.setFifo_cores (p : Nat) (q : List FifoEntry) : (s.setFifo p q).cores = s.cores := rfl
@[simp] theorem State.setFifo_jobs (p : Nat) (q : List FifoEntry) : (s.setFifo p q).jobs = s.jobs := rfl
@[simp] theorem State.setFifo_purseFrac (p : Nat) (q : List FifoEntry) : (s.setFifo p q).purseFrac = s.purseFrac := rfl
@[simp] theorem State.setFifo_programs (p : Nat) (q : List FifoEntry) : (s.setFifo p q).programs = s.programs := rfl
@[simp] theorem State.setFifo_allocs (p : Nat) (q : List FifoEntry) : (s.setFifo p q).allocs = s.allocs := rfl
@[simp] theorem State.setFifo_saved (p : Nat) (q : List FifoEntry) : (s.setFifo p q).saved = s.saved := rfl
@[simp] theorem State.setFifo_switchSeq (p : Nat) (q : List FifoEntry) : (s.setFifo p q).switchSeq = s.switchSeq := rfl
@[simp] theorem State.setFifo_power (p : Nat) (q : List FifoEntry) : (s.setFifo p q).power = s.power := rfl
@[simp] theorem State.setFifo_weight (p : Nat) (q : List FifoEntry) : (s.setFifo p q).weight = s.weight := rfl
@[simp] theorem State.setFifo_nss (p : Nat) (q : List FifoEntry) : (s.setFifo p q).nss = s.nss := rfl
@[simp] theorem State.setFifo_media (p : Nat) (q : List FifoEntry) : (s.setFifo p q).media = s.media := rfl
@[simp] theorem State.setFifo_host (p : Nat) (q : List FifoEntry) : (s.setFifo p q).host = s.host := rfl
@[simp] theorem State.setFifo_harness (p : Nat) (q : List FifoEntry) : (s.setFifo p q).harness = s.harness := rfl
@[simp] theorem State.setFifo_serving (p : Nat) (q : List FifoEntry) : (s.setFifo p q).serving = s.serving := rfl
@[simp] theorem State.setFifo_search (p : Nat) (q : List FifoEntry) : (s.setFifo p q).search = s.search := rfl
@[simp] theorem State.setFifo_girth (p : Nat) (q : List FifoEntry) : (s.setFifo p q).girth = s.girth := rfl
@[simp] theorem State.setFifo_guard (p : Nat) (q : List FifoEntry) : (s.setFifo p q).guard = s.guard := rfl
@[simp] theorem State.setFifo_daybook (p : Nat) (q : List FifoEntry) : (s.setFifo p q).daybook = s.daybook := rfl
@[simp] theorem State.setFifo_hub (p : Nat) (q : List FifoEntry) : (s.setFifo p q).hub = s.hub := rfl
@[simp] theorem State.setFifo_free (p : Nat) (q : List FifoEntry) : (s.setFifo p q).free = s.free := rfl

/-! ### `complete` -/

@[simp] theorem State.complete_pending (n : NHdr) (a b d e : Nat) (x : List Byte) : (s.complete n a b d e x).pending = s.pending := rfl
@[simp] theorem State.complete_fuse (n : NHdr) (a b d e : Nat) (x : List Byte) : (s.complete n a b d e x).fuse = s.fuse := rfl
@[simp] theorem State.complete_regs (n : NHdr) (a b d e : Nat) (x : List Byte) : (s.complete n a b d e x).regs = s.regs := rfl
@[simp] theorem State.complete_shadow (n : NHdr) (a b d e : Nat) (x : List Byte) : (s.complete n a b d e x).shadow = s.shadow := rfl
@[simp] theorem State.complete_mem (n : NHdr) (a b d e : Nat) (x : List Byte) : (s.complete n a b d e x).mem = s.mem := rfl
@[simp] theorem State.complete_valid (n : NHdr) (a b d e : Nat) (x : List Byte) : (s.complete n a b d e x).valid = s.valid := rfl
@[simp] theorem State.complete_poison (n : NHdr) (a b d e : Nat) (x : List Byte) : (s.complete n a b d e x).poison = s.poison := rfl
@[simp] theorem State.complete_scrubAt (n : NHdr) (a b d e : Nat) (x : List Byte) : (s.complete n a b d e x).scrubAt = s.scrubAt := rfl
@[simp] theorem State.complete_cores (n : NHdr) (a b d e : Nat) (x : List Byte) : (s.complete n a b d e x).cores = s.cores := rfl
@[simp] theorem State.complete_jobs (n : NHdr) (a b d e : Nat) (x : List Byte) : (s.complete n a b d e x).jobs = s.jobs := rfl
@[simp] theorem State.complete_fifo (n : NHdr) (a b d e : Nat) (x : List Byte) : (s.complete n a b d e x).fifo = s.fifo := rfl
@[simp] theorem State.complete_purseFrac (n : NHdr) (a b d e : Nat) (x : List Byte) : (s.complete n a b d e x).purseFrac = s.purseFrac := rfl
@[simp] theorem State.complete_programs (n : NHdr) (a b d e : Nat) (x : List Byte) : (s.complete n a b d e x).programs = s.programs := rfl
@[simp] theorem State.complete_allocs (n : NHdr) (a b d e : Nat) (x : List Byte) : (s.complete n a b d e x).allocs = s.allocs := rfl
@[simp] theorem State.complete_saved (n : NHdr) (a b d e : Nat) (x : List Byte) : (s.complete n a b d e x).saved = s.saved := rfl
@[simp] theorem State.complete_switchSeq (n : NHdr) (a b d e : Nat) (x : List Byte) : (s.complete n a b d e x).switchSeq = s.switchSeq := rfl
@[simp] theorem State.complete_power (n : NHdr) (a b d e : Nat) (x : List Byte) : (s.complete n a b d e x).power = s.power := rfl
@[simp] theorem State.complete_weight (n : NHdr) (a b d e : Nat) (x : List Byte) : (s.complete n a b d e x).weight = s.weight := rfl
@[simp] theorem State.complete_nss (n : NHdr) (a b d e : Nat) (x : List Byte) : (s.complete n a b d e x).nss = s.nss := rfl
@[simp] theorem State.complete_media (n : NHdr) (a b d e : Nat) (x : List Byte) : (s.complete n a b d e x).media = s.media := rfl
@[simp] theorem State.complete_harness (n : NHdr) (a b d e : Nat) (x : List Byte) : (s.complete n a b d e x).harness = s.harness := rfl
@[simp] theorem State.complete_serving (n : NHdr) (a b d e : Nat) (x : List Byte) : (s.complete n a b d e x).serving = s.serving := rfl
@[simp] theorem State.complete_search (n : NHdr) (a b d e : Nat) (x : List Byte) : (s.complete n a b d e x).search = s.search := rfl
@[simp] theorem State.complete_girth (n : NHdr) (a b d e : Nat) (x : List Byte) : (s.complete n a b d e x).girth = s.girth := rfl
@[simp] theorem State.complete_guard (n : NHdr) (a b d e : Nat) (x : List Byte) : (s.complete n a b d e x).guard = s.guard := rfl
@[simp] theorem State.complete_daybook (n : NHdr) (a b d e : Nat) (x : List Byte) : (s.complete n a b d e x).daybook = s.daybook := rfl
@[simp] theorem State.complete_hub (n : NHdr) (a b d e : Nat) (x : List Byte) : (s.complete n a b d e x).hub = s.hub := rfl
@[simp] theorem State.complete_free (n : NHdr) (a b d e : Nat) (x : List Byte) : (s.complete n a b d e x).free = s.free := rfl

/-! ### `ok` -/

@[simp] theorem State.ok_pending (n : NHdr) (d e : Nat) (x : List Byte) : (s.ok n d e x).pending = s.pending := rfl
@[simp] theorem State.ok_fuse (n : NHdr) (d e : Nat) (x : List Byte) : (s.ok n d e x).fuse = s.fuse := rfl
@[simp] theorem State.ok_regs (n : NHdr) (d e : Nat) (x : List Byte) : (s.ok n d e x).regs = s.regs := rfl
@[simp] theorem State.ok_shadow (n : NHdr) (d e : Nat) (x : List Byte) : (s.ok n d e x).shadow = s.shadow := rfl
@[simp] theorem State.ok_mem (n : NHdr) (d e : Nat) (x : List Byte) : (s.ok n d e x).mem = s.mem := rfl
@[simp] theorem State.ok_valid (n : NHdr) (d e : Nat) (x : List Byte) : (s.ok n d e x).valid = s.valid := rfl
@[simp] theorem State.ok_poison (n : NHdr) (d e : Nat) (x : List Byte) : (s.ok n d e x).poison = s.poison := rfl
@[simp] theorem State.ok_scrubAt (n : NHdr) (d e : Nat) (x : List Byte) : (s.ok n d e x).scrubAt = s.scrubAt := rfl
@[simp] theorem State.ok_cores (n : NHdr) (d e : Nat) (x : List Byte) : (s.ok n d e x).cores = s.cores := rfl
@[simp] theorem State.ok_jobs (n : NHdr) (d e : Nat) (x : List Byte) : (s.ok n d e x).jobs = s.jobs := rfl
@[simp] theorem State.ok_fifo (n : NHdr) (d e : Nat) (x : List Byte) : (s.ok n d e x).fifo = s.fifo := rfl
@[simp] theorem State.ok_purseFrac (n : NHdr) (d e : Nat) (x : List Byte) : (s.ok n d e x).purseFrac = s.purseFrac := rfl
@[simp] theorem State.ok_programs (n : NHdr) (d e : Nat) (x : List Byte) : (s.ok n d e x).programs = s.programs := rfl
@[simp] theorem State.ok_allocs (n : NHdr) (d e : Nat) (x : List Byte) : (s.ok n d e x).allocs = s.allocs := rfl
@[simp] theorem State.ok_saved (n : NHdr) (d e : Nat) (x : List Byte) : (s.ok n d e x).saved = s.saved := rfl
@[simp] theorem State.ok_switchSeq (n : NHdr) (d e : Nat) (x : List Byte) : (s.ok n d e x).switchSeq = s.switchSeq := rfl
@[simp] theorem State.ok_power (n : NHdr) (d e : Nat) (x : List Byte) : (s.ok n d e x).power = s.power := rfl
@[simp] theorem State.ok_weight (n : NHdr) (d e : Nat) (x : List Byte) : (s.ok n d e x).weight = s.weight := rfl
@[simp] theorem State.ok_nss (n : NHdr) (d e : Nat) (x : List Byte) : (s.ok n d e x).nss = s.nss := rfl
@[simp] theorem State.ok_media (n : NHdr) (d e : Nat) (x : List Byte) : (s.ok n d e x).media = s.media := rfl
@[simp] theorem State.ok_harness (n : NHdr) (d e : Nat) (x : List Byte) : (s.ok n d e x).harness = s.harness := rfl
@[simp] theorem State.ok_serving (n : NHdr) (d e : Nat) (x : List Byte) : (s.ok n d e x).serving = s.serving := rfl
@[simp] theorem State.ok_search (n : NHdr) (d e : Nat) (x : List Byte) : (s.ok n d e x).search = s.search := rfl
@[simp] theorem State.ok_girth (n : NHdr) (d e : Nat) (x : List Byte) : (s.ok n d e x).girth = s.girth := rfl
@[simp] theorem State.ok_guard (n : NHdr) (d e : Nat) (x : List Byte) : (s.ok n d e x).guard = s.guard := rfl
@[simp] theorem State.ok_daybook (n : NHdr) (d e : Nat) (x : List Byte) : (s.ok n d e x).daybook = s.daybook := rfl
@[simp] theorem State.ok_hub (n : NHdr) (d e : Nat) (x : List Byte) : (s.ok n d e x).hub = s.hub := rfl
@[simp] theorem State.ok_free (n : NHdr) (d e : Nat) (x : List Byte) : (s.ok n d e x).free = s.free := rfl

/-! ### `badField` -/

@[simp] theorem State.badField_pending (n : NHdr) : (s.badField n).pending = s.pending := rfl
@[simp] theorem State.badField_fuse (n : NHdr) : (s.badField n).fuse = s.fuse := rfl
@[simp] theorem State.badField_regs (n : NHdr) : (s.badField n).regs = s.regs := rfl
@[simp] theorem State.badField_shadow (n : NHdr) : (s.badField n).shadow = s.shadow := rfl
@[simp] theorem State.badField_mem (n : NHdr) : (s.badField n).mem = s.mem := rfl
@[simp] theorem State.badField_valid (n : NHdr) : (s.badField n).valid = s.valid := rfl
@[simp] theorem State.badField_poison (n : NHdr) : (s.badField n).poison = s.poison := rfl
@[simp] theorem State.badField_scrubAt (n : NHdr) : (s.badField n).scrubAt = s.scrubAt := rfl
@[simp] theorem State.badField_cores (n : NHdr) : (s.badField n).cores = s.cores := rfl
@[simp] theorem State.badField_jobs (n : NHdr) : (s.badField n).jobs = s.jobs := rfl
@[simp] theorem State.badField_fifo (n : NHdr) : (s.badField n).fifo = s.fifo := rfl
@[simp] theorem State.badField_purseFrac (n : NHdr) : (s.badField n).purseFrac = s.purseFrac := rfl
@[simp] theorem State.badField_programs (n : NHdr) : (s.badField n).programs = s.programs := rfl
@[simp] theorem State.badField_allocs (n : NHdr) : (s.badField n).allocs = s.allocs := rfl
@[simp] theorem State.badField_saved (n : NHdr) : (s.badField n).saved = s.saved := rfl
@[simp] theorem State.badField_switchSeq (n : NHdr) : (s.badField n).switchSeq = s.switchSeq := rfl
@[simp] theorem State.badField_power (n : NHdr) : (s.badField n).power = s.power := rfl
@[simp] theorem State.badField_weight (n : NHdr) : (s.badField n).weight = s.weight := rfl
@[simp] theorem State.badField_nss (n : NHdr) : (s.badField n).nss = s.nss := rfl
@[simp] theorem State.badField_media (n : NHdr) : (s.badField n).media = s.media := rfl
@[simp] theorem State.badField_harness (n : NHdr) : (s.badField n).harness = s.harness := rfl
@[simp] theorem State.badField_serving (n : NHdr) : (s.badField n).serving = s.serving := rfl
@[simp] theorem State.badField_search (n : NHdr) : (s.badField n).search = s.search := rfl
@[simp] theorem State.badField_girth (n : NHdr) : (s.badField n).girth = s.girth := rfl
@[simp] theorem State.badField_guard (n : NHdr) : (s.badField n).guard = s.guard := rfl
@[simp] theorem State.badField_daybook (n : NHdr) : (s.badField n).daybook = s.daybook := rfl
@[simp] theorem State.badField_hub (n : NHdr) : (s.badField n).hub = s.hub := rfl
@[simp] theorem State.badField_free (n : NHdr) : (s.badField n).free = s.free := rfl

/-! ### `vendor` -/

@[simp] theorem State.vendor_pending (n : NHdr) (a d e : Nat) : (s.vendor n a d e).pending = s.pending := rfl
@[simp] theorem State.vendor_fuse (n : NHdr) (a d e : Nat) : (s.vendor n a d e).fuse = s.fuse := rfl
@[simp] theorem State.vendor_regs (n : NHdr) (a d e : Nat) : (s.vendor n a d e).regs = s.regs := rfl
@[simp] theorem State.vendor_shadow (n : NHdr) (a d e : Nat) : (s.vendor n a d e).shadow = s.shadow := rfl
@[simp] theorem State.vendor_mem (n : NHdr) (a d e : Nat) : (s.vendor n a d e).mem = s.mem := rfl
@[simp] theorem State.vendor_valid (n : NHdr) (a d e : Nat) : (s.vendor n a d e).valid = s.valid := rfl
@[simp] theorem State.vendor_poison (n : NHdr) (a d e : Nat) : (s.vendor n a d e).poison = s.poison := rfl
@[simp] theorem State.vendor_scrubAt (n : NHdr) (a d e : Nat) : (s.vendor n a d e).scrubAt = s.scrubAt := rfl
@[simp] theorem State.vendor_cores (n : NHdr) (a d e : Nat) : (s.vendor n a d e).cores = s.cores := rfl
@[simp] theorem State.vendor_jobs (n : NHdr) (a d e : Nat) : (s.vendor n a d e).jobs = s.jobs := rfl
@[simp] theorem State.vendor_fifo (n : NHdr) (a d e : Nat) : (s.vendor n a d e).fifo = s.fifo := rfl
@[simp] theorem State.vendor_purseFrac (n : NHdr) (a d e : Nat) : (s.vendor n a d e).purseFrac = s.purseFrac := rfl
@[simp] theorem State.vendor_programs (n : NHdr) (a d e : Nat) : (s.vendor n a d e).programs = s.programs := rfl
@[simp] theorem State.vendor_allocs (n : NHdr) (a d e : Nat) : (s.vendor n a d e).allocs = s.allocs := rfl
@[simp] theorem State.vendor_saved (n : NHdr) (a d e : Nat) : (s.vendor n a d e).saved = s.saved := rfl
@[simp] theorem State.vendor_switchSeq (n : NHdr) (a d e : Nat) : (s.vendor n a d e).switchSeq = s.switchSeq := rfl
@[simp] theorem State.vendor_power (n : NHdr) (a d e : Nat) : (s.vendor n a d e).power = s.power := rfl
@[simp] theorem State.vendor_weight (n : NHdr) (a d e : Nat) : (s.vendor n a d e).weight = s.weight := rfl
@[simp] theorem State.vendor_nss (n : NHdr) (a d e : Nat) : (s.vendor n a d e).nss = s.nss := rfl
@[simp] theorem State.vendor_media (n : NHdr) (a d e : Nat) : (s.vendor n a d e).media = s.media := rfl
@[simp] theorem State.vendor_harness (n : NHdr) (a d e : Nat) : (s.vendor n a d e).harness = s.harness := rfl
@[simp] theorem State.vendor_serving (n : NHdr) (a d e : Nat) : (s.vendor n a d e).serving = s.serving := rfl
@[simp] theorem State.vendor_search (n : NHdr) (a d e : Nat) : (s.vendor n a d e).search = s.search := rfl
@[simp] theorem State.vendor_girth (n : NHdr) (a d e : Nat) : (s.vendor n a d e).girth = s.girth := rfl
@[simp] theorem State.vendor_guard (n : NHdr) (a d e : Nat) : (s.vendor n a d e).guard = s.guard := rfl
@[simp] theorem State.vendor_daybook (n : NHdr) (a d e : Nat) : (s.vendor n a d e).daybook = s.daybook := rfl
@[simp] theorem State.vendor_hub (n : NHdr) (a d e : Nat) : (s.vendor n a d e).hub = s.hub := rfl
@[simp] theorem State.vendor_free (n : NHdr) (a d e : Nat) : (s.vendor n a d e).free = s.free := rfl

/-! ### `modCtrl` -/

@[simp] theorem State.modCtrl_pending (k : Nat) (f : Ctrl → Ctrl) : (s.modCtrl k f).pending = s.pending := rfl
@[simp] theorem State.modCtrl_fuse (k : Nat) (f : Ctrl → Ctrl) : (s.modCtrl k f).fuse = s.fuse := rfl
@[simp] theorem State.modCtrl_regs (k : Nat) (f : Ctrl → Ctrl) : (s.modCtrl k f).regs = s.regs := rfl
@[simp] theorem State.modCtrl_shadow (k : Nat) (f : Ctrl → Ctrl) : (s.modCtrl k f).shadow = s.shadow := rfl
@[simp] theorem State.modCtrl_mem (k : Nat) (f : Ctrl → Ctrl) : (s.modCtrl k f).mem = s.mem := rfl
@[simp] theorem State.modCtrl_valid (k : Nat) (f : Ctrl → Ctrl) : (s.modCtrl k f).valid = s.valid := rfl
@[simp] theorem State.modCtrl_poison (k : Nat) (f : Ctrl → Ctrl) : (s.modCtrl k f).poison = s.poison := rfl
@[simp] theorem State.modCtrl_scrubAt (k : Nat) (f : Ctrl → Ctrl) : (s.modCtrl k f).scrubAt = s.scrubAt := rfl
@[simp] theorem State.modCtrl_cores (k : Nat) (f : Ctrl → Ctrl) : (s.modCtrl k f).cores = s.cores := rfl
@[simp] theorem State.modCtrl_jobs (k : Nat) (f : Ctrl → Ctrl) : (s.modCtrl k f).jobs = s.jobs := rfl
@[simp] theorem State.modCtrl_fifo (k : Nat) (f : Ctrl → Ctrl) : (s.modCtrl k f).fifo = s.fifo := rfl
@[simp] theorem State.modCtrl_purseFrac (k : Nat) (f : Ctrl → Ctrl) : (s.modCtrl k f).purseFrac = s.purseFrac := rfl
@[simp] theorem State.modCtrl_programs (k : Nat) (f : Ctrl → Ctrl) : (s.modCtrl k f).programs = s.programs := rfl
@[simp] theorem State.modCtrl_allocs (k : Nat) (f : Ctrl → Ctrl) : (s.modCtrl k f).allocs = s.allocs := rfl
@[simp] theorem State.modCtrl_saved (k : Nat) (f : Ctrl → Ctrl) : (s.modCtrl k f).saved = s.saved := rfl
@[simp] theorem State.modCtrl_switchSeq (k : Nat) (f : Ctrl → Ctrl) : (s.modCtrl k f).switchSeq = s.switchSeq := rfl
@[simp] theorem State.modCtrl_power (k : Nat) (f : Ctrl → Ctrl) : (s.modCtrl k f).power = s.power := rfl
@[simp] theorem State.modCtrl_weight (k : Nat) (f : Ctrl → Ctrl) : (s.modCtrl k f).weight = s.weight := rfl
@[simp] theorem State.modCtrl_nss (k : Nat) (f : Ctrl → Ctrl) : (s.modCtrl k f).nss = s.nss := rfl
@[simp] theorem State.modCtrl_media (k : Nat) (f : Ctrl → Ctrl) : (s.modCtrl k f).media = s.media := rfl
@[simp] theorem State.modCtrl_harness (k : Nat) (f : Ctrl → Ctrl) : (s.modCtrl k f).harness = s.harness := rfl
@[simp] theorem State.modCtrl_serving (k : Nat) (f : Ctrl → Ctrl) : (s.modCtrl k f).serving = s.serving := rfl
@[simp] theorem State.modCtrl_search (k : Nat) (f : Ctrl → Ctrl) : (s.modCtrl k f).search = s.search := rfl
@[simp] theorem State.modCtrl_girth (k : Nat) (f : Ctrl → Ctrl) : (s.modCtrl k f).girth = s.girth := rfl
@[simp] theorem State.modCtrl_guard (k : Nat) (f : Ctrl → Ctrl) : (s.modCtrl k f).guard = s.guard := rfl
@[simp] theorem State.modCtrl_daybook (k : Nat) (f : Ctrl → Ctrl) : (s.modCtrl k f).daybook = s.daybook := rfl
@[simp] theorem State.modCtrl_hub (k : Nat) (f : Ctrl → Ctrl) : (s.modCtrl k f).hub = s.hub := rfl
@[simp] theorem State.modCtrl_free (k : Nat) (f : Ctrl → Ctrl) : (s.modCtrl k f).free = s.free := rfl

/-! ### `setNs` -/

@[simp] theorem State.setNs_pending (n : Nat) (v : Nspace) : (s.setNs n v).pending = s.pending := rfl
@[simp] theorem State.setNs_fuse (n : Nat) (v : Nspace) : (s.setNs n v).fuse = s.fuse := rfl
@[simp] theorem State.setNs_regs (n : Nat) (v : Nspace) : (s.setNs n v).regs = s.regs := rfl
@[simp] theorem State.setNs_shadow (n : Nat) (v : Nspace) : (s.setNs n v).shadow = s.shadow := rfl
@[simp] theorem State.setNs_mem (n : Nat) (v : Nspace) : (s.setNs n v).mem = s.mem := rfl
@[simp] theorem State.setNs_valid (n : Nat) (v : Nspace) : (s.setNs n v).valid = s.valid := rfl
@[simp] theorem State.setNs_poison (n : Nat) (v : Nspace) : (s.setNs n v).poison = s.poison := rfl
@[simp] theorem State.setNs_scrubAt (n : Nat) (v : Nspace) : (s.setNs n v).scrubAt = s.scrubAt := rfl
@[simp] theorem State.setNs_cores (n : Nat) (v : Nspace) : (s.setNs n v).cores = s.cores := rfl
@[simp] theorem State.setNs_jobs (n : Nat) (v : Nspace) : (s.setNs n v).jobs = s.jobs := rfl
@[simp] theorem State.setNs_fifo (n : Nat) (v : Nspace) : (s.setNs n v).fifo = s.fifo := rfl
@[simp] theorem State.setNs_purseFrac (n : Nat) (v : Nspace) : (s.setNs n v).purseFrac = s.purseFrac := rfl
@[simp] theorem State.setNs_programs (n : Nat) (v : Nspace) : (s.setNs n v).programs = s.programs := rfl
@[simp] theorem State.setNs_allocs (n : Nat) (v : Nspace) : (s.setNs n v).allocs = s.allocs := rfl
@[simp] theorem State.setNs_saved (n : Nat) (v : Nspace) : (s.setNs n v).saved = s.saved := rfl
@[simp] theorem State.setNs_switchSeq (n : Nat) (v : Nspace) : (s.setNs n v).switchSeq = s.switchSeq := rfl
@[simp] theorem State.setNs_power (n : Nat) (v : Nspace) : (s.setNs n v).power = s.power := rfl
@[simp] theorem State.setNs_weight (n : Nat) (v : Nspace) : (s.setNs n v).weight = s.weight := rfl
@[simp] theorem State.setNs_media (n : Nat) (v : Nspace) : (s.setNs n v).media = s.media := rfl
@[simp] theorem State.setNs_host (n : Nat) (v : Nspace) : (s.setNs n v).host = s.host := rfl
@[simp] theorem State.setNs_harness (n : Nat) (v : Nspace) : (s.setNs n v).harness = s.harness := rfl
@[simp] theorem State.setNs_serving (n : Nat) (v : Nspace) : (s.setNs n v).serving = s.serving := rfl
@[simp] theorem State.setNs_search (n : Nat) (v : Nspace) : (s.setNs n v).search = s.search := rfl
@[simp] theorem State.setNs_girth (n : Nat) (v : Nspace) : (s.setNs n v).girth = s.girth := rfl
@[simp] theorem State.setNs_guard (n : Nat) (v : Nspace) : (s.setNs n v).guard = s.guard := rfl
@[simp] theorem State.setNs_daybook (n : Nat) (v : Nspace) : (s.setNs n v).daybook = s.daybook := rfl
@[simp] theorem State.setNs_hub (n : Nat) (v : Nspace) : (s.setNs n v).hub = s.hub := rfl
@[simp] theorem State.setNs_free (n : Nat) (v : Nspace) : (s.setNs n v).free = s.free := rfl

/-! ### `setFblk` -/

@[simp] theorem State.setFblk_pending (k : Nat) (v : Blk) : (s.setFblk k v).pending = s.pending := rfl
@[simp] theorem State.setFblk_fuse (k : Nat) (v : Blk) : (s.setFblk k v).fuse = s.fuse := rfl
@[simp] theorem State.setFblk_regs (k : Nat) (v : Blk) : (s.setFblk k v).regs = s.regs := rfl
@[simp] theorem State.setFblk_shadow (k : Nat) (v : Blk) : (s.setFblk k v).shadow = s.shadow := rfl
@[simp] theorem State.setFblk_mem (k : Nat) (v : Blk) : (s.setFblk k v).mem = s.mem := rfl
@[simp] theorem State.setFblk_valid (k : Nat) (v : Blk) : (s.setFblk k v).valid = s.valid := rfl
@[simp] theorem State.setFblk_poison (k : Nat) (v : Blk) : (s.setFblk k v).poison = s.poison := rfl
@[simp] theorem State.setFblk_scrubAt (k : Nat) (v : Blk) : (s.setFblk k v).scrubAt = s.scrubAt := rfl
@[simp] theorem State.setFblk_cores (k : Nat) (v : Blk) : (s.setFblk k v).cores = s.cores := rfl
@[simp] theorem State.setFblk_jobs (k : Nat) (v : Blk) : (s.setFblk k v).jobs = s.jobs := rfl
@[simp] theorem State.setFblk_fifo (k : Nat) (v : Blk) : (s.setFblk k v).fifo = s.fifo := rfl
@[simp] theorem State.setFblk_purseFrac (k : Nat) (v : Blk) : (s.setFblk k v).purseFrac = s.purseFrac := rfl
@[simp] theorem State.setFblk_programs (k : Nat) (v : Blk) : (s.setFblk k v).programs = s.programs := rfl
@[simp] theorem State.setFblk_allocs (k : Nat) (v : Blk) : (s.setFblk k v).allocs = s.allocs := rfl
@[simp] theorem State.setFblk_saved (k : Nat) (v : Blk) : (s.setFblk k v).saved = s.saved := rfl
@[simp] theorem State.setFblk_switchSeq (k : Nat) (v : Blk) : (s.setFblk k v).switchSeq = s.switchSeq := rfl
@[simp] theorem State.setFblk_power (k : Nat) (v : Blk) : (s.setFblk k v).power = s.power := rfl
@[simp] theorem State.setFblk_weight (k : Nat) (v : Blk) : (s.setFblk k v).weight = s.weight := rfl
@[simp] theorem State.setFblk_nss (k : Nat) (v : Blk) : (s.setFblk k v).nss = s.nss := rfl
@[simp] theorem State.setFblk_host (k : Nat) (v : Blk) : (s.setFblk k v).host = s.host := rfl
@[simp] theorem State.setFblk_harness (k : Nat) (v : Blk) : (s.setFblk k v).harness = s.harness := rfl
@[simp] theorem State.setFblk_serving (k : Nat) (v : Blk) : (s.setFblk k v).serving = s.serving := rfl
@[simp] theorem State.setFblk_search (k : Nat) (v : Blk) : (s.setFblk k v).search = s.search := rfl
@[simp] theorem State.setFblk_girth (k : Nat) (v : Blk) : (s.setFblk k v).girth = s.girth := rfl
@[simp] theorem State.setFblk_guard (k : Nat) (v : Blk) : (s.setFblk k v).guard = s.guard := rfl
@[simp] theorem State.setFblk_daybook (k : Nat) (v : Blk) : (s.setFblk k v).daybook = s.daybook := rfl
@[simp] theorem State.setFblk_hub (k : Nat) (v : Blk) : (s.setFblk k v).hub = s.hub := rfl
@[simp] theorem State.setFblk_free (k : Nat) (v : Blk) : (s.setFblk k v).free = s.free := rfl

/-! ### `setRing` -/

@[simp] theorem State.setRing_pending (b n : Nat) (r : Ring) : (s.setRing b n r).pending = s.pending := rfl
@[simp] theorem State.setRing_fuse (b n : Nat) (r : Ring) : (s.setRing b n r).fuse = s.fuse := rfl
@[simp] theorem State.setRing_regs (b n : Nat) (r : Ring) : (s.setRing b n r).regs = s.regs := rfl
@[simp] theorem State.setRing_shadow (b n : Nat) (r : Ring) : (s.setRing b n r).shadow = s.shadow := rfl
@[simp] theorem State.setRing_mem (b n : Nat) (r : Ring) : (s.setRing b n r).mem = s.mem := rfl
@[simp] theorem State.setRing_valid (b n : Nat) (r : Ring) : (s.setRing b n r).valid = s.valid := rfl
@[simp] theorem State.setRing_poison (b n : Nat) (r : Ring) : (s.setRing b n r).poison = s.poison := rfl
@[simp] theorem State.setRing_scrubAt (b n : Nat) (r : Ring) : (s.setRing b n r).scrubAt = s.scrubAt := rfl
@[simp] theorem State.setRing_cores (b n : Nat) (r : Ring) : (s.setRing b n r).cores = s.cores := rfl
@[simp] theorem State.setRing_jobs (b n : Nat) (r : Ring) : (s.setRing b n r).jobs = s.jobs := rfl
@[simp] theorem State.setRing_fifo (b n : Nat) (r : Ring) : (s.setRing b n r).fifo = s.fifo := rfl
@[simp] theorem State.setRing_purseFrac (b n : Nat) (r : Ring) : (s.setRing b n r).purseFrac = s.purseFrac := rfl
@[simp] theorem State.setRing_programs (b n : Nat) (r : Ring) : (s.setRing b n r).programs = s.programs := rfl
@[simp] theorem State.setRing_allocs (b n : Nat) (r : Ring) : (s.setRing b n r).allocs = s.allocs := rfl
@[simp] theorem State.setRing_saved (b n : Nat) (r : Ring) : (s.setRing b n r).saved = s.saved := rfl
@[simp] theorem State.setRing_switchSeq (b n : Nat) (r : Ring) : (s.setRing b n r).switchSeq = s.switchSeq := rfl
@[simp] theorem State.setRing_power (b n : Nat) (r : Ring) : (s.setRing b n r).power = s.power := rfl
@[simp] theorem State.setRing_weight (b n : Nat) (r : Ring) : (s.setRing b n r).weight = s.weight := rfl
@[simp] theorem State.setRing_nss (b n : Nat) (r : Ring) : (s.setRing b n r).nss = s.nss := rfl
@[simp] theorem State.setRing_media (b n : Nat) (r : Ring) : (s.setRing b n r).media = s.media := rfl
@[simp] theorem State.setRing_host (b n : Nat) (r : Ring) : (s.setRing b n r).host = s.host := rfl
@[simp] theorem State.setRing_serving (b n : Nat) (r : Ring) : (s.setRing b n r).serving = s.serving := rfl
@[simp] theorem State.setRing_search (b n : Nat) (r : Ring) : (s.setRing b n r).search = s.search := rfl
@[simp] theorem State.setRing_girth (b n : Nat) (r : Ring) : (s.setRing b n r).girth = s.girth := rfl
@[simp] theorem State.setRing_guard (b n : Nat) (r : Ring) : (s.setRing b n r).guard = s.guard := rfl
@[simp] theorem State.setRing_daybook (b n : Nat) (r : Ring) : (s.setRing b n r).daybook = s.daybook := rfl
@[simp] theorem State.setRing_hub (b n : Nat) (r : Ring) : (s.setRing b n r).hub = s.hub := rfl
@[simp] theorem State.setRing_free (b n : Nat) (r : Ring) : (s.setRing b n r).free = s.free := rfl

/-! ### `setFring` -/

@[simp] theorem State.setFring_pending (r : Nat) (v : FrameRing) : (s.setFring r v).pending = s.pending := rfl
@[simp] theorem State.setFring_fuse (r : Nat) (v : FrameRing) : (s.setFring r v).fuse = s.fuse := rfl
@[simp] theorem State.setFring_regs (r : Nat) (v : FrameRing) : (s.setFring r v).regs = s.regs := rfl
@[simp] theorem State.setFring_shadow (r : Nat) (v : FrameRing) : (s.setFring r v).shadow = s.shadow := rfl
@[simp] theorem State.setFring_mem (r : Nat) (v : FrameRing) : (s.setFring r v).mem = s.mem := rfl
@[simp] theorem State.setFring_valid (r : Nat) (v : FrameRing) : (s.setFring r v).valid = s.valid := rfl
@[simp] theorem State.setFring_poison (r : Nat) (v : FrameRing) : (s.setFring r v).poison = s.poison := rfl
@[simp] theorem State.setFring_scrubAt (r : Nat) (v : FrameRing) : (s.setFring r v).scrubAt = s.scrubAt := rfl
@[simp] theorem State.setFring_cores (r : Nat) (v : FrameRing) : (s.setFring r v).cores = s.cores := rfl
@[simp] theorem State.setFring_jobs (r : Nat) (v : FrameRing) : (s.setFring r v).jobs = s.jobs := rfl
@[simp] theorem State.setFring_fifo (r : Nat) (v : FrameRing) : (s.setFring r v).fifo = s.fifo := rfl
@[simp] theorem State.setFring_purseFrac (r : Nat) (v : FrameRing) : (s.setFring r v).purseFrac = s.purseFrac := rfl
@[simp] theorem State.setFring_programs (r : Nat) (v : FrameRing) : (s.setFring r v).programs = s.programs := rfl
@[simp] theorem State.setFring_allocs (r : Nat) (v : FrameRing) : (s.setFring r v).allocs = s.allocs := rfl
@[simp] theorem State.setFring_saved (r : Nat) (v : FrameRing) : (s.setFring r v).saved = s.saved := rfl
@[simp] theorem State.setFring_switchSeq (r : Nat) (v : FrameRing) : (s.setFring r v).switchSeq = s.switchSeq := rfl
@[simp] theorem State.setFring_power (r : Nat) (v : FrameRing) : (s.setFring r v).power = s.power := rfl
@[simp] theorem State.setFring_weight (r : Nat) (v : FrameRing) : (s.setFring r v).weight = s.weight := rfl
@[simp] theorem State.setFring_nss (r : Nat) (v : FrameRing) : (s.setFring r v).nss = s.nss := rfl
@[simp] theorem State.setFring_media (r : Nat) (v : FrameRing) : (s.setFring r v).media = s.media := rfl
@[simp] theorem State.setFring_host (r : Nat) (v : FrameRing) : (s.setFring r v).host = s.host := rfl
@[simp] theorem State.setFring_harness (r : Nat) (v : FrameRing) : (s.setFring r v).harness = s.harness := rfl
@[simp] theorem State.setFring_search (r : Nat) (v : FrameRing) : (s.setFring r v).search = s.search := rfl
@[simp] theorem State.setFring_girth (r : Nat) (v : FrameRing) : (s.setFring r v).girth = s.girth := rfl
@[simp] theorem State.setFring_guard (r : Nat) (v : FrameRing) : (s.setFring r v).guard = s.guard := rfl
@[simp] theorem State.setFring_daybook (r : Nat) (v : FrameRing) : (s.setFring r v).daybook = s.daybook := rfl
@[simp] theorem State.setFring_hub (r : Nat) (v : FrameRing) : (s.setFring r v).hub = s.hub := rfl
@[simp] theorem State.setFring_free (r : Nat) (v : FrameRing) : (s.setFring r v).free = s.free := rfl

/-! ### `setLink` -/

@[simp] theorem State.setLink_pending (g l : Nat) (v : Link) : (s.setLink g l v).pending = s.pending := rfl
@[simp] theorem State.setLink_fuse (g l : Nat) (v : Link) : (s.setLink g l v).fuse = s.fuse := rfl
@[simp] theorem State.setLink_regs (g l : Nat) (v : Link) : (s.setLink g l v).regs = s.regs := rfl
@[simp] theorem State.setLink_shadow (g l : Nat) (v : Link) : (s.setLink g l v).shadow = s.shadow := rfl
@[simp] theorem State.setLink_mem (g l : Nat) (v : Link) : (s.setLink g l v).mem = s.mem := rfl
@[simp] theorem State.setLink_valid (g l : Nat) (v : Link) : (s.setLink g l v).valid = s.valid := rfl
@[simp] theorem State.setLink_poison (g l : Nat) (v : Link) : (s.setLink g l v).poison = s.poison := rfl
@[simp] theorem State.setLink_scrubAt (g l : Nat) (v : Link) : (s.setLink g l v).scrubAt = s.scrubAt := rfl
@[simp] theorem State.setLink_cores (g l : Nat) (v : Link) : (s.setLink g l v).cores = s.cores := rfl
@[simp] theorem State.setLink_jobs (g l : Nat) (v : Link) : (s.setLink g l v).jobs = s.jobs := rfl
@[simp] theorem State.setLink_fifo (g l : Nat) (v : Link) : (s.setLink g l v).fifo = s.fifo := rfl
@[simp] theorem State.setLink_purseFrac (g l : Nat) (v : Link) : (s.setLink g l v).purseFrac = s.purseFrac := rfl
@[simp] theorem State.setLink_programs (g l : Nat) (v : Link) : (s.setLink g l v).programs = s.programs := rfl
@[simp] theorem State.setLink_allocs (g l : Nat) (v : Link) : (s.setLink g l v).allocs = s.allocs := rfl
@[simp] theorem State.setLink_saved (g l : Nat) (v : Link) : (s.setLink g l v).saved = s.saved := rfl
@[simp] theorem State.setLink_switchSeq (g l : Nat) (v : Link) : (s.setLink g l v).switchSeq = s.switchSeq := rfl
@[simp] theorem State.setLink_power (g l : Nat) (v : Link) : (s.setLink g l v).power = s.power := rfl
@[simp] theorem State.setLink_weight (g l : Nat) (v : Link) : (s.setLink g l v).weight = s.weight := rfl
@[simp] theorem State.setLink_nss (g l : Nat) (v : Link) : (s.setLink g l v).nss = s.nss := rfl
@[simp] theorem State.setLink_media (g l : Nat) (v : Link) : (s.setLink g l v).media = s.media := rfl
@[simp] theorem State.setLink_host (g l : Nat) (v : Link) : (s.setLink g l v).host = s.host := rfl
@[simp] theorem State.setLink_harness (g l : Nat) (v : Link) : (s.setLink g l v).harness = s.harness := rfl
@[simp] theorem State.setLink_serving (g l : Nat) (v : Link) : (s.setLink g l v).serving = s.serving := rfl
@[simp] theorem State.setLink_search (g l : Nat) (v : Link) : (s.setLink g l v).search = s.search := rfl
@[simp] theorem State.setLink_guard (g l : Nat) (v : Link) : (s.setLink g l v).guard = s.guard := rfl
@[simp] theorem State.setLink_daybook (g l : Nat) (v : Link) : (s.setLink g l v).daybook = s.daybook := rfl
@[simp] theorem State.setLink_hub (g l : Nat) (v : Link) : (s.setLink g l v).hub = s.hub := rfl
@[simp] theorem State.setLink_free (g l : Nat) (v : Link) : (s.setLink g l v).free = s.free := rfl

/-! ### `modGuard` -/

@[simp] theorem State.modGuard_pending (f : Guard → Guard) : (s.modGuard f).pending = s.pending := rfl
@[simp] theorem State.modGuard_fuse (f : Guard → Guard) : (s.modGuard f).fuse = s.fuse := rfl
@[simp] theorem State.modGuard_regs (f : Guard → Guard) : (s.modGuard f).regs = s.regs := rfl
@[simp] theorem State.modGuard_shadow (f : Guard → Guard) : (s.modGuard f).shadow = s.shadow := rfl
@[simp] theorem State.modGuard_mem (f : Guard → Guard) : (s.modGuard f).mem = s.mem := rfl
@[simp] theorem State.modGuard_valid (f : Guard → Guard) : (s.modGuard f).valid = s.valid := rfl
@[simp] theorem State.modGuard_poison (f : Guard → Guard) : (s.modGuard f).poison = s.poison := rfl
@[simp] theorem State.modGuard_scrubAt (f : Guard → Guard) : (s.modGuard f).scrubAt = s.scrubAt := rfl
@[simp] theorem State.modGuard_cores (f : Guard → Guard) : (s.modGuard f).cores = s.cores := rfl
@[simp] theorem State.modGuard_jobs (f : Guard → Guard) : (s.modGuard f).jobs = s.jobs := rfl
@[simp] theorem State.modGuard_fifo (f : Guard → Guard) : (s.modGuard f).fifo = s.fifo := rfl
@[simp] theorem State.modGuard_purseFrac (f : Guard → Guard) : (s.modGuard f).purseFrac = s.purseFrac := rfl
@[simp] theorem State.modGuard_programs (f : Guard → Guard) : (s.modGuard f).programs = s.programs := rfl
@[simp] theorem State.modGuard_allocs (f : Guard → Guard) : (s.modGuard f).allocs = s.allocs := rfl
@[simp] theorem State.modGuard_saved (f : Guard → Guard) : (s.modGuard f).saved = s.saved := rfl
@[simp] theorem State.modGuard_switchSeq (f : Guard → Guard) : (s.modGuard f).switchSeq = s.switchSeq := rfl
@[simp] theorem State.modGuard_power (f : Guard → Guard) : (s.modGuard f).power = s.power := rfl
@[simp] theorem State.modGuard_weight (f : Guard → Guard) : (s.modGuard f).weight = s.weight := rfl
@[simp] theorem State.modGuard_nss (f : Guard → Guard) : (s.modGuard f).nss = s.nss := rfl
@[simp] theorem State.modGuard_media (f : Guard → Guard) : (s.modGuard f).media = s.media := rfl
@[simp] theorem State.modGuard_host (f : Guard → Guard) : (s.modGuard f).host = s.host := rfl
@[simp] theorem State.modGuard_harness (f : Guard → Guard) : (s.modGuard f).harness = s.harness := rfl
@[simp] theorem State.modGuard_serving (f : Guard → Guard) : (s.modGuard f).serving = s.serving := rfl
@[simp] theorem State.modGuard_search (f : Guard → Guard) : (s.modGuard f).search = s.search := rfl
@[simp] theorem State.modGuard_girth (f : Guard → Guard) : (s.modGuard f).girth = s.girth := rfl
@[simp] theorem State.modGuard_daybook (f : Guard → Guard) : (s.modGuard f).daybook = s.daybook := rfl
@[simp] theorem State.modGuard_hub (f : Guard → Guard) : (s.modGuard f).hub = s.hub := rfl
@[simp] theorem State.modGuard_free (f : Guard → Guard) : (s.modGuard f).free = s.free := rfl

/-! ### `setDbkRing` -/

@[simp] theorem State.setDbkRing_pending (w : Nat) (r : List DbkRec) : (s.setDbkRing w r).pending = s.pending := rfl
@[simp] theorem State.setDbkRing_fuse (w : Nat) (r : List DbkRec) : (s.setDbkRing w r).fuse = s.fuse := rfl
@[simp] theorem State.setDbkRing_regs (w : Nat) (r : List DbkRec) : (s.setDbkRing w r).regs = s.regs := rfl
@[simp] theorem State.setDbkRing_shadow (w : Nat) (r : List DbkRec) : (s.setDbkRing w r).shadow = s.shadow := rfl
@[simp] theorem State.setDbkRing_mem (w : Nat) (r : List DbkRec) : (s.setDbkRing w r).mem = s.mem := rfl
@[simp] theorem State.setDbkRing_valid (w : Nat) (r : List DbkRec) : (s.setDbkRing w r).valid = s.valid := rfl
@[simp] theorem State.setDbkRing_poison (w : Nat) (r : List DbkRec) : (s.setDbkRing w r).poison = s.poison := rfl
@[simp] theorem State.setDbkRing_scrubAt (w : Nat) (r : List DbkRec) : (s.setDbkRing w r).scrubAt = s.scrubAt := rfl
@[simp] theorem State.setDbkRing_cores (w : Nat) (r : List DbkRec) : (s.setDbkRing w r).cores = s.cores := rfl
@[simp] theorem State.setDbkRing_jobs (w : Nat) (r : List DbkRec) : (s.setDbkRing w r).jobs = s.jobs := rfl
@[simp] theorem State.setDbkRing_fifo (w : Nat) (r : List DbkRec) : (s.setDbkRing w r).fifo = s.fifo := rfl
@[simp] theorem State.setDbkRing_purseFrac (w : Nat) (r : List DbkRec) : (s.setDbkRing w r).purseFrac = s.purseFrac := rfl
@[simp] theorem State.setDbkRing_programs (w : Nat) (r : List DbkRec) : (s.setDbkRing w r).programs = s.programs := rfl
@[simp] theorem State.setDbkRing_allocs (w : Nat) (r : List DbkRec) : (s.setDbkRing w r).allocs = s.allocs := rfl
@[simp] theorem State.setDbkRing_saved (w : Nat) (r : List DbkRec) : (s.setDbkRing w r).saved = s.saved := rfl
@[simp] theorem State.setDbkRing_switchSeq (w : Nat) (r : List DbkRec) : (s.setDbkRing w r).switchSeq = s.switchSeq := rfl
@[simp] theorem State.setDbkRing_power (w : Nat) (r : List DbkRec) : (s.setDbkRing w r).power = s.power := rfl
@[simp] theorem State.setDbkRing_weight (w : Nat) (r : List DbkRec) : (s.setDbkRing w r).weight = s.weight := rfl
@[simp] theorem State.setDbkRing_nss (w : Nat) (r : List DbkRec) : (s.setDbkRing w r).nss = s.nss := rfl
@[simp] theorem State.setDbkRing_media (w : Nat) (r : List DbkRec) : (s.setDbkRing w r).media = s.media := rfl
@[simp] theorem State.setDbkRing_host (w : Nat) (r : List DbkRec) : (s.setDbkRing w r).host = s.host := rfl
@[simp] theorem State.setDbkRing_harness (w : Nat) (r : List DbkRec) : (s.setDbkRing w r).harness = s.harness := rfl
@[simp] theorem State.setDbkRing_serving (w : Nat) (r : List DbkRec) : (s.setDbkRing w r).serving = s.serving := rfl
@[simp] theorem State.setDbkRing_search (w : Nat) (r : List DbkRec) : (s.setDbkRing w r).search = s.search := rfl
@[simp] theorem State.setDbkRing_girth (w : Nat) (r : List DbkRec) : (s.setDbkRing w r).girth = s.girth := rfl
@[simp] theorem State.setDbkRing_guard (w : Nat) (r : List DbkRec) : (s.setDbkRing w r).guard = s.guard := rfl
@[simp] theorem State.setDbkRing_hub (w : Nat) (r : List DbkRec) : (s.setDbkRing w r).hub = s.hub := rfl
@[simp] theorem State.setDbkRing_free (w : Nat) (r : List DbkRec) : (s.setDbkRing w r).free = s.free := rfl

/-! ### `fresh` -/

@[simp] theorem State.fresh_pending : (s.fresh).pending = s.pending := rfl
@[simp] theorem State.fresh_fuse : (s.fresh).fuse = s.fuse := rfl
@[simp] theorem State.fresh_regs : (s.fresh).regs = s.regs := rfl
@[simp] theorem State.fresh_shadow : (s.fresh).shadow = s.shadow := rfl
@[simp] theorem State.fresh_mem : (s.fresh).mem = s.mem := rfl
@[simp] theorem State.fresh_valid : (s.fresh).valid = s.valid := rfl
@[simp] theorem State.fresh_poison : (s.fresh).poison = s.poison := rfl
@[simp] theorem State.fresh_scrubAt : (s.fresh).scrubAt = s.scrubAt := rfl
@[simp] theorem State.fresh_cores : (s.fresh).cores = s.cores := rfl
@[simp] theorem State.fresh_jobs : (s.fresh).jobs = s.jobs := rfl
@[simp] theorem State.fresh_fifo : (s.fresh).fifo = s.fifo := rfl
@[simp] theorem State.fresh_purseFrac : (s.fresh).purseFrac = s.purseFrac := rfl
@[simp] theorem State.fresh_programs : (s.fresh).programs = s.programs := rfl
@[simp] theorem State.fresh_allocs : (s.fresh).allocs = s.allocs := rfl
@[simp] theorem State.fresh_saved : (s.fresh).saved = s.saved := rfl
@[simp] theorem State.fresh_switchSeq : (s.fresh).switchSeq = s.switchSeq := rfl
@[simp] theorem State.fresh_power : (s.fresh).power = s.power := rfl
@[simp] theorem State.fresh_weight : (s.fresh).weight = s.weight := rfl
@[simp] theorem State.fresh_nss : (s.fresh).nss = s.nss := rfl
@[simp] theorem State.fresh_media : (s.fresh).media = s.media := rfl
@[simp] theorem State.fresh_host : (s.fresh).host = s.host := rfl
@[simp] theorem State.fresh_harness : (s.fresh).harness = s.harness := rfl
@[simp] theorem State.fresh_serving : (s.fresh).serving = s.serving := rfl
@[simp] theorem State.fresh_search : (s.fresh).search = s.search := rfl
@[simp] theorem State.fresh_girth : (s.fresh).girth = s.girth := rfl
@[simp] theorem State.fresh_guard : (s.fresh).guard = s.guard := rfl
@[simp] theorem State.fresh_daybook : (s.fresh).daybook = s.daybook := rfl
@[simp] theorem State.fresh_hub : (s.fresh).hub = s.hub := rfl

/-! ### `tick` -/

@[simp] theorem State.tick_pending (k n : Nat) : (s.tick k n).pending = s.pending := by
  unfold State.tick
  dsimp only
  split <;> rfl

@[simp] theorem State.tick_fuse (k n : Nat) : (s.tick k n).fuse = s.fuse := by
  unfold State.tick
  dsimp only
  split <;> rfl

@[simp] theorem State.tick_shadow (k n : Nat) : (s.tick k n).shadow = s.shadow := by
  unfold State.tick
  dsimp only
  split <;> rfl

@[simp] theorem State.tick_mem (k n : Nat) : (s.tick k n).mem = s.mem := by
  unfold State.tick
  dsimp only
  split <;> rfl

@[simp] theorem State.tick_valid (k n : Nat) : (s.tick k n).valid = s.valid := by
  unfold State.tick
  dsimp only
  split <;> rfl

@[simp] theorem State.tick_poison (k n : Nat) : (s.tick k n).poison = s.poison := by
  unfold State.tick
  dsimp only
  split <;> rfl

@[simp] theorem State.tick_scrubAt (k n : Nat) : (s.tick k n).scrubAt = s.scrubAt := by
  unfold State.tick
  dsimp only
  split <;> rfl

@[simp] theorem State.tick_cores (k n : Nat) : (s.tick k n).cores = s.cores := by
  unfold State.tick
  dsimp only
  split <;> rfl

@[simp] theorem State.tick_jobs (k n : Nat) : (s.tick k n).jobs = s.jobs := by
  unfold State.tick
  dsimp only
  split <;> rfl

@[simp] theorem State.tick_fifo (k n : Nat) : (s.tick k n).fifo = s.fifo := by
  unfold State.tick
  dsimp only
  split <;> rfl

@[simp] theorem State.tick_purseFrac (k n : Nat) : (s.tick k n).purseFrac = s.purseFrac := by
  unfold State.tick
  dsimp only
  split <;> rfl

@[simp] theorem State.tick_programs (k n : Nat) : (s.tick k n).programs = s.programs := by
  unfold State.tick
  dsimp only
  split <;> rfl

@[simp] theorem State.tick_allocs (k n : Nat) : (s.tick k n).allocs = s.allocs := by
  unfold State.tick
  dsimp only
  split <;> rfl

@[simp] theorem State.tick_saved (k n : Nat) : (s.tick k n).saved = s.saved := by
  unfold State.tick
  dsimp only
  split <;> rfl

@[simp] theorem State.tick_switchSeq (k n : Nat) : (s.tick k n).switchSeq = s.switchSeq := by
  unfold State.tick
  dsimp only
  split <;> rfl

@[simp] theorem State.tick_power (k n : Nat) : (s.tick k n).power = s.power := by
  unfold State.tick
  dsimp only
  split <;> rfl

@[simp] theorem State.tick_weight (k n : Nat) : (s.tick k n).weight = s.weight := by
  unfold State.tick
  dsimp only
  split <;> rfl

@[simp] theorem State.tick_nss (k n : Nat) : (s.tick k n).nss = s.nss := by
  unfold State.tick
  dsimp only
  split <;> rfl

@[simp] theorem State.tick_media (k n : Nat) : (s.tick k n).media = s.media := by
  unfold State.tick
  dsimp only
  split <;> rfl

@[simp] theorem State.tick_host (k n : Nat) : (s.tick k n).host = s.host := by
  unfold State.tick
  dsimp only
  split <;> rfl

@[simp] theorem State.tick_harness (k n : Nat) : (s.tick k n).harness = s.harness := by
  unfold State.tick
  dsimp only
  split <;> rfl

@[simp] theorem State.tick_serving (k n : Nat) : (s.tick k n).serving = s.serving := by
  unfold State.tick
  dsimp only
  split <;> rfl

@[simp] theorem State.tick_search (k n : Nat) : (s.tick k n).search = s.search := by
  unfold State.tick
  dsimp only
  split <;> rfl

@[simp] theorem State.tick_girth (k n : Nat) : (s.tick k n).girth = s.girth := by
  unfold State.tick
  dsimp only
  split <;> rfl

@[simp] theorem State.tick_guard (k n : Nat) : (s.tick k n).guard = s.guard := by
  unfold State.tick
  dsimp only
  split <;> rfl

@[simp] theorem State.tick_daybook (k n : Nat) : (s.tick k n).daybook = s.daybook := by
  unfold State.tick
  dsimp only
  split <;> rfl

@[simp] theorem State.tick_hub (k n : Nat) : (s.tick k n).hub = s.hub := by
  unfold State.tick
  dsimp only
  split <;> rfl

@[simp] theorem State.tick_free (k n : Nat) : (s.tick k n).free = s.free := by
  unfold State.tick
  dsimp only
  split <;> rfl

end Sys2Proof.Machine
end

