-- ==== Sys2Proof/Laws/Regs.lean ====
section
/-! SUPPORT. Laws/Regs.lean: what a register, a field of one, and a core read as after an elementary update. -/

namespace Sys2Proof.Machine

open Sys2Proof

variable (s : State)

/-! ### Registers after a register write -/

@[simp] theorem State.reg_setReg_self (off : Nat) (v : Word) : (s.setReg off v).reg off = v := sget_sput_self _ _ _ _

theorem State.reg_setReg_ne {a b : Nat} (h : b ≠ a) (v : Word) : (s.setReg a v).reg b = s.reg b := sget_sput_ne _ _ _ _ h

theorem State.reg_setReg (a b : Nat) (v : Word) : (s.setReg a v).reg b = if b = a then v else s.reg b := by
  split
  · rename_i h
    subst h
    exact State.reg_setReg_self s _ v
  · rename_i h
    exact State.reg_setReg_ne s h v

@[simp] theorem State.reg_addReg_self (off n : Nat) : (s.addReg off n).reg off = s.reg off + BitVec.ofNat 64 n := State.reg_setReg_self s _ _

theorem State.reg_addReg_ne {a b : Nat} (h : b ≠ a) (n : Nat) : (s.addReg a n).reg b = s.reg b := State.reg_setReg_ne s h _

@[simp] theorem State.reg_subReg_self (off n : Nat) : (s.subReg off n).reg off = s.reg off - BitVec.ofNat 64 n := State.reg_setReg_self s _ _

theorem State.reg_subReg_ne {a b : Nat} (h : b ≠ a) (n : Nat) : (s.subReg a n).reg b = s.reg b := State.reg_setReg_ne s h _

@[simp] theorem State.reg_setFld_self (off lo n v : Nat) : (s.setFld off lo n v).reg off = Machine.setFld (s.reg off) lo n v :=
  State.reg_setReg_self s _ _

theorem State.reg_setFld_ne {a b : Nat} (h : b ≠ a) (lo n v : Nat) : (s.setFld a lo n v).reg b = s.reg b := State.reg_setReg_ne s h _

@[simp] theorem State.reg_setBit_self (off i : Nat) (b : Bool) : (s.setBit off i b).reg off = Machine.setBit (s.reg off) i b :=
  State.reg_setReg_self s _ _

theorem State.reg_setBit_ne {a b : Nat} (h : b ≠ a) (i : Nat) (v : Bool) : (s.setBit a i v).reg b = s.reg b := State.reg_setReg_ne s h _

/-- The register of ledger kind `k` after `n` of its updates: R427. -/
theorem State.reg_tick_self {k : Nat} (h : k ≠ 0) (n : Nat) : (s.tick k n).reg (Reg.LEDGER_SEQ k) = s.reg (Reg.LEDGER_SEQ k) + BitVec.ofNat 64 n := by
  simp [State.tick, h]

/-- A register that is no sequence number is left by a ledger update. -/
theorem State.reg_tick_ne {k off : Nat} (h : off ≠ Reg.LEDGER_SEQ k) (h0 : off ≠ Reg.MEDIA_PAGE_SEQ) (n : Nat) : (s.tick k n).reg off = s.reg off := by
  unfold State.tick
  dsimp only
  split
  · rw [State.reg_setReg_ne _ h0, State.reg_addReg_ne _ h]
  · rw [State.reg_addReg_ne _ h]

/-! ### The bits of a word -/

theorem getLsbD_mask (lo n i : Nat) (h : lo + n ≤ 64) : (mask lo n).getLsbD i = (decide (lo ≤ i) && decide (i < lo + n)) := by
  unfold mask
  rw [BitVec.getLsbD_ofNat, Nat.testBit_shiftLeft, Nat.testBit_two_pow_sub_one]
  by_cases a : lo ≤ i <;> by_cases b : i < lo + n <;> simp [a, b] <;> omega

/-- Bits of a word whose field was set. -/
theorem getLsbD_setFld (w : Word) (lo n v i : Nat) (h : lo + n ≤ 64) :
    (setFld w lo n v).getLsbD i = if lo ≤ i ∧ i < lo + n then v.testBit (i - lo) else w.getLsbD i := by
  unfold setFld
  rw [BitVec.getLsbD_or, BitVec.getLsbD_and, BitVec.getLsbD_not, getLsbD_mask _ _ _ h, BitVec.getLsbD_ofNat, Nat.testBit_shiftLeft,
    Nat.testBit_mod_two_pow]
  by_cases a : lo ≤ i <;> by_cases b : i < lo + n
  · have c : i - lo < n := by omega
    have d : i < 64 := by omega
    simp [a, b, c, d]
  · have c : ¬ i - lo < n := by omega
    by_cases d : i < 64
    · simp [a, b, c, d]
    · simp [a, b, c, d]
      exact BitVec.getLsbD_of_ge w i (by omega)
  · have d : i < 64 := by omega
    simp [a, d]
  · by_cases d : i < 64
    · simp [a, d]
    · simp [a, d]
      exact BitVec.getLsbD_of_ge w i (by omega)

/-- The field just set. -/
theorem fld_setFld_self (w : Word) (lo n v : Nat) (h : lo + n ≤ 64) : fld (setFld w lo n v) lo n = v % 2 ^ n := by
  apply Nat.eq_of_testBit_eq
  intro i
  unfold fld
  rw [Nat.testBit_mod_two_pow, Nat.testBit_mod_two_pow, Nat.testBit_shiftRight]
  by_cases a : i < n
  · have := getLsbD_setFld w lo n v (lo + i) h
    rw [if_pos ⟨by omega, by omega⟩, Nat.add_sub_cancel_left] at this
    simp [a, ← this, BitVec.getLsbD]
  · simp [a]

/-- A field that lies outside the one just set. -/
theorem fld_setFld_out (w : Word) (lo n v a m : Nat) (h : lo + n ≤ 64) (ho : a + m ≤ lo ∨ lo + n ≤ a) : fld (setFld w lo n v) a m = fld w a m := by
  apply Nat.eq_of_testBit_eq
  intro i
  unfold fld
  rw [Nat.testBit_mod_two_pow, Nat.testBit_mod_two_pow, Nat.testBit_shiftRight, Nat.testBit_shiftRight]
  by_cases b : i < m
  · have := getLsbD_setFld w lo n v (a + i) h
    rw [if_neg (by omega)] at this
    simpa [b, BitVec.getLsbD] using this
  · simp [b]

/-- The bit just set. -/
@[simp] theorem bit_setBit_self (w : Word) (i : Nat) (b : Bool) (h : i < 64) : bit (setBit w i b) i = b := by
  unfold bit setBit
  rw [getLsbD_setFld _ _ _ _ _ (by omega), if_pos ⟨Nat.le_refl _, by omega⟩]
  cases b <;> simp

/-- Another bit. -/
theorem bit_setBit_ne (w : Word) {i j : Nat} (b : Bool) (h : i < 64) (hj : j ≠ i) : bit (setBit w i b) j = bit w j := by
  unfold bit setBit
  rw [getLsbD_setFld _ _ _ _ _ (by omega), if_neg (by omega)]

/-! ### Cores -/

@[simp] theorem State.core_setCore_self (c : Nat) (k : Core) : (s.setCore c k).core c = k := sget_sput_self _ _ _ _

theorem State.core_setCore_ne {c d : Nat} (h : d ≠ c) (k : Core) : (s.setCore c k).core d = s.core d := sget_sput_ne _ _ _ _ h

@[simp] theorem State.core_modCore_self (c : Nat) (f : Core → Core) : (s.modCore c f).core c = f (s.core c) := State.core_setCore_self s _ _

theorem State.core_modCore_ne {c d : Nat} (h : d ≠ c) (f : Core → Core) : (s.modCore c f).core d = s.core d := State.core_setCore_ne s h _

/-! ### What an update elsewhere leaves -/

@[simp] theorem State.core_setReg (off : Nat) (v : Word) (k_ : Nat) : (s.setReg off v).core k_ = s.core k_ := rfl
@[simp] theorem State.core_setFld (off lo n v : Nat) (k_ : Nat) : (s.setFld off lo n v).core k_ = s.core k_ := rfl
@[simp] theorem State.core_setBit (off i : Nat) (b : Bool) (k_ : Nat) : (s.setBit off i b).core k_ = s.core k_ := rfl
@[simp] theorem State.core_addReg (off n : Nat) (k_ : Nat) : (s.addReg off n).core k_ = s.core k_ := rfl
@[simp] theorem State.core_subReg (off n : Nat) (k_ : Nat) : (s.subReg off n).core k_ = s.core k_ := rfl
@[simp] theorem State.core_bump (off lo w : Nat) (k_ : Nat) : (s.bump off lo w).core k_ = s.core k_ := rfl
@[simp] theorem State.core_setShadow (off : Nat) (v : Word) (k_ : Nat) : (s.setShadow off v).core k_ = s.core k_ := rfl
@[simp] theorem State.reg_setShadow (off : Nat) (v : Word) (o_ : Nat) : (s.setShadow off v).reg o_ = s.reg o_ := rfl
@[simp] theorem State.fld_setShadow (off : Nat) (v : Word) (o_ l_ n_ : Nat) : (s.setShadow off v).fld o_ l_ n_ = s.fld o_ l_ n_ := rfl
@[simp] theorem State.bit_setShadow (off : Nat) (v : Word) (o_ i_ : Nat) : (s.setShadow off v).bit o_ i_ = s.bit o_ i_ := rfl
@[simp] theorem State.core_validate (l : Nat) (k_ : Nat) : (s.validate l).core k_ = s.core k_ := rfl
@[simp] theorem State.reg_validate (l : Nat) (o_ : Nat) : (s.validate l).reg o_ = s.reg o_ := rfl
@[simp] theorem State.fld_validate (l : Nat) (o_ l_ n_ : Nat) : (s.validate l).fld o_ l_ n_ = s.fld o_ l_ n_ := rfl
@[simp] theorem State.bit_validate (l : Nat) (o_ i_ : Nat) : (s.validate l).bit o_ i_ = s.bit o_ i_ := rfl
@[simp] theorem State.reg_setCore (c : Nat) (k : Core) (o_ : Nat) : (s.setCore c k).reg o_ = s.reg o_ := rfl
@[simp] theorem State.fld_setCore (c : Nat) (k : Core) (o_ l_ n_ : Nat) : (s.setCore c k).fld o_ l_ n_ = s.fld o_ l_ n_ := rfl
@[simp] theorem State.bit_setCore (c : Nat) (k : Core) (o_ i_ : Nat) : (s.setCore c k).bit o_ i_ = s.bit o_ i_ := rfl
@[simp] theorem State.reg_modCore (c : Nat) (f : Core → Core) (o_ : Nat) : (s.modCore c f).reg o_ = s.reg o_ := rfl
@[simp] theorem State.fld_modCore (c : Nat) (f : Core → Core) (o_ l_ n_ : Nat) : (s.modCore c f).fld o_ l_ n_ = s.fld o_ l_ n_ := rfl
@[simp] theorem State.bit_modCore (c : Nat) (f : Core → Core) (o_ i_ : Nat) : (s.modCore c f).bit o_ i_ = s.bit o_ i_ := rfl
@[simp] theorem State.core_modJob (n : NHdr) (f : Job → Job) (k_ : Nat) : (s.modJob n f).core k_ = s.core k_ := rfl
@[simp] theorem State.reg_modJob (n : NHdr) (f : Job → Job) (o_ : Nat) : (s.modJob n f).reg o_ = s.reg o_ := rfl
@[simp] theorem State.fld_modJob (n : NHdr) (f : Job → Job) (o_ l_ n_ : Nat) : (s.modJob n f).fld o_ l_ n_ = s.fld o_ l_ n_ := rfl
@[simp] theorem State.bit_modJob (n : NHdr) (f : Job → Job) (o_ i_ : Nat) : (s.modJob n f).bit o_ i_ = s.bit o_ i_ := rfl
@[simp] theorem State.core_setFifo (p : Nat) (q : List FifoEntry) (k_ : Nat) : (s.setFifo p q).core k_ = s.core k_ := rfl
@[simp] theorem State.reg_setFifo (p : Nat) (q : List FifoEntry) (o_ : Nat) : (s.setFifo p q).reg o_ = s.reg o_ := rfl
@[simp] theorem State.fld_setFifo (p : Nat) (q : List FifoEntry) (o_ l_ n_ : Nat) : (s.setFifo p q).fld o_ l_ n_ = s.fld o_ l_ n_ := rfl
@[simp] theorem State.bit_setFifo (p : Nat) (q : List FifoEntry) (o_ i_ : Nat) : (s.setFifo p q).bit o_ i_ = s.bit o_ i_ := rfl
@[simp] theorem State.core_complete (n : NHdr) (a b d e : Nat) (x : List Byte) (k_ : Nat) : (s.complete n a b d e x).core k_ = s.core k_ := rfl
@[simp] theorem State.reg_complete (n : NHdr) (a b d e : Nat) (x : List Byte) (o_ : Nat) : (s.complete n a b d e x).reg o_ = s.reg o_ := rfl
@[simp] theorem State.fld_complete (n : NHdr) (a b d e : Nat) (x : List Byte) (o_ l_ n_ : Nat) : (s.complete n a b d e x).fld o_ l_ n_ = s.fld o_ l_ n_ := rfl
@[simp] theorem State.bit_complete (n : NHdr) (a b d e : Nat) (x : List Byte) (o_ i_ : Nat) : (s.complete n a b d e x).bit o_ i_ = s.bit o_ i_ := rfl
@[simp] theorem State.core_ok (n : NHdr) (d e : Nat) (x : List Byte) (k_ : Nat) : (s.ok n d e x).core k_ = s.core k_ := rfl
@[simp] theorem State.reg_ok (n : NHdr) (d e : Nat) (x : List Byte) (o_ : Nat) : (s.ok n d e x).reg o_ = s.reg o_ := rfl
@[simp] theorem State.fld_ok (n : NHdr) (d e : Nat) (x : List Byte) (o_ l_ n_ : Nat) : (s.ok n d e x).fld o_ l_ n_ = s.fld o_ l_ n_ := rfl
@[simp] theorem State.bit_ok (n : NHdr) (d e : Nat) (x : List Byte) (o_ i_ : Nat) : (s.ok n d e x).bit o_ i_ = s.bit o_ i_ := rfl
@[simp] theorem State.core_badField (n : NHdr) (k_ : Nat) : (s.badField n).core k_ = s.core k_ := rfl
@[simp] theorem State.reg_badField (n : NHdr) (o_ : Nat) : (s.badField n).reg o_ = s.reg o_ := rfl
@[simp] theorem State.fld_badField (n : NHdr) (o_ l_ n_ : Nat) : (s.badField n).fld o_ l_ n_ = s.fld o_ l_ n_ := rfl
@[simp] theorem State.bit_badField (n : NHdr) (o_ i_ : Nat) : (s.badField n).bit o_ i_ = s.bit o_ i_ := rfl
@[simp] theorem State.core_vendor (n : NHdr) (a d e : Nat) (k_ : Nat) : (s.vendor n a d e).core k_ = s.core k_ := rfl
@[simp] theorem State.reg_vendor (n : NHdr) (a d e : Nat) (o_ : Nat) : (s.vendor n a d e).reg o_ = s.reg o_ := rfl
@[simp] theorem State.fld_vendor (n : NHdr) (a d e : Nat) (o_ l_ n_ : Nat) : (s.vendor n a d e).fld o_ l_ n_ = s.fld o_ l_ n_ := rfl
@[simp] theorem State.bit_vendor (n : NHdr) (a d e : Nat) (o_ i_ : Nat) : (s.vendor n a d e).bit o_ i_ = s.bit o_ i_ := rfl
@[simp] theorem State.core_modCtrl (k : Nat) (f : Ctrl → Ctrl) (k_ : Nat) : (s.modCtrl k f).core k_ = s.core k_ := rfl
@[simp] theorem State.reg_modCtrl (k : Nat) (f : Ctrl → Ctrl) (o_ : Nat) : (s.modCtrl k f).reg o_ = s.reg o_ := rfl
@[simp] theorem State.fld_modCtrl (k : Nat) (f : Ctrl → Ctrl) (o_ l_ n_ : Nat) : (s.modCtrl k f).fld o_ l_ n_ = s.fld o_ l_ n_ := rfl
@[simp] theorem State.bit_modCtrl (k : Nat) (f : Ctrl → Ctrl) (o_ i_ : Nat) : (s.modCtrl k f).bit o_ i_ = s.bit o_ i_ := rfl
@[simp] theorem State.core_setNs (n : Nat) (v : Nspace) (k_ : Nat) : (s.setNs n v).core k_ = s.core k_ := rfl
@[simp] theorem State.reg_setNs (n : Nat) (v : Nspace) (o_ : Nat) : (s.setNs n v).reg o_ = s.reg o_ := rfl
@[simp] theorem State.fld_setNs (n : Nat) (v : Nspace) (o_ l_ n_ : Nat) : (s.setNs n v).fld o_ l_ n_ = s.fld o_ l_ n_ := rfl
@[simp] theorem State.bit_setNs (n : Nat) (v : Nspace) (o_ i_ : Nat) : (s.setNs n v).bit o_ i_ = s.bit o_ i_ := rfl
@[simp] theorem State.core_setFblk (k : Nat) (v : Blk) (k_ : Nat) : (s.setFblk k v).core k_ = s.core k_ := rfl
@[simp] theorem State.reg_setFblk (k : Nat) (v : Blk) (o_ : Nat) : (s.setFblk k v).reg o_ = s.reg o_ := rfl
@[simp] theorem State.fld_setFblk (k : Nat) (v : Blk) (o_ l_ n_ : Nat) : (s.setFblk k v).fld o_ l_ n_ = s.fld o_ l_ n_ := rfl
@[simp] theorem State.bit_setFblk (k : Nat) (v : Blk) (o_ i_ : Nat) : (s.setFblk k v).bit o_ i_ = s.bit o_ i_ := rfl
@[simp] theorem State.core_setRing (b n : Nat) (r : Ring) (k_ : Nat) : (s.setRing b n r).core k_ = s.core k_ := rfl
@[simp] theorem State.reg_setRing (b n : Nat) (r : Ring) (o_ : Nat) : (s.setRing b n r).reg o_ = s.reg o_ := rfl
@[simp] theorem State.fld_setRing (b n : Nat) (r : Ring) (o_ l_ n_ : Nat) : (s.setRing b n r).fld o_ l_ n_ = s.fld o_ l_ n_ := rfl
@[simp] theorem State.bit_setRing (b n : Nat) (r : Ring) (o_ i_ : Nat) : (s.setRing b n r).bit o_ i_ = s.bit o_ i_ := rfl
@[simp] theorem State.core_setFring (r : Nat) (v : FrameRing) (k_ : Nat) : (s.setFring r v).core k_ = s.core k_ := rfl
@[simp] theorem State.reg_setFring (r : Nat) (v : FrameRing) (o_ : Nat) : (s.setFring r v).reg o_ = s.reg o_ := rfl
@[simp] theorem State.fld_setFring (r : Nat) (v : FrameRing) (o_ l_ n_ : Nat) : (s.setFring r v).fld o_ l_ n_ = s.fld o_ l_ n_ := rfl
@[simp] theorem State.bit_setFring (r : Nat) (v : FrameRing) (o_ i_ : Nat) : (s.setFring r v).bit o_ i_ = s.bit o_ i_ := rfl
@[simp] theorem State.core_setLink (g l : Nat) (v : Link) (k_ : Nat) : (s.setLink g l v).core k_ = s.core k_ := rfl
@[simp] theorem State.reg_setLink (g l : Nat) (v : Link) (o_ : Nat) : (s.setLink g l v).reg o_ = s.reg o_ := rfl
@[simp] theorem State.fld_setLink (g l : Nat) (v : Link) (o_ l_ n_ : Nat) : (s.setLink g l v).fld o_ l_ n_ = s.fld o_ l_ n_ := rfl
@[simp] theorem State.bit_setLink (g l : Nat) (v : Link) (o_ i_ : Nat) : (s.setLink g l v).bit o_ i_ = s.bit o_ i_ := rfl
@[simp] theorem State.core_modGuard (f : Guard → Guard) (k_ : Nat) : (s.modGuard f).core k_ = s.core k_ := rfl
@[simp] theorem State.reg_modGuard (f : Guard → Guard) (o_ : Nat) : (s.modGuard f).reg o_ = s.reg o_ := rfl
@[simp] theorem State.fld_modGuard (f : Guard → Guard) (o_ l_ n_ : Nat) : (s.modGuard f).fld o_ l_ n_ = s.fld o_ l_ n_ := rfl
@[simp] theorem State.bit_modGuard (f : Guard → Guard) (o_ i_ : Nat) : (s.modGuard f).bit o_ i_ = s.bit o_ i_ := rfl
@[simp] theorem State.core_setDbkRing (w : Nat) (r : List DbkRec) (k_ : Nat) : (s.setDbkRing w r).core k_ = s.core k_ := rfl
@[simp] theorem State.reg_setDbkRing (w : Nat) (r : List DbkRec) (o_ : Nat) : (s.setDbkRing w r).reg o_ = s.reg o_ := rfl
@[simp] theorem State.fld_setDbkRing (w : Nat) (r : List DbkRec) (o_ l_ n_ : Nat) : (s.setDbkRing w r).fld o_ l_ n_ = s.fld o_ l_ n_ := rfl
@[simp] theorem State.bit_setDbkRing (w : Nat) (r : List DbkRec) (o_ i_ : Nat) : (s.setDbkRing w r).bit o_ i_ = s.bit o_ i_ := rfl
@[simp] theorem State.core_fresh  (k_ : Nat) : (s.fresh).core k_ = s.core k_ := rfl
@[simp] theorem State.reg_fresh  (o_ : Nat) : (s.fresh).reg o_ = s.reg o_ := rfl
@[simp] theorem State.fld_fresh  (o_ l_ n_ : Nat) : (s.fresh).fld o_ l_ n_ = s.fld o_ l_ n_ := rfl
@[simp] theorem State.bit_fresh  (o_ i_ : Nat) : (s.fresh).bit o_ i_ = s.bit o_ i_ := rfl

@[simp] theorem State.core_tick (k n c : Nat) : (s.tick k n).core c = s.core c := by
  unfold State.core
  rw [State.tick_cores]

end Sys2Proof.Machine
end

