-- ==== Sys2Proof/Laws/CtlBase.lean ====
section
/-! SUPPORT. Laws/CtlBase.lean: what an engine instruction's start leaves of every core: where it runs, what it issues from, its counters, comparators,
generators, levels and queue. -/

namespace Sys2Proof.Machine

open Sys2Proof

/-- The part of a core that engines do not touch. -/
def Core.ctl (k : Core) : Core :=
  { k with tok := [], sigs := 0, takes := 0, busy := [], streams := [], nextStream := 0, prefetch := [], filled := 0, draining := 0, lace := [],
           tables := [], mxArmed := [], vxArmed := false, flipPend := [], flipped := [], merge := [], ceOnce := [], lost := [], remap := [], stalled := false }

/-- The control part of every core, of a list of cores, is that of `o`. -/
structure CtlF (o : State) (ks : Sparse Core) : Prop where
  eq : ∀ c, (sget {} ks c : Core).ctl = (o.core c).ctl

/-- A state whose cores' control parts are those of `o`. -/
def Ctl (o s : State) : Prop := CtlF o s.cores

theorem ctl_refl (o : State) : Ctl o o := ⟨fun _ => rfl⟩

theorem ctl_trans {a b d : State} (h : Ctl a b) (g : Ctl b d) : Ctl a d := ⟨fun c => (g.eq c).trans (h.eq c)⟩

theorem ctl_mk {o : State} {x1 x2 x3 x4 x5 x6 x7 x8 x9 x10 x11 x12 x13 x14 x15 x16 x17 x18 x19 x20 x21 x22 x23 x24 x25 x26 x27 x28 x29} :
    Ctl o ⟨x1, x2, x3, x4, x5, x6, x7, x8, x9, x10, x11, x12, x13, x14, x15, x16, x17, x18, x19, x20, x21, x22, x23, x24, x25, x26, x27, x28, x29⟩ =
      CtlF o x9 := rfl

theorem ctlF_self {o s : State} (h : Ctl o s) : CtlF o s.cores := h

/-- A core replaced by one of the same control part. -/
theorem ctl_setCore {o s : State} (h : Ctl o s) {c : Nat} {k : Core} (hk : k.ctl = (o.core c).ctl) : Ctl o (s.setCore c k) := by
  refine ⟨fun d => ?_⟩
  by_cases e : d = c
  · subst e
    exact (congrArg Core.ctl (State.core_setCore_self s d k)).trans hk
  · exact (congrArg Core.ctl (State.core_setCore_ne s e k)).trans (h.eq d)

theorem ctl_core {o s : State} (h : Ctl o s) (c : Nat) : (s.core c).ctl = (o.core c).ctl := h.eq c

/-- A core changed outside its control part. -/
theorem ctl_modCore {o s : State} (h : Ctl o s) {c : Nat} {f : Core → Core} (hf : ∀ k, (f k).ctl = k.ctl) : Ctl o (s.modCore c f) :=
  ctl_setCore h ((hf _).trans (h.eq c))

theorem ctl_ite {o a b : State} {c : Prop} [Decidable c] (ha : Ctl o a) (hb : Ctl o b) : Ctl o (if c then a else b) := by
  split <;> assumption

theorem ctl_ite_snd {α : Type} {o : State} {a b : α × State} {c : Prop} [Decidable c] (ha : Ctl o a.2) (hb : Ctl o b.2) :
    Ctl o (if c then a else b).2 := by
  split <;> assumption

theorem ctl_ite_snd2 {α β : Type} {o : State} {a b : α × β × State} {c : Prop} [Decidable c] (ha : Ctl o a.2.2) (hb : Ctl o b.2.2) :
    Ctl o (if c then a else b).2.2 := by
  split <;> assumption

/-- The state beside an answer, named by an equation. -/
theorem ctl_of_snd {α : Type} {o s : State} {x : α × State} {a : α} (e : x = (a, s)) (h : Ctl o x.2) : Ctl o s := by subst e; exact h

theorem ctl_each {β : Type} {o s : State} {f : β → State → State} {l : List β} (hf : ∀ x t, Ctl o t → Ctl o (f x t)) (h : Ctl o s) :
    Ctl o (State.each l f s) := by
  unfold State.each
  induction l generalizing s with
  | nil => exact h
  | cons x r ih => exact ih (hf x s h)

theorem ctl_foldl_snd {α β : Type} {o : State} {f : α × State → β → α × State} (hf : ∀ a b, Ctl o a.2 → Ctl o (f a b).2) (l : List β)
    {a : α × State} (h : Ctl o a.2) : Ctl o (l.foldl f a).2 := by
  induction l generalizing a with
  | nil => exact h
  | cons x r ih => exact ih (hf a x h)

/-- A fold over the state alone. -/
theorem ctl_foldl {β : Type} {o : State} {f : State → β → State} (hf : ∀ a b, Ctl o a → Ctl o (f a b)) (l : List β) {a : State} (h : Ctl o a) :
    Ctl o (l.foldl f a) := by
  induction l generalizing a with
  | nil => exact h
  | cons x r ih => exact ih (hf a x h)

/-- An operation that answers no state leaves every core. -/
theorem ctl_none {α : Type} {o : State} {p : α → State} : ∀ r, none = some r → Ctl o (p r) := nofun

/-- An operation that answers a state leaves what that state leaves. -/
theorem ctl_some {α : Type} {o : State} {p : α → State} {a : α} (h : Ctl o (p a)) : ∀ r, some a = some r → Ctl o (p r) := by
  intro r e
  cases e
  exact h

end Sys2Proof.Machine
end

