-- ==== Sys2Proof/Laws/Ctl1.lean ====
section
/-! SUPPORT. Laws/Ctl1.lean: one lemma per operation of the machine: it leaves the control part of every core (part 1, in the order in which operations use
each other). -/

namespace Sys2Proof.Machine

open Sys2Proof

theorem State.complete_ctl {o : State} {x0 : State} {x1 : NHdr} {x2 : Nat} {x3 : Nat} {x4 : Nat} {x5 : Nat} {x6 : List Byte} (h : Ctl o x0) :
    Ctl o (State.complete x0 x1 x2 x3 x4 x5 x6) := by
  unfold State.complete
  repeat' first
    | with_reducible assumption | extract_lets | intro _ | with_reducible apply ctl_ite | with_reducible apply ctlF_self
    | with_reducible refine ctl_modCore ?_ (fun _ => rfl) | with_reducible refine ctl_setCore ?_ (ctl_core (by with_reducible assumption) _) | split
    | dsimp only [ctl_mk]

theorem State.setReg_ctl {o : State} {x0 : State} {x1 : Nat} {x2 : Word} (h : Ctl o x0) :
    Ctl o (State.setReg x0 x1 x2) := by
  unfold State.setReg
  repeat' first
    | with_reducible assumption | extract_lets | intro _ | with_reducible apply ctl_ite | with_reducible apply ctlF_self
    | with_reducible refine ctl_modCore ?_ (fun _ => rfl) | with_reducible refine ctl_setCore ?_ (ctl_core (by with_reducible assumption) _) | split
    | dsimp only [ctl_mk]

theorem State.fresh_ctl {o : State} {x0 : State} (h : Ctl o x0) :
    Ctl o (State.fresh x0) := by
  unfold State.fresh
  repeat' first
    | with_reducible assumption | extract_lets | intro _ | with_reducible apply ctl_ite | with_reducible apply ctlF_self
    | with_reducible refine ctl_modCore ?_ (fun _ => rfl) | with_reducible refine ctl_setCore ?_ (ctl_core (by with_reducible assumption) _) | split
    | dsimp only [ctl_mk]

theorem State.markLine_ctl {o : State} {x0 : State} {x1 : Nat} {x2 : Bool} {x3 : Bool} (h : Ctl o x0) :
    Ctl o (State.markLine x0 x1 x2 x3) := by
  unfold State.markLine
  repeat' first
    | with_reducible assumption | extract_lets | intro _ | with_reducible apply ctl_ite | with_reducible apply ctlF_self
    | with_reducible refine ctl_modCore ?_ (fun _ => rfl) | with_reducible refine ctl_setCore ?_ (ctl_core (by with_reducible assumption) _) | split
    | dsimp only [ctl_mk]

theorem State.dramPiece_ctl {o : State} {x0 : Bool} {x1 : Nat × List Byte} {x2 : State} (h : Ctl o x2) :
    Ctl o (State.dramPiece x0 x1 x2) := by
  unfold State.dramPiece
  repeat' first
    | with_reducible assumption | extract_lets | intro _ | with_reducible apply State.markLine_ctl | with_reducible apply ctl_ite
    | with_reducible apply ctlF_self | with_reducible refine ctl_modCore ?_ (fun _ => rfl)
    | with_reducible refine ctl_setCore ?_ (ctl_core (by with_reducible assumption) _) | split | dsimp only [ctl_mk]

theorem State.dramWrite_ctl {o : State} {x0 : State} {x1 : Nat} {x2 : List Byte} {x3 : Bool} (h : Ctl o x0) :
    Ctl o (State.dramWrite x0 x1 x2 x3) := by
  unfold State.dramWrite
  repeat' first
    | with_reducible assumption | extract_lets | intro _ | with_reducible exact ctl_of_snd ‹_› ‹_› | with_reducible apply State.dramPiece_ctl
    | with_reducible apply ctl_each | with_reducible apply ctl_ite | with_reducible apply ctl_ite_snd2 | with_reducible apply ctl_ite_snd
    | with_reducible apply ctlF_self | with_reducible apply ctl_foldl_snd | with_reducible apply ctl_foldl
    | with_reducible refine ctl_modCore ?_ (fun _ => rfl) | with_reducible refine ctl_setCore ?_ (ctl_core (by with_reducible assumption) _)
    | with_reducible refine ctl_setCore ?_ ?_ | with_reducible refine ctl_of_snd ‹_› ?_ | split | dsimp only [ctl_mk] | dsimp +zetaDelta only [ctl_mk]

theorem State.addReg_ctl {o : State} {x0 : State} {x1 : Nat} {x2 : Nat} (h : Ctl o x0) :
    Ctl o (State.addReg x0 x1 x2) := by
  unfold State.addReg
  repeat' first
    | with_reducible assumption | with_reducible apply State.setReg_ctl | dsimp only

theorem State.subReg_ctl {o : State} {x0 : State} {x1 : Nat} {x2 : Nat} (h : Ctl o x0) :
    Ctl o (State.subReg x0 x1 x2) := by
  unfold State.subReg
  repeat' first
    | with_reducible assumption | with_reducible apply State.setReg_ctl | dsimp only

theorem State.setFld_ctl {o : State} {x0 : State} {x1 : Nat} {x2 : Nat} {x3 : Nat} {x4 : Nat} (h : Ctl o x0) :
    Ctl o (State.setFld x0 x1 x2 x3 x4) := by
  unfold State.setFld
  repeat' first
    | with_reducible assumption | with_reducible apply State.setReg_ctl | dsimp only

theorem State.tick_ctl {o : State} {x0 : State} {x1 : Nat} {x2 : Nat} (h : Ctl o x0) :
    Ctl o (State.tick x0 x1 x2) := by
  unfold State.tick
  repeat' first
    | with_reducible assumption | extract_lets | intro _ | with_reducible apply State.addReg_ctl | with_reducible apply State.setReg_ctl
    | with_reducible apply ctl_ite | with_reducible apply ctlF_self | with_reducible refine ctl_modCore ?_ (fun _ => rfl)
    | with_reducible refine ctl_setCore ?_ (ctl_core (by with_reducible assumption) _) | split | dsimp only [ctl_mk]

theorem State.setBit_ctl {o : State} {x0 : State} {x1 : Nat} {x2 : Nat} {x3 : Bool} (h : Ctl o x0) :
    Ctl o (State.setBit x0 x1 x2 x3) := by
  unfold State.setBit
  repeat' first
    | with_reducible assumption | with_reducible apply State.setReg_ctl | dsimp only

theorem State.raiseEvent_ctl {o : State} {x0 : State} {x1 : Nat} (h : Ctl o x0) :
    Ctl o (State.raiseEvent x0 x1) := by
  unfold State.raiseEvent
  repeat' first
    | with_reducible assumption | extract_lets | intro _ | with_reducible apply ctl_ite | with_reducible apply ctlF_self
    | with_reducible refine ctl_modCore ?_ (fun _ => rfl) | with_reducible refine ctl_setCore ?_ (ctl_core (by with_reducible assumption) _) | split
    | dsimp only [ctl_mk]

theorem State.modJob_ctl {o : State} {x0 : State} {x1 : NHdr} {x2 : Job → Job} (h : Ctl o x0) :
    Ctl o (State.modJob x0 x1 x2) := by
  unfold State.modJob
  repeat' first
    | with_reducible assumption | extract_lets | intro _ | with_reducible apply ctl_ite | with_reducible apply ctlF_self
    | with_reducible refine ctl_modCore ?_ (fun _ => rfl) | with_reducible refine ctl_setCore ?_ (ctl_core (by with_reducible assumption) _) | split
    | dsimp only [ctl_mk]

theorem State.countViolation_ctl {o : State} {x0 : State} (h : Ctl o x0) :
    Ctl o (State.countViolation x0) := by
  unfold State.countViolation
  repeat' first
    | with_reducible assumption | with_reducible apply State.addReg_ctl | dsimp only

theorem State.setLevel_ctl {o : State} {x0 : State} {x1 : Nat} {x2 : Bool} (h : Ctl o x0) :
    Ctl o (State.setLevel x0 x1 x2) := by
  unfold State.setLevel
  repeat' first
    | with_reducible assumption | with_reducible apply State.setBit_ctl | dsimp only

theorem State.wakeHeld_ctl {o : State} {x0 : State} (h : Ctl o x0) :
    Ctl o (State.wakeHeld x0) := by
  unfold State.wakeHeld
  repeat' first
    | with_reducible assumption | extract_lets | intro _ | with_reducible exact ctl_of_snd ‹_› ‹_› | with_reducible apply State.setBit_ctl
    | with_reducible apply ctl_each | with_reducible apply ctl_ite | with_reducible apply ctl_ite_snd2 | with_reducible apply ctl_ite_snd
    | with_reducible apply ctlF_self | with_reducible apply ctl_foldl_snd | with_reducible apply ctl_foldl
    | with_reducible refine ctl_modCore ?_ (fun _ => rfl) | with_reducible refine ctl_setCore ?_ (ctl_core (by with_reducible assumption) _)
    | with_reducible refine ctl_setCore ?_ ?_ | with_reducible refine ctl_of_snd ‹_› ?_ | split | dsimp only [ctl_mk] | dsimp +zetaDelta only [ctl_mk]

theorem State.setPend_ctl {o : State} {x0 : State} {x1 : Nat} {x2 : Bool} (h : Ctl o x0) :
    Ctl o (State.setPend x0 x1 x2) := by
  unfold State.setPend
  repeat' first
    | with_reducible assumption | with_reducible apply State.setBit_ctl | dsimp only

theorem State.fire_ctl {o : State} {x0 : State} {x1 : Nat} (h : Ctl o x0) :
    Ctl o (State.fire x0 x1) := by
  unfold State.fire
  repeat' first
    | with_reducible assumption | extract_lets | intro _ | with_reducible apply State.setLevel_ctl | with_reducible apply State.wakeHeld_ctl
    | with_reducible apply State.setPend_ctl | with_reducible apply ctl_ite | with_reducible apply ctlF_self
    | with_reducible refine ctl_modCore ?_ (fun _ => rfl) | with_reducible refine ctl_setCore ?_ (ctl_core (by with_reducible assumption) _) | split
    | dsimp only [ctl_mk]

theorem State.capture_ctl {o : State} {x0 : State} {x1 : FaultUnit} {x2 : Nat} {x3 : Nat} {x4 : Nat} {x5 : Nat} (h : Ctl o x0) :
    Ctl o (State.capture x0 x1 x2 x3 x4 x5) := by
  unfold State.capture
  repeat' first
    | with_reducible assumption | extract_lets | intro _ | with_reducible apply State.setReg_ctl | with_reducible apply ctl_ite
    | with_reducible apply ctlF_self | with_reducible refine ctl_modCore ?_ (fun _ => rfl)
    | with_reducible refine ctl_setCore ?_ (ctl_core (by with_reducible assumption) _) | split | dsimp only [ctl_mk]

theorem State.setFault_ctl {o : State} {x0 : State} {x1 : FaultUnit} {x2 : Nat} {x3 : Nat} {x4 : Nat} {x5 : Nat} (h : Ctl o x0) :
    Ctl o (State.setFault x0 x1 x2 x3 x4 x5) := by
  unfold State.setFault
  repeat' first
    | with_reducible assumption | extract_lets | intro _ | with_reducible apply State.setReg_ctl | with_reducible apply State.capture_ctl
    | with_reducible apply State.raiseEvent_ctl | with_reducible apply State.setBit_ctl | with_reducible apply ctl_ite
    | with_reducible apply ctlF_self | with_reducible refine ctl_modCore ?_ (fun _ => rfl)
    | with_reducible refine ctl_setCore ?_ (ctl_core (by with_reducible assumption) _) | split | dsimp only [ctl_mk]

theorem State.raise_ctl {o : State} {x0 : State} {x1 : FaultUnit} {x2 : Nat} {x3 : Nat} {x4 : Nat} (h : Ctl o x0) :
    Ctl o (State.raise x0 x1 x2 x3 x4) := by
  unfold State.raise
  repeat' first
    | with_reducible assumption | extract_lets | intro _ | with_reducible exact ctl_of_snd ‹_› ‹_› | with_reducible apply State.fire_ctl
    | with_reducible apply State.setFault_ctl | with_reducible apply ctl_each | with_reducible apply ctl_ite | with_reducible apply ctl_ite_snd2
    | with_reducible apply ctl_ite_snd | with_reducible apply ctlF_self | with_reducible apply ctl_foldl_snd | with_reducible apply ctl_foldl
    | with_reducible refine ctl_modCore ?_ (fun _ => rfl) | with_reducible refine ctl_setCore ?_ (ctl_core (by with_reducible assumption) _)
    | with_reducible refine ctl_setCore ?_ ?_ | with_reducible refine ctl_of_snd ‹_› ?_ | split | dsimp only [ctl_mk] | dsimp +zetaDelta only [ctl_mk]

theorem State.poisonJob_ctl {o : State} {x0 : State} {x1 : Nat} (h : Ctl o x0) :
    Ctl o (State.poisonJob x0 x1) := by
  unfold State.poisonJob
  repeat' first
    | with_reducible assumption | extract_lets | intro _ | with_reducible apply State.modJob_ctl | with_reducible apply ctl_ite
    | with_reducible apply ctlF_self | with_reducible refine ctl_modCore ?_ (fun _ => rfl)
    | with_reducible refine ctl_setCore ?_ (ctl_core (by with_reducible assumption) _) | split | dsimp only [ctl_mk]

theorem State.coreFault_ctl {o : State} {x0 : State} {x1 : Nat} {x2 : CoreUnit} {x3 : Nat} {x4 : Nat} {x5 : Nat} (h : Ctl o x0) :
    Ctl o (State.coreFault x0 x1 x2 x3 x4 x5) := by
  unfold State.coreFault
  repeat' first
    | with_reducible assumption | extract_lets | intro _ | with_reducible apply State.raise_ctl | with_reducible apply State.poisonJob_ctl
    | with_reducible apply ctl_ite | with_reducible apply ctlF_self | with_reducible refine ctl_modCore ?_ (fun _ => rfl)
    | with_reducible refine ctl_setCore ?_ (ctl_core (by with_reducible assumption) _) | split | dsimp only [ctl_mk]

theorem State.violate_ctl {o : State} {x0 : State} {x1 : Nat} {x2 : CoreUnit} {x3 : Nat} {x4 : Nat} (h : Ctl o x0) :
    Ctl o (State.violate x0 x1 x2 x3 x4) := by
  unfold State.violate
  repeat' first
    | with_reducible assumption | with_reducible apply State.countViolation_ctl | with_reducible apply State.addReg_ctl
    | with_reducible apply State.coreFault_ctl | dsimp only

theorem State.seqViolate_ctl {o : State} {x0 : State} {x1 : Nat} {x2 : Nat} {x3 : Nat} (h : Ctl o x0) :
    Ctl o (State.seqViolate x0 x1 x2 x3) := by
  unfold State.seqViolate
  repeat' first
    | with_reducible assumption | with_reducible apply State.countViolation_ctl | with_reducible apply State.addReg_ctl
    | with_reducible apply State.coreFault_ctl | dsimp only

theorem State.unfire_ctl {o : State} {x0 : State} {x1 : Nat} (h : Ctl o x0) : Ctl o (State.unfire x0 x1) := by
  unfold State.unfire
  extract_lets s1 s2 b s3
  have h1 : Ctl o s1 := State.setLevel_ctl h
  have h2 : Ctl o s2 := State.setPend_ctl h1
  have h3 : Ctl o s3 := ⟨h2.eq⟩
  split
  · exact State.addReg_ctl (State.setFault_ctl h3)
  · exact h1

theorem State.memViolation_ctl {o : State} {x0 : State} {x1 : Nat} (h : Ctl o x0) :
    Ctl o (State.memViolation x0 x1) := by
  unfold State.memViolation
  repeat' first
    | with_reducible assumption | with_reducible apply State.addReg_ctl | with_reducible apply State.raise_ctl | dsimp only

theorem State.residueHits_ctl {o : State} {x0 : State} {x1 : Nat} {x2 : Nat} (h : Ctl o x0) :
    Ctl o (State.residueHits x0 x1 x2) := by
  unfold State.residueHits
  repeat' first
    | with_reducible assumption | extract_lets | intro _ | with_reducible apply State.addReg_ctl | with_reducible apply State.setBit_ctl
    | with_reducible apply ctl_ite | with_reducible apply ctlF_self | with_reducible refine ctl_modCore ?_ (fun _ => rfl)
    | with_reducible refine ctl_setCore ?_ (ctl_core (by with_reducible assumption) _) | split | dsimp only [ctl_mk]

theorem State.checkWord_ctl {o : State} {x0 : Nat} {x1 : Injection} {x2 : State} (h : Ctl o x2) :
    Ctl o (State.checkWord x0 x1 x2) := by
  unfold State.checkWord
  repeat' first
    | with_reducible assumption | extract_lets | intro _ | with_reducible apply State.coreFault_ctl | with_reducible apply State.markLine_ctl
    | with_reducible apply ctl_ite | with_reducible apply ctlF_self | with_reducible refine ctl_modCore ?_ (fun _ => rfl)
    | with_reducible refine ctl_setCore ?_ (ctl_core (by with_reducible assumption) _) | split | dsimp only [ctl_mk]

theorem State.sramCheck_ctl {o : State} {x0 : State} {x1 : Nat} {x2 : Nat} {x3 : Nat} (h : Ctl o x0) :
    Ctl o (State.sramCheck x0 x1 x2 x3) := by
  unfold State.sramCheck
  repeat' first
    | with_reducible assumption | extract_lets | intro _ | with_reducible exact ctl_of_snd ‹_› ‹_› | with_reducible apply State.checkWord_ctl
    | with_reducible apply ctl_each | with_reducible apply ctl_ite | with_reducible apply ctl_ite_snd2 | with_reducible apply ctl_ite_snd
    | with_reducible apply ctlF_self | with_reducible apply ctl_foldl_snd | with_reducible apply ctl_foldl
    | with_reducible refine ctl_modCore ?_ (fun _ => rfl) | with_reducible refine ctl_setCore ?_ (ctl_core (by with_reducible assumption) _)
    | with_reducible refine ctl_setCore ?_ ?_ | with_reducible refine ctl_of_snd ‹_› ?_ | split | dsimp only [ctl_mk] | dsimp +zetaDelta only [ctl_mk]

theorem State.validate_ctl {o : State} {x0 : State} {x1 : Nat} (h : Ctl o x0) :
    Ctl o (State.validate x0 x1) := by
  unfold State.validate
  repeat' first
    | with_reducible assumption | extract_lets | intro _ | with_reducible apply ctl_ite | with_reducible apply ctlF_self
    | with_reducible refine ctl_modCore ?_ (fun _ => rfl) | with_reducible refine ctl_setCore ?_ (ctl_core (by with_reducible assumption) _) | split
    | dsimp only [ctl_mk]

theorem State.remapWord_ctl {o : State} {x0 : State} {x1 : Nat} {x2 : Nat} (h : Ctl o x0) :
    Ctl o (State.remapWord x0 x1 x2) := by
  unfold State.remapWord
  repeat' first
    | with_reducible assumption | extract_lets | intro _ | with_reducible apply State.setFld_ctl | with_reducible apply State.coreFault_ctl
    | with_reducible apply ctl_ite | with_reducible apply ctlF_self | with_reducible refine ctl_modCore ?_ (fun _ => rfl)
    | with_reducible refine ctl_setCore ?_ (ctl_core (by with_reducible assumption) _) | split | dsimp only [ctl_mk]

theorem State.putPlain_ctl {o : State} {x0 : State} {x1 : Nat} {x2 : Nat} {x3 : List Byte} (h : Ctl o x0) :
    Ctl o (State.putPlain x0 x1 x2 x3) := by
  unfold State.putPlain
  repeat' first
    | with_reducible assumption | extract_lets | intro _ | with_reducible apply State.remapWord_ctl | with_reducible apply ctl_ite
    | with_reducible apply ctlF_self | with_reducible refine ctl_modCore ?_ (fun _ => rfl)
    | with_reducible refine ctl_setCore ?_ (ctl_core (by with_reducible assumption) _) | split | dsimp only [ctl_mk]

theorem State.dropEntry_ctl {o : State} {x0 : State} {x1 : Nat} {x2 : Nat} (h : Ctl o x0) :
    Ctl o (State.dropEntry x0 x1 x2) := by
  unfold State.dropEntry
  repeat' first
    | with_reducible assumption | extract_lets | intro _ | with_reducible apply ctl_ite | with_reducible apply ctlF_self
    | with_reducible refine ctl_modCore ?_ (fun _ => rfl) | with_reducible refine ctl_setCore ?_ (ctl_core (by with_reducible assumption) _) | split
    | dsimp only [ctl_mk]

theorem State.retirePlain_ctl {o : State} {x0 : Nat} {x1 : MergeEntry} {x2 : State} (h : Ctl o x2) :
    Ctl o (State.retirePlain x0 x1 x2) := by
  unfold State.retirePlain
  repeat' first
    | with_reducible assumption | with_reducible apply State.dropEntry_ctl | with_reducible apply State.putPlain_ctl
    | with_reducible apply State.sramCheck_ctl | dsimp only

theorem State.putWord_ctl {o : State} {x0 : State} {x1 : Nat} {x2 : Nat} {x3 : List Byte} (h : Ctl o x0) :
    Ctl o (State.putWord x0 x1 x2 x3) := by
  unfold State.putWord
  repeat' first
    | with_reducible assumption | extract_lets | intro _ | with_reducible exact ctl_of_snd ‹_› ‹_› | with_reducible apply State.putPlain_ctl
    | with_reducible apply State.retirePlain_ctl | with_reducible apply State.setFld_ctl | with_reducible apply ctl_each
    | with_reducible apply ctl_ite | with_reducible apply ctl_ite_snd2 | with_reducible apply ctl_ite_snd | with_reducible apply ctlF_self
    | with_reducible apply ctl_foldl_snd | with_reducible apply ctl_foldl | with_reducible refine ctl_modCore ?_ (fun _ => rfl)
    | with_reducible refine ctl_setCore ?_ (ctl_core (by with_reducible assumption) _) | with_reducible refine ctl_setCore ?_ ?_
    | with_reducible refine ctl_of_snd ‹_› ?_ | split | dsimp only [ctl_mk] | dsimp +zetaDelta only [ctl_mk]

theorem State.retireEntry_ctl {o : State} {x0 : Nat} {x1 : MergeEntry} {x2 : State} (h : Ctl o x2) :
    Ctl o (State.retireEntry x0 x1 x2) := by
  unfold State.retireEntry
  repeat' first
    | with_reducible assumption | extract_lets | intro _ | with_reducible apply State.sramCheck_ctl | with_reducible apply State.dropEntry_ctl
    | with_reducible apply State.putWord_ctl | with_reducible apply ctl_ite | with_reducible apply ctlF_self
    | with_reducible refine ctl_modCore ?_ (fun _ => rfl) | with_reducible refine ctl_setCore ?_ (ctl_core (by with_reducible assumption) _) | split
    | dsimp only [ctl_mk]

theorem State.narrowWrite_ctl {o : State} {x0 : State} {x1 x2 : Nat} {x3 : List Byte} (h : Ctl o x0) : Ctl o (State.narrowWrite x0 x1 x2 x3) := by
  unfold State.narrowWrite
  extract_lets w k same s2 k2
  split
  · extract_lets e
    exact ctl_ite (State.retireEntry_ctl h) (ctl_setCore h (ctl_core h x1))
  · have h2 : Ctl o s2 := by
      refine ctl_ite h ?_
      cases same
      · exact h
      · exact State.retireEntry_ctl h
    exact ctl_setCore h2 (ctl_core h2 x1)

theorem State.sramWord_ctl {o : State} {x0 : Nat} {x1 : Nat × List Byte} {x2 : State} (h : Ctl o x2) :
    Ctl o (State.sramWord x0 x1 x2) := by
  unfold State.sramWord
  repeat' first
    | with_reducible assumption | extract_lets | intro _ | with_reducible apply State.putWord_ctl | with_reducible apply State.dropEntry_ctl
    | with_reducible apply State.narrowWrite_ctl | with_reducible apply ctl_ite | with_reducible apply ctlF_self
    | with_reducible refine ctl_modCore ?_ (fun _ => rfl) | with_reducible refine ctl_setCore ?_ (ctl_core (by with_reducible assumption) _) | split
    | dsimp only [ctl_mk]

theorem State.sramPiece_ctl {o : State} {x0 : Nat} {x1 : Bool} {x2 : Nat × List Byte} {x3 : State} (h : Ctl o x3) :
    Ctl o (State.sramPiece x0 x1 x2 x3) := by
  unfold State.sramPiece
  repeat' first
    | with_reducible assumption | extract_lets | intro _ | with_reducible exact ctl_of_snd ‹_› ‹_› | with_reducible apply State.markLine_ctl
    | with_reducible apply State.validate_ctl | with_reducible apply State.sramWord_ctl | with_reducible apply ctl_each | with_reducible apply ctl_ite
    | with_reducible apply ctl_ite_snd2 | with_reducible apply ctl_ite_snd | with_reducible apply ctlF_self | with_reducible apply ctl_foldl_snd
    | with_reducible apply ctl_foldl | with_reducible refine ctl_modCore ?_ (fun _ => rfl)
    | with_reducible refine ctl_setCore ?_ (ctl_core (by with_reducible assumption) _) | with_reducible refine ctl_setCore ?_ ?_
    | with_reducible refine ctl_of_snd ‹_› ?_ | split | dsimp only [ctl_mk] | dsimp +zetaDelta only [ctl_mk]

theorem State.sramWrite_ctl {o : State} {x0 : State} {x1 : Nat} {x2 : Nat} {x3 : List Byte} {x4 : Bool} (h : Ctl o x0) :
    Ctl o (State.sramWrite x0 x1 x2 x3 x4) := by
  unfold State.sramWrite
  repeat' first
    | with_reducible assumption | extract_lets | intro _ | with_reducible exact ctl_of_snd ‹_› ‹_› | with_reducible apply State.sramPiece_ctl
    | with_reducible apply ctl_each | with_reducible apply ctl_ite | with_reducible apply ctl_ite_snd2 | with_reducible apply ctl_ite_snd
    | with_reducible apply ctlF_self | with_reducible apply ctl_foldl_snd | with_reducible apply ctl_foldl
    | with_reducible refine ctl_modCore ?_ (fun _ => rfl) | with_reducible refine ctl_setCore ?_ (ctl_core (by with_reducible assumption) _)
    | with_reducible refine ctl_setCore ?_ ?_ | with_reducible refine ctl_of_snd ‹_› ?_ | split | dsimp only [ctl_mk] | dsimp +zetaDelta only [ctl_mk]

theorem State.hubFault_ctl {o : State} {x0 : State} {x1 : Nat} {x2 : Nat} (h : Ctl o x0) :
    Ctl o (State.hubFault x0 x1 x2) := by
  unfold State.hubFault
  repeat' first
    | with_reducible assumption | with_reducible apply State.raise_ctl | dsimp only

theorem State.wordCorrected_ctl {o : State} {x0 : State} {x1 : Nat} {x2 : Nat} (h : Ctl o x0) :
    Ctl o (State.wordCorrected x0 x1 x2) := by
  unfold State.wordCorrected
  repeat' first
    | with_reducible assumption | extract_lets | intro _ | with_reducible apply State.addReg_ctl | with_reducible apply State.remapWord_ctl
    | with_reducible apply ctl_ite | with_reducible apply ctlF_self | with_reducible refine ctl_modCore ?_ (fun _ => rfl)
    | with_reducible refine ctl_setCore ?_ (ctl_core (by with_reducible assumption) _) | split | dsimp only [ctl_mk]

theorem State.wordLost_ctl {o : State} {x0 : State} {x1 : Nat} {x2 : Nat} (h : Ctl o x0) :
    Ctl o (State.wordLost x0 x1 x2) := by
  unfold State.wordLost
  repeat' first
    | with_reducible assumption | extract_lets | intro _ | with_reducible apply State.markLine_ctl | with_reducible apply State.addReg_ctl
    | with_reducible apply State.coreFault_ctl | with_reducible apply ctl_ite | with_reducible apply ctlF_self
    | with_reducible refine ctl_modCore ?_ (fun _ => rfl) | with_reducible refine ctl_setCore ?_ (ctl_core (by with_reducible assumption) _) | split
    | dsimp only [ctl_mk]

theorem State.modHub_ctl {o : State} {x0 : State} {x1 : HubSram → HubSram} (h : Ctl o x0) :
    Ctl o (State.modHub x0 x1) := by
  unfold State.modHub
  repeat' first
    | with_reducible assumption | extract_lets | intro _ | with_reducible apply ctl_ite | with_reducible apply ctlF_self
    | with_reducible refine ctl_modCore ?_ (fun _ => rfl) | with_reducible refine ctl_setCore ?_ (ctl_core (by with_reducible assumption) _) | split
    | dsimp only [ctl_mk]

theorem State.hubCheck_ctl {o : State} {x0 : Injection} {x1 : State} (h : Ctl o x1) :
    Ctl o (State.hubCheck x0 x1) := by
  unfold State.hubCheck
  repeat' first
    | with_reducible assumption | extract_lets | intro _ | with_reducible apply State.hubFault_ctl | with_reducible apply State.modHub_ctl
    | with_reducible apply ctl_ite | with_reducible apply ctlF_self | with_reducible refine ctl_modCore ?_ (fun _ => rfl)
    | with_reducible refine ctl_setCore ?_ (ctl_core (by with_reducible assumption) _) | split | dsimp only [ctl_mk]

theorem State.wordRead_ctl {o : State} {x0 : State} {x1 : Nat} {x2 : Nat} {x3 : LineOutcome} (h : Ctl o x0) :
    Ctl o (State.wordRead x0 x1 x2 x3) := by
  unfold State.wordRead
  repeat' first
    | with_reducible assumption | extract_lets | intro _ | with_reducible apply State.wordCorrected_ctl | with_reducible apply State.wordLost_ctl
    | with_reducible apply ctl_ite | with_reducible apply ctlF_self | with_reducible refine ctl_modCore ?_ (fun _ => rfl)
    | with_reducible refine ctl_setCore ?_ (ctl_core (by with_reducible assumption) _) | split | dsimp only [ctl_mk]

theorem State.hubRemap_ctl {o : State} {x0 : State} {x1 : Nat} (h : Ctl o x0) :
    Ctl o (State.hubRemap x0 x1) := by
  unfold State.hubRemap
  repeat' first
    | with_reducible assumption | extract_lets | intro _ | with_reducible apply State.modHub_ctl | with_reducible apply State.hubFault_ctl
    | with_reducible apply State.setFld_ctl | with_reducible apply ctl_ite | with_reducible apply ctlF_self
    | with_reducible refine ctl_modCore ?_ (fun _ => rfl) | with_reducible refine ctl_setCore ?_ (ctl_core (by with_reducible assumption) _) | split
    | dsimp only [ctl_mk]

theorem State.hubPut_ctl {o : State} {x0 : Nat} {x1 : State} (h : Ctl o x1) :
    Ctl o (State.hubPut x0 x1) := by
  unfold State.hubPut
  repeat' first
    | with_reducible assumption | extract_lets | intro _ | with_reducible apply State.modHub_ctl | with_reducible apply State.hubRemap_ctl
    | with_reducible apply State.setFld_ctl | with_reducible apply ctl_ite | with_reducible apply ctlF_self
    | with_reducible refine ctl_modCore ?_ (fun _ => rfl) | with_reducible refine ctl_setCore ?_ (ctl_core (by with_reducible assumption) _) | split
    | dsimp only [ctl_mk]

theorem State.hubWrite_ctl {o : State} {x0 : State} {x1 : Nat} {x2 : Nat} (h : Ctl o x0) :
    Ctl o (State.hubWrite x0 x1 x2) := by
  unfold State.hubWrite
  repeat' first
    | with_reducible assumption | extract_lets | intro _ | with_reducible exact ctl_of_snd ‹_› ‹_› | with_reducible apply State.modHub_ctl
    | with_reducible apply State.hubPut_ctl | with_reducible apply ctl_each | with_reducible apply ctl_ite | with_reducible apply ctl_ite_snd2
    | with_reducible apply ctl_ite_snd | with_reducible apply ctlF_self | with_reducible apply ctl_foldl_snd | with_reducible apply ctl_foldl
    | with_reducible refine ctl_modCore ?_ (fun _ => rfl) | with_reducible refine ctl_setCore ?_ (ctl_core (by with_reducible assumption) _)
    | with_reducible refine ctl_setCore ?_ ?_ | with_reducible refine ctl_of_snd ‹_› ?_ | split | dsimp only [ctl_mk] | dsimp +zetaDelta only [ctl_mk]

theorem State.hubRead_ctl {o : State} {x0 : State} {x1 : Nat} {x2 : Nat} (h : Ctl o x0) :
    Ctl o (State.hubRead x0 x1 x2) := by
  unfold State.hubRead
  repeat' first
    | with_reducible assumption | extract_lets | intro _ | with_reducible exact ctl_of_snd ‹_› ‹_› | with_reducible apply State.hubCheck_ctl
    | with_reducible apply ctl_each | with_reducible apply ctl_ite | with_reducible apply ctl_ite_snd2 | with_reducible apply ctl_ite_snd
    | with_reducible apply ctlF_self | with_reducible apply ctl_foldl_snd | with_reducible apply ctl_foldl
    | with_reducible refine ctl_modCore ?_ (fun _ => rfl) | with_reducible refine ctl_setCore ?_ (ctl_core (by with_reducible assumption) _)
    | with_reducible refine ctl_setCore ?_ ?_ | with_reducible refine ctl_of_snd ‹_› ?_ | split | dsimp only [ctl_mk] | dsimp +zetaDelta only [ctl_mk]

theorem State.addRemaining_ctl {o : State} {x0 : State} {x1 : Nat} {x2 : Int} (h : Ctl o x0) :
    Ctl o (State.addRemaining x0 x1 x2) := by
  unfold State.addRemaining
  repeat' first
    | with_reducible assumption | with_reducible apply State.setReg_ctl | dsimp only

theorem State.spend_ctl {o : State} {x0 : State} {x1 : Nat} {x2 : Option NHdr} {x3 : Nat} (h : Ctl o x0) :
    Ctl o (State.spend x0 x1 x2 x3) := by
  unfold State.spend
  repeat' first
    | with_reducible assumption | extract_lets | intro _ | with_reducible exact ctl_of_snd ‹_› ‹_› | with_reducible apply State.modJob_ctl
    | with_reducible apply State.subReg_ctl | with_reducible apply State.addRemaining_ctl | with_reducible apply State.tick_ctl
    | with_reducible apply State.addReg_ctl | with_reducible apply ctl_each | with_reducible apply ctl_ite | with_reducible apply ctl_ite_snd2
    | with_reducible apply ctl_ite_snd | with_reducible apply ctlF_self | with_reducible apply ctl_foldl_snd | with_reducible apply ctl_foldl
    | with_reducible refine ctl_modCore ?_ (fun _ => rfl) | with_reducible refine ctl_setCore ?_ (ctl_core (by with_reducible assumption) _)
    | with_reducible refine ctl_setCore ?_ ?_ | with_reducible refine ctl_of_snd ‹_› ?_ | split | dsimp only [ctl_mk] | dsimp +zetaDelta only [ctl_mk]

theorem State.chargeFj_ctl {o : State} {x0 : State} {x1 : Nat} {x2 : Option NHdr} {x3 : Nat} (h : Ctl o x0) :
    Ctl o (State.chargeFj x0 x1 x2 x3) := by
  unfold State.chargeFj
  repeat' first
    | with_reducible assumption | extract_lets | intro _ | with_reducible exact ctl_of_snd ‹_› ‹_› | with_reducible apply State.spend_ctl
    | with_reducible apply State.setFld_ctl | with_reducible apply ctl_each | with_reducible apply ctl_ite | with_reducible apply ctl_ite_snd2
    | with_reducible apply ctl_ite_snd | with_reducible apply ctlF_self | with_reducible apply ctl_foldl_snd | with_reducible apply ctl_foldl
    | with_reducible refine ctl_modCore ?_ (fun _ => rfl) | with_reducible refine ctl_setCore ?_ (ctl_core (by with_reducible assumption) _)
    | with_reducible refine ctl_setCore ?_ ?_ | with_reducible refine ctl_of_snd ‹_› ?_ | split | dsimp only [ctl_mk] | dsimp +zetaDelta only [ctl_mk]

theorem State.charge_ctl {o : State} {x0 : State} {x1 : Nat} {x2 : Option NHdr} {x3 : Nat} {x4 : Nat} (h : Ctl o x0) :
    Ctl o (State.charge x0 x1 x2 x3 x4) := by
  unfold State.charge
  repeat' first
    | with_reducible assumption | with_reducible apply State.chargeFj_ctl | with_reducible apply State.spend_ctl
    | with_reducible apply State.setFld_ctl | dsimp only

theorem State.chargeHouse_ctl {o : State} {x0 : State} {x1 : Nat} {x2 : Nat} (h : Ctl o x0) :
    Ctl o (State.chargeHouse x0 x1 x2) := by
  unfold State.chargeHouse
  repeat' first
    | with_reducible assumption | with_reducible apply State.charge_ctl | dsimp only

theorem State.chargeCore_ctl {o : State} {x0 : State} {x1 : Nat} {x2 : Nat} {x3 : Nat} (h : Ctl o x0) :
    Ctl o (State.chargeCore x0 x1 x2 x3) := by
  unfold State.chargeCore
  repeat' first
    | with_reducible assumption | with_reducible apply State.charge_ctl | dsimp only

theorem State.opWrite_ctl {o : State} {x0 : State} {x1 : Ctx} {x2 : CoreUnit} {x3 : Nat} {x4 : List Byte} {x5 : Bool} (h : Ctl o x0) :
    Ctl o (State.opWrite x0 x1 x2 x3 x4 x5) := by
  unfold State.opWrite
  repeat' first
    | with_reducible assumption | extract_lets | intro _ | with_reducible exact ctl_of_snd ‹_› ‹_› | with_reducible apply State.sramWrite_ctl
    | with_reducible apply ctl_each | with_reducible apply ctl_ite | with_reducible apply ctl_ite_snd2 | with_reducible apply ctl_ite_snd
    | with_reducible apply ctlF_self | with_reducible apply ctl_foldl_snd | with_reducible apply ctl_foldl
    | with_reducible refine ctl_modCore ?_ (fun _ => rfl) | with_reducible refine ctl_setCore ?_ (ctl_core (by with_reducible assumption) _)
    | with_reducible refine ctl_setCore ?_ ?_ | with_reducible refine ctl_of_snd ‹_› ?_ | split | dsimp only [ctl_mk] | dsimp +zetaDelta only [ctl_mk]

theorem State.asIssued_ctl {o : State} {x0 : State} {x1 : Ctx} (h : Ctl o x0) :
    Ctl o (State.asIssued x0 x1) := by
  unfold State.asIssued
  repeat' first
    | with_reducible assumption | extract_lets | intro _ | with_reducible exact ctl_of_snd ‹_› ‹_› | with_reducible apply State.setReg_ctl
    | with_reducible apply ctl_each | with_reducible apply ctl_ite | with_reducible apply ctl_ite_snd2 | with_reducible apply ctl_ite_snd
    | with_reducible apply ctlF_self | with_reducible apply ctl_foldl_snd | with_reducible apply ctl_foldl
    | with_reducible refine ctl_modCore ?_ (fun _ => rfl) | with_reducible refine ctl_setCore ?_ (ctl_core (by with_reducible assumption) _)
    | with_reducible refine ctl_setCore ?_ ?_ | with_reducible refine ctl_of_snd ‹_› ?_ | split | dsimp only [ctl_mk] | dsimp +zetaDelta only [ctl_mk]

theorem State.harnViolate_ctl {o : State} {x0 : State} {x1 : Nat} (h : Ctl o x0) :
    Ctl o (State.harnViolate x0 x1) := by
  unfold State.harnViolate
  repeat' first
    | with_reducible assumption | with_reducible apply State.addReg_ctl | with_reducible apply State.raise_ctl | dsimp only

theorem State.opViolate_ctl {o : State} {x0 : State} {x1 : Ctx} {x2 : CoreUnit} {x3 : Bool} (h : Ctl o x0) :
    Ctl o (State.opViolate x0 x1 x2 x3) := by
  unfold State.opViolate
  repeat' first
    | with_reducible assumption | extract_lets | intro _ | with_reducible apply State.violate_ctl | with_reducible apply State.harnViolate_ctl
    | with_reducible apply ctl_ite | with_reducible apply ctlF_self | with_reducible refine ctl_modCore ?_ (fun _ => rfl)
    | with_reducible refine ctl_setCore ?_ (ctl_core (by with_reducible assumption) _) | split | dsimp only [ctl_mk]

theorem State.operands_ctl {o : State} {x0 : State} {x1 : Ctx} {x2 : CoreUnit} {x3 : List (Nat × Nat)} {x4 : List (Nat × Nat)} (h : Ctl o x0) :
    Ctl o (State.operands x0 x1 x2 x3 x4) := by
  unfold State.operands
  repeat' first
    | with_reducible assumption | extract_lets | intro _ | with_reducible exact ctl_of_snd ‹_› ‹_› | with_reducible apply State.sramCheck_ctl
    | with_reducible apply State.opViolate_ctl | with_reducible apply State.chargeCore_ctl | with_reducible apply ctl_each
    | with_reducible apply ctl_ite | with_reducible apply ctl_ite_snd2 | with_reducible apply ctl_ite_snd | with_reducible apply ctlF_self
    | with_reducible apply ctl_foldl_snd | with_reducible apply ctl_foldl | with_reducible refine ctl_modCore ?_ (fun _ => rfl)
    | with_reducible refine ctl_setCore ?_ (ctl_core (by with_reducible assumption) _) | with_reducible refine ctl_setCore ?_ ?_
    | with_reducible refine ctl_of_snd ‹_› ?_ | split | dsimp only [ctl_mk] | dsimp +zetaDelta only [ctl_mk]

theorem State.signal_ctl {o : State} {x0 : State} {x1 : Nat} {x2 : Nat} {x3 : Nat} {x4 : Nat} (h : Ctl o x0) :
    Ctl o (State.signal x0 x1 x2 x3 x4) := by
  unfold State.signal
  repeat' first
    | with_reducible assumption | extract_lets | intro _ | with_reducible apply State.tick_ctl | with_reducible apply State.seqViolate_ctl
    | with_reducible apply ctl_ite | with_reducible apply ctlF_self | with_reducible refine ctl_modCore ?_ (fun _ => rfl)
    | with_reducible refine ctl_setCore ?_ (ctl_core (by with_reducible assumption) _) | split | dsimp only [ctl_mk]

theorem State.signal?_ctl {o : State} {x0 : State} {x1 : Nat} {x2 : Option Nat} {x3 : Nat} {x4 : Nat} (h : Ctl o x0) :
    Ctl o (State.signal? x0 x1 x2 x3 x4) := by
  unfold State.signal?
  repeat' first
    | with_reducible assumption | extract_lets | intro _ | with_reducible apply State.signal_ctl | with_reducible apply ctl_ite
    | with_reducible apply ctlF_self | with_reducible refine ctl_modCore ?_ (fun _ => rfl)
    | with_reducible refine ctl_setCore ?_ (ctl_core (by with_reducible assumption) _) | split | dsimp only [ctl_mk]

theorem State.dramFetch_ctl {o : State} {x0 : State} {x1 : Nat} {x2 : Nat} {x3 : LineOutcome} (h : Ctl o x0) :
    Ctl o (State.dramFetch x0 x1 x2 x3).2 := by
  unfold State.dramFetch
  repeat' first
    | with_reducible assumption | extract_lets | intro _ | with_reducible apply State.addReg_ctl | with_reducible apply State.raise_ctl
    | with_reducible apply ctl_ite | with_reducible apply ctlF_self | with_reducible refine ctl_modCore ?_ (fun _ => rfl)
    | with_reducible refine ctl_setCore ?_ (ctl_core (by with_reducible assumption) _) | split | dsimp only [ctl_mk]

theorem State.heatUp_ctl {o : State} {x0 : State} {x1 : Nat} (h : Ctl o x0) :
    Ctl o (State.heatUp x0 x1) := by
  unfold State.heatUp
  repeat' first
    | with_reducible assumption | extract_lets | intro _ | with_reducible apply ctl_ite | with_reducible apply ctlF_self
    | with_reducible refine ctl_modCore ?_ (fun _ => rfl) | with_reducible refine ctl_setCore ?_ (ctl_core (by with_reducible assumption) _) | split
    | dsimp only [ctl_mk]

theorem State.winViolation_ctl {o : State} {x0 : State} {x1 : Nat} (h : Ctl o x0) :
    Ctl o (State.winViolation x0 x1) := by
  unfold State.winViolation
  repeat' first
    | with_reducible assumption | with_reducible apply State.addReg_ctl | with_reducible apply State.raise_ctl
    | with_reducible apply State.memViolation_ctl | dsimp only

theorem State.regLine_ctl {o : State} {x0 : State} {x1 : Nat} (h : Ctl o x0) :
    Ctl o (State.regLine x0 x1) := by
  unfold State.regLine
  repeat' first
    | with_reducible assumption | extract_lets | intro _ | with_reducible apply State.raise_ctl | with_reducible apply State.memViolation_ctl
    | with_reducible apply ctl_ite | with_reducible apply ctlF_self | with_reducible refine ctl_modCore ?_ (fun _ => rfl)
    | with_reducible refine ctl_setCore ?_ (ctl_core (by with_reducible assumption) _) | split | dsimp only [ctl_mk]

theorem State.sramWinViolation_ctl {o : State} {x0 : State} {x1 : Nat} (h : Ctl o x0) :
    Ctl o (State.sramWinViolation x0 x1) := by
  unfold State.sramWinViolation
  repeat' first
    | with_reducible assumption | extract_lets | intro _ | with_reducible apply State.memViolation_ctl | with_reducible apply State.addReg_ctl
    | with_reducible apply State.raise_ctl | with_reducible apply ctl_ite | with_reducible apply ctlF_self
    | with_reducible refine ctl_modCore ?_ (fun _ => rfl) | with_reducible refine ctl_setCore ?_ (ctl_core (by with_reducible assumption) _) | split
    | dsimp only [ctl_mk]

theorem State.overlayViolate_ctl {o : State} {x0 : State} (h : Ctl o x0) :
    Ctl o (State.overlayViolate x0) := by
  unfold State.overlayViolate
  repeat' first
    | with_reducible assumption | with_reducible apply State.addReg_ctl | with_reducible apply State.raise_ctl | dsimp only

theorem State.outerPieces_ctl {o : State} {x0 : State} {x1 : Ctx} {x2 : CoreUnit} {x3 : List (Nat × List Byte)} {x4 : Bool} (h : Ctl o x0) :
    Ctl o (State.outerPieces x0 x1 x2 x3 x4).2 := by
  unfold State.outerPieces
  repeat' first
    | with_reducible assumption | extract_lets | intro _ | with_reducible exact ctl_of_snd ‹_› ‹_› | with_reducible apply State.regLine_ctl
    | with_reducible apply State.sramWinViolation_ctl | with_reducible apply State.harnViolate_ctl | with_reducible apply State.chargeCore_ctl
    | with_reducible apply State.sramWrite_ctl | with_reducible apply State.memViolation_ctl | with_reducible apply State.overlayViolate_ctl
    | with_reducible apply State.dramWrite_ctl | with_reducible apply State.winViolation_ctl | with_reducible apply ctl_each
    | with_reducible apply ctl_ite | with_reducible apply ctl_ite_snd2 | with_reducible apply ctl_ite_snd | with_reducible apply ctlF_self
    | with_reducible apply ctl_foldl_snd | with_reducible apply ctl_foldl | with_reducible refine ctl_modCore ?_ (fun _ => rfl)
    | with_reducible refine ctl_setCore ?_ (ctl_core (by with_reducible assumption) _) | with_reducible refine ctl_setCore ?_ ?_
    | with_reducible refine ctl_of_snd ‹_› ?_ | split | dsimp only [ctl_mk] | dsimp +zetaDelta only [ctl_mk]

theorem State.outerWrite_ctl {o : State} {x0 : State} {x1 : Ctx} {x2 : CoreUnit} {x3 : Nat} {x4 : List Byte} {x5 : Bool} (h : Ctl o x0) :
    Ctl o (State.outerWrite x0 x1 x2 x3 x4 x5).2 := by
  unfold State.outerWrite
  repeat' first
    | with_reducible assumption | with_reducible apply State.outerPieces_ctl | dsimp only

theorem State.evict_ctl {o : State} {x0 : State} {x1 : Nat} (h : Ctl o x0) :
    Ctl o (State.evict x0 x1) := by
  unfold State.evict
  repeat' first
    | with_reducible assumption | extract_lets | intro _ | with_reducible exact ctl_of_snd ‹_› ‹_› | with_reducible apply State.addReg_ctl
    | with_reducible apply ctl_each | with_reducible apply ctl_ite | with_reducible apply ctl_ite_snd2 | with_reducible apply ctl_ite_snd
    | with_reducible apply ctlF_self | with_reducible apply ctl_foldl_snd | with_reducible apply ctl_foldl
    | with_reducible refine ctl_modCore ?_ (fun _ => rfl) | with_reducible refine ctl_setCore ?_ (ctl_core (by with_reducible assumption) _)
    | with_reducible refine ctl_setCore ?_ ?_ | with_reducible refine ctl_of_snd ‹_› ?_ | split | dsimp only [ctl_mk] | dsimp +zetaDelta only [ctl_mk]

theorem State.weightFetch_ctl {o : State} {x0 : State} {x1 : Nat} {x2 : Nat} {x3 : Nat} {x4 : LineOutcome} {x5 : Nat → Bool} (h : Ctl o x0) :
    Ctl o (State.weightFetch x0 x1 x2 x3 x4 x5).2 := by
  unfold State.weightFetch
  repeat' first
    | with_reducible assumption | extract_lets | intro _ | with_reducible apply State.heatUp_ctl | with_reducible apply State.addReg_ctl
    | with_reducible apply State.chargeCore_ctl | with_reducible apply State.raise_ctl | with_reducible apply State.evict_ctl
    | with_reducible apply ctl_ite | with_reducible apply ctlF_self | with_reducible refine ctl_modCore ?_ (fun _ => rfl)
    | with_reducible refine ctl_setCore ?_ (ctl_core (by with_reducible assumption) _) | split | dsimp only [ctl_mk]

theorem State.setNs_ctl {o : State} {x0 : State} {x1 : Nat} {x2 : Nspace} (h : Ctl o x0) :
    Ctl o (State.setNs x0 x1 x2) := by
  unfold State.setNs
  repeat' first
    | with_reducible assumption | extract_lets | intro _ | with_reducible apply ctl_ite | with_reducible apply ctlF_self
    | with_reducible refine ctl_modCore ?_ (fun _ => rfl) | with_reducible refine ctl_setCore ?_ (ctl_core (by with_reducible assumption) _) | split
    | dsimp only [ctl_mk]

theorem State.outerRead_ctl {o : State} {x0 : State} {x1 : Ctx} {x2 : CoreUnit} {x3 : Nat} {x4 : Nat} {x5 : LineOutcome} {x6 : List Byte} {x7 : optParam (Nat → Bool) fun x => Bool.false} (h : Ctl o x0) :
    Ctl o (State.outerRead x0 x1 x2 x3 x4 x5 x6 x7).2 := by
  unfold State.outerRead
  repeat' first
    | with_reducible assumption | extract_lets | intro _ | with_reducible apply State.regLine_ctl | with_reducible apply State.sramWinViolation_ctl
    | with_reducible apply State.harnViolate_ctl | with_reducible apply State.sramCheck_ctl | with_reducible apply State.wordRead_ctl
    | with_reducible apply State.chargeCore_ctl | with_reducible apply State.dramFetch_ctl | with_reducible apply State.weightFetch_ctl
    | with_reducible apply State.memViolation_ctl | with_reducible apply State.winViolation_ctl | with_reducible apply State.poisonJob_ctl
    | with_reducible apply State.raise_ctl | with_reducible apply ctl_ite | with_reducible apply ctlF_self
    | with_reducible refine ctl_modCore ?_ (fun _ => rfl) | with_reducible refine ctl_setCore ?_ (ctl_core (by with_reducible assumption) _) | split
    | dsimp only [ctl_mk]

theorem State.mediaFault_ctl {o : State} {x0 : State} {x1 : Nat} {x2 : Nat} (h : Ctl o x0) :
    Ctl o (State.mediaFault x0 x1 x2) := by
  unfold State.mediaFault
  repeat' first
    | with_reducible assumption | with_reducible apply State.raise_ctl | dsimp only

theorem State.mediaViolate_ctl {o : State} {x0 : State} {x1 : Nat} {x2 : Nat} (h : Ctl o x0) :
    Ctl o (State.mediaViolate x0 x1 x2) := by
  unfold State.mediaViolate
  repeat' first
    | with_reducible assumption | with_reducible apply State.countViolation_ctl | with_reducible apply State.addReg_ctl
    | with_reducible apply State.mediaFault_ctl | dsimp only

theorem State.movePages_ctl {o : State} {x0 : State} {x1 : Nat} {x2 : Nat} {x3 : Nat} (h : Ctl o x0) :
    Ctl o (State.movePages x0 x1 x2 x3) := by
  unfold State.movePages
  repeat' first
    | with_reducible assumption | extract_lets | intro _ | with_reducible apply State.tick_ctl | with_reducible apply State.setFld_ctl
    | with_reducible apply ctl_ite | with_reducible apply ctlF_self | with_reducible refine ctl_modCore ?_ (fun _ => rfl)
    | with_reducible refine ctl_setCore ?_ (ctl_core (by with_reducible assumption) _) | split | dsimp only [ctl_mk]

theorem State.setFblk_ctl {o : State} {x0 : State} {x1 : Nat} {x2 : Blk} (h : Ctl o x0) :
    Ctl o (State.setFblk x0 x1 x2) := by
  unfold State.setFblk
  repeat' first
    | with_reducible assumption | extract_lets | intro _ | with_reducible apply ctl_ite | with_reducible apply ctlF_self
    | with_reducible refine ctl_modCore ?_ (fun _ => rfl) | with_reducible refine ctl_setCore ?_ (ctl_core (by with_reducible assumption) _) | split
    | dsimp only [ctl_mk]

theorem State.dropPage_ctl {o : State} {x0 : State} {x1 : Nat} (h : Ctl o x0) :
    Ctl o (State.dropPage x0 x1) := by
  unfold State.dropPage
  repeat' first
    | with_reducible assumption | extract_lets | intro _ | with_reducible apply State.movePages_ctl | with_reducible apply State.setFblk_ctl
    | with_reducible apply ctl_ite | with_reducible apply ctlF_self | with_reducible refine ctl_modCore ?_ (fun _ => rfl)
    | with_reducible refine ctl_setCore ?_ (ctl_core (by with_reducible assumption) _) | split | dsimp only [ctl_mk]

theorem State.remap_ctl {o : State} {x0 : State} {x1 : Nat} {x2 : Nat} {x3 : Nat} (h : Ctl o x0) :
    Ctl o (State.remap x0 x1 x2 x3) := by
  unfold State.remap
  repeat' first
    | with_reducible assumption | extract_lets | intro _ | with_reducible apply State.setNs_ctl | with_reducible apply ctl_ite
    | with_reducible apply ctlF_self | with_reducible refine ctl_modCore ?_ (fun _ => rfl)
    | with_reducible refine ctl_setCore ?_ (ctl_core (by with_reducible assumption) _) | split | dsimp only [ctl_mk]

theorem State.dropHome_ctl {o : State} {x0 : State} {x1 : Nat} {x2 : Nat} (h : Ctl o x0) :
    Ctl o (State.dropHome x0 x1 x2) := by
  unfold State.dropHome
  repeat' first
    | with_reducible assumption | extract_lets | intro _ | with_reducible apply State.remap_ctl | with_reducible apply State.dropPage_ctl
    | with_reducible apply ctl_ite | with_reducible apply ctlF_self | with_reducible refine ctl_modCore ?_ (fun _ => rfl)
    | with_reducible refine ctl_setCore ?_ (ctl_core (by with_reducible assumption) _) | split | dsimp only [ctl_mk]

theorem State.putUnit_ctl {o : State} {x0 : Nat} {x1 : Nat} {x2 : State} (h : Ctl o x2) :
    Ctl o (State.putUnit x0 x1 x2) := by
  unfold State.putUnit
  repeat' first
    | with_reducible assumption | extract_lets | intro _ | with_reducible apply State.dropHome_ctl | with_reducible apply ctl_ite
    | with_reducible apply ctlF_self | with_reducible refine ctl_modCore ?_ (fun _ => rfl)
    | with_reducible refine ctl_setCore ?_ (ctl_core (by with_reducible assumption) _) | split | dsimp only [ctl_mk]

theorem State.useMap_ctl {o : State} {x0 : Nat} {x1 : State} (h : Ctl o x1) :
    Ctl o (State.useMap x0 x1) := by
  unfold State.useMap
  repeat' first
    | with_reducible assumption | extract_lets | intro _ | with_reducible apply State.chargeHouse_ctl | with_reducible apply ctl_ite
    | with_reducible apply ctlF_self | with_reducible refine ctl_modCore ?_ (fun _ => rfl)
    | with_reducible refine ctl_setCore ?_ (ctl_core (by with_reducible assumption) _) | split | dsimp only [ctl_mk]

theorem State.useMaps_ctl {o : State} {x0 : State} {x1 : Nat} {x2 : Nspace} {x3 : Nat} {x4 : Nat} (h : Ctl o x0) :
    Ctl o (State.useMaps x0 x1 x2 x3 x4) := by
  unfold State.useMaps
  repeat' first
    | with_reducible assumption | extract_lets | intro _ | with_reducible exact ctl_of_snd ‹_› ‹_› | with_reducible apply State.useMap_ctl
    | with_reducible apply ctl_each | with_reducible apply ctl_ite | with_reducible apply ctl_ite_snd2 | with_reducible apply ctl_ite_snd
    | with_reducible apply ctlF_self | with_reducible apply ctl_foldl_snd | with_reducible apply ctl_foldl
    | with_reducible refine ctl_modCore ?_ (fun _ => rfl) | with_reducible refine ctl_setCore ?_ (ctl_core (by with_reducible assumption) _)
    | with_reducible refine ctl_setCore ?_ ?_ | with_reducible refine ctl_of_snd ‹_› ?_ | split | dsimp only [ctl_mk] | dsimp +zetaDelta only [ctl_mk]

theorem State.takeSb_ctl {o : State} {x0 : State} {x1 : Nat} {x2 : Nat} (h : Ctl o x0) :
    Ctl o (State.takeSb x0 x1 x2) := by
  unfold State.takeSb
  repeat' first
    | with_reducible assumption | extract_lets | intro _ | with_reducible apply State.setNs_ctl | with_reducible apply ctl_ite
    | with_reducible apply ctlF_self | with_reducible refine ctl_modCore ?_ (fun _ => rfl)
    | with_reducible refine ctl_setCore ?_ (ctl_core (by with_reducible assumption) _) | split | dsimp only [ctl_mk]

theorem State.putUnits_ctl {o : State} {x0 : State} {x1 : Nat} {x2 : Nat} {x3 : Nat} (h : Ctl o x0) :
    Ctl o (State.putUnits x0 x1 x2 x3) := by
  unfold State.putUnits
  repeat' first
    | with_reducible assumption | extract_lets | intro _ | with_reducible exact ctl_of_snd ‹_› ‹_› | with_reducible apply State.putUnit_ctl
    | with_reducible apply ctl_each | with_reducible apply ctl_ite | with_reducible apply ctl_ite_snd2 | with_reducible apply ctl_ite_snd
    | with_reducible apply ctlF_self | with_reducible apply ctl_foldl_snd | with_reducible apply ctl_foldl
    | with_reducible refine ctl_modCore ?_ (fun _ => rfl) | with_reducible refine ctl_setCore ?_ (ctl_core (by with_reducible assumption) _)
    | with_reducible refine ctl_setCore ?_ ?_ | with_reducible refine ctl_of_snd ‹_› ?_ | split | dsimp only [ctl_mk] | dsimp +zetaDelta only [ctl_mk]

theorem State.eraseReads_ctl {o : State} {x0 : State} {x1 : NatSet} (h : Ctl o x0) :
    Ctl o (State.eraseReads x0 x1) := by
  unfold State.eraseReads
  repeat' first
    | with_reducible assumption | extract_lets | intro _ | with_reducible exact ctl_of_snd ‹_› ‹_› | with_reducible apply State.mediaViolate_ctl
    | with_reducible apply ctl_each | with_reducible apply ctl_ite | with_reducible apply ctl_ite_snd2 | with_reducible apply ctl_ite_snd
    | with_reducible apply ctlF_self | with_reducible apply ctl_foldl_snd | with_reducible apply ctl_foldl
    | with_reducible refine ctl_modCore ?_ (fun _ => rfl) | with_reducible refine ctl_setCore ?_ (ctl_core (by with_reducible assumption) _)
    | with_reducible refine ctl_setCore ?_ ?_ | with_reducible refine ctl_of_snd ‹_› ?_ | split | dsimp only [ctl_mk] | dsimp +zetaDelta only [ctl_mk]

theorem State.zoneWrite_ctl {o : State} {x0 : State} {x1 : Nat} {x2 : Nat} {x3 : List Byte} {x4 : List Nat} (h : Ctl o x0) :
    Ctl o (State.zoneWrite x0 x1 x2 x3 x4) := by
  unfold State.zoneWrite
  repeat' first
    | with_reducible assumption | extract_lets | intro _ | with_reducible apply State.takeSb_ctl | with_reducible apply State.setNs_ctl
    | with_reducible apply State.putUnits_ctl | with_reducible apply ctl_ite | with_reducible apply ctlF_self
    | with_reducible refine ctl_modCore ?_ (fun _ => rfl) | with_reducible refine ctl_setCore ?_ (ctl_core (by with_reducible assumption) _) | split
    | dsimp only [ctl_mk]

theorem State.dxOperands_ctl {o : State} {x0 : State} {x1 : Ctx} {x2 : List (Nat × Nat)} (h : Ctl o x0) :
    Ctl o (State.dxOperands x0 x1 x2) := by
  unfold State.dxOperands
  repeat' first
    | with_reducible assumption | extract_lets | intro _ | with_reducible apply State.operands_ctl | with_reducible apply State.countViolation_ctl
    | with_reducible apply State.addReg_ctl | with_reducible apply State.coreFault_ctl | with_reducible apply ctl_ite | with_reducible apply ctlF_self
    | with_reducible refine ctl_modCore ?_ (fun _ => rfl) | with_reducible refine ctl_setCore ?_ (ctl_core (by with_reducible assumption) _) | split
    | dsimp only [ctl_mk]

theorem State.slotDrop_ctl {o : State} {x0 : State} {x1 : Nat} {x2 : Nat} (h : Ctl o x0) :
    Ctl o (State.slotDrop x0 x1 x2) := by
  unfold State.slotDrop
  repeat' first
    | with_reducible assumption | extract_lets | intro _ | with_reducible apply State.tick_ctl | with_reducible apply ctl_ite
    | with_reducible apply ctlF_self | with_reducible refine ctl_modCore ?_ (fun _ => rfl)
    | with_reducible refine ctl_setCore ?_ (ctl_core (by with_reducible assumption) _) | split | dsimp only [ctl_mk]

theorem State.putElem_ctl {o : State} {x0 : Ctx} {x1 : Desc} {x2 : Bool} {x3 : Nat × List Byte} {x4 : State} (h : Ctl o x4) :
    Ctl o (State.putElem x0 x1 x2 x3 x4) := by
  unfold State.putElem
  repeat' first
    | with_reducible assumption | extract_lets | intro _ | with_reducible apply State.opWrite_ctl | with_reducible apply ctl_ite
    | with_reducible apply ctlF_self | with_reducible refine ctl_modCore ?_ (fun _ => rfl)
    | with_reducible refine ctl_setCore ?_ (ctl_core (by with_reducible assumption) _) | split | dsimp only [ctl_mk]

theorem State.zeroRange_ctl {o : State} {x0 : State} {x1 : Ctx} {x2 : Nat} {x3 : Nat} (h : Ctl o x0) :
    Ctl o (State.zeroRange x0 x1 x2 x3) := by
  unfold State.zeroRange
  repeat' first
    | with_reducible assumption | extract_lets | intro _ | with_reducible apply State.opWrite_ctl | with_reducible apply ctl_ite
    | with_reducible apply ctlF_self | with_reducible refine ctl_modCore ?_ (fun _ => rfl)
    | with_reducible refine ctl_setCore ?_ (ctl_core (by with_reducible assumption) _) | split | dsimp only [ctl_mk]

theorem State.planeStart_ctl {o : State} {x0 : Ctx} {x1 : Desc} {x2 : Nat} {x3 : State} (h : Ctl o x3) :
    Ctl o (State.planeStart x0 x1 x2 x3) := by
  unfold State.planeStart
  repeat' first
    | with_reducible assumption | extract_lets | intro _ | with_reducible apply State.zeroRange_ctl | with_reducible apply ctl_ite
    | with_reducible apply ctlF_self | with_reducible refine ctl_modCore ?_ (fun _ => rfl)
    | with_reducible refine ctl_setCore ?_ (ctl_core (by with_reducible assumption) _) | split | dsimp only [ctl_mk]

theorem State.dxViolate_ctl {o : State} {x0 : State} {x1 : Ctx} {x2 : Stream} (h : Ctl o x0) :
    Ctl o (State.dxViolate x0 x1 x2).1 := by
  unfold State.dxViolate
  repeat' first
    | with_reducible assumption | extract_lets | intro _ | with_reducible apply State.violate_ctl | with_reducible apply ctl_ite
    | with_reducible apply ctlF_self | with_reducible refine ctl_modCore ?_ (fun _ => rfl)
    | with_reducible refine ctl_setCore ?_ (ctl_core (by with_reducible assumption) _) | split | dsimp only [ctl_mk]

theorem State.placeRun_ctl {o : State} {x0 : State} {x1 : Ctx} {x2 : Stream} {x3 : Nat} {x4 : DxLine} {x5 : Bool} {x6 : Bool} (h : Ctl o x0) :
    Ctl o (State.placeRun x0 x1 x2 x3 x4 x5 x6).1 := by
  unfold State.placeRun
  repeat' first
    | with_reducible assumption | extract_lets | intro _ | with_reducible exact ctl_of_snd ‹_› ‹_› | with_reducible apply State.opWrite_ctl
    | with_reducible apply State.putElem_ctl | with_reducible apply State.planeStart_ctl | with_reducible apply State.coreFault_ctl
    | with_reducible apply State.dxViolate_ctl | with_reducible apply ctl_each | with_reducible apply ctl_ite | with_reducible apply ctl_ite_snd2
    | with_reducible apply ctl_ite_snd | with_reducible apply ctlF_self | with_reducible apply ctl_foldl_snd | with_reducible apply ctl_foldl
    | with_reducible refine ctl_modCore ?_ (fun _ => rfl) | with_reducible refine ctl_setCore ?_ (ctl_core (by with_reducible assumption) _)
    | with_reducible refine ctl_setCore ?_ ?_ | with_reducible refine ctl_of_snd ‹_› ?_ | split | dsimp only [ctl_mk] | dsimp +zetaDelta only [ctl_mk]

theorem State.slotFree_ctl {o : State} {x0 : State} {x1 : Nat} {x2 : Nat} (h : Ctl o x0) :
    Ctl o (State.slotFree x0 x1 x2) := by
  unfold State.slotFree
  repeat' first
    | with_reducible assumption | extract_lets | intro _ | with_reducible apply State.tick_ctl | with_reducible apply ctl_ite
    | with_reducible apply ctlF_self | with_reducible refine ctl_modCore ?_ (fun _ => rfl)
    | with_reducible refine ctl_setCore ?_ (ctl_core (by with_reducible assumption) _) | split | dsimp only [ctl_mk]

theorem State.streamAt_ctl {o : State} {x0 : State} {x1 : Nat} {x2 : Stream} {x3 : Nat} (h : Ctl o x0) :
    Ctl o (State.streamAt x0 x1 x2 x3) := by
  unfold State.streamAt
  repeat' first
    | with_reducible assumption | extract_lets | intro _ | with_reducible apply State.signal?_ctl | with_reducible apply State.slotFree_ctl
    | with_reducible apply ctl_ite | with_reducible apply ctlF_self | with_reducible refine ctl_modCore ?_ (fun _ => rfl)
    | with_reducible refine ctl_setCore ?_ (ctl_core (by with_reducible assumption) _) | split | dsimp only [ctl_mk]

theorem State.consume_ctl {o : State} {x0 : Nat} {x1 : List DxLine} {x2 : State} (h : Ctl o x2) :
    Ctl o (State.consume x0 x1 x2) := by
  induction x1 generalizing x0 x2 with
  | nil => simpa only [State.consume] using h
  | cons a r ih =>
    rw [State.consume]
    repeat' first
      | with_reducible assumption | with_reducible apply ih | extract_lets | intro _ | with_reducible apply State.placeRun_ctl
      | with_reducible apply State.streamAt_ctl | with_reducible apply State.chargeCore_ctl | with_reducible apply ctl_ite
      | with_reducible apply ctlF_self | with_reducible refine ctl_modCore ?_ (fun _ => rfl)
      | with_reducible refine ctl_setCore ?_ (ctl_core (by with_reducible assumption) _) | split | dsimp only [ctl_mk]

theorem State.modLace_ctl {o : State} {x0 : State} {x1 : Nat} {x2 : Nat} {x3 : LaceChan → LaceChan} (h : Ctl o x0) :
    Ctl o (State.modLace x0 x1 x2 x3) := by
  unfold State.modLace
  repeat' first
    | with_reducible assumption | extract_lets | intro _ | with_reducible apply ctl_ite | with_reducible apply ctlF_self
    | with_reducible refine ctl_modCore ?_ (fun _ => rfl) | with_reducible refine ctl_setCore ?_ (ctl_core (by with_reducible assumption) _) | split
    | dsimp only [ctl_mk]

theorem State.laceSend_ctl {o : State} {x0 : State} {x1 : Nat} {x2 : Nat} {x3 : DxLine} (h : Ctl o x0) :
    Ctl o (State.laceSend x0 x1 x2 x3) := by
  unfold State.laceSend
  repeat' first
    | with_reducible assumption | extract_lets | intro _ | with_reducible apply State.modLace_ctl | with_reducible apply ctl_ite
    | with_reducible apply ctlF_self | with_reducible refine ctl_modCore ?_ (fun _ => rfl)
    | with_reducible refine ctl_setCore ?_ (ctl_core (by with_reducible assumption) _) | split | dsimp only [ctl_mk]

theorem State.slotDrain_ctl {o : State} {x0 : State} {x1 : Nat} {x2 : Nat} (h : Ctl o x0) :
    Ctl o (State.slotDrain x0 x1 x2) := by
  unfold State.slotDrain
  repeat' first
    | with_reducible assumption | extract_lets | intro _ | with_reducible apply State.tick_ctl | with_reducible apply ctl_ite
    | with_reducible apply ctlF_self | with_reducible refine ctl_modCore ?_ (fun _ => rfl)
    | with_reducible refine ctl_setCore ?_ (ctl_core (by with_reducible assumption) _) | split | dsimp only [ctl_mk]

theorem State.laceDone_ctl {o : State} {x0 : State} {x1 : Nat} {x2 : Nat} {x3 : DxLine} (h : Ctl o x0) :
    Ctl o (State.laceDone x0 x1 x2 x3) := by
  unfold State.laceDone
  repeat' first
    | with_reducible assumption | extract_lets | intro _ | with_reducible apply State.laceSend_ctl | with_reducible apply State.slotDrain_ctl
    | with_reducible apply State.modLace_ctl | with_reducible apply ctl_ite | with_reducible apply ctlF_self
    | with_reducible refine ctl_modCore ?_ (fun _ => rfl) | with_reducible refine ctl_setCore ?_ (ctl_core (by with_reducible assumption) _) | split
    | dsimp only [ctl_mk]

theorem State.cancelPrefetch_ctl {o : State} {x0 : State} {x1 : Nat} {x2 : Prefetch → Bool} (h : Ctl o x0) :
    Ctl o (State.cancelPrefetch x0 x1 x2) := by
  unfold State.cancelPrefetch
  repeat' first
    | with_reducible assumption | extract_lets | intro _ | with_reducible apply State.addReg_ctl | with_reducible apply State.slotDrop_ctl
    | with_reducible apply ctl_ite | with_reducible apply ctlF_self | with_reducible refine ctl_modCore ?_ (fun _ => rfl)
    | with_reducible refine ctl_setCore ?_ (ctl_core (by with_reducible assumption) _) | split | dsimp only [ctl_mk]

theorem State.laceProcess_ctl {o : State} {x0 : Nat} {x1 : Nat} {x2 : Nat} {x3 : State} (h : Ctl o x3) :
    Ctl o (State.laceProcess x0 x1 x2 x3) := by
  induction x0 generalizing x1 x2 x3 with
  | zero => simpa only [State.laceProcess] using h
  | succ m ih =>
    rw [State.laceProcess]
    repeat' first
      | with_reducible assumption | with_reducible apply ih | extract_lets | intro _ | with_reducible apply State.laceDone_ctl
      | with_reducible apply State.modLace_ctl | with_reducible apply State.coreFault_ctl | with_reducible apply State.placeRun_ctl
      | with_reducible apply State.streamAt_ctl | with_reducible apply State.chargeCore_ctl | with_reducible apply ctl_ite
      | with_reducible apply ctlF_self | with_reducible refine ctl_modCore ?_ (fun _ => rfl)
      | with_reducible refine ctl_setCore ?_ (ctl_core (by with_reducible assumption) _) | split | dsimp only [ctl_mk]

theorem State.dxStart_ctl {o : State} {x0 : State} {x1 : Bool} {x2 : Hdr} {x3 : DxOps} {x4 : Ctx} (h : Ctl o x0) :
    Ctl o (State.dxStart x0 x1 x2 x3 x4) := by
  unfold State.dxStart
  repeat' first
    | with_reducible assumption | extract_lets | intro _ | with_reducible exact ctl_of_snd ‹_› ‹_› | with_reducible apply State.signal?_ctl
    | with_reducible apply State.cancelPrefetch_ctl | with_reducible apply State.countViolation_ctl | with_reducible apply State.addReg_ctl
    | with_reducible apply State.coreFault_ctl | with_reducible apply State.dxOperands_ctl | with_reducible apply State.dxViolate_ctl
    | with_reducible apply State.consume_ctl | with_reducible apply State.slotFree_ctl | with_reducible apply State.slotDrain_ctl
    | with_reducible apply State.laceProcess_ctl | with_reducible apply ctl_each | with_reducible apply ctl_ite | with_reducible apply ctl_ite_snd2
    | with_reducible apply ctl_ite_snd | with_reducible apply ctlF_self | with_reducible apply ctl_foldl_snd | with_reducible apply ctl_foldl
    | with_reducible refine ctl_modCore ?_ (fun _ => rfl) | with_reducible refine ctl_setCore ?_ (ctl_core (by with_reducible assumption) _)
    | with_reducible refine ctl_setCore ?_ ?_ | with_reducible refine ctl_of_snd ‹_› ?_ | split | dsimp only [ctl_mk] | dsimp +zetaDelta only [ctl_mk]

theorem State.busyDone_ctl {o : State} {x0 : State} {x1 : Nat} {x2 : BusyWait} (h : Ctl o x0) :
    Ctl o (State.busyDone x0 x1 x2) := by
  unfold State.busyDone
  repeat' first
    | with_reducible assumption | extract_lets | intro _ | with_reducible apply ctl_ite | with_reducible apply ctlF_self
    | with_reducible refine ctl_modCore ?_ (fun _ => rfl) | with_reducible refine ctl_setCore ?_ (ctl_core (by with_reducible assumption) _) | split
    | dsimp only [ctl_mk]

theorem State.begin_ctl {o : State} {x0 : State} {x1 : Hdr} {x2 : Ctx} {x3 : Cls} {x4 : BusyWait} {x5 : optParam (List (Nat × Nat)) []} (h : Ctl o x0) :
    Ctl o (State.begin x0 x1 x2 x3 x4 x5) := by
  unfold State.begin
  repeat' first
    | with_reducible assumption | extract_lets | intro _ | with_reducible apply ctl_ite | with_reducible apply ctlF_self
    | with_reducible refine ctl_modCore ?_ (fun _ => rfl) | with_reducible refine ctl_setCore ?_ (ctl_core (by with_reducible assumption) _) | split
    | dsimp only [ctl_mk]

theorem State.noEffect_ctl {o : State} {x0 : State} {x1 : CoreUnit} {x2 : Hdr} {x3 : Ctx} {x4 : Cls} (h : Ctl o x0) :
    Ctl o (State.noEffect x0 x1 x2 x3 x4) := by
  unfold State.noEffect
  repeat' first
    | with_reducible assumption | with_reducible apply State.begin_ctl | with_reducible apply State.violate_ctl | dsimp only

theorem State.writeLines_ctl {o : State} {x0 : State} {x1 : Ctx} {x2 : CoreUnit} {x3 : Nat} {x4 : MarkedLines} (h : Ctl o x0) :
    Ctl o (State.writeLines x0 x1 x2 x3 x4) := by
  unfold State.writeLines
  repeat' first
    | with_reducible assumption | extract_lets | intro _ | with_reducible exact ctl_of_snd ‹_› ‹_› | with_reducible apply State.opWrite_ctl
    | with_reducible apply ctl_each | with_reducible apply ctl_ite | with_reducible apply ctl_ite_snd2 | with_reducible apply ctl_ite_snd
    | with_reducible apply ctlF_self | with_reducible apply ctl_foldl_snd | with_reducible apply ctl_foldl
    | with_reducible refine ctl_modCore ?_ (fun _ => rfl) | with_reducible refine ctl_setCore ?_ (ctl_core (by with_reducible assumption) _)
    | with_reducible refine ctl_setCore ?_ ?_ | with_reducible refine ctl_of_snd ‹_› ?_ | split | dsimp only [ctl_mk] | dsimp +zetaDelta only [ctl_mk]

theorem State.mxFault_ctl {o : State} {x0 : State} {x1 : Ctx} {x2 : Nat} {x3 : Nat} (h : Ctl o x0) :
    Ctl o (State.mxFault x0 x1 x2 x3) := by
  unfold State.mxFault
  repeat' first
    | with_reducible assumption | with_reducible apply State.coreFault_ctl | dsimp only

theorem TileOut.faults_ctl {o : State} {x0 : TileOut} {x1 : Ctx} {x2 : Nat} {x3 : Bool} {x4 : Bool} {x5 : State} (h : Ctl o x5) :
    Ctl o (TileOut.faults x0 x1 x2 x3 x4 x5) := by
  unfold TileOut.faults
  repeat' first
    | with_reducible assumption | extract_lets | intro _ | with_reducible exact ctl_of_snd ‹_› ‹_› | with_reducible apply State.residueHits_ctl
    | with_reducible apply State.addReg_ctl | with_reducible apply State.mxFault_ctl | with_reducible apply ctl_each | with_reducible apply ctl_ite
    | with_reducible apply ctl_ite_snd2 | with_reducible apply ctl_ite_snd | with_reducible apply ctlF_self | with_reducible apply ctl_foldl_snd
    | with_reducible apply ctl_foldl | with_reducible refine ctl_modCore ?_ (fun _ => rfl)
    | with_reducible refine ctl_setCore ?_ (ctl_core (by with_reducible assumption) _) | with_reducible refine ctl_setCore ?_ ?_
    | with_reducible refine ctl_of_snd ‹_› ?_ | split | dsimp only [ctl_mk] | dsimp +zetaDelta only [ctl_mk]

theorem MxTile.write_ctl {o : State} {x0 : MxTile} {x1 : Ctx} {x2 : Nat} {x3 : Bool} {x4 : TileOut} {x5 : State} (h : Ctl o x5) :
    Ctl o (MxTile.write x0 x1 x2 x3 x4 x5) := by
  unfold MxTile.write
  repeat' first
    | with_reducible assumption | extract_lets | intro _ | with_reducible exact ctl_of_snd ‹_› ‹_› | with_reducible apply State.opWrite_ctl
    | with_reducible apply State.markLine_ctl | with_reducible apply ctl_each | with_reducible apply ctl_ite | with_reducible apply ctl_ite_snd2
    | with_reducible apply ctl_ite_snd | with_reducible apply ctlF_self | with_reducible apply ctl_foldl_snd | with_reducible apply ctl_foldl
    | with_reducible refine ctl_modCore ?_ (fun _ => rfl) | with_reducible refine ctl_setCore ?_ (ctl_core (by with_reducible assumption) _)
    | with_reducible refine ctl_setCore ?_ ?_ | with_reducible refine ctl_of_snd ‹_› ?_ | split | dsimp only [ctl_mk] | dsimp +zetaDelta only [ctl_mk]

theorem State.startMxt_ctl {o : State} {x0 : State} {x1 : Hdr} {x2 : MxtOps} {x3 : Ctx} (h : Ctl o x0) :
    Ctl o (State.startMxt x0 x1 x2 x3) := by
  unfold State.startMxt
  repeat' first
    | with_reducible assumption | extract_lets | intro _ | with_reducible exact ctl_of_snd ‹_› ‹_› | with_reducible apply State.noEffect_ctl
    | with_reducible apply State.begin_ctl | with_reducible apply State.operands_ctl | with_reducible apply State.violate_ctl
    | with_reducible apply State.chargeCore_ctl | with_reducible apply TileOut.faults_ctl | with_reducible apply MxTile.write_ctl
    | with_reducible apply State.addReg_ctl | with_reducible apply ctl_each | with_reducible apply ctl_ite | with_reducible apply ctl_ite_snd2
    | with_reducible apply ctl_ite_snd | with_reducible apply ctlF_self | with_reducible apply ctl_foldl_snd | with_reducible apply ctl_foldl
    | with_reducible refine ctl_modCore ?_ (fun _ => rfl) | with_reducible refine ctl_setCore ?_ (ctl_core (by with_reducible assumption) _)
    | with_reducible refine ctl_setCore ?_ ?_ | with_reducible refine ctl_of_snd ‹_› ?_ | split | dsimp only [ctl_mk] | dsimp +zetaDelta only [ctl_mk]

theorem State.startMxl_ctl {o : State} {x0 : State} {x1 : Hdr} {x2 : Nat} {x3 : Nat} {x4 : Nat} {x5 : Nat} {x6 : Ctx} (h : Ctl o x0) :
    Ctl o (State.startMxl x0 x1 x2 x3 x4 x5 x6) := by
  unfold State.startMxl
  repeat' first
    | with_reducible assumption | extract_lets | intro _ | with_reducible apply State.operands_ctl | with_reducible apply State.begin_ctl
    | with_reducible apply ctl_ite | with_reducible apply ctlF_self | with_reducible refine ctl_modCore ?_ (fun _ => rfl)
    | with_reducible refine ctl_setCore ?_ (ctl_core (by with_reducible assumption) _) | split | dsimp only [ctl_mk]

end Sys2Proof.Machine
end

