-- ==== Sys2Proof/Laws/Ctl2.lean ====
section
/-! SUPPORT. Laws/Ctl2.lean: one lemma per operation of the machine: it leaves the control part of every core (part 2, in the order in which operations use
each other). -/

namespace Sys2Proof.Machine

open Sys2Proof

theorem State.startMxp_ctl {o : State} {x0 : State} {x1 : Hdr} {x2 : Nat} {x3 : Nat} {x4 : Ctx} (h : Ctl o x0) :
    Ctl o (State.startMxp x0 x1 x2 x3 x4) := by
  unfold State.startMxp
  repeat' first
    | with_reducible assumption | extract_lets | intro _ | with_reducible apply State.noEffect_ctl | with_reducible apply State.begin_ctl
    | with_reducible apply ctl_ite | with_reducible apply ctlF_self | with_reducible refine ctl_modCore ?_ (fun _ => rfl)
    | with_reducible refine ctl_setCore ?_ (ctl_core (by with_reducible assumption) _) | split | dsimp only [ctl_mk]

theorem State.unbindEpoch_ctl {o : State} {x0 : State} {x1 : Nat} {x2 : Nat} (h : Ctl o x0) :
    Ctl o (State.unbindEpoch x0 x1 x2) := by
  unfold State.unbindEpoch
  repeat' first
    | with_reducible assumption | extract_lets | intro _ | with_reducible apply State.setFld_ctl | with_reducible apply State.setBit_ctl
    | with_reducible apply ctl_ite | with_reducible apply ctlF_self | with_reducible refine ctl_modCore ?_ (fun _ => rfl)
    | with_reducible refine ctl_setCore ?_ (ctl_core (by with_reducible assumption) _) | split | dsimp only [ctl_mk]

theorem State.modAsk_ctl {o : State} {x0 : State} {x1 : Nat} {x2 : Nat} {x3 : Ask → Ask} (h : Ctl o x0) :
    Ctl o (State.modAsk x0 x1 x2 x3) := by
  unfold State.modAsk
  repeat' first
    | with_reducible assumption | extract_lets | intro _ | with_reducible apply ctl_ite | with_reducible apply ctlF_self
    | with_reducible refine ctl_modCore ?_ (fun _ => rfl) | with_reducible refine ctl_setCore ?_ (ctl_core (by with_reducible assumption) _) | split
    | dsimp only [ctl_mk]

theorem State.unbindAsk_ctl {o : State} {x0 : State} {x1 : Ask} (h : Ctl o x0) :
    Ctl o (State.unbindAsk x0 x1) := by
  unfold State.unbindAsk
  repeat' first
    | with_reducible assumption | extract_lets | intro _ | with_reducible apply State.unbindEpoch_ctl | with_reducible apply State.modAsk_ctl
    | with_reducible apply ctl_ite | with_reducible apply ctlF_self | with_reducible refine ctl_modCore ?_ (fun _ => rfl)
    | with_reducible refine ctl_setCore ?_ (ctl_core (by with_reducible assumption) _) | split | dsimp only [ctl_mk]

theorem State.countWalk_ctl {o : State} {x0 : State} {x1 : Nat} {x2 : Nat} {x3 : Nat} {x4 : Walk} (h : Ctl o x0) :
    Ctl o (State.countWalk x0 x1 x2 x3 x4) := by
  unfold State.countWalk
  repeat' first
    | with_reducible assumption | extract_lets | intro _ | with_reducible apply State.addReg_ctl | with_reducible apply State.coreFault_ctl
    | with_reducible apply ctl_ite | with_reducible apply ctlF_self | with_reducible refine ctl_modCore ?_ (fun _ => rfl)
    | with_reducible refine ctl_setCore ?_ (ctl_core (by with_reducible assumption) _) | split | dsimp only [ctl_mk]

theorem State.tellAsk_ctl {o : State} {x0 : State} {x1 : Ask} {x2 : Nat} {x3 : Nat} {x4 : List Byte} (h : Ctl o x0) :
    Ctl o (State.tellAsk x0 x1 x2 x3 x4) := by
  unfold State.tellAsk
  repeat' first
    | with_reducible assumption | extract_lets | intro _ | with_reducible apply State.complete_ctl | with_reducible apply State.modAsk_ctl
    | with_reducible apply ctl_ite | with_reducible apply ctlF_self | with_reducible refine ctl_modCore ?_ (fun _ => rfl)
    | with_reducible refine ctl_setCore ?_ (ctl_core (by with_reducible assumption) _) | split | dsimp only [ctl_mk]

theorem State.bindEpoch_ctl {o : State} {x0 : State} {x1 : Nat} {x2 : Nat} (h : Ctl o x0) :
    Ctl o (State.bindEpoch x0 x1 x2) := by
  unfold State.bindEpoch
  repeat' first
    | with_reducible assumption | with_reducible apply State.setFld_ctl | dsimp only

theorem State.endAsk_ctl {o : State} {x0 : State} {x1 : Ask} (h : Ctl o x0) :
    Ctl o (State.endAsk x0 x1) := by
  unfold State.endAsk
  repeat' first
    | with_reducible assumption | extract_lets | intro _ | with_reducible apply State.unbindAsk_ctl | with_reducible apply ctl_ite
    | with_reducible apply ctlF_self | with_reducible refine ctl_modCore ?_ (fun _ => rfl)
    | with_reducible refine ctl_setCore ?_ (ctl_core (by with_reducible assumption) _) | split | dsimp only [ctl_mk]

theorem State.billAsk_ctl {o : State} {x0 : State} {x1 : Option NHdr} {x2 : Nat} (h : Ctl o x0) :
    Ctl o (State.billAsk x0 x1 x2) := by
  unfold State.billAsk
  repeat' first
    | with_reducible assumption | extract_lets | intro _ | with_reducible apply ctl_ite | with_reducible apply ctlF_self
    | with_reducible refine ctl_modCore ?_ (fun _ => rfl) | with_reducible refine ctl_setCore ?_ (ctl_core (by with_reducible assumption) _) | split
    | dsimp only [ctl_mk]

theorem State.setLink_ctl {o : State} {x0 : State} {x1 : Nat} {x2 : Nat} {x3 : Link} (h : Ctl o x0) :
    Ctl o (State.setLink x0 x1 x2 x3) := by
  unfold State.setLink
  repeat' first
    | with_reducible assumption | extract_lets | intro _ | with_reducible apply ctl_ite | with_reducible apply ctlF_self
    | with_reducible refine ctl_modCore ?_ (fun _ => rfl) | with_reducible refine ctl_setCore ?_ (ctl_core (by with_reducible assumption) _) | split
    | dsimp only [ctl_mk]

theorem State.unbuffer_ctl {o : State} {x0 : State} {x1 : OutFlit} (h : Ctl o x0) :
    Ctl o (State.unbuffer x0 x1).2 := by
  unfold State.unbuffer
  repeat' first
    | with_reducible assumption | extract_lets | intro _ | with_reducible apply State.hubRead_ctl | with_reducible apply ctl_ite
    | with_reducible apply ctlF_self | with_reducible refine ctl_modCore ?_ (fun _ => rfl)
    | with_reducible refine ctl_setCore ?_ (ctl_core (by with_reducible assumption) _) | split | dsimp only [ctl_mk]

theorem State.sendIdle_ctl {o : State} {x0 : State} {x1 : Nat} {x2 : Nat} {x3 : Bool} (h : Ctl o x0) :
    Ctl o (State.sendIdle x0 x1 x2 x3) := by
  unfold State.sendIdle
  repeat' first
    | with_reducible assumption | extract_lets | intro _ | with_reducible apply State.setLink_ctl | with_reducible apply ctl_ite
    | with_reducible apply ctlF_self | with_reducible refine ctl_modCore ?_ (fun _ => rfl)
    | with_reducible refine ctl_setCore ?_ (ctl_core (by with_reducible assumption) _) | split | dsimp only [ctl_mk]

theorem State.payBack_ctl {o : State} {x0 : State} {x1 : Nat} {x2 : Nat} (h : Ctl o x0) :
    Ctl o (State.payBack x0 x1 x2) := by
  unfold State.payBack
  repeat' first
    | with_reducible assumption | extract_lets | intro _ | with_reducible apply State.sendIdle_ctl | with_reducible apply ctl_ite
    | with_reducible apply ctlF_self | with_reducible refine ctl_modCore ?_ (fun _ => rfl)
    | with_reducible refine ctl_setCore ?_ (ctl_core (by with_reducible assumption) _) | split | dsimp only [ctl_mk]

theorem State.freeBuf_ctl {o : State} {x0 : OutFlit} {x1 : State} (h : Ctl o x1) :
    Ctl o (State.freeBuf x0 x1) := by
  unfold State.freeBuf
  repeat' first
    | with_reducible assumption | extract_lets | intro _ | with_reducible apply State.setLink_ctl | with_reducible apply State.payBack_ctl
    | with_reducible apply ctl_ite | with_reducible apply ctlF_self | with_reducible refine ctl_modCore ?_ (fun _ => rfl)
    | with_reducible refine ctl_setCore ?_ (ctl_core (by with_reducible assumption) _) | split | dsimp only [ctl_mk]

theorem State.chargeFlit_ctl {o : State} {x0 : OutFlit} {x1 : State} (h : Ctl o x1) :
    Ctl o (State.chargeFlit x0 x1) := by
  unfold State.chargeFlit
  repeat' first
    | with_reducible assumption | extract_lets | intro _ | with_reducible apply State.charge_ctl | with_reducible apply State.billAsk_ctl
    | with_reducible apply State.chargeHouse_ctl | with_reducible apply ctl_ite | with_reducible apply ctlF_self
    | with_reducible refine ctl_modCore ?_ (fun _ => rfl) | with_reducible refine ctl_setCore ?_ (ctl_core (by with_reducible assumption) _) | split
    | dsimp only [ctl_mk]

theorem State.putOnLink_ctl {o : State} {x0 : State} {x1 : Nat} {x2 : Nat} {x3 : OutFlit} (h : Ctl o x0) :
    Ctl o (State.putOnLink x0 x1 x2 x3) := by
  unfold State.putOnLink
  repeat' first
    | with_reducible assumption | extract_lets | intro _ | with_reducible exact ctl_of_snd ‹_› ‹_› | with_reducible apply State.setLink_ctl
    | with_reducible apply State.tick_ctl | with_reducible apply State.setFld_ctl | with_reducible apply State.addReg_ctl
    | with_reducible apply State.freeBuf_ctl | with_reducible apply State.chargeFlit_ctl | with_reducible apply ctl_each
    | with_reducible apply ctl_ite | with_reducible apply ctl_ite_snd2 | with_reducible apply ctl_ite_snd | with_reducible apply ctlF_self
    | with_reducible apply ctl_foldl_snd | with_reducible apply ctl_foldl | with_reducible refine ctl_modCore ?_ (fun _ => rfl)
    | with_reducible refine ctl_setCore ?_ (ctl_core (by with_reducible assumption) _) | with_reducible refine ctl_setCore ?_ ?_
    | with_reducible refine ctl_of_snd ‹_› ?_ | split | dsimp only [ctl_mk] | dsimp +zetaDelta only [ctl_mk]

theorem State.pump_ctl {o : State} {x0 : Nat} {x1 : Nat} {x2 : State} (h : Ctl o x2) :
    Ctl o (State.pump x0 x1 x2) := by
  induction x0 generalizing x1 x2 with
  | zero => simpa only [State.pump] using h
  | succ m ih =>
    rw [State.pump]
    repeat' first
      | with_reducible assumption | with_reducible apply ih | extract_lets | intro _ | with_reducible exact ctl_of_snd ‹_› ‹_›
      | with_reducible apply State.unbuffer_ctl | with_reducible apply State.putOnLink_ctl | with_reducible apply ctl_each
      | with_reducible apply ctl_ite | with_reducible apply ctl_ite_snd2 | with_reducible apply ctl_ite_snd | with_reducible apply ctlF_self
      | with_reducible apply ctl_foldl_snd | with_reducible apply ctl_foldl | with_reducible refine ctl_modCore ?_ (fun _ => rfl)
      | with_reducible refine ctl_setCore ?_ (ctl_core (by with_reducible assumption) _) | with_reducible refine ctl_setCore ?_ ?_
      | with_reducible refine ctl_of_snd ‹_› ?_ | split | dsimp only [ctl_mk] | dsimp +zetaDelta only [ctl_mk]

theorem State.pumpPort_ctl {o : State} {x0 : State} {x1 : Nat} (h : Ctl o x0) :
    Ctl o (State.pumpPort x0 x1) := by
  unfold State.pumpPort
  repeat' first
    | with_reducible assumption | with_reducible apply State.pump_ctl | dsimp only

theorem State.bufferFlit_ctl {o : State} {x0 : State} {x1 : Nat} {x2 : OutFlit} (h : Ctl o x0) :
    Ctl o (State.bufferFlit x0 x1 x2) := by
  unfold State.bufferFlit
  repeat' first
    | with_reducible assumption | extract_lets | intro _ | with_reducible exact ctl_of_snd ‹_› ‹_› | with_reducible apply State.hubWrite_ctl
    | with_reducible apply State.fresh_ctl | with_reducible apply ctl_each | with_reducible apply ctl_ite | with_reducible apply ctl_ite_snd2
    | with_reducible apply ctl_ite_snd | with_reducible apply ctlF_self | with_reducible apply ctl_foldl_snd | with_reducible apply ctl_foldl
    | with_reducible refine ctl_modCore ?_ (fun _ => rfl) | with_reducible refine ctl_setCore ?_ (ctl_core (by with_reducible assumption) _)
    | with_reducible refine ctl_setCore ?_ ?_ | with_reducible refine ctl_of_snd ‹_› ?_ | split | dsimp only [ctl_mk] | dsimp +zetaDelta only [ctl_mk]

theorem State.sendFlit_ctl {o : State} {x0 : State} {x1 : Flit} {x2 : optParam (Option Nat) Option.none} {x3 : optParam (Option NHdr) Option.none} {x4 : optParam (Option (Nat × Nat)) Option.none} (h : Ctl o x0) :
    Ctl o (State.sendFlit x0 x1 x2 x3 x4) := by
  unfold State.sendFlit
  repeat' first
    | with_reducible assumption | extract_lets | intro _ | with_reducible apply State.freeBuf_ctl | with_reducible apply State.pumpPort_ctl
    | with_reducible apply State.bufferFlit_ctl | with_reducible apply ctl_ite | with_reducible apply ctlF_self
    | with_reducible refine ctl_modCore ?_ (fun _ => rfl) | with_reducible refine ctl_setCore ?_ (ctl_core (by with_reducible assumption) _) | split
    | dsimp only [ctl_mk]

theorem State.gxFault_ctl {o : State} {x0 : State} {x1 : Nat} {x2 : Nat} {x3 : Nat} {x4 : Option Nat} (h : Ctl o x0) :
    Ctl o (State.gxFault x0 x1 x2 x3 x4) := by
  unfold State.gxFault
  repeat' first
    | with_reducible assumption | with_reducible apply State.coreFault_ctl | dsimp only

theorem State.treeSend_ctl {o : State} {x0 : State} {x1 : List Nat} {x2 : Nat} {x3 : Option NHdr} {x4 : Flit} {x5 : MarkedLines} (h : Ctl o x0) :
    Ctl o (State.treeSend x0 x1 x2 x3 x4 x5) := by
  unfold State.treeSend
  repeat' first
    | with_reducible assumption | extract_lets | intro _ | with_reducible exact ctl_of_snd ‹_› ‹_› | with_reducible apply State.sendFlit_ctl
    | with_reducible apply ctl_each | with_reducible apply ctl_ite | with_reducible apply ctl_ite_snd2 | with_reducible apply ctl_ite_snd
    | with_reducible apply ctlF_self | with_reducible apply ctl_foldl_snd | with_reducible apply ctl_foldl
    | with_reducible refine ctl_modCore ?_ (fun _ => rfl) | with_reducible refine ctl_setCore ?_ (ctl_core (by with_reducible assumption) _)
    | with_reducible refine ctl_setCore ?_ ?_ | with_reducible refine ctl_of_snd ‹_› ?_ | split | dsimp only [ctl_mk] | dsimp +zetaDelta only [ctl_mk]

theorem State.endColl_ctl {o : State} {x0 : State} {x1 : Coll} (h : Ctl o x0) :
    Ctl o (State.endColl x0 x1) := by
  unfold State.endColl
  repeat' first
    | with_reducible assumption | extract_lets | intro _ | with_reducible exact ctl_of_snd ‹_› ‹_› | with_reducible apply State.endAsk_ctl
    | with_reducible apply State.busyDone_ctl | with_reducible apply ctl_each | with_reducible apply ctl_ite | with_reducible apply ctl_ite_snd2
    | with_reducible apply ctl_ite_snd | with_reducible apply ctlF_self | with_reducible apply ctl_foldl_snd | with_reducible apply ctl_foldl
    | with_reducible refine ctl_modCore ?_ (fun _ => rfl) | with_reducible refine ctl_setCore ?_ (ctl_core (by with_reducible assumption) _)
    | with_reducible refine ctl_setCore ?_ ?_ | with_reducible refine ctl_of_snd ‹_› ?_ | split | dsimp only [ctl_mk] | dsimp +zetaDelta only [ctl_mk]

theorem State.missSet_ctl {o : State} {x0 : State} {x1 : Nat} (h : Ctl o x0) :
    Ctl o (State.missSet x0 x1) := by
  unfold State.missSet
  repeat' first
    | with_reducible assumption | extract_lets | intro _ | with_reducible apply State.modJob_ctl | with_reducible apply ctl_ite
    | with_reducible apply ctlF_self | with_reducible refine ctl_modCore ?_ (fun _ => rfl)
    | with_reducible refine ctl_setCore ?_ (ctl_core (by with_reducible assumption) _) | split | dsimp only [ctl_mk]

theorem State.failColl_ctl {o : State} {x0 : State} {x1 : Coll} {x2 : Nat} {x3 : Nat} (h : Ctl o x0) :
    Ctl o (State.failColl x0 x1 x2 x3) := by
  unfold State.failColl
  repeat' first
    | with_reducible assumption | extract_lets | intro _ | with_reducible exact ctl_of_snd ‹_› ‹_› | with_reducible apply State.tellAsk_ctl
    | with_reducible apply State.opWrite_ctl | with_reducible apply State.missSet_ctl | with_reducible apply State.gxFault_ctl
    | with_reducible apply State.raise_ctl | with_reducible apply State.endColl_ctl | with_reducible apply ctl_each | with_reducible apply ctl_ite
    | with_reducible apply ctl_ite_snd2 | with_reducible apply ctl_ite_snd | with_reducible apply ctlF_self | with_reducible apply ctl_foldl_snd
    | with_reducible apply ctl_foldl | with_reducible refine ctl_modCore ?_ (fun _ => rfl)
    | with_reducible refine ctl_setCore ?_ (ctl_core (by with_reducible assumption) _) | with_reducible refine ctl_setCore ?_ ?_
    | with_reducible refine ctl_of_snd ‹_› ?_ | split | dsimp only [ctl_mk] | dsimp +zetaDelta only [ctl_mk]

theorem State.modColl_ctl {o : State} {x0 : State} {x1 : Nat} {x2 : Nat} {x3 : Coll → Coll} (h : Ctl o x0) :
    Ctl o (State.modColl x0 x1 x2 x3) := by
  unfold State.modColl
  repeat' first
    | with_reducible assumption | extract_lets | intro _ | with_reducible apply ctl_ite | with_reducible apply ctlF_self
    | with_reducible refine ctl_modCore ?_ (fun _ => rfl) | with_reducible refine ctl_setCore ?_ (ctl_core (by with_reducible assumption) _) | split
    | dsimp only [ctl_mk]

theorem State.gotLine_ctl {o : State} {x0 : State} {x1 : Coll} {x2 : Nat} (h : Ctl o x0) :
    Ctl o (State.gotLine x0 x1 x2) := by
  unfold State.gotLine
  repeat' first
    | with_reducible assumption | extract_lets | intro _ | with_reducible apply State.modColl_ctl | with_reducible apply State.endColl_ctl
    | with_reducible apply ctl_ite | with_reducible apply ctlF_self | with_reducible refine ctl_modCore ?_ (fun _ => rfl)
    | with_reducible refine ctl_setCore ?_ (ctl_core (by with_reducible assumption) _) | split | dsimp only [ctl_mk]

theorem State.result_ctl {o : State} {x0 : State} {x1 : Coll} {x2 : Nat} {x3 : MarkedLines} (h : Ctl o x0) :
    Ctl o (State.result x0 x1 x2 x3) := by
  unfold State.result
  repeat' first
    | with_reducible assumption | extract_lets | intro _ | with_reducible exact ctl_of_snd ‹_› ‹_› | with_reducible apply State.writeLines_ctl
    | with_reducible apply State.gxFault_ctl | with_reducible apply State.gotLine_ctl | with_reducible apply ctl_each | with_reducible apply ctl_ite
    | with_reducible apply ctl_ite_snd2 | with_reducible apply ctl_ite_snd | with_reducible apply ctlF_self | with_reducible apply ctl_foldl_snd
    | with_reducible apply ctl_foldl | with_reducible refine ctl_modCore ?_ (fun _ => rfl)
    | with_reducible refine ctl_setCore ?_ (ctl_core (by with_reducible assumption) _) | with_reducible refine ctl_setCore ?_ ?_
    | with_reducible refine ctl_of_snd ‹_› ?_ | split | dsimp only [ctl_mk] | dsimp +zetaDelta only [ctl_mk]

theorem State.cleared_ctl {o : State} {x0 : State} {x1 : Coll} {x2 : List Cand} {x3 : Bool} (h : Ctl o x0) :
    Ctl o (State.cleared x0 x1 x2 x3) := by
  unfold State.cleared
  repeat' first
    | with_reducible assumption | extract_lets | intro _ | with_reducible exact ctl_of_snd ‹_› ‹_› | with_reducible apply State.gxFault_ctl
    | with_reducible apply State.tellAsk_ctl | with_reducible apply State.opWrite_ctl | with_reducible apply State.endColl_ctl
    | with_reducible apply ctl_each | with_reducible apply ctl_ite | with_reducible apply ctl_ite_snd2 | with_reducible apply ctl_ite_snd
    | with_reducible apply ctlF_self | with_reducible apply ctl_foldl_snd | with_reducible apply ctl_foldl
    | with_reducible refine ctl_modCore ?_ (fun _ => rfl) | with_reducible refine ctl_setCore ?_ (ctl_core (by with_reducible assumption) _)
    | with_reducible refine ctl_setCore ?_ ?_ | with_reducible refine ctl_of_snd ‹_› ?_ | split | dsimp only [ctl_mk] | dsimp +zetaDelta only [ctl_mk]

theorem State.treeLine_ctl {o : State} {x0 : State} {x1 : Coll} {x2 : Nat} {x3 : Nat} {x4 : List Byte × Bool} (h : Ctl o x0) :
    Ctl o (State.treeLine x0 x1 x2 x3 x4) := by
  unfold State.treeLine
  repeat' first
    | with_reducible assumption | extract_lets | intro _ | with_reducible apply State.result_ctl | with_reducible apply State.modColl_ctl
    | with_reducible apply State.cleared_ctl | with_reducible apply ctl_ite | with_reducible apply ctlF_self
    | with_reducible refine ctl_modCore ?_ (fun _ => rfl) | with_reducible refine ctl_setCore ?_ (ctl_core (by with_reducible assumption) _) | split
    | dsimp only [ctl_mk]

theorem State.collFlit_ctl {o : State} {x0 : State} {x1 : Coll} {x2 : Flit} (h : Ctl o x0) :
    Ctl o (State.collFlit x0 x1 x2) := by
  unfold State.collFlit
  repeat' first
    | with_reducible assumption | extract_lets | intro _ | with_reducible exact ctl_of_snd ‹_› ‹_› | with_reducible apply State.failColl_ctl
    | with_reducible apply State.treeLine_ctl | with_reducible apply State.result_ctl | with_reducible apply ctl_each | with_reducible apply ctl_ite
    | with_reducible apply ctl_ite_snd2 | with_reducible apply ctl_ite_snd | with_reducible apply ctlF_self | with_reducible apply ctl_foldl_snd
    | with_reducible apply ctl_foldl | with_reducible refine ctl_modCore ?_ (fun _ => rfl)
    | with_reducible refine ctl_setCore ?_ (ctl_core (by with_reducible assumption) _) | with_reducible refine ctl_setCore ?_ ?_
    | with_reducible refine ctl_of_snd ‹_› ?_ | split | dsimp only [ctl_mk] | dsimp +zetaDelta only [ctl_mk]

theorem State.remoteViolation_ctl {o : State} {x0 : State} {x1 : Nat} {x2 : Nat} (h : Ctl o x0) :
    Ctl o (State.remoteViolation x0 x1 x2) := by
  unfold State.remoteViolation
  repeat' first
    | with_reducible assumption | extract_lets | intro _ | with_reducible exact ctl_of_snd ‹_› ‹_› | with_reducible apply State.addReg_ctl
    | with_reducible apply State.raise_ctl | with_reducible apply State.harnViolate_ctl | with_reducible apply State.sramWinViolation_ctl
    | with_reducible apply State.overlayViolate_ctl | with_reducible apply State.memViolation_ctl | with_reducible apply State.countViolation_ctl
    | with_reducible apply ctl_each | with_reducible apply ctl_ite | with_reducible apply ctl_ite_snd2 | with_reducible apply ctl_ite_snd
    | with_reducible apply ctlF_self | with_reducible apply ctl_foldl_snd | with_reducible apply ctl_foldl
    | with_reducible refine ctl_modCore ?_ (fun _ => rfl) | with_reducible refine ctl_setCore ?_ (ctl_core (by with_reducible assumption) _)
    | with_reducible refine ctl_setCore ?_ ?_ | with_reducible refine ctl_of_snd ‹_› ?_ | split | dsimp only [ctl_mk] | dsimp +zetaDelta only [ctl_mk]

theorem State.remoteRead_ctl {o : State} {x0 : State} {x1 : Nat} {x2 : Option NHdr} {x3 : Nat} (h : Ctl o x0) :
    Ctl o (State.remoteRead x0 x1 x2 x3).2 := by
  unfold State.remoteRead
  repeat' first
    | with_reducible assumption | extract_lets | intro _ | with_reducible apply State.sramCheck_ctl | with_reducible apply State.charge_ctl
    | with_reducible apply State.remoteViolation_ctl | with_reducible apply ctl_ite | with_reducible apply ctlF_self
    | with_reducible refine ctl_modCore ?_ (fun _ => rfl) | with_reducible refine ctl_setCore ?_ (ctl_core (by with_reducible assumption) _) | split
    | dsimp only [ctl_mk]

theorem State.remoteLines_ctl {o : State} {x0 : Nat} {x1 : Option NHdr} {x2 x3 : Nat} {x4 : State} (h : Ctl o x4) :
    Ctl o (State.remoteLines x0 x1 x2 x3 x4).2 := by
  induction x2 generalizing x3 x4 with
  | zero => exact h
  | succ m ih => exact ih (State.remoteRead_ctl h)

theorem State.dropTxn_ctl {o : State} {x0 : State} {x1 : Nat} (h : Ctl o x0) :
    Ctl o (State.dropTxn x0 x1) := by
  unfold State.dropTxn
  repeat' first
    | with_reducible assumption | extract_lets | intro _ | with_reducible apply ctl_ite | with_reducible apply ctlF_self
    | with_reducible refine ctl_modCore ?_ (fun _ => rfl) | with_reducible refine ctl_setCore ?_ (ctl_core (by with_reducible assumption) _) | split
    | dsimp only [ctl_mk]

theorem State.endTxn_ctl {o : State} {x0 : State} {x1 : Txn} {x2 : Bool} (h : Ctl o x0) :
    Ctl o (State.endTxn x0 x1 x2) := by
  unfold State.endTxn
  repeat' first
    | with_reducible assumption | extract_lets | intro _ | with_reducible exact ctl_of_snd ‹_› ‹_› | with_reducible apply State.dropTxn_ctl
    | with_reducible apply State.opWrite_ctl | with_reducible apply State.gxFault_ctl | with_reducible apply State.busyDone_ctl
    | with_reducible apply ctl_each | with_reducible apply ctl_ite | with_reducible apply ctl_ite_snd2 | with_reducible apply ctl_ite_snd
    | with_reducible apply ctlF_self | with_reducible apply ctl_foldl_snd | with_reducible apply ctl_foldl
    | with_reducible refine ctl_modCore ?_ (fun _ => rfl) | with_reducible refine ctl_setCore ?_ (ctl_core (by with_reducible assumption) _)
    | with_reducible refine ctl_setCore ?_ ?_ | with_reducible refine ctl_of_snd ‹_› ?_ | split | dsimp only [ctl_mk] | dsimp +zetaDelta only [ctl_mk]

theorem State.getLines_ctl {o : State} {x0 : State} {x1 : Txn} {x2 : Nat} {x3 : MarkedLines} (h : Ctl o x0) :
    Ctl o (State.getLines x0 x1 x2 x3) := by
  unfold State.getLines
  repeat' first
    | with_reducible assumption | extract_lets | intro _ | with_reducible apply State.writeLines_ctl | with_reducible apply State.gxFault_ctl
    | with_reducible apply State.endTxn_ctl | with_reducible apply ctl_ite | with_reducible apply ctlF_self
    | with_reducible refine ctl_modCore ?_ (fun _ => rfl) | with_reducible refine ctl_setCore ?_ (ctl_core (by with_reducible assumption) _) | split
    | dsimp only [ctl_mk]

theorem State.remoteWrite_ctl {o : State} {x0 : State} {x1 : Nat} {x2 : Option NHdr} {x3 : Nat} {x4 : List Byte × Bool} (h : Ctl o x0) :
    Ctl o (State.remoteWrite x0 x1 x2 x3 x4) := by
  unfold State.remoteWrite
  repeat' first
    | with_reducible assumption | extract_lets | intro _ | with_reducible apply State.charge_ctl | with_reducible apply State.sramWrite_ctl
    | with_reducible apply State.remoteViolation_ctl | with_reducible apply State.dramWrite_ctl | with_reducible apply ctl_ite
    | with_reducible apply ctlF_self | with_reducible refine ctl_modCore ?_ (fun _ => rfl)
    | with_reducible refine ctl_setCore ?_ (ctl_core (by with_reducible assumption) _) | split | dsimp only [ctl_mk]

theorem State.startGx_ctl {o : State} {x0 : State} {x1 : Bool} {x2 : Hdr} {x3 : GxOps} {x4 : Ctx} (h : Ctl o x0) :
    Ctl o (State.startGx x0 x1 x2 x3 x4) := by
  unfold State.startGx
  repeat' first
    | with_reducible assumption | extract_lets | intro _ | with_reducible exact ctl_of_snd ‹_› ‹_› | with_reducible apply State.begin_ctl
    | with_reducible apply State.operands_ctl | with_reducible apply State.gxFault_ctl | with_reducible apply State.asIssued_ctl
    | with_reducible apply State.remoteLines_ctl | with_reducible apply State.getLines_ctl | with_reducible apply State.endTxn_ctl
    | with_reducible apply State.remoteWrite_ctl | with_reducible apply State.sendFlit_ctl | with_reducible apply ctl_each
    | with_reducible apply ctl_ite | with_reducible apply ctl_ite_snd2 | with_reducible apply ctl_ite_snd | with_reducible apply ctlF_self
    | with_reducible apply ctl_foldl_snd | with_reducible apply ctl_foldl | with_reducible refine ctl_modCore ?_ (fun _ => rfl)
    | with_reducible refine ctl_setCore ?_ (ctl_core (by with_reducible assumption) _) | with_reducible refine ctl_setCore ?_ ?_
    | with_reducible refine ctl_of_snd ‹_› ?_ | split | dsimp only [ctl_mk] | dsimp +zetaDelta only [ctl_mk]

theorem State.contrib_ctl {o : State} {x0 : State} {x1 : Nat} {x2 : Nat} {x3 : Nat} {x4 : Bool} (h : Ctl o x0) :
    Ctl o (State.contrib x0 x1 x2 x3 x4) := by
  unfold State.contrib
  repeat' first
    | with_reducible assumption | extract_lets | intro _ | with_reducible apply State.tick_ctl | with_reducible apply State.subReg_ctl
    | with_reducible apply State.addReg_ctl | with_reducible apply ctl_ite | with_reducible apply ctlF_self
    | with_reducible refine ctl_modCore ?_ (fun _ => rfl) | with_reducible refine ctl_setCore ?_ (ctl_core (by with_reducible assumption) _) | split
    | dsimp only [ctl_mk]

theorem State.setRinst_ctl {o : State} {x0 : State} {x1 : RInst} (h : Ctl o x0) :
    Ctl o (State.setRinst x0 x1) := by
  unfold State.setRinst
  repeat' first
    | with_reducible assumption | extract_lets | intro _ | with_reducible apply ctl_ite | with_reducible apply ctlF_self
    | with_reducible refine ctl_modCore ?_ (fun _ => rfl) | with_reducible refine ctl_setCore ?_ (ctl_core (by with_reducible assumption) _) | split
    | dsimp only [ctl_mk]

theorem State.giveOwn_ctl {o : State} {x0 : State} {x1 : RInst} (h : Ctl o x0) :
    Ctl o (State.giveOwn x0 x1) := by
  unfold State.giveOwn
  repeat' first
    | with_reducible assumption | extract_lets | intro _ | with_reducible exact ctl_of_snd ‹_› ‹_› | with_reducible apply State.result_ctl
    | with_reducible apply ctl_each | with_reducible apply ctl_ite | with_reducible apply ctl_ite_snd2 | with_reducible apply ctl_ite_snd
    | with_reducible apply ctlF_self | with_reducible apply ctl_foldl_snd | with_reducible apply ctl_foldl
    | with_reducible refine ctl_modCore ?_ (fun _ => rfl) | with_reducible refine ctl_setCore ?_ (ctl_core (by with_reducible assumption) _)
    | with_reducible refine ctl_setCore ?_ ?_ | with_reducible refine ctl_of_snd ‹_› ?_ | split | dsimp only [ctl_mk] | dsimp +zetaDelta only [ctl_mk]

theorem State.sendSum_ctl {o : State} {x0 : State} {x1 : RInst} {x2 : Nat} (h : Ctl o x0) :
    Ctl o (State.sendSum x0 x1 x2) := by
  unfold State.sendSum
  repeat' first
    | with_reducible assumption | extract_lets | intro _ | with_reducible exact ctl_of_snd ‹_› ‹_› | with_reducible apply State.sendFlit_ctl
    | with_reducible apply ctl_each | with_reducible apply ctl_ite | with_reducible apply ctl_ite_snd2 | with_reducible apply ctl_ite_snd
    | with_reducible apply ctlF_self | with_reducible apply ctl_foldl_snd | with_reducible apply ctl_foldl
    | with_reducible refine ctl_modCore ?_ (fun _ => rfl) | with_reducible refine ctl_setCore ?_ (ctl_core (by with_reducible assumption) _)
    | with_reducible refine ctl_setCore ?_ ?_ | with_reducible refine ctl_of_snd ‹_› ?_ | split | dsimp only [ctl_mk] | dsimp +zetaDelta only [ctl_mk]

theorem State.closeInst_ctl {o : State} {x0 : State} {x1 : RInst} (h : Ctl o x0) :
    Ctl o (State.closeInst x0 x1) := by
  unfold State.closeInst
  repeat' first
    | with_reducible assumption | extract_lets | intro _ | with_reducible exact ctl_of_snd ‹_› ‹_› | with_reducible apply State.contrib_ctl
    | with_reducible apply State.setRinst_ctl | with_reducible apply State.giveOwn_ctl | with_reducible apply State.sendSum_ctl
    | with_reducible apply ctl_each | with_reducible apply ctl_ite | with_reducible apply ctl_ite_snd2 | with_reducible apply ctl_ite_snd
    | with_reducible apply ctlF_self | with_reducible apply ctl_foldl_snd | with_reducible apply ctl_foldl
    | with_reducible refine ctl_modCore ?_ (fun _ => rfl) | with_reducible refine ctl_setCore ?_ (ctl_core (by with_reducible assumption) _)
    | with_reducible refine ctl_setCore ?_ ?_ | with_reducible refine ctl_of_snd ‹_› ?_ | split | dsimp only [ctl_mk] | dsimp +zetaDelta only [ctl_mk]

theorem State.autoClose_ctl {o : State} {x0 : State} {x1 : Nat} {x2 : Nat} {x3 : Nat} (h : Ctl o x0) :
    Ctl o (State.autoClose x0 x1 x2 x3) := by
  unfold State.autoClose
  repeat' first
    | with_reducible assumption | extract_lets | intro _ | with_reducible apply State.closeInst_ctl | with_reducible apply ctl_ite
    | with_reducible apply ctlF_self | with_reducible refine ctl_modCore ?_ (fun _ => rfl)
    | with_reducible refine ctl_setCore ?_ (ctl_core (by with_reducible assumption) _) | split | dsimp only [ctl_mk]

theorem State.contribute_ctl {o : State} {x0 : State} {x1 : Nat} {x2 : Nat} {x3 : Nat} {x4 : Nat} {x5 : Nat} {x6 : Nat} {x7 : Nat} {x8 : MarkedLines} (h : Ctl o x0) :
    Ctl o (State.contribute x0 x1 x2 x3 x4 x5 x6 x7 x8) := by
  unfold State.contribute
  repeat' first
    | with_reducible assumption | extract_lets | intro _ | with_reducible exact ctl_of_snd ‹_› ‹_› | with_reducible apply State.raise_ctl
    | with_reducible apply State.contrib_ctl | with_reducible apply State.setRinst_ctl | with_reducible apply ctl_each | with_reducible apply ctl_ite
    | with_reducible apply ctl_ite_snd2 | with_reducible apply ctl_ite_snd | with_reducible apply ctlF_self | with_reducible apply ctl_foldl_snd
    | with_reducible apply ctl_foldl | with_reducible refine ctl_modCore ?_ (fun _ => rfl)
    | with_reducible refine ctl_setCore ?_ (ctl_core (by with_reducible assumption) _) | with_reducible refine ctl_setCore ?_ ?_
    | with_reducible refine ctl_of_snd ‹_› ?_ | split | dsimp only [ctl_mk] | dsimp +zetaDelta only [ctl_mk]

theorem State.showSum_ctl {o : State} {x0 : State} {x1 : Nat} {x2 : Nat} {x3 : Nat} (h : Ctl o x0) :
    Ctl o (State.showSum x0 x1 x2 x3) := by
  unfold State.showSum
  repeat' first
    | with_reducible assumption | extract_lets | intro _ | with_reducible apply State.writeLines_ctl | with_reducible apply ctl_ite
    | with_reducible apply ctlF_self | with_reducible refine ctl_modCore ?_ (fun _ => rfl)
    | with_reducible refine ctl_setCore ?_ (ctl_core (by with_reducible assumption) _) | split | dsimp only [ctl_mk]

theorem State.joinColl_ctl {o : State} {x0 : State} {x1 : Coll} {x2 : Nat} {x3 : Option NHdr} {x4 : Bool} {x5 : MarkedLines} (h : Ctl o x0) :
    Ctl o (State.joinColl x0 x1 x2 x3 x4 x5) := by
  unfold State.joinColl
  repeat' first
    | with_reducible assumption | extract_lets | intro _ | with_reducible exact ctl_of_snd ‹_› ‹_› | with_reducible apply State.failColl_ctl
    | with_reducible apply State.treeSend_ctl | with_reducible apply State.treeLine_ctl | with_reducible apply State.sendFlit_ctl
    | with_reducible apply State.autoClose_ctl | with_reducible apply State.contribute_ctl | with_reducible apply State.giveOwn_ctl
    | with_reducible apply State.showSum_ctl | with_reducible apply State.collFlit_ctl | with_reducible apply ctl_each | with_reducible apply ctl_ite
    | with_reducible apply ctl_ite_snd2 | with_reducible apply ctl_ite_snd | with_reducible apply ctlF_self | with_reducible apply ctl_foldl_snd
    | with_reducible apply ctl_foldl | with_reducible refine ctl_modCore ?_ (fun _ => rfl)
    | with_reducible refine ctl_setCore ?_ (ctl_core (by with_reducible assumption) _) | with_reducible refine ctl_setCore ?_ ?_
    | with_reducible refine ctl_of_snd ‹_› ?_ | split | dsimp only [ctl_mk] | dsimp +zetaDelta only [ctl_mk]

theorem State.startColl_ctl {o : State} {x0 : State} {x1 : Nat} {x2 : Hdr} {x3 : CollOps} {x4 : Ctx} (h : Ctl o x0) :
    Ctl o (State.startColl x0 x1 x2 x3 x4) := by
  unfold State.startColl
  repeat' first
    | with_reducible assumption | extract_lets | intro _ | with_reducible exact ctl_of_snd ‹_› ‹_› | with_reducible apply State.asIssued_ctl
    | with_reducible apply State.noEffect_ctl | with_reducible apply State.begin_ctl | with_reducible apply State.operands_ctl
    | with_reducible apply State.gxFault_ctl | with_reducible apply State.joinColl_ctl | with_reducible apply ctl_each | with_reducible apply ctl_ite
    | with_reducible apply ctl_ite_snd2 | with_reducible apply ctl_ite_snd | with_reducible apply ctlF_self | with_reducible apply ctl_foldl_snd
    | with_reducible apply ctl_foldl | with_reducible refine ctl_modCore ?_ (fun _ => rfl)
    | with_reducible refine ctl_setCore ?_ (ctl_core (by with_reducible assumption) _) | with_reducible refine ctl_setCore ?_ ?_
    | with_reducible refine ctl_of_snd ‹_› ?_ | split | dsimp only [ctl_mk] | dsimp +zetaDelta only [ctl_mk]

theorem State.hxFault_ctl {o : State} {x0 : State} {x1 : Nat} {x2 : Nat} {x3 : Nat} {x4 : Nat} (h : Ctl o x0) :
    Ctl o (State.hxFault x0 x1 x2 x3 x4) := by
  unfold State.hxFault
  repeat' first
    | with_reducible assumption | with_reducible apply State.coreFault_ctl | dsimp only

theorem State.tally_ctl {o : State} {x0 : State} {x1 : Nat} {x2 : Nat} {x3 : Nat} {x4 : Nat} (h : Ctl o x0) :
    Ctl o (State.tally x0 x1 x2 x3 x4) := by
  unfold State.tally
  repeat' first
    | with_reducible assumption | extract_lets | intro _ | with_reducible apply State.tick_ctl | with_reducible apply State.addReg_ctl
    | with_reducible apply ctl_ite | with_reducible apply ctlF_self | with_reducible refine ctl_modCore ?_ (fun _ => rfl)
    | with_reducible refine ctl_setCore ?_ (ctl_core (by with_reducible assumption) _) | split | dsimp only [ctl_mk]

theorem State.setRing_ctl {o : State} {x0 : State} {x1 : Nat} {x2 : Nat} {x3 : Ring} (h : Ctl o x0) :
    Ctl o (State.setRing x0 x1 x2 x3) := by
  unfold State.setRing
  repeat' first
    | with_reducible assumption | extract_lets | intro _ | with_reducible apply ctl_ite | with_reducible apply ctlF_self
    | with_reducible refine ctl_modCore ?_ (fun _ => rfl) | with_reducible refine ctl_setCore ?_ (ctl_core (by with_reducible assumption) _) | split
    | dsimp only [ctl_mk]

theorem State.consumeRecord_ctl {o : State} {x0 : State} {x1 : Nat} {x2 : Nat} (h : Ctl o x0) :
    Ctl o (State.consumeRecord x0 x1 x2) := by
  unfold State.consumeRecord
  repeat' first
    | with_reducible assumption | with_reducible apply State.tally_ctl | with_reducible apply State.setRing_ctl | dsimp only

theorem State.sendRecord_ctl {o : State} {x0 : State} {x1 : Ctx} {x2 : Nat} {x3 : Nat} {x4 : Bool} {x5 : Nat} (h : Ctl o x0) :
    Ctl o (State.sendRecord x0 x1 x2 x3 x4 x5) := by
  unfold State.sendRecord
  repeat' first
    | with_reducible assumption | extract_lets | intro _ | with_reducible exact ctl_of_snd ‹_› ‹_› | with_reducible apply State.violate_ctl
    | with_reducible apply State.hxFault_ctl | with_reducible apply State.chargeCore_ctl | with_reducible apply State.addReg_ctl
    | with_reducible apply State.tick_ctl | with_reducible apply State.setFld_ctl | with_reducible apply State.tally_ctl
    | with_reducible apply State.setRing_ctl | with_reducible apply State.sendFlit_ctl | with_reducible apply ctl_each | with_reducible apply ctl_ite
    | with_reducible apply ctl_ite_snd2 | with_reducible apply ctl_ite_snd | with_reducible apply ctlF_self | with_reducible apply ctl_foldl_snd
    | with_reducible apply ctl_foldl | with_reducible refine ctl_modCore ?_ (fun _ => rfl)
    | with_reducible refine ctl_setCore ?_ (ctl_core (by with_reducible assumption) _) | with_reducible refine ctl_setCore ?_ ?_
    | with_reducible refine ctl_of_snd ‹_› ?_ | split | dsimp only [ctl_mk] | dsimp +zetaDelta only [ctl_mk]

theorem State.sendMany_ctl {o : State} {x0 : Ctx} {x1 : Nat} {x2 : Nat} {x3 : Bool} {x4 : Nat} {x5 : Nat} {x6 : State} (h : Ctl o x6) :
    Ctl o (State.sendMany x0 x1 x2 x3 x4 x5 x6).2.2 := by
  induction x4 generalizing x0 x1 x2 x3 x5 x6 with
  | zero => simpa only [State.sendMany] using h
  | succ m ih =>
    rw [State.sendMany]
    repeat' first
      | with_reducible assumption | with_reducible apply ih | extract_lets | intro _ | with_reducible apply State.sendRecord_ctl
      | with_reducible apply ctl_ite | with_reducible apply ctlF_self | with_reducible refine ctl_modCore ?_ (fun _ => rfl)
      | with_reducible refine ctl_setCore ?_ (ctl_core (by with_reducible assumption) _) | split | dsimp only [ctl_mk]

theorem State.nextRecord_ctl {o : State} {x0 : State} {x1 : Nat} {x2 : Nat} (h : Ctl o x0) :
    ∀ r, (State.nextRecord x0 x1 x2) = some r → Ctl o r.2 := by
  unfold State.nextRecord
  repeat' first
    | with_reducible assumption | with_reducible exact ctl_none | with_reducible refine ctl_some ?_ | extract_lets | split | intro _
    | with_reducible exact ctl_of_snd ‹_› ‹_› | with_reducible apply State.sramCheck_ctl | with_reducible apply ctl_each
    | with_reducible apply ctl_ite | with_reducible apply ctl_ite_snd2 | with_reducible apply ctl_ite_snd | with_reducible apply ctlF_self
    | with_reducible apply ctl_foldl_snd | with_reducible apply ctl_foldl | with_reducible refine ctl_modCore ?_ (fun _ => rfl)
    | with_reducible refine ctl_setCore ?_ (ctl_core (by with_reducible assumption) _) | with_reducible refine ctl_setCore ?_ ?_
    | with_reducible refine ctl_of_snd ‹_› ?_ | split | dsimp only [ctl_mk] | dsimp +zetaDelta only [ctl_mk]

theorem State.recvMany_ctl {o : State} {x0 : Ctx} {x1 x2 x3 x4 : Nat} {x5 : State} (h : Ctl o x5) :
    Ctl o (State.recvMany x0 x1 x2 x3 x4 x5).2.2 := by
  induction x3 generalizing x4 x5 with
  | zero => exact h
  | succ m ih =>
    rw [State.recvMany]
    split
    · rename_i e
      have a := State.nextRecord_ctl h _ e
      refine ih (State.consumeRecord_ctl (State.chargeCore_ctl (State.addReg_ctl ?_)))
      exact ctl_ite (State.hxFault_ctl (State.writeLines_ctl a)) (State.writeLines_ctl a)
    · exact h

theorem State.startHx_ctl {o : State} {x0 : State} {x1 : Bool} {x2 : Hdr} {x3 : HxOps} {x4 : Ctx} (h : Ctl o x0) :
    Ctl o (State.startHx x0 x1 x2 x3 x4) := by
  unfold State.startHx
  repeat' first
    | with_reducible assumption | extract_lets | intro _ | with_reducible exact ctl_of_snd ‹_› ‹_› | with_reducible apply State.asIssued_ctl
    | with_reducible apply State.violate_ctl | with_reducible apply State.writeLines_ctl | with_reducible apply State.begin_ctl
    | with_reducible apply State.hxFault_ctl | with_reducible apply State.sramCheck_ctl | with_reducible apply State.sendMany_ctl
    | with_reducible apply State.recvMany_ctl | with_reducible apply ctl_each | with_reducible apply ctl_ite | with_reducible apply ctl_ite_snd2
    | with_reducible apply ctl_ite_snd | with_reducible apply ctlF_self | with_reducible apply ctl_foldl_snd | with_reducible apply ctl_foldl
    | with_reducible refine ctl_modCore ?_ (fun _ => rfl) | with_reducible refine ctl_setCore ?_ (ctl_core (by with_reducible assumption) _)
    | with_reducible refine ctl_setCore ?_ ?_ | with_reducible refine ctl_of_snd ‹_› ?_ | split | dsimp only [ctl_mk] | dsimp +zetaDelta only [ctl_mk]

theorem State.deadRows_ctl {o : State} {x0 : State} {x1 : Ctx} {x2 : VxOps} {x3 : Nat} {x4 : Nat} {x5 : Nat} {x6 : Nat} {x7 : Nat} (h : Ctl o x0) :
    Ctl o (State.deadRows x0 x1 x2 x3 x4 x5 x6 x7) := by
  unfold State.deadRows
  repeat' first
    | with_reducible assumption | extract_lets | intro _ | with_reducible exact ctl_of_snd ‹_› ‹_› | with_reducible apply State.opWrite_ctl
    | with_reducible apply ctl_each | with_reducible apply ctl_ite | with_reducible apply ctl_ite_snd2 | with_reducible apply ctl_ite_snd
    | with_reducible apply ctlF_self | with_reducible apply ctl_foldl_snd | with_reducible apply ctl_foldl
    | with_reducible refine ctl_modCore ?_ (fun _ => rfl) | with_reducible refine ctl_setCore ?_ (ctl_core (by with_reducible assumption) _)
    | with_reducible refine ctl_setCore ?_ ?_ | with_reducible refine ctl_of_snd ‹_› ?_ | split | dsimp only [ctl_mk] | dsimp +zetaDelta only [ctl_mk]

theorem State.vxFault_ctl {o : State} {x0 : State} {x1 : Ctx} {x2 : Nat} {x3 : Nat} (h : Ctl o x0) :
    Ctl o (State.vxFault x0 x1 x2 x3) := by
  unfold State.vxFault
  repeat' first
    | with_reducible assumption | with_reducible apply State.coreFault_ctl | dsimp only

theorem State.vxRow_ctl {o : State} {x0 : State} {x1 : Ctx} {x2 : Nat} {x3 : List Byte} {x4 : Nat → Bool} (h : Ctl o x0) :
    Ctl o (State.vxRow x0 x1 x2 x3 x4) := by
  unfold State.vxRow
  repeat' first
    | with_reducible assumption | extract_lets | intro _ | with_reducible exact ctl_of_snd ‹_› ‹_› | with_reducible apply State.opWrite_ctl
    | with_reducible apply ctl_each | with_reducible apply ctl_ite | with_reducible apply ctl_ite_snd2 | with_reducible apply ctl_ite_snd
    | with_reducible apply ctlF_self | with_reducible apply ctl_foldl_snd | with_reducible apply ctl_foldl
    | with_reducible refine ctl_modCore ?_ (fun _ => rfl) | with_reducible refine ctl_setCore ?_ (ctl_core (by with_reducible assumption) _)
    | with_reducible refine ctl_setCore ?_ ?_ | with_reducible refine ctl_of_snd ‹_› ?_ | split | dsimp only [ctl_mk] | dsimp +zetaDelta only [ctl_mk]

theorem State.vklRow_ctl {o : State} {x0 : State} {x1 : Ctx} {x2 : VxOps} {x3 : Nat} {x4 : Nat} {x5 : Nat} {x6 : Nat} {x7 : MarkedLines} (h : Ctl o x0) :
    Ctl o (State.vklRow x0 x1 x2 x3 x4 x5 x6 x7) := by
  unfold State.vklRow
  repeat' first
    | with_reducible assumption | extract_lets | intro _ | with_reducible apply State.chargeCore_ctl | with_reducible apply State.opWrite_ctl
    | with_reducible apply State.vxRow_ctl | with_reducible apply State.vxFault_ctl | with_reducible apply State.violate_ctl
    | with_reducible apply ctl_ite | with_reducible apply ctlF_self | with_reducible refine ctl_modCore ?_ (fun _ => rfl)
    | with_reducible refine ctl_setCore ?_ (ctl_core (by with_reducible assumption) _) | split | dsimp only [ctl_mk]

theorem State.clip_ctl {o : State} {x0 : State} {x1 : Nat} {x2 : Nat} (h : Ctl o x0) :
    Ctl o (State.clip x0 x1 x2) := by
  unfold State.clip
  repeat' first
    | with_reducible assumption | with_reducible apply State.setReg_ctl | dsimp only

theorem VxLay.putRow_ctl {o : State} {x0 : VxLay} {x1 : Ctx} {x2 : Nat} {x3 : VxOut} {x4 : Bool} {x5 : State} (h : Ctl o x5) :
    Ctl o (VxLay.putRow x0 x1 x2 x3 x4 x5) := by
  unfold VxLay.putRow
  repeat' first
    | with_reducible assumption | extract_lets | intro _ | with_reducible exact ctl_of_snd ‹_› ‹_› | with_reducible apply State.vxRow_ctl
    | with_reducible apply State.residueHits_ctl | with_reducible apply State.addReg_ctl | with_reducible apply State.vxFault_ctl
    | with_reducible apply State.clip_ctl | with_reducible apply State.opWrite_ctl | with_reducible apply ctl_each | with_reducible apply ctl_ite
    | with_reducible apply ctl_ite_snd2 | with_reducible apply ctl_ite_snd | with_reducible apply ctlF_self | with_reducible apply ctl_foldl_snd
    | with_reducible apply ctl_foldl | with_reducible refine ctl_modCore ?_ (fun _ => rfl)
    | with_reducible refine ctl_setCore ?_ (ctl_core (by with_reducible assumption) _) | with_reducible refine ctl_setCore ?_ ?_
    | with_reducible refine ctl_of_snd ‹_› ?_ | split | dsimp only [ctl_mk] | dsimp +zetaDelta only [ctl_mk]

theorem State.vklRing_ctl {o : State} {x0 : Ctx} {x1 : VxOps} {x2 : Nat} {x3 : Nat} {x4 : Nat} {x5 : Nat} {x6 : Nat} {x7 : Nat} {x8 : Nat} {x9 : State} (h : Ctl o x9) :
    Ctl o (State.vklRing x0 x1 x2 x3 x4 x5 x6 x7 x8 x9).2 := by
  induction x7 generalizing x0 x1 x2 x3 x4 x5 x6 x8 x9 with
  | zero => simpa only [State.vklRing] using h
  | succ m ih =>
    rw [State.vklRing]
    repeat' first
      | with_reducible assumption | with_reducible apply ih | extract_lets | intro _ | refine State.nextRecord_ctl ?_ _ (by assumption)
      | with_reducible apply State.chargeCore_ctl | with_reducible apply State.consumeRecord_ctl | with_reducible apply State.vklRow_ctl
      | with_reducible apply ctl_ite | with_reducible apply ctlF_self | with_reducible refine ctl_modCore ?_ (fun _ => rfl)
      | with_reducible refine ctl_setCore ?_ (ctl_core (by with_reducible assumption) _) | split | dsimp only [ctl_mk]

theorem State.startVx_ctl {o : State} {x0 : State} {x1 : VxFn} {x2 : Hdr} {x3 : VxOps} {x4 : Ctx} (h : Ctl o x0) :
    Ctl o (State.startVx x0 x1 x2 x3 x4) := by
  unfold State.startVx
  repeat' first
    | with_reducible assumption | extract_lets | intro _ | with_reducible exact ctl_of_snd ‹_› ‹_› | with_reducible apply State.noEffect_ctl
    | with_reducible apply State.begin_ctl | with_reducible apply State.chargeCore_ctl | with_reducible apply State.operands_ctl
    | with_reducible apply State.vxRow_ctl | with_reducible apply State.vxFault_ctl | with_reducible apply VxLay.putRow_ctl
    | with_reducible apply ctl_each | with_reducible apply ctl_ite | with_reducible apply ctl_ite_snd2 | with_reducible apply ctl_ite_snd
    | with_reducible apply ctlF_self | with_reducible apply ctl_foldl_snd | with_reducible apply ctl_foldl
    | with_reducible refine ctl_modCore ?_ (fun _ => rfl) | with_reducible refine ctl_setCore ?_ (ctl_core (by with_reducible assumption) _)
    | with_reducible refine ctl_setCore ?_ ?_ | with_reducible refine ctl_of_snd ‹_› ?_ | split | dsimp only [ctl_mk] | dsimp +zetaDelta only [ctl_mk]

theorem State.startVkl_ctl {o : State} {x0 : State} {x1 : Hdr} {x2 : VxOps} {x3 : Ctx} (h : Ctl o x0) :
    Ctl o (State.startVkl x0 x1 x2 x3) := by
  unfold State.startVkl
  repeat' first
    | with_reducible assumption | extract_lets | intro _ | with_reducible exact ctl_of_snd ‹_› ‹_› | with_reducible apply State.noEffect_ctl
    | with_reducible apply State.begin_ctl | with_reducible apply State.operands_ctl | with_reducible apply State.hxFault_ctl
    | with_reducible apply State.deadRows_ctl | with_reducible apply State.vklRing_ctl | with_reducible apply State.vklRow_ctl
    | with_reducible apply ctl_each | with_reducible apply ctl_ite | with_reducible apply ctl_ite_snd2 | with_reducible apply ctl_ite_snd
    | with_reducible apply ctlF_self | with_reducible apply ctl_foldl_snd | with_reducible apply ctl_foldl
    | with_reducible refine ctl_modCore ?_ (fun _ => rfl) | with_reducible refine ctl_setCore ?_ (ctl_core (by with_reducible assumption) _)
    | with_reducible refine ctl_setCore ?_ ?_ | with_reducible refine ctl_of_snd ‹_› ?_ | split | dsimp only [ctl_mk] | dsimp +zetaDelta only [ctl_mk]

theorem State.sxWrite_ctl {o : State} {x0 : State} {x1 : Ctx} {x2 : Nat} {x3 : List Byte} {x4 : Bool} (h : Ctl o x0) :
    Ctl o (State.sxWrite x0 x1 x2 x3 x4) := by
  unfold State.sxWrite
  repeat' first
    | with_reducible assumption | with_reducible apply State.opWrite_ctl | dsimp only

theorem State.sxFault_ctl {o : State} {x0 : State} {x1 : Ctx} {x2 : Nat} {x3 : Nat} (h : Ctl o x0) :
    Ctl o (State.sxFault x0 x1 x2 x3) := by
  unfold State.sxFault
  repeat' first
    | with_reducible assumption | with_reducible apply State.coreFault_ctl | dsimp only

theorem State.sxRank_ctl {o : State} {x0 : State} {x1 : Hdr} {x2 : Ctx} {x3 : Bool} {x4 : Bool} {x5 : Nat} {x6 : Nat} {x7 : List (Nat × Nat)} {x8 : List Cand} (h : Ctl o x0) :
    Ctl o (State.sxRank x0 x1 x2 x3 x4 x5 x6 x7 x8) := by
  unfold State.sxRank
  repeat' first
    | with_reducible assumption | extract_lets | intro _ | with_reducible apply State.operands_ctl | with_reducible apply State.sxWrite_ctl
    | with_reducible apply State.sxFault_ctl | with_reducible apply State.begin_ctl | with_reducible apply ctl_ite | with_reducible apply ctlF_self
    | with_reducible refine ctl_modCore ?_ (fun _ => rfl) | with_reducible refine ctl_setCore ?_ (ctl_core (by with_reducible assumption) _) | split
    | dsimp only [ctl_mk]

theorem State.startTopk_ctl {o : State} {x0 : State} {x1 : Hdr} {x2 : BitVec 5} {x3 : BitVec 5} {x4 : BitVec 4} {x5 : Bool} {x6 : Bool} {x7 : Nat} {x8 : Bool} {x9 : Ctx} (h : Ctl o x0) :
    Ctl o (State.startTopk x0 x1 x2 x3 x4 x5 x6 x7 x8 x9) := by
  unfold State.startTopk
  repeat' first
    | with_reducible assumption | extract_lets | intro _ | with_reducible apply State.noEffect_ctl | with_reducible apply State.sxRank_ctl
    | with_reducible apply ctl_ite | with_reducible apply ctlF_self | with_reducible refine ctl_modCore ?_ (fun _ => rfl)
    | with_reducible refine ctl_setCore ?_ (ctl_core (by with_reducible assumption) _) | split | dsimp only [ctl_mk]

theorem State.startRoute_ctl {o : State} {x0 : State} {x1 : Hdr} {x2 : BitVec 5} {x3 : BitVec 5} {x4 : BitVec 5} {x5 : BitVec 4} {x6 : Nat} {x7 : Nat} {x8 : Ctx} (h : Ctl o x0) :
    Ctl o (State.startRoute x0 x1 x2 x3 x4 x5 x6 x7 x8) := by
  unfold State.startRoute
  repeat' first
    | with_reducible assumption | extract_lets | intro _ | with_reducible exact ctl_of_snd ‹_› ‹_› | with_reducible apply State.noEffect_ctl
    | with_reducible apply State.operands_ctl | with_reducible apply State.sxWrite_ctl | with_reducible apply State.sxFault_ctl
    | with_reducible apply State.begin_ctl | with_reducible apply ctl_each | with_reducible apply ctl_ite | with_reducible apply ctl_ite_snd2
    | with_reducible apply ctl_ite_snd | with_reducible apply ctlF_self | with_reducible apply ctl_foldl_snd | with_reducible apply ctl_foldl
    | with_reducible refine ctl_modCore ?_ (fun _ => rfl) | with_reducible refine ctl_setCore ?_ (ctl_core (by with_reducible assumption) _)
    | with_reducible refine ctl_setCore ?_ ?_ | with_reducible refine ctl_of_snd ‹_› ?_ | split | dsimp only [ctl_mk] | dsimp +zetaDelta only [ctl_mk]

theorem State.walkOut_ctl {o : State} {x0 : State} {x1 : Query_} {x2 : Bool} {x3 : Nat} {x4 : Nat} {x5 : Nat} (h : Ctl o x0) :
    Ctl o (State.walkOut x0 x1 x2 x3 x4 x5) := by
  unfold State.walkOut
  repeat' first
    | with_reducible assumption | extract_lets | intro _ | with_reducible exact ctl_of_snd ‹_› ‹_› | with_reducible apply State.countWalk_ctl
    | with_reducible apply State.sxFault_ctl | with_reducible apply State.raise_ctl | with_reducible apply State.chargeCore_ctl
    | with_reducible apply State.sxWrite_ctl | with_reducible apply ctl_each | with_reducible apply ctl_ite | with_reducible apply ctl_ite_snd2
    | with_reducible apply ctl_ite_snd | with_reducible apply ctlF_self | with_reducible apply ctl_foldl_snd | with_reducible apply ctl_foldl
    | with_reducible refine ctl_modCore ?_ (fun _ => rfl) | with_reducible refine ctl_setCore ?_ (ctl_core (by with_reducible assumption) _)
    | with_reducible refine ctl_setCore ?_ ?_ | with_reducible refine ctl_of_snd ‹_› ?_ | split | dsimp only [ctl_mk] | dsimp +zetaDelta only [ctl_mk]

theorem State.startWalk_ctl {o : State} {x0 : State} {x1 : Hdr} {x2 : BitVec 5} {x3 : BitVec 5} {x4 : Ctx} (h : Ctl o x0) :
    Ctl o (State.startWalk x0 x1 x2 x3 x4) := by
  unfold State.startWalk
  repeat' first
    | with_reducible assumption | extract_lets | intro _ | with_reducible exact ctl_of_snd ‹_› ‹_› | with_reducible apply State.noEffect_ctl
    | with_reducible apply State.operands_ctl | with_reducible apply State.bindEpoch_ctl | with_reducible apply State.walkOut_ctl
    | with_reducible apply State.begin_ctl | with_reducible apply ctl_each | with_reducible apply ctl_ite | with_reducible apply ctl_ite_snd2
    | with_reducible apply ctl_ite_snd | with_reducible apply ctlF_self | with_reducible apply ctl_foldl_snd | with_reducible apply ctl_foldl
    | with_reducible refine ctl_modCore ?_ (fun _ => rfl) | with_reducible refine ctl_setCore ?_ (ctl_core (by with_reducible assumption) _)
    | with_reducible refine ctl_setCore ?_ ?_ | with_reducible refine ctl_of_snd ‹_› ?_ | split | dsimp only [ctl_mk] | dsimp +zetaDelta only [ctl_mk]

theorem State.startMerge_ctl {o : State} {x0 : State} {x1 : Hdr} {x2 : BitVec 5} {x3 : BitVec 5} {x4 : BitVec 5} {x5 : Bool} {x6 : Bool} {x7 : Nat} {x8 : Ctx} (h : Ctl o x0) :
    Ctl o (State.startMerge x0 x1 x2 x3 x4 x5 x6 x7 x8) := by
  unfold State.startMerge
  repeat' first
    | with_reducible assumption | extract_lets | intro _ | with_reducible apply State.noEffect_ctl | with_reducible apply State.sxRank_ctl
    | with_reducible apply ctl_ite | with_reducible apply ctlF_self | with_reducible refine ctl_modCore ?_ (fun _ => rfl)
    | with_reducible refine ctl_setCore ?_ (ctl_core (by with_reducible assumption) _) | split | dsimp only [ctl_mk]

theorem State.startAnd_ctl {o : State} {x0 : State} {x1 : Hdr} {x2 : BitVec 5} {x3 : BitVec 5} {x4 : BitVec 5} {x5 : BitVec 5} {x6 : BitVec 4} {x7 : Ctx} (h : Ctl o x0) :
    Ctl o (State.startAnd x0 x1 x2 x3 x4 x5 x6 x7) := by
  unfold State.startAnd
  repeat' first
    | with_reducible assumption | extract_lets | intro _ | with_reducible apply State.noEffect_ctl | with_reducible apply State.operands_ctl
    | with_reducible apply State.writeLines_ctl | with_reducible apply State.sxWrite_ctl | with_reducible apply State.sxFault_ctl
    | with_reducible apply State.begin_ctl | with_reducible apply ctl_ite | with_reducible apply ctlF_self
    | with_reducible refine ctl_modCore ?_ (fun _ => rfl) | with_reducible refine ctl_setCore ?_ (ctl_core (by with_reducible assumption) _) | split
    | dsimp only [ctl_mk]

theorem State.oxFault_ctl {o : State} {x0 : State} {x1 : Ctx} {x2 : Nat} (h : Ctl o x0) :
    Ctl o (State.oxFault x0 x1 x2) := by
  unfold State.oxFault
  repeat' first
    | with_reducible assumption | with_reducible apply State.coreFault_ctl | dsimp only

theorem State.oxRow_ctl {o : State} {x0 : State} {x1 : Ctx} {x2 : Nat} {x3 : List Byte} {x4 : Nat → Bool} (h : Ctl o x0) :
    Ctl o (State.oxRow x0 x1 x2 x3 x4) := by
  unfold State.oxRow
  repeat' first
    | with_reducible assumption | extract_lets | intro _ | with_reducible exact ctl_of_snd ‹_› ‹_› | with_reducible apply State.opWrite_ctl
    | with_reducible apply ctl_each | with_reducible apply ctl_ite | with_reducible apply ctl_ite_snd2 | with_reducible apply ctl_ite_snd
    | with_reducible apply ctlF_self | with_reducible apply ctl_foldl_snd | with_reducible apply ctl_foldl
    | with_reducible refine ctl_modCore ?_ (fun _ => rfl) | with_reducible refine ctl_setCore ?_ (ctl_core (by with_reducible assumption) _)
    | with_reducible refine ctl_setCore ?_ ?_ | with_reducible refine ctl_of_snd ‹_› ?_ | split | dsimp only [ctl_mk] | dsimp +zetaDelta only [ctl_mk]

theorem State.startOx_ctl {o : State} {x0 : State} {x1 : Bool} {x2 : Hdr} {x3 : OxOps} {x4 : Ctx} (h : Ctl o x0) :
    Ctl o (State.startOx x0 x1 x2 x3 x4) := by
  unfold State.startOx
  repeat' first
    | with_reducible assumption | extract_lets | intro _ | with_reducible exact ctl_of_snd ‹_› ‹_› | with_reducible apply State.noEffect_ctl
    | with_reducible apply State.begin_ctl | with_reducible apply State.operands_ctl | with_reducible apply State.oxRow_ctl
    | with_reducible apply State.addReg_ctl | with_reducible apply State.oxFault_ctl | with_reducible apply ctl_each | with_reducible apply ctl_ite
    | with_reducible apply ctl_ite_snd2 | with_reducible apply ctl_ite_snd | with_reducible apply ctlF_self | with_reducible apply ctl_foldl_snd
    | with_reducible apply ctl_foldl | with_reducible refine ctl_modCore ?_ (fun _ => rfl)
    | with_reducible refine ctl_setCore ?_ (ctl_core (by with_reducible assumption) _) | with_reducible refine ctl_setCore ?_ ?_
    | with_reducible refine ctl_of_snd ‹_› ?_ | split | dsimp only [ctl_mk] | dsimp +zetaDelta only [ctl_mk]

theorem State.headLevel_ctl {o : State} {x0 : State} {x1 : Nat} (h : Ctl o x0) :
    Ctl o (State.headLevel x0 x1) := by
  unfold State.headLevel
  repeat' first
    | with_reducible assumption | extract_lets | intro _ | with_reducible apply State.fire_ctl | with_reducible apply State.unfire_ctl
    | with_reducible apply ctl_ite | with_reducible apply ctlF_self | with_reducible refine ctl_modCore ?_ (fun _ => rfl)
    | with_reducible refine ctl_setCore ?_ (ctl_core (by with_reducible assumption) _) | split | dsimp only [ctl_mk]

theorem State.setFifo_ctl {o : State} {x0 : State} {x1 : Nat} {x2 : List FifoEntry} (h : Ctl o x0) :
    Ctl o (State.setFifo x0 x1 x2) := by
  unfold State.setFifo
  repeat' first
    | with_reducible assumption | extract_lets | intro _ | with_reducible apply ctl_ite | with_reducible apply ctlF_self
    | with_reducible refine ctl_modCore ?_ (fun _ => rfl) | with_reducible refine ctl_setCore ?_ (ctl_core (by with_reducible assumption) _) | split
    | dsimp only [ctl_mk]

theorem State.enqueue_ctl {o : State} {x0 : State} {x1 : Nat} {x2 : FifoEntry} (h : Ctl o x0) :
    Ctl o (State.enqueue x0 x1 x2) := by
  unfold State.enqueue
  repeat' first
    | with_reducible assumption | with_reducible apply State.headLevel_ctl | with_reducible apply State.setFifo_ctl | dsimp only

theorem State.fromBuf_ctl {o : State} {x0 : Ctx} {x1 : Nat} {x2 : Nat} {x3 : Nat} {x4 : State} (h : Ctl o x4) :
    Ctl o (State.fromBuf x0 x1 x2 x3 x4).2 := by
  induction x1 generalizing x0 x2 x3 x4 with
  | zero => simpa only [State.fromBuf] using h
  | succ m ih =>
    rw [State.fromBuf]
    repeat' first
      | with_reducible assumption | with_reducible apply ih | extract_lets | intro _ | with_reducible apply State.outerRead_ctl
      | with_reducible apply State.mediaViolate_ctl | with_reducible apply ctl_ite | with_reducible apply ctlF_self
      | with_reducible refine ctl_modCore ?_ (fun _ => rfl) | with_reducible refine ctl_setCore ?_ (ctl_core (by with_reducible assumption) _) | split
      | dsimp only [ctl_mk]

theorem State.toBuf_ctl {o : State} {x0 : State} {x1 : Ctx} {x2 : Nat} {x3 : List Byte} {x4 : Bool} (h : Ctl o x0) :
    Ctl o (State.toBuf x0 x1 x2 x3 x4) := by
  unfold State.toBuf
  repeat' first
    | with_reducible assumption | extract_lets | intro _ | with_reducible exact ctl_of_snd ‹_› ‹_› | with_reducible apply State.outerWrite_ctl
    | with_reducible apply State.mediaViolate_ctl | with_reducible apply ctl_each | with_reducible apply ctl_ite | with_reducible apply ctl_ite_snd2
    | with_reducible apply ctl_ite_snd | with_reducible apply ctlF_self | with_reducible apply ctl_foldl_snd | with_reducible apply ctl_foldl
    | with_reducible refine ctl_modCore ?_ (fun _ => rfl) | with_reducible refine ctl_setCore ?_ (ctl_core (by with_reducible assumption) _)
    | with_reducible refine ctl_setCore ?_ ?_ | with_reducible refine ctl_of_snd ‹_› ?_ | split | dsimp only [ctl_mk] | dsimp +zetaDelta only [ctl_mk]

theorem State.mediaStatus_ctl {o : State} {x0 : State} {x1 : Ctx} {x2 : Nat} {x3 : Nat} {x4 : Option Nat} (h : Ctl o x0) :
    Ctl o (State.mediaStatus x0 x1 x2 x3 x4) := by
  unfold State.mediaStatus
  repeat' first
    | with_reducible assumption | extract_lets | intro _ | with_reducible apply State.opWrite_ctl | with_reducible apply State.chargeCore_ctl
    | with_reducible apply ctl_ite | with_reducible apply ctlF_self | with_reducible refine ctl_modCore ?_ (fun _ => rfl)
    | with_reducible refine ctl_setCore ?_ (ctl_core (by with_reducible assumption) _) | split | dsimp only [ctl_mk]

theorem State.mediaBad_ctl {o : State} {x0 : State} {x1 : Ctx} {x2 : MediaOp} {x3 : Nat} {x4 : MediaReq} (h : Ctl o x0) :
    Ctl o (State.mediaBad x0 x1 x2 x3 x4) := by
  unfold State.mediaBad
  repeat' first
    | with_reducible assumption | extract_lets | intro _ | with_reducible apply State.mediaViolate_ctl | with_reducible apply State.toBuf_ctl
    | with_reducible apply State.mediaStatus_ctl | with_reducible apply ctl_ite | with_reducible apply ctlF_self
    | with_reducible refine ctl_modCore ?_ (fun _ => rfl) | with_reducible refine ctl_setCore ?_ (ctl_core (by with_reducible assumption) _) | split
    | dsimp only [ctl_mk]

theorem State.queueWrite_ctl {o : State} {x0 : State} {x1 : Nat} {x2 : Nat} {x3 : Nat} {x4 : Nat} {x5 : WriteOwner} (h : Ctl o x0) :
    Ctl o (State.queueWrite x0 x1 x2 x3 x4 x5).2 := by
  unfold State.queueWrite
  repeat' first
    | with_reducible assumption | extract_lets | intro _ | with_reducible apply ctl_ite | with_reducible apply ctlF_self
    | with_reducible refine ctl_modCore ?_ (fun _ => rfl) | with_reducible refine ctl_setCore ?_ (ctl_core (by with_reducible assumption) _) | split
    | dsimp only [ctl_mk]

theorem State.mediaServe_ctl {o : State} {x0 : State} {x1 : Ctx} {x2 : MediaOp} {x3 : Nat} {x4 : MediaReq} (h : Ctl o x0) :
    Ctl o (State.mediaServe x0 x1 x2 x3 x4).2 := by
  unfold State.mediaServe
  repeat' first
    | with_reducible assumption | extract_lets | intro _ | with_reducible exact ctl_of_snd ‹_› ‹_› | with_reducible apply State.mediaBad_ctl
    | with_reducible apply State.chargeCore_ctl | with_reducible apply State.useMaps_ctl | with_reducible apply State.eraseReads_ctl
    | with_reducible apply State.mediaStatus_ctl | with_reducible apply State.toBuf_ctl | with_reducible apply State.fromBuf_ctl
    | with_reducible apply State.zoneWrite_ctl | with_reducible apply State.queueWrite_ctl | with_reducible apply ctl_each
    | with_reducible apply ctl_ite | with_reducible apply ctl_ite_snd2 | with_reducible apply ctl_ite_snd | with_reducible apply ctlF_self
    | with_reducible apply ctl_foldl_snd | with_reducible apply ctl_foldl | with_reducible refine ctl_modCore ?_ (fun _ => rfl)
    | with_reducible refine ctl_setCore ?_ (ctl_core (by with_reducible assumption) _) | with_reducible refine ctl_setCore ?_ ?_
    | with_reducible refine ctl_of_snd ‹_› ?_ | split | dsimp only [ctl_mk] | dsimp +zetaDelta only [ctl_mk]

theorem State.startPres_ctl {o : State} {x0 : State} {x1 : Hdr} {x2 : BitVec 5} {x3 : BitVec 4} {x4 : Ctx} (h : Ctl o x0) :
    Ctl o (State.startPres x0 x1 x2 x3 x4) := by
  unfold State.startPres
  repeat' first
    | with_reducible assumption | extract_lets | intro _ | with_reducible apply State.seqViolate_ctl | with_reducible apply State.harnViolate_ctl
    | with_reducible apply State.asIssued_ctl | with_reducible apply State.begin_ctl | with_reducible apply State.opWrite_ctl
    | with_reducible apply State.enqueue_ctl | with_reducible apply ctl_ite | with_reducible apply ctlF_self
    | with_reducible refine ctl_modCore ?_ (fun _ => rfl) | with_reducible refine ctl_setCore ?_ (ctl_core (by with_reducible assumption) _) | split
    | dsimp only [ctl_mk]

theorem State.startPread_ctl {o : State} {x0 : State} {x1 : Hdr} {x2 : BitVec 5} {x3 : Ctx} (h : Ctl o x0) :
    Ctl o (State.startPread x0 x1 x2 x3) := by
  unfold State.startPread
  repeat' first
    | with_reducible assumption | extract_lets | intro _ | with_reducible apply State.begin_ctl | with_reducible apply State.seqViolate_ctl
    | with_reducible apply State.harnViolate_ctl | with_reducible apply State.opWrite_ctl | with_reducible apply ctl_ite
    | with_reducible apply ctlF_self | with_reducible refine ctl_modCore ?_ (fun _ => rfl)
    | with_reducible refine ctl_setCore ?_ (ctl_core (by with_reducible assumption) _) | split | dsimp only [ctl_mk]

theorem State.startMedia_ctl {o : State} {x0 : State} {x1 : MediaOp} {x2 : Hdr} {x3 : BitVec 5} {x4 : BitVec 24} {x5 : Ctx} (h : Ctl o x0) :
    Ctl o (State.startMedia x0 x1 x2 x3 x4 x5) := by
  unfold State.startMedia
  repeat' first
    | with_reducible assumption | extract_lets | intro _ | with_reducible apply State.begin_ctl | with_reducible apply State.seqViolate_ctl
    | with_reducible apply State.mediaServe_ctl | with_reducible apply State.chargeCore_ctl | with_reducible apply State.sramCheck_ctl
    | with_reducible apply ctl_ite | with_reducible apply ctlF_self | with_reducible refine ctl_modCore ?_ (fun _ => rfl)
    | with_reducible refine ctl_setCore ?_ (ctl_core (by with_reducible assumption) _) | split | dsimp only [ctl_mk]

theorem State.start_ctl {o : State} {x0 : State} {x1 : Queued} (h : Ctl o x0) :
    Ctl o (State.start x0 x1) := by
  unfold State.start
  repeat' first
    | with_reducible assumption | extract_lets | intro _ | with_reducible apply State.dxStart_ctl | with_reducible apply State.startMxt_ctl
    | with_reducible apply State.startMxl_ctl | with_reducible apply State.startMxp_ctl | with_reducible apply State.startTopk_ctl
    | with_reducible apply State.startMerge_ctl | with_reducible apply State.startAnd_ctl | with_reducible apply State.startRoute_ctl
    | with_reducible apply State.startWalk_ctl | with_reducible apply State.startOx_ctl | with_reducible apply State.startHx_ctl
    | with_reducible apply State.startGx_ctl | with_reducible apply State.startColl_ctl | with_reducible apply State.startMedia_ctl
    | with_reducible apply State.startPread_ctl | with_reducible apply State.startPres_ctl | with_reducible apply State.startVkl_ctl
    | with_reducible apply State.startVx_ctl | with_reducible apply State.noEffect_ctl | with_reducible apply State.begin_ctl
    | with_reducible apply State.operands_ctl | with_reducible apply State.violate_ctl | with_reducible apply State.chargeCore_ctl
    | with_reducible apply TileOut.faults_ctl | with_reducible apply MxTile.write_ctl | with_reducible apply State.addReg_ctl
    | with_reducible apply State.sxRank_ctl | with_reducible apply State.writeLines_ctl | with_reducible apply State.sxWrite_ctl
    | with_reducible apply State.sxFault_ctl | with_reducible apply State.bindEpoch_ctl | with_reducible apply State.walkOut_ctl
    | with_reducible apply State.oxRow_ctl | with_reducible apply State.oxFault_ctl | with_reducible apply State.asIssued_ctl
    | with_reducible apply State.hxFault_ctl | with_reducible apply State.sramCheck_ctl | with_reducible apply State.sendMany_ctl
    | with_reducible apply State.recvMany_ctl | with_reducible apply State.gxFault_ctl | with_reducible apply State.remoteLines_ctl
    | with_reducible apply State.getLines_ctl | with_reducible apply State.endTxn_ctl | with_reducible apply State.remoteWrite_ctl
    | with_reducible apply State.sendFlit_ctl | with_reducible apply State.joinColl_ctl | with_reducible apply State.seqViolate_ctl
    | with_reducible apply State.mediaServe_ctl | with_reducible apply State.harnViolate_ctl | with_reducible apply State.opWrite_ctl
    | with_reducible apply State.enqueue_ctl | with_reducible apply State.deadRows_ctl | with_reducible apply State.vklRing_ctl
    | with_reducible apply State.vklRow_ctl | with_reducible apply State.vxRow_ctl | with_reducible apply State.vxFault_ctl
    | with_reducible apply VxLay.putRow_ctl | with_reducible apply ctl_ite | with_reducible apply ctlF_self
    | with_reducible refine ctl_modCore ?_ (fun _ => rfl) | with_reducible refine ctl_setCore ?_ (ctl_core (by with_reducible assumption) _) | split
    | dsimp only [ctl_mk]

end Sys2Proof.Machine
end

