-- ==== Sys2Proof/Laws/Issue.lean ====
section
/-! SUPPORT. Laws/Issue.lean: a sequencer instruction issued on a core that finds all it needs: the state its effect starts from, and what running on
afterwards does. -/

namespace Sys2Proof.Machine

open Sys2Proof

/-! ### The state changed in one core and in two registers only -/

/-- Cores and registers apart nothing differs, and of those only core `c`, its issue count and the token ledger's number. -/
def State.Near (s t : State) (c : Nat) : Prop :=
  t = { s with cores := t.cores, regs := t.regs } ∧ (∀ d, d ≠ c → t.core d = s.core d) ∧
  ∀ off, off ≠ Reg.SEQ_ISSUED c → off ≠ Reg.LEDGER_SEQ 7 → t.reg off = s.reg off

theorem State.near_refl (s : State) (c : Nat) : s.Near s c := ⟨rfl, fun _ _ => rfl, fun _ _ _ => rfl⟩

theorem State.Near.trans {s t u : State} {c : Nat} (a : s.Near t c) (b : t.Near u c) : s.Near u c := by
  refine ⟨?_, fun d h => (b.2.1 d h).trans (a.2.1 d h), fun o h1 h2 => (b.2.2 o h1 h2).trans (a.2.2 o h1 h2)⟩
  have h1 := a.1
  have h2 := b.1
  rw [h1] at h2
  exact h2

theorem State.near_setCore (s : State) (c : Nat) (k : Core) : s.Near (s.setCore c k) c :=
  ⟨rfl, fun _ h => State.core_setCore_ne s h k, fun _ _ _ => rfl⟩

theorem State.near_modCore (s : State) (c : Nat) (f : Core → Core) : s.Near (s.modCore c f) c := s.near_setCore c _

theorem State.addReg_frame (s : State) (o n : Nat) :
    s.addReg o n = { s with cores := (s.addReg o n).cores, regs := (s.addReg o n).regs } ∧ ∀ d, (s.addReg o n).core d = s.core d :=
  ⟨rfl, fun _ => rfl⟩

theorem State.addReg_setCore (s : State) (c : Nat) (k : Core) (o n : Nat) : (s.setCore c k).addReg o n = (s.addReg o n).setCore c k := rfl

theorem State.near_issued (s : State) (c n : Nat) : s.Near (s.addReg (Reg.SEQ_ISSUED c) n) c :=
  ⟨(s.addReg_frame _ n).1, fun d _ => (s.addReg_frame _ n).2 d, fun _ h _ => State.reg_addReg_ne s h n⟩

theorem State.near_tick (s : State) (c n : Nat) : s.Near (s.tick 7 n) c :=
  ⟨rfl, fun _ _ => rfl, fun _ _ h => State.reg_addReg_ne s h n⟩

theorem Reg.issued_ne_ledger (c : Nat) : Reg.SEQ_ISSUED c ≠ Reg.LEDGER_SEQ 7 := by
  unfold Reg.SEQ_ISSUED Reg.LEDGER_SEQ coreWin
  omega

/-! ### The parts of an issue -/

/-- A cached line, and its successor, are fetched without a miss. -/
theorem State.fetch_cached {s : State} {c : Nat} (h : s.cached c = true) :
    ∃ ic, s.fetch c = some (s.modCore c (fun k => { k with icache := ic })) := by
  unfold State.cached at h
  simp only [Bool.and_eq_true, Bool.or_eq_true, Bool.not_eq_true', decide_eq_false_iff_not] at h
  obtain ⟨hit, next⟩ := h
  refine ⟨sput [] (s.core c).icache (s.pcOf c (s.core c).index / 64 % 256)
    (s.pcOf c (s.core c).index / 64 :: ((s.core c).ways (s.pcOf c (s.core c).index / 64)).erase (s.pcOf c (s.core c).index / 64)), ?_⟩
  have hw : ∀ l (q : List Nat), (s.core c).ways (l + 1) = Core.ways { (s.core c) with icache := sput [] (s.core c).icache (l % 256) q } (l + 1) := by
    intro l q
    unfold Core.ways
    dsimp only
    rw [sget_sput_ne]
    omega
  unfold State.fetch
  simp only [hit, Bool.not_true, Bool.false_and, if_true, State.core_modCore_self, Bool.false_eq_true, if_false]
  rw [if_neg]
  · rfl
  · rw [← hw]
    simp only [Bool.and_eq_true, decide_eq_true_eq, Bool.not_eq_true']
    rintro ⟨⟨a, b⟩, -⟩
    rcases next with n | n
    · exact n a
    · rw [n] at b
      cases b

/-- A core with an empty queue, held by nothing an engine could free, and inside its code: it has nothing to go on with. -/
theorem State.run_quiet {s : State} {c : Nat} (hq : (s.core c).queue = []) (hh : (s.core c).held = none ∨ (s.core c).held = some .atBoundary)
    (hi : (s.core c).held = none → (s.core c).index < (s.core c).codeLen)
    (hd : (s.core c).ended = true → ∀ j, s.jobOn c = some j → j.phase ≠ .dying) : s.run c = s := by
  have hk : State.kick 128 c s = s := by
    unfold State.kick
    have e1 : ∀ l, (s.core c).headOf l = none := by
      intro l
      simp [Core.headOf, hq]
    have e2 : (s.core c).heldEngine = none := by
      rcases hh with h | h <;> simp [Core.heldEngine, h]
    simp [e1, e2, laneOrder, List.findSome?]
  have hr : s.rangeCheck c = s := by
    unfold State.rangeCheck
    rw [if_neg]
    rintro ⟨-, b, -, d⟩
    have := hi b
    omega
  have hs : s.settle c = s := by
    unfold State.settle
    by_cases he : (s.core c).ended = true
    · cases hj : s.jobOn c with
      | none => simp [he]
      | some j => simp [he, hd he j hj]
    · rcases hh with h | h <;> simp [he, h]
  unfold State.run
  split
  · rfl
  · rw [hk, hr, hs]

/-- The wait of a header that finds its units: R177. -/
theorem State.take_spec (s : State) (c : Nat) (h : Hdr) : s.Near (s.take c h) c ∧ (s.take c h).reg (Reg.SEQ_ISSUED c) = s.reg (Reg.SEQ_ISSUED c) ∧
    ∃ tk nt st, (s.take c h).core c = { (s.core c) with tok := tk, takes := nt, stalled := st } ∧
      ∀ i, sget 0 tk i = sget 0 (s.core c).tok i - (if h.wait = true ∧ i = h.waitTok.toNat then h.waitN.toNat + 1 else 0) := by
  by_cases hw : h.wait = true
  · have e : s.take c h = (s.setCore c { (s.core c) with
        tok := sput 0 (s.core c).tok h.waitTok.toNat (sget 0 (s.core c).tok h.waitTok.toNat - (h.waitN.toNat + 1))
        takes := (s.core c).takes + (h.waitN.toNat + 1), stalled := false }).tick 7 := by
      unfold State.take
      rw [if_pos hw]
    rw [e]
    refine ⟨(s.near_setCore c _).trans (State.near_tick _ c 1), State.reg_addReg_ne _ (Reg.issued_ne_ledger c) 1,
      sput 0 (s.core c).tok h.waitTok.toNat (sget 0 (s.core c).tok h.waitTok.toNat - (h.waitN.toNat + 1)),
      (s.core c).takes + (h.waitN.toNat + 1), false, ?_, fun i => ?_⟩
    · rw [State.core_tick, State.core_setCore_self]
    · by_cases hi : i = h.waitTok.toNat
      · subst hi
        simp [hw]
      · rw [sget_sput_ne _ _ _ _ hi]
        simp [hi]
  · have e : s.take c h = s := by
      unfold State.take
      rw [if_neg hw]
    rw [e]
    exact ⟨s.near_refl c, rfl, (s.core c).tok, (s.core c).takes, (s.core c).stalled, rfl, fun i => by simp [hw]⟩

/-- The end of a sequencer instruction whose signal fits: R166, R178, R180. -/
theorem State.seqDone_spec (s : State) (h : Hdr) (n c : Nat) (hc : h.core.toNat = c)
    (room : h.signal = true → sget 0 (s.core c).tok h.sigTok.toNat < 65535) :
    s.Near (s.seqDone h n) c ∧ (s.seqDone h n).reg (Reg.SEQ_ISSUED c) = s.reg (Reg.SEQ_ISSUED c) ∧
    ∃ tk sg, (s.seqDone h n).core c = { ((s.core c).goto n) with
        tok := tk, sigs := sg, held := (if h.boundary then some .atBoundary else none), stalled := false } ∧
      ∀ i, sget 0 tk i = sget 0 (s.core c).tok i + (if h.signal = true ∧ i = h.sigTok.toNat then 1 else 0) := by
  by_cases hs : h.signal = true
  · have r := room hs
    have e1 : min 1 (65535 - sget 0 (s.core c).tok h.sigTok.toNat) = 1 := by omega
    have e : s.signal? c h.sig (s.core c).index = (s.setCore c { (s.core c) with
        tok := sput 0 (s.core c).tok h.sigTok.toNat (sget 0 (s.core c).tok h.sigTok.toNat + 1)
        sigs := (s.core c).sigs + 1, stalled := false }).tick 7 := by
      simp [State.signal?, Hdr.sig, hs, State.signal, e1]
    have d : s.seqDone h n = ((s.setCore c { (s.core c) with
        tok := sput 0 (s.core c).tok h.sigTok.toNat (sget 0 (s.core c).tok h.sigTok.toNat + 1)
        sigs := (s.core c).sigs + 1, stalled := false }).tick 7).modCore c (fun k => { (k.goto n) with
          held := if h.boundary then some .atBoundary else none, stalled := false }) := by
      unfold State.seqDone
      rw [hc]
      dsimp only
      rw [e]
    rw [d]
    refine ⟨((s.near_setCore _ _).trans (State.near_tick _ _ 1)).trans (State.near_modCore _ _ _), State.reg_addReg_ne _ (Reg.issued_ne_ledger _) 1,
      sput 0 (s.core c).tok h.sigTok.toNat (sget 0 (s.core c).tok h.sigTok.toNat + 1), (s.core c).sigs + 1, ?_, fun i => ?_⟩
    · simp only [State.core_modCore_self, State.core_tick, State.core_setCore_self, Core.goto]
    · by_cases hi : i = h.sigTok.toNat
      · subst hi
        simp [hs]
      · rw [sget_sput_ne _ _ _ _ hi]
        simp [hi]
  · have e : s.signal? c h.sig (s.core c).index = s := by simp [State.signal?, Hdr.sig, hs]
    have d : s.seqDone h n = s.modCore c (fun k => { (k.goto n) with
          held := if h.boundary then some .atBoundary else none, stalled := false }) := by
      unfold State.seqDone
      rw [hc]
      dsimp only
      rw [e]
    rw [d]
    refine ⟨State.near_modCore _ _ _, rfl, (s.core c).tok, (s.core c).sigs, ?_, fun i => by simp [hs]⟩
    simp only [State.core_modCore_self, Core.goto]

/-- What a sequencer instruction leaves of core `c` when its own effect takes the core's levels, counters, comparators and generators to those
of `K` and ends at index `n`. -/
def State.SeqResult (s t : State) (c : Nat) (h : Hdr) (K : Core) (n : Nat) : Prop :=
  s.OnlyCore t c ∧ (s.core c).SeqFrame (t.core c) ∧ (t.core c).index = (K.goto n).index ∧ (t.core c).levels = (K.goto n).levels ∧
  (t.core c).held = (if h.boundary then some .atBoundary else none) ∧ (∀ j, sget 0 (t.core c).tok j = (s.core c).tokNext h j) ∧
  (t.core c).ctr = K.ctr ∧ (t.core c).cmp = K.cmp ∧ (t.core c).agBase = K.agBase ∧ (t.core c).agInc = K.agInc

/-- A sequencer instruction on a core at issue: its effect starts from a state in which nothing of the core's program state has changed. -/
theorem State.seq_result {s : State} {h : Hdr} {i : Instr} {K : Core} {n c : Nat} (hc : h.core.toNat = c) (a : s.AtIssue h)
    (hop : i.op? = some (.seq, h)) (hbad : badOps i = false)
    (hK : K = { (s.core c) with levels := K.levels, ctr := K.ctr, cmp := K.cmp, agBase := K.agBase, agInc := K.agInc })
    (hin : (K.goto n).index < (s.core c).codeLen)
    (eff : ∀ (w : State) ic tk nt st, w.core c = { (s.core c) with icache := ic, tok := tk, takes := nt, stalled := st } →
      ∃ v : State, w.Near v c ∧ v.reg (Reg.SEQ_ISSUED c) = w.reg (Reg.SEQ_ISSUED c) ∧
        v.core c = { K with icache := ic, tok := tk, takes := nt, stalled := st } ∧ w.seqEffect i = v.seqDone h n) :
    s.SeqResult (s.issue i) c h K n := by
  obtain ⟨ready, cached, empty, token, rsv, units, room⟩ := a
  rw [hc] at ready cached empty units room
  obtain ⟨ic, hf⟩ := State.fetch_cached cached
  -- the fetch, the count, the wait
  obtain ⟨w1, hf, n1, r1, c1⟩ : ∃ w1, s.fetch c = some w1 ∧ s.Near w1 c ∧ w1.reg (Reg.SEQ_ISSUED c) = s.reg (Reg.SEQ_ISSUED c) ∧
      w1.core c = { (s.core c) with icache := ic } :=
    ⟨_, hf, s.near_modCore c _, State.reg_modCore s c _ _, State.core_modCore_self s c (fun k => { k with icache := ic })⟩
  obtain ⟨w2, e2⟩ : ∃ w2, w2 = w1.addReg (Reg.SEQ_ISSUED c) 1 := ⟨_, rfl⟩
  have n2 : w1.Near w2 c := e2 ▸ State.near_issued w1 c 1
  have r2 : w2.reg (Reg.SEQ_ISSUED c) = s.reg (Reg.SEQ_ISSUED c) + 1 := by
    rw [e2, State.reg_addReg_self, r1]
    generalize s.reg (Reg.SEQ_ISSUED c) = x
    rfl
  have c2 : w2.core c = { (s.core c) with icache := ic } := by rw [e2, (w1.addReg_frame _ 1).2]; exact c1
  obtain ⟨n3, r3, tk, nt, st, c3, t3⟩ := State.take_spec w2 c h
  rw [c2] at c3 t3
  obtain ⟨v, nv, rv, cv, ev⟩ := eff (w2.take c h) ic tk nt st c3
  have hroom : h.signal = true → sget 0 (v.core c).tok h.sigTok.toNat < 65535 := by
    intro hs
    have := room hs
    rw [cv]
    dsimp only
    rw [t3]
    unfold Core.tokNext at this
    simp only [hs, true_and, if_true] at this
    dsimp only
    omega
  obtain ⟨n4, r4, tk', sg, c4, t4⟩ := State.seqDone_spec v h n c hc hroom
  rw [cv] at c4 t4
  -- the issue is that
  have hfate : w1.fate i .seq h = .good := by
    unfold State.fate
    have : (Cls.seq != Cls.dx) = true := rfl
    simp [token, rsv, hbad, (rfl : (Cls.seq == Cls.ox) = false), (rfl : (Cls.seq == Cls.hx) = false)]
  have hk3 : ({ (s.core c) with icache := ic } : Core).canTake h = true := units
  have hi : s.issue i = (v.seqDone h n).run c := by
    unfold State.issue
    simp only [hop, hc, ready, Bool.not_true, Bool.false_eq_true, if_false, hf, hfate, if_true]
    congr 1
    unfold State.issueSeq
    simp only [hc]
    rw [← e2, if_pos]
    · exact ev
    · rw [c1]
      exact hk3
  have core : (v.seqDone h n).core c = { ((K.goto n)) with
      icache := ic, takes := nt, tok := tk', sigs := sg, held := (if h.boundary then some .atBoundary else none), stalled := false } := by
    rw [c4]
    rfl
  have hquiet : (v.seqDone h n).run c = v.seqDone h n := by
    apply State.run_quiet
    · rw [core]
      dsimp only
      rw [show (K.goto n).queue = K.queue from rfl, hK]
      exact empty
    · rw [core]
      dsimp only
      split
      · exact Or.inr rfl
      · exact Or.inl rfl
    · intro _
      rw [core]
      dsimp only
      rw [show (K.goto n).codeLen = K.codeLen from rfl]
      rw [show K.codeLen = (s.core c).codeLen by rw [hK]]
      exact hin
    · intro e
      rw [core] at e
      have e0 : (s.core c).ended = true := by
        rw [← show K.ended = (s.core c).ended by rw [hK]]
        exact e
      simp [State.canIssue, e0] at ready
  rw [hi, hquiet]
  have near : s.Near (v.seqDone h n) c :=
    (((n1.trans n2).trans n3).trans nv).trans n4
  refine ⟨⟨near.1, near.2.1, ?_, near.2.2⟩, ?_, ?_, ?_, ?_, ?_, ?_, ?_, ?_, ?_⟩
  · rw [r4, rv, r3, r2]
  · unfold Core.SeqFrame
    rw [core]
    have e : K.goto n = { (s.core c) with levels := (K.goto n).levels, index := (K.goto n).index, ctr := K.ctr, cmp := K.cmp, agBase := K.agBase, agInc := K.agInc } := by
      rw [hK]
      rfl
    rw [e]
  · rw [core]
  · rw [core]
  · rw [core]
  · intro j
    rw [core]
    dsimp only
    rw [t4, t3]
    unfold Core.tokNext
    rfl
  · rw [core]; rfl
  · rw [core]; rfl
  · rw [core]; rfl
  · rw [core]; rfl

end Sys2Proof.Machine
end

