-- ==== Sys2Proof/Laws/Memory.lean ====
section
/-! SUPPORT. Laws/Memory.lean: memory: every operation keeps the canonical form, a read after a write finds what was written, and a write leaves every
other byte alone. -/

namespace Sys2Proof.Machine

open Sys2Proof

theorem memPut_wf {m : List Host.Cell} (h : Memory.wf m = true) (a : Nat) (bs : List Byte) : Memory.wf (memPut m a bs) = true := by
  induction bs generalizing m a with
  | nil => exact h
  | cons b r ih => exact ih (swf_sput 0 h a b) (a + 1)

theorem memZero_wf {m : List Host.Cell} (h : Memory.wf m = true) (a n : Nat) : Memory.wf (memZero m a n) = true := swf_filter 0 _ h

theorem memByte_put_out (m : List Host.Cell) (bs : List Byte) (a b : Nat) (h : b < a ∨ a + bs.length ≤ b) :
    memByte (memPut m a bs) b = memByte m b := by
  induction bs generalizing m a with
  | nil => rfl
  | cons x r ih =>
    simp only [List.length_cons] at h
    have hb : b ≠ a := by omega
    have := ih (sput 0 m a x) (a + 1) (by omega)
    simp only [memPut, this]
    exact sget_sput_ne 0 0 x m hb

theorem memByte_put_in (m : List Host.Cell) (bs : List Byte) (a i : Nat) (hi : i < bs.length) :
    memByte (memPut m a bs) (a + i) = bs[i] := by
  induction bs generalizing m a i with
  | nil => simp at hi
  | cons x r ih =>
    cases i with
    | zero =>
      simp only [memPut, Nat.add_zero, List.getElem_cons_zero]
      rw [memByte_put_out _ _ _ _ (by omega)]
      exact sget_sput_self 0 m a x
    | succ i =>
      have := ih (sput 0 m a x) (a + 1) i (by simpa using hi)
      rw [show a + 1 + i = a + (i + 1) by omega] at this
      simpa [memPut] using this

/-- Reading back the bytes just stored. -/
theorem memBytes_put (m : List Host.Cell) (bs : List Byte) (a : Nat) : memBytes (memPut m a bs) a bs.length = bs := by
  apply List.ext_getElem
  · simp [memBytes]
  · intro i h1 h2
    simp only [memBytes, List.getElem_map, List.getElem_range]
    exact memByte_put_in m bs a i h2

theorem memByte_zero_in {m : List Host.Cell} (a n b : Nat) (h : a ≤ b ∧ b < a + n) : memByte (memZero m a n) b = 0 := by
  unfold memByte memZero
  induction m with
  | nil => rfl
  | cons e r ih =>
    obtain ⟨j, v⟩ := e
    by_cases hp : j < a ∨ a + n ≤ j
    · have hj : j ≠ b := by omega
      rw [List.filter_cons_of_pos (by simpa using hp)]
      simp only [sget, hj, if_false]
      exact ih
    · rw [List.filter_cons_of_neg (by simpa using hp)]
      exact ih

theorem memByte_zero_out {m : List Host.Cell} (a n b : Nat) (h : b < a ∨ a + n ≤ b) : memByte (memZero m a n) b = memByte m b := by
  unfold memByte memZero
  induction m with
  | nil => rfl
  | cons e r ih =>
    obtain ⟨j, v⟩ := e
    by_cases hp : j < a ∨ a + n ≤ j
    · rw [List.filter_cons_of_pos (by simpa using hp)]
      simp only [sget, ih]
    · have hj : j ≠ b := by omega
      rw [List.filter_cons_of_neg (by simpa using hp)]
      simp only [sget, hj, if_false]
      exact ih

/-- Unlisted memory reads as zero. -/
theorem memByte_nil (b : Nat) : memByte [] b = 0 := rfl

theorem regsWf_iff (m : List (Nat × Word)) : Regs.wf m = true ↔ risesFrom none m ∧ ∀ e ∈ m, e.2 ≠ resetVal e.1 := by
  induction m with
  | nil => simp [Regs.wf, risesFrom]
  | cons e r ih =>
    obtain ⟨j, v⟩ := e
    cases r with
    | nil => simp [Regs.wf, risesFrom]
    | cons e' r' =>
      obtain ⟨k, w⟩ := e'
      rw [Regs.wf]
      simp only [Bool.and_eq_true, decide_eq_true_eq, ih, risesFrom, List.mem_cons, forall_eq_or_imp, Option.mem_def, Option.some.injEq,
        forall_eq', reduceCtorEq, false_implies, implies_true, true_and]
      constructor
      · rintro ⟨⟨a, b⟩, c, e, f⟩
        exact ⟨⟨b, c⟩, a, e, f⟩
      · rintro ⟨⟨b, c⟩, a, e, f⟩
        exact ⟨⟨a, b⟩, c, e, f⟩

/-- A register set keeps the map's form. -/
theorem regsWf_sput {m : List (Nat × Word)} (hm : Regs.wf m = true) (k : Nat) (v : Word) : Regs.wf (sput (resetVal k) m k v) = true := by
  rw [regsWf_iff] at hm ⊢
  unfold sput
  split
  · exact ⟨sdel_risesFrom k hm.1, fun e he => hm.2 e (mem_sdel he)⟩
  · refine ⟨sins_risesFrom k v (by simp) hm.1, fun e he => ?_⟩
    rcases mem_sins he with rfl | he
    · assumption
    · exact hm.2 e he

/-- Values mapped under their offsets keep the order of these. -/
theorem map_risesFrom {m : List (Nat × Word)} {a : Option Nat} (f : Nat → Word → Word) (hm : risesFrom a m) :
    risesFrom a (m.map (fun e => (e.1, f e.1 e.2))) := by
  induction m generalizing a with
  | nil => trivial
  | cons e r ih => exact ⟨hm.1, ih hm.2⟩

/-- Memory right after reset has the canonical form. -/
theorem reset_mem_wf : Memory.wf State.reset.mem = true := rfl

/-! ### A list folded through a state -/

/-- What every element's step keeps, the fold keeps. -/
theorem each_keeps {β : Type} {P : State → Prop} {f : β → State → State} (hf : ∀ x s, P s → P (f x s)) (l : List β) {s : State} (h : P s) :
    P (State.each l f s) := by
  unfold State.each
  induction l generalizing s with
  | nil => exact h
  | cons x r ih => exact ih (hf x s h)

end Sys2Proof.Machine
end

