-- ==== Sys2Proof/Laws/KeptBase.lean ====
section
/-! SUPPORT. Laws/KeptBase.lean: what every operation of the machine keeps: the commands that wait, the fused facts but for the anti-rollback counter,
that counter's range and order, and the canonical forms of memory and of the register map. -/

namespace Sys2Proof.Machine

open Sys2Proof

/-- What is kept, of the four fields that it speaks of. -/
def KeptF (o : State) (p : List Instr) (f : Fuses) (m : List Host.Cell) (r : List (Nat × Word)) : Prop :=
  p = o.pending ∧
  (f.grade = o.fuse.grade ∧ f.serial = o.fuse.serial ∧ f.revoked = o.fuse.revoked ∧ f.keyHash = o.fuse.keyHash ∧ f.bypass = o.fuse.bypass ∧
    f.factoryBad = o.fuse.factoryBad ∧ f.uds = o.fuse.uds) ∧
  (o.fuse.svn ≤ f.svn ∧ (o.fuse.svn ≤ 128 → f.svn ≤ 128)) ∧
  (Memory.wf o.mem = true → Memory.wf m = true) ∧ (Regs.wf o.regs = true → Regs.wf r = true)

/-- What a state `s` reached from `o` within one command has kept. -/
def Kept (o s : State) : Prop := KeptF o s.pending s.fuse s.mem s.regs

theorem kept_refl (o : State) : Kept o o :=
  ⟨rfl, ⟨rfl, rfl, rfl, rfl, rfl, rfl, rfl⟩, ⟨Nat.le_refl _, id⟩, id, id⟩

theorem kept_mk {o : State} {x1 x2 x3 x4 x5 x6 x7 x8 x9 x10 x11 x12 x13 x14 x15 x16 x17 x18 x19 x20 x21 x22 x23 x24 x25 x26 x27 x28 x29} :
    Kept o ⟨x1, x2, x3, x4, x5, x6, x7, x8, x9, x10, x11, x12, x13, x14, x15, x16, x17, x18, x19, x20, x21, x22, x23, x24, x25, x26, x27, x28, x29⟩ = KeptF o x1 x2 x5 x3 := rfl

theorem keptF_self {o s : State} (h : Kept o s) : KeptF o s.pending s.fuse s.mem s.regs := h

theorem keptF_put {o s : State} (h : Kept o s) (a : Nat) (bs : List Byte) : KeptF o s.pending s.fuse (memPut s.mem a bs) s.regs :=
  ⟨h.1, h.2.1, h.2.2.1, fun w => memPut_wf (h.2.2.2.1 w) a bs, h.2.2.2.2⟩

theorem keptF_zero {o s : State} (h : Kept o s) (a n : Nat) : KeptF o s.pending s.fuse (memZero s.mem a n) s.regs :=
  ⟨h.1, h.2.1, h.2.2.1, fun w => memZero_wf (h.2.2.2.1 w) a n, h.2.2.2.2⟩

theorem keptF_sput {o s : State} (h : Kept o s) (a : Nat) (b : Byte) : KeptF o s.pending s.fuse (sput 0 s.mem a b) s.regs :=
  ⟨h.1, h.2.1, h.2.2.1, fun w => swf_sput 0 (h.2.2.2.1 w) a b, h.2.2.2.2⟩

theorem keptF_sputs {o s : State} (h : Kept o s) (l : List Host.Cell) :
    KeptF o s.pending s.fuse (l.foldl (fun m e => sput 0 m e.1 e.2) s.mem) s.regs := by
  refine ⟨h.1, h.2.1, h.2.2.1, fun w => ?_, h.2.2.2.2⟩
  suffices ∀ m : List Host.Cell, Memory.wf m = true → Memory.wf (l.foldl (fun m e => sput 0 m e.1 e.2) m) = true from this _ (h.2.2.2.1 w)
  induction l with
  | nil => exact fun m w => w
  | cons e r ih => exact fun m w => ih _ (swf_sput 0 w e.1 e.2)

theorem keptF_filter {o s : State} (h : Kept o s) (p : Host.Cell → Bool) : KeptF o s.pending s.fuse (s.mem.filter p) s.regs :=
  ⟨h.1, h.2.1, h.2.2.1, fun w => swf_filter 0 p (h.2.2.2.1 w), h.2.2.2.2⟩

theorem keptF_nil {o s : State} (h : Kept o s) : KeptF o s.pending s.fuse [] s.regs := ⟨h.1, h.2.1, h.2.2.1, fun _ => rfl, h.2.2.2.2⟩

theorem keptF_ite {o s : State} {c : Prop} [Decidable c] {m n : List Host.Cell} (hm : KeptF o s.pending s.fuse m s.regs)
    (hn : KeptF o s.pending s.fuse n s.regs) : KeptF o s.pending s.fuse (if c then m else n) s.regs := by
  split <;> assumption

theorem kept_ite {o a b : State} {c : Prop} [Decidable c] (ha : Kept o a) (hb : Kept o b) : Kept o (if c then a else b) := by
  split <;> assumption

theorem kept_ite_snd {α : Type} {o : State} {a b : α × State} {c : Prop} [Decidable c] (ha : Kept o a.2) (hb : Kept o b.2) :
    Kept o (if c then a else b).2 := by
  split <;> assumption

theorem kept_ite_snd2 {α β : Type} {o : State} {a b : α × β × State} {c : Prop} [Decidable c] (ha : Kept o a.2.2) (hb : Kept o b.2.2) :
    Kept o (if c then a else b).2.2 := by
  split <;> assumption

/-- A register set. -/
theorem keptF_reg {o s : State} (h : Kept o s) (k : Nat) (v : Word) : KeptF o s.pending s.fuse s.mem (sput (resetVal k) s.regs k v) :=
  ⟨h.1, h.2.1, h.2.2.1, h.2.2.2.1, fun w => regsWf_sput (h.2.2.2.2 w) k v⟩

/-- Every register put to its value after a reset. -/
theorem keptF_regs {o s t : State} (h : Kept o s) (ht : Kept o t) (f : Nat → Word → Word) :
    KeptF o t.pending t.fuse t.mem (mapRegs f s.regs) := by
  refine ⟨ht.1, ht.2.1, ht.2.2.1, ht.2.2.2.1, fun w => ?_⟩
  have a := (regsWf_iff _).1 (h.2.2.2.2 w)
  refine (regsWf_iff _).2 ⟨filter_risesFrom _ (map_risesFrom f a.1), fun e he => ?_⟩
  simpa using (List.mem_filter.1 he).2

/-- A state that differs from another in none of the four fields. -/
theorem kept_upd {o s t : State} (hp : t.pending = s.pending) (hf : t.fuse = s.fuse) (hm : t.mem = s.mem) (hr : t.regs = s.regs) (h : Kept o s) :
    Kept o t := by
  unfold Kept
  rw [hp, hf, hm, hr]
  exact h

theorem kept_media {o s : State} {m : Media} (h : Kept o s) : Kept o { s with media := m } := h

theorem kept_each {β : Type} {o s : State} {f : β → State → State} {l : List β} (hf : ∀ x t, Kept o t → Kept o (f x t)) (h : Kept o s) :
    Kept o (State.each l f s) := each_keeps (P := Kept o) hf l h

/-- The state beside an answer, named by an equation. -/
theorem kept_of_snd {α : Type} {o s : State} {x : α × State} {a : α} (e : x = (a, s)) (h : Kept o x.2) : Kept o s := by subst e; exact h

/-- A fold that carries something beside the state. -/
theorem kept_foldl_snd {α β : Type} {o : State} {f : α × State → β → α × State} (hf : ∀ a b, Kept o a.2 → Kept o (f a b).2) (l : List β)
    {a : α × State} (h : Kept o a.2) : Kept o (l.foldl f a).2 := by
  induction l generalizing a with
  | nil => exact h
  | cons x r ih => exact ih (hf a x h)

/-- An operation that answers no state keeps everything. -/
theorem opt_none {α : Type} {o : State} {p : α → State} : ∀ r, none = some r → Kept o (p r) := nofun

/-- An operation that answers a state keeps what that state keeps. -/
theorem opt_some {α : Type} {o : State} {p : α → State} {a : α} (h : Kept o (p a)) : ∀ r, some a = some r → Kept o (p r) := by
  intro r e
  cases e
  exact h

/-- A command that answers a next state keeps what that state keeps. -/
theorem out_next {o u : State} (h : Kept o u) : ∀ t, (Host.Outcome.next u : Host.Outcome State Fault Refusal) = .next t → Kept o t := by
  intro t e
  cases e
  exact h

/-- A fold over the state alone. -/
theorem kept_foldl {β : Type} {o : State} {f : State → β → State} (hf : ∀ a b, Kept o a → Kept o (f a b)) (l : List β) {a : State} (h : Kept o a) :
    Kept o (l.foldl f a) := by
  induction l generalizing a with
  | nil => exact h
  | cons x r ih => exact ih (hf a x h)

end Sys2Proof.Machine
end

