-- ==== Sys2Proof/Laws/Kept1.lean ====
section
/-! SUPPORT. Laws/Kept1.lean: one lemma per operation of the machine: it keeps what KeptBase names (part 1, in the order in which operations use
each other). -/

namespace Sys2Proof.Machine

open Sys2Proof

theorem State.complete_kept {o : State} {x0 : State} {x1 : NHdr} {x2 : Nat} {x3 : Nat} {x4 : Nat} {x5 : Nat} {x6 : List Byte} (h : Kept o x0) :
    Kept o (State.complete x0 x1 x2 x3 x4 x5 x6) := by
  unfold State.complete
  repeat' first
    | with_reducible assumption | extract_lets | intro _ | with_reducible apply kept_ite | with_reducible apply keptF_self | split
    | dsimp only [kept_mk]

theorem State.vendor_kept {o : State} {x0 : State} {x1 : NHdr} {x2 : Nat} {x3 : Nat} {x4 : Nat} (h : Kept o x0) :
    Kept o (State.vendor x0 x1 x2 x3 x4) := by
  unfold State.vendor
  repeat' first
    | with_reducible assumption | with_reducible apply State.complete_kept | dsimp only

theorem State.setCore_kept {o : State} {x0 : State} {x1 : Nat} {x2 : Core} (h : Kept o x0) :
    Kept o (State.setCore x0 x1 x2) := by
  unfold State.setCore
  repeat' first
    | with_reducible assumption | extract_lets | intro _ | with_reducible apply kept_ite | with_reducible apply keptF_self | split
    | dsimp only [kept_mk]

theorem State.modCore_kept {o : State} {x0 : State} {x1 : Nat} {x2 : Core → Core} (h : Kept o x0) :
    Kept o (State.modCore x0 x1 x2) := by
  unfold State.modCore
  repeat' first
    | with_reducible assumption | with_reducible apply State.setCore_kept | dsimp only

theorem State.badField_kept {o : State} {x0 : State} {x1 : NHdr} (h : Kept o x0) :
    Kept o (State.badField x0 x1) := by
  unfold State.badField
  repeat' first
    | with_reducible assumption | with_reducible apply State.complete_kept | dsimp only

theorem State.setReg_kept {o : State} {x0 : State} {x1 : Nat} {x2 : Word} (h : Kept o x0) : Kept o (State.setReg x0 x1 x2) :=
  keptF_reg h x1 x2

theorem State.fresh_kept {o : State} {x0 : State} (h : Kept o x0) :
    Kept o (State.fresh x0) := by
  unfold State.fresh
  repeat' first
    | with_reducible assumption | extract_lets | intro _ | with_reducible apply kept_ite | with_reducible apply keptF_self | split
    | dsimp only [kept_mk]

theorem State.takeShadow_kept {o : State} {x0 : State} {x1 : Nat} (h : Kept o x0) :
    Kept o (State.takeShadow x0 x1) := by
  unfold State.takeShadow
  repeat' first
    | with_reducible assumption | extract_lets | intro _ | with_reducible apply State.setReg_kept | with_reducible apply kept_ite
    | with_reducible apply keptF_self | split | dsimp only [kept_mk]

theorem State.markLine_kept {o : State} {x0 : State} {x1 : Nat} {x2 : Bool} {x3 : Bool} (h : Kept o x0) :
    Kept o (State.markLine x0 x1 x2 x3) := by
  unfold State.markLine
  repeat' first
    | with_reducible assumption | extract_lets | intro _ | with_reducible apply kept_ite | with_reducible apply keptF_self | split
    | dsimp only [kept_mk]

theorem State.dramPiece_kept {o : State} {x0 : Bool} {x1 : Nat × List Byte} {x2 : State} (h : Kept o x2) :
    Kept o (State.dramPiece x0 x1 x2) := by
  unfold State.dramPiece
  repeat' first
    | with_reducible assumption | extract_lets | intro _ | with_reducible exact kept_of_snd ‹_› ‹_› | with_reducible apply State.markLine_kept
    | with_reducible apply kept_each | with_reducible apply kept_ite | with_reducible apply kept_ite_snd2 | with_reducible apply kept_ite_snd
    | with_reducible apply keptF_self | with_reducible apply keptF_put | with_reducible apply keptF_sput | with_reducible apply keptF_sputs
    | with_reducible apply keptF_zero | with_reducible apply keptF_nil | with_reducible apply keptF_filter | with_reducible apply kept_foldl_snd
    | with_reducible apply kept_foldl | with_reducible refine kept_of_snd ‹_› ?_ | split | dsimp only [kept_mk] | dsimp +zetaDelta only [kept_mk]

theorem State.dramWrite_kept {o : State} {x0 : State} {x1 : Nat} {x2 : List Byte} {x3 : Bool} (h : Kept o x0) :
    Kept o (State.dramWrite x0 x1 x2 x3) := by
  unfold State.dramWrite
  repeat' first
    | with_reducible assumption | extract_lets | intro _ | with_reducible exact kept_of_snd ‹_› ‹_› | with_reducible apply State.dramPiece_kept
    | with_reducible apply kept_each | with_reducible apply kept_ite | with_reducible apply kept_ite_snd2 | with_reducible apply kept_ite_snd
    | with_reducible apply keptF_self | with_reducible apply keptF_put | with_reducible apply keptF_sput | with_reducible apply keptF_sputs
    | with_reducible apply keptF_zero | with_reducible apply keptF_nil | with_reducible apply keptF_filter | with_reducible apply kept_foldl_snd
    | with_reducible apply kept_foldl | with_reducible refine kept_of_snd ‹_› ?_ | split | dsimp only [kept_mk] | dsimp +zetaDelta only [kept_mk]

theorem State.setFld_kept {o : State} {x0 : State} {x1 : Nat} {x2 : Nat} {x3 : Nat} {x4 : Nat} (h : Kept o x0) :
    Kept o (State.setFld x0 x1 x2 x3 x4) := by
  unfold State.setFld
  repeat' first
    | with_reducible assumption | with_reducible apply State.setReg_kept | dsimp only

theorem State.bump_kept {o : State} {x0 : State} {x1 : Nat} {x2 : Nat} {x3 : Nat} (h : Kept o x0) :
    Kept o (State.bump x0 x1 x2 x3) := by
  unfold State.bump
  repeat' first
    | with_reducible assumption | with_reducible apply State.setFld_kept | dsimp only

theorem State.addReg_kept {o : State} {x0 : State} {x1 : Nat} {x2 : Nat} (h : Kept o x0) :
    Kept o (State.addReg x0 x1 x2) := by
  unfold State.addReg
  repeat' first
    | with_reducible assumption | with_reducible apply State.setReg_kept | dsimp only

theorem State.subReg_kept {o : State} {x0 : State} {x1 : Nat} {x2 : Nat} (h : Kept o x0) :
    Kept o (State.subReg x0 x1 x2) := by
  unfold State.subReg
  repeat' first
    | with_reducible assumption | with_reducible apply State.setReg_kept | dsimp only

theorem State.setShadow_kept {o : State} {x0 : State} {x1 : Nat} {x2 : Word} (h : Kept o x0) :
    Kept o (State.setShadow x0 x1 x2) := by
  unfold State.setShadow
  repeat' first
    | with_reducible assumption | extract_lets | intro _ | with_reducible apply kept_ite | with_reducible apply keptF_self | split
    | dsimp only [kept_mk]

theorem State.tick_kept {o : State} {x0 : State} {x1 : Nat} {x2 : Nat} (h : Kept o x0) :
    Kept o (State.tick x0 x1 x2) := by
  unfold State.tick
  repeat' first
    | with_reducible assumption | extract_lets | intro _ | with_reducible apply State.addReg_kept | with_reducible apply State.setReg_kept
    | with_reducible apply kept_ite | with_reducible apply keptF_self | split | dsimp only [kept_mk]

theorem State.setBit_kept {o : State} {x0 : State} {x1 : Nat} {x2 : Nat} {x3 : Bool} (h : Kept o x0) :
    Kept o (State.setBit x0 x1 x2 x3) := by
  unfold State.setBit
  repeat' first
    | with_reducible assumption | with_reducible apply State.setReg_kept | dsimp only

theorem State.raiseEvent_kept {o : State} {x0 : State} {x1 : Nat} (h : Kept o x0) :
    Kept o (State.raiseEvent x0 x1) := by
  unfold State.raiseEvent
  repeat' first
    | with_reducible assumption | extract_lets | intro _ | with_reducible apply kept_ite | with_reducible apply keptF_self | split
    | dsimp only [kept_mk]

theorem State.modJob_kept {o : State} {x0 : State} {x1 : NHdr} {x2 : Job → Job} (h : Kept o x0) :
    Kept o (State.modJob x0 x1 x2) := by
  unfold State.modJob
  repeat' first
    | with_reducible assumption | extract_lets | intro _ | with_reducible apply kept_ite | with_reducible apply keptF_self | split
    | dsimp only [kept_mk]

theorem State.ok_kept {o : State} {x0 : State} {x1 : NHdr} {x2 : Nat} {x3 : Nat} {x4 : List Byte} (h : Kept o x0) :
    Kept o (State.ok x0 x1 x2 x3 x4) := by
  unfold State.ok
  repeat' first
    | with_reducible assumption | with_reducible apply State.complete_kept | dsimp only

theorem State.countViolation_kept {o : State} {x0 : State} (h : Kept o x0) :
    Kept o (State.countViolation x0) := by
  unfold State.countViolation
  repeat' first
    | with_reducible assumption | with_reducible apply State.addReg_kept | dsimp only

theorem State.setLevel_kept {o : State} {x0 : State} {x1 : Nat} {x2 : Bool} (h : Kept o x0) :
    Kept o (State.setLevel x0 x1 x2) := by
  unfold State.setLevel
  repeat' first
    | with_reducible assumption | with_reducible apply State.setBit_kept | dsimp only

theorem State.wakeHeld_kept {o : State} {x0 : State} (h : Kept o x0) :
    Kept o (State.wakeHeld x0) := by
  unfold State.wakeHeld
  repeat' first
    | with_reducible assumption | extract_lets | intro _ | with_reducible exact kept_of_snd ‹_› ‹_› | with_reducible apply State.setBit_kept
    | with_reducible apply kept_each | with_reducible apply kept_ite | with_reducible apply kept_ite_snd2 | with_reducible apply kept_ite_snd
    | with_reducible apply keptF_self | with_reducible apply keptF_put | with_reducible apply keptF_sput | with_reducible apply keptF_sputs
    | with_reducible apply keptF_zero | with_reducible apply keptF_nil | with_reducible apply keptF_filter | with_reducible apply kept_foldl_snd
    | with_reducible apply kept_foldl | with_reducible refine kept_of_snd ‹_› ?_ | split | dsimp only [kept_mk] | dsimp +zetaDelta only [kept_mk]

theorem State.setPend_kept {o : State} {x0 : State} {x1 : Nat} {x2 : Bool} (h : Kept o x0) :
    Kept o (State.setPend x0 x1 x2) := by
  unfold State.setPend
  repeat' first
    | with_reducible assumption | with_reducible apply State.setBit_kept | dsimp only

theorem State.fire_kept {o : State} {x0 : State} {x1 : Nat} (h : Kept o x0) :
    Kept o (State.fire x0 x1) := by
  unfold State.fire
  repeat' first
    | with_reducible assumption | extract_lets | intro _ | with_reducible apply State.setLevel_kept | with_reducible apply State.wakeHeld_kept
    | with_reducible apply State.setPend_kept | with_reducible apply kept_ite | with_reducible apply keptF_self | split | dsimp only [kept_mk]

theorem State.capture_kept {o : State} {x0 : State} {x1 : FaultUnit} {x2 : Nat} {x3 : Nat} {x4 : Nat} {x5 : Nat} (h : Kept o x0) :
    Kept o (State.capture x0 x1 x2 x3 x4 x5) := by
  unfold State.capture
  repeat' first
    | with_reducible assumption | extract_lets | intro _ | with_reducible apply State.setReg_kept | with_reducible apply kept_ite
    | with_reducible apply keptF_self | split | dsimp only [kept_mk]

theorem State.setFault_kept {o : State} {x0 : State} {x1 : FaultUnit} {x2 : Nat} {x3 : Nat} {x4 : Nat} {x5 : Nat} (h : Kept o x0) :
    Kept o (State.setFault x0 x1 x2 x3 x4 x5) := by
  unfold State.setFault
  repeat' first
    | with_reducible assumption | extract_lets | intro _ | with_reducible apply State.setReg_kept | with_reducible apply State.capture_kept
    | with_reducible apply State.raiseEvent_kept | with_reducible apply State.setBit_kept | with_reducible apply kept_ite
    | with_reducible apply keptF_self | split | dsimp only [kept_mk]

theorem State.raise_kept {o : State} {x0 : State} {x1 : FaultUnit} {x2 : Nat} {x3 : Nat} {x4 : Nat} (h : Kept o x0) :
    Kept o (State.raise x0 x1 x2 x3 x4) := by
  unfold State.raise
  repeat' first
    | with_reducible assumption | extract_lets | intro _ | with_reducible exact kept_of_snd ‹_› ‹_› | with_reducible apply State.fire_kept
    | with_reducible apply State.setFault_kept | with_reducible apply kept_each | with_reducible apply kept_ite | with_reducible apply kept_ite_snd2
    | with_reducible apply kept_ite_snd | with_reducible apply keptF_self | with_reducible apply keptF_put | with_reducible apply keptF_sput
    | with_reducible apply keptF_sputs | with_reducible apply keptF_zero | with_reducible apply keptF_nil | with_reducible apply keptF_filter
    | with_reducible apply kept_foldl_snd | with_reducible apply kept_foldl | with_reducible refine kept_of_snd ‹_› ?_ | split | dsimp only [kept_mk]
    | dsimp +zetaDelta only [kept_mk]

theorem State.poisonJob_kept {o : State} {x0 : State} {x1 : Nat} (h : Kept o x0) :
    Kept o (State.poisonJob x0 x1) := by
  unfold State.poisonJob
  repeat' first
    | with_reducible assumption | extract_lets | intro _ | with_reducible apply State.modJob_kept | with_reducible apply kept_ite
    | with_reducible apply keptF_self | split | dsimp only [kept_mk]

theorem State.coreFault_kept {o : State} {x0 : State} {x1 : Nat} {x2 : CoreUnit} {x3 : Nat} {x4 : Nat} {x5 : Nat} (h : Kept o x0) :
    Kept o (State.coreFault x0 x1 x2 x3 x4 x5) := by
  unfold State.coreFault
  repeat' first
    | with_reducible assumption | extract_lets | intro _ | with_reducible apply State.raise_kept | with_reducible apply State.poisonJob_kept
    | with_reducible apply kept_ite | with_reducible apply keptF_self | split | dsimp only [kept_mk]

theorem State.violate_kept {o : State} {x0 : State} {x1 : Nat} {x2 : CoreUnit} {x3 : Nat} {x4 : Nat} (h : Kept o x0) :
    Kept o (State.violate x0 x1 x2 x3 x4) := by
  unfold State.violate
  repeat' first
    | with_reducible assumption | with_reducible apply State.countViolation_kept | with_reducible apply State.addReg_kept
    | with_reducible apply State.coreFault_kept | dsimp only

theorem State.seqViolate_kept {o : State} {x0 : State} {x1 : Nat} {x2 : Nat} {x3 : Nat} (h : Kept o x0) :
    Kept o (State.seqViolate x0 x1 x2 x3) := by
  unfold State.seqViolate
  repeat' first
    | with_reducible assumption | with_reducible apply State.countViolation_kept | with_reducible apply State.addReg_kept
    | with_reducible apply State.coreFault_kept | dsimp only

theorem State.unfire_kept {o : State} {x0 : State} {x1 : Nat} (h : Kept o x0) : Kept o (State.unfire x0 x1) := by
  unfold State.unfire
  extract_lets s1 s2 b s3
  have h1 : Kept o s1 := State.setLevel_kept h
  have h3 : Kept o s3 := kept_upd (s := s2) rfl rfl rfl rfl (State.setPend_kept h1)
  split
  · exact State.addReg_kept (State.setFault_kept h3)
  · exact h1

theorem State.clearFault_kept {o : State} {x0 : State} {x1 : FaultUnit} {x2 : Word} (h : Kept o x0) :
    Kept o (State.clearFault x0 x1 x2) := by
  unfold State.clearFault
  repeat' first
    | with_reducible assumption | extract_lets | intro _ | with_reducible exact kept_of_snd ‹_› ‹_› | with_reducible apply State.setReg_kept
    | with_reducible apply State.unfire_kept | with_reducible apply kept_each | with_reducible apply kept_ite | with_reducible apply kept_ite_snd2
    | with_reducible apply kept_ite_snd | with_reducible apply keptF_self | with_reducible apply keptF_put | with_reducible apply keptF_sput
    | with_reducible apply keptF_sputs | with_reducible apply keptF_zero | with_reducible apply keptF_nil | with_reducible apply keptF_filter
    | with_reducible apply kept_foldl_snd | with_reducible apply kept_foldl | with_reducible refine kept_of_snd ‹_› ?_ | split | dsimp only [kept_mk]
    | dsimp +zetaDelta only [kept_mk]

theorem State.devFault_kept {o : State} {x0 : State} {x1 : Nat} {x2 : Nat} (h : Kept o x0) :
    Kept o (State.devFault x0 x1 x2) := by
  unfold State.devFault
  repeat' first
    | with_reducible assumption | with_reducible apply State.countViolation_kept | with_reducible apply State.raise_kept | dsimp only

theorem State.memViolation_kept {o : State} {x0 : State} {x1 : Nat} (h : Kept o x0) :
    Kept o (State.memViolation x0 x1) := by
  unfold State.memViolation
  repeat' first
    | with_reducible assumption | with_reducible apply State.addReg_kept | with_reducible apply State.raise_kept | dsimp only

theorem State.setActive_kept {o : State} {x0 : State} {x1 : Nat} {x2 : Bool} (h : Kept o x0) :
    Kept o (State.setActive x0 x1 x2) := by
  unfold State.setActive
  repeat' first
    | with_reducible assumption | with_reducible apply State.setBit_kept | dsimp only

theorem State.hostViolation_kept {o : State} {x0 : State} {x1 : Nat} {x2 : Nat} {x3 : Nat} (h : Kept o x0) :
    Kept o (State.hostViolation x0 x1 x2 x3) := by
  unfold State.hostViolation
  repeat' first
    | with_reducible assumption | with_reducible apply State.countViolation_kept | with_reducible apply State.addReg_kept
    | with_reducible apply State.raise_kept | dsimp only

theorem State.badAccess_kept {o : State} {x0 : State} {x1 : Nat} {x2 : CoreUnit} {x3 : Nat} {x4 : Nat} (h : Kept o x0) :
    Kept o (State.badAccess x0 x1 x2 x3 x4) := by
  unfold State.badAccess
  repeat' first
    | with_reducible assumption | with_reducible apply State.memViolation_kept | with_reducible apply State.violate_kept | dsimp only

theorem State.residueHits_kept {o : State} {x0 : State} {x1 : Nat} {x2 : Nat} (h : Kept o x0) :
    Kept o (State.residueHits x0 x1 x2) := by
  unfold State.residueHits
  repeat' first
    | with_reducible assumption | extract_lets | intro _ | with_reducible apply State.addReg_kept | with_reducible apply State.setBit_kept
    | with_reducible apply kept_ite | with_reducible apply keptF_self | split | dsimp only [kept_mk]

theorem State.raiseStanding_kept {o : State} {x0 : State} {x1 : FaultUnit} {x2 : Nat} {x3 : Nat} (h : Kept o x0) :
    Kept o (State.raiseStanding x0 x1 x2 x3) := by
  unfold State.raiseStanding
  repeat' first
    | with_reducible assumption | extract_lets | intro _ | with_reducible apply State.raise_kept | with_reducible apply kept_ite
    | with_reducible apply keptF_self | split | dsimp only [kept_mk]

theorem State.checkWord_kept {o : State} {x0 : Nat} {x1 : Injection} {x2 : State} (h : Kept o x2) :
    Kept o (State.checkWord x0 x1 x2) := by
  unfold State.checkWord
  repeat' first
    | with_reducible assumption | extract_lets | intro _ | with_reducible apply State.coreFault_kept | with_reducible apply State.markLine_kept
    | with_reducible apply kept_ite | with_reducible apply keptF_self | split | dsimp only [kept_mk]

theorem State.sramCheck_kept {o : State} {x0 : State} {x1 : Nat} {x2 : Nat} {x3 : Nat} (h : Kept o x0) :
    Kept o (State.sramCheck x0 x1 x2 x3) := by
  unfold State.sramCheck
  repeat' first
    | with_reducible assumption | extract_lets | intro _ | with_reducible exact kept_of_snd ‹_› ‹_› | with_reducible apply State.checkWord_kept
    | with_reducible apply kept_each | with_reducible apply kept_ite | with_reducible apply kept_ite_snd2 | with_reducible apply kept_ite_snd
    | with_reducible apply keptF_self | with_reducible apply keptF_put | with_reducible apply keptF_sput | with_reducible apply keptF_sputs
    | with_reducible apply keptF_zero | with_reducible apply keptF_nil | with_reducible apply keptF_filter | with_reducible apply kept_foldl_snd
    | with_reducible apply kept_foldl | with_reducible refine kept_of_snd ‹_› ?_ | split | dsimp only [kept_mk] | dsimp +zetaDelta only [kept_mk]

theorem State.validate_kept {o : State} {x0 : State} {x1 : Nat} (h : Kept o x0) :
    Kept o (State.validate x0 x1) := by
  unfold State.validate
  repeat' first
    | with_reducible assumption | extract_lets | intro _ | with_reducible apply kept_ite | with_reducible apply keptF_self | split
    | dsimp only [kept_mk]

theorem State.remapWord_kept {o : State} {x0 : State} {x1 : Nat} {x2 : Nat} (h : Kept o x0) :
    Kept o (State.remapWord x0 x1 x2) := by
  unfold State.remapWord
  repeat' first
    | with_reducible assumption | extract_lets | intro _ | with_reducible apply State.modCore_kept | with_reducible apply State.setFld_kept
    | with_reducible apply State.coreFault_kept | with_reducible apply kept_ite | with_reducible apply keptF_self | split | dsimp only [kept_mk]

theorem State.putPlain_kept {o : State} {x0 : State} {x1 : Nat} {x2 : Nat} {x3 : List Byte} (h : Kept o x0) :
    Kept o (State.putPlain x0 x1 x2 x3) := by
  unfold State.putPlain
  repeat' first
    | with_reducible assumption | extract_lets | intro _ | with_reducible exact kept_of_snd ‹_› ‹_› | with_reducible apply State.modCore_kept
    | with_reducible apply State.remapWord_kept | with_reducible apply kept_each | with_reducible apply kept_ite | with_reducible apply kept_ite_snd2
    | with_reducible apply kept_ite_snd | with_reducible apply keptF_self | with_reducible apply keptF_put | with_reducible apply keptF_sput
    | with_reducible apply keptF_sputs | with_reducible apply keptF_zero | with_reducible apply keptF_nil | with_reducible apply keptF_filter
    | with_reducible apply kept_foldl_snd | with_reducible apply kept_foldl | with_reducible refine kept_of_snd ‹_› ?_ | split | dsimp only [kept_mk]
    | dsimp +zetaDelta only [kept_mk]

theorem State.dropEntry_kept {o : State} {x0 : State} {x1 : Nat} {x2 : Nat} (h : Kept o x0) :
    Kept o (State.dropEntry x0 x1 x2) := by
  unfold State.dropEntry
  repeat' first
    | with_reducible assumption | with_reducible apply State.modCore_kept | dsimp only

theorem State.retirePlain_kept {o : State} {x0 : Nat} {x1 : MergeEntry} {x2 : State} (h : Kept o x2) :
    Kept o (State.retirePlain x0 x1 x2) := by
  unfold State.retirePlain
  repeat' first
    | with_reducible assumption | with_reducible apply State.dropEntry_kept | with_reducible apply State.putPlain_kept
    | with_reducible apply State.sramCheck_kept | dsimp only

theorem State.putWord_kept {o : State} {x0 : State} {x1 : Nat} {x2 : Nat} {x3 : List Byte} (h : Kept o x0) :
    Kept o (State.putWord x0 x1 x2 x3) := by
  unfold State.putWord
  repeat' first
    | with_reducible assumption | extract_lets | intro _ | with_reducible exact kept_of_snd ‹_› ‹_› | with_reducible apply State.putPlain_kept
    | with_reducible apply State.retirePlain_kept | with_reducible apply State.modCore_kept | with_reducible apply State.setFld_kept
    | with_reducible apply kept_each | with_reducible apply kept_ite | with_reducible apply kept_ite_snd2 | with_reducible apply kept_ite_snd
    | with_reducible apply keptF_self | with_reducible apply keptF_put | with_reducible apply keptF_sput | with_reducible apply keptF_sputs
    | with_reducible apply keptF_zero | with_reducible apply keptF_nil | with_reducible apply keptF_filter | with_reducible apply kept_foldl_snd
    | with_reducible apply kept_foldl | with_reducible refine kept_of_snd ‹_› ?_ | split | dsimp only [kept_mk] | dsimp +zetaDelta only [kept_mk]

theorem State.retireEntry_kept {o : State} {x0 : Nat} {x1 : MergeEntry} {x2 : State} (h : Kept o x2) :
    Kept o (State.retireEntry x0 x1 x2) := by
  unfold State.retireEntry
  repeat' first
    | with_reducible assumption | extract_lets | intro _ | with_reducible apply State.sramCheck_kept | with_reducible apply State.dropEntry_kept
    | with_reducible apply State.putWord_kept | with_reducible apply kept_ite | with_reducible apply keptF_self | split | dsimp only [kept_mk]

theorem State.narrowWrite_kept {o : State} {x0 : State} {x1 : Nat} {x2 : Nat} {x3 : List Byte} (h : Kept o x0) :
    Kept o (State.narrowWrite x0 x1 x2 x3) := by
  unfold State.narrowWrite
  repeat' first
    | with_reducible assumption | extract_lets | intro _ | with_reducible exact kept_of_snd ‹_› ‹_› | with_reducible apply State.retireEntry_kept
    | with_reducible apply State.setCore_kept | with_reducible apply kept_each | with_reducible apply kept_ite | with_reducible apply kept_ite_snd2
    | with_reducible apply kept_ite_snd | with_reducible apply keptF_self | with_reducible apply keptF_put | with_reducible apply keptF_sput
    | with_reducible apply keptF_sputs | with_reducible apply keptF_zero | with_reducible apply keptF_nil | with_reducible apply keptF_filter
    | with_reducible apply kept_foldl_snd | with_reducible apply kept_foldl | with_reducible refine kept_of_snd ‹_› ?_ | split | dsimp only [kept_mk]
    | dsimp +zetaDelta only [kept_mk]

theorem State.sramWord_kept {o : State} {x0 : Nat} {x1 : Nat × List Byte} {x2 : State} (h : Kept o x2) :
    Kept o (State.sramWord x0 x1 x2) := by
  unfold State.sramWord
  repeat' first
    | with_reducible assumption | extract_lets | intro _ | with_reducible apply State.putWord_kept | with_reducible apply State.dropEntry_kept
    | with_reducible apply State.narrowWrite_kept | with_reducible apply kept_ite | with_reducible apply keptF_self | split | dsimp only [kept_mk]

theorem State.sramPiece_kept {o : State} {x0 : Nat} {x1 : Bool} {x2 : Nat × List Byte} {x3 : State} (h : Kept o x3) :
    Kept o (State.sramPiece x0 x1 x2 x3) := by
  unfold State.sramPiece
  repeat' first
    | with_reducible assumption | extract_lets | intro _ | with_reducible exact kept_of_snd ‹_› ‹_› | with_reducible apply State.markLine_kept
    | with_reducible apply State.validate_kept | with_reducible apply State.sramWord_kept | with_reducible apply kept_each
    | with_reducible apply kept_ite | with_reducible apply kept_ite_snd2 | with_reducible apply kept_ite_snd | with_reducible apply keptF_self
    | with_reducible apply keptF_put | with_reducible apply keptF_sput | with_reducible apply keptF_sputs | with_reducible apply keptF_zero
    | with_reducible apply keptF_nil | with_reducible apply keptF_filter | with_reducible apply kept_foldl_snd | with_reducible apply kept_foldl
    | with_reducible refine kept_of_snd ‹_› ?_ | split | dsimp only [kept_mk] | dsimp +zetaDelta only [kept_mk]

theorem State.sramWrite_kept {o : State} {x0 : State} {x1 : Nat} {x2 : Nat} {x3 : List Byte} {x4 : Bool} (h : Kept o x0) :
    Kept o (State.sramWrite x0 x1 x2 x3 x4) := by
  unfold State.sramWrite
  repeat' first
    | with_reducible assumption | extract_lets | intro _ | with_reducible exact kept_of_snd ‹_› ‹_› | with_reducible apply State.sramPiece_kept
    | with_reducible apply kept_each | with_reducible apply kept_ite | with_reducible apply kept_ite_snd2 | with_reducible apply kept_ite_snd
    | with_reducible apply keptF_self | with_reducible apply keptF_put | with_reducible apply keptF_sput | with_reducible apply keptF_sputs
    | with_reducible apply keptF_zero | with_reducible apply keptF_nil | with_reducible apply keptF_filter | with_reducible apply kept_foldl_snd
    | with_reducible apply kept_foldl | with_reducible refine kept_of_snd ‹_› ?_ | split | dsimp only [kept_mk] | dsimp +zetaDelta only [kept_mk]

theorem State.modHub_kept {o : State} {x0 : State} {x1 : HubSram → HubSram} (h : Kept o x0) :
    Kept o (State.modHub x0 x1) := by
  unfold State.modHub
  repeat' first
    | with_reducible assumption | extract_lets | intro _ | with_reducible apply kept_ite | with_reducible apply keptF_self | split
    | dsimp only [kept_mk]

theorem State.hubFault_kept {o : State} {x0 : State} {x1 : Nat} {x2 : Nat} (h : Kept o x0) :
    Kept o (State.hubFault x0 x1 x2) := by
  unfold State.hubFault
  repeat' first
    | with_reducible assumption | with_reducible apply State.raise_kept | dsimp only

theorem State.hubRemap_kept {o : State} {x0 : State} {x1 : Nat} (h : Kept o x0) :
    Kept o (State.hubRemap x0 x1) := by
  unfold State.hubRemap
  repeat' first
    | with_reducible assumption | extract_lets | intro _ | with_reducible apply State.modHub_kept | with_reducible apply State.hubFault_kept
    | with_reducible apply State.setFld_kept | with_reducible apply kept_ite | with_reducible apply keptF_self | split | dsimp only [kept_mk]

theorem State.hubFound_kept {o : State} {x0 : State} {x1 : Nat} {x2 : LineOutcome} (h : Kept o x0) :
    Kept o (State.hubFound x0 x1 x2) := by
  unfold State.hubFound
  repeat' first
    | with_reducible assumption | extract_lets | intro _ | with_reducible apply State.addReg_kept | with_reducible apply State.hubRemap_kept
    | with_reducible apply State.modHub_kept | with_reducible apply State.hubFault_kept | with_reducible apply kept_ite
    | with_reducible apply keptF_self | split | dsimp only [kept_mk]

theorem State.wordCorrected_kept {o : State} {x0 : State} {x1 : Nat} {x2 : Nat} (h : Kept o x0) :
    Kept o (State.wordCorrected x0 x1 x2) := by
  unfold State.wordCorrected
  repeat' first
    | with_reducible assumption | extract_lets | intro _ | with_reducible apply State.addReg_kept | with_reducible apply State.remapWord_kept
    | with_reducible apply State.modCore_kept | with_reducible apply kept_ite | with_reducible apply keptF_self | split | dsimp only [kept_mk]

theorem State.wordLost_kept {o : State} {x0 : State} {x1 : Nat} {x2 : Nat} (h : Kept o x0) :
    Kept o (State.wordLost x0 x1 x2) := by
  unfold State.wordLost
  repeat' first
    | with_reducible assumption | with_reducible apply State.markLine_kept | with_reducible apply State.addReg_kept
    | with_reducible apply State.coreFault_kept | with_reducible apply State.modCore_kept | dsimp only

theorem State.hubCheck_kept {o : State} {x0 : Injection} {x1 : State} (h : Kept o x1) :
    Kept o (State.hubCheck x0 x1) := by
  unfold State.hubCheck
  repeat' first
    | with_reducible assumption | extract_lets | intro _ | with_reducible apply State.hubFault_kept | with_reducible apply State.modHub_kept
    | with_reducible apply kept_ite | with_reducible apply keptF_self | split | dsimp only [kept_mk]

theorem State.wordRead_kept {o : State} {x0 : State} {x1 : Nat} {x2 : Nat} {x3 : LineOutcome} (h : Kept o x0) :
    Kept o (State.wordRead x0 x1 x2 x3) := by
  unfold State.wordRead
  repeat' first
    | with_reducible assumption | extract_lets | intro _ | with_reducible apply State.wordCorrected_kept | with_reducible apply State.wordLost_kept
    | with_reducible apply kept_ite | with_reducible apply keptF_self | split | dsimp only [kept_mk]

theorem State.emptyMerge_kept {o : State} {x0 : State} {x1 : Nat} (h : Kept o x0) :
    Kept o (State.emptyMerge x0 x1) := by
  unfold State.emptyMerge
  repeat' first
    | with_reducible assumption | extract_lets | intro _ | with_reducible exact kept_of_snd ‹_› ‹_› | with_reducible apply State.retireEntry_kept
    | with_reducible apply kept_each | with_reducible apply kept_ite | with_reducible apply kept_ite_snd2 | with_reducible apply kept_ite_snd
    | with_reducible apply keptF_self | with_reducible apply keptF_put | with_reducible apply keptF_sput | with_reducible apply keptF_sputs
    | with_reducible apply keptF_zero | with_reducible apply keptF_nil | with_reducible apply keptF_filter | with_reducible apply kept_foldl_snd
    | with_reducible apply kept_foldl | with_reducible refine kept_of_snd ‹_› ?_ | split | dsimp only [kept_mk] | dsimp +zetaDelta only [kept_mk]

theorem State.clearValid_kept {o : State} {x0 : State} {x1 : Nat} (h : Kept o x0) :
    Kept o (State.clearValid x0 x1) := by
  unfold State.clearValid
  repeat' first
    | with_reducible assumption | extract_lets | intro _ | with_reducible exact kept_of_snd ‹_› ‹_› | with_reducible apply State.emptyMerge_kept
    | with_reducible apply State.modCore_kept | with_reducible apply kept_each | with_reducible apply kept_ite | with_reducible apply kept_ite_snd2
    | with_reducible apply kept_ite_snd | with_reducible apply keptF_self | with_reducible apply keptF_put | with_reducible apply keptF_sput
    | with_reducible apply keptF_sputs | with_reducible apply keptF_zero | with_reducible apply keptF_nil | with_reducible apply keptF_filter
    | with_reducible apply kept_foldl_snd | with_reducible apply kept_foldl | with_reducible refine kept_of_snd ‹_› ?_ | split | dsimp only [kept_mk]
    | dsimp +zetaDelta only [kept_mk]

theorem State.hubPut_kept {o : State} {x0 : Nat} {x1 : State} (h : Kept o x1) :
    Kept o (State.hubPut x0 x1) := by
  unfold State.hubPut
  repeat' first
    | with_reducible assumption | extract_lets | intro _ | with_reducible apply State.modHub_kept | with_reducible apply State.hubRemap_kept
    | with_reducible apply State.setFld_kept | with_reducible apply kept_ite | with_reducible apply keptF_self | split | dsimp only [kept_mk]

theorem State.hubWrite_kept {o : State} {x0 : State} {x1 : Nat} {x2 : Nat} (h : Kept o x0) :
    Kept o (State.hubWrite x0 x1 x2) := by
  unfold State.hubWrite
  repeat' first
    | with_reducible assumption | extract_lets | intro _ | with_reducible exact kept_of_snd ‹_› ‹_› | with_reducible apply State.modHub_kept
    | with_reducible apply State.hubPut_kept | with_reducible apply kept_each | with_reducible apply kept_ite | with_reducible apply kept_ite_snd2
    | with_reducible apply kept_ite_snd | with_reducible apply keptF_self | with_reducible apply keptF_put | with_reducible apply keptF_sput
    | with_reducible apply keptF_sputs | with_reducible apply keptF_zero | with_reducible apply keptF_nil | with_reducible apply keptF_filter
    | with_reducible apply kept_foldl_snd | with_reducible apply kept_foldl | with_reducible refine kept_of_snd ‹_› ?_ | split | dsimp only [kept_mk]
    | dsimp +zetaDelta only [kept_mk]

theorem State.hubRead_kept {o : State} {x0 : State} {x1 : Nat} {x2 : Nat} (h : Kept o x0) :
    Kept o (State.hubRead x0 x1 x2) := by
  unfold State.hubRead
  repeat' first
    | with_reducible assumption | extract_lets | intro _ | with_reducible exact kept_of_snd ‹_› ‹_› | with_reducible apply State.hubCheck_kept
    | with_reducible apply kept_each | with_reducible apply kept_ite | with_reducible apply kept_ite_snd2 | with_reducible apply kept_ite_snd
    | with_reducible apply keptF_self | with_reducible apply keptF_put | with_reducible apply keptF_sput | with_reducible apply keptF_sputs
    | with_reducible apply keptF_zero | with_reducible apply keptF_nil | with_reducible apply keptF_filter | with_reducible apply kept_foldl_snd
    | with_reducible apply kept_foldl | with_reducible refine kept_of_snd ‹_› ?_ | split | dsimp only [kept_mk] | dsimp +zetaDelta only [kept_mk]

theorem State.addRemaining_kept {o : State} {x0 : State} {x1 : Nat} {x2 : Int} (h : Kept o x0) :
    Kept o (State.addRemaining x0 x1 x2) := by
  unfold State.addRemaining
  repeat' first
    | with_reducible assumption | with_reducible apply State.setReg_kept | dsimp only

theorem State.spend_kept {o : State} {x0 : State} {x1 : Nat} {x2 : Option NHdr} {x3 : Nat} (h : Kept o x0) :
    Kept o (State.spend x0 x1 x2 x3) := by
  unfold State.spend
  repeat' first
    | with_reducible assumption | extract_lets | intro _ | with_reducible exact kept_of_snd ‹_› ‹_› | with_reducible apply State.modJob_kept
    | with_reducible apply State.subReg_kept | with_reducible apply State.addRemaining_kept | with_reducible apply State.tick_kept
    | with_reducible apply State.addReg_kept | with_reducible apply kept_each | with_reducible apply kept_ite | with_reducible apply kept_ite_snd2
    | with_reducible apply kept_ite_snd | with_reducible apply keptF_self | with_reducible apply keptF_put | with_reducible apply keptF_sput
    | with_reducible apply keptF_sputs | with_reducible apply keptF_zero | with_reducible apply keptF_nil | with_reducible apply keptF_filter
    | with_reducible apply kept_foldl_snd | with_reducible apply kept_foldl | with_reducible refine kept_of_snd ‹_› ?_ | split | dsimp only [kept_mk]
    | dsimp +zetaDelta only [kept_mk]

theorem State.chargeFj_kept {o : State} {x0 : State} {x1 : Nat} {x2 : Option NHdr} {x3 : Nat} (h : Kept o x0) :
    Kept o (State.chargeFj x0 x1 x2 x3) := by
  unfold State.chargeFj
  repeat' first
    | with_reducible assumption | extract_lets | intro _ | with_reducible exact kept_of_snd ‹_› ‹_› | with_reducible apply State.spend_kept
    | with_reducible apply State.setFld_kept | with_reducible apply kept_each | with_reducible apply kept_ite | with_reducible apply kept_ite_snd2
    | with_reducible apply kept_ite_snd | with_reducible apply keptF_self | with_reducible apply keptF_put | with_reducible apply keptF_sput
    | with_reducible apply keptF_sputs | with_reducible apply keptF_zero | with_reducible apply keptF_nil | with_reducible apply keptF_filter
    | with_reducible apply kept_foldl_snd | with_reducible apply kept_foldl | with_reducible refine kept_of_snd ‹_› ?_ | split | dsimp only [kept_mk]
    | dsimp +zetaDelta only [kept_mk]

theorem State.charge_kept {o : State} {x0 : State} {x1 : Nat} {x2 : Option NHdr} {x3 : Nat} {x4 : Nat} (h : Kept o x0) :
    Kept o (State.charge x0 x1 x2 x3 x4) := by
  unfold State.charge
  repeat' first
    | with_reducible assumption | with_reducible apply State.chargeFj_kept | with_reducible apply State.spend_kept
    | with_reducible apply State.setFld_kept | dsimp only

theorem State.chargeHouse_kept {o : State} {x0 : State} {x1 : Nat} {x2 : Nat} (h : Kept o x0) :
    Kept o (State.chargeHouse x0 x1 x2) := by
  unfold State.chargeHouse
  repeat' first
    | with_reducible assumption | with_reducible apply State.charge_kept | dsimp only

theorem State.reserve_kept {o : State} {x0 : State} {x1 : Nat} {x2 : Nat} (h : Kept o x0) :
    Kept o (State.reserve x0 x1 x2) := by
  unfold State.reserve
  repeat' first
    | with_reducible assumption | extract_lets | intro _ | with_reducible apply State.tick_kept | with_reducible apply State.addReg_kept
    | with_reducible apply State.addRemaining_kept | with_reducible apply kept_ite | with_reducible apply keptF_self | split | dsimp only [kept_mk]

theorem State.chargeCore_kept {o : State} {x0 : State} {x1 : Nat} {x2 : Nat} {x3 : Nat} (h : Kept o x0) :
    Kept o (State.chargeCore x0 x1 x2 x3) := by
  unfold State.chargeCore
  repeat' first
    | with_reducible assumption | with_reducible apply State.charge_kept | dsimp only

theorem State.release_kept {o : State} {x0 : State} {x1 : NHdr} (h : Kept o x0) :
    Kept o (State.release x0 x1) := by
  unfold State.release
  repeat' first
    | with_reducible assumption | extract_lets | intro _ | with_reducible apply State.modJob_kept | with_reducible apply State.subReg_kept
    | with_reducible apply State.tick_kept | with_reducible apply State.addRemaining_kept | with_reducible apply kept_ite
    | with_reducible apply keptF_self | split | dsimp only [kept_mk]

theorem State.opWrite_kept {o : State} {x0 : State} {x1 : Ctx} {x2 : CoreUnit} {x3 : Nat} {x4 : List Byte} {x5 : Bool} (h : Kept o x0) :
    Kept o (State.opWrite x0 x1 x2 x3 x4 x5) := by
  unfold State.opWrite
  repeat' first
    | with_reducible assumption | extract_lets | intro _ | with_reducible exact kept_of_snd ‹_› ‹_› | with_reducible apply State.sramWrite_kept
    | with_reducible apply kept_each | with_reducible apply kept_ite | with_reducible apply kept_ite_snd2 | with_reducible apply kept_ite_snd
    | with_reducible apply keptF_self | with_reducible apply keptF_put | with_reducible apply keptF_sput | with_reducible apply keptF_sputs
    | with_reducible apply keptF_zero | with_reducible apply keptF_nil | with_reducible apply keptF_filter | with_reducible apply kept_foldl_snd
    | with_reducible apply kept_foldl | with_reducible refine kept_of_snd ‹_› ?_ | split | dsimp only [kept_mk] | dsimp +zetaDelta only [kept_mk]

theorem State.asIssued_kept {o : State} {x0 : State} {x1 : Ctx} (h : Kept o x0) :
    Kept o (State.asIssued x0 x1) := by
  unfold State.asIssued
  repeat' first
    | with_reducible assumption | extract_lets | intro _ | with_reducible exact kept_of_snd ‹_› ‹_› | with_reducible apply State.setReg_kept
    | with_reducible apply kept_each | with_reducible apply kept_ite | with_reducible apply kept_ite_snd2 | with_reducible apply kept_ite_snd
    | with_reducible apply keptF_self | with_reducible apply keptF_put | with_reducible apply keptF_sput | with_reducible apply keptF_sputs
    | with_reducible apply keptF_zero | with_reducible apply keptF_nil | with_reducible apply keptF_filter | with_reducible apply kept_foldl_snd
    | with_reducible apply kept_foldl | with_reducible refine kept_of_snd ‹_› ?_ | split | dsimp only [kept_mk] | dsimp +zetaDelta only [kept_mk]

theorem State.harnViolate_kept {o : State} {x0 : State} {x1 : Nat} (h : Kept o x0) :
    Kept o (State.harnViolate x0 x1) := by
  unfold State.harnViolate
  repeat' first
    | with_reducible assumption | with_reducible apply State.addReg_kept | with_reducible apply State.raise_kept | dsimp only

theorem State.opViolate_kept {o : State} {x0 : State} {x1 : Ctx} {x2 : CoreUnit} {x3 : Bool} (h : Kept o x0) :
    Kept o (State.opViolate x0 x1 x2 x3) := by
  unfold State.opViolate
  repeat' first
    | with_reducible assumption | extract_lets | intro _ | with_reducible apply State.violate_kept | with_reducible apply State.harnViolate_kept
    | with_reducible apply kept_ite | with_reducible apply keptF_self | split | dsimp only [kept_mk]

theorem State.operands_kept {o : State} {x0 : State} {x1 : Ctx} {x2 : CoreUnit} {x3 : List (Nat × Nat)} {x4 : List (Nat × Nat)} (h : Kept o x0) :
    Kept o (State.operands x0 x1 x2 x3 x4) := by
  unfold State.operands
  repeat' first
    | with_reducible assumption | extract_lets | intro _ | with_reducible exact kept_of_snd ‹_› ‹_› | with_reducible apply State.sramCheck_kept
    | with_reducible apply State.opViolate_kept | with_reducible apply State.chargeCore_kept | with_reducible apply kept_each
    | with_reducible apply kept_ite | with_reducible apply kept_ite_snd2 | with_reducible apply kept_ite_snd | with_reducible apply keptF_self
    | with_reducible apply keptF_put | with_reducible apply keptF_sput | with_reducible apply keptF_sputs | with_reducible apply keptF_zero
    | with_reducible apply keptF_nil | with_reducible apply keptF_filter | with_reducible apply kept_foldl_snd | with_reducible apply kept_foldl
    | with_reducible refine kept_of_snd ‹_› ?_ | split | dsimp only [kept_mk] | dsimp +zetaDelta only [kept_mk]

theorem State.signal_kept {o : State} {x0 : State} {x1 : Nat} {x2 : Nat} {x3 : Nat} {x4 : Nat} (h : Kept o x0) :
    Kept o (State.signal x0 x1 x2 x3 x4) := by
  unfold State.signal
  repeat' first
    | with_reducible assumption | extract_lets | intro _ | with_reducible apply State.setCore_kept | with_reducible apply State.tick_kept
    | with_reducible apply State.seqViolate_kept | with_reducible apply kept_ite | with_reducible apply keptF_self | split | dsimp only [kept_mk]

theorem State.signal?_kept {o : State} {x0 : State} {x1 : Nat} {x2 : Option Nat} {x3 : Nat} {x4 : Nat} (h : Kept o x0) :
    Kept o (State.signal? x0 x1 x2 x3 x4) := by
  unfold State.signal?
  repeat' first
    | with_reducible assumption | extract_lets | intro _ | with_reducible apply State.signal_kept | with_reducible apply kept_ite
    | with_reducible apply keptF_self | split | dsimp only [kept_mk]

theorem State.take_kept {o : State} {x0 : State} {x1 : Nat} {x2 : Hdr} (h : Kept o x0) :
    Kept o (State.take x0 x1 x2) := by
  unfold State.take
  repeat' first
    | with_reducible assumption | extract_lets | intro _ | with_reducible apply State.tick_kept | with_reducible apply State.setCore_kept
    | with_reducible apply kept_ite | with_reducible apply keptF_self | split | dsimp only [kept_mk]

theorem State.dramFetch_kept {o : State} {x0 : State} {x1 : Nat} {x2 : Nat} {x3 : LineOutcome} (h : Kept o x0) :
    Kept o (State.dramFetch x0 x1 x2 x3).2 := by
  unfold State.dramFetch
  repeat' first
    | with_reducible assumption | extract_lets | intro _ | with_reducible apply State.addReg_kept | with_reducible apply State.raise_kept
    | with_reducible apply kept_ite | with_reducible apply keptF_self | split | dsimp only [kept_mk]

theorem State.heatUp_kept {o : State} {x0 : State} {x1 : Nat} (h : Kept o x0) :
    Kept o (State.heatUp x0 x1) := by
  unfold State.heatUp
  repeat' first
    | with_reducible assumption | extract_lets | intro _ | with_reducible apply kept_ite | with_reducible apply keptF_self | split
    | dsimp only [kept_mk]

theorem State.winViolation_kept {o : State} {x0 : State} {x1 : Nat} (h : Kept o x0) :
    Kept o (State.winViolation x0 x1) := by
  unfold State.winViolation
  repeat' first
    | with_reducible assumption | with_reducible apply State.addReg_kept | with_reducible apply State.raise_kept
    | with_reducible apply State.memViolation_kept | dsimp only

theorem State.regLine_kept {o : State} {x0 : State} {x1 : Nat} (h : Kept o x0) :
    Kept o (State.regLine x0 x1) := by
  unfold State.regLine
  repeat' first
    | with_reducible assumption | extract_lets | intro _ | with_reducible apply State.raise_kept | with_reducible apply State.memViolation_kept
    | with_reducible apply kept_ite | with_reducible apply keptF_self | split | dsimp only [kept_mk]

theorem State.sramWinViolation_kept {o : State} {x0 : State} {x1 : Nat} (h : Kept o x0) :
    Kept o (State.sramWinViolation x0 x1) := by
  unfold State.sramWinViolation
  repeat' first
    | with_reducible assumption | extract_lets | intro _ | with_reducible apply State.memViolation_kept | with_reducible apply State.addReg_kept
    | with_reducible apply State.raise_kept | with_reducible apply kept_ite | with_reducible apply keptF_self | split | dsimp only [kept_mk]

theorem State.overlayViolate_kept {o : State} {x0 : State} (h : Kept o x0) :
    Kept o (State.overlayViolate x0) := by
  unfold State.overlayViolate
  repeat' first
    | with_reducible assumption | with_reducible apply State.addReg_kept | with_reducible apply State.raise_kept | dsimp only

theorem State.outerPieces_kept {o : State} {x0 : State} {x1 : Ctx} {x2 : CoreUnit} {x3 : List (Nat × List Byte)} {x4 : Bool} (h : Kept o x0) :
    Kept o (State.outerPieces x0 x1 x2 x3 x4).2 := by
  unfold State.outerPieces
  repeat' first
    | with_reducible assumption | extract_lets | intro _ | with_reducible exact kept_of_snd ‹_› ‹_› | with_reducible apply State.regLine_kept
    | with_reducible apply State.sramWinViolation_kept | with_reducible apply State.harnViolate_kept | with_reducible apply State.chargeCore_kept
    | with_reducible apply State.sramWrite_kept | with_reducible apply State.memViolation_kept | with_reducible apply State.overlayViolate_kept
    | with_reducible apply State.dramWrite_kept | with_reducible apply State.winViolation_kept | with_reducible apply kept_each
    | with_reducible apply kept_ite | with_reducible apply kept_ite_snd2 | with_reducible apply kept_ite_snd | with_reducible apply keptF_self
    | with_reducible apply keptF_put | with_reducible apply keptF_sput | with_reducible apply keptF_sputs | with_reducible apply keptF_zero
    | with_reducible apply keptF_nil | with_reducible apply keptF_filter | with_reducible apply kept_foldl_snd | with_reducible apply kept_foldl
    | with_reducible refine kept_of_snd ‹_› ?_ | split | dsimp only [kept_mk] | dsimp +zetaDelta only [kept_mk]

theorem State.outerWrite_kept {o : State} {x0 : State} {x1 : Ctx} {x2 : CoreUnit} {x3 : Nat} {x4 : List Byte} {x5 : Bool} (h : Kept o x0) :
    Kept o (State.outerWrite x0 x1 x2 x3 x4 x5).2 := by
  unfold State.outerWrite
  repeat' first
    | with_reducible assumption | with_reducible apply State.outerPieces_kept | dsimp only

theorem State.evict_kept {o : State} {x0 : State} {x1 : Nat} (h : Kept o x0) :
    Kept o (State.evict x0 x1) := by
  unfold State.evict
  repeat' first
    | with_reducible assumption | extract_lets | intro _ | with_reducible exact kept_of_snd ‹_› ‹_› | with_reducible apply State.addReg_kept
    | with_reducible apply kept_each | with_reducible apply kept_ite | with_reducible apply kept_ite_snd2 | with_reducible apply kept_ite_snd
    | with_reducible apply keptF_self | with_reducible apply keptF_put | with_reducible apply keptF_sput | with_reducible apply keptF_sputs
    | with_reducible apply keptF_zero | with_reducible apply keptF_nil | with_reducible apply keptF_filter | with_reducible apply kept_foldl_snd
    | with_reducible apply kept_foldl | with_reducible refine kept_of_snd ‹_› ?_ | split | dsimp only [kept_mk] | dsimp +zetaDelta only [kept_mk]

theorem State.weightFetch_kept {o : State} {x0 : State} {x1 : Nat} {x2 : Nat} {x3 : Nat} {x4 : LineOutcome} {x5 : Nat → Bool} (h : Kept o x0) :
    Kept o (State.weightFetch x0 x1 x2 x3 x4 x5).2 := by
  unfold State.weightFetch
  repeat' first
    | with_reducible assumption | extract_lets | intro _ | with_reducible apply State.heatUp_kept | with_reducible apply State.addReg_kept
    | with_reducible apply State.chargeCore_kept | with_reducible apply State.raise_kept | with_reducible apply State.evict_kept
    | with_reducible apply kept_ite | with_reducible apply keptF_self | split | dsimp only [kept_mk]

theorem State.setNs_kept {o : State} {x0 : State} {x1 : Nat} {x2 : Nspace} (h : Kept o x0) :
    Kept o (State.setNs x0 x1 x2) := by
  unfold State.setNs
  repeat' first
    | with_reducible assumption | extract_lets | intro _ | with_reducible apply kept_ite | with_reducible apply keptF_self | split
    | dsimp only [kept_mk]

theorem State.modNs_kept {o : State} {x0 : State} {x1 : Nat} {x2 : Nspace → Nspace} (h : Kept o x0) :
    Kept o (State.modNs x0 x1 x2) := by
  unfold State.modNs
  repeat' first
    | with_reducible assumption | extract_lets | intro _ | with_reducible apply State.setNs_kept | with_reducible apply kept_ite
    | with_reducible apply keptF_self | split | dsimp only [kept_mk]

theorem State.mergeRead_kept {o : State} {x0 : State} {x1 : Nat} {x2 : LineOutcome} (h : Kept o x0) :
    Kept o (State.mergeRead x0 x1 x2).2 := by
  unfold State.mergeRead
  repeat' first
    | with_reducible assumption | extract_lets | intro _ | with_reducible apply State.dramFetch_kept | with_reducible apply kept_ite
    | with_reducible apply keptF_self | split | dsimp only [kept_mk]

theorem State.frameClean_kept {o : State} {x0 : State} {x1 : Nat} (h : Kept o x0) :
    Kept o (State.frameClean x0 x1) := by
  unfold State.frameClean
  repeat' first
    | with_reducible assumption | extract_lets | intro _ | with_reducible apply kept_ite | with_reducible apply keptF_self | split
    | dsimp only [kept_mk]

theorem State.outerRead_kept {o : State} {x0 : State} {x1 : Ctx} {x2 : CoreUnit} {x3 : Nat} {x4 : Nat} {x5 : LineOutcome} {x6 : List Byte} {x7 : optParam (Nat → Bool) fun x => Bool.false} (h : Kept o x0) :
    Kept o (State.outerRead x0 x1 x2 x3 x4 x5 x6 x7).2 := by
  unfold State.outerRead
  repeat' first
    | with_reducible assumption | extract_lets | intro _ | with_reducible apply State.regLine_kept | with_reducible apply State.sramWinViolation_kept
    | with_reducible apply State.harnViolate_kept | with_reducible apply State.sramCheck_kept | with_reducible apply State.wordRead_kept
    | with_reducible apply State.chargeCore_kept | with_reducible apply State.dramFetch_kept | with_reducible apply State.weightFetch_kept
    | with_reducible apply State.memViolation_kept | with_reducible apply State.winViolation_kept | with_reducible apply State.poisonJob_kept
    | with_reducible apply State.raise_kept | with_reducible apply kept_ite | with_reducible apply keptF_self | split | dsimp only [kept_mk]

theorem State.movePages_kept {o : State} {x0 : State} {x1 : Nat} {x2 : Nat} {x3 : Nat} (h : Kept o x0) :
    Kept o (State.movePages x0 x1 x2 x3) := by
  unfold State.movePages
  repeat' first
    | with_reducible assumption | extract_lets | intro _ | with_reducible apply State.tick_kept | with_reducible apply State.setFld_kept
    | with_reducible apply kept_ite | with_reducible apply keptF_self | split | dsimp only [kept_mk]

theorem State.drainBlk_kept {o : State} {x0 : State} {x1 : Nat} {x2 : Nat} (h : Kept o x0) :
    Kept o (State.drainBlk x0 x1 x2) := by
  unfold State.drainBlk
  repeat' first
    | with_reducible assumption | extract_lets | intro _ | with_reducible apply State.movePages_kept | with_reducible apply State.setFld_kept
    | with_reducible apply kept_ite | with_reducible apply keptF_self | split | dsimp only [kept_mk]

theorem State.mediaFault_kept {o : State} {x0 : State} {x1 : Nat} {x2 : Nat} (h : Kept o x0) :
    Kept o (State.mediaFault x0 x1 x2) := by
  unfold State.mediaFault
  repeat' first
    | with_reducible assumption | with_reducible apply State.raise_kept | dsimp only

theorem State.starveFrom_kept {o : State} {x0 : State} {x1 : Bool} (h : Kept o x0) :
    Kept o (State.starveFrom x0 x1) := by
  unfold State.starveFrom
  repeat' first
    | with_reducible assumption | extract_lets | intro _ | with_reducible apply State.mediaFault_kept | with_reducible apply kept_ite
    | with_reducible apply keptF_self | split | dsimp only [kept_mk]

theorem State.setFree_kept {o : State} {x0 : State} {x1 : Nat} (h : Kept o x0) :
    Kept o (State.setFree x0 x1) := by
  unfold State.setFree
  repeat' first
    | with_reducible assumption | with_reducible apply State.starveFrom_kept | with_reducible apply State.setFld_kept | dsimp only

theorem State.setFblk_kept {o : State} {x0 : State} {x1 : Nat} {x2 : Blk} (h : Kept o x0) :
    Kept o (State.setFblk x0 x1 x2) := by
  unfold State.setFblk
  repeat' first
    | with_reducible assumption | extract_lets | intro _ | with_reducible apply kept_ite | with_reducible apply keptF_self | split
    | dsimp only [kept_mk]

theorem State.beginErase_kept {o : State} {x0 : Nat} {x1 : State} (h : Kept o x1) :
    Kept o (State.beginErase x0 x1) := by
  unfold State.beginErase
  repeat' first
    | with_reducible assumption | extract_lets | intro _ | with_reducible apply State.movePages_kept | with_reducible apply State.drainBlk_kept
    | with_reducible apply State.setFree_kept | with_reducible apply State.setFld_kept | with_reducible apply State.setFblk_kept
    | with_reducible apply kept_ite | with_reducible apply keptF_self | split | dsimp only [kept_mk]

theorem State.mediaViolate_kept {o : State} {x0 : State} {x1 : Nat} {x2 : Nat} (h : Kept o x0) :
    Kept o (State.mediaViolate x0 x1 x2) := by
  unfold State.mediaViolate
  repeat' first
    | with_reducible assumption | with_reducible apply State.countViolation_kept | with_reducible apply State.addReg_kept
    | with_reducible apply State.mediaFault_kept | dsimp only

theorem State.modDie_kept {o : State} {x0 : State} {x1 : Nat} {x2 : Die → Die} (h : Kept o x0) :
    Kept o (State.modDie x0 x1 x2) := by
  unfold State.modDie
  repeat' first
    | with_reducible assumption | extract_lets | intro _ | with_reducible apply kept_ite | with_reducible apply keptF_self | split
    | dsimp only [kept_mk]

theorem State.remap_kept {o : State} {x0 : State} {x1 : Nat} {x2 : Nat} {x3 : Nat} (h : Kept o x0) :
    Kept o (State.remap x0 x1 x2 x3) := by
  unfold State.remap
  repeat' first
    | with_reducible assumption | extract_lets | intro _ | with_reducible apply State.setNs_kept | with_reducible apply kept_ite
    | with_reducible apply keptF_self | split | dsimp only [kept_mk]

theorem State.moveUnit_kept {o : State} {x0 : Nat} {x1 : Nat} {x2 : State} (h : Kept o x2) :
    Kept o (State.moveUnit x0 x1 x2) := by
  unfold State.moveUnit
  repeat' first
    | with_reducible assumption | extract_lets | intro _ | with_reducible apply State.remap_kept | with_reducible apply kept_ite
    | with_reducible apply keptF_self | split | dsimp only [kept_mk]

theorem State.lifeCheck_kept {o : State} {x0 : State} (h : Kept o x0) :
    Kept o (State.lifeCheck x0) := by
  unfold State.lifeCheck
  repeat' first
    | with_reducible assumption | extract_lets | intro _ | with_reducible apply State.setFld_kept | with_reducible apply State.raiseEvent_kept
    | with_reducible apply State.mediaFault_kept | with_reducible apply kept_ite | with_reducible apply keptF_self | split | dsimp only [kept_mk]

theorem State.openBlk_kept {o : State} {x0 : State} {x1 : Nat} {x2 : Bool} (h : Kept o x0) :
    Kept o (State.openBlk x0 x1 x2) := by
  unfold State.openBlk
  repeat' first
    | with_reducible assumption | extract_lets | intro _ | with_reducible apply State.setFblk_kept | with_reducible apply State.setFree_kept
    | with_reducible apply State.setFld_kept | with_reducible apply kept_ite | with_reducible apply keptF_self | split | dsimp only [kept_mk]

theorem State.dropPage_kept {o : State} {x0 : State} {x1 : Nat} (h : Kept o x0) :
    Kept o (State.dropPage x0 x1) := by
  unfold State.dropPage
  repeat' first
    | with_reducible assumption | extract_lets | intro _ | with_reducible apply State.movePages_kept | with_reducible apply State.setFblk_kept
    | with_reducible apply kept_ite | with_reducible apply keptF_self | split | dsimp only [kept_mk]

theorem State.queueErase_kept {o : State} {x0 : Nat} {x1 : State} (h : Kept o x1) :
    Kept o (State.queueErase x0 x1) := by
  unfold State.queueErase
  repeat' first
    | with_reducible assumption | extract_lets | intro _ | with_reducible apply kept_ite | with_reducible apply keptF_self | split
    | dsimp only [kept_mk]

theorem State.setSpare_kept {o : State} {x0 : State} {x1 : Nat} (h : Kept o x0) :
    Kept o (State.setSpare x0 x1) := by
  unfold State.setSpare
  repeat' first
    | with_reducible assumption | extract_lets | intro _ | with_reducible apply State.setFld_kept | with_reducible apply State.mediaFault_kept
    | with_reducible apply State.setBit_kept | with_reducible apply kept_ite | with_reducible apply keptF_self | split | dsimp only [kept_mk]

theorem State.modChan_kept {o : State} {x0 : State} {x1 : Nat} {x2 : Chan → Chan} (h : Kept o x0) :
    Kept o (State.modChan x0 x1 x2) := by
  unfold State.modChan
  repeat' first
    | with_reducible assumption | extract_lets | intro _ | with_reducible apply kept_ite | with_reducible apply keptF_self | split
    | dsimp only [kept_mk]

theorem State.relocate_kept {o : State} {x0 : State} {x1 : Nat} (h : Kept o x0) :
    Kept o (State.relocate x0 x1) := by
  unfold State.relocate
  repeat' first
    | with_reducible assumption | extract_lets | intro _ | with_reducible exact kept_of_snd ‹_› ‹_› | with_reducible apply State.setFblk_kept
    | with_reducible apply State.movePages_kept | with_reducible apply State.moveUnit_kept | with_reducible apply State.chargeHouse_kept
    | with_reducible apply kept_each | with_reducible apply kept_ite | with_reducible apply kept_ite_snd2 | with_reducible apply kept_ite_snd
    | with_reducible apply keptF_self | with_reducible apply keptF_put | with_reducible apply keptF_sput | with_reducible apply keptF_sputs
    | with_reducible apply keptF_zero | with_reducible apply keptF_nil | with_reducible apply keptF_filter | with_reducible apply kept_foldl_snd
    | with_reducible apply kept_foldl | with_reducible refine kept_of_snd ‹_› ?_ | split | dsimp only [kept_mk] | dsimp +zetaDelta only [kept_mk]

theorem State.replaceBlk_kept {o : State} {x0 : State} {x1 : Nat} (h : Kept o x0) :
    Kept o (State.replaceBlk x0 x1) := by
  unfold State.replaceBlk
  repeat' first
    | with_reducible assumption | extract_lets | intro _ | with_reducible exact kept_of_snd ‹_› ‹_› | with_reducible apply kept_each
    | with_reducible apply kept_ite | with_reducible apply kept_ite_snd2 | with_reducible apply kept_ite_snd | with_reducible apply keptF_self
    | with_reducible apply keptF_put | with_reducible apply keptF_sput | with_reducible apply keptF_sputs | with_reducible apply keptF_zero
    | with_reducible apply keptF_nil | with_reducible apply keptF_filter | with_reducible apply kept_foldl_snd | with_reducible apply kept_foldl
    | with_reducible refine kept_of_snd ‹_› ?_ | split | dsimp only [kept_mk] | dsimp +zetaDelta only [kept_mk]

theorem State.eraseOver_kept {o : State} {x0 : State} {x1 : Nat} (h : Kept o x0) :
    Kept o (State.eraseOver x0 x1) := by
  unfold State.eraseOver
  repeat' first
    | with_reducible assumption | extract_lets | intro _ | with_reducible exact kept_of_snd ‹_› ‹_› | with_reducible apply kept_each
    | with_reducible apply kept_ite | with_reducible apply kept_ite_snd2 | with_reducible apply kept_ite_snd | with_reducible apply keptF_self
    | with_reducible apply keptF_put | with_reducible apply keptF_sput | with_reducible apply keptF_sputs | with_reducible apply keptF_zero
    | with_reducible apply keptF_nil | with_reducible apply keptF_filter | with_reducible apply kept_foldl_snd | with_reducible apply kept_foldl
    | with_reducible refine kept_of_snd ‹_› ?_ | split | dsimp only [kept_mk] | dsimp +zetaDelta only [kept_mk]

theorem State.retireBlk_kept {o : State} {x0 : Nat} {x1 : State} (h : Kept o x1) :
    Kept o (State.retireBlk x0 x1) := by
  unfold State.retireBlk
  repeat' first
    | with_reducible assumption | extract_lets | intro _ | with_reducible apply State.relocate_kept | with_reducible apply State.drainBlk_kept
    | with_reducible apply State.setFree_kept | with_reducible apply State.setFld_kept | with_reducible apply State.setFblk_kept
    | with_reducible apply State.replaceBlk_kept | with_reducible apply State.setSpare_kept | with_reducible apply State.eraseOver_kept
    | with_reducible apply kept_ite | with_reducible apply keptF_self | split | dsimp only [kept_mk]

theorem State.dropHome_kept {o : State} {x0 : State} {x1 : Nat} {x2 : Nat} (h : Kept o x0) :
    Kept o (State.dropHome x0 x1 x2) := by
  unfold State.dropHome
  repeat' first
    | with_reducible assumption | extract_lets | intro _ | with_reducible apply State.remap_kept | with_reducible apply State.dropPage_kept
    | with_reducible apply kept_ite | with_reducible apply keptF_self | split | dsimp only [kept_mk]

theorem State.startErases_kept {o : State} {x0 : State} (h : Kept o x0) :
    Kept o (State.startErases x0) := by
  unfold State.startErases
  repeat' first
    | with_reducible assumption | extract_lets | intro _ | with_reducible exact kept_of_snd ‹_› ‹_› | with_reducible apply State.beginErase_kept
    | with_reducible apply kept_each | with_reducible apply kept_ite | with_reducible apply kept_ite_snd2 | with_reducible apply kept_ite_snd
    | with_reducible apply keptF_self | with_reducible apply keptF_put | with_reducible apply keptF_sput | with_reducible apply keptF_sputs
    | with_reducible apply keptF_zero | with_reducible apply keptF_nil | with_reducible apply keptF_filter | with_reducible apply kept_foldl_snd
    | with_reducible apply kept_foldl | with_reducible refine kept_of_snd ‹_› ?_ | split | dsimp only [kept_mk] | dsimp +zetaDelta only [kept_mk]

theorem State.dropUnit_kept {o : State} {x0 : Nat} {x1 : Nat} {x2 : State} (h : Kept o x2) :
    Kept o (State.dropUnit x0 x1 x2) := by
  unfold State.dropUnit
  repeat' first
    | with_reducible assumption | extract_lets | intro _ | with_reducible apply State.dropHome_kept | with_reducible apply kept_ite
    | with_reducible apply keptF_self | split | dsimp only [kept_mk]

theorem State.retireDie_kept {o : State} {x0 : State} {x1 : Nat} {x2 : Nat} (h : Kept o x0) :
    Kept o (State.retireDie x0 x1 x2) := by
  unfold State.retireDie
  repeat' first
    | with_reducible assumption | extract_lets | intro _ | with_reducible exact kept_of_snd ‹_› ‹_› | with_reducible apply State.modDie_kept
    | with_reducible apply State.chargeHouse_kept | with_reducible apply State.addReg_kept | with_reducible apply State.retireBlk_kept
    | with_reducible apply State.movePages_kept | with_reducible apply State.setSpare_kept | with_reducible apply State.setFree_kept
    | with_reducible apply State.mediaFault_kept | with_reducible apply kept_each | with_reducible apply kept_ite | with_reducible apply kept_ite_snd2
    | with_reducible apply kept_ite_snd | with_reducible apply keptF_self | with_reducible apply keptF_put | with_reducible apply keptF_sput
    | with_reducible apply keptF_sputs | with_reducible apply keptF_zero | with_reducible apply keptF_nil | with_reducible apply keptF_filter
    | with_reducible apply kept_foldl_snd | with_reducible apply kept_foldl | with_reducible refine kept_of_snd ‹_› ?_ | split | dsimp only [kept_mk]
    | dsimp +zetaDelta only [kept_mk]

theorem State.growBad_kept {o : State} {x0 : State} {x1 : Nat} {x2 : Nat} (h : Kept o x0) :
    Kept o (State.growBad x0 x1 x2) := by
  unfold State.growBad
  repeat' first
    | with_reducible assumption | extract_lets | intro _ | with_reducible apply State.retireBlk_kept | with_reducible apply State.modDie_kept
    | with_reducible apply State.retireDie_kept | with_reducible apply kept_ite | with_reducible apply keptF_self | split | dsimp only [kept_mk]

theorem State.slcTarget_kept {o : State} {x0 : State} (h : Kept o x0) :
    Kept o (State.slcTarget x0) := by
  unfold State.slcTarget
  repeat' first
    | with_reducible assumption | with_reducible apply State.setFld_kept | dsimp only

theorem State.putUnit_kept {o : State} {x0 : Nat} {x1 : Nat} {x2 : State} (h : Kept o x2) :
    Kept o (State.putUnit x0 x1 x2) := by
  unfold State.putUnit
  repeat' first
    | with_reducible assumption | extract_lets | intro _ | with_reducible apply State.dropHome_kept | with_reducible apply kept_ite
    | with_reducible apply keptF_self | split | dsimp only [kept_mk]

theorem State.useMap_kept {o : State} {x0 : Nat} {x1 : State} (h : Kept o x1) :
    Kept o (State.useMap x0 x1) := by
  unfold State.useMap
  repeat' first
    | with_reducible assumption | extract_lets | intro _ | with_reducible apply State.chargeHouse_kept | with_reducible apply kept_ite
    | with_reducible apply keptF_self | split | dsimp only [kept_mk]

theorem State.useMaps_kept {o : State} {x0 : State} {x1 : Nat} {x2 : Nspace} {x3 : Nat} {x4 : Nat} (h : Kept o x0) :
    Kept o (State.useMaps x0 x1 x2 x3 x4) := by
  unfold State.useMaps
  repeat' first
    | with_reducible assumption | extract_lets | intro _ | with_reducible exact kept_of_snd ‹_› ‹_› | with_reducible apply State.useMap_kept
    | with_reducible apply kept_each | with_reducible apply kept_ite | with_reducible apply kept_ite_snd2 | with_reducible apply kept_ite_snd
    | with_reducible apply keptF_self | with_reducible apply keptF_put | with_reducible apply keptF_sput | with_reducible apply keptF_sputs
    | with_reducible apply keptF_zero | with_reducible apply keptF_nil | with_reducible apply keptF_filter | with_reducible apply kept_foldl_snd
    | with_reducible apply kept_foldl | with_reducible refine kept_of_snd ‹_› ?_ | split | dsimp only [kept_mk] | dsimp +zetaDelta only [kept_mk]

theorem State.takeSb_kept {o : State} {x0 : State} {x1 : Nat} {x2 : Nat} (h : Kept o x0) :
    Kept o (State.takeSb x0 x1 x2) := by
  unfold State.takeSb
  repeat' first
    | with_reducible assumption | extract_lets | intro _ | with_reducible apply State.setNs_kept | with_reducible apply kept_ite
    | with_reducible apply keptF_self | split | dsimp only [kept_mk]

theorem State.putUnits_kept {o : State} {x0 : State} {x1 : Nat} {x2 : Nat} {x3 : Nat} (h : Kept o x0) :
    Kept o (State.putUnits x0 x1 x2 x3) := by
  unfold State.putUnits
  repeat' first
    | with_reducible assumption | extract_lets | intro _ | with_reducible exact kept_of_snd ‹_› ‹_› | with_reducible apply State.putUnit_kept
    | with_reducible apply kept_each | with_reducible apply kept_ite | with_reducible apply kept_ite_snd2 | with_reducible apply kept_ite_snd
    | with_reducible apply keptF_self | with_reducible apply keptF_put | with_reducible apply keptF_sput | with_reducible apply keptF_sputs
    | with_reducible apply keptF_zero | with_reducible apply keptF_nil | with_reducible apply keptF_filter | with_reducible apply kept_foldl_snd
    | with_reducible apply kept_foldl | with_reducible refine kept_of_snd ‹_› ?_ | split | dsimp only [kept_mk] | dsimp +zetaDelta only [kept_mk]

theorem State.eraseReads_kept {o : State} {x0 : State} {x1 : NatSet} (h : Kept o x0) :
    Kept o (State.eraseReads x0 x1) := by
  unfold State.eraseReads
  repeat' first
    | with_reducible assumption | extract_lets | intro _ | with_reducible exact kept_of_snd ‹_› ‹_› | with_reducible apply State.mediaViolate_kept
    | with_reducible apply kept_each | with_reducible apply kept_ite | with_reducible apply kept_ite_snd2 | with_reducible apply kept_ite_snd
    | with_reducible apply keptF_self | with_reducible apply keptF_put | with_reducible apply keptF_sput | with_reducible apply keptF_sputs
    | with_reducible apply keptF_zero | with_reducible apply keptF_nil | with_reducible apply keptF_filter | with_reducible apply kept_foldl_snd
    | with_reducible apply kept_foldl | with_reducible refine kept_of_snd ‹_› ?_ | split | dsimp only [kept_mk] | dsimp +zetaDelta only [kept_mk]

end Sys2Proof.Machine
end

