-- ==== Sys2Proof/Laws/Kept2.lean ====
section
/-! SUPPORT. Laws/Kept2.lean: one lemma per operation of the machine: it keeps what KeptBase names (part 2, in the order in which operations use
each other). -/

namespace Sys2Proof.Machine

open Sys2Proof

theorem State.zoneReset_kept {o : State} {x0 : State} {x1 : Nat} {x2 : Nat} (h : Kept o x0) :
    Kept o (State.zoneReset x0 x1 x2) := by
  unfold State.zoneReset
  repeat' first
    | with_reducible assumption | extract_lets | intro _ | with_reducible apply State.startErases_kept | with_reducible apply State.setNs_kept
    | with_reducible apply kept_ite | with_reducible apply keptF_self | split | dsimp only [kept_mk]

theorem State.zoneWrite_kept {o : State} {x0 : State} {x1 : Nat} {x2 : Nat} {x3 : List Byte} {x4 : List Nat} (h : Kept o x0) :
    Kept o (State.zoneWrite x0 x1 x2 x3 x4) := by
  unfold State.zoneWrite
  repeat' first
    | with_reducible assumption | extract_lets | intro _ | with_reducible apply State.takeSb_kept | with_reducible apply State.setNs_kept
    | with_reducible apply State.putUnits_kept | with_reducible apply kept_ite | with_reducible apply keptF_self | split | dsimp only [kept_mk]

theorem State.dxOperands_kept {o : State} {x0 : State} {x1 : Ctx} {x2 : List (Nat × Nat)} (h : Kept o x0) :
    Kept o (State.dxOperands x0 x1 x2) := by
  unfold State.dxOperands
  repeat' first
    | with_reducible assumption | extract_lets | intro _ | with_reducible apply State.operands_kept | with_reducible apply State.countViolation_kept
    | with_reducible apply State.addReg_kept | with_reducible apply State.coreFault_kept | with_reducible apply kept_ite
    | with_reducible apply keptF_self | split | dsimp only [kept_mk]

theorem State.slotDrop_kept {o : State} {x0 : State} {x1 : Nat} {x2 : Nat} (h : Kept o x0) :
    Kept o (State.slotDrop x0 x1 x2) := by
  unfold State.slotDrop
  repeat' first
    | with_reducible assumption | with_reducible apply State.tick_kept | with_reducible apply State.modCore_kept | dsimp only

theorem State.putElem_kept {o : State} {x0 : Ctx} {x1 : Desc} {x2 : Bool} {x3 : Nat × List Byte} {x4 : State} (h : Kept o x4) :
    Kept o (State.putElem x0 x1 x2 x3 x4) := by
  unfold State.putElem
  repeat' first
    | with_reducible assumption | extract_lets | intro _ | with_reducible apply State.opWrite_kept | with_reducible apply kept_ite
    | with_reducible apply keptF_self | split | dsimp only [kept_mk]

theorem State.zeroRange_kept {o : State} {x0 : State} {x1 : Ctx} {x2 : Nat} {x3 : Nat} (h : Kept o x0) :
    Kept o (State.zeroRange x0 x1 x2 x3) := by
  unfold State.zeroRange
  repeat' first
    | with_reducible assumption | extract_lets | intro _ | with_reducible exact kept_of_snd ‹_› ‹_› | with_reducible apply State.opWrite_kept
    | with_reducible apply State.modCore_kept | with_reducible apply kept_each | with_reducible apply kept_ite | with_reducible apply kept_ite_snd2
    | with_reducible apply kept_ite_snd | with_reducible apply keptF_self | with_reducible apply keptF_put | with_reducible apply keptF_sput
    | with_reducible apply keptF_sputs | with_reducible apply keptF_zero | with_reducible apply keptF_nil | with_reducible apply keptF_filter
    | with_reducible apply kept_foldl_snd | with_reducible apply kept_foldl | with_reducible refine kept_of_snd ‹_› ?_ | split | dsimp only [kept_mk]
    | dsimp +zetaDelta only [kept_mk]

theorem State.planeStart_kept {o : State} {x0 : Ctx} {x1 : Desc} {x2 : Nat} {x3 : State} (h : Kept o x3) :
    Kept o (State.planeStart x0 x1 x2 x3) := by
  unfold State.planeStart
  repeat' first
    | with_reducible assumption | extract_lets | intro _ | with_reducible apply State.zeroRange_kept | with_reducible apply kept_ite
    | with_reducible apply keptF_self | split | dsimp only [kept_mk]

theorem State.dxViolate_kept {o : State} {x0 : State} {x1 : Ctx} {x2 : Stream} (h : Kept o x0) :
    Kept o (State.dxViolate x0 x1 x2).1 := by
  unfold State.dxViolate
  repeat' first
    | with_reducible assumption | extract_lets | intro _ | with_reducible apply State.violate_kept | with_reducible apply kept_ite
    | with_reducible apply keptF_self | split | dsimp only [kept_mk]

theorem State.placeRun_kept {o : State} {x0 : State} {x1 : Ctx} {x2 : Stream} {x3 : Nat} {x4 : DxLine} {x5 : Bool} {x6 : Bool} (h : Kept o x0) :
    Kept o (State.placeRun x0 x1 x2 x3 x4 x5 x6).1 := by
  unfold State.placeRun
  repeat' first
    | with_reducible assumption | extract_lets | intro _ | with_reducible exact kept_of_snd ‹_› ‹_› | with_reducible apply State.opWrite_kept
    | with_reducible apply State.putElem_kept | with_reducible apply State.planeStart_kept | with_reducible apply State.coreFault_kept
    | with_reducible apply State.dxViolate_kept | with_reducible apply kept_each | with_reducible apply kept_ite | with_reducible apply kept_ite_snd2
    | with_reducible apply kept_ite_snd | with_reducible apply keptF_self | with_reducible apply keptF_put | with_reducible apply keptF_sput
    | with_reducible apply keptF_sputs | with_reducible apply keptF_zero | with_reducible apply keptF_nil | with_reducible apply keptF_filter
    | with_reducible apply kept_foldl_snd | with_reducible apply kept_foldl | with_reducible refine kept_of_snd ‹_› ?_ | split | dsimp only [kept_mk]
    | dsimp +zetaDelta only [kept_mk]

theorem State.slotFree_kept {o : State} {x0 : State} {x1 : Nat} {x2 : Nat} (h : Kept o x0) :
    Kept o (State.slotFree x0 x1 x2) := by
  unfold State.slotFree
  repeat' first
    | with_reducible assumption | with_reducible apply State.tick_kept | with_reducible apply State.modCore_kept | dsimp only

theorem State.streamAt_kept {o : State} {x0 : State} {x1 : Nat} {x2 : Stream} {x3 : Nat} (h : Kept o x0) :
    Kept o (State.streamAt x0 x1 x2 x3) := by
  unfold State.streamAt
  repeat' first
    | with_reducible assumption | extract_lets | intro _ | with_reducible apply State.signal?_kept | with_reducible apply State.slotFree_kept
    | with_reducible apply State.modCore_kept | with_reducible apply kept_ite | with_reducible apply keptF_self | split | dsimp only [kept_mk]

theorem State.consume_kept {o : State} {x0 : Nat} {x1 : List DxLine} {x2 : State} (h : Kept o x2) :
    Kept o (State.consume x0 x1 x2) := by
  induction x1 generalizing x0 x2 with
  | nil => simpa only [State.consume] using h
  | cons a r ih =>
    rw [State.consume]
    repeat' first
      | with_reducible assumption | with_reducible apply ih | extract_lets | intro _ | with_reducible apply State.placeRun_kept
      | with_reducible apply State.streamAt_kept | with_reducible apply State.chargeCore_kept | with_reducible apply kept_ite
      | with_reducible apply keptF_self | split | dsimp only [kept_mk]

theorem State.modLace_kept {o : State} {x0 : State} {x1 : Nat} {x2 : Nat} {x3 : LaceChan → LaceChan} (h : Kept o x0) :
    Kept o (State.modLace x0 x1 x2 x3) := by
  unfold State.modLace
  repeat' first
    | with_reducible assumption | with_reducible apply State.modCore_kept | dsimp only

theorem State.laceSend_kept {o : State} {x0 : State} {x1 : Nat} {x2 : Nat} {x3 : DxLine} (h : Kept o x0) :
    Kept o (State.laceSend x0 x1 x2 x3) := by
  unfold State.laceSend
  repeat' first
    | with_reducible assumption | extract_lets | intro _ | with_reducible apply State.modLace_kept | with_reducible apply kept_ite
    | with_reducible apply keptF_self | split | dsimp only [kept_mk]

theorem State.slotDrain_kept {o : State} {x0 : State} {x1 : Nat} {x2 : Nat} (h : Kept o x0) :
    Kept o (State.slotDrain x0 x1 x2) := by
  unfold State.slotDrain
  repeat' first
    | with_reducible assumption | with_reducible apply State.tick_kept | with_reducible apply State.modCore_kept | dsimp only

theorem State.laceDone_kept {o : State} {x0 : State} {x1 : Nat} {x2 : Nat} {x3 : DxLine} (h : Kept o x0) :
    Kept o (State.laceDone x0 x1 x2 x3) := by
  unfold State.laceDone
  repeat' first
    | with_reducible assumption | extract_lets | intro _ | with_reducible apply State.laceSend_kept | with_reducible apply State.slotDrain_kept
    | with_reducible apply State.modLace_kept | with_reducible apply kept_ite | with_reducible apply keptF_self | split | dsimp only [kept_mk]

theorem State.cancelPrefetch_kept {o : State} {x0 : State} {x1 : Nat} {x2 : Prefetch → Bool} (h : Kept o x0) :
    Kept o (State.cancelPrefetch x0 x1 x2) := by
  unfold State.cancelPrefetch
  repeat' first
    | with_reducible assumption | with_reducible apply State.modCore_kept | with_reducible apply State.addReg_kept
    | with_reducible apply State.slotDrop_kept | dsimp only

theorem State.laceProcess_kept {o : State} {x0 : Nat} {x1 : Nat} {x2 : Nat} {x3 : State} (h : Kept o x3) :
    Kept o (State.laceProcess x0 x1 x2 x3) := by
  induction x0 generalizing x1 x2 x3 with
  | zero => simpa only [State.laceProcess] using h
  | succ m ih =>
    rw [State.laceProcess]
    repeat' first
      | with_reducible assumption | with_reducible apply ih | extract_lets | intro _ | with_reducible apply State.laceDone_kept
      | with_reducible apply State.modLace_kept | with_reducible apply State.coreFault_kept | with_reducible apply State.placeRun_kept
      | with_reducible apply State.streamAt_kept | with_reducible apply State.chargeCore_kept | with_reducible apply kept_ite
      | with_reducible apply keptF_self | split | dsimp only [kept_mk]

theorem State.slotFill_kept {o : State} {x0 : State} {x1 : Nat} {x2 : Nat} (h : Kept o x0) :
    Kept o (State.slotFill x0 x1 x2) := by
  unfold State.slotFill
  repeat' first
    | with_reducible assumption | with_reducible apply State.tick_kept | with_reducible apply State.modCore_kept | dsimp only

theorem State.grant_kept {o : State} {x0 : Nat} {x1 : Nat} {x2 : Nat} {x3 : State} (h : Kept o x3) :
    Kept o (State.grant x0 x1 x2 x3) := by
  induction x0 generalizing x1 x2 x3 with
  | zero => simpa only [State.grant] using h
  | succ m ih =>
    rw [State.grant]
    repeat' first
      | with_reducible assumption | with_reducible apply ih | extract_lets | intro _ | with_reducible apply State.slotFill_kept
      | with_reducible apply State.modLace_kept | with_reducible apply State.tick_kept | with_reducible apply State.setFld_kept
      | with_reducible apply kept_ite | with_reducible apply keptF_self | split | dsimp only [kept_mk]

theorem State.laceHead_kept {o : State} {x0 : State} {x1 : Nat} {x2 : Stream} {x3 : DxLine} {x4 : Bool} (h : Kept o x0) :
    Kept o (State.laceHead x0 x1 x2 x3 x4) := by
  unfold State.laceHead
  repeat' first
    | with_reducible assumption | extract_lets | intro _ | with_reducible apply State.laceSend_kept | with_reducible apply kept_ite
    | with_reducible apply keptF_self | split | dsimp only [kept_mk]

theorem State.laceAgain_kept {o : State} {x0 : State} {x1 : Nat} {x2 : Stream} {x3 : LineOutcome} {x4 : List Byte} (h : Kept o x0) :
    Kept o (State.laceAgain x0 x1 x2 x3 x4).2 := by
  unfold State.laceAgain
  repeat' first
    | with_reducible assumption | extract_lets | intro _ | with_reducible apply State.modLace_kept | with_reducible apply State.laceHead_kept
    | with_reducible apply State.outerRead_kept | with_reducible apply State.addReg_kept | with_reducible apply kept_ite
    | with_reducible apply keptF_self | split | dsimp only [kept_mk]

theorem State.slotLine_kept {o : State} {x0 : State} {x1 : Nat} {x2 : Stream} (h : Kept o x0) :
    Kept o (State.slotLine x0 x1 x2).1 := by
  unfold State.slotLine
  repeat' first
    | with_reducible assumption | extract_lets | intro _ | with_reducible apply State.slotDrain_kept | with_reducible apply State.slotFill_kept
    | with_reducible apply kept_ite | with_reducible apply keptF_self | split | dsimp only [kept_mk]

theorem State.streamStep_kept {o : State} {x0 : State} {x1 : Nat} {x2 : Stream} {x3 : LineOutcome} {x4 : List Byte} (h : Kept o x0) :
    Kept o (State.streamStep x0 x1 x2 x3 x4).2 := by
  unfold State.streamStep
  repeat' first
    | with_reducible assumption | extract_lets | intro _ | with_reducible exact kept_of_snd ‹_› ‹_› | with_reducible apply State.laceAgain_kept
    | with_reducible apply State.memViolation_kept | with_reducible apply State.dxViolate_kept | with_reducible apply State.streamAt_kept
    | with_reducible apply State.placeRun_kept | with_reducible apply State.laceHead_kept | with_reducible apply State.sramCheck_kept
    | with_reducible apply State.mergeRead_kept | with_reducible apply State.outerPieces_kept | with_reducible apply State.chargeCore_kept
    | with_reducible apply State.addReg_kept | with_reducible apply State.outerRead_kept | with_reducible apply State.slotLine_kept
    | with_reducible apply kept_each | with_reducible apply kept_ite | with_reducible apply kept_ite_snd2 | with_reducible apply kept_ite_snd
    | with_reducible apply keptF_self | with_reducible apply keptF_put | with_reducible apply keptF_sput | with_reducible apply keptF_sputs
    | with_reducible apply keptF_zero | with_reducible apply keptF_nil | with_reducible apply keptF_filter | with_reducible apply kept_foldl_snd
    | with_reducible apply kept_foldl | with_reducible refine kept_of_snd ‹_› ?_ | split | dsimp only [kept_mk] | dsimp +zetaDelta only [kept_mk]

theorem State.dxStart_kept {o : State} {x0 : State} {x1 : Bool} {x2 : Hdr} {x3 : DxOps} {x4 : Ctx} (h : Kept o x0) :
    Kept o (State.dxStart x0 x1 x2 x3 x4) := by
  unfold State.dxStart
  repeat' first
    | with_reducible assumption | extract_lets | intro _ | with_reducible exact kept_of_snd ‹_› ‹_› | with_reducible apply State.signal?_kept
    | with_reducible apply State.cancelPrefetch_kept | with_reducible apply State.countViolation_kept | with_reducible apply State.addReg_kept
    | with_reducible apply State.coreFault_kept | with_reducible apply State.dxOperands_kept | with_reducible apply State.dxViolate_kept
    | with_reducible apply State.modCore_kept | with_reducible apply State.consume_kept | with_reducible apply State.slotFree_kept
    | with_reducible apply State.slotDrain_kept | with_reducible apply State.laceProcess_kept | with_reducible apply kept_each
    | with_reducible apply kept_ite | with_reducible apply kept_ite_snd2 | with_reducible apply kept_ite_snd | with_reducible apply keptF_self
    | with_reducible apply keptF_put | with_reducible apply keptF_sput | with_reducible apply keptF_sputs | with_reducible apply keptF_zero
    | with_reducible apply keptF_nil | with_reducible apply keptF_filter | with_reducible apply kept_foldl_snd | with_reducible apply kept_foldl
    | with_reducible refine kept_of_snd ‹_› ?_ | split | dsimp only [kept_mk] | dsimp +zetaDelta only [kept_mk]

theorem State.busyDone_kept {o : State} {x0 : State} {x1 : Nat} {x2 : BusyWait} (h : Kept o x0) :
    Kept o (State.busyDone x0 x1 x2) := by
  unfold State.busyDone
  repeat' first
    | with_reducible assumption | with_reducible apply State.modCore_kept | dsimp only

theorem State.begin_kept {o : State} {x0 : State} {x1 : Hdr} {x2 : Ctx} {x3 : Cls} {x4 : BusyWait} {x5 : optParam (List (Nat × Nat)) []} (h : Kept o x0) :
    Kept o (State.begin x0 x1 x2 x3 x4 x5) := by
  unfold State.begin
  repeat' first
    | with_reducible assumption | with_reducible apply State.modCore_kept | dsimp only

theorem State.noEffect_kept {o : State} {x0 : State} {x1 : CoreUnit} {x2 : Hdr} {x3 : Ctx} {x4 : Cls} (h : Kept o x0) :
    Kept o (State.noEffect x0 x1 x2 x3 x4) := by
  unfold State.noEffect
  repeat' first
    | with_reducible assumption | with_reducible apply State.begin_kept | with_reducible apply State.violate_kept | dsimp only

theorem State.writeLines_kept {o : State} {x0 : State} {x1 : Ctx} {x2 : CoreUnit} {x3 : Nat} {x4 : MarkedLines} (h : Kept o x0) :
    Kept o (State.writeLines x0 x1 x2 x3 x4) := by
  unfold State.writeLines
  repeat' first
    | with_reducible assumption | extract_lets | intro _ | with_reducible exact kept_of_snd ‹_› ‹_› | with_reducible apply State.opWrite_kept
    | with_reducible apply kept_each | with_reducible apply kept_ite | with_reducible apply kept_ite_snd2 | with_reducible apply kept_ite_snd
    | with_reducible apply keptF_self | with_reducible apply keptF_put | with_reducible apply keptF_sput | with_reducible apply keptF_sputs
    | with_reducible apply keptF_zero | with_reducible apply keptF_nil | with_reducible apply keptF_filter | with_reducible apply kept_foldl_snd
    | with_reducible apply kept_foldl | with_reducible refine kept_of_snd ‹_› ?_ | split | dsimp only [kept_mk] | dsimp +zetaDelta only [kept_mk]

theorem State.mxFault_kept {o : State} {x0 : State} {x1 : Ctx} {x2 : Nat} {x3 : Nat} (h : Kept o x0) :
    Kept o (State.mxFault x0 x1 x2 x3) := by
  unfold State.mxFault
  repeat' first
    | with_reducible assumption | with_reducible apply State.coreFault_kept | dsimp only

theorem TileOut.faults_kept {o : State} {x0 : TileOut} {x1 : Ctx} {x2 : Nat} {x3 : Bool} {x4 : Bool} {x5 : State} (h : Kept o x5) :
    Kept o (TileOut.faults x0 x1 x2 x3 x4 x5) := by
  unfold TileOut.faults
  repeat' first
    | with_reducible assumption | extract_lets | intro _ | with_reducible exact kept_of_snd ‹_› ‹_› | with_reducible apply State.residueHits_kept
    | with_reducible apply State.addReg_kept | with_reducible apply State.mxFault_kept | with_reducible apply kept_each
    | with_reducible apply kept_ite | with_reducible apply kept_ite_snd2 | with_reducible apply kept_ite_snd | with_reducible apply keptF_self
    | with_reducible apply keptF_put | with_reducible apply keptF_sput | with_reducible apply keptF_sputs | with_reducible apply keptF_zero
    | with_reducible apply keptF_nil | with_reducible apply keptF_filter | with_reducible apply kept_foldl_snd | with_reducible apply kept_foldl
    | with_reducible refine kept_of_snd ‹_› ?_ | split | dsimp only [kept_mk] | dsimp +zetaDelta only [kept_mk]

theorem MxTile.write_kept {o : State} {x0 : MxTile} {x1 : Ctx} {x2 : Nat} {x3 : Bool} {x4 : TileOut} {x5 : State} (h : Kept o x5) :
    Kept o (MxTile.write x0 x1 x2 x3 x4 x5) := by
  unfold MxTile.write
  repeat' first
    | with_reducible assumption | extract_lets | intro _ | with_reducible exact kept_of_snd ‹_› ‹_› | with_reducible apply State.opWrite_kept
    | with_reducible apply State.markLine_kept | with_reducible apply kept_each | with_reducible apply kept_ite | with_reducible apply kept_ite_snd2
    | with_reducible apply kept_ite_snd | with_reducible apply keptF_self | with_reducible apply keptF_put | with_reducible apply keptF_sput
    | with_reducible apply keptF_sputs | with_reducible apply keptF_zero | with_reducible apply keptF_nil | with_reducible apply keptF_filter
    | with_reducible apply kept_foldl_snd | with_reducible apply kept_foldl | with_reducible refine kept_of_snd ‹_› ?_ | split | dsimp only [kept_mk]
    | dsimp +zetaDelta only [kept_mk]

theorem State.startMxt_kept {o : State} {x0 : State} {x1 : Hdr} {x2 : MxtOps} {x3 : Ctx} (h : Kept o x0) :
    Kept o (State.startMxt x0 x1 x2 x3) := by
  unfold State.startMxt
  repeat' first
    | with_reducible assumption | extract_lets | intro _ | with_reducible exact kept_of_snd ‹_› ‹_› | with_reducible apply State.noEffect_kept
    | with_reducible apply State.begin_kept | with_reducible apply State.operands_kept | with_reducible apply State.violate_kept
    | with_reducible apply State.chargeCore_kept | with_reducible apply TileOut.faults_kept | with_reducible apply MxTile.write_kept
    | with_reducible apply State.modCore_kept | with_reducible apply State.addReg_kept | with_reducible apply kept_each
    | with_reducible apply kept_ite | with_reducible apply kept_ite_snd2 | with_reducible apply kept_ite_snd | with_reducible apply keptF_self
    | with_reducible apply keptF_put | with_reducible apply keptF_sput | with_reducible apply keptF_sputs | with_reducible apply keptF_zero
    | with_reducible apply keptF_nil | with_reducible apply keptF_filter | with_reducible apply kept_foldl_snd | with_reducible apply kept_foldl
    | with_reducible refine kept_of_snd ‹_› ?_ | split | dsimp only [kept_mk] | dsimp +zetaDelta only [kept_mk]

theorem State.startMxl_kept {o : State} {x0 : State} {x1 : Hdr} {x2 : Nat} {x3 : Nat} {x4 : Nat} {x5 : Nat} {x6 : Ctx} (h : Kept o x0) :
    Kept o (State.startMxl x0 x1 x2 x3 x4 x5 x6) := by
  unfold State.startMxl
  repeat' first
    | with_reducible assumption | with_reducible apply State.operands_kept | with_reducible apply State.begin_kept
    | with_reducible apply State.modCore_kept | dsimp only

theorem State.startMxp_kept {o : State} {x0 : State} {x1 : Hdr} {x2 : Nat} {x3 : Nat} {x4 : Ctx} (h : Kept o x0) :
    Kept o (State.startMxp x0 x1 x2 x3 x4) := by
  unfold State.startMxp
  repeat' first
    | with_reducible assumption | extract_lets | intro _ | with_reducible apply State.noEffect_kept | with_reducible apply State.begin_kept
    | with_reducible apply State.modCore_kept | with_reducible apply kept_ite | with_reducible apply keptF_self | split | dsimp only [kept_mk]

theorem State.setIdx_kept {o : State} {x0 : State} {x1 : Nat} {x2 : Idx} (h : Kept o x0) :
    Kept o (State.setIdx x0 x1 x2) := by
  unfold State.setIdx
  repeat' first
    | with_reducible assumption | extract_lets | intro _ | with_reducible apply kept_ite | with_reducible apply keptF_self | split
    | dsimp only [kept_mk]

theorem State.modIdx_kept {o : State} {x0 : State} {x1 : Nat} {x2 : Idx → Idx} (h : Kept o x0) :
    Kept o (State.modIdx x0 x1 x2) := by
  unfold State.modIdx
  repeat' first
    | with_reducible assumption | extract_lets | intro _ | with_reducible apply State.setIdx_kept | with_reducible apply kept_ite
    | with_reducible apply keptF_self | split | dsimp only [kept_mk]

theorem State.unbindEpoch_kept {o : State} {x0 : State} {x1 : Nat} {x2 : Nat} (h : Kept o x0) :
    Kept o (State.unbindEpoch x0 x1 x2) := by
  unfold State.unbindEpoch
  repeat' first
    | with_reducible assumption | extract_lets | intro _ | with_reducible apply State.setFld_kept | with_reducible apply State.setBit_kept
    | with_reducible apply kept_ite | with_reducible apply keptF_self | split | dsimp only [kept_mk]

theorem State.modAsk_kept {o : State} {x0 : State} {x1 : Nat} {x2 : Nat} {x3 : Ask → Ask} (h : Kept o x0) :
    Kept o (State.modAsk x0 x1 x2 x3) := by
  unfold State.modAsk
  repeat' first
    | with_reducible assumption | extract_lets | intro _ | with_reducible apply kept_ite | with_reducible apply keptF_self | split
    | dsimp only [kept_mk]

theorem State.unbindAsk_kept {o : State} {x0 : State} {x1 : Ask} (h : Kept o x0) :
    Kept o (State.unbindAsk x0 x1) := by
  unfold State.unbindAsk
  repeat' first
    | with_reducible assumption | extract_lets | intro _ | with_reducible apply State.unbindEpoch_kept | with_reducible apply State.modAsk_kept
    | with_reducible apply kept_ite | with_reducible apply keptF_self | split | dsimp only [kept_mk]

theorem State.countWalk_kept {o : State} {x0 : State} {x1 : Nat} {x2 : Nat} {x3 : Nat} {x4 : Walk} (h : Kept o x0) :
    Kept o (State.countWalk x0 x1 x2 x3 x4) := by
  unfold State.countWalk
  repeat' first
    | with_reducible assumption | extract_lets | intro _ | with_reducible apply State.addReg_kept | with_reducible apply State.coreFault_kept
    | with_reducible apply kept_ite | with_reducible apply keptF_self | split | dsimp only [kept_mk]

theorem State.tellAsk_kept {o : State} {x0 : State} {x1 : Ask} {x2 : Nat} {x3 : Nat} {x4 : List Byte} (h : Kept o x0) :
    Kept o (State.tellAsk x0 x1 x2 x3 x4) := by
  unfold State.tellAsk
  repeat' first
    | with_reducible assumption | extract_lets | intro _ | with_reducible apply State.complete_kept | with_reducible apply State.modAsk_kept
    | with_reducible apply kept_ite | with_reducible apply keptF_self | split | dsimp only [kept_mk]

theorem State.abortAsk_kept {o : State} {x0 : State} {x1 : Ask} (h : Kept o x0) :
    Kept o (State.abortAsk x0 x1) := by
  unfold State.abortAsk
  repeat' first
    | with_reducible assumption | with_reducible apply State.tellAsk_kept | with_reducible apply State.unbindAsk_kept | dsimp only

theorem Busy.release_kept {o : State} {x0 : Busy} {x1 : State} (h : Kept o x1) :
    Kept o (Busy.release x0 x1) := by
  unfold Busy.release
  repeat' first
    | with_reducible assumption | extract_lets | intro _ | with_reducible exact kept_of_snd ‹_› ‹_› | with_reducible apply State.unbindEpoch_kept
    | with_reducible apply kept_each | with_reducible apply kept_ite | with_reducible apply kept_ite_snd2 | with_reducible apply kept_ite_snd
    | with_reducible apply keptF_self | with_reducible apply keptF_put | with_reducible apply keptF_sput | with_reducible apply keptF_sputs
    | with_reducible apply keptF_zero | with_reducible apply keptF_nil | with_reducible apply keptF_filter | with_reducible apply kept_foldl_snd
    | with_reducible apply kept_foldl | with_reducible refine kept_of_snd ‹_› ?_ | split | dsimp only [kept_mk] | dsimp +zetaDelta only [kept_mk]

theorem State.refuseAsk_kept {o : State} {x0 : State} {x1 : Nat} (h : Kept o x0) :
    Kept o (State.refuseAsk x0 x1) := by
  unfold State.refuseAsk
  repeat' first
    | with_reducible assumption | extract_lets | intro _ | with_reducible apply State.tellAsk_kept | with_reducible apply kept_ite
    | with_reducible apply keptF_self | split | dsimp only [kept_mk]

theorem State.bindEpoch_kept {o : State} {x0 : State} {x1 : Nat} {x2 : Nat} (h : Kept o x0) :
    Kept o (State.bindEpoch x0 x1 x2) := by
  unfold State.bindEpoch
  repeat' first
    | with_reducible assumption | with_reducible apply State.setFld_kept | dsimp only

theorem State.endAsk_kept {o : State} {x0 : State} {x1 : Ask} (h : Kept o x0) :
    Kept o (State.endAsk x0 x1) := by
  unfold State.endAsk
  repeat' first
    | with_reducible assumption | extract_lets | intro _ | with_reducible apply State.unbindAsk_kept | with_reducible apply kept_ite
    | with_reducible apply keptF_self | split | dsimp only [kept_mk]

theorem State.billAsk_kept {o : State} {x0 : State} {x1 : Option NHdr} {x2 : Nat} (h : Kept o x0) :
    Kept o (State.billAsk x0 x1 x2) := by
  unfold State.billAsk
  repeat' first
    | with_reducible assumption | extract_lets | intro _ | with_reducible apply kept_ite | with_reducible apply keptF_self | split
    | dsimp only [kept_mk]

theorem State.setLink_kept {o : State} {x0 : State} {x1 : Nat} {x2 : Nat} {x3 : Link} (h : Kept o x0) :
    Kept o (State.setLink x0 x1 x2 x3) := by
  unfold State.setLink
  repeat' first
    | with_reducible assumption | extract_lets | intro _ | with_reducible apply kept_ite | with_reducible apply keptF_self | split
    | dsimp only [kept_mk]

theorem State.takeCredits_kept {o : State} {x0 : State} {x1 : Nat} {x2 : Nat} {x3 : List Nat} (h : Kept o x0) :
    Kept o (State.takeCredits x0 x1 x2 x3) := by
  unfold State.takeCredits
  repeat' first
    | with_reducible assumption | extract_lets | intro _ | with_reducible apply State.setLink_kept | with_reducible apply State.tick_kept
    | with_reducible apply State.setFld_kept | with_reducible apply kept_ite | with_reducible apply keptF_self | split | dsimp only [kept_mk]

theorem State.takeAck_kept {o : State} {x0 : State} {x1 : Nat} {x2 : Nat} {x3 : BitVec 12} (h : Kept o x0) :
    Kept o (State.takeAck x0 x1 x2 x3) := by
  unfold State.takeAck
  repeat' first
    | with_reducible assumption | extract_lets | intro _ | with_reducible apply State.setLink_kept | with_reducible apply kept_ite
    | with_reducible apply keptF_self | split | dsimp only [kept_mk]

theorem State.unbuffer_kept {o : State} {x0 : State} {x1 : OutFlit} (h : Kept o x0) :
    Kept o (State.unbuffer x0 x1).2 := by
  unfold State.unbuffer
  repeat' first
    | with_reducible assumption | extract_lets | intro _ | with_reducible apply State.hubRead_kept | with_reducible apply kept_ite
    | with_reducible apply keptF_self | split | dsimp only [kept_mk]

theorem State.sendIdle_kept {o : State} {x0 : State} {x1 : Nat} {x2 : Nat} {x3 : Bool} (h : Kept o x0) :
    Kept o (State.sendIdle x0 x1 x2 x3) := by
  unfold State.sendIdle
  repeat' first
    | with_reducible assumption | extract_lets | intro _ | with_reducible apply State.setLink_kept | with_reducible apply kept_ite
    | with_reducible apply keptF_self | split | dsimp only [kept_mk]

theorem State.payBack_kept {o : State} {x0 : State} {x1 : Nat} {x2 : Nat} (h : Kept o x0) :
    Kept o (State.payBack x0 x1 x2) := by
  unfold State.payBack
  repeat' first
    | with_reducible assumption | extract_lets | intro _ | with_reducible apply State.sendIdle_kept | with_reducible apply kept_ite
    | with_reducible apply keptF_self | split | dsimp only [kept_mk]

theorem State.freeBuf_kept {o : State} {x0 : OutFlit} {x1 : State} (h : Kept o x1) :
    Kept o (State.freeBuf x0 x1) := by
  unfold State.freeBuf
  repeat' first
    | with_reducible assumption | extract_lets | intro _ | with_reducible apply State.setLink_kept | with_reducible apply State.payBack_kept
    | with_reducible apply kept_ite | with_reducible apply keptF_self | split | dsimp only [kept_mk]

theorem State.chargeFlit_kept {o : State} {x0 : OutFlit} {x1 : State} (h : Kept o x1) :
    Kept o (State.chargeFlit x0 x1) := by
  unfold State.chargeFlit
  repeat' first
    | with_reducible assumption | extract_lets | intro _ | with_reducible apply State.charge_kept | with_reducible apply State.billAsk_kept
    | with_reducible apply State.chargeHouse_kept | with_reducible apply kept_ite | with_reducible apply keptF_self | split | dsimp only [kept_mk]

theorem State.putOnLink_kept {o : State} {x0 : State} {x1 : Nat} {x2 : Nat} {x3 : OutFlit} (h : Kept o x0) :
    Kept o (State.putOnLink x0 x1 x2 x3) := by
  unfold State.putOnLink
  repeat' first
    | with_reducible assumption | extract_lets | intro _ | with_reducible exact kept_of_snd ‹_› ‹_› | with_reducible apply State.setLink_kept
    | with_reducible apply State.tick_kept | with_reducible apply State.setFld_kept | with_reducible apply State.addReg_kept
    | with_reducible apply State.freeBuf_kept | with_reducible apply State.chargeFlit_kept | with_reducible apply kept_each
    | with_reducible apply kept_ite | with_reducible apply kept_ite_snd2 | with_reducible apply kept_ite_snd | with_reducible apply keptF_self
    | with_reducible apply keptF_put | with_reducible apply keptF_sput | with_reducible apply keptF_sputs | with_reducible apply keptF_zero
    | with_reducible apply keptF_nil | with_reducible apply keptF_filter | with_reducible apply kept_foldl_snd | with_reducible apply kept_foldl
    | with_reducible refine kept_of_snd ‹_› ?_ | split | dsimp only [kept_mk] | dsimp +zetaDelta only [kept_mk]

theorem State.pump_kept {o : State} {x0 : Nat} {x1 : Nat} {x2 : State} (h : Kept o x2) :
    Kept o (State.pump x0 x1 x2) := by
  induction x0 generalizing x1 x2 with
  | zero => simpa only [State.pump] using h
  | succ m ih =>
    rw [State.pump]
    repeat' first
      | with_reducible assumption | with_reducible apply ih | extract_lets | intro _ | with_reducible exact kept_of_snd ‹_› ‹_›
      | with_reducible apply State.unbuffer_kept | with_reducible apply State.putOnLink_kept | with_reducible apply kept_each
      | with_reducible apply kept_ite | with_reducible apply kept_ite_snd2 | with_reducible apply kept_ite_snd | with_reducible apply keptF_self
      | with_reducible apply keptF_put | with_reducible apply keptF_sput | with_reducible apply keptF_sputs | with_reducible apply keptF_zero
      | with_reducible apply keptF_nil | with_reducible apply keptF_filter | with_reducible apply kept_foldl_snd | with_reducible apply kept_foldl
      | with_reducible refine kept_of_snd ‹_› ?_ | split | dsimp only [kept_mk] | dsimp +zetaDelta only [kept_mk]

theorem State.dropVia_kept {o : State} {x0 : State} {x1 : Nat} (h : Kept o x0) :
    Kept o (State.dropVia x0 x1) := by
  unfold State.dropVia
  repeat' first
    | with_reducible assumption | extract_lets | intro _ | with_reducible apply kept_ite | with_reducible apply keptF_self | split
    | dsimp only [kept_mk]

theorem State.pumpPort_kept {o : State} {x0 : State} {x1 : Nat} (h : Kept o x0) :
    Kept o (State.pumpPort x0 x1) := by
  unfold State.pumpPort
  repeat' first
    | with_reducible assumption | with_reducible apply State.pump_kept | dsimp only

theorem State.bufferFlit_kept {o : State} {x0 : State} {x1 : Nat} {x2 : OutFlit} (h : Kept o x0) :
    Kept o (State.bufferFlit x0 x1 x2) := by
  unfold State.bufferFlit
  repeat' first
    | with_reducible assumption | extract_lets | intro _ | with_reducible exact kept_of_snd ‹_› ‹_› | with_reducible apply State.hubWrite_kept
    | with_reducible apply State.fresh_kept | with_reducible apply kept_each | with_reducible apply kept_ite | with_reducible apply kept_ite_snd2
    | with_reducible apply kept_ite_snd | with_reducible apply keptF_self | with_reducible apply keptF_put | with_reducible apply keptF_sput
    | with_reducible apply keptF_sputs | with_reducible apply keptF_zero | with_reducible apply keptF_nil | with_reducible apply keptF_filter
    | with_reducible apply kept_foldl_snd | with_reducible apply kept_foldl | with_reducible refine kept_of_snd ‹_› ?_ | split | dsimp only [kept_mk]
    | dsimp +zetaDelta only [kept_mk]

theorem State.sendFlit_kept {o : State} {x0 : State} {x1 : Flit} {x2 : optParam (Option Nat) Option.none} {x3 : optParam (Option NHdr) Option.none} {x4 : optParam (Option (Nat × Nat)) Option.none} (h : Kept o x0) :
    Kept o (State.sendFlit x0 x1 x2 x3 x4) := by
  unfold State.sendFlit
  repeat' first
    | with_reducible assumption | extract_lets | intro _ | with_reducible apply State.freeBuf_kept | with_reducible apply State.pumpPort_kept
    | with_reducible apply State.bufferFlit_kept | with_reducible apply kept_ite | with_reducible apply keptF_self | split | dsimp only [kept_mk]

theorem State.sendCtrl_kept {o : State} {x0 : State} {x1 : Nat} {x2 : Nat} {x3 : Nat} (h : Kept o x0) :
    Kept o (State.sendCtrl x0 x1 x2 x3) := by
  unfold State.sendCtrl
  repeat' first
    | with_reducible assumption | with_reducible apply State.pumpPort_kept | with_reducible apply State.bufferFlit_kept | dsimp only

theorem State.setLinkState_kept {o : State} {x0 : State} {x1 : Nat} {x2 : Nat} {x3 : Nat} (h : Kept o x0) :
    Kept o (State.setLinkState x0 x1 x2 x3) := by
  unfold State.setLinkState
  repeat' first
    | with_reducible assumption | with_reducible apply State.setBit_kept | with_reducible apply State.setFld_kept | dsimp only

theorem State.retrain_kept {o : State} {x0 : State} {x1 : Nat} {x2 : Nat} (h : Kept o x0) :
    Kept o (State.retrain x0 x1 x2) := by
  unfold State.retrain
  repeat' first
    | with_reducible assumption | extract_lets | intro _ | with_reducible apply State.setLink_kept | with_reducible apply State.addReg_kept
    | with_reducible apply State.setLinkState_kept | with_reducible apply kept_ite | with_reducible apply keptF_self | split | dsimp only [kept_mk]

theorem State.replayLink_kept {o : State} {x0 : State} {x1 : Nat} {x2 : Nat} (h : Kept o x0) :
    Kept o (State.replayLink x0 x1 x2) := by
  unfold State.replayLink
  repeat' first
    | with_reducible assumption | extract_lets | intro _ | with_reducible exact kept_of_snd ‹_› ‹_› | with_reducible apply State.addReg_kept
    | with_reducible apply State.chargeFlit_kept | with_reducible apply State.setLink_kept | with_reducible apply kept_each
    | with_reducible apply kept_ite | with_reducible apply kept_ite_snd2 | with_reducible apply kept_ite_snd | with_reducible apply keptF_self
    | with_reducible apply keptF_put | with_reducible apply keptF_sput | with_reducible apply keptF_sputs | with_reducible apply keptF_zero
    | with_reducible apply keptF_nil | with_reducible apply keptF_filter | with_reducible apply kept_foldl_snd | with_reducible apply kept_foldl
    | with_reducible refine kept_of_snd ‹_› ?_ | split | dsimp only [kept_mk] | dsimp +zetaDelta only [kept_mk]

theorem State.gxFault_kept {o : State} {x0 : State} {x1 : Nat} {x2 : Nat} {x3 : Nat} {x4 : Option Nat} (h : Kept o x0) :
    Kept o (State.gxFault x0 x1 x2 x3 x4) := by
  unfold State.gxFault
  repeat' first
    | with_reducible assumption | with_reducible apply State.coreFault_kept | dsimp only

theorem State.treeSend_kept {o : State} {x0 : State} {x1 : List Nat} {x2 : Nat} {x3 : Option NHdr} {x4 : Flit} {x5 : MarkedLines} (h : Kept o x0) :
    Kept o (State.treeSend x0 x1 x2 x3 x4 x5) := by
  unfold State.treeSend
  repeat' first
    | with_reducible assumption | extract_lets | intro _ | with_reducible exact kept_of_snd ‹_› ‹_› | with_reducible apply State.sendFlit_kept
    | with_reducible apply kept_each | with_reducible apply kept_ite | with_reducible apply kept_ite_snd2 | with_reducible apply kept_ite_snd
    | with_reducible apply keptF_self | with_reducible apply keptF_put | with_reducible apply keptF_sput | with_reducible apply keptF_sputs
    | with_reducible apply keptF_zero | with_reducible apply keptF_nil | with_reducible apply keptF_filter | with_reducible apply kept_foldl_snd
    | with_reducible apply kept_foldl | with_reducible refine kept_of_snd ‹_› ?_ | split | dsimp only [kept_mk] | dsimp +zetaDelta only [kept_mk]

theorem State.endColl_kept {o : State} {x0 : State} {x1 : Coll} (h : Kept o x0) :
    Kept o (State.endColl x0 x1) := by
  unfold State.endColl
  repeat' first
    | with_reducible assumption | extract_lets | intro _ | with_reducible exact kept_of_snd ‹_› ‹_› | with_reducible apply State.endAsk_kept
    | with_reducible apply State.busyDone_kept | with_reducible apply kept_each | with_reducible apply kept_ite | with_reducible apply kept_ite_snd2
    | with_reducible apply kept_ite_snd | with_reducible apply keptF_self | with_reducible apply keptF_put | with_reducible apply keptF_sput
    | with_reducible apply keptF_sputs | with_reducible apply keptF_zero | with_reducible apply keptF_nil | with_reducible apply keptF_filter
    | with_reducible apply kept_foldl_snd | with_reducible apply kept_foldl | with_reducible refine kept_of_snd ‹_› ?_ | split | dsimp only [kept_mk]
    | dsimp +zetaDelta only [kept_mk]

theorem State.showSum_kept {o : State} {x0 : State} {x1 : Nat} {x2 : Nat} {x3 : Nat} (h : Kept o x0) :
    Kept o (State.showSum x0 x1 x2 x3) := by
  unfold State.showSum
  repeat' first
    | with_reducible assumption | extract_lets | intro _ | with_reducible apply State.writeLines_kept | with_reducible apply kept_ite
    | with_reducible apply keptF_self | split | dsimp only [kept_mk]

theorem State.contrib_kept {o : State} {x0 : State} {x1 : Nat} {x2 : Nat} {x3 : Nat} {x4 : Bool} (h : Kept o x0) :
    Kept o (State.contrib x0 x1 x2 x3 x4) := by
  unfold State.contrib
  repeat' first
    | with_reducible assumption | extract_lets | intro _ | with_reducible apply State.tick_kept | with_reducible apply State.subReg_kept
    | with_reducible apply State.addReg_kept | with_reducible apply kept_ite | with_reducible apply keptF_self | split | dsimp only [kept_mk]

theorem State.setRinst_kept {o : State} {x0 : State} {x1 : RInst} (h : Kept o x0) :
    Kept o (State.setRinst x0 x1) := by
  unfold State.setRinst
  repeat' first
    | with_reducible assumption | extract_lets | intro _ | with_reducible apply kept_ite | with_reducible apply keptF_self | split
    | dsimp only [kept_mk]

theorem State.modColl_kept {o : State} {x0 : State} {x1 : Nat} {x2 : Nat} {x3 : Coll → Coll} (h : Kept o x0) :
    Kept o (State.modColl x0 x1 x2 x3) := by
  unfold State.modColl
  repeat' first
    | with_reducible assumption | extract_lets | intro _ | with_reducible apply kept_ite | with_reducible apply keptF_self | split
    | dsimp only [kept_mk]

theorem State.gotLine_kept {o : State} {x0 : State} {x1 : Coll} {x2 : Nat} (h : Kept o x0) :
    Kept o (State.gotLine x0 x1 x2) := by
  unfold State.gotLine
  repeat' first
    | with_reducible assumption | extract_lets | intro _ | with_reducible apply State.modColl_kept | with_reducible apply State.endColl_kept
    | with_reducible apply kept_ite | with_reducible apply keptF_self | split | dsimp only [kept_mk]

theorem State.result_kept {o : State} {x0 : State} {x1 : Coll} {x2 : Nat} {x3 : MarkedLines} (h : Kept o x0) :
    Kept o (State.result x0 x1 x2 x3) := by
  unfold State.result
  repeat' first
    | with_reducible assumption | extract_lets | intro _ | with_reducible exact kept_of_snd ‹_› ‹_› | with_reducible apply State.writeLines_kept
    | with_reducible apply State.gxFault_kept | with_reducible apply State.gotLine_kept | with_reducible apply kept_each
    | with_reducible apply kept_ite | with_reducible apply kept_ite_snd2 | with_reducible apply kept_ite_snd | with_reducible apply keptF_self
    | with_reducible apply keptF_put | with_reducible apply keptF_sput | with_reducible apply keptF_sputs | with_reducible apply keptF_zero
    | with_reducible apply keptF_nil | with_reducible apply keptF_filter | with_reducible apply kept_foldl_snd | with_reducible apply kept_foldl
    | with_reducible refine kept_of_snd ‹_› ?_ | split | dsimp only [kept_mk] | dsimp +zetaDelta only [kept_mk]

theorem State.giveOwn_kept {o : State} {x0 : State} {x1 : RInst} (h : Kept o x0) :
    Kept o (State.giveOwn x0 x1) := by
  unfold State.giveOwn
  repeat' first
    | with_reducible assumption | extract_lets | intro _ | with_reducible exact kept_of_snd ‹_› ‹_› | with_reducible apply State.result_kept
    | with_reducible apply kept_each | with_reducible apply kept_ite | with_reducible apply kept_ite_snd2 | with_reducible apply kept_ite_snd
    | with_reducible apply keptF_self | with_reducible apply keptF_put | with_reducible apply keptF_sput | with_reducible apply keptF_sputs
    | with_reducible apply keptF_zero | with_reducible apply keptF_nil | with_reducible apply keptF_filter | with_reducible apply kept_foldl_snd
    | with_reducible apply kept_foldl | with_reducible refine kept_of_snd ‹_› ?_ | split | dsimp only [kept_mk] | dsimp +zetaDelta only [kept_mk]

theorem State.sendSum_kept {o : State} {x0 : State} {x1 : RInst} {x2 : Nat} (h : Kept o x0) :
    Kept o (State.sendSum x0 x1 x2) := by
  unfold State.sendSum
  repeat' first
    | with_reducible assumption | extract_lets | intro _ | with_reducible exact kept_of_snd ‹_› ‹_› | with_reducible apply State.sendFlit_kept
    | with_reducible apply kept_each | with_reducible apply kept_ite | with_reducible apply kept_ite_snd2 | with_reducible apply kept_ite_snd
    | with_reducible apply keptF_self | with_reducible apply keptF_put | with_reducible apply keptF_sput | with_reducible apply keptF_sputs
    | with_reducible apply keptF_zero | with_reducible apply keptF_nil | with_reducible apply keptF_filter | with_reducible apply kept_foldl_snd
    | with_reducible apply kept_foldl | with_reducible refine kept_of_snd ‹_› ?_ | split | dsimp only [kept_mk] | dsimp +zetaDelta only [kept_mk]

theorem State.closeInst_kept {o : State} {x0 : State} {x1 : RInst} (h : Kept o x0) :
    Kept o (State.closeInst x0 x1) := by
  unfold State.closeInst
  repeat' first
    | with_reducible assumption | extract_lets | intro _ | with_reducible exact kept_of_snd ‹_› ‹_› | with_reducible apply State.contrib_kept
    | with_reducible apply State.setRinst_kept | with_reducible apply State.giveOwn_kept | with_reducible apply State.sendSum_kept
    | with_reducible apply kept_each | with_reducible apply kept_ite | with_reducible apply kept_ite_snd2 | with_reducible apply kept_ite_snd
    | with_reducible apply keptF_self | with_reducible apply keptF_put | with_reducible apply keptF_sput | with_reducible apply keptF_sputs
    | with_reducible apply keptF_zero | with_reducible apply keptF_nil | with_reducible apply keptF_filter | with_reducible apply kept_foldl_snd
    | with_reducible apply kept_foldl | with_reducible refine kept_of_snd ‹_› ?_ | split | dsimp only [kept_mk] | dsimp +zetaDelta only [kept_mk]

theorem State.autoClose_kept {o : State} {x0 : State} {x1 : Nat} {x2 : Nat} {x3 : Nat} (h : Kept o x0) :
    Kept o (State.autoClose x0 x1 x2 x3) := by
  unfold State.autoClose
  repeat' first
    | with_reducible assumption | extract_lets | intro _ | with_reducible apply State.closeInst_kept | with_reducible apply kept_ite
    | with_reducible apply keptF_self | split | dsimp only [kept_mk]

theorem State.contribute_kept {o : State} {x0 : State} {x1 : Nat} {x2 : Nat} {x3 : Nat} {x4 : Nat} {x5 : Nat} {x6 : Nat} {x7 : Nat} {x8 : MarkedLines} (h : Kept o x0) :
    Kept o (State.contribute x0 x1 x2 x3 x4 x5 x6 x7 x8) := by
  unfold State.contribute
  repeat' first
    | with_reducible assumption | extract_lets | intro _ | with_reducible exact kept_of_snd ‹_› ‹_› | with_reducible apply State.raise_kept
    | with_reducible apply State.contrib_kept | with_reducible apply State.setRinst_kept | with_reducible apply kept_each
    | with_reducible apply kept_ite | with_reducible apply kept_ite_snd2 | with_reducible apply kept_ite_snd | with_reducible apply keptF_self
    | with_reducible apply keptF_put | with_reducible apply keptF_sput | with_reducible apply keptF_sputs | with_reducible apply keptF_zero
    | with_reducible apply keptF_nil | with_reducible apply keptF_filter | with_reducible apply kept_foldl_snd | with_reducible apply kept_foldl
    | with_reducible refine kept_of_snd ‹_› ?_ | split | dsimp only [kept_mk] | dsimp +zetaDelta only [kept_mk]

theorem State.contribFlit_kept {o : State} {x0 : State} {x1 : Flit} (h : Kept o x0) :
    Kept o (State.contribFlit x0 x1) := by
  unfold State.contribFlit
  repeat' first
    | with_reducible assumption | extract_lets | intro _ | with_reducible exact kept_of_snd ‹_› ‹_› | with_reducible apply State.showSum_kept
    | with_reducible apply State.autoClose_kept | with_reducible apply State.contribute_kept | with_reducible apply kept_each
    | with_reducible apply kept_ite | with_reducible apply kept_ite_snd2 | with_reducible apply kept_ite_snd | with_reducible apply keptF_self
    | with_reducible apply keptF_put | with_reducible apply keptF_sput | with_reducible apply keptF_sputs | with_reducible apply keptF_zero
    | with_reducible apply keptF_nil | with_reducible apply keptF_filter | with_reducible apply kept_foldl_snd | with_reducible apply kept_foldl
    | with_reducible refine kept_of_snd ‹_› ?_ | split | dsimp only [kept_mk] | dsimp +zetaDelta only [kept_mk]

theorem State.missSet_kept {o : State} {x0 : State} {x1 : Nat} (h : Kept o x0) :
    Kept o (State.missSet x0 x1) := by
  unfold State.missSet
  repeat' first
    | with_reducible assumption | extract_lets | intro _ | with_reducible apply State.modJob_kept | with_reducible apply kept_ite
    | with_reducible apply keptF_self | split | dsimp only [kept_mk]

theorem State.failColl_kept {o : State} {x0 : State} {x1 : Coll} {x2 : Nat} {x3 : Nat} (h : Kept o x0) :
    Kept o (State.failColl x0 x1 x2 x3) := by
  unfold State.failColl
  repeat' first
    | with_reducible assumption | extract_lets | intro _ | with_reducible exact kept_of_snd ‹_› ‹_› | with_reducible apply State.tellAsk_kept
    | with_reducible apply State.opWrite_kept | with_reducible apply State.missSet_kept | with_reducible apply State.gxFault_kept
    | with_reducible apply State.raise_kept | with_reducible apply State.endColl_kept | with_reducible apply kept_each | with_reducible apply kept_ite
    | with_reducible apply kept_ite_snd2 | with_reducible apply kept_ite_snd | with_reducible apply keptF_self | with_reducible apply keptF_put
    | with_reducible apply keptF_sput | with_reducible apply keptF_sputs | with_reducible apply keptF_zero | with_reducible apply keptF_nil
    | with_reducible apply keptF_filter | with_reducible apply kept_foldl_snd | with_reducible apply kept_foldl
    | with_reducible refine kept_of_snd ‹_› ?_ | split | dsimp only [kept_mk] | dsimp +zetaDelta only [kept_mk]

theorem State.cleared_kept {o : State} {x0 : State} {x1 : Coll} {x2 : List Cand} {x3 : Bool} (h : Kept o x0) :
    Kept o (State.cleared x0 x1 x2 x3) := by
  unfold State.cleared
  repeat' first
    | with_reducible assumption | extract_lets | intro _ | with_reducible exact kept_of_snd ‹_› ‹_› | with_reducible apply State.gxFault_kept
    | with_reducible apply State.tellAsk_kept | with_reducible apply State.opWrite_kept | with_reducible apply State.endColl_kept
    | with_reducible apply kept_each | with_reducible apply kept_ite | with_reducible apply kept_ite_snd2 | with_reducible apply kept_ite_snd
    | with_reducible apply keptF_self | with_reducible apply keptF_put | with_reducible apply keptF_sput | with_reducible apply keptF_sputs
    | with_reducible apply keptF_zero | with_reducible apply keptF_nil | with_reducible apply keptF_filter | with_reducible apply kept_foldl_snd
    | with_reducible apply kept_foldl | with_reducible refine kept_of_snd ‹_› ?_ | split | dsimp only [kept_mk] | dsimp +zetaDelta only [kept_mk]

theorem State.treeLine_kept {o : State} {x0 : State} {x1 : Coll} {x2 : Nat} {x3 : Nat} {x4 : List Byte × Bool} (h : Kept o x0) :
    Kept o (State.treeLine x0 x1 x2 x3 x4) := by
  unfold State.treeLine
  repeat' first
    | with_reducible assumption | extract_lets | intro _ | with_reducible apply State.result_kept | with_reducible apply State.modColl_kept
    | with_reducible apply State.cleared_kept | with_reducible apply kept_ite | with_reducible apply keptF_self | split | dsimp only [kept_mk]

theorem State.collFlit_kept {o : State} {x0 : State} {x1 : Coll} {x2 : Flit} (h : Kept o x0) :
    Kept o (State.collFlit x0 x1 x2) := by
  unfold State.collFlit
  repeat' first
    | with_reducible assumption | extract_lets | intro _ | with_reducible exact kept_of_snd ‹_› ‹_› | with_reducible apply State.failColl_kept
    | with_reducible apply State.treeLine_kept | with_reducible apply State.result_kept | with_reducible apply kept_each
    | with_reducible apply kept_ite | with_reducible apply kept_ite_snd2 | with_reducible apply kept_ite_snd | with_reducible apply keptF_self
    | with_reducible apply keptF_put | with_reducible apply keptF_sput | with_reducible apply keptF_sputs | with_reducible apply keptF_zero
    | with_reducible apply keptF_nil | with_reducible apply keptF_filter | with_reducible apply kept_foldl_snd | with_reducible apply kept_foldl
    | with_reducible refine kept_of_snd ‹_› ?_ | split | dsimp only [kept_mk] | dsimp +zetaDelta only [kept_mk]

theorem State.collArrive_kept {o : State} {x0 : State} {x1 : Flit} (h : Kept o x0) :
    Kept o (State.collArrive x0 x1) := by
  unfold State.collArrive
  repeat' first
    | with_reducible assumption | extract_lets | intro _ | with_reducible apply State.treeSend_kept | with_reducible apply State.contribFlit_kept
    | with_reducible apply State.collFlit_kept | with_reducible apply kept_ite | with_reducible apply keptF_self | split | dsimp only [kept_mk]

theorem State.remoteViolation_kept {o : State} {x0 : State} {x1 : Nat} {x2 : Nat} (h : Kept o x0) :
    Kept o (State.remoteViolation x0 x1 x2) := by
  unfold State.remoteViolation
  repeat' first
    | with_reducible assumption | extract_lets | intro _ | with_reducible exact kept_of_snd ‹_› ‹_› | with_reducible apply State.addReg_kept
    | with_reducible apply State.raise_kept | with_reducible apply State.harnViolate_kept | with_reducible apply State.sramWinViolation_kept
    | with_reducible apply State.overlayViolate_kept | with_reducible apply State.memViolation_kept | with_reducible apply State.countViolation_kept
    | with_reducible apply kept_each | with_reducible apply kept_ite | with_reducible apply kept_ite_snd2 | with_reducible apply kept_ite_snd
    | with_reducible apply keptF_self | with_reducible apply keptF_put | with_reducible apply keptF_sput | with_reducible apply keptF_sputs
    | with_reducible apply keptF_zero | with_reducible apply keptF_nil | with_reducible apply keptF_filter | with_reducible apply kept_foldl_snd
    | with_reducible apply kept_foldl | with_reducible refine kept_of_snd ‹_› ?_ | split | dsimp only [kept_mk] | dsimp +zetaDelta only [kept_mk]

theorem State.remoteRead_kept {o : State} {x0 : State} {x1 : Nat} {x2 : Option NHdr} {x3 : Nat} (h : Kept o x0) :
    Kept o (State.remoteRead x0 x1 x2 x3).2 := by
  unfold State.remoteRead
  repeat' first
    | with_reducible assumption | extract_lets | intro _ | with_reducible apply State.sramCheck_kept | with_reducible apply State.charge_kept
    | with_reducible apply State.remoteViolation_kept | with_reducible apply kept_ite | with_reducible apply keptF_self | split | dsimp only [kept_mk]

theorem State.remoteLines_kept {o : State} {x0 : Nat} {x1 : Option NHdr} {x2 x3 : Nat} {x4 : State} (h : Kept o x4) :
    Kept o (State.remoteLines x0 x1 x2 x3 x4).2 := by
  induction x2 generalizing x3 x4 with
  | zero => exact h
  | succ m ih => exact ih (State.remoteRead_kept h)

theorem State.dropTxn_kept {o : State} {x0 : State} {x1 : Nat} (h : Kept o x0) :
    Kept o (State.dropTxn x0 x1) := by
  unfold State.dropTxn
  repeat' first
    | with_reducible assumption | extract_lets | intro _ | with_reducible apply kept_ite | with_reducible apply keptF_self | split
    | dsimp only [kept_mk]

theorem State.endTxn_kept {o : State} {x0 : State} {x1 : Txn} {x2 : Bool} (h : Kept o x0) :
    Kept o (State.endTxn x0 x1 x2) := by
  unfold State.endTxn
  repeat' first
    | with_reducible assumption | extract_lets | intro _ | with_reducible exact kept_of_snd ‹_› ‹_› | with_reducible apply State.dropTxn_kept
    | with_reducible apply State.opWrite_kept | with_reducible apply State.gxFault_kept | with_reducible apply State.busyDone_kept
    | with_reducible apply kept_each | with_reducible apply kept_ite | with_reducible apply kept_ite_snd2 | with_reducible apply kept_ite_snd
    | with_reducible apply keptF_self | with_reducible apply keptF_put | with_reducible apply keptF_sput | with_reducible apply keptF_sputs
    | with_reducible apply keptF_zero | with_reducible apply keptF_nil | with_reducible apply keptF_filter | with_reducible apply kept_foldl_snd
    | with_reducible apply kept_foldl | with_reducible refine kept_of_snd ‹_› ?_ | split | dsimp only [kept_mk] | dsimp +zetaDelta only [kept_mk]

theorem State.getLines_kept {o : State} {x0 : State} {x1 : Txn} {x2 : Nat} {x3 : MarkedLines} (h : Kept o x0) :
    Kept o (State.getLines x0 x1 x2 x3) := by
  unfold State.getLines
  repeat' first
    | with_reducible assumption | extract_lets | intro _ | with_reducible apply State.writeLines_kept | with_reducible apply State.gxFault_kept
    | with_reducible apply State.endTxn_kept | with_reducible apply kept_ite | with_reducible apply keptF_self | split | dsimp only [kept_mk]

theorem State.remoteWrite_kept {o : State} {x0 : State} {x1 : Nat} {x2 : Option NHdr} {x3 : Nat} {x4 : List Byte × Bool} (h : Kept o x0) :
    Kept o (State.remoteWrite x0 x1 x2 x3 x4) := by
  unfold State.remoteWrite
  repeat' first
    | with_reducible assumption | extract_lets | intro _ | with_reducible apply State.charge_kept | with_reducible apply State.sramWrite_kept
    | with_reducible apply State.remoteViolation_kept | with_reducible apply State.dramWrite_kept | with_reducible apply kept_ite
    | with_reducible apply keptF_self | split | dsimp only [kept_mk]

theorem State.startGx_kept {o : State} {x0 : State} {x1 : Bool} {x2 : Hdr} {x3 : GxOps} {x4 : Ctx} (h : Kept o x0) :
    Kept o (State.startGx x0 x1 x2 x3 x4) := by
  unfold State.startGx
  repeat' first
    | with_reducible assumption | extract_lets | intro _ | with_reducible exact kept_of_snd ‹_› ‹_› | with_reducible apply State.begin_kept
    | with_reducible apply State.operands_kept | with_reducible apply State.gxFault_kept | with_reducible apply State.asIssued_kept
    | with_reducible apply State.remoteLines_kept | with_reducible apply State.getLines_kept | with_reducible apply State.endTxn_kept
    | with_reducible apply State.remoteWrite_kept | with_reducible apply State.sendFlit_kept | with_reducible apply kept_each
    | with_reducible apply kept_ite | with_reducible apply kept_ite_snd2 | with_reducible apply kept_ite_snd | with_reducible apply keptF_self
    | with_reducible apply keptF_put | with_reducible apply keptF_sput | with_reducible apply keptF_sputs | with_reducible apply keptF_zero
    | with_reducible apply keptF_nil | with_reducible apply keptF_filter | with_reducible apply kept_foldl_snd | with_reducible apply kept_foldl
    | with_reducible refine kept_of_snd ‹_› ?_ | split | dsimp only [kept_mk] | dsimp +zetaDelta only [kept_mk]

theorem State.joinColl_kept {o : State} {x0 : State} {x1 : Coll} {x2 : Nat} {x3 : Option NHdr} {x4 : Bool} {x5 : MarkedLines} (h : Kept o x0) :
    Kept o (State.joinColl x0 x1 x2 x3 x4 x5) := by
  unfold State.joinColl
  repeat' first
    | with_reducible assumption | extract_lets | intro _ | with_reducible exact kept_of_snd ‹_› ‹_› | with_reducible apply State.failColl_kept
    | with_reducible apply State.treeSend_kept | with_reducible apply State.treeLine_kept | with_reducible apply State.sendFlit_kept
    | with_reducible apply State.autoClose_kept | with_reducible apply State.contribute_kept | with_reducible apply State.giveOwn_kept
    | with_reducible apply State.showSum_kept | with_reducible apply State.collFlit_kept | with_reducible apply kept_each
    | with_reducible apply kept_ite | with_reducible apply kept_ite_snd2 | with_reducible apply kept_ite_snd | with_reducible apply keptF_self
    | with_reducible apply keptF_put | with_reducible apply keptF_sput | with_reducible apply keptF_sputs | with_reducible apply keptF_zero
    | with_reducible apply keptF_nil | with_reducible apply keptF_filter | with_reducible apply kept_foldl_snd | with_reducible apply kept_foldl
    | with_reducible refine kept_of_snd ‹_› ?_ | split | dsimp only [kept_mk] | dsimp +zetaDelta only [kept_mk]

theorem State.startColl_kept {o : State} {x0 : State} {x1 : Nat} {x2 : Hdr} {x3 : CollOps} {x4 : Ctx} (h : Kept o x0) :
    Kept o (State.startColl x0 x1 x2 x3 x4) := by
  unfold State.startColl
  repeat' first
    | with_reducible assumption | extract_lets | intro _ | with_reducible exact kept_of_snd ‹_› ‹_› | with_reducible apply State.asIssued_kept
    | with_reducible apply State.noEffect_kept | with_reducible apply State.begin_kept | with_reducible apply State.operands_kept
    | with_reducible apply State.gxFault_kept | with_reducible apply State.joinColl_kept | with_reducible apply kept_each
    | with_reducible apply kept_ite | with_reducible apply kept_ite_snd2 | with_reducible apply kept_ite_snd | with_reducible apply keptF_self
    | with_reducible apply keptF_put | with_reducible apply keptF_sput | with_reducible apply keptF_sputs | with_reducible apply keptF_zero
    | with_reducible apply keptF_nil | with_reducible apply keptF_filter | with_reducible apply kept_foldl_snd | with_reducible apply kept_foldl
    | with_reducible refine kept_of_snd ‹_› ?_ | split | dsimp only [kept_mk] | dsimp +zetaDelta only [kept_mk]

theorem State.dropCarries_kept {o : State} {x0 : State} {x1 : Nat} (h : Kept o x0) :
    Kept o (State.dropCarries x0 x1) := by
  unfold State.dropCarries
  repeat' first
    | with_reducible assumption | extract_lets | intro _ | with_reducible apply State.contrib_kept | with_reducible apply kept_ite
    | with_reducible apply keptF_self | split | dsimp only [kept_mk]

theorem State.joinAsk_kept {o : State} {x0 : State} {x1 : Ask} {x2 : Nat} {x3 : Nat} {x4 : List Cand} {x5 : Bool} (h : Kept o x0) :
    Kept o (State.joinAsk x0 x1 x2 x3 x4 x5) := by
  unfold State.joinAsk
  repeat' first
    | with_reducible assumption | with_reducible apply State.joinColl_kept | dsimp only

theorem State.endBroken_kept {o : State} {x0 : State} (h : Kept o x0) :
    Kept o (State.endBroken x0) := by
  unfold State.endBroken
  repeat' first
    | with_reducible assumption | extract_lets | intro _ | with_reducible exact kept_of_snd ‹_› ‹_› | with_reducible apply State.endTxn_kept
    | with_reducible apply State.failColl_kept | with_reducible apply State.dropCarries_kept | with_reducible apply kept_each
    | with_reducible apply kept_ite | with_reducible apply kept_ite_snd2 | with_reducible apply kept_ite_snd | with_reducible apply keptF_self
    | with_reducible apply keptF_put | with_reducible apply keptF_sput | with_reducible apply keptF_sputs | with_reducible apply keptF_zero
    | with_reducible apply keptF_nil | with_reducible apply keptF_filter | with_reducible apply kept_foldl_snd | with_reducible apply kept_foldl
    | with_reducible refine kept_of_snd ‹_› ?_ | split | dsimp only [kept_mk] | dsimp +zetaDelta only [kept_mk]

theorem State.putQuery_kept {o : State} {x0 : Nat} {x1 : Nat} {x2 : Nat} {x3 : Nat} {x4 : Option NHdr} {x5 : MarkedLines} {x6 : Nat} {x7 : State} (h : Kept o x7) :
    Kept o (State.putQuery x0 x1 x2 x3 x4 x5 x6 x7) := by
  unfold State.putQuery
  repeat' first
    | with_reducible assumption | extract_lets | intro _ | with_reducible exact kept_of_snd ‹_› ‹_› | with_reducible apply State.modAsk_kept
    | with_reducible apply State.endTxn_kept | with_reducible apply State.sendFlit_kept | with_reducible apply kept_each
    | with_reducible apply kept_ite | with_reducible apply kept_ite_snd2 | with_reducible apply kept_ite_snd | with_reducible apply keptF_self
    | with_reducible apply keptF_put | with_reducible apply keptF_sput | with_reducible apply keptF_sputs | with_reducible apply keptF_zero
    | with_reducible apply keptF_nil | with_reducible apply keptF_filter | with_reducible apply kept_foldl_snd | with_reducible apply kept_foldl
    | with_reducible refine kept_of_snd ‹_› ?_ | split | dsimp only [kept_mk] | dsimp +zetaDelta only [kept_mk]

theorem State.hxFault_kept {o : State} {x0 : State} {x1 : Nat} {x2 : Nat} {x3 : Nat} {x4 : Nat} (h : Kept o x0) :
    Kept o (State.hxFault x0 x1 x2 x3 x4) := by
  unfold State.hxFault
  repeat' first
    | with_reducible assumption | with_reducible apply State.coreFault_kept | dsimp only

theorem State.tally_kept {o : State} {x0 : State} {x1 : Nat} {x2 : Nat} {x3 : Nat} {x4 : Nat} (h : Kept o x0) :
    Kept o (State.tally x0 x1 x2 x3 x4) := by
  unfold State.tally
  repeat' first
    | with_reducible assumption | extract_lets | intro _ | with_reducible apply State.tick_kept | with_reducible apply State.addReg_kept
    | with_reducible apply kept_ite | with_reducible apply keptF_self | split | dsimp only [kept_mk]

theorem State.setRing_kept {o : State} {x0 : State} {x1 : Nat} {x2 : Nat} {x3 : Ring} (h : Kept o x0) :
    Kept o (State.setRing x0 x1 x2 x3) := by
  unfold State.setRing
  repeat' first
    | with_reducible assumption | extract_lets | intro _ | with_reducible apply kept_ite | with_reducible apply keptF_self | split
    | dsimp only [kept_mk]

theorem State.consumeRecord_kept {o : State} {x0 : State} {x1 : Nat} {x2 : Nat} (h : Kept o x0) :
    Kept o (State.consumeRecord x0 x1 x2) := by
  unfold State.consumeRecord
  repeat' first
    | with_reducible assumption | with_reducible apply State.tally_kept | with_reducible apply State.setRing_kept | dsimp only

theorem State.sendRecord_kept {o : State} {x0 : State} {x1 : Ctx} {x2 : Nat} {x3 : Nat} {x4 : Bool} {x5 : Nat} (h : Kept o x0) :
    Kept o (State.sendRecord x0 x1 x2 x3 x4 x5) := by
  unfold State.sendRecord
  repeat' first
    | with_reducible assumption | extract_lets | intro _ | with_reducible exact kept_of_snd ‹_› ‹_› | with_reducible apply State.violate_kept
    | with_reducible apply State.hxFault_kept | with_reducible apply State.chargeCore_kept | with_reducible apply State.addReg_kept
    | with_reducible apply State.tick_kept | with_reducible apply State.setFld_kept | with_reducible apply State.tally_kept
    | with_reducible apply State.setRing_kept | with_reducible apply State.sendFlit_kept | with_reducible apply kept_each
    | with_reducible apply kept_ite | with_reducible apply kept_ite_snd2 | with_reducible apply kept_ite_snd | with_reducible apply keptF_self
    | with_reducible apply keptF_put | with_reducible apply keptF_sput | with_reducible apply keptF_sputs | with_reducible apply keptF_zero
    | with_reducible apply keptF_nil | with_reducible apply keptF_filter | with_reducible apply kept_foldl_snd | with_reducible apply kept_foldl
    | with_reducible refine kept_of_snd ‹_› ?_ | split | dsimp only [kept_mk] | dsimp +zetaDelta only [kept_mk]

theorem State.sendMany_kept {o : State} {x0 : Ctx} {x1 : Nat} {x2 : Nat} {x3 : Bool} {x4 : Nat} {x5 : Nat} {x6 : State} (h : Kept o x6) :
    Kept o (State.sendMany x0 x1 x2 x3 x4 x5 x6).2.2 := by
  induction x4 generalizing x0 x1 x2 x3 x5 x6 with
  | zero => simpa only [State.sendMany] using h
  | succ m ih =>
    rw [State.sendMany]
    repeat' first
      | with_reducible assumption | with_reducible apply ih | extract_lets | intro _ | with_reducible apply State.sendRecord_kept
      | with_reducible apply kept_ite | with_reducible apply keptF_self | split | dsimp only [kept_mk]

theorem State.nextRecord_kept {o : State} {x0 : State} {x1 : Nat} {x2 : Nat} (h : Kept o x0) :
    ∀ r, (State.nextRecord x0 x1 x2) = some r → Kept o r.2 := by
  unfold State.nextRecord
  repeat' first
    | with_reducible assumption | with_reducible exact opt_none | with_reducible refine opt_some ?_ | extract_lets | split | intro _
    | with_reducible apply State.sramCheck_kept | dsimp only

theorem State.recvMany_kept {o : State} {x0 : Ctx} {x1 x2 x3 x4 : Nat} {x5 : State} (h : Kept o x5) :
    Kept o (State.recvMany x0 x1 x2 x3 x4 x5).2.2 := by
  induction x3 generalizing x4 x5 with
  | zero => exact h
  | succ m ih =>
    rw [State.recvMany]
    split
    · rename_i e
      have a := State.nextRecord_kept h _ e
      refine ih (State.consumeRecord_kept (State.chargeCore_kept (State.addReg_kept ?_)))
      exact kept_ite (State.hxFault_kept (State.writeLines_kept a)) (State.writeLines_kept a)
    · exact h

theorem State.startHx_kept {o : State} {x0 : State} {x1 : Bool} {x2 : Hdr} {x3 : HxOps} {x4 : Ctx} (h : Kept o x0) :
    Kept o (State.startHx x0 x1 x2 x3 x4) := by
  unfold State.startHx
  repeat' first
    | with_reducible assumption | extract_lets | intro _ | with_reducible exact kept_of_snd ‹_› ‹_› | with_reducible apply State.asIssued_kept
    | with_reducible apply State.violate_kept | with_reducible apply State.writeLines_kept | with_reducible apply State.begin_kept
    | with_reducible apply State.hxFault_kept | with_reducible apply State.sramCheck_kept | with_reducible apply State.sendMany_kept
    | with_reducible apply State.recvMany_kept | with_reducible apply kept_each | with_reducible apply kept_ite | with_reducible apply kept_ite_snd2
    | with_reducible apply kept_ite_snd | with_reducible apply keptF_self | with_reducible apply keptF_put | with_reducible apply keptF_sput
    | with_reducible apply keptF_sputs | with_reducible apply keptF_zero | with_reducible apply keptF_nil | with_reducible apply keptF_filter
    | with_reducible apply kept_foldl_snd | with_reducible apply kept_foldl | with_reducible refine kept_of_snd ‹_› ?_ | split | dsimp only [kept_mk]
    | dsimp +zetaDelta only [kept_mk]

theorem State.discardRing_kept {o : State} {x0 : Nat} {x1 : Nat} {x2 : State} (h : Kept o x2) :
    Kept o (State.discardRing x0 x1 x2) := by
  unfold State.discardRing
  repeat' first
    | with_reducible assumption | extract_lets | intro _ | with_reducible apply State.tally_kept | with_reducible apply State.tick_kept
    | with_reducible apply State.setFld_kept | with_reducible apply State.setRing_kept | with_reducible apply kept_ite
    | with_reducible apply keptF_self | split | dsimp only [kept_mk]

end Sys2Proof.Machine
end

