-- ==== Sys2Proof/Laws/Kept3.lean ====
section
/-! SUPPORT. Laws/Kept3.lean: one lemma per operation of the machine: it keeps what KeptBase names (part 3, in the order in which operations use
each other). -/

namespace Sys2Proof.Machine

open Sys2Proof

theorem State.deadRows_kept {o : State} {x0 : State} {x1 : Ctx} {x2 : VxOps} {x3 : Nat} {x4 : Nat} {x5 : Nat} {x6 : Nat} {x7 : Nat} (h : Kept o x0) :
    Kept o (State.deadRows x0 x1 x2 x3 x4 x5 x6 x7) := by
  unfold State.deadRows
  repeat' first
    | with_reducible assumption | extract_lets | intro _ | with_reducible exact kept_of_snd ‹_› ‹_› | with_reducible apply State.opWrite_kept
    | with_reducible apply kept_each | with_reducible apply kept_ite | with_reducible apply kept_ite_snd2 | with_reducible apply kept_ite_snd
    | with_reducible apply keptF_self | with_reducible apply keptF_put | with_reducible apply keptF_sput | with_reducible apply keptF_sputs
    | with_reducible apply keptF_zero | with_reducible apply keptF_nil | with_reducible apply keptF_filter | with_reducible apply kept_foldl_snd
    | with_reducible apply kept_foldl | with_reducible refine kept_of_snd ‹_› ?_ | split | dsimp only [kept_mk] | dsimp +zetaDelta only [kept_mk]

theorem State.breakWait_kept {o : State} {x0 : State} {x1 : Nat} {x2 : Busy} (h : Kept o x0) :
    Kept o (State.breakWait x0 x1 x2) := by
  unfold State.breakWait
  repeat' first
    | with_reducible assumption | extract_lets | intro _ | with_reducible exact kept_of_snd ‹_› ‹_› | with_reducible apply State.writeLines_kept
    | with_reducible apply State.deadRows_kept | with_reducible apply State.hxFault_kept | with_reducible apply State.modCore_kept
    | with_reducible apply kept_each | with_reducible apply kept_ite | with_reducible apply kept_ite_snd2 | with_reducible apply kept_ite_snd
    | with_reducible apply keptF_self | with_reducible apply keptF_put | with_reducible apply keptF_sput | with_reducible apply keptF_sputs
    | with_reducible apply keptF_zero | with_reducible apply keptF_nil | with_reducible apply keptF_filter | with_reducible apply kept_foldl_snd
    | with_reducible apply kept_foldl | with_reducible refine kept_of_snd ‹_› ?_ | split | dsimp only [kept_mk] | dsimp +zetaDelta only [kept_mk]

theorem State.breakWaits_kept {o : State} {x0 : State} {x1 : Nat} (h : Kept o x0) :
    Kept o (State.breakWaits x0 x1) := by
  unfold State.breakWaits
  repeat' first
    | with_reducible assumption | extract_lets | intro _ | with_reducible exact kept_of_snd ‹_› ‹_› | with_reducible apply State.breakWait_kept
    | with_reducible apply kept_each | with_reducible apply kept_ite | with_reducible apply kept_ite_snd2 | with_reducible apply kept_ite_snd
    | with_reducible apply keptF_self | with_reducible apply keptF_put | with_reducible apply keptF_sput | with_reducible apply keptF_sputs
    | with_reducible apply keptF_zero | with_reducible apply keptF_nil | with_reducible apply keptF_filter | with_reducible apply kept_foldl_snd
    | with_reducible apply kept_foldl | with_reducible refine kept_of_snd ‹_› ?_ | split | dsimp only [kept_mk] | dsimp +zetaDelta only [kept_mk]

theorem State.breakBinding_kept {o : State} {x0 : State} {x1 : Nat} (h : Kept o x0) :
    Kept o (State.breakBinding x0 x1) := by
  unfold State.breakBinding
  repeat' first
    | with_reducible assumption | extract_lets | intro _ | with_reducible exact kept_of_snd ‹_› ‹_› | with_reducible apply State.setBit_kept
    | with_reducible apply State.discardRing_kept | with_reducible apply State.breakWaits_kept | with_reducible apply State.raise_kept
    | with_reducible apply State.fire_kept | with_reducible apply kept_each | with_reducible apply kept_ite | with_reducible apply kept_ite_snd2
    | with_reducible apply kept_ite_snd | with_reducible apply keptF_self | with_reducible apply keptF_put | with_reducible apply keptF_sput
    | with_reducible apply keptF_sputs | with_reducible apply keptF_zero | with_reducible apply keptF_nil | with_reducible apply keptF_filter
    | with_reducible apply kept_foldl_snd | with_reducible apply kept_foldl | with_reducible refine kept_of_snd ‹_› ?_ | split | dsimp only [kept_mk]
    | dsimp +zetaDelta only [kept_mk]

theorem State.breakRemote_kept {o : State} {x0 : State} (h : Kept o x0) :
    Kept o (State.breakRemote x0) := by
  unfold State.breakRemote
  repeat' first
    | with_reducible assumption | extract_lets | intro _ | with_reducible exact kept_of_snd ‹_› ‹_› | with_reducible apply State.breakBinding_kept
    | with_reducible apply kept_each | with_reducible apply kept_ite | with_reducible apply kept_ite_snd2 | with_reducible apply kept_ite_snd
    | with_reducible apply keptF_self | with_reducible apply keptF_put | with_reducible apply keptF_sput | with_reducible apply keptF_sputs
    | with_reducible apply keptF_zero | with_reducible apply keptF_nil | with_reducible apply keptF_filter | with_reducible apply kept_foldl_snd
    | with_reducible apply kept_foldl | with_reducible refine kept_of_snd ‹_› ?_ | split | dsimp only [kept_mk] | dsimp +zetaDelta only [kept_mk]

theorem State.startRing_kept {o : State} {x0 : State} {x1 : Nat} {x2 : Nat} (h : Kept o x0) :
    Kept o (State.startRing x0 x1 x2) := by
  unfold State.startRing
  repeat' first
    | with_reducible assumption | with_reducible apply State.setReg_kept | with_reducible apply State.setRing_kept | dsimp only

theorem State.clearWindow_kept {o : State} {x0 : State} {x1 : Nat} (h : Kept o x0) :
    Kept o (State.clearWindow x0 x1) := by
  unfold State.clearWindow
  repeat' first
    | with_reducible assumption | extract_lets | intro _ | with_reducible exact kept_of_snd ‹_› ‹_› | with_reducible apply State.modCore_kept
    | with_reducible apply kept_each | with_reducible apply kept_ite | with_reducible apply kept_ite_snd2 | with_reducible apply kept_ite_snd
    | with_reducible apply keptF_self | with_reducible apply keptF_put | with_reducible apply keptF_sput | with_reducible apply keptF_sputs
    | with_reducible apply keptF_zero | with_reducible apply keptF_nil | with_reducible apply keptF_filter | with_reducible apply kept_foldl_snd
    | with_reducible apply kept_foldl | with_reducible refine kept_of_snd ‹_› ?_ | split | dsimp only [kept_mk] | dsimp +zetaDelta only [kept_mk]

theorem State.resumeHx_kept {o : State} {x0 : State} {x1 : Nat} {x2 : Busy} (h : Kept o x0) :
    Kept o (State.resumeHx x0 x1 x2) := by
  unfold State.resumeHx
  repeat' first
    | with_reducible assumption | extract_lets | intro _ | with_reducible apply State.modCore_kept | with_reducible apply State.sendMany_kept
    | with_reducible apply State.recvMany_kept | with_reducible apply kept_ite | with_reducible apply keptF_self | split | dsimp only [kept_mk]

theorem State.vxRow_kept {o : State} {x0 : State} {x1 : Ctx} {x2 : Nat} {x3 : List Byte} {x4 : Nat → Bool} (h : Kept o x0) :
    Kept o (State.vxRow x0 x1 x2 x3 x4) := by
  unfold State.vxRow
  repeat' first
    | with_reducible assumption | extract_lets | intro _ | with_reducible exact kept_of_snd ‹_› ‹_› | with_reducible apply State.opWrite_kept
    | with_reducible apply kept_each | with_reducible apply kept_ite | with_reducible apply kept_ite_snd2 | with_reducible apply kept_ite_snd
    | with_reducible apply keptF_self | with_reducible apply keptF_put | with_reducible apply keptF_sput | with_reducible apply keptF_sputs
    | with_reducible apply keptF_zero | with_reducible apply keptF_nil | with_reducible apply keptF_filter | with_reducible apply kept_foldl_snd
    | with_reducible apply kept_foldl | with_reducible refine kept_of_snd ‹_› ?_ | split | dsimp only [kept_mk] | dsimp +zetaDelta only [kept_mk]

theorem State.vxFault_kept {o : State} {x0 : State} {x1 : Ctx} {x2 : Nat} {x3 : Nat} (h : Kept o x0) :
    Kept o (State.vxFault x0 x1 x2 x3) := by
  unfold State.vxFault
  repeat' first
    | with_reducible assumption | with_reducible apply State.coreFault_kept | dsimp only

theorem State.vklRow_kept {o : State} {x0 : State} {x1 : Ctx} {x2 : VxOps} {x3 : Nat} {x4 : Nat} {x5 : Nat} {x6 : Nat} {x7 : MarkedLines} (h : Kept o x0) :
    Kept o (State.vklRow x0 x1 x2 x3 x4 x5 x6 x7) := by
  unfold State.vklRow
  repeat' first
    | with_reducible assumption | extract_lets | intro _ | with_reducible apply State.chargeCore_kept | with_reducible apply State.opWrite_kept
    | with_reducible apply State.vxRow_kept | with_reducible apply State.vxFault_kept | with_reducible apply State.violate_kept
    | with_reducible apply kept_ite | with_reducible apply keptF_self | split | dsimp only [kept_mk]

theorem State.vklRing_kept {o : State} {x0 : Ctx} {x1 : VxOps} {x2 : Nat} {x3 : Nat} {x4 : Nat} {x5 : Nat} {x6 : Nat} {x7 : Nat} {x8 : Nat} {x9 : State} (h : Kept o x9) :
    Kept o (State.vklRing x0 x1 x2 x3 x4 x5 x6 x7 x8 x9).2 := by
  induction x7 generalizing x0 x1 x2 x3 x4 x5 x6 x8 x9 with
  | zero => simpa only [State.vklRing] using h
  | succ m ih =>
    rw [State.vklRing]
    repeat' first
      | with_reducible assumption | with_reducible apply ih | extract_lets | intro _ | refine State.nextRecord_kept ?_ _ (by assumption)
      | with_reducible apply State.chargeCore_kept | with_reducible apply State.consumeRecord_kept | with_reducible apply State.vklRow_kept
      | with_reducible apply kept_ite | with_reducible apply keptF_self | split | dsimp only [kept_mk]

theorem State.resumeRow_kept {o : State} {x0 : State} {x1 : Nat} {x2 : Busy} (h : Kept o x0) :
    Kept o (State.resumeRow x0 x1 x2) := by
  unfold State.resumeRow
  repeat' first
    | with_reducible assumption | extract_lets | intro _ | with_reducible apply State.vklRing_kept | with_reducible apply State.modCore_kept
    | with_reducible apply kept_ite | with_reducible apply keptF_self | split | dsimp only [kept_mk]

theorem State.clip_kept {o : State} {x0 : State} {x1 : Nat} {x2 : Nat} (h : Kept o x0) :
    Kept o (State.clip x0 x1 x2) := by
  unfold State.clip
  repeat' first
    | with_reducible assumption | with_reducible apply State.setReg_kept | dsimp only

theorem VxLay.putRow_kept {o : State} {x0 : VxLay} {x1 : Ctx} {x2 : Nat} {x3 : VxOut} {x4 : Bool} {x5 : State} (h : Kept o x5) :
    Kept o (VxLay.putRow x0 x1 x2 x3 x4 x5) := by
  unfold VxLay.putRow
  repeat' first
    | with_reducible assumption | extract_lets | intro _ | with_reducible exact kept_of_snd ‹_› ‹_› | with_reducible apply State.vxRow_kept
    | with_reducible apply State.residueHits_kept | with_reducible apply State.addReg_kept | with_reducible apply State.vxFault_kept
    | with_reducible apply State.clip_kept | with_reducible apply State.opWrite_kept | with_reducible apply kept_each | with_reducible apply kept_ite
    | with_reducible apply kept_ite_snd2 | with_reducible apply kept_ite_snd | with_reducible apply keptF_self | with_reducible apply keptF_put
    | with_reducible apply keptF_sput | with_reducible apply keptF_sputs | with_reducible apply keptF_zero | with_reducible apply keptF_nil
    | with_reducible apply keptF_filter | with_reducible apply kept_foldl_snd | with_reducible apply kept_foldl
    | with_reducible refine kept_of_snd ‹_› ?_ | split | dsimp only [kept_mk] | dsimp +zetaDelta only [kept_mk]

theorem State.startVx_kept {o : State} {x0 : State} {x1 : VxFn} {x2 : Hdr} {x3 : VxOps} {x4 : Ctx} (h : Kept o x0) :
    Kept o (State.startVx x0 x1 x2 x3 x4) := by
  unfold State.startVx
  repeat' first
    | with_reducible assumption | extract_lets | intro _ | with_reducible exact kept_of_snd ‹_› ‹_› | with_reducible apply State.noEffect_kept
    | with_reducible apply State.begin_kept | with_reducible apply State.chargeCore_kept | with_reducible apply State.operands_kept
    | with_reducible apply State.vxRow_kept | with_reducible apply State.vxFault_kept | with_reducible apply State.modCore_kept
    | with_reducible apply VxLay.putRow_kept | with_reducible apply kept_each | with_reducible apply kept_ite | with_reducible apply kept_ite_snd2
    | with_reducible apply kept_ite_snd | with_reducible apply keptF_self | with_reducible apply keptF_put | with_reducible apply keptF_sput
    | with_reducible apply keptF_sputs | with_reducible apply keptF_zero | with_reducible apply keptF_nil | with_reducible apply keptF_filter
    | with_reducible apply kept_foldl_snd | with_reducible apply kept_foldl | with_reducible refine kept_of_snd ‹_› ?_ | split | dsimp only [kept_mk]
    | dsimp +zetaDelta only [kept_mk]

theorem State.startVkl_kept {o : State} {x0 : State} {x1 : Hdr} {x2 : VxOps} {x3 : Ctx} (h : Kept o x0) :
    Kept o (State.startVkl x0 x1 x2 x3) := by
  unfold State.startVkl
  repeat' first
    | with_reducible assumption | extract_lets | intro _ | with_reducible exact kept_of_snd ‹_› ‹_› | with_reducible apply State.noEffect_kept
    | with_reducible apply State.begin_kept | with_reducible apply State.operands_kept | with_reducible apply State.hxFault_kept
    | with_reducible apply State.deadRows_kept | with_reducible apply State.vklRing_kept | with_reducible apply State.vklRow_kept
    | with_reducible apply kept_each | with_reducible apply kept_ite | with_reducible apply kept_ite_snd2 | with_reducible apply kept_ite_snd
    | with_reducible apply keptF_self | with_reducible apply keptF_put | with_reducible apply keptF_sput | with_reducible apply keptF_sputs
    | with_reducible apply keptF_zero | with_reducible apply keptF_nil | with_reducible apply keptF_filter | with_reducible apply kept_foldl_snd
    | with_reducible apply kept_foldl | with_reducible refine kept_of_snd ‹_› ?_ | split | dsimp only [kept_mk] | dsimp +zetaDelta only [kept_mk]

theorem State.sxWrite_kept {o : State} {x0 : State} {x1 : Ctx} {x2 : Nat} {x3 : List Byte} {x4 : Bool} (h : Kept o x0) :
    Kept o (State.sxWrite x0 x1 x2 x3 x4) := by
  unfold State.sxWrite
  repeat' first
    | with_reducible assumption | with_reducible apply State.opWrite_kept | dsimp only

theorem State.sxFault_kept {o : State} {x0 : State} {x1 : Ctx} {x2 : Nat} {x3 : Nat} (h : Kept o x0) :
    Kept o (State.sxFault x0 x1 x2 x3) := by
  unfold State.sxFault
  repeat' first
    | with_reducible assumption | with_reducible apply State.coreFault_kept | dsimp only

theorem State.sxRank_kept {o : State} {x0 : State} {x1 : Hdr} {x2 : Ctx} {x3 : Bool} {x4 : Bool} {x5 : Nat} {x6 : Nat} {x7 : List (Nat × Nat)} {x8 : List Cand} (h : Kept o x0) :
    Kept o (State.sxRank x0 x1 x2 x3 x4 x5 x6 x7 x8) := by
  unfold State.sxRank
  repeat' first
    | with_reducible assumption | extract_lets | intro _ | with_reducible apply State.operands_kept | with_reducible apply State.sxWrite_kept
    | with_reducible apply State.sxFault_kept | with_reducible apply State.begin_kept | with_reducible apply kept_ite
    | with_reducible apply keptF_self | split | dsimp only [kept_mk]

theorem State.startTopk_kept {o : State} {x0 : State} {x1 : Hdr} {x2 : BitVec 5} {x3 : BitVec 5} {x4 : BitVec 4} {x5 : Bool} {x6 : Bool} {x7 : Nat} {x8 : Bool} {x9 : Ctx} (h : Kept o x0) :
    Kept o (State.startTopk x0 x1 x2 x3 x4 x5 x6 x7 x8 x9) := by
  unfold State.startTopk
  repeat' first
    | with_reducible assumption | extract_lets | intro _ | with_reducible apply State.noEffect_kept | with_reducible apply State.sxRank_kept
    | with_reducible apply kept_ite | with_reducible apply keptF_self | split | dsimp only [kept_mk]

theorem State.startRoute_kept {o : State} {x0 : State} {x1 : Hdr} {x2 : BitVec 5} {x3 : BitVec 5} {x4 : BitVec 5} {x5 : BitVec 4} {x6 : Nat} {x7 : Nat} {x8 : Ctx} (h : Kept o x0) :
    Kept o (State.startRoute x0 x1 x2 x3 x4 x5 x6 x7 x8) := by
  unfold State.startRoute
  repeat' first
    | with_reducible assumption | extract_lets | intro _ | with_reducible exact kept_of_snd ‹_› ‹_› | with_reducible apply State.noEffect_kept
    | with_reducible apply State.operands_kept | with_reducible apply State.sxWrite_kept | with_reducible apply State.sxFault_kept
    | with_reducible apply State.begin_kept | with_reducible apply kept_each | with_reducible apply kept_ite | with_reducible apply kept_ite_snd2
    | with_reducible apply kept_ite_snd | with_reducible apply keptF_self | with_reducible apply keptF_put | with_reducible apply keptF_sput
    | with_reducible apply keptF_sputs | with_reducible apply keptF_zero | with_reducible apply keptF_nil | with_reducible apply keptF_filter
    | with_reducible apply kept_foldl_snd | with_reducible apply kept_foldl | with_reducible refine kept_of_snd ‹_› ?_ | split | dsimp only [kept_mk]
    | dsimp +zetaDelta only [kept_mk]

theorem State.walkOut_kept {o : State} {x0 : State} {x1 : Query_} {x2 : Bool} {x3 : Nat} {x4 : Nat} {x5 : Nat} (h : Kept o x0) :
    Kept o (State.walkOut x0 x1 x2 x3 x4 x5) := by
  unfold State.walkOut
  repeat' first
    | with_reducible assumption | extract_lets | intro _ | with_reducible exact kept_of_snd ‹_› ‹_› | with_reducible apply State.countWalk_kept
    | with_reducible apply State.sxFault_kept | with_reducible apply State.raise_kept | with_reducible apply State.chargeCore_kept
    | with_reducible apply State.sxWrite_kept | with_reducible apply kept_each | with_reducible apply kept_ite | with_reducible apply kept_ite_snd2
    | with_reducible apply kept_ite_snd | with_reducible apply keptF_self | with_reducible apply keptF_put | with_reducible apply keptF_sput
    | with_reducible apply keptF_sputs | with_reducible apply keptF_zero | with_reducible apply keptF_nil | with_reducible apply keptF_filter
    | with_reducible apply kept_foldl_snd | with_reducible apply kept_foldl | with_reducible refine kept_of_snd ‹_› ?_ | split | dsimp only [kept_mk]
    | dsimp +zetaDelta only [kept_mk]

theorem State.startWalk_kept {o : State} {x0 : State} {x1 : Hdr} {x2 : BitVec 5} {x3 : BitVec 5} {x4 : Ctx} (h : Kept o x0) :
    Kept o (State.startWalk x0 x1 x2 x3 x4) := by
  unfold State.startWalk
  repeat' first
    | with_reducible assumption | extract_lets | intro _ | with_reducible exact kept_of_snd ‹_› ‹_› | with_reducible apply State.noEffect_kept
    | with_reducible apply State.operands_kept | with_reducible apply State.bindEpoch_kept | with_reducible apply State.walkOut_kept
    | with_reducible apply State.begin_kept | with_reducible apply kept_each | with_reducible apply kept_ite | with_reducible apply kept_ite_snd2
    | with_reducible apply kept_ite_snd | with_reducible apply keptF_self | with_reducible apply keptF_put | with_reducible apply keptF_sput
    | with_reducible apply keptF_sputs | with_reducible apply keptF_zero | with_reducible apply keptF_nil | with_reducible apply keptF_filter
    | with_reducible apply kept_foldl_snd | with_reducible apply kept_foldl | with_reducible refine kept_of_snd ‹_› ?_ | split | dsimp only [kept_mk]
    | dsimp +zetaDelta only [kept_mk]

theorem State.startMerge_kept {o : State} {x0 : State} {x1 : Hdr} {x2 : BitVec 5} {x3 : BitVec 5} {x4 : BitVec 5} {x5 : Bool} {x6 : Bool} {x7 : Nat} {x8 : Ctx} (h : Kept o x0) :
    Kept o (State.startMerge x0 x1 x2 x3 x4 x5 x6 x7 x8) := by
  unfold State.startMerge
  repeat' first
    | with_reducible assumption | extract_lets | intro _ | with_reducible apply State.noEffect_kept | with_reducible apply State.sxRank_kept
    | with_reducible apply kept_ite | with_reducible apply keptF_self | split | dsimp only [kept_mk]

theorem State.startAnd_kept {o : State} {x0 : State} {x1 : Hdr} {x2 : BitVec 5} {x3 : BitVec 5} {x4 : BitVec 5} {x5 : BitVec 5} {x6 : BitVec 4} {x7 : Ctx} (h : Kept o x0) :
    Kept o (State.startAnd x0 x1 x2 x3 x4 x5 x6 x7) := by
  unfold State.startAnd
  repeat' first
    | with_reducible assumption | extract_lets | intro _ | with_reducible apply State.noEffect_kept | with_reducible apply State.operands_kept
    | with_reducible apply State.writeLines_kept | with_reducible apply State.sxWrite_kept | with_reducible apply State.sxFault_kept
    | with_reducible apply State.begin_kept | with_reducible apply kept_ite | with_reducible apply keptF_self | split | dsimp only [kept_mk]

theorem State.oxFault_kept {o : State} {x0 : State} {x1 : Ctx} {x2 : Nat} (h : Kept o x0) :
    Kept o (State.oxFault x0 x1 x2) := by
  unfold State.oxFault
  repeat' first
    | with_reducible assumption | with_reducible apply State.coreFault_kept | dsimp only

theorem State.oxRow_kept {o : State} {x0 : State} {x1 : Ctx} {x2 : Nat} {x3 : List Byte} {x4 : Nat → Bool} (h : Kept o x0) :
    Kept o (State.oxRow x0 x1 x2 x3 x4) := by
  unfold State.oxRow
  repeat' first
    | with_reducible assumption | extract_lets | intro _ | with_reducible exact kept_of_snd ‹_› ‹_› | with_reducible apply State.opWrite_kept
    | with_reducible apply kept_each | with_reducible apply kept_ite | with_reducible apply kept_ite_snd2 | with_reducible apply kept_ite_snd
    | with_reducible apply keptF_self | with_reducible apply keptF_put | with_reducible apply keptF_sput | with_reducible apply keptF_sputs
    | with_reducible apply keptF_zero | with_reducible apply keptF_nil | with_reducible apply keptF_filter | with_reducible apply kept_foldl_snd
    | with_reducible apply kept_foldl | with_reducible refine kept_of_snd ‹_› ?_ | split | dsimp only [kept_mk] | dsimp +zetaDelta only [kept_mk]

theorem State.startOx_kept {o : State} {x0 : State} {x1 : Bool} {x2 : Hdr} {x3 : OxOps} {x4 : Ctx} (h : Kept o x0) :
    Kept o (State.startOx x0 x1 x2 x3 x4) := by
  unfold State.startOx
  repeat' first
    | with_reducible assumption | extract_lets | intro _ | with_reducible exact kept_of_snd ‹_› ‹_› | with_reducible apply State.noEffect_kept
    | with_reducible apply State.begin_kept | with_reducible apply State.operands_kept | with_reducible apply State.oxRow_kept
    | with_reducible apply State.addReg_kept | with_reducible apply State.oxFault_kept | with_reducible apply kept_each
    | with_reducible apply kept_ite | with_reducible apply kept_ite_snd2 | with_reducible apply kept_ite_snd | with_reducible apply keptF_self
    | with_reducible apply keptF_put | with_reducible apply keptF_sput | with_reducible apply keptF_sputs | with_reducible apply keptF_zero
    | with_reducible apply keptF_nil | with_reducible apply keptF_filter | with_reducible apply kept_foldl_snd | with_reducible apply kept_foldl
    | with_reducible refine kept_of_snd ‹_› ?_ | split | dsimp only [kept_mk] | dsimp +zetaDelta only [kept_mk]

theorem State.takePlace_kept {o : State} {x0 : State} {x1 : Nat} {x2 : Nat} {x3 : Nat} {x4 : AllocKind} {x5 : Nat} (h : Kept o x0) :
    Kept o (State.takePlace x0 x1 x2 x3 x4 x5) := by
  unfold State.takePlace
  repeat' first
    | with_reducible assumption | extract_lets | intro _ | with_reducible apply kept_ite | with_reducible apply keptF_self | split
    | dsimp only [kept_mk]

theorem State.dropPlace_kept {o : State} {x0 : State} {x1 : AllocKind} {x2 : Nat} (h : Kept o x0) :
    Kept o (State.dropPlace x0 x1 x2) := by
  unfold State.dropPlace
  repeat' first
    | with_reducible assumption | extract_lets | intro _ | with_reducible apply kept_ite | with_reducible apply keptF_self | split
    | dsimp only [kept_mk]

theorem State.setBlk_kept {o : State} {x0 : State} {x1 : Nat} {x2 : Nat} {x3 : KvBlk} (h : Kept o x0) :
    Kept o (State.setBlk x0 x1 x2 x3) := by
  unfold State.setBlk
  repeat' first
    | with_reducible assumption | extract_lets | intro _ | with_reducible apply kept_ite | with_reducible apply keptF_self | split
    | dsimp only [kept_mk]

theorem State.moveBlk_kept {o : State} {x0 : State} {x1 : Nat} {x2 : Nat} {x3 : KvBlk} (h : Kept o x0) :
    Kept o (State.moveBlk x0 x1 x2 x3) := by
  unfold State.moveBlk
  repeat' first
    | with_reducible assumption | with_reducible apply State.tick_kept | with_reducible apply State.setBlk_kept | dsimp only

theorem State.releaseBlk_kept {o : State} {x0 : Nat} {x1 : Nat} {x2 : State} (h : Kept o x2) :
    Kept o (State.releaseBlk x0 x1 x2) := by
  unfold State.releaseBlk
  repeat' first
    | with_reducible assumption | extract_lets | intro _ | with_reducible apply State.setBlk_kept | with_reducible apply State.moveBlk_kept
    | with_reducible apply kept_ite | with_reducible apply keptF_self | split | dsimp only [kept_mk]

theorem State.releaseReq_kept {o : State} {x0 : State} {x1 : Request} (h : Kept o x0) :
    Kept o (State.releaseReq x0 x1) := by
  unfold State.releaseReq
  repeat' first
    | with_reducible assumption | extract_lets | intro _ | with_reducible exact kept_of_snd ‹_› ‹_› | with_reducible apply State.releaseBlk_kept
    | with_reducible apply kept_each | with_reducible apply kept_ite | with_reducible apply kept_ite_snd2 | with_reducible apply kept_ite_snd
    | with_reducible apply keptF_self | with_reducible apply keptF_put | with_reducible apply keptF_sput | with_reducible apply keptF_sputs
    | with_reducible apply keptF_zero | with_reducible apply keptF_nil | with_reducible apply keptF_filter | with_reducible apply kept_foldl_snd
    | with_reducible apply kept_foldl | with_reducible refine kept_of_snd ‹_› ?_ | split | dsimp only [kept_mk] | dsimp +zetaDelta only [kept_mk]

theorem State.endReq_kept {o : State} {x0 : State} {x1 : Request} {x2 : Nat} {x3 : Nat} {x4 : Nat} (h : Kept o x0) :
    Kept o (State.endReq x0 x1 x2 x3 x4) := by
  unfold State.endReq
  repeat' first
    | with_reducible assumption | extract_lets | intro _ | with_reducible exact kept_of_snd ‹_› ‹_› | with_reducible apply State.releaseReq_kept
    | with_reducible apply State.complete_kept | with_reducible apply kept_each | with_reducible apply kept_ite | with_reducible apply kept_ite_snd2
    | with_reducible apply kept_ite_snd | with_reducible apply keptF_self | with_reducible apply keptF_put | with_reducible apply keptF_sput
    | with_reducible apply keptF_sputs | with_reducible apply keptF_zero | with_reducible apply keptF_nil | with_reducible apply keptF_filter
    | with_reducible apply kept_foldl_snd | with_reducible apply kept_foldl | with_reducible refine kept_of_snd ‹_› ?_ | split | dsimp only [kept_mk]
    | dsimp +zetaDelta only [kept_mk]

theorem State.endJobReqs_kept {o : State} {x0 : State} {x1 : NHdr} {x2 : Nat} {x3 : Nat} {x4 : Nat} (h : Kept o x0) :
    Kept o (State.endJobReqs x0 x1 x2 x3 x4) := by
  unfold State.endJobReqs
  repeat' first
    | with_reducible assumption | extract_lets | intro _ | with_reducible exact kept_of_snd ‹_› ‹_› | with_reducible apply State.endReq_kept
    | with_reducible apply kept_each | with_reducible apply kept_ite | with_reducible apply kept_ite_snd2 | with_reducible apply kept_ite_snd
    | with_reducible apply keptF_self | with_reducible apply keptF_put | with_reducible apply keptF_sput | with_reducible apply keptF_sputs
    | with_reducible apply keptF_zero | with_reducible apply keptF_nil | with_reducible apply keptF_filter | with_reducible apply kept_foldl_snd
    | with_reducible apply kept_foldl | with_reducible refine kept_of_snd ‹_› ?_ | split | dsimp only [kept_mk] | dsimp +zetaDelta only [kept_mk]

theorem State.seal_kept {o : State} {x0 : State} {x1 : Request} {x2 : Nat} {x3 : Nat} {x4 : Nat} {x5 : List Nat} (h : Kept o x0) :
    Kept o (State.seal x0 x1 x2 x3 x4 x5) := by
  unfold State.seal
  repeat' first
    | with_reducible assumption | with_reducible apply State.setBlk_kept | dsimp only

theorem State.reclaimFrom_kept {o : State} {x0 : Nat} {x1 : Nat} {x2 : Nat} {x3 : State} (h : Kept o x3) :
    Kept o (State.reclaimFrom x0 x1 x2 x3) := by
  induction x0 generalizing x1 x2 x3 with
  | zero => simpa only [State.reclaimFrom] using h
  | succ m ih =>
    rw [State.reclaimFrom]
    repeat' first
      | with_reducible assumption | with_reducible apply ih | extract_lets | intro _ | with_reducible exact kept_of_snd ‹_› ‹_›
      | with_reducible apply State.addReg_kept | with_reducible apply State.moveBlk_kept | with_reducible apply kept_each
      | with_reducible apply kept_ite | with_reducible apply kept_ite_snd2 | with_reducible apply kept_ite_snd | with_reducible apply keptF_self
      | with_reducible apply keptF_put | with_reducible apply keptF_sput | with_reducible apply keptF_sputs | with_reducible apply keptF_zero
      | with_reducible apply keptF_nil | with_reducible apply keptF_filter | with_reducible apply kept_foldl_snd | with_reducible apply kept_foldl
      | with_reducible refine kept_of_snd ‹_› ?_ | split | dsimp only [kept_mk] | dsimp +zetaDelta only [kept_mk]

theorem State.allocBlk_kept {o : State} {x0 : State} {x1 : Nat} {x2 : BlkSt} (h : Kept o x0) :
    ∀ r, (State.allocBlk x0 x1 x2) = some r → Kept o r.2 := by
  unfold State.allocBlk
  repeat' first
    | with_reducible assumption | with_reducible exact opt_none | with_reducible refine opt_some ?_ | extract_lets | split | intro _
    | with_reducible apply State.moveBlk_kept | with_reducible apply State.reclaimFrom_kept | dsimp only

theorem State.growTo_kept {o : State} {x0 x1 x2 x3 : Nat} {x4 : List Nat} {x5 : State} (h : Kept o x5) :
    ∀ r, State.growTo x0 x1 x2 x3 x4 x5 = some r → Kept o r.2 := by
  induction x3 generalizing x4 x5 with
  | zero => exact opt_some h
  | succ n ih =>
    rw [State.growTo]
    split
    · exact opt_some h
    · split
      · rename_i r e
        exact ih (State.allocBlk_kept h r e)
      · exact opt_none

theorem State.disablePool_kept {o : State} {x0 : State} {x1 : Nat} (h : Kept o x0) :
    Kept o (State.disablePool x0 x1) := by
  unfold State.disablePool
  repeat' first
    | with_reducible assumption | extract_lets | intro _ | with_reducible exact kept_of_snd ‹_› ‹_› | with_reducible apply State.endReq_kept
    | with_reducible apply State.tick_kept | with_reducible apply kept_each | with_reducible apply kept_ite | with_reducible apply kept_ite_snd2
    | with_reducible apply kept_ite_snd | with_reducible apply keptF_self | with_reducible apply keptF_put | with_reducible apply keptF_sput
    | with_reducible apply keptF_sputs | with_reducible apply keptF_zero | with_reducible apply keptF_nil | with_reducible apply keptF_filter
    | with_reducible apply kept_foldl_snd | with_reducible apply kept_foldl | with_reducible refine kept_of_snd ‹_› ?_ | split | dsimp only [kept_mk]
    | dsimp +zetaDelta only [kept_mk]

theorem State.modReq_kept {o : State} {x0 : State} {x1 : NHdr} {x2 : Request → Request} (h : Kept o x0) :
    Kept o (State.modReq x0 x1 x2) := by
  unfold State.modReq
  repeat' first
    | with_reducible assumption | extract_lets | intro _ | with_reducible apply kept_ite | with_reducible apply keptF_self | split
    | dsimp only [kept_mk]

theorem State.confirm_kept {o : State} {x0 : Request} {x1 : Nat} {x2 : Nat} {x3 : Nat} {x4 : Nat} {x5 : Option Nat} {x6 : State} (h : Kept o x6) :
    Kept o (State.confirm x0 x1 x2 x3 x4 x5 x6).2 := by
  induction x2 generalizing x0 x1 x3 x4 x5 x6 with
  | zero => simpa only [State.confirm] using h
  | succ m ih =>
    rw [State.confirm]
    repeat' first
      | with_reducible assumption | with_reducible apply ih | extract_lets | intro _ | with_reducible apply State.addReg_kept
      | with_reducible apply State.setBlk_kept | with_reducible apply kept_ite | with_reducible apply keptF_self | split | dsimp only [kept_mk]

theorem State.commitRows_kept {o : State} {x0 : Request} {x1 : Nat} {x2 : Nat} {x3 : Nat} {x4 : List Nat} {x5 : List Nat} {x6 : State} (h : Kept o x6) :
    Kept o (State.commitRows x0 x1 x2 x3 x4 x5 x6).2 := by
  induction x5 generalizing x0 x1 x2 x3 x4 x6 with
  | nil => simpa only [State.commitRows] using h
  | cons a r ih =>
    rw [State.commitRows]
    repeat' first
      | with_reducible assumption | with_reducible apply ih | extract_lets | intro _ | with_reducible exact kept_of_snd ‹_› ‹_›
      | with_reducible apply State.releaseBlk_kept | with_reducible apply State.tick_kept | with_reducible apply State.seal_kept
      | with_reducible apply State.moveBlk_kept | with_reducible apply State.setBlk_kept | with_reducible apply kept_each
      | with_reducible apply kept_ite | with_reducible apply kept_ite_snd2 | with_reducible apply kept_ite_snd | with_reducible apply keptF_self
      | with_reducible apply keptF_put | with_reducible apply keptF_sput | with_reducible apply keptF_sputs | with_reducible apply keptF_zero
      | with_reducible apply keptF_nil | with_reducible apply keptF_filter | with_reducible apply kept_foldl_snd | with_reducible apply kept_foldl
      | with_reducible refine kept_of_snd ‹_› ?_ | split | dsimp only [kept_mk] | dsimp +zetaDelta only [kept_mk]

theorem State.headLevel_kept {o : State} {x0 : State} {x1 : Nat} (h : Kept o x0) :
    Kept o (State.headLevel x0 x1) := by
  unfold State.headLevel
  repeat' first
    | with_reducible assumption | extract_lets | intro _ | with_reducible apply State.fire_kept | with_reducible apply State.unfire_kept
    | with_reducible apply kept_ite | with_reducible apply keptF_self | split | dsimp only [kept_mk]

theorem State.completeUj_kept {o : State} {x0 : State} {x1 : NHdr} {x2 : Nat × Nat} {x3 : Nat} (h : Kept o x0) :
    Kept o (State.completeUj x0 x1 x2 x3) := by
  unfold State.completeUj
  repeat' first
    | with_reducible assumption | with_reducible apply State.complete_kept | dsimp only

theorem State.finishJob_kept {o : State} {x0 : State} {x1 : NHdr} {x2 : Nat × Nat} (h : Kept o x0) :
    Kept o (State.finishJob x0 x1 x2) := by
  unfold State.finishJob
  repeat' first
    | with_reducible assumption | extract_lets | intro _ | with_reducible exact kept_of_snd ‹_› ‹_› | with_reducible apply State.release_kept
    | with_reducible apply State.headLevel_kept | with_reducible apply State.completeUj_kept | with_reducible apply State.dropPlace_kept
    | with_reducible apply kept_each | with_reducible apply kept_ite | with_reducible apply kept_ite_snd2 | with_reducible apply kept_ite_snd
    | with_reducible apply keptF_self | with_reducible apply keptF_put | with_reducible apply keptF_sput | with_reducible apply keptF_sputs
    | with_reducible apply keptF_zero | with_reducible apply keptF_nil | with_reducible apply keptF_filter | with_reducible apply kept_foldl_snd
    | with_reducible apply kept_foldl | with_reducible refine kept_of_snd ‹_› ?_ | split | dsimp only [kept_mk] | dsimp +zetaDelta only [kept_mk]

theorem State.setFring_kept {o : State} {x0 : State} {x1 : Nat} {x2 : FrameRing} (h : Kept o x0) :
    Kept o (State.setFring x0 x1 x2) := by
  unfold State.setFring
  repeat' first
    | with_reducible assumption | extract_lets | intro _ | with_reducible apply kept_ite | with_reducible apply keptF_self | split
    | dsimp only [kept_mk]

theorem State.setFifo_kept {o : State} {x0 : State} {x1 : Nat} {x2 : List FifoEntry} (h : Kept o x0) :
    Kept o (State.setFifo x0 x1 x2) := by
  unfold State.setFifo
  repeat' first
    | with_reducible assumption | extract_lets | intro _ | with_reducible apply kept_ite | with_reducible apply keptF_self | split
    | dsimp only [kept_mk]

theorem State.freeCore_kept {o : State} {x0 : Nat} {x1 : State} (h : Kept o x1) :
    Kept o (State.freeCore x0 x1) := by
  unfold State.freeCore
  repeat' first
    | with_reducible assumption | extract_lets | intro _ | with_reducible exact kept_of_snd ‹_› ‹_› | with_reducible apply State.tick_kept
    | with_reducible apply State.setFld_kept | with_reducible apply Busy.release_kept | with_reducible apply State.setCore_kept
    | with_reducible apply kept_each | with_reducible apply kept_ite | with_reducible apply kept_ite_snd2 | with_reducible apply kept_ite_snd
    | with_reducible apply keptF_self | with_reducible apply keptF_put | with_reducible apply keptF_sput | with_reducible apply keptF_sputs
    | with_reducible apply keptF_zero | with_reducible apply keptF_nil | with_reducible apply keptF_filter | with_reducible apply kept_foldl_snd
    | with_reducible apply kept_foldl | with_reducible refine kept_of_snd ‹_› ?_ | split | dsimp only [kept_mk] | dsimp +zetaDelta only [kept_mk]

theorem State.endRing_kept {o : State} {x0 : State} {x1 : Nat} {x2 : Job} {x3 : Nat × Nat} (h : Kept o x0) :
    Kept o (State.endRing x0 x1 x2 x3) := by
  unfold State.endRing
  repeat' first
    | with_reducible assumption | extract_lets | intro _ | with_reducible exact kept_of_snd ‹_› ‹_› | with_reducible apply State.completeUj_kept
    | with_reducible apply State.setFring_kept | with_reducible apply kept_each | with_reducible apply kept_ite | with_reducible apply kept_ite_snd2
    | with_reducible apply kept_ite_snd | with_reducible apply keptF_self | with_reducible apply keptF_put | with_reducible apply keptF_sput
    | with_reducible apply keptF_sputs | with_reducible apply keptF_zero | with_reducible apply keptF_nil | with_reducible apply keptF_filter
    | with_reducible apply kept_foldl_snd | with_reducible apply kept_foldl | with_reducible refine kept_of_snd ‹_› ?_ | split | dsimp only [kept_mk]
    | dsimp +zetaDelta only [kept_mk]

theorem State.closeJob_kept {o : State} {x0 : State} {x1 : Job} {x2 : Nat × Nat} (h : Kept o x0) :
    Kept o (State.closeJob x0 x1 x2) := by
  unfold State.closeJob
  repeat' first
    | with_reducible assumption | extract_lets | intro _ | with_reducible exact kept_of_snd ‹_› ‹_› | with_reducible apply State.setFifo_kept
    | with_reducible apply State.dropCarries_kept | with_reducible apply State.freeCore_kept | with_reducible apply State.endRing_kept
    | with_reducible apply Busy.release_kept | with_reducible apply State.headLevel_kept | with_reducible apply State.modJob_kept
    | with_reducible apply State.finishJob_kept | with_reducible apply kept_each | with_reducible apply kept_ite | with_reducible apply kept_ite_snd2
    | with_reducible apply kept_ite_snd | with_reducible apply keptF_self | with_reducible apply keptF_put | with_reducible apply keptF_sput
    | with_reducible apply keptF_sputs | with_reducible apply keptF_zero | with_reducible apply keptF_nil | with_reducible apply keptF_filter
    | with_reducible apply kept_foldl_snd | with_reducible apply kept_foldl | with_reducible refine kept_of_snd ‹_› ?_ | split | dsimp only [kept_mk]
    | dsimp +zetaDelta only [kept_mk]

theorem State.enterStep_kept {o : State} {x0 : State} {x1 : NHdr} (h : Kept o x0) :
    Kept o (State.enterStep x0 x1) := by
  unfold State.enterStep
  repeat' first
    | with_reducible assumption | extract_lets | intro _ | with_reducible exact kept_of_snd ‹_› ‹_› | with_reducible apply State.modCore_kept
    | with_reducible apply State.modJob_kept | with_reducible apply kept_each | with_reducible apply kept_ite | with_reducible apply kept_ite_snd2
    | with_reducible apply kept_ite_snd | with_reducible apply keptF_self | with_reducible apply keptF_put | with_reducible apply keptF_sput
    | with_reducible apply keptF_sputs | with_reducible apply keptF_zero | with_reducible apply keptF_nil | with_reducible apply keptF_filter
    | with_reducible apply kept_foldl_snd | with_reducible apply kept_foldl | with_reducible refine kept_of_snd ‹_› ?_ | split | dsimp only [kept_mk]
    | dsimp +zetaDelta only [kept_mk]

theorem State.failJob_kept {o : State} {x0 : State} {x1 : NHdr} {x2 : FailCause} (h : Kept o x0) :
    Kept o (State.failJob x0 x1 x2) := by
  unfold State.failJob
  repeat' first
    | with_reducible assumption | extract_lets | intro _ | with_reducible exact kept_of_snd ‹_› ‹_› | with_reducible apply State.breakBinding_kept
    | with_reducible apply State.endJobReqs_kept | with_reducible apply State.closeJob_kept | with_reducible apply kept_each
    | with_reducible apply kept_ite | with_reducible apply kept_ite_snd2 | with_reducible apply kept_ite_snd | with_reducible apply keptF_self
    | with_reducible apply keptF_put | with_reducible apply keptF_sput | with_reducible apply keptF_sputs | with_reducible apply keptF_zero
    | with_reducible apply keptF_nil | with_reducible apply keptF_filter | with_reducible apply kept_foldl_snd | with_reducible apply kept_foldl
    | with_reducible refine kept_of_snd ‹_› ?_ | split | dsimp only [kept_mk] | dsimp +zetaDelta only [kept_mk]

theorem State.enqueue_kept {o : State} {x0 : State} {x1 : Nat} {x2 : FifoEntry} (h : Kept o x0) :
    Kept o (State.enqueue x0 x1 x2) := by
  unfold State.enqueue
  repeat' first
    | with_reducible assumption | with_reducible apply State.headLevel_kept | with_reducible apply State.setFifo_kept | dsimp only

theorem State.queueStep_kept {o : State} {x0 : State} {x1 : NHdr} (h : Kept o x0) :
    Kept o (State.queueStep x0 x1) := by
  unfold State.queueStep
  repeat' first
    | with_reducible assumption | extract_lets | intro _ | with_reducible apply State.enqueue_kept | with_reducible apply State.modJob_kept
    | with_reducible apply kept_ite | with_reducible apply keptF_self | split | dsimp only [kept_mk]

theorem State.stepEnd_kept {o : State} {x0 : State} {x1 : NHdr} (h : Kept o x0) :
    Kept o (State.stepEnd x0 x1) := by
  unfold State.stepEnd
  repeat' first
    | with_reducible assumption | extract_lets | intro _ | with_reducible exact kept_of_snd ‹_› ‹_› | with_reducible apply State.release_kept
    | with_reducible apply State.failJob_kept | with_reducible apply State.modCore_kept | with_reducible apply State.fire_kept
    | with_reducible apply State.modJob_kept | with_reducible apply State.queueStep_kept | with_reducible apply State.closeJob_kept
    | with_reducible apply kept_each | with_reducible apply kept_ite | with_reducible apply kept_ite_snd2 | with_reducible apply kept_ite_snd
    | with_reducible apply keptF_self | with_reducible apply keptF_put | with_reducible apply keptF_sput | with_reducible apply keptF_sputs
    | with_reducible apply keptF_zero | with_reducible apply keptF_nil | with_reducible apply keptF_filter | with_reducible apply kept_foldl_snd
    | with_reducible apply kept_foldl | with_reducible refine kept_of_snd ‹_› ?_ | split | dsimp only [kept_mk] | dsimp +zetaDelta only [kept_mk]

theorem State.endRetired_kept {o : State} {x0 : State} {x1 : Nat} (h : Kept o x0) :
    Kept o (State.endRetired x0 x1) := by
  unfold State.endRetired
  repeat' first
    | with_reducible assumption | extract_lets | intro _ | with_reducible apply State.modCore_kept | with_reducible apply State.stepEnd_kept
    | with_reducible apply kept_ite | with_reducible apply keptF_self | split | dsimp only [kept_mk]

theorem State.coreDies_kept {o : State} {x0 : State} {x1 : Nat} {x2 : Job} (h : Kept o x0) :
    Kept o (State.coreDies x0 x1 x2) := by
  unfold State.coreDies
  repeat' first
    | with_reducible assumption | extract_lets | intro _ | with_reducible apply State.modCore_kept | with_reducible apply State.finishJob_kept
    | with_reducible apply kept_ite | with_reducible apply keptF_self | split | dsimp only [kept_mk]

theorem State.failCore_kept {o : State} {x0 : State} {x1 : Nat} {x2 : FailCause} (h : Kept o x0) :
    Kept o (State.failCore x0 x1 x2) := by
  unfold State.failCore
  repeat' first
    | with_reducible assumption | extract_lets | intro _ | with_reducible apply State.failJob_kept | with_reducible apply kept_ite
    | with_reducible apply keptF_self | split | dsimp only [kept_mk]

theorem State.settle_kept {o : State} {x0 : State} {x1 : Nat} (h : Kept o x0) :
    Kept o (State.settle x0 x1) := by
  unfold State.settle
  repeat' first
    | with_reducible assumption | extract_lets | intro _ | with_reducible apply State.coreDies_kept | with_reducible apply State.endRetired_kept
    | with_reducible apply State.failCore_kept | with_reducible apply kept_ite | with_reducible apply keptF_self | split | dsimp only [kept_mk]

theorem State.presDone_kept {o : State} {x0 : State} {x1 : Option NHdr} {x2 : Nat} {x3 : Nat} {x4 : Nat} (h : Kept o x0) :
    Kept o (State.presDone x0 x1 x2 x3 x4) := by
  unfold State.presDone
  repeat' first
    | with_reducible assumption | extract_lets | intro _ | with_reducible apply State.modCore_kept | with_reducible apply State.opWrite_kept
    | with_reducible apply kept_ite | with_reducible apply keptF_self | split | dsimp only [kept_mk]

theorem State.admitHead_kept {o : State} {x0 : State} {x1 : Nat} (h : Kept o x0) :
    Kept o (State.admitHead x0 x1) := by
  unfold State.admitHead
  repeat' first
    | with_reducible assumption | extract_lets | intro _ | with_reducible exact kept_of_snd ‹_› ‹_› | with_reducible apply State.failJob_kept
    | with_reducible apply State.headLevel_kept | with_reducible apply State.presDone_kept | with_reducible apply State.setFifo_kept
    | with_reducible apply State.reserve_kept | with_reducible apply State.enterStep_kept | with_reducible apply State.modJob_kept
    | with_reducible apply kept_each | with_reducible apply kept_ite | with_reducible apply kept_ite_snd2 | with_reducible apply kept_ite_snd
    | with_reducible apply keptF_self | with_reducible apply keptF_put | with_reducible apply keptF_sput | with_reducible apply keptF_sputs
    | with_reducible apply keptF_zero | with_reducible apply keptF_nil | with_reducible apply keptF_filter | with_reducible apply kept_foldl_snd
    | with_reducible apply kept_foldl | with_reducible refine kept_of_snd ‹_› ?_ | split | dsimp only [kept_mk] | dsimp +zetaDelta only [kept_mk]

theorem State.enterFrame_kept {o : State} {x0 : State} {x1 : NHdr} (h : Kept o x0) :
    Kept o (State.enterFrame x0 x1) := by
  unfold State.enterFrame
  repeat' first
    | with_reducible assumption | extract_lets | intro _ | with_reducible apply State.setFring_kept | with_reducible apply State.chargeHouse_kept
    | with_reducible apply State.dramWrite_kept | with_reducible apply State.queueStep_kept | with_reducible apply State.modJob_kept
    | with_reducible apply kept_ite | with_reducible apply keptF_self | split | dsimp only [kept_mk]

theorem State.fromBuf_kept {o : State} {x0 : Ctx} {x1 : Nat} {x2 : Nat} {x3 : Nat} {x4 : State} (h : Kept o x4) :
    Kept o (State.fromBuf x0 x1 x2 x3 x4).2 := by
  induction x1 generalizing x0 x2 x3 x4 with
  | zero => simpa only [State.fromBuf] using h
  | succ m ih =>
    rw [State.fromBuf]
    repeat' first
      | with_reducible assumption | with_reducible apply ih | extract_lets | intro _ | with_reducible apply State.outerRead_kept
      | with_reducible apply State.mediaViolate_kept | with_reducible apply kept_ite | with_reducible apply keptF_self | split | dsimp only [kept_mk]

theorem State.toBuf_kept {o : State} {x0 : State} {x1 : Ctx} {x2 : Nat} {x3 : List Byte} {x4 : Bool} (h : Kept o x0) :
    Kept o (State.toBuf x0 x1 x2 x3 x4) := by
  unfold State.toBuf
  repeat' first
    | with_reducible assumption | extract_lets | intro _ | with_reducible exact kept_of_snd ‹_› ‹_› | with_reducible apply State.outerWrite_kept
    | with_reducible apply State.mediaViolate_kept | with_reducible apply kept_each | with_reducible apply kept_ite
    | with_reducible apply kept_ite_snd2 | with_reducible apply kept_ite_snd | with_reducible apply keptF_self | with_reducible apply keptF_put
    | with_reducible apply keptF_sput | with_reducible apply keptF_sputs | with_reducible apply keptF_zero | with_reducible apply keptF_nil
    | with_reducible apply keptF_filter | with_reducible apply kept_foldl_snd | with_reducible apply kept_foldl
    | with_reducible refine kept_of_snd ‹_› ?_ | split | dsimp only [kept_mk] | dsimp +zetaDelta only [kept_mk]

theorem State.mediaStatus_kept {o : State} {x0 : State} {x1 : Ctx} {x2 : Nat} {x3 : Nat} {x4 : Option Nat} (h : Kept o x0) :
    Kept o (State.mediaStatus x0 x1 x2 x3 x4) := by
  unfold State.mediaStatus
  repeat' first
    | with_reducible assumption | extract_lets | intro _ | with_reducible apply State.opWrite_kept | with_reducible apply State.chargeCore_kept
    | with_reducible apply kept_ite | with_reducible apply keptF_self | split | dsimp only [kept_mk]

theorem State.mediaBad_kept {o : State} {x0 : State} {x1 : Ctx} {x2 : MediaOp} {x3 : Nat} {x4 : MediaReq} (h : Kept o x0) :
    Kept o (State.mediaBad x0 x1 x2 x3 x4) := by
  unfold State.mediaBad
  repeat' first
    | with_reducible assumption | extract_lets | intro _ | with_reducible apply State.mediaViolate_kept | with_reducible apply State.toBuf_kept
    | with_reducible apply State.mediaStatus_kept | with_reducible apply kept_ite | with_reducible apply keptF_self | split | dsimp only [kept_mk]

theorem State.queueWrite_kept {o : State} {x0 : State} {x1 : Nat} {x2 : Nat} {x3 : Nat} {x4 : Nat} {x5 : WriteOwner} (h : Kept o x0) :
    Kept o (State.queueWrite x0 x1 x2 x3 x4 x5).2 := by
  unfold State.queueWrite
  repeat' first
    | with_reducible assumption | extract_lets | intro _ | with_reducible apply kept_ite | with_reducible apply keptF_self | split
    | dsimp only [kept_mk]

theorem State.mediaServe_kept {o : State} {x0 : State} {x1 : Ctx} {x2 : MediaOp} {x3 : Nat} {x4 : MediaReq} (h : Kept o x0) :
    Kept o (State.mediaServe x0 x1 x2 x3 x4).2 := by
  unfold State.mediaServe
  repeat' first
    | with_reducible assumption | extract_lets | intro _ | with_reducible exact kept_of_snd ‹_› ‹_› | with_reducible apply State.mediaBad_kept
    | with_reducible apply State.chargeCore_kept | with_reducible apply State.useMaps_kept | with_reducible apply State.eraseReads_kept
    | with_reducible apply State.mediaStatus_kept | with_reducible apply State.toBuf_kept | with_reducible apply State.fromBuf_kept
    | with_reducible apply State.zoneWrite_kept | with_reducible apply State.queueWrite_kept | with_reducible apply kept_each
    | with_reducible apply kept_ite | with_reducible apply kept_ite_snd2 | with_reducible apply kept_ite_snd | with_reducible apply keptF_self
    | with_reducible apply keptF_put | with_reducible apply keptF_sput | with_reducible apply keptF_sputs | with_reducible apply keptF_zero
    | with_reducible apply keptF_nil | with_reducible apply keptF_filter | with_reducible apply kept_foldl_snd | with_reducible apply kept_foldl
    | with_reducible refine kept_of_snd ‹_› ?_ | split | dsimp only [kept_mk] | dsimp +zetaDelta only [kept_mk]

theorem State.startPres_kept {o : State} {x0 : State} {x1 : Hdr} {x2 : BitVec 5} {x3 : BitVec 4} {x4 : Ctx} (h : Kept o x0) :
    Kept o (State.startPres x0 x1 x2 x3 x4) := by
  unfold State.startPres
  repeat' first
    | with_reducible assumption | extract_lets | intro _ | with_reducible apply State.seqViolate_kept | with_reducible apply State.harnViolate_kept
    | with_reducible apply State.asIssued_kept | with_reducible apply State.begin_kept | with_reducible apply State.opWrite_kept
    | with_reducible apply State.enqueue_kept | with_reducible apply kept_ite | with_reducible apply keptF_self | split | dsimp only [kept_mk]

theorem State.startPread_kept {o : State} {x0 : State} {x1 : Hdr} {x2 : BitVec 5} {x3 : Ctx} (h : Kept o x0) :
    Kept o (State.startPread x0 x1 x2 x3) := by
  unfold State.startPread
  repeat' first
    | with_reducible assumption | extract_lets | intro _ | with_reducible apply State.begin_kept | with_reducible apply State.seqViolate_kept
    | with_reducible apply State.harnViolate_kept | with_reducible apply State.opWrite_kept | with_reducible apply kept_ite
    | with_reducible apply keptF_self | split | dsimp only [kept_mk]

theorem State.startMedia_kept {o : State} {x0 : State} {x1 : MediaOp} {x2 : Hdr} {x3 : BitVec 5} {x4 : BitVec 24} {x5 : Ctx} (h : Kept o x0) :
    Kept o (State.startMedia x0 x1 x2 x3 x4 x5) := by
  unfold State.startMedia
  repeat' first
    | with_reducible assumption | extract_lets | intro _ | with_reducible apply State.begin_kept | with_reducible apply State.seqViolate_kept
    | with_reducible apply State.mediaServe_kept | with_reducible apply State.chargeCore_kept | with_reducible apply State.sramCheck_kept
    | with_reducible apply kept_ite | with_reducible apply keptF_self | split | dsimp only [kept_mk]

theorem State.writeDone_kept {o : State} {x0 : ZoneWrite} {x1 : State} (h : Kept o x1) :
    Kept o (State.writeDone x0 x1) := by
  unfold State.writeDone
  repeat' first
    | with_reducible assumption | extract_lets | intro _ | with_reducible exact kept_of_snd ‹_› ‹_› | with_reducible apply State.ok_kept
    | with_reducible apply State.busyDone_kept | with_reducible apply State.mediaStatus_kept | with_reducible apply kept_each
    | with_reducible apply kept_ite | with_reducible apply kept_ite_snd2 | with_reducible apply kept_ite_snd | with_reducible apply keptF_self
    | with_reducible apply keptF_put | with_reducible apply keptF_sput | with_reducible apply keptF_sputs | with_reducible apply keptF_zero
    | with_reducible apply keptF_nil | with_reducible apply keptF_filter | with_reducible apply kept_foldl_snd | with_reducible apply kept_foldl
    | with_reducible refine kept_of_snd ‹_› ?_ | split | dsimp only [kept_mk] | dsimp +zetaDelta only [kept_mk]

theorem State.writesDone_kept {o : State} {x0 : State} (h : Kept o x0) :
    Kept o (State.writesDone x0) := by
  unfold State.writesDone
  repeat' first
    | with_reducible assumption | extract_lets | intro _ | with_reducible exact kept_of_snd ‹_› ‹_› | with_reducible apply State.writeDone_kept
    | with_reducible apply kept_each | with_reducible apply kept_ite | with_reducible apply kept_ite_snd2 | with_reducible apply kept_ite_snd
    | with_reducible apply keptF_self | with_reducible apply keptF_put | with_reducible apply keptF_sput | with_reducible apply keptF_sputs
    | with_reducible apply keptF_zero | with_reducible apply keptF_nil | with_reducible apply keptF_filter | with_reducible apply kept_foldl_snd
    | with_reducible apply kept_foldl | with_reducible refine kept_of_snd ‹_› ?_ | split | dsimp only [kept_mk] | dsimp +zetaDelta only [kept_mk]

theorem State.laceReturn_kept {o : State} {x0 : State} {x1 : Nat} {x2 : Nat} (h : Kept o x0) :
    Kept o (State.laceReturn x0 x1 x2) := by
  unfold State.laceReturn
  repeat' first
    | with_reducible assumption | extract_lets | intro _ | with_reducible apply State.modCore_kept | with_reducible apply State.slotFree_kept
    | with_reducible apply State.slotDrain_kept | with_reducible apply State.tick_kept | with_reducible apply State.setFld_kept
    | with_reducible apply kept_ite | with_reducible apply keptF_self | split | dsimp only [kept_mk]

theorem State.laceLive_kept {o : State} {x0 : State} {x1 : Nat} (h : Kept o x0) :
    Kept o (State.laceLive x0 x1) := by
  unfold State.laceLive
  repeat' first
    | with_reducible assumption | extract_lets | intro _ | with_reducible exact kept_of_snd ‹_› ‹_› | with_reducible apply State.grant_kept
    | with_reducible apply State.laceReturn_kept | with_reducible apply kept_each | with_reducible apply kept_ite | with_reducible apply kept_ite_snd2
    | with_reducible apply kept_ite_snd | with_reducible apply keptF_self | with_reducible apply keptF_put | with_reducible apply keptF_sput
    | with_reducible apply keptF_sputs | with_reducible apply keptF_zero | with_reducible apply keptF_nil | with_reducible apply keptF_filter
    | with_reducible apply kept_foldl_snd | with_reducible apply kept_foldl | with_reducible refine kept_of_snd ‹_› ?_ | split | dsimp only [kept_mk]
    | dsimp +zetaDelta only [kept_mk]

theorem State.flipBoundary_kept {o : State} {x0 : State} {x1 : Nat} {x2 : Nat} (h : Kept o x0) :
    Kept o (State.flipBoundary x0 x1 x2) := by
  unfold State.flipBoundary
  repeat' first
    | with_reducible assumption | extract_lets | intro _ | with_reducible apply State.takeShadow_kept | with_reducible apply State.setCore_kept
    | with_reducible apply kept_ite | with_reducible apply keptF_self | split | dsimp only [kept_mk]

theorem State.clipZero_kept {o : State} {x0 : Nat} {x1 : Nat} {x2 : State} (h : Kept o x2) :
    Kept o (State.clipZero x0 x1 x2) := by
  unfold State.clipZero
  repeat' first
    | with_reducible assumption | with_reducible apply State.setReg_kept | dsimp only

theorem State.hubClear_kept {o : State} {x0 : State} (h : Kept o x0) :
    Kept o (State.hubClear x0) := by
  unfold State.hubClear
  repeat' first
    | with_reducible assumption | extract_lets | intro _ | with_reducible apply State.modHub_kept | with_reducible apply kept_ite
    | with_reducible apply keptF_self | split | dsimp only [kept_mk]

theorem State.hubFlipBoundary_kept {o : State} {x0 : State} (h : Kept o x0) :
    Kept o (State.hubFlipBoundary x0) := by
  unfold State.hubFlipBoundary
  repeat' first
    | with_reducible assumption | extract_lets | intro _ | with_reducible apply State.takeShadow_kept | with_reducible apply State.modHub_kept
    | with_reducible apply kept_ite | with_reducible apply keptF_self | split | dsimp only [kept_mk]

theorem State.boundary_kept {o : State} {x0 : State} {x1 : Nat} (h : Kept o x0) :
    Kept o (State.boundary x0 x1) := by
  unfold State.boundary
  repeat' first
    | with_reducible assumption | extract_lets | intro _ | with_reducible exact kept_of_snd ‹_› ‹_› | with_reducible apply State.coreFault_kept
    | with_reducible apply State.flipBoundary_kept | with_reducible apply State.takeShadow_kept | with_reducible apply State.laceLive_kept
    | with_reducible apply State.modCore_kept | with_reducible apply State.clipZero_kept | with_reducible apply State.clearValid_kept
    | with_reducible apply State.hubClear_kept | with_reducible apply State.hubFlipBoundary_kept | with_reducible apply kept_each
    | with_reducible apply kept_ite | with_reducible apply kept_ite_snd2 | with_reducible apply kept_ite_snd | with_reducible apply keptF_self
    | with_reducible apply keptF_put | with_reducible apply keptF_sput | with_reducible apply keptF_sputs | with_reducible apply keptF_zero
    | with_reducible apply keptF_nil | with_reducible apply keptF_filter | with_reducible apply kept_foldl_snd | with_reducible apply kept_foldl
    | with_reducible refine kept_of_snd ‹_› ?_ | split | dsimp only [kept_mk] | dsimp +zetaDelta only [kept_mk]

theorem State.start_kept {o : State} {x0 : State} {x1 : Queued} (h : Kept o x0) :
    Kept o (State.start x0 x1) := by
  unfold State.start
  repeat' first
    | with_reducible assumption | extract_lets | intro _ | with_reducible apply State.dxStart_kept | with_reducible apply State.startMxt_kept
    | with_reducible apply State.startMxl_kept | with_reducible apply State.startMxp_kept | with_reducible apply State.startTopk_kept
    | with_reducible apply State.startMerge_kept | with_reducible apply State.startAnd_kept | with_reducible apply State.startRoute_kept
    | with_reducible apply State.startWalk_kept | with_reducible apply State.startOx_kept | with_reducible apply State.startHx_kept
    | with_reducible apply State.startGx_kept | with_reducible apply State.startColl_kept | with_reducible apply State.startMedia_kept
    | with_reducible apply State.startPread_kept | with_reducible apply State.startPres_kept | with_reducible apply State.startVkl_kept
    | with_reducible apply State.startVx_kept | with_reducible apply State.noEffect_kept | with_reducible apply State.begin_kept
    | with_reducible apply State.operands_kept | with_reducible apply State.violate_kept | with_reducible apply State.chargeCore_kept
    | with_reducible apply TileOut.faults_kept | with_reducible apply MxTile.write_kept | with_reducible apply State.modCore_kept
    | with_reducible apply State.addReg_kept | with_reducible apply State.sxRank_kept | with_reducible apply State.writeLines_kept
    | with_reducible apply State.sxWrite_kept | with_reducible apply State.sxFault_kept | with_reducible apply State.bindEpoch_kept
    | with_reducible apply State.walkOut_kept | with_reducible apply State.oxRow_kept | with_reducible apply State.oxFault_kept
    | with_reducible apply State.asIssued_kept | with_reducible apply State.hxFault_kept | with_reducible apply State.sramCheck_kept
    | with_reducible apply State.sendMany_kept | with_reducible apply State.recvMany_kept | with_reducible apply State.gxFault_kept
    | with_reducible apply State.remoteLines_kept | with_reducible apply State.getLines_kept | with_reducible apply State.endTxn_kept
    | with_reducible apply State.remoteWrite_kept | with_reducible apply State.sendFlit_kept | with_reducible apply State.joinColl_kept
    | with_reducible apply State.seqViolate_kept | with_reducible apply State.mediaServe_kept | with_reducible apply State.harnViolate_kept
    | with_reducible apply State.opWrite_kept | with_reducible apply State.enqueue_kept | with_reducible apply State.deadRows_kept
    | with_reducible apply State.vklRing_kept | with_reducible apply State.vklRow_kept | with_reducible apply State.vxRow_kept
    | with_reducible apply State.vxFault_kept | with_reducible apply VxLay.putRow_kept | with_reducible apply kept_ite
    | with_reducible apply keptF_self | split | dsimp only [kept_mk]

theorem State.fateViolate_kept {o : State} {x0 : State} {x1 : Nat} {x2 : Cls} {x3 : Fate} (h : Kept o x0) :
    Kept o (State.fateViolate x0 x1 x2 x3) := by
  unfold State.fateViolate
  repeat' first
    | with_reducible assumption | extract_lets | intro _ | with_reducible apply State.seqViolate_kept | with_reducible apply State.violate_kept
    | with_reducible apply kept_ite | with_reducible apply keptF_self | split | dsimp only [kept_mk]

theorem State.launch_kept {o : State} {x0 : State} {x1 : Nat} {x2 : Queued} (h : Kept o x0) :
    Kept o (State.launch x0 x1 x2) := by
  unfold State.launch
  repeat' first
    | with_reducible assumption | with_reducible apply State.start_kept | with_reducible apply State.modCore_kept | dsimp only

theorem State.cancelAhead_kept {o : State} {x0 : State} {x1 : Nat} {x2 : Prefetch → Bool} (h : Kept o x0) :
    Kept o (State.cancelAhead x0 x1 x2) := by
  unfold State.cancelAhead
  repeat' first
    | with_reducible assumption | with_reducible apply State.cancelPrefetch_kept | dsimp only

theorem State.doEnd_kept {o : State} {x0 : State} {x1 : Hdr} (h : Kept o x0) :
    Kept o (State.doEnd x0 x1) := by
  unfold State.doEnd
  repeat' first
    | with_reducible assumption | with_reducible apply State.cancelAhead_kept | with_reducible apply State.signal?_kept
    | with_reducible apply State.modCore_kept | dsimp only

theorem State.seqBad_kept {o : State} {x0 : State} {x1 : Nat} {x2 : Nat} (h : Kept o x0) :
    Kept o (State.seqBad x0 x1 x2) := by
  unfold State.seqBad
  repeat' first
    | with_reducible assumption | with_reducible apply State.seqViolate_kept | dsimp only

theorem State.seqDone_kept {o : State} {x0 : State} {x1 : Hdr} {x2 : Nat} (h : Kept o x0) :
    Kept o (State.seqDone x0 x1 x2) := by
  unfold State.seqDone
  repeat' first
    | with_reducible assumption | with_reducible apply State.signal?_kept | with_reducible apply State.modCore_kept | dsimp only

theorem State.doLoop_kept {o : State} {x0 : State} {x1 : Hdr} {x2 : Nat} {x3 : Nat} {x4 : Nat} (h : Kept o x0) :
    Kept o (State.doLoop x0 x1 x2 x3 x4) := by
  unfold State.doLoop
  repeat' first
    | with_reducible assumption | extract_lets | intro _ | with_reducible apply State.cancelAhead_kept | with_reducible apply State.seqDone_kept
    | with_reducible apply State.seqBad_kept | with_reducible apply State.modCore_kept | with_reducible apply kept_ite
    | with_reducible apply keptF_self | split | dsimp only [kept_mk]

theorem State.doLds_kept {o : State} {x0 : State} {x1 : Hdr} {x2 : Nat} {x3 : Nat} {x4 : Nat} (h : Kept o x0) :
    Kept o (State.doLds x0 x1 x2 x3 x4) := by
  unfold State.doLds
  repeat' first
    | with_reducible assumption | extract_lets | intro _ | with_reducible apply State.seqDone_kept | with_reducible apply State.modCore_kept
    | with_reducible apply State.seqBad_kept | with_reducible apply State.harnViolate_kept | with_reducible apply State.chargeCore_kept
    | with_reducible apply State.sramCheck_kept | with_reducible apply State.coreFault_kept | with_reducible apply kept_ite
    | with_reducible apply keptF_self | split | dsimp only [kept_mk]

theorem State.rangeCheck_kept {o : State} {x0 : State} {x1 : Nat} (h : Kept o x0) :
    Kept o (State.rangeCheck x0 x1) := by
  unfold State.rangeCheck
  repeat' first
    | with_reducible assumption | extract_lets | intro _ | with_reducible apply State.modCore_kept | with_reducible apply State.seqViolate_kept
    | with_reducible apply kept_ite | with_reducible apply keptF_self | split | dsimp only [kept_mk]

theorem State.queueIn_kept {o : State} {x0 : State} {x1 : Nat} {x2 : Instr} {x3 : Hdr} (h : Kept o x0) :
    Kept o (State.queueIn x0 x1 x2 x3) := by
  unfold State.queueIn
  repeat' first
    | with_reducible assumption | with_reducible apply State.addReg_kept | with_reducible apply State.modCore_kept | dsimp only

theorem State.kick_kept {o : State} {x0 : Nat} {x1 : Nat} {x2 : State} (h : Kept o x2) :
    Kept o (State.kick x0 x1 x2) := by
  induction x0 generalizing x1 x2 with
  | zero => simpa only [State.kick] using h
  | succ m ih =>
    rw [State.kick]
    repeat' first
      | with_reducible assumption | with_reducible apply ih | extract_lets | intro _ | with_reducible apply State.launch_kept
      | with_reducible apply State.queueIn_kept | with_reducible apply kept_ite | with_reducible apply keptF_self | split | dsimp only [kept_mk]

theorem State.run_kept {o : State} {x0 : State} {x1 : Nat} (h : Kept o x0) :
    Kept o (State.run x0 x1) := by
  unfold State.run
  repeat' first
    | with_reducible assumption | extract_lets | intro _ | with_reducible apply State.settle_kept | with_reducible apply State.rangeCheck_kept
    | with_reducible apply State.kick_kept | with_reducible apply kept_ite | with_reducible apply keptF_self | split | dsimp only [kept_mk]

theorem State.runAll_kept {o : State} {x0 : State} (h : Kept o x0) :
    Kept o (State.runAll x0) := by
  unfold State.runAll
  repeat' first
    | with_reducible assumption | extract_lets | intro _ | with_reducible exact kept_of_snd ‹_› ‹_› | with_reducible apply State.run_kept
    | with_reducible apply kept_each | with_reducible apply kept_ite | with_reducible apply kept_ite_snd2 | with_reducible apply kept_ite_snd
    | with_reducible apply keptF_self | with_reducible apply keptF_put | with_reducible apply keptF_sput | with_reducible apply keptF_sputs
    | with_reducible apply keptF_zero | with_reducible apply keptF_nil | with_reducible apply keptF_filter | with_reducible apply kept_foldl_snd
    | with_reducible apply kept_foldl | with_reducible refine kept_of_snd ‹_› ?_ | split | dsimp only [kept_mk] | dsimp +zetaDelta only [kept_mk]

theorem State.hold_kept {o : State} {x0 : State} {x1 : Nat} {x2 : Held} (h : Kept o x0) :
    Kept o (State.hold x0 x1 x2) := by
  unfold State.hold
  repeat' first
    | with_reducible assumption | with_reducible apply State.modCore_kept | dsimp only

theorem State.fillLine_kept {o : State} {x0 : State} {x1 : Nat} {x2 : Nat} (h : Kept o x0) :
    Kept o (State.fillLine x0 x1 x2) := by
  unfold State.fillLine
  repeat' first
    | with_reducible assumption | with_reducible apply State.chargeCore_kept | with_reducible apply State.modCore_kept | dsimp only

theorem State.doAginc_kept {o : State} {x0 : State} {x1 : Hdr} {x2 : Nat} {x3 : Nat} {x4 : AgIncSrc} (h : Kept o x0) :
    Kept o (State.doAginc x0 x1 x2 x3 x4) := by
  unfold State.doAginc
  repeat' first
    | with_reducible assumption | with_reducible apply State.seqDone_kept | with_reducible apply State.setCore_kept | dsimp only

theorem State.issueEngine_kept {o : State} {x0 : State} {x1 : Instr} {x2 : Cls} {x3 : Hdr} (h : Kept o x0) :
    Kept o (State.issueEngine x0 x1 x2 x3) := by
  unfold State.issueEngine
  repeat' first
    | with_reducible assumption | extract_lets | intro _ | with_reducible apply State.hold_kept | with_reducible apply State.queueIn_kept
    | with_reducible apply kept_ite | with_reducible apply keptF_self | split | dsimp only [kept_mk]

end Sys2Proof.Machine
end

