-- ==== Sys2Proof/Laws/Kept4.lean ====
section
/-! SUPPORT. Laws/Kept4.lean: one lemma per operation of the machine: it keeps what KeptBase names (part 4, in the order in which operations use
each other). -/

namespace Sys2Proof.Machine

open Sys2Proof

theorem State.retire_kept {o : State} {x0 : State} {x1 : Nat} {x2 : Busy} (h : Kept o x0) :
    Kept o (State.retire x0 x1 x2) := by
  unfold State.retire
  repeat' first
    | with_reducible assumption | with_reducible apply State.modCore_kept | with_reducible apply State.signal?_kept
    | with_reducible apply Busy.release_kept | dsimp only

theorem State.doCount_kept {o : State} {x0 : State} {x1 : Hdr} {x2 : Nat} {x3 : Nat} {x4 : CSrc} {x5 : BitVec 32 → BitVec 32 → BitVec 32} (h : Kept o x0) :
    Kept o (State.doCount x0 x1 x2 x3 x4 x5) := by
  unfold State.doCount
  repeat' first
    | with_reducible assumption | with_reducible apply State.seqDone_kept | with_reducible apply State.setCore_kept | dsimp only

theorem State.doSkip_kept {o : State} {x0 : State} {x1 : Hdr} {x2 : Nat} {x3 : Nat} (h : Kept o x0) :
    Kept o (State.doSkip x0 x1 x2 x3) := by
  unfold State.doSkip
  repeat' first
    | with_reducible assumption | extract_lets | intro _ | with_reducible apply State.cancelAhead_kept | with_reducible apply State.seqDone_kept
    | with_reducible apply State.seqBad_kept | with_reducible apply kept_ite | with_reducible apply keptF_self | split | dsimp only [kept_mk]

theorem State.doLdr_kept {o : State} {x0 : State} {x1 : Hdr} {x2 : Nat} {x3 : Nat} {x4 : Nat} {x5 : Nat} (h : Kept o x0) :
    Kept o (State.doLdr x0 x1 x2 x3 x4 x5) := by
  unfold State.doLdr
  repeat' first
    | with_reducible assumption | extract_lets | intro _ | with_reducible apply State.seqBad_kept | with_reducible apply State.seqDone_kept
    | with_reducible apply State.modCore_kept | with_reducible apply kept_ite | with_reducible apply keptF_self | split | dsimp only [kept_mk]

theorem State.fetch_kept {o : State} {x0 : State} {x1 : Nat} (h : Kept o x0) :
    ∀ r, (State.fetch x0 x1) = some r → Kept o r := by
  unfold State.fetch
  repeat' first
    | with_reducible assumption | with_reducible exact opt_none | with_reducible refine opt_some ?_ | extract_lets | split | intro _
    | with_reducible apply State.modCore_kept | with_reducible apply State.fillLine_kept | with_reducible apply State.addReg_kept
    | with_reducible apply kept_ite | with_reducible apply keptF_self | split | dsimp only [kept_mk]

theorem State.noopRetire_kept {o : State} {x0 : State} {x1 : Option Instr} {x2 : Cls} {x3 : Hdr} {x4 : Fate} (h : Kept o x0) :
    Kept o (State.noopRetire x0 x1 x2 x3 x4) := by
  unfold State.noopRetire
  repeat' first
    | with_reducible assumption | extract_lets | intro _ | with_reducible exact kept_of_snd ‹_› ‹_› | with_reducible apply State.fateViolate_kept
    | with_reducible apply State.addReg_kept | with_reducible apply State.modCore_kept | with_reducible apply State.seqDone_kept
    | with_reducible apply kept_each | with_reducible apply kept_ite | with_reducible apply kept_ite_snd2 | with_reducible apply kept_ite_snd
    | with_reducible apply keptF_self | with_reducible apply keptF_put | with_reducible apply keptF_sput | with_reducible apply keptF_sputs
    | with_reducible apply keptF_zero | with_reducible apply keptF_nil | with_reducible apply keptF_filter | with_reducible apply kept_foldl_snd
    | with_reducible apply kept_foldl | with_reducible refine kept_of_snd ‹_› ?_ | split | dsimp only [kept_mk] | dsimp +zetaDelta only [kept_mk]

theorem State.issueNoop_kept {o : State} {x0 : State} {x1 : Option Instr} {x2 : Cls} {x3 : Hdr} {x4 : Fate} (h : Kept o x0) :
    Kept o (State.issueNoop x0 x1 x2 x3 x4) := by
  unfold State.issueNoop
  repeat' first
    | with_reducible assumption | extract_lets | intro _ | with_reducible apply State.noopRetire_kept | with_reducible apply State.take_kept
    | with_reducible apply State.hold_kept | with_reducible apply kept_ite | with_reducible apply keptF_self | split | dsimp only [kept_mk]

theorem State.doExit_kept {o : State} {x0 : State} {x1 : Hdr} {x2 : Nat} {x3 : Nat} (h : Kept o x0) :
    Kept o (State.doExit x0 x1 x2 x3) := by
  unfold State.doExit
  repeat' first
    | with_reducible assumption | extract_lets | intro _ | with_reducible apply State.setCore_kept | with_reducible apply State.seqDone_kept
    | with_reducible apply State.cancelAhead_kept | with_reducible apply kept_ite | with_reducible apply keptF_self | split | dsimp only [kept_mk]

theorem State.doCmp_kept {o : State} {x0 : State} {x1 : Hdr} {x2 : Nat} {x3 : Nat} {x4 : Bool} {x5 : BitVec 4} {x6 : BitVec 16} {x7 : Nat} (h : Kept o x0) :
    Kept o (State.doCmp x0 x1 x2 x3 x4 x5 x6 x7) := by
  unfold State.doCmp
  repeat' first
    | with_reducible assumption | with_reducible apply State.seqDone_kept | with_reducible apply State.setCore_kept | dsimp only

theorem State.doJmp_kept {o : State} {x0 : State} {x1 : Hdr} {x2 : Nat} {x3 : Bool} {x4 : Nat} (h : Kept o x0) :
    Kept o (State.doJmp x0 x1 x2 x3 x4) := by
  unfold State.doJmp
  repeat' first
    | with_reducible assumption | extract_lets | intro _ | with_reducible apply State.seqDone_kept | with_reducible apply State.cancelAhead_kept
    | with_reducible apply State.seqBad_kept | with_reducible apply kept_ite | with_reducible apply keptF_self | split | dsimp only [kept_mk]

theorem State.doDiv_kept {o : State} {x0 : State} {x1 : Hdr} {x2 : Nat} {x3 : Nat} {x4 : CSrc} (h : Kept o x0) :
    Kept o (State.doDiv x0 x1 x2 x3 x4) := by
  unfold State.doDiv
  repeat' first
    | with_reducible assumption | extract_lets | intro _ | with_reducible apply State.doCount_kept | with_reducible apply State.seqBad_kept
    | with_reducible apply kept_ite | with_reducible apply keptF_self | split | dsimp only [kept_mk]

theorem State.doIdx_kept {o : State} {x0 : State} {x1 : Hdr} {x2 : Nat} {x3 : Nat} (h : Kept o x0) :
    Kept o (State.doIdx x0 x1 x2 x3) := by
  unfold State.doIdx
  repeat' first
    | with_reducible assumption | with_reducible apply State.seqDone_kept | with_reducible apply State.setCore_kept | dsimp only

theorem State.doSts_kept {o : State} {x0 : State} {x1 : Hdr} {x2 : Nat} {x3 : Nat} {x4 : Nat} (h : Kept o x0) :
    Kept o (State.doSts x0 x1 x2 x3 x4) := by
  unfold State.doSts
  repeat' first
    | with_reducible assumption | extract_lets | intro _ | with_reducible apply State.seqDone_kept | with_reducible apply State.seqBad_kept
    | with_reducible apply State.harnViolate_kept | with_reducible apply State.chargeCore_kept | with_reducible apply State.sramWrite_kept
    | with_reducible apply kept_ite | with_reducible apply keptF_self | split | dsimp only [kept_mk]

theorem State.doAgset_kept {o : State} {x0 : State} {x1 : Hdr} {x2 : Nat} {x3 : AgSrc} (h : Kept o x0) :
    Kept o (State.doAgset x0 x1 x2 x3) := by
  unfold State.doAgset
  repeat' first
    | with_reducible assumption | with_reducible apply State.seqDone_kept | with_reducible apply State.setCore_kept | dsimp only

theorem State.doAgadd_kept {o : State} {x0 : State} {x1 : Hdr} {x2 : Nat} {x3 : AgTerm} (h : Kept o x0) :
    Kept o (State.doAgadd x0 x1 x2 x3) := by
  unfold State.doAgadd
  repeat' first
    | with_reducible assumption | with_reducible apply State.seqDone_kept | with_reducible apply State.setCore_kept | dsimp only

theorem State.doTadd_kept {o : State} {x0 : State} {x1 : Hdr} {x2 : Nat} {x3 : Nat} (h : Kept o x0) :
    Kept o (State.doTadd x0 x1 x2 x3) := by
  unfold State.doTadd
  repeat' first
    | with_reducible assumption | with_reducible apply State.seqDone_kept | with_reducible apply State.signal_kept | dsimp only

theorem State.seqEffect_kept {o : State} {x0 : State} {x1 : Instr} (h : Kept o x0) :
    Kept o (State.seqEffect x0 x1) := by
  unfold State.seqEffect
  repeat' first
    | with_reducible assumption | extract_lets | intro _ | with_reducible apply State.seqDone_kept | with_reducible apply State.doEnd_kept
    | with_reducible apply State.doLoop_kept | with_reducible apply State.doExit_kept | with_reducible apply State.doSkip_kept
    | with_reducible apply State.doCmp_kept | with_reducible apply State.doJmp_kept | with_reducible apply State.doCount_kept
    | with_reducible apply State.doDiv_kept | with_reducible apply State.doIdx_kept | with_reducible apply State.doLdr_kept
    | with_reducible apply State.doLds_kept | with_reducible apply State.doSts_kept | with_reducible apply State.doAgset_kept
    | with_reducible apply State.doAgadd_kept | with_reducible apply State.doAginc_kept | with_reducible apply State.doTadd_kept
    | with_reducible apply kept_ite | with_reducible apply keptF_self | split | dsimp only [kept_mk]

theorem State.proceedSeq_kept {o : State} {x0 : State} {x1 : Nat} (h : Kept o x0) :
    Kept o (State.proceedSeq x0 x1) := by
  unfold State.proceedSeq
  repeat' first
    | with_reducible assumption | extract_lets | intro _ | with_reducible apply State.seqEffect_kept | with_reducible apply State.take_kept
    | with_reducible apply State.addReg_kept | with_reducible apply State.modCore_kept | with_reducible apply State.noopRetire_kept
    | with_reducible apply kept_ite | with_reducible apply keptF_self | split | dsimp only [kept_mk]

theorem State.tokenProceed_kept {o : State} {x0 : State} {x1 : Nat} {x2 : Option Hdr} (h : Kept o x0) :
    Kept o (State.tokenProceed x0 x1 x2) := by
  unfold State.tokenProceed
  repeat' first
    | with_reducible assumption | extract_lets | intro _ | refine State.fetch_kept ?_ _ (by assumption) | with_reducible apply State.run_kept
    | with_reducible apply State.issueNoop_kept | with_reducible apply State.proceedSeq_kept | with_reducible apply State.launch_kept
    | with_reducible apply State.take_kept | with_reducible apply kept_ite | with_reducible apply keptF_self | split | dsimp only [kept_mk]

theorem State.stallDetect_kept {o : State} {x0 : State} {x1 : Nat} (h : Kept o x0) :
    Kept o (State.stallDetect x0 x1) := by
  unfold State.stallDetect
  repeat' first
    | with_reducible assumption | extract_lets | intro _ | with_reducible apply State.modCore_kept | with_reducible apply State.coreFault_kept
    | with_reducible apply kept_ite | with_reducible apply keptF_self | split | dsimp only [kept_mk]

theorem State.instrRetire_kept {o : State} {x0 : State} {x1 : Nat} {x2 : Cls} (h : Kept o x0) :
    Kept o (State.instrRetire x0 x1 x2) := by
  unfold State.instrRetire
  repeat' first
    | with_reducible assumption | extract_lets | intro _ | with_reducible apply State.run_kept | with_reducible apply State.retire_kept
    | with_reducible apply kept_ite | with_reducible apply keptF_self | split | dsimp only [kept_mk]

theorem State.boundaryRetire_kept {o : State} {x0 : State} {x1 : Nat} (h : Kept o x0) :
    Kept o (State.boundaryRetire x0 x1) := by
  unfold State.boundaryRetire
  repeat' first
    | with_reducible assumption | extract_lets | intro _ | with_reducible exact kept_of_snd ‹_› ‹_› | with_reducible apply State.retire_kept
    | with_reducible apply State.boundary_kept | with_reducible apply State.endRetired_kept | with_reducible apply State.run_kept
    | with_reducible apply State.modCore_kept | with_reducible apply kept_each | with_reducible apply kept_ite | with_reducible apply kept_ite_snd2
    | with_reducible apply kept_ite_snd | with_reducible apply keptF_self | with_reducible apply keptF_put | with_reducible apply keptF_sput
    | with_reducible apply keptF_sputs | with_reducible apply keptF_zero | with_reducible apply keptF_nil | with_reducible apply keptF_filter
    | with_reducible apply kept_foldl_snd | with_reducible apply kept_foldl | with_reducible refine kept_of_snd ‹_› ?_ | split | dsimp only [kept_mk]
    | dsimp +zetaDelta only [kept_mk]

theorem State.issueSeq_kept {o : State} {x0 : State} {x1 : Instr} {x2 : Hdr} (h : Kept o x0) :
    Kept o (State.issueSeq x0 x1 x2) := by
  unfold State.issueSeq
  repeat' first
    | with_reducible assumption | extract_lets | intro _ | with_reducible apply State.seqEffect_kept | with_reducible apply State.take_kept
    | with_reducible apply State.addReg_kept | with_reducible apply State.hold_kept | with_reducible apply kept_ite | with_reducible apply keptF_self
    | split | dsimp only [kept_mk]

theorem State.issue_kept {o : State} {x0 : State} {x1 : Instr} (h : Kept o x0) :
    Kept o (State.issue x0 x1) := by
  unfold State.issue
  repeat' first
    | with_reducible assumption | extract_lets | intro _ | with_reducible exact kept_of_snd ‹_› ‹_› | refine State.fetch_kept ?_ _ (by assumption)
    | with_reducible apply State.issueSeq_kept | with_reducible apply State.issueEngine_kept | with_reducible apply State.issueNoop_kept
    | with_reducible apply State.run_kept | with_reducible apply State.seqEffect_kept | with_reducible apply State.take_kept
    | with_reducible apply State.addReg_kept | with_reducible apply State.hold_kept | with_reducible apply State.queueIn_kept
    | with_reducible apply State.noopRetire_kept | with_reducible apply kept_each | with_reducible apply kept_ite | with_reducible apply kept_ite_snd2
    | with_reducible apply kept_ite_snd | with_reducible apply keptF_self | with_reducible apply keptF_put | with_reducible apply keptF_sput
    | with_reducible apply keptF_sputs | with_reducible apply keptF_zero | with_reducible apply keptF_nil | with_reducible apply keptF_filter
    | with_reducible apply kept_foldl_snd | with_reducible apply kept_foldl | with_reducible refine kept_of_snd ‹_› ?_ | split | dsimp only [kept_mk]
    | dsimp +zetaDelta only [kept_mk]

theorem State.readAhead_kept {o : State} {x0 : Ctx} {x1 : Desc} {x2 : Nat} {x3 : Nat} {x4 : AheadRun} {x5 : State} (h : Kept o x5) :
    Kept o (State.readAhead x0 x1 x2 x3 x4 x5).2 := by
  induction x3 generalizing x0 x1 x2 x4 x5 with
  | zero => simpa only [State.readAhead] using h
  | succ m ih =>
    rw [State.readAhead]
    repeat' first
      | with_reducible assumption | with_reducible apply ih | extract_lets | intro _ | with_reducible apply State.outerRead_kept
      | with_reducible apply State.addReg_kept | with_reducible apply kept_ite | with_reducible apply keptF_self | split | dsimp only [kept_mk]

theorem State.prefetchOne_kept {o : State} {x0 : State} {x1 : Nat} {x2 : Nat} {x3 : Reached} {x4 : Option Nat} (h : Kept o x0) :
    ∀ r, (State.prefetchOne x0 x1 x2 x3 x4) = some r → Kept o r := by
  unfold State.prefetchOne
  repeat' first
    | with_reducible assumption | with_reducible exact opt_none | with_reducible refine opt_some ?_ | extract_lets | split | intro _
    | with_reducible apply State.readAhead_kept | with_reducible apply State.modCore_kept | with_reducible apply State.slotFill_kept | dsimp only

theorem State.prefetchFirst_kept {o : State} {x0 : State} {x1 x2 x3 : Nat} {x4 : List Reached} {x5 : Option Nat} (h : Kept o x0) :
    ∀ r, State.prefetchFirst x0 x1 x2 x3 x4 x5 = some r → Kept o r := by
  induction x4 generalizing x5 with
  | nil =>
    intro r e
    rw [State.prefetchFirst] at e
    exact absurd e (by simp)
  | cons v l ih =>
    intro r e
    rw [State.prefetchFirst] at e
    by_cases hv : v.idx = x2
    · rw [if_pos hv] at e
      cases g : x0.prefetchOne x1 x3 v x5 with
      | none => exact ih r (by simpa only [g, Option.orElse] using e)
      | some t => exact State.prefetchOne_kept h r (g.trans (by simpa only [g, Option.orElse] using e))
    · rw [if_neg hv] at e
      exact ih r (by simpa only [Option.orElse] using e)

theorem State.prefetchStart_kept {o : State} {x0 : State} {x1 x2 x3 : Nat} (h : Kept o x0) : Kept o (State.prefetchStart x0 x1 x2 x3) := by
  unfold State.prefetchStart
  extract_lets k l
  refine kept_ite h ?_
  cases e : x0.prefetchFirst x1 x2 x3 (x0.reached x1) l with
  | none => exact h
  | some t => exact State.prefetchFirst_kept h t e

theorem State.stwSleep_kept {o : State} {x0 : State} {x1 : Nat} (h : Kept o x0) :
    Kept o (State.stwSleep x0 x1) := by
  unfold State.stwSleep
  repeat' first
    | with_reducible assumption | with_reducible apply State.wakeHeld_kept | with_reducible apply State.setBit_kept | dsimp only

theorem State.dropPend_kept {o : State} {x0 : State} {x1 : Nat} (h : Kept o x0) :
    Kept o (State.dropPend x0 x1) := by
  unfold State.dropPend
  repeat' first
    | with_reducible assumption | extract_lets | intro _ | with_reducible apply State.setPend_kept | with_reducible apply kept_ite
    | with_reducible apply keptF_self | split | dsimp only [kept_mk]

theorem State.writeEn_kept {o : State} {x0 : State} {x1 : Nat} {x2 : Word} (h : Kept o x0) :
    Kept o (State.writeEn x0 x1 x2) := by
  unfold State.writeEn
  repeat' first
    | with_reducible assumption | extract_lets | intro _ | with_reducible exact kept_of_snd ‹_› ‹_› | with_reducible apply State.setReg_kept
    | with_reducible apply State.dropPend_kept | with_reducible apply State.wakeHeld_kept | with_reducible apply State.setPend_kept
    | with_reducible apply kept_each | with_reducible apply kept_ite | with_reducible apply kept_ite_snd2 | with_reducible apply kept_ite_snd
    | with_reducible apply keptF_self | with_reducible apply keptF_put | with_reducible apply keptF_sput | with_reducible apply keptF_sputs
    | with_reducible apply keptF_zero | with_reducible apply keptF_nil | with_reducible apply keptF_filter | with_reducible apply kept_foldl_snd
    | with_reducible apply kept_foldl | with_reducible refine kept_of_snd ‹_› ?_ | split | dsimp only [kept_mk] | dsimp +zetaDelta only [kept_mk]

theorem State.writeStw_kept {o : State} {x0 : State} {x1 : Nat} {x2 : Word} (h : Kept o x0) :
    Kept o (State.writeStw x0 x1 x2) := by
  unfold State.writeStw
  repeat' first
    | with_reducible assumption | extract_lets | intro _ | with_reducible apply State.setBit_kept | with_reducible apply State.setFld_kept
    | with_reducible apply State.wakeHeld_kept | with_reducible apply kept_ite | with_reducible apply keptF_self | split | dsimp only [kept_mk]

theorem State.dbkOff_kept {o : State} {x0 : State} {x1 : Nat} (h : Kept o x0) :
    Kept o (State.dbkOff x0 x1) := by
  unfold State.dbkOff
  repeat' first
    | with_reducible assumption | extract_lets | intro _ | with_reducible apply State.setActive_kept | with_reducible apply kept_ite
    | with_reducible apply keptF_self | split | dsimp only [kept_mk]

theorem State.dbkRefire_kept {o : State} {x0 : State} {x1 : Nat} (h : Kept o x0) :
    Kept o (State.dbkRefire x0 x1) := by
  unfold State.dbkRefire
  repeat' first
    | with_reducible assumption | extract_lets | intro _ | with_reducible apply State.setPend_kept | with_reducible apply State.wakeHeld_kept
    | with_reducible apply kept_ite | with_reducible apply keptF_self | split | dsimp only [kept_mk]

theorem State.eoi_kept {o : State} {x0 : State} {x1 : Nat} (h : Kept o x0) :
    Kept o (State.eoi x0 x1) := by
  unfold State.eoi
  repeat' first
    | with_reducible assumption | extract_lets | intro _ | with_reducible apply State.dbkOff_kept | with_reducible apply State.dbkRefire_kept
    | with_reducible apply State.addReg_kept | with_reducible apply State.setFault_kept | with_reducible apply kept_ite
    | with_reducible apply keptF_self | split | dsimp only [kept_mk]

theorem State.softSource_kept {o : State} {x0 : State} {x1 : Nat} {x2 : Word} (h : Kept o x0) :
    Kept o (State.softSource x0 x1 x2) := by
  unfold State.softSource
  repeat' first
    | with_reducible assumption | extract_lets | intro _ | with_reducible apply State.fire_kept | with_reducible apply State.unfire_kept
    | with_reducible apply State.devFault_kept | with_reducible apply kept_ite | with_reducible apply keptF_self | split | dsimp only [kept_mk]

theorem State.readRecords_kept {o : State} {x0 : State} {x1 : Nat} {x2 : Nat} {x3 : Nat} (h : Kept o x0) :
    Kept o (State.readRecords x0 x1 x2 x3) := by
  unfold State.readRecords
  repeat' first
    | with_reducible assumption | extract_lets | intro _ | with_reducible exact kept_of_snd ‹_› ‹_› | with_reducible apply State.hubRead_kept
    | with_reducible apply kept_each | with_reducible apply kept_ite | with_reducible apply kept_ite_snd2 | with_reducible apply kept_ite_snd
    | with_reducible apply keptF_self | with_reducible apply keptF_put | with_reducible apply keptF_sput | with_reducible apply keptF_sputs
    | with_reducible apply keptF_zero | with_reducible apply keptF_nil | with_reducible apply keptF_filter | with_reducible apply kept_foldl_snd
    | with_reducible apply kept_foldl | with_reducible refine kept_of_snd ‹_› ?_ | split | dsimp only [kept_mk] | dsimp +zetaDelta only [kept_mk]

theorem State.writeHold_kept {o : State} {x0 : State} {x1 : Word} (h : Kept o x0) :
    Kept o (State.writeHold x0 x1) := by
  unfold State.writeHold
  repeat' first
    | with_reducible assumption | extract_lets | intro _ | with_reducible apply State.setBit_kept | with_reducible apply State.wakeHeld_kept
    | with_reducible apply State.setFld_kept | with_reducible apply State.devFault_kept | with_reducible apply kept_ite
    | with_reducible apply keptF_self | split | dsimp only [kept_mk]

theorem State.setDbkRing_kept {o : State} {x0 : State} {x1 : Nat} {x2 : List DbkRec} (h : Kept o x0) :
    Kept o (State.setDbkRing x0 x1 x2) := by
  unfold State.setDbkRing
  repeat' first
    | with_reducible assumption | extract_lets | intro _ | with_reducible apply kept_ite | with_reducible apply keptF_self | split
    | dsimp only [kept_mk]

theorem State.writeHead_kept {o : State} {x0 : State} {x1 : Nat} {x2 : Nat} (h : Kept o x0) :
    Kept o (State.writeHead x0 x1 x2) := by
  unfold State.writeHead
  repeat' first
    | with_reducible assumption | extract_lets | intro _ | with_reducible apply State.addReg_kept | with_reducible apply State.readRecords_kept
    | with_reducible apply State.setFld_kept | with_reducible apply State.setDbkRing_kept | with_reducible apply kept_ite
    | with_reducible apply keptF_self | split | dsimp only [kept_mk]

theorem State.stwStuck_kept {o : State} {x0 : State} {x1 : Nat} (h : Kept o x0) :
    Kept o (State.stwStuck x0 x1) := by
  unfold State.stwStuck
  repeat' first
    | with_reducible assumption | extract_lets | intro _ | with_reducible exact kept_of_snd ‹_› ‹_› | with_reducible apply State.setBit_kept
    | with_reducible apply State.setDbkRing_kept | with_reducible apply State.setFld_kept | with_reducible apply State.dbkOff_kept
    | with_reducible apply State.setPend_kept | with_reducible apply State.wakeHeld_kept | with_reducible apply State.setFault_kept
    | with_reducible apply kept_each | with_reducible apply kept_ite | with_reducible apply kept_ite_snd2 | with_reducible apply kept_ite_snd
    | with_reducible apply keptF_self | with_reducible apply keptF_put | with_reducible apply keptF_sput | with_reducible apply keptF_sputs
    | with_reducible apply keptF_zero | with_reducible apply keptF_nil | with_reducible apply keptF_filter | with_reducible apply kept_foldl_snd
    | with_reducible apply kept_foldl | with_reducible refine kept_of_snd ‹_› ?_ | split | dsimp only [kept_mk] | dsimp +zetaDelta only [kept_mk]

theorem State.deliver_kept {o : State} {x0 : State} (h : Kept o x0) :
    Kept o (State.deliver x0) := by
  unfold State.deliver
  repeat' first
    | with_reducible assumption | extract_lets | intro _ | with_reducible apply State.hubWrite_kept | with_reducible apply State.setDbkRing_kept
    | with_reducible apply State.setFld_kept | with_reducible apply State.setBit_kept | with_reducible apply State.addReg_kept
    | with_reducible apply State.setActive_kept | with_reducible apply State.setPend_kept | with_reducible apply kept_ite
    | with_reducible apply keptF_self | split | dsimp only [kept_mk]

theorem State.suspendErase_kept {o : State} {x0 : Nat} {x1 : State} (h : Kept o x1) :
    Kept o (State.suspendErase x0 x1) := by
  unfold State.suspendErase
  repeat' first
    | with_reducible assumption | extract_lets | intro _ | with_reducible apply State.addReg_kept | with_reducible apply State.setFblk_kept
    | with_reducible apply kept_ite | with_reducible apply keptF_self | split | dsimp only [kept_mk]

theorem State.satCount_kept {o : State} {x0 : State} {x1 : Nat} {x2 : Nat} (h : Kept o x0) :
    Kept o (State.satCount x0 x1 x2) := by
  unfold State.satCount
  repeat' first
    | with_reducible assumption | with_reducible apply State.setFld_kept | dsimp only

theorem State.throttle_kept {o : State} {x0 : State} (h : Kept o x0) :
    Kept o (State.throttle x0) := by
  unfold State.throttle
  repeat' first
    | with_reducible assumption | with_reducible apply State.setFld_kept | dsimp only

theorem State.suspendErases_kept {o : State} {x0 : State} (h : Kept o x0) :
    Kept o (State.suspendErases x0) := by
  unfold State.suspendErases
  repeat' first
    | with_reducible assumption | extract_lets | intro _ | with_reducible exact kept_of_snd ‹_› ‹_› | with_reducible apply State.suspendErase_kept
    | with_reducible apply kept_each | with_reducible apply kept_ite | with_reducible apply kept_ite_snd2 | with_reducible apply kept_ite_snd
    | with_reducible apply keptF_self | with_reducible apply keptF_put | with_reducible apply keptF_sput | with_reducible apply keptF_sputs
    | with_reducible apply keptF_zero | with_reducible apply keptF_nil | with_reducible apply keptF_filter | with_reducible apply kept_foldl_snd
    | with_reducible apply kept_foldl | with_reducible refine kept_of_snd ‹_› ?_ | split | dsimp only [kept_mk] | dsimp +zetaDelta only [kept_mk]

theorem State.alertAssert_kept {o : State} {x0 : State} (h : Kept o x0) :
    Kept o (State.alertAssert x0) := by
  unfold State.alertAssert
  repeat' first
    | with_reducible assumption | extract_lets | intro _ | with_reducible exact kept_of_snd ‹_› ‹_› | with_reducible apply State.throttle_kept
    | with_reducible apply State.satCount_kept | with_reducible apply State.suspendErases_kept | with_reducible apply State.raise_kept
    | with_reducible apply kept_each | with_reducible apply kept_ite | with_reducible apply kept_ite_snd2 | with_reducible apply kept_ite_snd
    | with_reducible apply keptF_self | with_reducible apply keptF_put | with_reducible apply keptF_sput | with_reducible apply keptF_sputs
    | with_reducible apply keptF_zero | with_reducible apply keptF_nil | with_reducible apply keptF_filter | with_reducible apply kept_foldl_snd
    | with_reducible apply kept_foldl | with_reducible refine kept_of_snd ‹_› ?_ | split | dsimp only [kept_mk] | dsimp +zetaDelta only [kept_mk]

theorem State.broke_kept {o : State} {x0 : State} {x1 : Bool} (h : Kept o x0) :
    Kept o (State.broke x0 x1) := by
  unfold State.broke
  repeat' first
    | with_reducible assumption | extract_lets | intro _ | with_reducible apply State.raise_kept | with_reducible apply State.breakRemote_kept
    | with_reducible apply State.endBroken_kept | with_reducible apply kept_ite | with_reducible apply keptF_self | split | dsimp only [kept_mk]

theorem State.passNotice_kept {o : State} {x0 : State} {x1 : Nat} {x2 : Nat} {x3 : Nat} {x4 : Nat} {x5 : Option Nat} (h : Kept o x0) :
    Kept o (State.passNotice x0 x1 x2 x3 x4 x5) := by
  unfold State.passNotice
  repeat' first
    | with_reducible assumption | extract_lets | intro _ | with_reducible exact kept_of_snd ‹_› ‹_› | with_reducible apply State.sendCtrl_kept
    | with_reducible apply kept_each | with_reducible apply kept_ite | with_reducible apply kept_ite_snd2 | with_reducible apply kept_ite_snd
    | with_reducible apply keptF_self | with_reducible apply keptF_put | with_reducible apply keptF_sput | with_reducible apply keptF_sputs
    | with_reducible apply keptF_zero | with_reducible apply keptF_nil | with_reducible apply keptF_filter | with_reducible apply kept_foldl_snd
    | with_reducible apply kept_foldl | with_reducible refine kept_of_snd ‹_› ?_ | split | dsimp only [kept_mk] | dsimp +zetaDelta only [kept_mk]

theorem State.ownNotice_kept {o : State} {x0 : State} {x1 : Nat} (h : Kept o x0) :
    Kept o (State.ownNotice x0 x1) := by
  unfold State.ownNotice
  repeat' first
    | with_reducible assumption | extract_lets | intro _ | with_reducible exact kept_of_snd ‹_› ‹_› | with_reducible apply State.passNotice_kept
    | with_reducible apply kept_each | with_reducible apply kept_ite | with_reducible apply kept_ite_snd2 | with_reducible apply kept_ite_snd
    | with_reducible apply keptF_self | with_reducible apply keptF_put | with_reducible apply keptF_sput | with_reducible apply keptF_sputs
    | with_reducible apply keptF_zero | with_reducible apply keptF_nil | with_reducible apply keptF_filter | with_reducible apply kept_foldl_snd
    | with_reducible apply kept_foldl | with_reducible refine kept_of_snd ‹_› ?_ | split | dsimp only [kept_mk] | dsimp +zetaDelta only [kept_mk]

theorem State.setPortState_kept {o : State} {x0 : State} {x1 : Nat} {x2 : Nat} (h : Kept o x0) :
    Kept o (State.setPortState x0 x1 x2) := by
  unfold State.setPortState
  repeat' first
    | with_reducible assumption | extract_lets | intro _ | with_reducible apply State.setFld_kept | with_reducible apply State.ownNotice_kept
    | with_reducible apply kept_ite | with_reducible apply keptF_self | split | dsimp only [kept_mk]

theorem State.reauthenticate_kept {o : State} {x0 : State} {x1 : Nat} (h : Kept o x0) :
    Kept o (State.reauthenticate x0 x1) := by
  unfold State.reauthenticate
  repeat' first
    | with_reducible assumption | extract_lets | intro _ | with_reducible apply State.broke_kept | with_reducible apply State.setPortState_kept
    | with_reducible apply kept_ite | with_reducible apply keptF_self | split | dsimp only [kept_mk]

theorem State.portDown_kept {o : State} {x0 : State} {x1 : Nat} {x2 : Nat} (h : Kept o x0) :
    Kept o (State.portDown x0 x1 x2) := by
  unfold State.portDown
  repeat' first
    | with_reducible assumption | extract_lets | intro _ | with_reducible exact kept_of_snd ‹_› ‹_› | with_reducible apply State.freeBuf_kept
    | with_reducible apply State.setLink_kept | with_reducible apply State.setPortState_kept | with_reducible apply State.raise_kept
    | with_reducible apply State.endTxn_kept | with_reducible apply State.broke_kept | with_reducible apply kept_each | with_reducible apply kept_ite
    | with_reducible apply kept_ite_snd2 | with_reducible apply kept_ite_snd | with_reducible apply keptF_self | with_reducible apply keptF_put
    | with_reducible apply keptF_sput | with_reducible apply keptF_sputs | with_reducible apply keptF_zero | with_reducible apply keptF_nil
    | with_reducible apply keptF_filter | with_reducible apply kept_foldl_snd | with_reducible apply kept_foldl
    | with_reducible refine kept_of_snd ‹_› ?_ | split | dsimp only [kept_mk] | dsimp +zetaDelta only [kept_mk]

theorem State.trainLink_kept {o : State} {x0 : State} {x1 : Nat} {x2 : Nat} (h : Kept o x0) :
    Kept o (State.trainLink x0 x1 x2) := by
  unfold State.trainLink
  repeat' first
    | with_reducible assumption | extract_lets | intro _ | with_reducible apply State.setLinkState_kept | with_reducible apply State.dropVia_kept
    | with_reducible apply State.setLink_kept | with_reducible apply State.setPortState_kept | with_reducible apply kept_ite
    | with_reducible apply keptF_self | split | dsimp only [kept_mk]

theorem State.writeOff_kept {o : State} {x0 : State} {x1 : Nat} {x2 : Nat} (h : Kept o x0) :
    Kept o (State.writeOff x0 x1 x2) := by
  unfold State.writeOff
  repeat' first
    | with_reducible assumption | extract_lets | intro _ | with_reducible apply State.setLink_kept | with_reducible apply State.tick_kept
    | with_reducible apply State.setFld_kept | with_reducible apply kept_ite | with_reducible apply keptF_self | split | dsimp only [kept_mk]

theorem State.linkDown_kept {o : State} {x0 : State} {x1 : Nat} {x2 : Nat} {x3 : Nat} (h : Kept o x0) :
    Kept o (State.linkDown x0 x1 x2 x3) := by
  unfold State.linkDown
  repeat' first
    | with_reducible assumption | extract_lets | intro _ | with_reducible apply State.setLinkState_kept | with_reducible apply State.raise_kept
    | with_reducible apply State.dropVia_kept | with_reducible apply State.writeOff_kept | with_reducible apply State.portDown_kept
    | with_reducible apply State.sendCtrl_kept | with_reducible apply kept_ite | with_reducible apply keptF_self | split | dsimp only [kept_mk]

theorem State.enableLinks_kept {o : State} {x0 : State} {x1 : Nat} {x2 : Nat} (h : Kept o x0) :
    Kept o (State.enableLinks x0 x1 x2) := by
  unfold State.enableLinks
  repeat' first
    | with_reducible assumption | extract_lets | intro _ | with_reducible exact kept_of_snd ‹_› ‹_› | with_reducible apply State.linkDown_kept
    | with_reducible apply State.setLinkState_kept | with_reducible apply State.setPortState_kept | with_reducible apply State.trainLink_kept
    | with_reducible apply kept_each | with_reducible apply kept_ite | with_reducible apply kept_ite_snd2 | with_reducible apply kept_ite_snd
    | with_reducible apply keptF_self | with_reducible apply keptF_put | with_reducible apply keptF_sput | with_reducible apply keptF_sputs
    | with_reducible apply keptF_zero | with_reducible apply keptF_nil | with_reducible apply keptF_filter | with_reducible apply kept_foldl_snd
    | with_reducible apply kept_foldl | with_reducible refine kept_of_snd ‹_› ?_ | split | dsimp only [kept_mk] | dsimp +zetaDelta only [kept_mk]

theorem State.modGuard_kept {o : State} {x0 : State} {x1 : Guard → Guard} (h : Kept o x0) :
    Kept o (State.modGuard x0 x1) := by
  unfold State.modGuard
  repeat' first
    | with_reducible assumption | extract_lets | intro _ | with_reducible apply kept_ite | with_reducible apply keptF_self | split
    | dsimp only [kept_mk]

theorem State.slotFault_kept {o : State} {x0 : State} {x1 : Nat} (h : Kept o x0) :
    Kept o (State.slotFault x0 x1) := by
  unfold State.slotFault
  repeat' first
    | with_reducible assumption | extract_lets | intro _ | with_reducible apply State.raise_kept | with_reducible apply kept_ite
    | with_reducible apply keptF_self | split | dsimp only [kept_mk]

theorem State.chooseSlot_kept {o : State} {x0 : State} (h : Kept o x0) :
    Kept o (State.chooseSlot x0) := by
  unfold State.chooseSlot
  repeat' first
    | with_reducible assumption | extract_lets | intro _ | with_reducible apply State.setFld_kept | with_reducible apply State.modGuard_kept
    | with_reducible apply State.slotFault_kept | with_reducible apply State.raise_kept | with_reducible apply kept_ite
    | with_reducible apply keptF_self | split | dsimp only [kept_mk]

theorem State.countBoot_kept {o : State} {x0 : State} (h : Kept o x0) :
    Kept o (State.countBoot x0) := by
  unfold State.countBoot
  repeat' first
    | with_reducible assumption | with_reducible apply State.setFld_kept | dsimp only

theorem State.extend_kept {o : State} {x0 : State} {x1 : Nat} {x2 : List Byte} {x3 : Nat} {x4 : Nat} {x5 : Nat} (h : Kept o x0) :
    Kept o (State.extend x0 x1 x2 x3 x4 x5) := by
  unfold State.extend
  repeat' first
    | with_reducible assumption | with_reducible apply State.modGuard_kept | with_reducible apply State.setFld_kept | dsimp only

theorem State.measureFirmware_kept {o : State} {x0 : State} (h : Kept o x0) :
    Kept o (State.measureFirmware x0) := by
  unfold State.measureFirmware
  repeat' first
    | with_reducible assumption | extract_lets | intro _ | with_reducible apply State.extend_kept | with_reducible apply kept_ite
    | with_reducible apply keptF_self | split | dsimp only [kept_mk]

theorem State.stage_kept {o : State} {x0 : State} {x1 : Nat} (h : Kept o x0) :
    Kept o (State.stage x0 x1) := by
  unfold State.stage
  repeat' first
    | with_reducible assumption | extract_lets | intro _ | with_reducible apply State.setFld_kept | with_reducible apply kept_ite
    | with_reducible apply keptF_self | split | dsimp only [kept_mk]

theorem State.startFirmware_kept {o : State} {x0 : State} {x1 : Bool} (h : Kept o x0) :
    Kept o (State.startFirmware x0 x1) := by
  unfold State.startFirmware
  repeat' first
    | with_reducible assumption | extract_lets | intro _ | with_reducible exact kept_of_snd ‹_› ‹_› | with_reducible apply State.setBit_kept
    | with_reducible apply State.measureFirmware_kept | with_reducible apply State.stage_kept | with_reducible apply State.modGuard_kept
    | with_reducible apply State.enableLinks_kept | with_reducible apply State.raise_kept | with_reducible apply State.alertAssert_kept
    | with_reducible apply kept_each | with_reducible apply kept_ite | with_reducible apply kept_ite_snd2 | with_reducible apply kept_ite_snd
    | with_reducible apply keptF_self | with_reducible apply keptF_put | with_reducible apply keptF_sput | with_reducible apply keptF_sputs
    | with_reducible apply keptF_zero | with_reducible apply keptF_nil | with_reducible apply keptF_filter | with_reducible apply kept_foldl_snd
    | with_reducible apply kept_foldl | with_reducible refine kept_of_snd ‹_› ?_ | split | dsimp only [kept_mk] | dsimp +zetaDelta only [kept_mk]

theorem State.clearBlocks_kept {o : State} {x0 : State} (h : Kept o x0) :
    Kept o (State.clearBlocks x0) := by
  unfold State.clearBlocks
  repeat' first
    | with_reducible assumption | extract_lets | intro _ | with_reducible exact kept_of_snd ‹_› ‹_› | with_reducible apply kept_each
    | with_reducible apply kept_ite | with_reducible apply kept_ite_snd2 | with_reducible apply kept_ite_snd | with_reducible apply keptF_self
    | with_reducible apply keptF_put | with_reducible apply keptF_sput | with_reducible apply keptF_sputs | with_reducible apply keptF_zero
    | with_reducible apply keptF_nil | with_reducible apply keptF_filter | with_reducible apply kept_foldl_snd | with_reducible apply kept_foldl
    | with_reducible refine kept_of_snd ‹_› ?_ | split | dsimp only [kept_mk] | dsimp +zetaDelta only [kept_mk]

theorem State.powerOn_kept {o : State} {x0 : State} (h : Kept o x0) : Kept o (State.powerOn x0) :=
  keptF_regs h (State.clearBlocks_kept h) _

theorem State.deriveKeys_kept {o : State} {x0 : State} (h : Kept o x0) :
    Kept o (State.deriveKeys x0) := by
  unfold State.deriveKeys
  repeat' first
    | with_reducible assumption | with_reducible apply State.modGuard_kept | dsimp only

theorem State.measureGuard_kept {o : State} {x0 : State} (h : Kept o x0) :
    Kept o (State.measureGuard x0) := by
  unfold State.measureGuard
  repeat' first
    | with_reducible assumption | extract_lets | intro _ | with_reducible apply State.extend_kept | with_reducible apply kept_ite
    | with_reducible apply keptF_self | split | dsimp only [kept_mk]

theorem State.powerGood_kept {o : State} {x0 : State} {x1 : Bool} (h : Kept o x0) :
    Kept o (State.powerGood x0 x1) := by
  unfold State.powerGood
  repeat' first
    | with_reducible assumption | extract_lets | intro _ | with_reducible apply State.chooseSlot_kept | with_reducible apply State.deriveKeys_kept
    | with_reducible apply State.countBoot_kept | with_reducible apply State.powerOn_kept | with_reducible apply State.stage_kept
    | with_reducible apply State.startFirmware_kept | with_reducible apply State.measureGuard_kept | with_reducible apply kept_ite
    | with_reducible apply keptF_self | split | dsimp only [kept_mk]

theorem State.writeDump_kept {o : State} {x0 : State} (h : Kept o x0) :
    Kept o (State.writeDump x0) := by
  unfold State.writeDump
  repeat' first
    | with_reducible assumption | extract_lets | intro _ | with_reducible apply State.movePages_kept | with_reducible apply kept_ite
    | with_reducible apply keptF_self | split | dsimp only [kept_mk]

theorem State.warmBlocks_kept {o : State} {x0 : State} {x1 : ResetCause} (h : Kept o x0) : Kept o (State.warmBlocks x0 x1) := by
  have a := State.writeDump_kept h
  exact State.chooseSlot_kept (State.setFld_kept (State.setFld_kept (State.modGuard_kept (State.countBoot_kept (State.setReg_kept
    (show Kept o _ from keptF_regs a (State.clearBlocks_kept a) _))))))

theorem State.warmReset_kept {o : State} {x0 : State} {x1 : ResetCause} (h : Kept o x0) :
    Kept o (State.warmReset x0 x1) := by
  unfold State.warmReset
  repeat' first
    | with_reducible assumption | extract_lets | intro _ | with_reducible apply State.setBit_kept | with_reducible apply State.warmBlocks_kept
    | with_reducible apply State.startFirmware_kept | with_reducible apply kept_ite | with_reducible apply keptF_self | split | dsimp only [kept_mk]

theorem State.alertSample_kept {o : State} {x0 : State} {x1 : Bool} (h : Kept o x0) :
    Kept o (State.alertSample x0 x1) := by
  unfold State.alertSample
  repeat' first
    | with_reducible assumption | extract_lets | intro _ | with_reducible exact kept_of_snd ‹_› ‹_› | with_reducible apply State.alertAssert_kept
    | with_reducible apply State.startErases_kept | with_reducible apply kept_each | with_reducible apply kept_ite
    | with_reducible apply kept_ite_snd2 | with_reducible apply kept_ite_snd | with_reducible apply keptF_self | with_reducible apply keptF_put
    | with_reducible apply keptF_sput | with_reducible apply keptF_sputs | with_reducible apply keptF_zero | with_reducible apply keptF_nil
    | with_reducible apply keptF_filter | with_reducible apply kept_foldl_snd | with_reducible apply kept_foldl
    | with_reducible refine kept_of_snd ‹_› ?_ | split | dsimp only [kept_mk] | dsimp +zetaDelta only [kept_mk]

theorem State.staticCharge_kept {o : State} {x0 : State} {x1 : Nat} (h : Kept o x0) :
    Kept o (State.staticCharge x0 x1) := by
  unfold State.staticCharge
  repeat' first
    | with_reducible assumption | extract_lets | intro _ | with_reducible exact kept_of_snd ‹_› ‹_› | with_reducible apply State.chargeCore_kept
    | with_reducible apply State.chargeHouse_kept | with_reducible apply kept_each | with_reducible apply kept_ite
    | with_reducible apply kept_ite_snd2 | with_reducible apply kept_ite_snd | with_reducible apply keptF_self | with_reducible apply keptF_put
    | with_reducible apply keptF_sput | with_reducible apply keptF_sputs | with_reducible apply keptF_zero | with_reducible apply keptF_nil
    | with_reducible apply keptF_filter | with_reducible apply kept_foldl_snd | with_reducible apply kept_foldl
    | with_reducible refine kept_of_snd ‹_› ?_ | split | dsimp only [kept_mk] | dsimp +zetaDelta only [kept_mk]

theorem State.alertFalls_kept {o : State} {x0 : State} {x1 : Bool} (h : Kept o x0) :
    Kept o (State.alertFalls x0 x1) := by
  unfold State.alertFalls
  repeat' first
    | with_reducible assumption | extract_lets | intro _ | with_reducible exact kept_of_snd ‹_› ‹_› | with_reducible apply State.alertAssert_kept
    | with_reducible apply kept_each | with_reducible apply kept_ite | with_reducible apply kept_ite_snd2 | with_reducible apply kept_ite_snd
    | with_reducible apply keptF_self | with_reducible apply keptF_put | with_reducible apply keptF_sput | with_reducible apply keptF_sputs
    | with_reducible apply keptF_zero | with_reducible apply keptF_nil | with_reducible apply keptF_filter | with_reducible apply kept_foldl_snd
    | with_reducible apply kept_foldl | with_reducible refine kept_of_snd ‹_› ?_ | split | dsimp only [kept_mk] | dsimp +zetaDelta only [kept_mk]

theorem State.droopReset_kept {o : State} {x0 : State} {x1 : Tile} {x2 : Nat} (h : Kept o x0) :
    Kept o (State.droopReset x0 x1 x2) := by
  unfold State.droopReset
  repeat' first
    | with_reducible assumption | extract_lets | intro _ | with_reducible apply State.warmReset_kept | with_reducible apply State.raise_kept
    | with_reducible apply kept_ite | with_reducible apply keptF_self | split | dsimp only [kept_mk]

theorem State.droopWarn_kept {o : State} {x0 : State} {x1 : Tile} {x2 : Nat} (h : Kept o x0) :
    Kept o (State.droopWarn x0 x1 x2) := by
  unfold State.droopWarn
  repeat' first
    | with_reducible assumption | extract_lets | intro _ | with_reducible exact kept_of_snd ‹_› ‹_› | with_reducible apply State.droopReset_kept
    | with_reducible apply State.throttle_kept | with_reducible apply State.raise_kept | with_reducible apply State.satCount_kept
    | with_reducible apply kept_each | with_reducible apply kept_ite | with_reducible apply kept_ite_snd2 | with_reducible apply kept_ite_snd
    | with_reducible apply keptF_self | with_reducible apply keptF_put | with_reducible apply keptF_sput | with_reducible apply keptF_sputs
    | with_reducible apply keptF_zero | with_reducible apply keptF_nil | with_reducible apply keptF_filter | with_reducible apply kept_foldl_snd
    | with_reducible apply kept_foldl | with_reducible refine kept_of_snd ‹_› ?_ | split | dsimp only [kept_mk] | dsimp +zetaDelta only [kept_mk]

theorem State.timePasses_kept {o : State} {x0 : State} {x1 : Nat} (h : Kept o x0) :
    Kept o (State.timePasses x0 x1) := by
  unfold State.timePasses
  repeat' first
    | with_reducible assumption | extract_lets | intro _ | with_reducible apply kept_ite | with_reducible apply keptF_self | split
    | dsimp only [kept_mk]

theorem State.takeSample_kept {o : State} {x0 : State} {x1 : BitVec 16} (h : Kept o x0) :
    Kept o (State.takeSample x0 x1) := by
  unfold State.takeSample
  repeat' first
    | with_reducible assumption | with_reducible apply State.setReg_kept | dsimp only

theorem State.droopRecover_kept {o : State} {x0 : State} {x1 : Tile} {x2 : Nat} (h : Kept o x0) :
    Kept o (State.droopRecover x0 x1 x2) := by
  unfold State.droopRecover
  repeat' first
    | with_reducible assumption | extract_lets | intro _ | with_reducible apply kept_ite | with_reducible apply keptF_self | split
    | dsimp only [kept_mk]

theorem State.pllLoss_kept {o : State} {x0 : State} {x1 : IfPll} (h : Kept o x0) :
    Kept o (State.pllLoss x0 x1) := by
  unfold State.pllLoss
  repeat' first
    | with_reducible assumption | extract_lets | intro _ | with_reducible apply State.setBit_kept | with_reducible apply State.trainLink_kept
    | with_reducible apply State.retrain_kept | with_reducible apply kept_ite | with_reducible apply keptF_self | split | dsimp only [kept_mk]

theorem State.capSample_kept {o : State} {x0 : State} {x1 : Nat} (h : Kept o x0) :
    Kept o (State.capSample x0 x1) := by
  unfold State.capSample
  repeat' first
    | with_reducible assumption | extract_lets | intro _ | with_reducible apply kept_ite | with_reducible apply keptF_self | split
    | dsimp only [kept_mk]

theorem State.rootLoss_kept {o : State} {x0 : State} (h : Kept o x0) :
    Kept o (State.rootLoss x0) := by
  unfold State.rootLoss
  repeat' first
    | with_reducible assumption | extract_lets | intro _ | with_reducible apply State.warmReset_kept | with_reducible apply State.raise_kept
    | with_reducible apply State.setBit_kept | with_reducible apply kept_ite | with_reducible apply keptF_self | split | dsimp only [kept_mk]

theorem State.thermalSample_kept {o : State} {x0 : State} {x1 : Sample} (h : Kept o x0) :
    Kept o (State.thermalSample x0 x1) := by
  unfold State.thermalSample
  repeat' first
    | with_reducible assumption | extract_lets | intro _ | with_reducible exact kept_of_snd ‹_› ‹_› | with_reducible apply State.setReg_kept
    | with_reducible apply State.suspendErases_kept | with_reducible apply State.startErases_kept | with_reducible apply kept_each
    | with_reducible apply kept_ite | with_reducible apply kept_ite_snd2 | with_reducible apply kept_ite_snd | with_reducible apply keptF_self
    | with_reducible apply keptF_put | with_reducible apply keptF_sput | with_reducible apply keptF_sputs | with_reducible apply keptF_zero
    | with_reducible apply keptF_nil | with_reducible apply keptF_filter | with_reducible apply kept_foldl_snd | with_reducible apply kept_foldl
    | with_reducible refine kept_of_snd ‹_› ?_ | split | dsimp only [kept_mk] | dsimp +zetaDelta only [kept_mk]

theorem State.refill_kept {o : State} {x0 : Nat} {x1 : State} (h : Kept o x1) :
    Kept o (State.refill x0 x1) := by
  unfold State.refill
  repeat' first
    | with_reducible assumption | extract_lets | intro _ | with_reducible apply State.setFld_kept | with_reducible apply State.tick_kept
    | with_reducible apply State.addReg_kept | with_reducible apply State.addRemaining_kept | with_reducible apply kept_ite
    | with_reducible apply keptF_self | split | dsimp only [kept_mk]

theorem State.droopDebit_kept {o : State} {x0 : State} {x1 : Tile} {x2 : Nat} (h : Kept o x0) :
    Kept o (State.droopDebit x0 x1 x2) := by
  unfold State.droopDebit
  repeat' first
    | with_reducible assumption | extract_lets | intro _ | with_reducible exact kept_of_snd ‹_› ‹_› | with_reducible apply State.modJob_kept
    | with_reducible apply State.tick_kept | with_reducible apply State.addReg_kept | with_reducible apply State.addRemaining_kept
    | with_reducible apply kept_each | with_reducible apply kept_ite | with_reducible apply kept_ite_snd2 | with_reducible apply kept_ite_snd
    | with_reducible apply keptF_self | with_reducible apply keptF_put | with_reducible apply keptF_sput | with_reducible apply keptF_sputs
    | with_reducible apply keptF_zero | with_reducible apply keptF_nil | with_reducible apply keptF_filter | with_reducible apply kept_foldl_snd
    | with_reducible apply kept_foldl | with_reducible refine kept_of_snd ‹_› ?_ | split | dsimp only [kept_mk] | dsimp +zetaDelta only [kept_mk]

theorem State.takeEstimate_kept {o : State} {x0 : State} (h : Kept o x0) :
    Kept o (State.takeEstimate x0).2 := by
  unfold State.takeEstimate
  repeat' first
    | with_reducible assumption | extract_lets | intro _ | with_reducible apply kept_ite | with_reducible apply keptF_self | split
    | dsimp only [kept_mk]

theorem State.correctGain_kept {o : State} {x0 : State} {x1 : Nat} (h : Kept o x0) :
    Kept o (State.correctGain x0 x1) := by
  unfold State.correctGain
  repeat' first
    | with_reducible assumption | extract_lets | intro _ | with_reducible exact kept_of_snd ‹_› ‹_› | with_reducible apply State.takeEstimate_kept
    | with_reducible apply State.setFld_kept | with_reducible apply kept_each | with_reducible apply kept_ite | with_reducible apply kept_ite_snd2
    | with_reducible apply kept_ite_snd | with_reducible apply keptF_self | with_reducible apply keptF_put | with_reducible apply keptF_sput
    | with_reducible apply keptF_sputs | with_reducible apply keptF_zero | with_reducible apply keptF_nil | with_reducible apply keptF_filter
    | with_reducible apply kept_foldl_snd | with_reducible apply kept_foldl | with_reducible refine kept_of_snd ‹_› ?_ | split | dsimp only [kept_mk]
    | dsimp +zetaDelta only [kept_mk]

theorem State.purseSample_kept {o : State} {x0 : State} {x1 : Sample} (h : Kept o x0) :
    Kept o (State.purseSample x0 x1) := by
  unfold State.purseSample
  repeat' first
    | with_reducible assumption | extract_lets | intro _ | with_reducible exact kept_of_snd ‹_› ‹_› | with_reducible apply State.refill_kept
    | with_reducible apply State.staticCharge_kept | with_reducible apply State.droopDebit_kept | with_reducible apply State.correctGain_kept
    | with_reducible apply kept_each | with_reducible apply kept_ite | with_reducible apply kept_ite_snd2 | with_reducible apply kept_ite_snd
    | with_reducible apply keptF_self | with_reducible apply keptF_put | with_reducible apply keptF_sput | with_reducible apply keptF_sputs
    | with_reducible apply keptF_zero | with_reducible apply keptF_nil | with_reducible apply keptF_filter | with_reducible apply kept_foldl_snd
    | with_reducible apply kept_foldl | with_reducible refine kept_of_snd ‹_› ?_ | split | dsimp only [kept_mk] | dsimp +zetaDelta only [kept_mk]

theorem State.sampleFaults_kept {o : State} {x0 : State} {x1 : Sample} {x2 : Bool} (h : Kept o x0) :
    Kept o (State.sampleFaults x0 x1 x2) := by
  unfold State.sampleFaults
  repeat' first
    | with_reducible assumption | extract_lets | intro _ | with_reducible apply State.raiseStanding_kept | with_reducible apply State.raise_kept
    | with_reducible apply State.satCount_kept | with_reducible apply kept_ite | with_reducible apply keptF_self | split | dsimp only [kept_mk]

theorem State.sample_kept {o : State} {x0 : State} {x1 : Sample} (h : Kept o x0) :
    Kept o (State.sample x0 x1) := by
  unfold State.sample
  repeat' first
    | with_reducible assumption | extract_lets | intro _ | with_reducible exact kept_of_snd ‹_› ‹_› | with_reducible apply State.timePasses_kept
    | with_reducible apply State.takeSample_kept | with_reducible apply State.purseSample_kept | with_reducible apply State.addReg_kept
    | with_reducible apply State.alertSample_kept | with_reducible apply State.thermalSample_kept | with_reducible apply State.capSample_kept
    | with_reducible apply State.throttle_kept | with_reducible apply State.headLevel_kept | with_reducible apply State.sampleFaults_kept
    | with_reducible apply State.warmReset_kept | with_reducible apply State.raiseStanding_kept | with_reducible apply State.raise_kept
    | with_reducible apply State.satCount_kept | with_reducible apply kept_each | with_reducible apply kept_ite | with_reducible apply kept_ite_snd2
    | with_reducible apply kept_ite_snd | with_reducible apply keptF_self | with_reducible apply keptF_put | with_reducible apply keptF_sput
    | with_reducible apply keptF_sputs | with_reducible apply keptF_zero | with_reducible apply keptF_nil | with_reducible apply keptF_filter
    | with_reducible apply kept_foldl_snd | with_reducible apply kept_foldl | with_reducible refine kept_of_snd ‹_› ?_ | split | dsimp only [kept_mk]
    | dsimp +zetaDelta only [kept_mk]

theorem State.droopExpire_kept {o : State} {x0 : State} {x1 : Tile} (h : Kept o x0) :
    Kept o (State.droopExpire x0 x1) := by
  unfold State.droopExpire
  repeat' first
    | with_reducible assumption | extract_lets | intro _ | with_reducible apply State.throttle_kept | with_reducible apply kept_ite
    | with_reducible apply keptF_self | split | dsimp only [kept_mk]

theorem State.tripRelease_kept {o : State} {x0 : State} {x1 : BitVec 16} {x2 : BitVec 16} {x3 : BitVec 16} {x4 : BitVec 16} (h : Kept o x0) :
    Kept o (State.tripRelease x0 x1 x2 x3 x4) := by
  unfold State.tripRelease
  repeat' first
    | with_reducible assumption | extract_lets | intro _ | with_reducible exact kept_of_snd ‹_› ‹_› | with_reducible apply State.startFirmware_kept
    | with_reducible apply kept_each | with_reducible apply kept_ite | with_reducible apply kept_ite_snd2 | with_reducible apply kept_ite_snd
    | with_reducible apply keptF_self | with_reducible apply keptF_put | with_reducible apply keptF_sput | with_reducible apply keptF_sputs
    | with_reducible apply keptF_zero | with_reducible apply keptF_nil | with_reducible apply keptF_filter | with_reducible apply kept_foldl_snd
    | with_reducible apply kept_foldl | with_reducible refine kept_of_snd ‹_› ?_ | split | dsimp only [kept_mk] | dsimp +zetaDelta only [kept_mk]

theorem State.writeAlertCtl_kept {o : State} {x0 : State} {x1 : Word} (h : Kept o x0) :
    Kept o (State.writeAlertCtl x0 x1) := by
  unfold State.writeAlertCtl
  repeat' first
    | with_reducible assumption | extract_lets | intro _ | with_reducible apply State.setBit_kept | with_reducible apply State.devFault_kept
    | with_reducible apply State.setFld_kept | with_reducible apply State.alertAssert_kept | with_reducible apply kept_ite
    | with_reducible apply keptF_self | split | dsimp only [kept_mk]

theorem State.writeShadow_kept {o : State} {x0 : State} {x1 : Nat} {x2 : RegInfo} {x3 : Word} (h : Kept o x0) :
    Kept o (State.writeShadow x0 x1 x2 x3) := by
  unfold State.writeShadow
  repeat' first
    | with_reducible assumption | extract_lets | intro _ | with_reducible apply State.devFault_kept | with_reducible apply State.setShadow_kept
    | with_reducible apply kept_ite | with_reducible apply keptF_self | split | dsimp only [kept_mk]

theorem State.writeRein_kept {o : State} {x0 : State} {x1 : Bool} {x2 : Nat} {x3 : Word} (h : Kept o x0) :
    Kept o (State.writeRein x0 x1 x2 x3) := by
  unfold State.writeRein
  repeat' first
    | with_reducible assumption | extract_lets | intro _ | with_reducible apply State.raise_kept | with_reducible apply State.devFault_kept
    | with_reducible apply State.writeShadow_kept | with_reducible apply kept_ite | with_reducible apply keptF_self | split | dsimp only [kept_mk]

theorem State.writeNow_kept {o : State} {x0 : State} {x1 : Nat} {x2 : RegInfo} {x3 : Word} (h : Kept o x0) :
    Kept o (State.writeNow x0 x1 x2 x3) := by
  unfold State.writeNow
  repeat' first
    | with_reducible assumption | extract_lets | intro _ | with_reducible apply State.devFault_kept | with_reducible apply State.setReg_kept
    | with_reducible apply kept_ite | with_reducible apply keptF_self | split | dsimp only [kept_mk]

theorem State.writePurse_kept {o : State} {x0 : State} {x1 : Nat} {x2 : Word} (h : Kept o x0) :
    Kept o (State.writePurse x0 x1 x2) := by
  unfold State.writePurse
  repeat' first
    | with_reducible assumption | extract_lets | intro _ | with_reducible apply State.raise_kept | with_reducible apply State.devFault_kept
    | with_reducible apply State.writeShadow_kept | with_reducible apply kept_ite | with_reducible apply keptF_self | split | dsimp only [kept_mk]

theorem State.stopCore_kept {o : State} {x0 : Nat} {x1 : State} (h : Kept o x1) :
    Kept o (State.stopCore x0 x1) := by
  unfold State.stopCore
  repeat' first
    | with_reducible assumption | extract_lets | intro _ | with_reducible apply State.modCore_kept | with_reducible apply State.cancelPrefetch_kept
    | with_reducible apply State.slotFree_kept | with_reducible apply kept_ite | with_reducible apply keptF_self | split | dsimp only [kept_mk]

theorem State.reserveCore_kept {o : State} {x0 : NHdr} {x1 : Nat} {x2 : State} (h : Kept o x2) :
    Kept o (State.reserveCore x0 x1 x2) := by
  unfold State.reserveCore
  repeat' first
    | with_reducible assumption | with_reducible apply State.modCore_kept | dsimp only

theorem State.sliceExpiry_kept {o : State} {x0 : State} {x1 : Nat} (h : Kept o x0) :
    Kept o (State.sliceExpiry x0 x1) := by
  unfold State.sliceExpiry
  repeat' first
    | with_reducible assumption | extract_lets | intro _ | with_reducible exact kept_of_snd ‹_› ‹_› | with_reducible apply State.raise_kept
    | with_reducible apply State.modJob_kept | with_reducible apply State.stopCore_kept | with_reducible apply kept_each
    | with_reducible apply kept_ite | with_reducible apply kept_ite_snd2 | with_reducible apply kept_ite_snd | with_reducible apply keptF_self
    | with_reducible apply keptF_put | with_reducible apply keptF_sput | with_reducible apply keptF_sputs | with_reducible apply keptF_zero
    | with_reducible apply keptF_nil | with_reducible apply keptF_filter | with_reducible apply kept_foldl_snd | with_reducible apply kept_foldl
    | with_reducible refine kept_of_snd ‹_› ?_ | split | dsimp only [kept_mk] | dsimp +zetaDelta only [kept_mk]

theorem State.restoreFields_kept {o : State} {x0 : State} {x1 : SavedCtx} (h : Kept o x0) :
    Kept o (State.restoreFields x0 x1) := by
  unfold State.restoreFields
  repeat' first
    | with_reducible assumption | extract_lets | intro _ | with_reducible exact kept_of_snd ‹_› ‹_› | with_reducible apply State.setReg_kept
    | with_reducible apply State.setShadow_kept | with_reducible apply kept_each | with_reducible apply kept_ite | with_reducible apply kept_ite_snd2
    | with_reducible apply kept_ite_snd | with_reducible apply keptF_self | with_reducible apply keptF_put | with_reducible apply keptF_sput
    | with_reducible apply keptF_sputs | with_reducible apply keptF_zero | with_reducible apply keptF_nil | with_reducible apply keptF_filter
    | with_reducible apply kept_foldl_snd | with_reducible apply kept_foldl | with_reducible refine kept_of_snd ‹_› ?_ | split | dsimp only [kept_mk]
    | dsimp +zetaDelta only [kept_mk]

theorem State.laceMoves_kept {o : State} {x0 : State} {x1 : Nat} {x2 : Bool} {x3 : Core} (h : Kept o x0) :
    Kept o (State.laceMoves x0 x1 x2 x3) := by
  unfold State.laceMoves
  repeat' first
    | with_reducible assumption | extract_lets | intro _ | with_reducible exact kept_of_snd ‹_› ‹_› | with_reducible apply State.tick_kept
    | with_reducible apply State.setFld_kept | with_reducible apply kept_each | with_reducible apply kept_ite | with_reducible apply kept_ite_snd2
    | with_reducible apply kept_ite_snd | with_reducible apply keptF_self | with_reducible apply keptF_put | with_reducible apply keptF_sput
    | with_reducible apply keptF_sputs | with_reducible apply keptF_zero | with_reducible apply keptF_nil | with_reducible apply keptF_filter
    | with_reducible apply kept_foldl_snd | with_reducible apply kept_foldl | with_reducible refine kept_of_snd ‹_› ?_ | split | dsimp only [kept_mk]
    | dsimp +zetaDelta only [kept_mk]

theorem State.loadCore_kept {o : State} {x0 : Nat} {x1 : SavedCtx} {x2 : State} (h : Kept o x2) :
    Kept o (State.loadCore x0 x1 x2) := by
  unfold State.loadCore
  repeat' first
    | with_reducible assumption | extract_lets | intro _ | with_reducible exact kept_of_snd ‹_› ‹_› | with_reducible apply State.clearValid_kept
    | with_reducible apply State.putWord_kept | with_reducible apply State.restoreFields_kept | with_reducible apply State.charge_kept
    | with_reducible apply State.laceMoves_kept | with_reducible apply State.setCore_kept | with_reducible apply kept_each
    | with_reducible apply kept_ite | with_reducible apply kept_ite_snd2 | with_reducible apply kept_ite_snd | with_reducible apply keptF_self
    | with_reducible apply keptF_put | with_reducible apply keptF_sput | with_reducible apply keptF_sputs | with_reducible apply keptF_zero
    | with_reducible apply keptF_nil | with_reducible apply keptF_filter | with_reducible apply kept_foldl_snd | with_reducible apply kept_foldl
    | with_reducible refine kept_of_snd ‹_› ?_ | split | dsimp only [kept_mk] | dsimp +zetaDelta only [kept_mk]

theorem State.placeOn_kept {o : State} {x0 : State} {x1 : Job} {x2 : Nat} (h : Kept o x0) :
    Kept o (State.placeOn x0 x1 x2) := by
  unfold State.placeOn
  repeat' first
    | with_reducible assumption | extract_lets | intro _ | with_reducible apply State.clearValid_kept | with_reducible apply State.setCore_kept
    | with_reducible apply State.setReg_kept | with_reducible apply State.setBit_kept | with_reducible apply kept_ite
    | with_reducible apply keptF_self | split | dsimp only [kept_mk]

theorem State.placeNext_kept {o : State} {x0 : State} {x1 : Nat} (h : Kept o x0) :
    Kept o (State.placeNext x0 x1) := by
  unfold State.placeNext
  repeat' first
    | with_reducible assumption | extract_lets | intro _ | with_reducible exact kept_of_snd ‹_› ‹_› | with_reducible apply State.placeOn_kept
    | with_reducible apply State.modJob_kept | with_reducible apply State.laceLive_kept | with_reducible apply State.enterFrame_kept
    | with_reducible apply State.queueStep_kept | with_reducible apply State.reserveCore_kept | with_reducible apply kept_each
    | with_reducible apply kept_ite | with_reducible apply kept_ite_snd2 | with_reducible apply kept_ite_snd | with_reducible apply keptF_self
    | with_reducible apply keptF_put | with_reducible apply keptF_sput | with_reducible apply keptF_sputs | with_reducible apply keptF_zero
    | with_reducible apply keptF_nil | with_reducible apply keptF_filter | with_reducible apply kept_foldl_snd | with_reducible apply kept_foldl
    | with_reducible refine kept_of_snd ‹_› ?_ | split | dsimp only [kept_mk] | dsimp +zetaDelta only [kept_mk]

theorem State.switchIn_kept {o : State} {x0 : State} {x1 : Nat} (h : Kept o x0) :
    Kept o (State.switchIn x0 x1) := by
  unfold State.switchIn
  repeat' first
    | with_reducible assumption | extract_lets | intro _ | with_reducible exact kept_of_snd ‹_› ‹_› | with_reducible apply State.loadCore_kept
    | with_reducible apply State.modJob_kept | with_reducible apply State.modCore_kept | with_reducible apply State.laceLive_kept
    | with_reducible apply State.enterFrame_kept | with_reducible apply State.run_kept | with_reducible apply kept_each
    | with_reducible apply kept_ite | with_reducible apply kept_ite_snd2 | with_reducible apply kept_ite_snd | with_reducible apply keptF_self
    | with_reducible apply keptF_put | with_reducible apply keptF_sput | with_reducible apply keptF_sputs | with_reducible apply keptF_zero
    | with_reducible apply keptF_nil | with_reducible apply keptF_filter | with_reducible apply kept_foldl_snd | with_reducible apply kept_foldl
    | with_reducible refine kept_of_snd ‹_› ?_ | split | dsimp only [kept_mk] | dsimp +zetaDelta only [kept_mk]

theorem State.laceDrop_kept {o : State} {x0 : Nat} {x1 : Nat} {x2 : Nat} {x3 : Nat} {x4 : State} (h : Kept o x4) :
    Kept o (State.laceDrop x0 x1 x2 x3 x4) := by
  unfold State.laceDrop
  repeat' first
    | with_reducible assumption | extract_lets | intro _ | with_reducible apply State.modCore_kept | with_reducible apply State.tick_kept
    | with_reducible apply State.setFld_kept | with_reducible apply kept_ite | with_reducible apply keptF_self | split | dsimp only [kept_mk]

theorem State.laceRestart_kept {o : State} {x0 : Nat} {x1 : State} (h : Kept o x1) :
    Kept o (State.laceRestart x0 x1) := by
  unfold State.laceRestart
  repeat' first
    | with_reducible assumption | extract_lets | intro _ | with_reducible exact kept_of_snd ‹_› ‹_› | with_reducible apply State.modLace_kept
    | with_reducible apply State.laceDrop_kept | with_reducible apply kept_each | with_reducible apply kept_ite | with_reducible apply kept_ite_snd2
    | with_reducible apply kept_ite_snd | with_reducible apply keptF_self | with_reducible apply keptF_put | with_reducible apply keptF_sput
    | with_reducible apply keptF_sputs | with_reducible apply keptF_zero | with_reducible apply keptF_nil | with_reducible apply keptF_filter
    | with_reducible apply kept_foldl_snd | with_reducible apply kept_foldl | with_reducible refine kept_of_snd ‹_› ?_ | split | dsimp only [kept_mk]
    | dsimp +zetaDelta only [kept_mk]

theorem State.readFlipped_kept {o : State} {x0 : State} {x1 : Nat} (h : Kept o x0) :
    Kept o (State.readFlipped x0 x1) := by
  unfold State.readFlipped
  repeat' first
    | with_reducible assumption | extract_lets | intro _ | with_reducible exact kept_of_snd ‹_› ‹_› | with_reducible apply State.checkWord_kept
    | with_reducible apply kept_each | with_reducible apply kept_ite | with_reducible apply kept_ite_snd2 | with_reducible apply kept_ite_snd
    | with_reducible apply keptF_self | with_reducible apply keptF_put | with_reducible apply keptF_sput | with_reducible apply keptF_sputs
    | with_reducible apply keptF_zero | with_reducible apply keptF_nil | with_reducible apply keptF_filter | with_reducible apply kept_foldl_snd
    | with_reducible apply kept_foldl | with_reducible refine kept_of_snd ‹_› ?_ | split | dsimp only [kept_mk] | dsimp +zetaDelta only [kept_mk]

theorem State.saveCore_kept {o : State} {x0 : NHdr} {x1 : Nat} {x2 : Option NHdr} {x3 : Nat} {x4 : State} (h : Kept o x4) :
    Kept o (State.saveCore x0 x1 x2 x3 x4) := by
  unfold State.saveCore
  repeat' first
    | with_reducible assumption | extract_lets | intro _ | with_reducible exact kept_of_snd ‹_› ‹_› | with_reducible apply State.readFlipped_kept
    | with_reducible apply State.emptyMerge_kept | with_reducible apply State.laceMoves_kept | with_reducible apply State.charge_kept
    | with_reducible apply State.clearValid_kept | with_reducible apply State.setCore_kept | with_reducible apply kept_each
    | with_reducible apply kept_ite | with_reducible apply kept_ite_snd2 | with_reducible apply kept_ite_snd | with_reducible apply keptF_self
    | with_reducible apply keptF_put | with_reducible apply keptF_sput | with_reducible apply keptF_sputs | with_reducible apply keptF_zero
    | with_reducible apply keptF_nil | with_reducible apply keptF_filter | with_reducible apply kept_foldl_snd | with_reducible apply kept_foldl
    | with_reducible refine kept_of_snd ‹_› ?_ | split | dsimp only [kept_mk] | dsimp +zetaDelta only [kept_mk]

end Sys2Proof.Machine
end

