-- ==== Sys2Proof/Laws/Kept5.lean ====
section
/-! SUPPORT. Laws/Kept5.lean: one lemma per operation of the machine: it keeps what KeptBase names (part 5, in the order in which operations use
each other). -/

namespace Sys2Proof.Machine

open Sys2Proof

theorem State.switchOut_kept {o : State} {x0 : State} {x1 : Nat} (h : Kept o x0) :
    Kept o (State.switchOut x0 x1) := by
  unfold State.switchOut
  repeat' first
    | with_reducible assumption | extract_lets | intro _ | with_reducible exact kept_of_snd ‹_› ‹_› | with_reducible apply State.laceRestart_kept
    | with_reducible apply State.saveCore_kept | with_reducible apply State.modJob_kept | with_reducible apply State.addReg_kept
    | with_reducible apply kept_each | with_reducible apply kept_ite | with_reducible apply kept_ite_snd2 | with_reducible apply kept_ite_snd
    | with_reducible apply keptF_self | with_reducible apply keptF_put | with_reducible apply keptF_sput | with_reducible apply keptF_sputs
    | with_reducible apply keptF_zero | with_reducible apply keptF_nil | with_reducible apply keptF_filter | with_reducible apply kept_foldl_snd
    | with_reducible apply kept_foldl | with_reducible refine kept_of_snd ‹_› ?_ | split | dsimp only [kept_mk] | dsimp +zetaDelta only [kept_mk]

theorem State.failUnplaceable_kept {o : State} {x0 : State} (h : Kept o x0) :
    Kept o (State.failUnplaceable x0) := by
  unfold State.failUnplaceable
  repeat' first
    | with_reducible assumption | extract_lets | intro _ | with_reducible exact kept_of_snd ‹_› ‹_› | with_reducible apply State.failJob_kept
    | with_reducible apply kept_each | with_reducible apply kept_ite | with_reducible apply kept_ite_snd2 | with_reducible apply kept_ite_snd
    | with_reducible apply keptF_self | with_reducible apply keptF_put | with_reducible apply keptF_sput | with_reducible apply keptF_sputs
    | with_reducible apply keptF_zero | with_reducible apply keptF_nil | with_reducible apply keptF_filter | with_reducible apply kept_foldl_snd
    | with_reducible apply kept_foldl | with_reducible refine kept_of_snd ‹_› ?_ | split | dsimp only [kept_mk] | dsimp +zetaDelta only [kept_mk]

theorem State.deferEnd_kept {o : State} {x0 : State} {x1 : Nat} (h : Kept o x0) :
    Kept o (State.deferEnd x0 x1) := by
  unfold State.deferEnd
  repeat' first
    | with_reducible assumption | extract_lets | intro _ | with_reducible exact kept_of_snd ‹_› ‹_› | with_reducible apply State.emptyMerge_kept
    | with_reducible apply kept_each | with_reducible apply kept_ite | with_reducible apply kept_ite_snd2 | with_reducible apply kept_ite_snd
    | with_reducible apply keptF_self | with_reducible apply keptF_put | with_reducible apply keptF_sput | with_reducible apply keptF_sputs
    | with_reducible apply keptF_zero | with_reducible apply keptF_nil | with_reducible apply keptF_filter | with_reducible apply kept_foldl_snd
    | with_reducible apply kept_foldl | with_reducible refine kept_of_snd ‹_› ?_ | split | dsimp only [kept_mk] | dsimp +zetaDelta only [kept_mk]

theorem State.imbalance_kept {o : State} {x0 : State} {x1 : Nat} {x2 : Nat} {x3 : Sides} {x4 : Bool} (h : Kept o x0) :
    Kept o (State.imbalance x0 x1 x2 x3 x4) := by
  unfold State.imbalance
  repeat' first
    | with_reducible assumption | extract_lets | intro _ | with_reducible apply State.setFault_kept | with_reducible apply State.setReg_kept
    | with_reducible apply State.fire_kept | with_reducible apply State.setBit_kept | with_reducible apply State.raise_kept
    | with_reducible apply kept_ite | with_reducible apply keptF_self | split | dsimp only [kept_mk]

theorem State.checkLedger_kept {o : State} {x0 : Nat} {x1 : Nat} {x2 : Bool} {x3 : State} (h : Kept o x3) :
    Kept o (State.checkLedger x0 x1 x2 x3) := by
  unfold State.checkLedger
  repeat' first
    | with_reducible assumption | extract_lets | intro _ | with_reducible apply State.imbalance_kept | with_reducible apply kept_ite
    | with_reducible apply keptF_self | split | dsimp only [kept_mk]

theorem State.checkLedgers_kept {o : State} {x0 : State} {x1 : Option (Nat × Nat)} (h : Kept o x0) :
    Kept o (State.checkLedgers x0 x1) := by
  unfold State.checkLedgers
  repeat' first
    | with_reducible assumption | extract_lets | intro _ | with_reducible exact kept_of_snd ‹_› ‹_› | with_reducible apply State.checkLedger_kept
    | with_reducible apply kept_each | with_reducible apply kept_ite | with_reducible apply kept_ite_snd2 | with_reducible apply kept_ite_snd
    | with_reducible apply keptF_self | with_reducible apply keptF_put | with_reducible apply keptF_sput | with_reducible apply keptF_sputs
    | with_reducible apply keptF_zero | with_reducible apply keptF_nil | with_reducible apply keptF_filter | with_reducible apply kept_foldl_snd
    | with_reducible apply kept_foldl | with_reducible refine kept_of_snd ‹_› ?_ | split | dsimp only [kept_mk] | dsimp +zetaDelta only [kept_mk]

theorem State.takeAll_kept {o : State} {x0 : State} {x1 : List Nat} (h : Kept o x0) :
    Kept o (State.takeAll x0 x1) := by
  unfold State.takeAll
  repeat' first
    | with_reducible assumption | extract_lets | intro _ | with_reducible exact kept_of_snd ‹_› ‹_› | with_reducible apply State.takeShadow_kept
    | with_reducible apply kept_each | with_reducible apply kept_ite | with_reducible apply kept_ite_snd2 | with_reducible apply kept_ite_snd
    | with_reducible apply keptF_self | with_reducible apply keptF_put | with_reducible apply keptF_sput | with_reducible apply keptF_sputs
    | with_reducible apply keptF_zero | with_reducible apply keptF_nil | with_reducible apply keptF_filter | with_reducible apply kept_foldl_snd
    | with_reducible apply kept_foldl | with_reducible refine kept_of_snd ‹_› ?_ | split | dsimp only [kept_mk] | dsimp +zetaDelta only [kept_mk]

theorem State.dropShadow_kept {o : State} {x0 : Nat} {x1 : State} (h : Kept o x1) :
    Kept o (State.dropShadow x0 x1) := by
  unfold State.dropShadow
  repeat' first
    | with_reducible assumption | extract_lets | intro _ | with_reducible apply kept_ite | with_reducible apply keptF_self | split
    | dsimp only [kept_mk]

theorem State.framesOver_kept {o : State} {x0 : State} {x1 : NHdr} (h : Kept o x0) :
    Kept o (State.framesOver x0 x1) := by
  unfold State.framesOver
  repeat' first
    | with_reducible assumption | extract_lets | intro _ | with_reducible apply State.closeJob_kept | with_reducible apply kept_ite
    | with_reducible apply keptF_self | split | dsimp only [kept_mk]

theorem State.framePeriod_kept {o : State} {x0 : Nat} {x1 : State} (h : Kept o x1) :
    Kept o (State.framePeriod x0 x1) := by
  unfold State.framePeriod
  repeat' first
    | with_reducible assumption | extract_lets | intro _ | with_reducible exact kept_of_snd ‹_› ‹_› | with_reducible apply State.raise_kept
    | with_reducible apply State.dropShadow_kept | with_reducible apply State.takeAll_kept | with_reducible apply State.vendor_kept
    | with_reducible apply State.setFring_kept | with_reducible apply State.framesOver_kept | with_reducible apply kept_each
    | with_reducible apply kept_ite | with_reducible apply kept_ite_snd2 | with_reducible apply kept_ite_snd | with_reducible apply keptF_self
    | with_reducible apply keptF_put | with_reducible apply keptF_sput | with_reducible apply keptF_sputs | with_reducible apply keptF_zero
    | with_reducible apply keptF_nil | with_reducible apply keptF_filter | with_reducible apply kept_foldl_snd | with_reducible apply kept_foldl
    | with_reducible refine kept_of_snd ‹_› ?_ | split | dsimp only [kept_mk] | dsimp +zetaDelta only [kept_mk]

theorem State.pursePeriod_kept {o : State} {x0 : State} (h : Kept o x0) :
    Kept o (State.pursePeriod x0) := by
  unfold State.pursePeriod
  repeat' first
    | with_reducible assumption | extract_lets | intro _ | with_reducible apply State.raise_kept | with_reducible apply State.takeAll_kept
    | with_reducible apply kept_ite | with_reducible apply keptF_self | split | dsimp only [kept_mk]

theorem State.leaveFrames_kept {o : State} {x0 : State} {x1 : Nat} (h : Kept o x0) :
    Kept o (State.leaveFrames x0 x1) := by
  unfold State.leaveFrames
  repeat' first
    | with_reducible assumption | extract_lets | intro _ | with_reducible exact kept_of_snd ‹_› ‹_› | with_reducible apply State.evict_kept
    | with_reducible apply kept_each | with_reducible apply kept_ite | with_reducible apply kept_ite_snd2 | with_reducible apply kept_ite_snd
    | with_reducible apply keptF_self | with_reducible apply keptF_put | with_reducible apply keptF_sput | with_reducible apply keptF_sputs
    | with_reducible apply keptF_zero | with_reducible apply keptF_nil | with_reducible apply keptF_filter | with_reducible apply kept_foldl_snd
    | with_reducible apply kept_foldl | with_reducible refine kept_of_snd ‹_› ?_ | split | dsimp only [kept_mk] | dsimp +zetaDelta only [kept_mk]

theorem State.poolPeriod_kept {o : State} {x0 : State} (h : Kept o x0) :
    Kept o (State.poolPeriod x0) := by
  unfold State.poolPeriod
  repeat' first
    | with_reducible assumption | extract_lets | intro _ | with_reducible exact kept_of_snd ‹_› ‹_› | with_reducible apply State.setBit_kept
    | with_reducible apply State.setFld_kept | with_reducible apply State.takeShadow_kept | with_reducible apply State.leaveFrames_kept
    | with_reducible apply kept_each | with_reducible apply kept_ite | with_reducible apply kept_ite_snd2 | with_reducible apply kept_ite_snd
    | with_reducible apply keptF_self | with_reducible apply keptF_put | with_reducible apply keptF_sput | with_reducible apply keptF_sputs
    | with_reducible apply keptF_zero | with_reducible apply keptF_nil | with_reducible apply keptF_filter | with_reducible apply kept_foldl_snd
    | with_reducible apply kept_foldl | with_reducible refine kept_of_snd ‹_› ?_ | split | dsimp only [kept_mk] | dsimp +zetaDelta only [kept_mk]

theorem State.schedPeriod_kept {o : State} {x0 : State} (h : Kept o x0) :
    Kept o (State.schedPeriod x0) := by
  unfold State.schedPeriod
  repeat' first
    | with_reducible assumption | extract_lets | intro _ | with_reducible exact kept_of_snd ‹_› ‹_› | with_reducible apply State.raise_kept
    | with_reducible apply State.takeAll_kept | with_reducible apply State.clearValid_kept | with_reducible apply kept_each
    | with_reducible apply kept_ite | with_reducible apply kept_ite_snd2 | with_reducible apply kept_ite_snd | with_reducible apply keptF_self
    | with_reducible apply keptF_put | with_reducible apply keptF_sput | with_reducible apply keptF_sputs | with_reducible apply keptF_zero
    | with_reducible apply keptF_nil | with_reducible apply keptF_filter | with_reducible apply kept_foldl_snd | with_reducible apply kept_foldl
    | with_reducible refine kept_of_snd ‹_› ?_ | split | dsimp only [kept_mk] | dsimp +zetaDelta only [kept_mk]

theorem State.disableBind_kept {o : State} {x0 : State} {x1 : Nat} (h : Kept o x0) :
    Kept o (State.disableBind x0 x1) := by
  unfold State.disableBind
  repeat' first
    | with_reducible assumption | extract_lets | intro _ | with_reducible exact kept_of_snd ‹_› ‹_› | with_reducible apply State.discardRing_kept
    | with_reducible apply State.breakWaits_kept | with_reducible apply State.setBit_kept | with_reducible apply State.modCore_kept
    | with_reducible apply State.clearWindow_kept | with_reducible apply kept_each | with_reducible apply kept_ite
    | with_reducible apply kept_ite_snd2 | with_reducible apply kept_ite_snd | with_reducible apply keptF_self | with_reducible apply keptF_put
    | with_reducible apply keptF_sput | with_reducible apply keptF_sputs | with_reducible apply keptF_zero | with_reducible apply keptF_nil
    | with_reducible apply keptF_filter | with_reducible apply kept_foldl_snd | with_reducible apply kept_foldl
    | with_reducible refine kept_of_snd ‹_› ?_ | split | dsimp only [kept_mk] | dsimp +zetaDelta only [kept_mk]

theorem State.stopRing_kept {o : State} {x0 : Nat} {x1 : Nat} {x2 : State} (h : Kept o x2) :
    Kept o (State.stopRing x0 x1 x2) := by
  unfold State.stopRing
  repeat' first
    | with_reducible assumption | extract_lets | intro _ | with_reducible exact kept_of_snd ‹_› ‹_› | with_reducible apply State.discardRing_kept
    | with_reducible apply State.breakWait_kept | with_reducible apply kept_each | with_reducible apply kept_ite | with_reducible apply kept_ite_snd2
    | with_reducible apply kept_ite_snd | with_reducible apply keptF_self | with_reducible apply keptF_put | with_reducible apply keptF_sput
    | with_reducible apply keptF_sputs | with_reducible apply keptF_zero | with_reducible apply keptF_nil | with_reducible apply keptF_filter
    | with_reducible apply kept_foldl_snd | with_reducible apply kept_foldl | with_reducible refine kept_of_snd ‹_› ?_ | split | dsimp only [kept_mk]
    | dsimp +zetaDelta only [kept_mk]

theorem State.startBind_kept {o : State} {x0 : State} {x1 : Nat} (h : Kept o x0) :
    Kept o (State.startBind x0 x1) := by
  unfold State.startBind
  repeat' first
    | with_reducible assumption | with_reducible apply State.setReg_kept | dsimp only

theorem State.bindPeriod_kept {o : State} {x0 : Nat} {x1 : State} (h : Kept o x1) :
    Kept o (State.bindPeriod x0 x1) := by
  unfold State.bindPeriod
  repeat' first
    | with_reducible assumption | extract_lets | intro _ | with_reducible exact kept_of_snd ‹_› ‹_› | with_reducible apply State.raise_kept
    | with_reducible apply State.disableBind_kept | with_reducible apply State.stopRing_kept | with_reducible apply State.takeAll_kept
    | with_reducible apply State.startBind_kept | with_reducible apply State.startRing_kept | with_reducible apply kept_each
    | with_reducible apply kept_ite | with_reducible apply kept_ite_snd2 | with_reducible apply kept_ite_snd | with_reducible apply keptF_self
    | with_reducible apply keptF_put | with_reducible apply keptF_sput | with_reducible apply keptF_sputs | with_reducible apply keptF_zero
    | with_reducible apply keptF_nil | with_reducible apply keptF_filter | with_reducible apply kept_foldl_snd | with_reducible apply kept_foldl
    | with_reducible refine kept_of_snd ‹_› ?_ | split | dsimp only [kept_mk] | dsimp +zetaDelta only [kept_mk]

theorem State.harnLeave_kept {o : State} {x0 : State} (h : Kept o x0) :
    Kept o (State.harnLeave x0) := by
  unfold State.harnLeave
  repeat' first
    | with_reducible assumption | extract_lets | intro _ | with_reducible exact kept_of_snd ‹_› ‹_› | with_reducible apply State.bindPeriod_kept
    | with_reducible apply kept_each | with_reducible apply kept_ite | with_reducible apply kept_ite_snd2 | with_reducible apply kept_ite_snd
    | with_reducible apply keptF_self | with_reducible apply keptF_put | with_reducible apply keptF_sput | with_reducible apply keptF_sputs
    | with_reducible apply keptF_zero | with_reducible apply keptF_nil | with_reducible apply keptF_filter | with_reducible apply kept_foldl_snd
    | with_reducible apply kept_foldl | with_reducible refine kept_of_snd ‹_› ?_ | split | dsimp only [kept_mk] | dsimp +zetaDelta only [kept_mk]

theorem State.vfmapPeriod_kept {o : State} {x0 : Nat} {x1 : State} (h : Kept o x1) :
    Kept o (State.vfmapPeriod x0 x1) := by
  unfold State.vfmapPeriod
  repeat' first
    | with_reducible assumption | extract_lets | intro _ | with_reducible exact kept_of_snd ‹_› ‹_› | with_reducible apply State.raise_kept
    | with_reducible apply State.setShadow_kept | with_reducible apply State.takeShadow_kept | with_reducible apply kept_each
    | with_reducible apply kept_ite | with_reducible apply kept_ite_snd2 | with_reducible apply kept_ite_snd | with_reducible apply keptF_self
    | with_reducible apply keptF_put | with_reducible apply keptF_sput | with_reducible apply keptF_sputs | with_reducible apply keptF_zero
    | with_reducible apply keptF_nil | with_reducible apply keptF_filter | with_reducible apply kept_foldl_snd | with_reducible apply kept_foldl
    | with_reducible refine kept_of_snd ‹_› ?_ | split | dsimp only [kept_mk] | dsimp +zetaDelta only [kept_mk]

theorem State.reducePeriod_kept {o : State} {x0 : Nat} {x1 : State} (h : Kept o x1) :
    Kept o (State.reducePeriod x0 x1) := by
  unfold State.reducePeriod
  repeat' first
    | with_reducible assumption | extract_lets | intro _ | with_reducible apply State.dropCarries_kept | with_reducible apply State.takeShadow_kept
    | with_reducible apply State.setReg_kept | with_reducible apply kept_ite | with_reducible apply keptF_self | split | dsimp only [kept_mk]

theorem State.harnPeriod_kept {o : State} {x0 : State} (h : Kept o x0) :
    Kept o (State.harnPeriod x0) := by
  unfold State.harnPeriod
  repeat' first
    | with_reducible assumption | extract_lets | intro _ | with_reducible exact kept_of_snd ‹_› ‹_› | with_reducible apply State.bindPeriod_kept
    | with_reducible apply State.takeAll_kept | with_reducible apply State.reducePeriod_kept | with_reducible apply kept_each
    | with_reducible apply kept_ite | with_reducible apply kept_ite_snd2 | with_reducible apply kept_ite_snd | with_reducible apply keptF_self
    | with_reducible apply keptF_put | with_reducible apply keptF_sput | with_reducible apply keptF_sputs | with_reducible apply keptF_zero
    | with_reducible apply keptF_nil | with_reducible apply keptF_filter | with_reducible apply kept_foldl_snd | with_reducible apply kept_foldl
    | with_reducible refine kept_of_snd ‹_› ?_ | split | dsimp only [kept_mk] | dsimp +zetaDelta only [kept_mk]

theorem State.srvPoolPeriod_kept {o : State} {x0 : Nat} {x1 : State} (h : Kept o x1) :
    Kept o (State.srvPoolPeriod x0 x1) := by
  unfold State.srvPoolPeriod
  repeat' first
    | with_reducible assumption | extract_lets | intro _ | with_reducible exact kept_of_snd ‹_› ‹_› | with_reducible apply State.raise_kept
    | with_reducible apply State.dropShadow_kept | with_reducible apply State.takeAll_kept | with_reducible apply State.disablePool_kept
    | with_reducible apply kept_each | with_reducible apply kept_ite | with_reducible apply kept_ite_snd2 | with_reducible apply kept_ite_snd
    | with_reducible apply keptF_self | with_reducible apply keptF_put | with_reducible apply keptF_sput | with_reducible apply keptF_sputs
    | with_reducible apply keptF_zero | with_reducible apply keptF_nil | with_reducible apply keptF_filter | with_reducible apply kept_foldl_snd
    | with_reducible apply kept_foldl | with_reducible refine kept_of_snd ‹_› ?_ | split | dsimp only [kept_mk] | dsimp +zetaDelta only [kept_mk]

theorem State.overlayPeriod_kept {o : State} {x0 : Nat} {x1 : State} (h : Kept o x1) :
    Kept o (State.overlayPeriod x0 x1) := by
  unfold State.overlayPeriod
  repeat' first
    | with_reducible assumption | extract_lets | intro _ | with_reducible exact kept_of_snd ‹_› ‹_› | with_reducible apply State.raise_kept
    | with_reducible apply State.dropShadow_kept | with_reducible apply State.takeAll_kept | with_reducible apply kept_each
    | with_reducible apply kept_ite | with_reducible apply kept_ite_snd2 | with_reducible apply kept_ite_snd | with_reducible apply keptF_self
    | with_reducible apply keptF_put | with_reducible apply keptF_sput | with_reducible apply keptF_sputs | with_reducible apply keptF_zero
    | with_reducible apply keptF_nil | with_reducible apply keptF_filter | with_reducible apply kept_foldl_snd | with_reducible apply kept_foldl
    | with_reducible refine kept_of_snd ‹_› ?_ | split | dsimp only [kept_mk] | dsimp +zetaDelta only [kept_mk]

theorem State.girthPeriod_kept {o : State} {x0 : State} (h : Kept o x0) :
    Kept o (State.girthPeriod x0) := by
  unfold State.girthPeriod
  repeat' first
    | with_reducible assumption | extract_lets | intro _ | with_reducible exact kept_of_snd ‹_› ‹_› | with_reducible apply State.takeAll_kept
    | with_reducible apply State.broke_kept | with_reducible apply State.enableLinks_kept | with_reducible apply State.reauthenticate_kept
    | with_reducible apply kept_each | with_reducible apply kept_ite | with_reducible apply kept_ite_snd2 | with_reducible apply kept_ite_snd
    | with_reducible apply keptF_self | with_reducible apply keptF_put | with_reducible apply keptF_sput | with_reducible apply keptF_sputs
    | with_reducible apply keptF_zero | with_reducible apply keptF_nil | with_reducible apply keptF_filter | with_reducible apply kept_foldl_snd
    | with_reducible apply kept_foldl | with_reducible refine kept_of_snd ‹_› ?_ | split | dsimp only [kept_mk] | dsimp +zetaDelta only [kept_mk]

theorem State.periodShadows_kept {o : State} {x0 : State} (h : Kept o x0) :
    Kept o (State.periodShadows x0) := by
  unfold State.periodShadows
  repeat' first
    | with_reducible assumption | extract_lets | intro _ | with_reducible exact kept_of_snd ‹_› ‹_› | with_reducible apply State.pursePeriod_kept
    | with_reducible apply State.takeAll_kept | with_reducible apply State.poolPeriod_kept | with_reducible apply State.schedPeriod_kept
    | with_reducible apply State.harnLeave_kept | with_reducible apply State.vfmapPeriod_kept | with_reducible apply State.harnPeriod_kept
    | with_reducible apply State.srvPoolPeriod_kept | with_reducible apply State.overlayPeriod_kept | with_reducible apply State.framePeriod_kept
    | with_reducible apply State.girthPeriod_kept | with_reducible apply kept_each | with_reducible apply kept_ite
    | with_reducible apply kept_ite_snd2 | with_reducible apply kept_ite_snd | with_reducible apply keptF_self | with_reducible apply keptF_put
    | with_reducible apply keptF_sput | with_reducible apply keptF_sputs | with_reducible apply keptF_zero | with_reducible apply keptF_nil
    | with_reducible apply keptF_filter | with_reducible apply kept_foldl_snd | with_reducible apply kept_foldl
    | with_reducible refine kept_of_snd ‹_› ?_ | split | dsimp only [kept_mk] | dsimp +zetaDelta only [kept_mk]

theorem State.capsLive_kept {o : State} {x0 : State} (h : Kept o x0) :
    Kept o (State.capsLive x0) := by
  unfold State.capsLive
  repeat' first
    | with_reducible assumption | extract_lets | intro _ | with_reducible exact kept_of_snd ‹_› ‹_› | with_reducible apply State.ok_kept
    | with_reducible apply kept_each | with_reducible apply kept_ite | with_reducible apply kept_ite_snd2 | with_reducible apply kept_ite_snd
    | with_reducible apply keptF_self | with_reducible apply keptF_put | with_reducible apply keptF_sput | with_reducible apply keptF_sputs
    | with_reducible apply keptF_zero | with_reducible apply keptF_nil | with_reducible apply keptF_filter | with_reducible apply kept_foldl_snd
    | with_reducible apply kept_foldl | with_reducible refine kept_of_snd ‹_› ?_ | split | dsimp only [kept_mk] | dsimp +zetaDelta only [kept_mk]

theorem State.beginCopy_kept {o : State} {x0 : State} {x1 : Nat} {x2 : Nat} (h : Kept o x0) :
    Kept o (State.beginCopy x0 x1 x2) := by
  unfold State.beginCopy
  repeat' first
    | with_reducible assumption | extract_lets | intro _ | with_reducible apply State.chargeHouse_kept | with_reducible apply kept_ite
    | with_reducible apply keptF_self | split | dsimp only [kept_mk]

theorem State.promoteOne_kept {o : State} {x0 : Nat} {x1 : State} (h : Kept o x1) :
    Kept o (State.promoteOne x0 x1) := by
  unfold State.promoteOne
  repeat' first
    | with_reducible assumption | extract_lets | intro _ | with_reducible apply State.fresh_kept | with_reducible apply State.beginCopy_kept
    | with_reducible apply State.evict_kept | with_reducible apply kept_ite | with_reducible apply keptF_self | split | dsimp only [kept_mk]

theorem State.promote_kept {o : State} {x0 : State} (h : Kept o x0) :
    Kept o (State.promote x0) := by
  unfold State.promote
  repeat' first
    | with_reducible assumption | extract_lets | intro _ | with_reducible exact kept_of_snd ‹_› ‹_› | with_reducible apply State.promoteOne_kept
    | with_reducible apply State.fresh_kept | with_reducible apply State.beginCopy_kept | with_reducible apply State.evict_kept
    | with_reducible apply kept_each | with_reducible apply kept_ite | with_reducible apply kept_ite_snd2 | with_reducible apply kept_ite_snd
    | with_reducible apply keptF_self | with_reducible apply keptF_put | with_reducible apply keptF_sput | with_reducible apply keptF_sputs
    | with_reducible apply keptF_zero | with_reducible apply keptF_nil | with_reducible apply keptF_filter | with_reducible apply kept_foldl_snd
    | with_reducible apply kept_foldl | with_reducible refine kept_of_snd ‹_› ?_ | split | dsimp only [kept_mk] | dsimp +zetaDelta only [kept_mk]

theorem State.halveHeat_kept {o : State} {x0 : State} (h : Kept o x0) :
    Kept o (State.halveHeat x0) := by
  unfold State.halveHeat
  repeat' first
    | with_reducible assumption | extract_lets | intro _ | with_reducible apply kept_ite | with_reducible apply keptF_self | split
    | dsimp only [kept_mk]

theorem State.windowsLive_kept {o : State} {x0 : State} (h : Kept o x0) :
    Kept o (State.windowsLive x0) := by
  unfold State.windowsLive
  repeat' first
    | with_reducible assumption | extract_lets | intro _ | with_reducible exact kept_of_snd ‹_› ‹_› | with_reducible apply State.ok_kept
    | with_reducible apply kept_each | with_reducible apply kept_ite | with_reducible apply kept_ite_snd2 | with_reducible apply kept_ite_snd
    | with_reducible apply keptF_self | with_reducible apply keptF_put | with_reducible apply keptF_sput | with_reducible apply keptF_sputs
    | with_reducible apply keptF_zero | with_reducible apply keptF_nil | with_reducible apply keptF_filter | with_reducible apply kept_foldl_snd
    | with_reducible apply kept_foldl | with_reducible refine kept_of_snd ‹_› ?_ | split | dsimp only [kept_mk] | dsimp +zetaDelta only [kept_mk]

theorem State.returnExcess_kept {o : State} {x0 : Nat} {x1 : State} (h : Kept o x1) :
    Kept o (State.returnExcess x0 x1) := by
  unfold State.returnExcess
  repeat' first
    | with_reducible assumption | extract_lets | intro _ | with_reducible apply State.tick_kept | with_reducible apply State.addReg_kept
    | with_reducible apply State.addRemaining_kept | with_reducible apply kept_ite | with_reducible apply keptF_self | split | dsimp only [kept_mk]

theorem State.headsAgain_kept {o : State} {x0 : State} (h : Kept o x0) :
    Kept o (State.headsAgain x0) := by
  unfold State.headsAgain
  repeat' first
    | with_reducible assumption | extract_lets | intro _ | with_reducible exact kept_of_snd ‹_› ‹_› | with_reducible apply State.admitHead_kept
    | with_reducible apply State.headLevel_kept | with_reducible apply kept_each | with_reducible apply kept_ite | with_reducible apply kept_ite_snd2
    | with_reducible apply kept_ite_snd | with_reducible apply keptF_self | with_reducible apply keptF_put | with_reducible apply keptF_sput
    | with_reducible apply keptF_sputs | with_reducible apply keptF_zero | with_reducible apply keptF_nil | with_reducible apply keptF_filter
    | with_reducible apply kept_foldl_snd | with_reducible apply kept_foldl | with_reducible refine kept_of_snd ‹_› ?_ | split | dsimp only [kept_mk]
    | dsimp +zetaDelta only [kept_mk]

theorem State.periodBoundary_kept {o : State} {x0 : State} (h : Kept o x0) :
    Kept o (State.periodBoundary x0) := by
  unfold State.periodBoundary
  repeat' first
    | with_reducible assumption | extract_lets | intro _ | with_reducible exact kept_of_snd ‹_› ‹_› | with_reducible apply State.returnExcess_kept
    | with_reducible apply State.throttle_kept | with_reducible apply State.starveFrom_kept | with_reducible apply State.takeShadow_kept
    | with_reducible apply State.periodShadows_kept | with_reducible apply State.promote_kept | with_reducible apply State.halveHeat_kept
    | with_reducible apply State.capsLive_kept | with_reducible apply State.windowsLive_kept | with_reducible apply State.slcTarget_kept
    | with_reducible apply State.headsAgain_kept | with_reducible apply State.failUnplaceable_kept | with_reducible apply State.runAll_kept
    | with_reducible apply State.checkLedgers_kept | with_reducible apply kept_each | with_reducible apply kept_ite
    | with_reducible apply kept_ite_snd2 | with_reducible apply kept_ite_snd | with_reducible apply keptF_self | with_reducible apply keptF_put
    | with_reducible apply keptF_sput | with_reducible apply keptF_sputs | with_reducible apply keptF_zero | with_reducible apply keptF_nil
    | with_reducible apply keptF_filter | with_reducible apply kept_foldl_snd | with_reducible apply kept_foldl
    | with_reducible refine kept_of_snd ‹_› ?_ | split | dsimp only [kept_mk] | dsimp +zetaDelta only [kept_mk]

theorem State.writePlain_kept {o : State} {x0 : State} {x1 : Nat} {x2 : Word} (h : Kept o x0) :
    Kept o (State.writePlain x0 x1 x2) := by
  unfold State.writePlain
  repeat' first
    | with_reducible assumption | extract_lets | intro _ | with_reducible apply State.writeNow_kept | with_reducible apply State.writeShadow_kept
    | with_reducible apply kept_ite | with_reducible apply keptF_self | split | dsimp only [kept_mk]

theorem State.vfAccess_kept {o : State} {x0 : State} {x1 x2 x3 : Nat} (h : Kept o x0) :
    ∀ t, State.vfAccess x0 x1 x2 x3 = .inr t → Kept o t := by
  intro t e
  have a : ∀ w, Kept o ((x0.sramWinViolation w).hostViolation 2 x1 w) := fun _ => State.hostViolation_kept (State.sramWinViolation_kept h)
  unfold State.vfAccess at e
  dsimp only at e
  split at e
  · split at e
    · exact Sum.inr.inj e ▸ a _
    · split at e
      · exact Sum.inr.inj e ▸ State.hostViolation_kept (State.harnViolate_kept h)
      · exact absurd e Sum.inl_ne_inr
  all_goals exact Sum.inr.inj e ▸ a _

theorem State.vfWrite_kept {o : State} {x0 : State} {x1 x2 : Nat} {x3 : List Byte} (h : Kept o x0) : Kept o (State.vfWrite x0 x1 x2 x3) := by
  unfold State.vfWrite
  refine kept_ite h ?_
  split
  · exact State.charge_kept (State.sramWrite_kept h)
  · rename_i e
    exact State.vfAccess_kept h _ e

theorem State.writePool_kept {o : State} {x0 : State} {x1 : Word} (h : Kept o x0) :
    Kept o (State.writePool x0 x1) := by
  unfold State.writePool
  repeat' first
    | with_reducible assumption | extract_lets | intro _ | with_reducible apply State.writePlain_kept | with_reducible apply kept_ite
    | with_reducible apply keptF_self | split | dsimp only [kept_mk]

theorem State.vfRead_kept {o : State} {x0 : State} {x1 x2 x3 : Nat} (h : Kept o x0) : Kept o (State.vfRead x0 x1 x2 x3).2 := by
  unfold State.vfRead
  split
  · exact State.charge_kept (State.sramCheck_kept h)
  · rename_i e
    exact State.vfAccess_kept h _ e

theorem State.releaseQuarantine_kept {o : State} {x0 : State} {x1 : Word} (h : Kept o x0) :
    Kept o (State.releaseQuarantine x0 x1) := by
  unfold State.releaseQuarantine
  repeat' first
    | with_reducible assumption | extract_lets | intro _ | with_reducible exact kept_of_snd ‹_› ‹_› | with_reducible apply State.setReg_kept
    | with_reducible apply State.setBit_kept | with_reducible apply kept_each | with_reducible apply kept_ite | with_reducible apply kept_ite_snd2
    | with_reducible apply kept_ite_snd | with_reducible apply keptF_self | with_reducible apply keptF_put | with_reducible apply keptF_sput
    | with_reducible apply keptF_sputs | with_reducible apply keptF_zero | with_reducible apply keptF_nil | with_reducible apply keptF_filter
    | with_reducible apply kept_foldl_snd | with_reducible apply kept_foldl | with_reducible refine kept_of_snd ‹_› ?_ | split | dsimp only [kept_mk]
    | dsimp +zetaDelta only [kept_mk]

theorem State.writeGirthSet_kept {o : State} {x0 : State} {x1 : Word} (h : Kept o x0) :
    Kept o (State.writeGirthSet x0 x1) := by
  unfold State.writeGirthSet
  repeat' first
    | with_reducible assumption | extract_lets | intro _ | with_reducible apply State.raise_kept | with_reducible apply State.devFault_kept
    | with_reducible apply State.writeShadow_kept | with_reducible apply kept_ite | with_reducible apply keptF_self | split | dsimp only [kept_mk]

theorem State.writePstream_kept {o : State} {x0 : State} {x1 : Nat} {x2 : Nat} {x3 : Word} (h : Kept o x0) :
    Kept o (State.writePstream x0 x1 x2 x3) := by
  unfold State.writePstream
  repeat' first
    | with_reducible assumption | with_reducible apply State.cancelPrefetch_kept | with_reducible apply State.writePlain_kept | dsimp only

theorem State.writeActs_kept {o : State} {x0 : State} {x1 : Nat} {x2 : Word} (h : Kept o x0) :
    ∀ r, (State.writeActs x0 x1 x2) = some r → Kept o r := by
  unfold State.writeActs
  repeat' first
    | with_reducible assumption | with_reducible exact opt_none | with_reducible refine opt_some ?_ | extract_lets | split | intro _
    | with_reducible apply State.warmReset_kept | with_reducible apply State.writeAlertCtl_kept | with_reducible apply State.releaseQuarantine_kept
    | with_reducible apply State.writeHold_kept | with_reducible apply State.eoi_kept | with_reducible apply State.softSource_kept
    | with_reducible apply State.writeEn_kept | with_reducible apply State.wakeHeld_kept | with_reducible apply State.setReg_kept
    | with_reducible apply State.writeStw_kept | with_reducible apply State.writeHead_kept | dsimp only

theorem State.writeGroup_kept {o : State} {x0 : State} {x1 : Nat} {x2 : Word} (h : Kept o x0) :
    Kept o (State.writeGroup x0 x1 x2) := by
  unfold State.writeGroup
  repeat' first
    | with_reducible assumption | extract_lets | intro _ | with_reducible apply State.writePlain_kept | with_reducible apply State.devFault_kept
    | with_reducible apply kept_ite | with_reducible apply keptF_self | split | dsimp only [kept_mk]

theorem State.writeAt_kept {o : State} {x0 : State} {x1 : Nat} {x2 : Word} (h : Kept o x0) :
    Kept o (State.writeAt x0 x1 x2) := by
  unfold State.writeAt
  repeat' first
    | with_reducible assumption | extract_lets | intro _ | with_reducible apply State.clearFault_kept
    | refine State.writeActs_kept ?_ _ (by assumption) | with_reducible apply State.writePool_kept | with_reducible apply State.writeGirthSet_kept
    | with_reducible apply State.writePurse_kept | with_reducible apply State.writeRein_kept | with_reducible apply State.writeGroup_kept
    | with_reducible apply State.writePstream_kept | with_reducible apply State.writePlain_kept | with_reducible apply kept_ite
    | with_reducible apply keptF_self | split | dsimp only [kept_mk]

theorem State.registerWrite_kept {o : State} {x0 : State} {x1 : Nat} {x2 : Nat} {x3 : Word} (h : Kept o x0) :
    Kept o (State.registerWrite x0 x1 x2 x3) := by
  unfold State.registerWrite
  repeat' first
    | with_reducible assumption | extract_lets | intro _ | with_reducible apply State.devFault_kept | with_reducible apply State.writeAt_kept
    | with_reducible apply State.hostViolation_kept | with_reducible apply State.memViolation_kept | with_reducible apply kept_ite
    | with_reducible apply keptF_self | split | dsimp only [kept_mk]

theorem State.lineArrives_kept {o : State} {x0 : State} {x1 : Nat} {x2 : Nat} {x3 : LineOutcome} {x4 : List Byte} (h : Kept o x0) :
    Kept o (State.lineArrives x0 x1 x2 x3 x4) := by
  unfold State.lineArrives
  repeat' first
    | with_reducible assumption | extract_lets | intro _ | with_reducible apply State.streamStep_kept | with_reducible apply State.run_kept
    | with_reducible apply State.failCore_kept | with_reducible apply kept_ite | with_reducible apply keptF_self | split | dsimp only [kept_mk]

theorem State.laceCreditBack_kept {o : State} {x0 : State} {x1 : Nat} {x2 : Nat} (h : Kept o x0) :
    Kept o (State.laceCreditBack x0 x1 x2) := by
  unfold State.laceCreditBack
  repeat' first
    | with_reducible assumption | extract_lets | intro _ | with_reducible apply State.modLace_kept | with_reducible apply State.slotFree_kept
    | with_reducible apply State.tick_kept | with_reducible apply State.setFld_kept | with_reducible apply State.grant_kept
    | with_reducible apply State.run_kept | with_reducible apply State.laceProcess_kept | with_reducible apply kept_ite
    | with_reducible apply keptF_self | split | dsimp only [kept_mk]

theorem State.ceWriteback_kept {o : State} {x0 : State} {x1 : Nat} {x2 : Nat} {x3 : LineOutcome} (h : Kept o x0) :
    Kept o (State.ceWriteback x0 x1 x2 x3) := by
  unfold State.ceWriteback
  repeat' first
    | with_reducible assumption | extract_lets | intro _ | with_reducible exact kept_of_snd ‹_› ‹_› | with_reducible apply State.wordLost_kept
    | with_reducible apply State.retirePlain_kept | with_reducible apply State.putWord_kept | with_reducible apply State.sramCheck_kept
    | with_reducible apply State.wordCorrected_kept | with_reducible apply kept_each | with_reducible apply kept_ite
    | with_reducible apply kept_ite_snd2 | with_reducible apply kept_ite_snd | with_reducible apply keptF_self | with_reducible apply keptF_put
    | with_reducible apply keptF_sput | with_reducible apply keptF_sputs | with_reducible apply keptF_zero | with_reducible apply keptF_nil
    | with_reducible apply keptF_filter | with_reducible apply kept_foldl_snd | with_reducible apply kept_foldl
    | with_reducible refine kept_of_snd ‹_› ?_ | split | dsimp only [kept_mk] | dsimp +zetaDelta only [kept_mk]

theorem State.hubWriteback_kept {o : State} {x0 : State} {x1 : Nat} {x2 : LineOutcome} (h : Kept o x0) :
    Kept o (State.hubWriteback x0 x1 x2) := by
  unfold State.hubWriteback
  repeat' first
    | with_reducible assumption | extract_lets | intro _ | with_reducible apply State.hubWrite_kept | with_reducible apply State.hubRead_kept
    | with_reducible apply State.hubFound_kept | with_reducible apply kept_ite | with_reducible apply keptF_self | split | dsimp only [kept_mk]

theorem State.laceLands_kept {o : State} {x0 : State} {x1 : Nat} {x2 : Nat} (h : Kept o x0) :
    Kept o (State.laceLands x0 x1 x2) := by
  unfold State.laceLands
  repeat' first
    | with_reducible assumption | extract_lets | intro _ | with_reducible apply State.modLace_kept | with_reducible apply State.run_kept
    | with_reducible apply State.laceProcess_kept | with_reducible apply kept_ite | with_reducible apply keptF_self | split | dsimp only [kept_mk]

theorem State.mergeRetire_kept {o : State} {x0 : State} {x1 : Nat} {x2 : Nat} {x3 : LineOutcome} (h : Kept o x0) :
    Kept o (State.mergeRetire x0 x1 x2 x3) := by
  unfold State.mergeRetire
  repeat' first
    | with_reducible assumption | extract_lets | intro _ | with_reducible apply State.retireEntry_kept | with_reducible apply State.wordRead_kept
    | with_reducible apply kept_ite | with_reducible apply keptF_self | split | dsimp only [kept_mk]

theorem State.badLba_kept {o : State} {x0 : State} {x1 : NHdr} (h : Kept o x0) :
    Kept o (State.badLba x0 x1) := by
  unfold State.badLba
  repeat' first
    | with_reducible assumption | with_reducible apply State.complete_kept | dsimp only

theorem State.modCtrl_kept {o : State} {x0 : State} {x1 : Nat} {x2 : Ctrl → Ctrl} (h : Kept o x0) :
    Kept o (State.modCtrl x0 x1 x2) := by
  unfold State.modCtrl
  repeat' first
    | with_reducible assumption | extract_lets | intro _ | with_reducible apply kept_ite | with_reducible apply keptF_self | split
    | dsimp only [kept_mk]

theorem State.doorLevel_kept {o : State} {x0 : State} {x1 : Nat} (h : Kept o x0) :
    Kept o (State.doorLevel x0 x1) := by
  unfold State.doorLevel
  repeat' first
    | with_reducible assumption | extract_lets | intro _ | with_reducible apply State.fire_kept | with_reducible apply State.unfire_kept
    | with_reducible apply kept_ite | with_reducible apply keptF_self | split | dsimp only [kept_mk]

theorem State.doorbell_kept {o : State} {x0 : State} {x1 : Nat} {x2 : Bool} {x3 : Nat} {x4 : Nat} (h : Kept o x0) :
    Kept o (State.doorbell x0 x1 x2 x3 x4) := by
  unfold State.doorbell
  repeat' first
    | with_reducible assumption | extract_lets | intro _ | with_reducible apply State.modCtrl_kept | with_reducible apply State.doorLevel_kept
    | with_reducible apply kept_ite | with_reducible apply keptF_self | split | dsimp only [kept_mk]

theorem State.unread_kept {o : State} {x0 : State} {x1 : NHdr} (h : Kept o x0) :
    Kept o (State.unread x0 x1) := by
  unfold State.unread
  repeat' first
    | with_reducible assumption | with_reducible apply State.complete_kept | dsimp only

theorem State.chargeHost_kept {o : State} {x0 : State} {x1 : NHdr} {x2 : Nat} {x3 : Nat} (h : Kept o x0) :
    Kept o (State.chargeHost x0 x1 x2 x3) := by
  unfold State.chargeHost
  repeat' first
    | with_reducible assumption | with_reducible apply State.charge_kept | dsimp only

theorem State.badNs_kept {o : State} {x0 : State} {x1 : NHdr} (h : Kept o x0) :
    Kept o (State.badNs x0 x1) := by
  unfold State.badNs
  repeat' first
    | with_reducible assumption | with_reducible apply State.complete_kept | dsimp only

theorem State.busyNs_kept {o : State} {x0 : State} {x1 : NHdr} (h : Kept o x0) :
    Kept o (State.busyNs x0 x1) := by
  unfold State.busyNs
  repeat' first
    | with_reducible assumption | with_reducible apply State.vendor_kept | dsimp only

theorem State.writeFault_kept {o : State} {x0 : State} {x1 : NHdr} (h : Kept o x0) :
    Kept o (State.writeFault x0 x1) := by
  unfold State.writeFault
  repeat' first
    | with_reducible assumption | with_reducible apply State.complete_kept | dsimp only

theorem State.specific_kept {o : State} {x0 : State} {x1 : NHdr} {x2 : Nat} {x3 : Nat} (h : Kept o x0) :
    Kept o (State.specific x0 x1 x2 x3) := by
  unfold State.specific
  repeat' first
    | with_reducible assumption | with_reducible apply State.complete_kept | dsimp only

theorem State.fetchFrom_kept {o : State} {x0 : State} {x1 : NHdr} (h : Kept o x0) :
    Kept o (State.fetchFrom x0 x1) := by
  unfold State.fetchFrom
  repeat' first
    | with_reducible assumption | with_reducible apply State.modCtrl_kept | with_reducible apply State.doorLevel_kept | dsimp only

theorem State.protectedNs_kept {o : State} {x0 : State} {x1 : NHdr} (h : Kept o x0) :
    Kept o (State.protectedNs x0 x1) := by
  unfold State.protectedNs
  repeat' first
    | with_reducible assumption | with_reducible apply State.complete_kept | dsimp only

theorem State.badOpcode_kept {o : State} {x0 : State} {x1 : NHdr} (h : Kept o x0) :
    Kept o (State.badOpcode x0 x1) := by
  unfold State.badOpcode
  repeat' first
    | with_reducible assumption | with_reducible apply State.complete_kept | dsimp only

theorem State.sanitizeBusy_kept {o : State} {x0 : State} {x1 : NHdr} (h : Kept o x0) :
    Kept o (State.sanitizeBusy x0 x1) := by
  unfold State.sanitizeBusy
  repeat' first
    | with_reducible assumption | with_reducible apply State.complete_kept | dsimp only

theorem State.recordLost_kept {o : State} {x0 : State} {x1 : Nat} {x2 : Nat} {x3 : Nat} {x4 : Nat} (h : Kept o x0) :
    Kept o (State.recordLost x0 x1 x2 x3 x4) := by
  unfold State.recordLost
  repeat' first
    | with_reducible assumption | extract_lets | intro _ | with_reducible apply kept_ite | with_reducible apply keptF_self | split
    | dsimp only [kept_mk]

theorem State.enterPs_kept {o : State} {x0 : State} {x1 : Nat} (h : Kept o x0) :
    Kept o (State.enterPs x0 x1) := by
  unfold State.enterPs
  repeat' first
    | with_reducible assumption | extract_lets | intro _ | with_reducible apply kept_ite | with_reducible apply keptF_self | split
    | dsimp only [kept_mk]

theorem State.getFeatures_kept {o : State} {x0 : State} {x1 : NHdr} {x2 : Nat} (h : Kept o x0) :
    Kept o (State.getFeatures x0 x1 x2) := by
  unfold State.getFeatures
  repeat' first
    | with_reducible assumption | extract_lets | intro _ | with_reducible apply State.badField_kept | with_reducible apply State.ok_kept
    | with_reducible apply kept_ite | with_reducible apply keptF_self | split | dsimp only [kept_mk]

theorem State.takeLost_kept {o : State} {x0 : State} {x1 : Nat} {x2 : Nat} (h : Kept o x0) :
    Kept o (State.takeLost x0 x1 x2) := by
  unfold State.takeLost
  repeat' first
    | with_reducible assumption | extract_lets | intro _ | with_reducible apply kept_ite | with_reducible apply keptF_self | split
    | dsimp only [kept_mk]

theorem State.deleteQueue_kept {o : State} {x0 : State} {x1 : NHdr} {x2 : Bool} {x3 : Nat} (h : Kept o x0) :
    Kept o (State.deleteQueue x0 x1 x2 x3) := by
  unfold State.deleteQueue
  repeat' first
    | with_reducible assumption | extract_lets | intro _ | with_reducible apply State.specific_kept | with_reducible apply State.modCtrl_kept
    | with_reducible apply State.doorLevel_kept | with_reducible apply State.ok_kept | with_reducible apply kept_ite | with_reducible apply keptF_self
    | split | dsimp only [kept_mk]

theorem State.setPower_kept {o : State} {x0 : State} {x1 : NHdr} {x2 : Nat} (h : Kept o x0) :
    Kept o (State.setPower x0 x1 x2) := by
  unfold State.setPower
  repeat' first
    | with_reducible assumption | extract_lets | intro _ | with_reducible apply State.badField_kept | with_reducible apply State.setShadow_kept
    | with_reducible apply State.ok_kept | with_reducible apply State.enterPs_kept | with_reducible apply kept_ite | with_reducible apply keptF_self
    | split | dsimp only [kept_mk]

theorem State.createQueue_kept {o : State} {x0 : State} {x1 : NHdr} {x2 : Bool} {x3 : Nat} {x4 : Nat} {x5 : Nat} (h : Kept o x0) :
    Kept o (State.createQueue x0 x1 x2 x3 x4 x5) := by
  unfold State.createQueue
  repeat' first
    | with_reducible assumption | extract_lets | intro _ | with_reducible apply State.specific_kept | with_reducible apply State.ok_kept
    | with_reducible apply State.modCtrl_kept | with_reducible apply kept_ite | with_reducible apply keptF_self | split | dsimp only [kept_mk]

theorem State.dropLost_kept {o : State} {x0 : State} {x1 : LostEntry → Bool} (h : Kept o x0) :
    Kept o (State.dropLost x0 x1) := by
  unfold State.dropLost
  repeat' first
    | with_reducible assumption | extract_lets | intro _ | with_reducible apply kept_ite | with_reducible apply keptF_self | split
    | dsimp only [kept_mk]

theorem State.getLog_kept {o : State} {x0 : State} {x1 : NHdr} {x2 : Nat} {x3 : Bool} {x4 : Nat} {x5 : Nat} (h : Kept o x0) :
    Kept o (State.getLog x0 x1 x2 x3 x4 x5) := by
  unfold State.getLog
  repeat' first
    | with_reducible assumption | extract_lets | intro _ | with_reducible exact kept_of_snd ‹_› ‹_› | with_reducible apply State.specific_kept
    | with_reducible apply State.badField_kept | with_reducible apply State.ok_kept | with_reducible apply State.fresh_kept
    | with_reducible apply State.takeLost_kept | with_reducible apply kept_each | with_reducible apply kept_ite | with_reducible apply kept_ite_snd2
    | with_reducible apply kept_ite_snd | with_reducible apply keptF_self | with_reducible apply keptF_put | with_reducible apply keptF_sput
    | with_reducible apply keptF_sputs | with_reducible apply keptF_zero | with_reducible apply keptF_nil | with_reducible apply keptF_filter
    | with_reducible apply kept_foldl_snd | with_reducible apply kept_foldl | with_reducible refine kept_of_snd ‹_› ?_ | split | dsimp only [kept_mk]
    | dsimp +zetaDelta only [kept_mk]

theorem State.selfTest_kept {o : State} {x0 : State} {x1 : NHdr} {x2 : Nat} (h : Kept o x0) :
    Kept o (State.selfTest x0 x1 x2) := by
  unfold State.selfTest
  repeat' first
    | with_reducible assumption | extract_lets | intro _ | with_reducible apply State.ok_kept | with_reducible apply State.badField_kept
    | with_reducible apply kept_ite | with_reducible apply keptF_self | split | dsimp only [kept_mk]

theorem State.setStamp_kept {o : State} {x0 : State} {x1 : NHdr} {x2 : Nat} (h : Kept o x0) :
    Kept o (State.setStamp x0 x1 x2) := by
  unfold State.setStamp
  repeat' first
    | with_reducible assumption | extract_lets | intro _ | with_reducible apply State.ok_kept | with_reducible apply kept_ite
    | with_reducible apply keptF_self | split | dsimp only [kept_mk]

theorem State.setFeatures_kept {o : State} {x0 : State} {x1 : NHdr} {x2 : Nat} {x3 : BitVec 32} (h : Kept o x0) :
    Kept o (State.setFeatures x0 x1 x2 x3) := by
  unfold State.setFeatures
  repeat' first
    | with_reducible assumption | extract_lets | intro _ | with_reducible apply State.badField_kept | with_reducible apply State.modCtrl_kept
    | with_reducible apply State.ok_kept | with_reducible apply kept_ite | with_reducible apply keptF_self | split | dsimp only [kept_mk]

theorem State.identify_kept {o : State} {x0 : State} {x1 : NHdr} {x2 : Nat} {x3 : BitVec 32} (h : Kept o x0) :
    Kept o (State.identify x0 x1 x2 x3) := by
  unfold State.identify
  repeat' first
    | with_reducible assumption | extract_lets | intro _ | with_reducible apply State.ok_kept | with_reducible apply State.badNs_kept
    | with_reducible apply State.badField_kept | with_reducible apply kept_ite | with_reducible apply keptF_self | split | dsimp only [kept_mk]

theorem State.eventRequest_kept {o : State} {x0 : State} {x1 : NHdr} (h : Kept o x0) :
    Kept o (State.eventRequest x0 x1) := by
  unfold State.eventRequest
  repeat' first
    | with_reducible assumption | extract_lets | intro _ | with_reducible apply State.specific_kept | with_reducible apply State.modCtrl_kept
    | with_reducible apply kept_ite | with_reducible apply keptF_self | split | dsimp only [kept_mk]

theorem State.evictZone_kept {o : State} {x0 : State} {x1 : Nat} {x2 : Nat} (h : Kept o x0) :
    Kept o (State.evictZone x0 x1 x2) := by
  unfold State.evictZone
  repeat' first
    | with_reducible assumption | extract_lets | intro _ | with_reducible apply State.evict_kept | with_reducible apply kept_ite
    | with_reducible apply keptF_self | split | dsimp only [kept_mk]

theorem State.evictRun_kept {o : State} {x0 : State} {x1 : Attachment} (h : Kept o x0) :
    Kept o (State.evictRun x0 x1) := by
  unfold State.evictRun
  repeat' first
    | with_reducible assumption | extract_lets | intro _ | with_reducible exact kept_of_snd ‹_› ‹_› | with_reducible apply State.evict_kept
    | with_reducible apply kept_each | with_reducible apply kept_ite | with_reducible apply kept_ite_snd2 | with_reducible apply kept_ite_snd
    | with_reducible apply keptF_self | with_reducible apply keptF_put | with_reducible apply keptF_sput | with_reducible apply keptF_sputs
    | with_reducible apply keptF_zero | with_reducible apply keptF_nil | with_reducible apply keptF_filter | with_reducible apply kept_foldl_snd
    | with_reducible apply kept_foldl | with_reducible refine kept_of_snd ‹_› ?_ | split | dsimp only [kept_mk] | dsimp +zetaDelta only [kept_mk]

theorem State.forget_kept {o : State} {x0 : State} {x1 : Nat} (h : Kept o x0) :
    Kept o (State.forget x0 x1) := by
  unfold State.forget
  repeat' first
    | with_reducible assumption | extract_lets | intro _ | with_reducible exact kept_of_snd ‹_› ‹_› | with_reducible apply State.dropLost_kept
    | with_reducible apply kept_each | with_reducible apply kept_ite | with_reducible apply kept_ite_snd2 | with_reducible apply kept_ite_snd
    | with_reducible apply keptF_self | with_reducible apply keptF_put | with_reducible apply keptF_sput | with_reducible apply keptF_sputs
    | with_reducible apply keptF_zero | with_reducible apply keptF_nil | with_reducible apply keptF_filter | with_reducible apply kept_foldl_snd
    | with_reducible apply kept_foldl | with_reducible refine kept_of_snd ‹_› ?_ | split | dsimp only [kept_mk] | dsimp +zetaDelta only [kept_mk]

theorem State.wipeNs_kept {o : State} {x0 : State} {x1 : Nat} (h : Kept o x0) :
    Kept o (State.wipeNs x0 x1) := by
  unfold State.wipeNs
  repeat' first
    | with_reducible assumption | extract_lets | intro _ | with_reducible exact kept_of_snd ‹_› ‹_› | with_reducible apply State.forget_kept
    | with_reducible apply State.zoneReset_kept | with_reducible apply State.dropUnit_kept | with_reducible apply State.modNs_kept
    | with_reducible apply kept_each | with_reducible apply kept_ite | with_reducible apply kept_ite_snd2 | with_reducible apply kept_ite_snd
    | with_reducible apply keptF_self | with_reducible apply keptF_put | with_reducible apply keptF_sput | with_reducible apply keptF_sputs
    | with_reducible apply keptF_zero | with_reducible apply keptF_nil | with_reducible apply keptF_filter | with_reducible apply kept_foldl_snd
    | with_reducible apply kept_foldl | with_reducible refine kept_of_snd ‹_› ?_ | split | dsimp only [kept_mk] | dsimp +zetaDelta only [kept_mk]

theorem State.newKey_kept {o : State} {x0 : Nat} {x1 : State} (h : Kept o x1) :
    Kept o (State.newKey x0 x1) := by
  unfold State.newKey
  repeat' first
    | with_reducible assumption | with_reducible apply State.modNs_kept | dsimp only

theorem State.format_kept {o : State} {x0 : State} {x1 : NHdr} {x2 : BitVec 32} {x3 : Bool} (h : Kept o x0) :
    Kept o (State.format x0 x1 x2 x3) := by
  unfold State.format
  repeat' first
    | with_reducible assumption | extract_lets | intro _ | with_reducible exact kept_of_snd ‹_› ‹_› | with_reducible apply State.wipeNs_kept
    | with_reducible apply State.newKey_kept | with_reducible apply State.busyNs_kept | with_reducible apply State.ok_kept
    | with_reducible apply State.writesDone_kept | with_reducible apply State.badNs_kept | with_reducible apply State.specific_kept
    | with_reducible apply kept_each | with_reducible apply kept_ite | with_reducible apply kept_ite_snd2 | with_reducible apply kept_ite_snd
    | with_reducible apply keptF_self | with_reducible apply keptF_put | with_reducible apply keptF_sput | with_reducible apply keptF_sputs
    | with_reducible apply keptF_zero | with_reducible apply keptF_nil | with_reducible apply keptF_filter | with_reducible apply kept_foldl_snd
    | with_reducible apply kept_foldl | with_reducible refine kept_of_snd ‹_› ?_ | split | dsimp only [kept_mk] | dsimp +zetaDelta only [kept_mk]

theorem State.emptyPools_kept {o : State} {x0 : State} (h : Kept o x0) :
    Kept o (State.emptyPools x0) := by
  unfold State.emptyPools
  repeat' first
    | with_reducible assumption | extract_lets | intro _ | with_reducible apply State.tick_kept | with_reducible apply kept_ite
    | with_reducible apply keptF_self | split | dsimp only [kept_mk]

theorem State.zeroMem_kept {o : State} {x0 : Nspace} {x1 : State} (h : Kept o x1) :
    Kept o (State.zeroMem x0 x1) := by
  unfold State.zeroMem
  repeat' first
    | with_reducible assumption | extract_lets | intro _ | with_reducible exact kept_of_snd ‹_› ‹_› | with_reducible apply kept_each
    | with_reducible apply kept_ite | with_reducible apply kept_ite_snd2 | with_reducible apply kept_ite_snd | with_reducible apply keptF_self
    | with_reducible apply keptF_put | with_reducible apply keptF_sput | with_reducible apply keptF_sputs | with_reducible apply keptF_zero
    | with_reducible apply keptF_nil | with_reducible apply keptF_filter | with_reducible apply kept_foldl_snd | with_reducible apply kept_foldl
    | with_reducible refine kept_of_snd ‹_› ?_ | split | dsimp only [kept_mk] | dsimp +zetaDelta only [kept_mk]

theorem State.attachWeight_kept {o : State} {x0 : State} {x1 : NHdr} {x2 : Nat} {x3 : Nat} {x4 : Bool} (h : Kept o x0) :
    Kept o (State.attachWeight x0 x1 x2 x3 x4) := by
  unfold State.attachWeight
  repeat' first
    | with_reducible assumption | extract_lets | intro _ | with_reducible apply State.badNs_kept | with_reducible apply State.badField_kept
    | with_reducible apply State.ok_kept | with_reducible apply kept_ite | with_reducible apply keptF_self | split | dsimp only [kept_mk]

theorem State.attachNs_kept {o : State} {x0 : State} {x1 : NHdr} {x2 : Nat} {x3 : Bool} {x4 : List Nat} (h : Kept o x0) :
    Kept o (State.attachNs x0 x1 x2 x3 x4) := by
  unfold State.attachNs
  repeat' first
    | with_reducible assumption | extract_lets | intro _ | with_reducible apply State.badNs_kept | with_reducible apply State.specific_kept
    | with_reducible apply State.ok_kept | with_reducible apply State.setNs_kept | with_reducible apply kept_ite | with_reducible apply keptF_self
    | split | dsimp only [kept_mk]

theorem State.detachWeight_kept {o : State} {x0 : State} {x1 : NHdr} {x2 : Nat} {x3 : Bool} (h : Kept o x0) :
    Kept o (State.detachWeight x0 x1 x2 x3) := by
  unfold State.detachWeight
  repeat' first
    | with_reducible assumption | extract_lets | intro _ | with_reducible apply State.badNs_kept | with_reducible apply State.badField_kept
    | with_reducible apply State.busyNs_kept | with_reducible apply State.evictRun_kept | with_reducible apply State.ok_kept
    | with_reducible apply kept_ite | with_reducible apply keptF_self | split | dsimp only [kept_mk]

theorem State.sanitizeDone_kept {o : State} {x0 : State} (h : Kept o x0) :
    Kept o (State.sanitizeDone x0) := by
  unfold State.sanitizeDone
  repeat' first
    | with_reducible assumption | extract_lets | intro _ | with_reducible apply kept_ite | with_reducible apply keptF_self | split
    | dsimp only [kept_mk]

theorem State.dropPrograms_kept {o : State} {x0 : State} {x1 : Nat} (h : Kept o x0) :
    Kept o (State.dropPrograms x0 x1) := by
  unfold State.dropPrograms
  repeat' first
    | with_reducible assumption | extract_lets | intro _ | with_reducible exact kept_of_snd ‹_› ‹_› | with_reducible apply State.dropPlace_kept
    | with_reducible apply kept_each | with_reducible apply kept_ite | with_reducible apply kept_ite_snd2 | with_reducible apply kept_ite_snd
    | with_reducible apply keptF_self | with_reducible apply keptF_put | with_reducible apply keptF_sput | with_reducible apply keptF_sputs
    | with_reducible apply keptF_zero | with_reducible apply keptF_nil | with_reducible apply keptF_filter | with_reducible apply kept_foldl_snd
    | with_reducible apply kept_foldl | with_reducible refine kept_of_snd ‹_› ?_ | split | dsimp only [kept_mk] | dsimp +zetaDelta only [kept_mk]

theorem State.orphanErases_kept {o : State} {x0 : State} {x1 : Nat} (h : Kept o x0) :
    Kept o (State.orphanErases x0 x1) := by
  unfold State.orphanErases
  repeat' first
    | with_reducible assumption | extract_lets | intro _ | with_reducible exact kept_of_snd ‹_› ‹_› | with_reducible apply State.queueErase_kept
    | with_reducible apply kept_each | with_reducible apply kept_ite | with_reducible apply kept_ite_snd2 | with_reducible apply kept_ite_snd
    | with_reducible apply keptF_self | with_reducible apply keptF_put | with_reducible apply keptF_sput | with_reducible apply keptF_sputs
    | with_reducible apply keptF_zero | with_reducible apply keptF_nil | with_reducible apply keptF_filter | with_reducible apply kept_foldl_snd
    | with_reducible apply kept_foldl | with_reducible refine kept_of_snd ‹_› ?_ | split | dsimp only [kept_mk] | dsimp +zetaDelta only [kept_mk]

theorem State.deleteNs_kept {o : State} {x0 : State} {x1 : NHdr} {x2 : Nat} (h : Kept o x0) :
    Kept o (State.deleteNs x0 x1 x2) := by
  unfold State.deleteNs
  repeat' first
    | with_reducible assumption | extract_lets | intro _ | with_reducible apply State.badNs_kept | with_reducible apply State.busyNs_kept
    | with_reducible apply State.dropPrograms_kept | with_reducible apply State.orphanErases_kept | with_reducible apply State.wipeNs_kept
    | with_reducible apply State.dropPlace_kept | with_reducible apply State.ok_kept | with_reducible apply State.writesDone_kept
    | with_reducible apply State.startErases_kept | with_reducible apply kept_ite | with_reducible apply keptF_self | split | dsimp only [kept_mk]

theorem State.createNs_kept {o : State} {x0 : State} {x1 : NHdr} {x2 : NsAsk} (h : Kept o x0) :
    Kept o (State.createNs x0 x1 x2) := by
  unfold State.createNs
  repeat' first
    | with_reducible assumption | extract_lets | intro _ | with_reducible apply State.badField_kept | with_reducible apply State.specific_kept
    | with_reducible apply State.ok_kept | with_reducible apply State.setNs_kept | with_reducible apply State.takePlace_kept
    | with_reducible apply kept_ite | with_reducible apply keptF_self | split | dsimp only [kept_mk]

theorem State.sanitizeAll_kept {o : State} {x0 : State} {x1 : NHdr} {x2 : Bool} (h : Kept o x0) :
    Kept o (State.sanitizeAll x0 x1 x2) := by
  unfold State.sanitizeAll
  repeat' first
    | with_reducible assumption | extract_lets | intro _ | with_reducible exact kept_of_snd ‹_› ‹_› | with_reducible apply State.badField_kept
    | with_reducible apply State.busyNs_kept | with_reducible apply State.wipeNs_kept | with_reducible apply State.zeroMem_kept
    | with_reducible apply State.evict_kept | with_reducible apply State.emptyPools_kept | with_reducible apply State.ok_kept
    | with_reducible apply State.writesDone_kept | with_reducible apply State.startErases_kept | with_reducible apply State.queueErase_kept
    | with_reducible apply kept_each | with_reducible apply kept_ite | with_reducible apply kept_ite_snd2 | with_reducible apply kept_ite_snd
    | with_reducible apply keptF_self | with_reducible apply keptF_put | with_reducible apply keptF_sput | with_reducible apply keptF_sputs
    | with_reducible apply keptF_zero | with_reducible apply keptF_nil | with_reducible apply keptF_filter | with_reducible apply kept_foldl_snd
    | with_reducible apply kept_foldl | with_reducible refine kept_of_snd ‹_› ?_ | split | dsimp only [kept_mk] | dsimp +zetaDelta only [kept_mk]

theorem State.setWindow_kept {o : State} {x0 : State} {x1 : NHdr} {x2 : HostWin} {x3 : Bool} {x4 : Bool} (h : Kept o x0) :
    Kept o (State.setWindow x0 x1 x2 x3 x4) := by
  unfold State.setWindow
  repeat' first
    | with_reducible assumption | extract_lets | intro _ | with_reducible apply State.badField_kept | with_reducible apply kept_ite
    | with_reducible apply keptF_self | split | dsimp only [kept_mk]

theorem State.mediaError_kept {o : State} {x0 : State} (h : Kept o x0) :
    Kept o (State.mediaError x0) := by
  unfold State.mediaError
  repeat' first
    | with_reducible assumption | extract_lets | intro _ | with_reducible apply kept_ite | with_reducible apply keptF_self | split
    | dsimp only [kept_mk]

theorem State.reading_kept {o : State} {x0 : State} {x1 : NHdr} {x2 : Nat} {x3 : Nat} {x4 : Nat} {x5 : List Byte → State → State} (hf5 : ∀ y0 y1, Kept o y1 → Kept o (x5 y0 y1)) (h : Kept o x0) :
    Kept o (State.reading x0 x1 x2 x3 x4 x5) := by
  unfold State.reading
  repeat' first
    | with_reducible assumption | extract_lets | intro _ | with_reducible apply hf5 | with_reducible apply State.badNs_kept
    | with_reducible apply State.badOpcode_kept | with_reducible apply State.badField_kept | with_reducible apply State.badLba_kept
    | with_reducible apply State.chargeHost_kept | with_reducible apply State.useMaps_kept | with_reducible apply State.eraseReads_kept
    | with_reducible apply State.unread_kept | with_reducible apply State.mediaError_kept | with_reducible apply State.vendor_kept
    | with_reducible apply kept_ite | with_reducible apply keptF_self | split | dsimp only [kept_mk]

theorem State.doVerify_kept {o : State} {x0 : State} {x1 : NHdr} {x2 : Nat} {x3 : Nat} {x4 : Nat} (h : Kept o x0) :
    Kept o (State.doVerify x0 x1 x2 x3 x4) := by
  unfold State.doVerify
  repeat' first
    | with_reducible assumption | extract_lets | intro _ | with_reducible apply State.reading_kept | with_reducible apply State.ok_kept
    | with_reducible apply kept_ite | with_reducible apply keptF_self | split | dsimp only [kept_mk]

theorem State.setZone_kept {o : State} {x0 : State} {x1 : Nat} {x2 : Nat} {x3 : Zone → Zone} (h : Kept o x0) :
    Kept o (State.setZone x0 x1 x2 x3) := by
  unfold State.setZone
  repeat' first
    | with_reducible assumption | with_reducible apply State.modNs_kept | dsimp only

theorem State.emptyZone_kept {o : State} {x0 : State} {x1 : Nat} {x2 : Nat} (h : Kept o x0) :
    Kept o (State.emptyZone x0 x1 x2) := by
  unfold State.emptyZone
  repeat' first
    | with_reducible assumption | extract_lets | intro _ | with_reducible exact kept_of_snd ‹_› ‹_› | with_reducible apply State.dropUnit_kept
    | with_reducible apply State.writesDone_kept | with_reducible apply State.zoneReset_kept | with_reducible apply State.evictZone_kept
    | with_reducible apply kept_each | with_reducible apply kept_ite | with_reducible apply kept_ite_snd2 | with_reducible apply kept_ite_snd
    | with_reducible apply keptF_self | with_reducible apply keptF_put | with_reducible apply keptF_sput | with_reducible apply keptF_sputs
    | with_reducible apply keptF_zero | with_reducible apply keptF_nil | with_reducible apply keptF_filter | with_reducible apply kept_foldl_snd
    | with_reducible apply kept_foldl | with_reducible refine kept_of_snd ‹_› ?_ | split | dsimp only [kept_mk] | dsimp +zetaDelta only [kept_mk]

theorem State.zoneSend_kept {o : State} {x0 : State} {x1 : NHdr} {x2 : Nat} {x3 : Nat} {x4 : ZoneAct} (h : Kept o x0) :
    Kept o (State.zoneSend x0 x1 x2 x3 x4) := by
  unfold State.zoneSend
  repeat' first
    | with_reducible assumption | extract_lets | intro _ | with_reducible apply State.badNs_kept | with_reducible apply State.specific_kept
    | with_reducible apply State.badOpcode_kept | with_reducible apply State.badLba_kept | with_reducible apply State.badField_kept
    | with_reducible apply State.vendor_kept | with_reducible apply State.ok_kept | with_reducible apply State.setZone_kept
    | with_reducible apply State.protectedNs_kept | with_reducible apply State.emptyZone_kept | with_reducible apply kept_ite
    | with_reducible apply keptF_self | split | dsimp only [kept_mk]

theorem State.doRead_kept {o : State} {x0 : State} {x1 : NHdr} {x2 : Nat} {x3 : Nat} {x4 : Nat} (h : Kept o x0) :
    Kept o (State.doRead x0 x1 x2 x3 x4) := by
  unfold State.doRead
  repeat' first
    | with_reducible assumption | extract_lets | intro _ | with_reducible apply State.reading_kept | with_reducible apply State.ok_kept
    | with_reducible apply kept_ite | with_reducible apply keptF_self | split | dsimp only [kept_mk]

theorem State.readToMerge_kept {o : State} {x0 : State} {x1 : NHdr} {x2 : Nat} {x3 : Nspace} {x4 : Nat} {x5 : Nat} (h : Kept o x0) :
    Kept o (State.readToMerge x0 x1 x2 x3 x4 x5) := by
  unfold State.readToMerge
  repeat' first
    | with_reducible assumption | extract_lets | intro _ | with_reducible apply State.chargeHost_kept | with_reducible apply State.useMaps_kept
    | with_reducible apply kept_ite | with_reducible apply keptF_self | split | dsimp only [kept_mk]

theorem State.zonePut_kept {o : State} {x0 : State} {x1 : NHdr} {x2 : Nat} {x3 : Nspace} {x4 : Nat} {x5 : Option Nat} {x6 : List Byte} (h : Kept o x0) :
    Kept o (State.zonePut x0 x1 x2 x3 x4 x5 x6) := by
  unfold State.zonePut
  repeat' first
    | with_reducible assumption | extract_lets | intro _ | with_reducible apply State.vendor_kept | with_reducible apply State.specific_kept
    | with_reducible apply State.badField_kept | with_reducible apply State.zoneWrite_kept | with_reducible apply State.evictZone_kept
    | with_reducible apply State.chargeHost_kept | with_reducible apply State.readToMerge_kept | with_reducible apply State.queueWrite_kept
    | with_reducible apply State.ok_kept | with_reducible apply kept_ite | with_reducible apply keptF_self | split | dsimp only [kept_mk]

theorem State.doAppend_kept {o : State} {x0 : State} {x1 : NHdr} {x2 : Nat} {x3 : Nat} {x4 : List Byte} (h : Kept o x0) :
    Kept o (State.doAppend x0 x1 x2 x3 x4) := by
  unfold State.doAppend
  repeat' first
    | with_reducible assumption | extract_lets | intro _ | with_reducible apply State.badNs_kept | with_reducible apply State.badOpcode_kept
    | with_reducible apply State.badField_kept | with_reducible apply State.badLba_kept | with_reducible apply State.protectedNs_kept
    | with_reducible apply State.zonePut_kept | with_reducible apply kept_ite | with_reducible apply keptF_self | split | dsimp only [kept_mk]

end Sys2Proof.Machine
end

