-- ==== Sys2Proof/Laws/Kept6.lean ====
section
/-! SUPPORT. Laws/Kept6.lean: one lemma per operation of the machine: it keeps what KeptBase names (part 6, in the order in which operations use
each other). -/

namespace Sys2Proof.Machine

open Sys2Proof

theorem State.dropRange_kept {o : State} {x0 : Nat} {x1 : Nat × Nat} {x2 : State} (h : Kept o x2) :
    Kept o (State.dropRange x0 x1 x2) := by
  unfold State.dropRange
  repeat' first
    | with_reducible assumption | extract_lets | intro _ | with_reducible exact kept_of_snd ‹_› ‹_› | with_reducible apply State.dropUnit_kept
    | with_reducible apply State.putUnit_kept | with_reducible apply State.modNs_kept | with_reducible apply kept_each | with_reducible apply kept_ite
    | with_reducible apply kept_ite_snd2 | with_reducible apply kept_ite_snd | with_reducible apply keptF_self | with_reducible apply keptF_put
    | with_reducible apply keptF_sput | with_reducible apply keptF_sputs | with_reducible apply keptF_zero | with_reducible apply keptF_nil
    | with_reducible apply keptF_filter | with_reducible apply kept_foldl_snd | with_reducible apply kept_foldl
    | with_reducible refine kept_of_snd ‹_› ?_ | split | dsimp only [kept_mk] | dsimp +zetaDelta only [kept_mk]

theorem State.doDeallocate_kept {o : State} {x0 : State} {x1 : NHdr} {x2 : Nat} {x3 : List (Nat × Nat)} (h : Kept o x0) :
    Kept o (State.doDeallocate x0 x1 x2 x3) := by
  unfold State.doDeallocate
  repeat' first
    | with_reducible assumption | extract_lets | intro _ | with_reducible exact kept_of_snd ‹_› ‹_› | with_reducible apply State.badNs_kept
    | with_reducible apply State.badOpcode_kept | with_reducible apply State.badField_kept | with_reducible apply State.badLba_kept
    | with_reducible apply State.protectedNs_kept | with_reducible apply State.ok_kept | with_reducible apply State.dropRange_kept
    | with_reducible apply kept_each | with_reducible apply kept_ite | with_reducible apply kept_ite_snd2 | with_reducible apply kept_ite_snd
    | with_reducible apply keptF_self | with_reducible apply keptF_put | with_reducible apply keptF_sput | with_reducible apply keptF_sputs
    | with_reducible apply keptF_zero | with_reducible apply keptF_nil | with_reducible apply keptF_filter | with_reducible apply kept_foldl_snd
    | with_reducible apply kept_foldl | with_reducible refine kept_of_snd ‹_› ?_ | split | dsimp only [kept_mk] | dsimp +zetaDelta only [kept_mk]

theorem State.zoneReceive_kept {o : State} {x0 : State} {x1 : NHdr} {x2 : Nat} {x3 : Nat} {x4 : Nat} (h : Kept o x0) :
    Kept o (State.zoneReceive x0 x1 x2 x3 x4) := by
  unfold State.zoneReceive
  repeat' first
    | with_reducible assumption | extract_lets | intro _ | with_reducible apply State.badNs_kept | with_reducible apply State.badOpcode_kept
    | with_reducible apply State.badLba_kept | with_reducible apply State.ok_kept | with_reducible apply kept_ite | with_reducible apply keptF_self
    | split | dsimp only [kept_mk]

theorem State.slm_kept {o : State} {x0 : State} {x1 : NHdr} {x2 : Nat} {x3 : Nat} {x4 : Nat} {x5 : Nat → State} (hf5 : ∀ y0, Kept o (x5 y0)) (h : Kept o x0) :
    Kept o (State.slm x0 x1 x2 x3 x4 x5) := by
  unfold State.slm
  repeat' first
    | with_reducible assumption | extract_lets | intro _ | with_reducible apply hf5 | with_reducible apply State.badNs_kept
    | with_reducible apply State.badOpcode_kept | with_reducible apply State.badField_kept | with_reducible apply kept_ite
    | with_reducible apply keptF_self | split | dsimp only [kept_mk]

theorem State.memRead_kept {o : State} {x0 : State} {x1 : NHdr} {x2 : Nat} {x3 : Nat} {x4 : Nat} (h : Kept o x0) :
    Kept o (State.memRead x0 x1 x2 x3 x4) := by
  unfold State.memRead
  repeat' first
    | with_reducible assumption | extract_lets | intro _ | with_reducible apply State.slm_kept | with_reducible apply State.chargeHost_kept
    | with_reducible apply State.ok_kept | with_reducible apply State.complete_kept | with_reducible apply kept_ite | with_reducible apply keptF_self
    | split | dsimp only [kept_mk]

theorem State.rangeSet_kept {o : State} {x0 : State} {x1 : NHdr} {x2 : Bool} {x3 : Nat} {x4 : List (BitVec 32 × Nat × Nat)} (h : Kept o x0) :
    Kept o (State.rangeSet x0 x1 x2 x3 x4) := by
  unfold State.rangeSet
  repeat' first
    | with_reducible assumption | extract_lets | intro _ | with_reducible apply State.badField_kept | with_reducible apply State.ok_kept
    | with_reducible apply kept_ite | with_reducible apply keptF_self | split | dsimp only [kept_mk]

theorem State.storeAt_kept {o : State} {x0 : State} {x1 : NHdr} {x2 : Nat} {x3 : Nspace} {x4 : Nat} {x5 : List Byte} (h : Kept o x0) :
    Kept o (State.storeAt x0 x1 x2 x3 x4 x5) := by
  unfold State.storeAt
  repeat' first
    | with_reducible assumption | with_reducible apply State.chargeHost_kept | with_reducible apply State.readToMerge_kept
    | with_reducible apply State.putUnits_kept | with_reducible apply State.setNs_kept | dsimp only

theorem State.doCompare_kept {o : State} {x0 : State} {x1 : NHdr} {x2 : Nat} {x3 : Nat} {x4 : List Byte} (h : Kept o x0) :
    Kept o (State.doCompare x0 x1 x2 x3 x4) := by
  unfold State.doCompare
  repeat' first
    | with_reducible assumption | extract_lets | intro _ | with_reducible apply State.badField_kept | with_reducible apply State.reading_kept
    | with_reducible apply State.ok_kept | with_reducible apply State.complete_kept | with_reducible apply kept_ite | with_reducible apply keptF_self
    | split | dsimp only [kept_mk]

theorem State.doWrite_kept {o : State} {x0 : State} {x1 : NHdr} {x2 : Nat} {x3 : Nat} {x4 : List Byte} (h : Kept o x0) :
    Kept o (State.doWrite x0 x1 x2 x3 x4) := by
  unfold State.doWrite
  repeat' first
    | with_reducible assumption | extract_lets | intro _ | with_reducible apply State.badNs_kept | with_reducible apply State.badOpcode_kept
    | with_reducible apply State.badField_kept | with_reducible apply State.badLba_kept | with_reducible apply State.protectedNs_kept
    | with_reducible apply State.zonePut_kept | with_reducible apply State.ok_kept | with_reducible apply State.storeAt_kept
    | with_reducible apply kept_ite | with_reducible apply keptF_self | split | dsimp only [kept_mk]

theorem State.doRewrite_kept {o : State} {x0 : State} {x1 : NHdr} {x2 : Nat} {x3 : Nat} {x4 : List Byte} {x5 : Bool} (h : Kept o x0) :
    Kept o (State.doRewrite x0 x1 x2 x3 x4 x5) := by
  unfold State.doRewrite
  repeat' first
    | with_reducible assumption | extract_lets | intro _ | with_reducible apply State.badNs_kept | with_reducible apply State.badField_kept
    | with_reducible apply State.badLba_kept | with_reducible apply State.protectedNs_kept | with_reducible apply State.chargeHouse_kept
    | with_reducible apply State.chargeHost_kept | with_reducible apply State.writeFault_kept | with_reducible apply State.putUnits_kept
    | with_reducible apply State.setNs_kept | with_reducible apply State.evictZone_kept | with_reducible apply State.ok_kept
    | with_reducible apply kept_ite | with_reducible apply keptF_self | split | dsimp only [kept_mk]

theorem State.closeDone_kept {o : State} {x0 : State} {x1 : Nat} (h : Kept o x0) :
    Kept o (State.closeDone x0 x1) := by
  unfold State.closeDone
  repeat' first
    | with_reducible assumption | extract_lets | intro _ | with_reducible exact kept_of_snd ‹_› ‹_› | with_reducible apply State.setReg_kept
    | with_reducible apply State.ok_kept | with_reducible apply kept_each | with_reducible apply kept_ite | with_reducible apply kept_ite_snd2
    | with_reducible apply kept_ite_snd | with_reducible apply keptF_self | with_reducible apply keptF_put | with_reducible apply keptF_sput
    | with_reducible apply keptF_sputs | with_reducible apply keptF_zero | with_reducible apply keptF_nil | with_reducible apply keptF_filter
    | with_reducible apply kept_foldl_snd | with_reducible apply kept_foldl | with_reducible refine kept_of_snd ‹_› ?_ | split | dsimp only [kept_mk]
    | dsimp +zetaDelta only [kept_mk]

theorem State.setWaiting_kept {o : State} {x0 : State} {x1 : Nat} {x2 : List Instr} (h : Kept o x0) :
    Kept o (State.setWaiting x0 x1 x2) := by
  unfold State.setWaiting
  repeat' first
    | with_reducible assumption | with_reducible apply State.setBit_kept | with_reducible apply State.modIdx_kept | dsimp only

theorem State.stageBytes_kept {o : State} {x0 : State} {x1 : Nat} {x2 : Nat} {x3 : List Byte} (h : Kept o x0) :
    Kept o (State.stageBytes x0 x1 x2 x3) := by
  unfold State.stageBytes
  repeat' first
    | with_reducible assumption | with_reducible apply State.modIdx_kept | dsimp only

theorem State.setNextLive_kept {o : State} {x0 : State} {x1 : Nat} {x2 : Nat} {x3 : Bool} (h : Kept o x0) :
    Kept o (State.setNextLive x0 x1 x2 x3) := by
  unfold State.setNextLive
  repeat' first
    | with_reducible assumption | extract_lets | intro _ | with_reducible exact kept_of_snd ‹_› ‹_› | with_reducible apply State.chargeHouse_kept
    | with_reducible apply kept_each | with_reducible apply kept_ite | with_reducible apply kept_ite_snd2 | with_reducible apply kept_ite_snd
    | with_reducible apply keptF_self | with_reducible apply keptF_put | with_reducible apply keptF_sput | with_reducible apply keptF_sputs
    | with_reducible apply keptF_zero | with_reducible apply keptF_nil | with_reducible apply keptF_filter | with_reducible apply kept_foldl_snd
    | with_reducible apply kept_foldl | with_reducible refine kept_of_snd ‹_› ?_ | split | dsimp only [kept_mk] | dsimp +zetaDelta only [kept_mk]

theorem State.stageRec_kept {o : State} {x0 : State} {x1 : Nat} {x2 : Nat} {x3 : List Byte} (h : Kept o x0) :
    Kept o (State.stageRec x0 x1 x2 x3) := by
  unfold State.stageRec
  repeat' first
    | with_reducible assumption | with_reducible apply State.stageBytes_kept | dsimp only

theorem State.stageOp_kept {o : State} {x0 : State} {x1 : Nat} {x2 : IndexOp} (h : Kept o x0) :
    ∀ r, (State.stageOp x0 x1 x2) = some r → Kept o r := by
  unfold State.stageOp
  repeat' first
    | with_reducible assumption | with_reducible exact opt_none | with_reducible refine opt_some ?_ | extract_lets | split | intro _
    | with_reducible apply State.chargeHouse_kept | with_reducible apply State.dramWrite_kept | with_reducible apply State.stageBytes_kept
    | with_reducible apply State.setNextLive_kept | with_reducible apply State.stageRec_kept | dsimp only

theorem State.stageOps_kept {o : State} {x0 : Nat} {x1 : Nat} {x2 : List IndexOp} {x3 : State} (h : Kept o x3) :
    Kept o (State.stageOps x0 x1 x2 x3).2 := by
  induction x2 generalizing x0 x1 x3 with
  | nil => simpa only [State.stageOps] using h
  | cons a r ih =>
    rw [State.stageOps]
    repeat' first
      | with_reducible assumption | with_reducible apply ih | extract_lets | intro _ | refine State.stageOp_kept ?_ _ (by assumption)
      | with_reducible apply kept_ite | with_reducible apply keptF_self | split | dsimp only [kept_mk]

theorem State.beginStaging_kept {o : State} {x0 : State} {x1 : Nat} (h : Kept o x0) :
    Kept o (State.beginStaging x0 x1) := by
  unfold State.beginStaging
  repeat' first
    | with_reducible assumption | extract_lets | intro _ | with_reducible exact kept_of_snd ‹_› ‹_› | with_reducible apply State.dramWrite_kept
    | with_reducible apply State.setBit_kept | with_reducible apply State.chargeHouse_kept | with_reducible apply kept_each
    | with_reducible apply kept_ite | with_reducible apply kept_ite_snd2 | with_reducible apply kept_ite_snd | with_reducible apply keptF_self
    | with_reducible apply keptF_put | with_reducible apply keptF_sput | with_reducible apply keptF_sputs | with_reducible apply keptF_zero
    | with_reducible apply keptF_nil | with_reducible apply keptF_filter | with_reducible apply kept_foldl_snd | with_reducible apply kept_foldl
    | with_reducible refine kept_of_snd ‹_› ?_ | split | dsimp only [kept_mk] | dsimp +zetaDelta only [kept_mk]

theorem State.doUpdate_kept {o : State} {x0 : State} {x1 : NHdr} {x2 : Nat} {x3 : List IndexOp} (h : Kept o x0) :
    Kept o (State.doUpdate x0 x1 x2 x3) := by
  unfold State.doUpdate
  repeat' first
    | with_reducible assumption | extract_lets | intro _ | with_reducible apply State.stageOps_kept | with_reducible apply State.beginStaging_kept
    | with_reducible apply State.ok_kept | with_reducible apply State.vendor_kept | with_reducible apply State.raise_kept
    | with_reducible apply kept_ite | with_reducible apply keptF_self | split | dsimp only [kept_mk]

theorem State.writeStaged_kept {o : State} {x0 : State} {x1 : NHdr} {x2 : Nat} {x3 : Idx} (h : Kept o x0) :
    Kept o (State.writeStaged x0 x1 x2 x3) := by
  unfold State.writeStaged
  repeat' first
    | with_reducible assumption | extract_lets | intro _ | with_reducible exact kept_of_snd ‹_› ‹_› | with_reducible apply State.setNs_kept
    | with_reducible apply State.chargeHost_kept | with_reducible apply State.putUnit_kept | with_reducible apply kept_each
    | with_reducible apply kept_ite | with_reducible apply kept_ite_snd2 | with_reducible apply kept_ite_snd | with_reducible apply keptF_self
    | with_reducible apply keptF_put | with_reducible apply keptF_sput | with_reducible apply keptF_sputs | with_reducible apply keptF_zero
    | with_reducible apply keptF_nil | with_reducible apply keptF_filter | with_reducible apply kept_foldl_snd | with_reducible apply kept_foldl
    | with_reducible refine kept_of_snd ‹_› ?_ | split | dsimp only [kept_mk] | dsimp +zetaDelta only [kept_mk]

theorem State.countSlots_kept {o : State} {x0 : State} {x1 : Nat} (h : Kept o x0) :
    Kept o (State.countSlots x0 x1) := by
  unfold State.countSlots
  repeat' first
    | with_reducible assumption | with_reducible apply State.setFld_kept | dsimp only

theorem State.reloadLine_kept {o : State} {x0 : State} {x1 : Nspace} {x2 : Nat} {x3 : Nat} {x4 : Nat} (h : Kept o x0) :
    Kept o (State.reloadLine x0 x1 x2 x3 x4) := by
  unfold State.reloadLine
  repeat' first
    | with_reducible assumption | extract_lets | intro _ | with_reducible apply State.chargeHouse_kept | with_reducible apply State.dramWrite_kept
    | with_reducible apply kept_ite | with_reducible apply keptF_self | split | dsimp only [kept_mk]

theorem State.reloadCopies_kept {o : State} {x0 : State} {x1 : Nat} (h : Kept o x0) :
    Kept o (State.reloadCopies x0 x1) := by
  unfold State.reloadCopies
  repeat' first
    | with_reducible assumption | extract_lets | intro _ | with_reducible exact kept_of_snd ‹_› ‹_› | with_reducible apply State.reloadLine_kept
    | with_reducible apply kept_each | with_reducible apply kept_ite | with_reducible apply kept_ite_snd2 | with_reducible apply kept_ite_snd
    | with_reducible apply keptF_self | with_reducible apply keptF_put | with_reducible apply keptF_sput | with_reducible apply keptF_sputs
    | with_reducible apply keptF_zero | with_reducible apply keptF_nil | with_reducible apply keptF_filter | with_reducible apply kept_foldl_snd
    | with_reducible apply kept_foldl | with_reducible refine kept_of_snd ‹_› ?_ | split | dsimp only [kept_mk] | dsimp +zetaDelta only [kept_mk]

theorem State.doAdvance_kept {o : State} {x0 : State} {x1 : NHdr} {x2 : Nat} (h : Kept o x0) :
    Kept o (State.doAdvance x0 x1 x2) := by
  unfold State.doAdvance
  repeat' first
    | with_reducible assumption | extract_lets | intro _ | with_reducible apply State.vendor_kept | with_reducible apply State.badField_kept
    | with_reducible apply State.writeStaged_kept | with_reducible apply State.beginStaging_kept | with_reducible apply State.setBit_kept
    | with_reducible apply State.setFld_kept | with_reducible apply State.setReg_kept | with_reducible apply State.setIdx_kept
    | with_reducible apply State.takeShadow_kept | with_reducible apply State.ok_kept | with_reducible apply State.countSlots_kept
    | with_reducible apply State.reloadCopies_kept | with_reducible apply kept_ite | with_reducible apply keptF_self | split | dsimp only [kept_mk]

theorem State.doCompact_kept {o : State} {x0 : State} {x1 : NHdr} {x2 : Nat} (h : Kept o x0) :
    Kept o (State.doCompact x0 x1 x2) := by
  unfold State.doCompact
  repeat' first
    | with_reducible assumption | extract_lets | intro _ | with_reducible exact kept_of_snd ‹_› ‹_› | with_reducible apply State.beginStaging_kept
    | with_reducible apply State.chargeHost_kept | with_reducible apply State.ok_kept | with_reducible apply State.stageRec_kept
    | with_reducible apply kept_each | with_reducible apply kept_ite | with_reducible apply kept_ite_snd2 | with_reducible apply kept_ite_snd
    | with_reducible apply keptF_self | with_reducible apply keptF_put | with_reducible apply keptF_sput | with_reducible apply keptF_sputs
    | with_reducible apply keptF_zero | with_reducible apply keptF_nil | with_reducible apply keptF_filter | with_reducible apply kept_foldl_snd
    | with_reducible apply kept_foldl | with_reducible refine kept_of_snd ‹_› ?_ | split | dsimp only [kept_mk] | dsimp +zetaDelta only [kept_mk]

theorem State.perform_kept {o : State} {x0 : State} {x1 : Nat} {x2 : Instr} (h : Kept o x0) :
    Kept o (State.perform x0 x1 x2) := by
  unfold State.perform
  repeat' first
    | with_reducible assumption | extract_lets | intro _ | with_reducible apply State.doUpdate_kept | with_reducible apply State.doAdvance_kept
    | with_reducible apply State.doCompact_kept | with_reducible apply kept_ite | with_reducible apply keptF_self | split | dsimp only [kept_mk]

theorem State.arrive_kept {o : State} {x0 : State} {x1 : Nat} {x2 : Instr} (h : Kept o x0) :
    Kept o (State.arrive x0 x1 x2) := by
  unfold State.arrive
  repeat' first
    | with_reducible assumption | extract_lets | intro _ | with_reducible apply State.setWaiting_kept | with_reducible apply State.perform_kept
    | with_reducible apply kept_ite | with_reducible apply keptF_self | split | dsimp only [kept_mk]

theorem State.onIndex_kept {o : State} {x0 : State} {x1 : NHdr} {x2 : Nat} {x3 : Nat} {x4 : Bool} {x5 : State → State} (hf5 : ∀ y0, Kept o y0 → Kept o (x5 y0)) (h : Kept o x0) :
    Kept o (State.onIndex x0 x1 x2 x3 x4 x5) := by
  unfold State.onIndex
  repeat' first
    | with_reducible assumption | extract_lets | intro _ | with_reducible apply hf5 | with_reducible apply State.badNs_kept
    | with_reducible apply State.badOpcode_kept | with_reducible apply State.badField_kept | with_reducible apply State.vendor_kept
    | with_reducible apply kept_ite | with_reducible apply keptF_self | split | dsimp only [kept_mk]

theorem State.updateIdx_kept {o : State} {x0 : State} {x1 : NHdr} {x2 : BitVec 32} {x3 : BitVec 4} {x4 : IndexOps} (h : Kept o x0) :
    Kept o (State.updateIdx x0 x1 x2 x3 x4) := by
  unfold State.updateIdx
  repeat' first
    | with_reducible assumption | extract_lets | intro _ | with_reducible apply State.onIndex_kept | with_reducible apply State.protectedNs_kept
    | with_reducible apply State.arrive_kept | with_reducible apply kept_ite | with_reducible apply keptF_self | split | dsimp only [kept_mk]

theorem State.shapeIndex_kept {o : State} {x0 : State} {x1 : Nat} {x2 : Nat} {x3 : Nat} {x4 : List Byte} (h : Kept o x0) :
    Kept o (State.shapeIndex x0 x1 x2 x3 x4) := by
  unfold State.shapeIndex
  repeat' first
    | with_reducible assumption | with_reducible apply State.setReg_kept | dsimp only

theorem State.copyRegion_kept {o : State} {x0 : State} {x1 : Nspace} {x2 : Nat} {x3 : Nat} {x4 : Nat} (h : Kept o x0) :
    Kept o (State.copyRegion x0 x1 x2 x3 x4) := by
  unfold State.copyRegion
  repeat' first
    | with_reducible assumption | extract_lets | intro _ | with_reducible exact kept_of_snd ‹_› ‹_› | with_reducible apply State.dramWrite_kept
    | with_reducible apply kept_each | with_reducible apply kept_ite | with_reducible apply kept_ite_snd2 | with_reducible apply kept_ite_snd
    | with_reducible apply keptF_self | with_reducible apply keptF_put | with_reducible apply keptF_sput | with_reducible apply keptF_sputs
    | with_reducible apply keptF_zero | with_reducible apply keptF_nil | with_reducible apply keptF_filter | with_reducible apply kept_foldl_snd
    | with_reducible apply kept_foldl | with_reducible refine kept_of_snd ‹_› ?_ | split | dsimp only [kept_mk] | dsimp +zetaDelta only [kept_mk]

theorem State.openIdx_kept {o : State} {x0 : State} {x1 : NHdr} {x2 : Nat} {x3 : Nat} {x4 : Nat} {x5 : Nat} {x6 : List (BitVec 8)} {x7 : Bool} (h : Kept o x0) :
    Kept o (State.openIdx x0 x1 x2 x3 x4 x5 x6 x7) := by
  unfold State.openIdx
  repeat' first
    | with_reducible assumption | extract_lets | intro _ | with_reducible exact kept_of_snd ‹_› ‹_› | with_reducible apply State.badNs_kept
    | with_reducible apply State.badOpcode_kept | with_reducible apply State.badField_kept | with_reducible apply State.vendor_kept
    | with_reducible apply State.setIdx_kept | with_reducible apply State.shapeIndex_kept | with_reducible apply State.copyRegion_kept
    | with_reducible apply State.raise_kept | with_reducible apply State.chargeHouse_kept | with_reducible apply State.chargeHost_kept
    | with_reducible apply State.ok_kept | with_reducible apply State.countSlots_kept | with_reducible apply kept_each | with_reducible apply kept_ite
    | with_reducible apply kept_ite_snd2 | with_reducible apply kept_ite_snd | with_reducible apply keptF_self | with_reducible apply keptF_put
    | with_reducible apply keptF_sput | with_reducible apply keptF_sputs | with_reducible apply keptF_zero | with_reducible apply keptF_nil
    | with_reducible apply keptF_filter | with_reducible apply kept_foldl_snd | with_reducible apply kept_foldl
    | with_reducible refine kept_of_snd ‹_› ?_ | split | dsimp only [kept_mk] | dsimp +zetaDelta only [kept_mk]

theorem State.runWaiting_kept {o : State} {x0 : Nat} {x1 : List Instr} {x2 : State} (h : Kept o x2) : Kept o (State.runWaiting x0 x1 x2) := by
  induction x1 generalizing x2 with
  | nil => exact State.setWaiting_kept h
  | cons i r ih =>
    rw [State.runWaiting]
    exact kept_ite (State.setWaiting_kept h) (ih (State.perform_kept h))

theorem State.startStaging_kept {o : State} {x0 : State} {x1 : Nat} (h : Kept o x0) :
    Kept o (State.startStaging x0 x1) := by
  unfold State.startStaging
  repeat' first
    | with_reducible assumption | extract_lets | intro _ | with_reducible apply State.runWaiting_kept | with_reducible apply State.beginStaging_kept
    | with_reducible apply kept_ite | with_reducible apply keptF_self | split | dsimp only [kept_mk]

theorem State.closeIdx_kept {o : State} {x0 : State} {x1 : NHdr} {x2 : Nat} {x3 : Nat} {x4 : Bool} (h : Kept o x0) :
    Kept o (State.closeIdx x0 x1 x2 x3 x4) := by
  unfold State.closeIdx
  repeat' first
    | with_reducible assumption | extract_lets | intro _ | with_reducible exact kept_of_snd ‹_› ‹_› | with_reducible apply State.onIndex_kept
    | with_reducible apply State.vendor_kept | with_reducible apply State.setBit_kept | with_reducible apply State.setWaiting_kept
    | with_reducible apply State.setIdx_kept | with_reducible apply kept_each | with_reducible apply kept_ite | with_reducible apply kept_ite_snd2
    | with_reducible apply kept_ite_snd | with_reducible apply keptF_self | with_reducible apply keptF_put | with_reducible apply keptF_sput
    | with_reducible apply keptF_sputs | with_reducible apply keptF_zero | with_reducible apply keptF_nil | with_reducible apply keptF_filter
    | with_reducible apply kept_foldl_snd | with_reducible apply kept_foldl | with_reducible refine kept_of_snd ‹_› ?_ | split | dsimp only [kept_mk]
    | dsimp +zetaDelta only [kept_mk]

theorem State.advanceIdx_kept {o : State} {x0 : State} {x1 : NHdr} {x2 : BitVec 32} {x3 : BitVec 4} {x4 : Bool} (h : Kept o x0) :
    Kept o (State.advanceIdx x0 x1 x2 x3 x4) := by
  unfold State.advanceIdx
  repeat' first
    | with_reducible assumption | extract_lets | intro _ | with_reducible apply State.onIndex_kept | with_reducible apply State.arrive_kept
    | with_reducible apply kept_ite | with_reducible apply keptF_self | split | dsimp only [kept_mk]

theorem State.compactIdx_kept {o : State} {x0 : State} {x1 : NHdr} {x2 : BitVec 32} {x3 : BitVec 4} {x4 : Bool} (h : Kept o x0) :
    Kept o (State.compactIdx x0 x1 x2 x3 x4) := by
  unfold State.compactIdx
  repeat' first
    | with_reducible assumption | extract_lets | intro _ | with_reducible apply State.onIndex_kept | with_reducible apply State.arrive_kept
    | with_reducible apply kept_ite | with_reducible apply keptF_self | split | dsimp only [kept_mk]

theorem State.chargeSearch_kept {o : State} {x0 : State} {x1 : Nat} {x2 : Found} (h : Kept o x0) :
    Kept o (State.chargeSearch x0 x1 x2) := by
  unfold State.chargeSearch
  repeat' first
    | with_reducible assumption | with_reducible apply State.fresh_kept | with_reducible apply State.chargeFj_kept
    | with_reducible apply State.charge_kept | dsimp only

theorem State.ranHere_kept {o : State} {x0 : State} {x1 : SearchAsk} {x2 : Nat} {x3 : Found} (h : Kept o x0) :
    Kept o (State.ranHere x0 x1 x2 x3) := by
  unfold State.ranHere
  repeat' first
    | with_reducible assumption | extract_lets | intro _ | with_reducible exact kept_of_snd ‹_› ‹_› | with_reducible apply State.chargeSearch_kept
    | with_reducible apply State.countWalk_kept | with_reducible apply State.coreFault_kept | with_reducible apply State.raise_kept
    | with_reducible apply kept_each | with_reducible apply kept_ite | with_reducible apply kept_ite_snd2 | with_reducible apply kept_ite_snd
    | with_reducible apply keptF_self | with_reducible apply keptF_put | with_reducible apply keptF_sput | with_reducible apply keptF_sputs
    | with_reducible apply keptF_zero | with_reducible apply keptF_nil | with_reducible apply keptF_filter | with_reducible apply kept_foldl_snd
    | with_reducible apply kept_foldl | with_reducible refine kept_of_snd ‹_› ?_ | split | dsimp only [kept_mk] | dsimp +zetaDelta only [kept_mk]

theorem State.enterAsk_kept {o : State} {x0 : State} {x1 : Option NHdr} {x2 : SearchAsk} {x3 : Nat} {x4 : Nat} {x5 : Nat} {x6 : Nat} {x7 : Bool} (h : Kept o x0) :
    Kept o (State.enterAsk x0 x1 x2 x3 x4 x5 x6 x7).2 := by
  unfold State.enterAsk
  repeat' first
    | with_reducible assumption | extract_lets | intro _ | with_reducible exact kept_of_snd ‹_› ‹_› | with_reducible apply State.bindEpoch_kept
    | with_reducible apply kept_each | with_reducible apply kept_ite | with_reducible apply kept_ite_snd2 | with_reducible apply kept_ite_snd
    | with_reducible apply keptF_self | with_reducible apply keptF_put | with_reducible apply keptF_sput | with_reducible apply keptF_sputs
    | with_reducible apply keptF_zero | with_reducible apply keptF_nil | with_reducible apply keptF_filter | with_reducible apply kept_foldl_snd
    | with_reducible apply kept_foldl | with_reducible refine kept_of_snd ‹_› ?_ | split | dsimp only [kept_mk] | dsimp +zetaDelta only [kept_mk]

theorem State.runShards_kept {o : State} {x0 : State} {x1 : NHdr} {x2 : SearchAsk} {x3 : QBlock} {x4 : Nat} {x5 : List Byte} (h : Kept o x0) :
    Kept o (State.runShards x0 x1 x2 x3 x4 x5) := by
  unfold State.runShards
  repeat' first
    | with_reducible assumption | extract_lets | intro _ | with_reducible exact kept_of_snd ‹_› ‹_› | with_reducible apply State.ranHere_kept
    | with_reducible apply State.enterAsk_kept | with_reducible apply State.putQuery_kept | with_reducible apply State.joinAsk_kept
    | with_reducible apply kept_each | with_reducible apply kept_ite | with_reducible apply kept_ite_snd2 | with_reducible apply kept_ite_snd
    | with_reducible apply keptF_self | with_reducible apply keptF_put | with_reducible apply keptF_sput | with_reducible apply keptF_sputs
    | with_reducible apply keptF_zero | with_reducible apply keptF_nil | with_reducible apply keptF_filter | with_reducible apply kept_foldl_snd
    | with_reducible apply kept_foldl | with_reducible refine kept_of_snd ‹_› ?_ | split | dsimp only [kept_mk] | dsimp +zetaDelta only [kept_mk]

theorem State.shardArrives_kept {o : State} {x0 : State} {x1 : Nat} {x2 : Nat} {x3 : Nat} (h : Kept o x0) :
    Kept o (State.shardArrives x0 x1 x2 x3).2 := by
  unfold State.shardArrives
  repeat' first
    | with_reducible assumption | extract_lets | intro _ | with_reducible apply State.ranHere_kept | with_reducible apply State.enterAsk_kept
    | with_reducible apply State.joinAsk_kept | with_reducible apply kept_ite | with_reducible apply keptF_self | split | dsimp only [kept_mk]

theorem State.searchDone_kept {o : State} {x0 : State} {x1 : NHdr} {x2 : Nat} {x3 : Nat} {x4 : Nat} {x5 : Nat} {x6 : List Byte} (h : Kept o x0) :
    Kept o (State.searchDone x0 x1 x2 x3 x4 x5 x6) := by
  unfold State.searchDone
  repeat' first
    | with_reducible assumption | with_reducible apply State.complete_kept | dsimp only

theorem State.runSearch_kept {o : State} {x0 : State} {x1 : NHdr} {x2 : SearchAsk} {x3 : QBlock} {x4 : Nat} (h : Kept o x0) :
    Kept o (State.runSearch x0 x1 x2 x3 x4) := by
  unfold State.runSearch
  repeat' first
    | with_reducible assumption | extract_lets | intro _ | with_reducible apply State.ranHere_kept | with_reducible apply State.searchDone_kept
    | with_reducible apply kept_ite | with_reducible apply keptF_self | split | dsimp only [kept_mk]

theorem State.placeFilter_kept {o : State} {x0 : State} {x1 : SearchAsk} {x2 : Nat} (h : Kept o x0) :
    ∀ r, (State.placeFilter x0 x1 x2) = some r → Kept o r.2 := by
  unfold State.placeFilter
  repeat' first
    | with_reducible assumption | with_reducible exact opt_none | with_reducible refine opt_some ?_ | extract_lets | split | intro _
    | with_reducible apply State.fresh_kept | with_reducible apply State.chargeHouse_kept | with_reducible apply State.dramWrite_kept | dsimp only

theorem State.searchIdx_kept {o : State} {x0 : State} {x1 : NHdr} {x2 : Nat} {x3 : Nat} {x4 : List Byte} (h : Kept o x0) :
    Kept o (State.searchIdx x0 x1 x2 x3 x4) := by
  unfold State.searchIdx
  repeat' first
    | with_reducible assumption | extract_lets | intro _ | with_reducible apply State.onIndex_kept
    | refine State.placeFilter_kept ?_ _ (by assumption) | with_reducible apply State.vendor_kept | with_reducible apply State.badField_kept
    | with_reducible apply State.complete_kept | with_reducible apply State.runShards_kept | with_reducible apply State.runSearch_kept
    | with_reducible apply kept_ite | with_reducible apply keptF_self | split | dsimp only [kept_mk]

theorem State.unload_kept {o : State} {x0 : State} {x1 : Nat} {x2 : Nat} (h : Kept o x0) :
    Kept o (State.unload x0 x1 x2) := by
  unfold State.unload
  repeat' first
    | with_reducible assumption | extract_lets | intro _ | with_reducible apply State.dropPlace_kept | with_reducible apply kept_ite
    | with_reducible apply keptF_self | split | dsimp only [kept_mk]

theorem State.refuseImage_kept {o : State} {x0 : State} {x1 : NHdr} {x2 : Nat} {x3 : Nat} (h : Kept o x0) :
    Kept o (State.refuseImage x0 x1 x2 x3) := by
  unfold State.refuseImage
  repeat' first
    | with_reducible assumption | extract_lets | intro _ | with_reducible exact kept_of_snd ‹_› ‹_› | with_reducible apply State.vendor_kept
    | with_reducible apply kept_each | with_reducible apply kept_ite | with_reducible apply kept_ite_snd2 | with_reducible apply kept_ite_snd
    | with_reducible apply keptF_self | with_reducible apply keptF_put | with_reducible apply keptF_sput | with_reducible apply keptF_sputs
    | with_reducible apply keptF_zero | with_reducible apply keptF_nil | with_reducible apply keptF_filter | with_reducible apply kept_foldl_snd
    | with_reducible apply kept_foldl | with_reducible refine kept_of_snd ‹_› ?_ | split | dsimp only [kept_mk] | dsimp +zetaDelta only [kept_mk]

theorem State.dropCaches_kept {o : State} {x0 : State} (h : Kept o x0) :
    Kept o (State.dropCaches x0) := by
  unfold State.dropCaches
  repeat' first
    | with_reducible assumption | extract_lets | intro _ | with_reducible exact kept_of_snd ‹_› ‹_› | with_reducible apply State.modCore_kept
    | with_reducible apply kept_each | with_reducible apply kept_ite | with_reducible apply kept_ite_snd2 | with_reducible apply kept_ite_snd
    | with_reducible apply keptF_self | with_reducible apply keptF_put | with_reducible apply keptF_sput | with_reducible apply keptF_sputs
    | with_reducible apply keptF_zero | with_reducible apply keptF_nil | with_reducible apply keptF_filter | with_reducible apply kept_foldl_snd
    | with_reducible apply kept_foldl | with_reducible refine kept_of_snd ‹_› ?_ | split | dsimp only [kept_mk] | dsimp +zetaDelta only [kept_mk]

theorem State.keepImage_kept {o : State} {x0 : State} {x1 : NHdr} {x2 : Nat} {x3 : Nat} {x4 : Nat} {x5 : Nat} {x6 : List Byte} (h : Kept o x0) :
    Kept o (State.keepImage x0 x1 x2 x3 x4 x5 x6) := by
  unfold State.keepImage
  repeat' first
    | with_reducible assumption | extract_lets | intro _ | with_reducible exact kept_of_snd ‹_› ‹_› | with_reducible apply State.extend_kept
    | with_reducible apply State.takePlace_kept | with_reducible apply State.dramWrite_kept | with_reducible apply State.chargeHouse_kept
    | with_reducible apply State.ok_kept | with_reducible apply State.dropCaches_kept | with_reducible apply kept_each | with_reducible apply kept_ite
    | with_reducible apply kept_ite_snd2 | with_reducible apply kept_ite_snd | with_reducible apply keptF_self | with_reducible apply keptF_put
    | with_reducible apply keptF_sput | with_reducible apply keptF_sputs | with_reducible apply keptF_zero | with_reducible apply keptF_nil
    | with_reducible apply keptF_filter | with_reducible apply kept_foldl_snd | with_reducible apply kept_foldl
    | with_reducible refine kept_of_snd ‹_› ?_ | split | dsimp only [kept_mk] | dsimp +zetaDelta only [kept_mk]

theorem State.loadImage_kept {o : State} {x0 : State} {x1 : NHdr} {x2 : Nat} {x3 : Nat} {x4 : Nat} {x5 : List Byte} (h : Kept o x0) :
    Kept o (State.loadImage x0 x1 x2 x3 x4 x5) := by
  unfold State.loadImage
  repeat' first
    | with_reducible assumption | extract_lets | intro _ | with_reducible apply State.badNs_kept | with_reducible apply State.badOpcode_kept
    | with_reducible apply State.badField_kept | with_reducible apply State.ok_kept | with_reducible apply State.unload_kept
    | with_reducible apply State.refuseImage_kept | with_reducible apply State.vendor_kept | with_reducible apply State.raise_kept
    | with_reducible apply State.keepImage_kept | with_reducible apply kept_ite | with_reducible apply keptF_self | split | dsimp only [kept_mk]

theorem State.activate_kept {o : State} {x0 : State} {x1 : NHdr} {x2 : Nat} {x3 : Nat} {x4 : Bool} (h : Kept o x0) :
    Kept o (State.activate x0 x1 x2 x3 x4) := by
  unfold State.activate
  repeat' first
    | with_reducible assumption | extract_lets | intro _ | with_reducible apply State.badField_kept | with_reducible apply State.ok_kept
    | with_reducible apply kept_ite | with_reducible apply keptF_self | split | dsimp only [kept_mk]

theorem State.startJob_kept {o : State} {x0 : State} {x1 : NHdr} {x2 : Program} {x3 : JobHdr} {x4 : Nat} {x5 : List Byte} (h : Kept o x0) :
    Kept o (State.startJob x0 x1 x2 x3 x4 x5) := by
  unfold State.startJob
  repeat' first
    | with_reducible assumption | extract_lets | intro _ | with_reducible exact kept_of_snd ‹_› ‹_› | with_reducible apply State.takePlace_kept
    | with_reducible apply State.chargeHouse_kept | with_reducible apply State.dramWrite_kept | with_reducible apply State.setFring_kept
    | with_reducible apply kept_each | with_reducible apply kept_ite | with_reducible apply kept_ite_snd2 | with_reducible apply kept_ite_snd
    | with_reducible apply keptF_self | with_reducible apply keptF_put | with_reducible apply keptF_sput | with_reducible apply keptF_sputs
    | with_reducible apply keptF_zero | with_reducible apply keptF_nil | with_reducible apply keptF_filter | with_reducible apply kept_foldl_snd
    | with_reducible apply kept_foldl | with_reducible refine kept_of_snd ‹_› ?_ | split | dsimp only [kept_mk] | dsimp +zetaDelta only [kept_mk]

theorem State.execute_kept {o : State} {x0 : State} {x1 : NHdr} {x2 : Nat} {x3 : Nat} {x4 : List Byte} (h : Kept o x0) :
    Kept o (State.execute x0 x1 x2 x3 x4) := by
  unfold State.execute
  repeat' first
    | with_reducible assumption | extract_lets | intro _ | with_reducible apply State.badNs_kept | with_reducible apply State.badOpcode_kept
    | with_reducible apply State.vendor_kept | with_reducible apply State.badField_kept | with_reducible apply State.startJob_kept
    | with_reducible apply kept_ite | with_reducible apply keptF_self | split | dsimp only [kept_mk]

theorem State.hostDram_kept {o : State} {x0 : State} {x1 : Nat} {x2 : List Byte} (h : Kept o x0) :
    Kept o (State.hostDram x0 x1 x2) := by
  unfold State.hostDram
  repeat' first
    | with_reducible assumption | extract_lets | intro _ | with_reducible exact kept_of_snd ‹_› ‹_› | with_reducible apply State.dramPiece_kept
    | with_reducible apply State.countViolation_kept | with_reducible apply State.memViolation_kept | with_reducible apply State.overlayViolate_kept
    | with_reducible apply State.addReg_kept | with_reducible apply State.raise_kept | with_reducible apply kept_each | with_reducible apply kept_ite
    | with_reducible apply kept_ite_snd2 | with_reducible apply kept_ite_snd | with_reducible apply keptF_self | with_reducible apply keptF_put
    | with_reducible apply keptF_sput | with_reducible apply keptF_sputs | with_reducible apply keptF_zero | with_reducible apply keptF_nil
    | with_reducible apply keptF_filter | with_reducible apply kept_foldl_snd | with_reducible apply kept_foldl
    | with_reducible refine kept_of_snd ‹_› ?_ | split | dsimp only [kept_mk] | dsimp +zetaDelta only [kept_mk]

theorem State.writeBatch_kept {o : State} {x0 : State} {x1 : Job} (h : Kept o x0) :
    Kept o (State.writeBatch x0 x1) := by
  unfold State.writeBatch
  repeat' first
    | with_reducible assumption | extract_lets | intro _ | with_reducible exact kept_of_snd ‹_› ‹_› | with_reducible apply State.modReq_kept
    | with_reducible apply State.modJob_kept | with_reducible apply State.chargeHouse_kept | with_reducible apply State.dramWrite_kept
    | with_reducible apply kept_each | with_reducible apply kept_ite | with_reducible apply kept_ite_snd2 | with_reducible apply kept_ite_snd
    | with_reducible apply keptF_self | with_reducible apply keptF_put | with_reducible apply keptF_sput | with_reducible apply keptF_sputs
    | with_reducible apply keptF_zero | with_reducible apply keptF_nil | with_reducible apply keptF_filter | with_reducible apply kept_foldl_snd
    | with_reducible apply kept_foldl | with_reducible refine kept_of_snd ‹_› ?_ | split | dsimp only [kept_mk] | dsimp +zetaDelta only [kept_mk]

theorem State.planReq_kept {o : State} {x0 : State} {x1 : Request} {x2 : Nat} {x3 : Nat} (h : Kept o x0) :
    ∀ r, (State.planReq x0 x1 x2 x3) = some r → Kept o r.2 := by
  unfold State.planReq
  repeat' first
    | with_reducible assumption | with_reducible exact opt_none | with_reducible refine opt_some ?_ | extract_lets | split | intro _
    | refine State.growTo_kept ?_ _ (by assumption) | dsimp only

theorem State.joinStep_kept {o : State} {x0 : State} {x1 : Request} (h : Kept o x0) : Kept o (State.joinStep x0 x1) := by
  unfold State.joinStep
  dsimp only
  split
  · rename_i x e
    have hx : Kept o x.2 := by
      generalize (if x1.emitted = 0 then 0 else if 0 < x1.draftNow then 2 else 1) = m at e
      generalize hq : x0.planReq x1 m x1.draftNow = q at e
      cases q with
      | some y =>
        cases e
        exact State.planReq_kept h _ hq
      | none =>
        dsimp only at e
        by_cases c : m = 2
        · rw [if_pos c] at e
          exact State.planReq_kept h _ e
        · rw [if_neg c] at e
          cases e
    exact State.modReq_kept hx
  · exact State.addReg_kept (State.modReq_kept h)

theorem State.enterServing_kept {o : State} {x0 : NHdr} {x1 : State} (h : Kept o x1) :
    Kept o (State.enterServing x0 x1) := by
  unfold State.enterServing
  repeat' first
    | with_reducible assumption | extract_lets | intro _ | with_reducible exact kept_of_snd ‹_› ‹_› | with_reducible apply State.writeBatch_kept
    | with_reducible apply State.joinStep_kept | with_reducible apply State.queueStep_kept | with_reducible apply State.modJob_kept
    | with_reducible apply State.raise_kept | with_reducible apply kept_each | with_reducible apply kept_ite | with_reducible apply kept_ite_snd2
    | with_reducible apply kept_ite_snd | with_reducible apply keptF_self | with_reducible apply keptF_put | with_reducible apply keptF_sput
    | with_reducible apply keptF_sputs | with_reducible apply keptF_zero | with_reducible apply keptF_nil | with_reducible apply keptF_filter
    | with_reducible apply kept_foldl_snd | with_reducible apply kept_foldl | with_reducible refine kept_of_snd ‹_› ?_ | split | dsimp only [kept_mk]
    | dsimp +zetaDelta only [kept_mk]

theorem State.stopReq_kept {o : State} {x0 : State} {x1 : Request} (h : Kept o x0) :
    Kept o (State.stopReq x0 x1) := by
  unfold State.stopReq
  repeat' first
    | with_reducible assumption | extract_lets | intro _ | with_reducible apply State.endReq_kept | with_reducible apply kept_ite
    | with_reducible apply keptF_self | split | dsimp only [kept_mk]

theorem State.commitReq_kept {o : State} {x0 : State} {x1 : Request} {x2 : Report} (h : Kept o x0) :
    Kept o (State.commitReq x0 x1 x2) := by
  unfold State.commitReq
  repeat' first
    | with_reducible assumption | extract_lets | intro _ | with_reducible exact kept_of_snd ‹_› ‹_› | with_reducible apply State.commitRows_kept
    | with_reducible apply State.modReq_kept | with_reducible apply State.addReg_kept | with_reducible apply State.endReq_kept
    | with_reducible apply kept_each | with_reducible apply kept_ite | with_reducible apply kept_ite_snd2 | with_reducible apply kept_ite_snd
    | with_reducible apply keptF_self | with_reducible apply keptF_put | with_reducible apply keptF_sput | with_reducible apply keptF_sputs
    | with_reducible apply keptF_zero | with_reducible apply keptF_nil | with_reducible apply keptF_filter | with_reducible apply kept_foldl_snd
    | with_reducible apply kept_foldl | with_reducible refine kept_of_snd ‹_› ?_ | split | dsimp only [kept_mk] | dsimp +zetaDelta only [kept_mk]

theorem State.settleReq_kept {o : State} {x0 : List Byte × Request} {x1 : State} (h : Kept o x1) :
    Kept o (State.settleReq x0 x1) := by
  unfold State.settleReq
  repeat' first
    | with_reducible assumption | extract_lets | intro _ | with_reducible apply State.stopReq_kept | with_reducible apply State.commitReq_kept
    | with_reducible apply State.endReq_kept | with_reducible apply State.raise_kept | with_reducible apply kept_ite | with_reducible apply keptF_self
    | split | dsimp only [kept_mk]

theorem State.leaveServing_kept {o : State} {x0 : NHdr} {x1 : State} (h : Kept o x1) :
    Kept o (State.leaveServing x0 x1) := by
  unfold State.leaveServing
  repeat' first
    | with_reducible assumption | extract_lets | intro _ | with_reducible exact kept_of_snd ‹_› ‹_› | with_reducible apply State.chargeHouse_kept
    | with_reducible apply State.settleReq_kept | with_reducible apply State.stopReq_kept | with_reducible apply State.modJob_kept
    | with_reducible apply kept_each | with_reducible apply kept_ite | with_reducible apply kept_ite_snd2 | with_reducible apply kept_ite_snd
    | with_reducible apply keptF_self | with_reducible apply keptF_put | with_reducible apply keptF_sput | with_reducible apply keptF_sputs
    | with_reducible apply keptF_zero | with_reducible apply keptF_nil | with_reducible apply keptF_filter | with_reducible apply kept_foldl_snd
    | with_reducible apply kept_foldl | with_reducible refine kept_of_snd ‹_› ?_ | split | dsimp only [kept_mk] | dsimp +zetaDelta only [kept_mk]

theorem State.stepLevel_kept {o : State} {x0 : State} {x1 : Nat} (h : Kept o x0) :
    Kept o (State.stepLevel x0 x1) := by
  unfold State.stepLevel
  repeat' first
    | with_reducible assumption | extract_lets | intro _ | with_reducible apply State.unfire_kept | with_reducible apply kept_ite
    | with_reducible apply keptF_self | split | dsimp only [kept_mk]

theorem State.servingEnd_kept {o : State} {x0 : State} {x1 : Nat} (h : Kept o x0) :
    Kept o (State.servingEnd x0 x1) := by
  unfold State.servingEnd
  repeat' first
    | with_reducible assumption | extract_lets | intro _ | with_reducible exact kept_of_snd ‹_› ‹_› | with_reducible apply State.stepLevel_kept
    | with_reducible apply State.leaveServing_kept | with_reducible apply kept_each | with_reducible apply kept_ite
    | with_reducible apply kept_ite_snd2 | with_reducible apply kept_ite_snd | with_reducible apply keptF_self | with_reducible apply keptF_put
    | with_reducible apply keptF_sput | with_reducible apply keptF_sputs | with_reducible apply keptF_zero | with_reducible apply keptF_nil
    | with_reducible apply keptF_filter | with_reducible apply kept_foldl_snd | with_reducible apply kept_foldl
    | with_reducible refine kept_of_snd ‹_› ?_ | split | dsimp only [kept_mk] | dsimp +zetaDelta only [kept_mk]

theorem State.tellStop_kept {o : State} {x0 : State} {x1 : Request} {x2 : Nat} (h : Kept o x0) :
    Kept o (State.tellStop x0 x1 x2) := by
  unfold State.tellStop
  repeat' first
    | with_reducible assumption | extract_lets | intro _ | with_reducible apply State.stopReq_kept | with_reducible apply State.modReq_kept
    | with_reducible apply kept_ite | with_reducible apply keptF_self | split | dsimp only [kept_mk]

theorem State.pause_kept {o : State} {x0 : State} {x1 : NHdr} {x2 : CmdRef} (h : Kept o x0) :
    Kept o (State.pause x0 x1 x2) := by
  unfold State.pause
  repeat' first
    | with_reducible assumption | extract_lets | intro _ | with_reducible apply State.badField_kept | with_reducible apply State.ok_kept
    | with_reducible apply State.tellStop_kept | with_reducible apply kept_ite | with_reducible apply keptF_self | split | dsimp only [kept_mk]

theorem State.memWrite_kept {o : State} {x0 : State} {x1 : NHdr} {x2 : Nat} {x3 : Nat} {x4 : List Byte} (h : Kept o x0) :
    Kept o (State.memWrite x0 x1 x2 x3 x4) := by
  unfold State.memWrite
  repeat' first
    | with_reducible assumption | extract_lets | intro _ | with_reducible apply State.slm_kept | with_reducible apply State.ok_kept
    | with_reducible apply State.chargeHost_kept | with_reducible apply State.hostDram_kept | with_reducible apply kept_ite
    | with_reducible apply keptF_self | split | dsimp only [kept_mk]

theorem State.servingEntry_kept {o : State} {x0 : State} {x1 : Nat} (h : Kept o x0) :
    Kept o (State.servingEntry x0 x1) := by
  unfold State.servingEntry
  repeat' first
    | with_reducible assumption | extract_lets | intro _ | with_reducible exact kept_of_snd ‹_› ‹_› | with_reducible apply State.enterServing_kept
    | with_reducible apply kept_each | with_reducible apply kept_ite | with_reducible apply kept_ite_snd2 | with_reducible apply kept_ite_snd
    | with_reducible apply keptF_self | with_reducible apply keptF_put | with_reducible apply keptF_sput | with_reducible apply keptF_sputs
    | with_reducible apply keptF_zero | with_reducible apply keptF_nil | with_reducible apply keptF_filter | with_reducible apply kept_foldl_snd
    | with_reducible apply kept_foldl | with_reducible refine kept_of_snd ‹_› ?_ | split | dsimp only [kept_mk] | dsimp +zetaDelta only [kept_mk]

theorem State.lookupPrefix_kept {o : State} {x0 : State} {x1 : Request} (h : Kept o x0) :
    Kept o (State.lookupPrefix x0 x1).2 := by
  unfold State.lookupPrefix
  repeat' first
    | with_reducible assumption | extract_lets | intro _ | with_reducible exact kept_of_snd ‹_› ‹_› | with_reducible apply State.confirm_kept
    | with_reducible apply kept_each | with_reducible apply kept_ite | with_reducible apply kept_ite_snd2 | with_reducible apply kept_ite_snd
    | with_reducible apply keptF_self | with_reducible apply keptF_put | with_reducible apply keptF_sput | with_reducible apply keptF_sputs
    | with_reducible apply keptF_zero | with_reducible apply keptF_nil | with_reducible apply keptF_filter | with_reducible apply kept_foldl_snd
    | with_reducible apply kept_foldl | with_reducible refine kept_of_snd ‹_› ?_ | split | dsimp only [kept_mk] | dsimp +zetaDelta only [kept_mk]

theorem State.admitOne_kept {o : State} {x0 : NHdr} {x1 : State} (h : Kept o x1) :
    Kept o (State.admitOne x0 x1) := by
  unfold State.admitOne
  repeat' first
    | with_reducible assumption | extract_lets | intro _ | with_reducible apply State.lookupPrefix_kept | with_reducible apply State.modReq_kept
    | with_reducible apply kept_ite | with_reducible apply keptF_self | split | dsimp only [kept_mk]

theorem State.memCopy_kept {o : State} {x0 : State} {x1 : NHdr} {x2 : Nat} {x3 : Nat} {x4 : Nat} {x5 : Nat} {x6 : Nat} (h : Kept o x0) :
    Kept o (State.memCopy x0 x1 x2 x3 x4 x5 x6) := by
  unfold State.memCopy
  repeat' first
    | with_reducible assumption | extract_lets | intro _ | with_reducible apply State.slm_kept | with_reducible apply State.chargeHost_kept
    | with_reducible apply State.hostDram_kept | with_reducible apply State.ok_kept | with_reducible apply State.vendor_kept
    | with_reducible apply kept_ite | with_reducible apply keptF_self | split | dsimp only [kept_mk]

theorem State.refuseFrame_kept {o : State} {x0 : State} {x1 : NHdr} {x2 : Nat} (h : Kept o x0) :
    Kept o (State.refuseFrame x0 x1 x2) := by
  unfold State.refuseFrame
  repeat' first
    | with_reducible assumption | with_reducible apply State.vendor_kept | with_reducible apply State.setFld_kept | dsimp only

theorem State.frameStart_kept {o : State} {x0 : State} {x1 : NHdr} {x2 : Nat} {x3 : Nat} {x4 : Nat} {x5 : Word} {x6 : Bool} (h : Kept o x0) :
    Kept o (State.frameStart x0 x1 x2 x3 x4 x5 x6) := by
  unfold State.frameStart
  repeat' first
    | with_reducible assumption | extract_lets | intro _ | with_reducible apply State.badNs_kept | with_reducible apply State.badOpcode_kept
    | with_reducible apply State.badField_kept | with_reducible apply State.refuseFrame_kept | with_reducible apply State.setFring_kept
    | with_reducible apply kept_ite | with_reducible apply keptF_self | split | dsimp only [kept_mk]

theorem State.frameComplete_kept {o : State} {x0 : State} {x1 : Nat} {x2 : Nat} (h : Kept o x0) :
    Kept o (State.frameComplete x0 x1 x2) := by
  unfold State.frameComplete
  repeat' first
    | with_reducible assumption | extract_lets | intro _ | with_reducible apply State.addReg_kept | with_reducible apply State.setReg_kept
    | with_reducible apply State.raise_kept | with_reducible apply State.setFring_kept | with_reducible apply State.completeUj_kept
    | with_reducible apply State.stepLevel_kept | with_reducible apply State.modJob_kept | with_reducible apply State.framesOver_kept
    | with_reducible apply State.enterFrame_kept | with_reducible apply kept_ite | with_reducible apply keptF_self | split | dsimp only [kept_mk]

theorem State.requestAdmit_kept {o : State} {x0 : State} {x1 : Nat} (h : Kept o x0) :
    Kept o (State.requestAdmit x0 x1) := by
  unfold State.requestAdmit
  repeat' first
    | with_reducible assumption | extract_lets | intro _ | with_reducible exact kept_of_snd ‹_› ‹_› | with_reducible apply State.admitOne_kept
    | with_reducible apply kept_each | with_reducible apply kept_ite | with_reducible apply kept_ite_snd2 | with_reducible apply kept_ite_snd
    | with_reducible apply keptF_self | with_reducible apply keptF_put | with_reducible apply keptF_sput | with_reducible apply keptF_sputs
    | with_reducible apply keptF_zero | with_reducible apply keptF_nil | with_reducible apply keptF_filter | with_reducible apply kept_foldl_snd
    | with_reducible apply kept_foldl | with_reducible refine kept_of_snd ‹_› ?_ | split | dsimp only [kept_mk] | dsimp +zetaDelta only [kept_mk]

theorem State.submit_kept {o : State} {x0 : State} {x1 : NHdr} {x2 : CmdRef} {x3 : List Byte} (h : Kept o x0) :
    Kept o (State.submit x0 x1 x2 x3) := by
  unfold State.submit
  repeat' first
    | with_reducible assumption | extract_lets | intro _ | with_reducible apply State.badField_kept | with_reducible apply State.vendor_kept
    | with_reducible apply kept_ite | with_reducible apply keptF_self | split | dsimp only [kept_mk]

theorem State.overlay_kept {o : State} {x0 : State} {x1 : NHdr} {x2 : Nat} {x3 : Nat} {x4 : Nat} {x5 : Nat} {x6 : List Byte} {x7 : Bool} (h : Kept o x0) :
    Kept o (State.overlay x0 x1 x2 x3 x4 x5 x6 x7) := by
  unfold State.overlay
  repeat' first
    | with_reducible assumption | extract_lets | intro _ | with_reducible apply State.badNs_kept | with_reducible apply State.badOpcode_kept
    | with_reducible apply State.badField_kept | with_reducible apply State.vendor_kept | with_reducible apply State.ok_kept
    | with_reducible apply State.chargeHouse_kept | with_reducible apply State.dramWrite_kept | with_reducible apply kept_ite
    | with_reducible apply keptF_self | split | dsimp only [kept_mk]

theorem State.frameAccept_kept {o : State} {x0 : State} {x1 : Nat} (h : Kept o x0) :
    Kept o (State.frameAccept x0 x1) := by
  unfold State.frameAccept
  repeat' first
    | with_reducible assumption | extract_lets | intro _ | with_reducible apply State.takeAll_kept | with_reducible apply State.setFring_kept
    | with_reducible apply State.setFld_kept | with_reducible apply State.enterFrame_kept | with_reducible apply State.modJob_kept
    | with_reducible apply kept_ite | with_reducible apply keptF_self | split | dsimp only [kept_mk]

theorem State.fwDownload_kept {o : State} {x0 : State} {x1 : NHdr} {x2 : Nat} {x3 : List Byte} (h : Kept o x0) :
    Kept o (State.fwDownload x0 x1 x2 x3) := by
  unfold State.fwDownload
  repeat' first
    | with_reducible assumption | with_reducible apply State.ok_kept | with_reducible apply State.modGuard_kept | dsimp only

theorem State.fwStore_kept {o : State} {x0 : State} {x1 : Nat} (h : Kept o x0) :
    Kept o (State.fwStore x0 x1) := by
  unfold State.fwStore
  repeat' first
    | with_reducible assumption | with_reducible apply State.modGuard_kept | dsimp only

theorem State.fwActivate_kept {o : State} {x0 : State} {x1 : Nat} (h : Kept o x0) :
    Kept o (State.fwActivate x0 x1) := by
  unfold State.fwActivate
  repeat' first
    | with_reducible assumption | with_reducible apply State.modGuard_kept | dsimp only

theorem State.fwCommit_kept {o : State} {x0 : State} {x1 : NHdr} {x2 : Nat} {x3 : Nat} (h : Kept o x0) :
    Kept o (State.fwCommit x0 x1 x2 x3) := by
  unfold State.fwCommit
  repeat' first
    | with_reducible assumption | extract_lets | intro _ | with_reducible apply State.specific_kept | with_reducible apply State.ok_kept
    | with_reducible apply State.fwActivate_kept | with_reducible apply State.badField_kept | with_reducible apply State.fwStore_kept
    | with_reducible apply kept_ite | with_reducible apply keptF_self | split | dsimp only [kept_mk]

theorem State.dropStep_kept {o : State} {x0 : State} {x1 : Job} (h : Kept o x0) :
    Kept o (State.dropStep x0 x1) := by
  unfold State.dropStep
  repeat' first
    | with_reducible assumption | extract_lets | intro _ | with_reducible exact kept_of_snd ‹_› ‹_› | with_reducible apply State.setFifo_kept
    | with_reducible apply State.modCore_kept | with_reducible apply State.freeCore_kept | with_reducible apply State.modJob_kept
    | with_reducible apply State.release_kept | with_reducible apply State.headLevel_kept | with_reducible apply kept_each
    | with_reducible apply kept_ite | with_reducible apply kept_ite_snd2 | with_reducible apply kept_ite_snd | with_reducible apply keptF_self
    | with_reducible apply keptF_put | with_reducible apply keptF_sput | with_reducible apply keptF_sputs | with_reducible apply keptF_zero
    | with_reducible apply keptF_nil | with_reducible apply keptF_filter | with_reducible apply kept_foldl_snd | with_reducible apply kept_foldl
    | with_reducible refine kept_of_snd ‹_› ?_ | split | dsimp only [kept_mk] | dsimp +zetaDelta only [kept_mk]

theorem State.forgetCtrl_kept {o : State} {x0 : State} {x1 : Nat} (h : Kept o x0) :
    Kept o (State.forgetCtrl x0 x1) := by
  unfold State.forgetCtrl
  repeat' first
    | with_reducible assumption | extract_lets | intro _ | with_reducible exact kept_of_snd ‹_› ‹_› | with_reducible apply State.modAsk_kept
    | with_reducible apply State.unbindAsk_kept | with_reducible apply State.setBit_kept | with_reducible apply kept_each
    | with_reducible apply kept_ite | with_reducible apply kept_ite_snd2 | with_reducible apply kept_ite_snd | with_reducible apply keptF_self
    | with_reducible apply keptF_put | with_reducible apply keptF_sput | with_reducible apply keptF_sputs | with_reducible apply keptF_zero
    | with_reducible apply keptF_nil | with_reducible apply keptF_filter | with_reducible apply kept_foldl_snd | with_reducible apply kept_foldl
    | with_reducible refine kept_of_snd ‹_› ?_ | split | dsimp only [kept_mk] | dsimp +zetaDelta only [kept_mk]

theorem State.quietly_kept {o : State} {x0 : State} {x1 : Nat} {x2 : State → State} (hf2 : ∀ y0, Kept o y0 → Kept o (x2 y0)) (h : Kept o x0) :
    Kept o (State.quietly x0 x1 x2) := by
  unfold State.quietly
  repeat' first
    | with_reducible assumption | extract_lets | intro _ | with_reducible apply hf2 | with_reducible apply kept_ite | with_reducible apply keptF_self
    | split | dsimp only [kept_mk]

theorem State.cancelPend_kept {o : State} {x0 : State} {x1 : Nat} {x2 : NHdr} (h : Kept o x0) :
    Kept o (State.cancelPend x0 x1 x2) := by
  unfold State.cancelPend
  repeat' first
    | with_reducible assumption | with_reducible apply State.setFring_kept | with_reducible apply State.completeUj_kept | dsimp only

theorem State.cancelRun_kept {o : State} {x0 : State} {x1 : Nat} (h : Kept o x0) :
    Kept o (State.cancelRun x0 x1) := by
  unfold State.cancelRun
  repeat' first
    | with_reducible assumption | extract_lets | intro _ | with_reducible apply State.setFring_kept | with_reducible apply State.completeUj_kept
    | with_reducible apply State.modJob_kept | with_reducible apply State.enterFrame_kept | with_reducible apply State.dropStep_kept
    | with_reducible apply State.framesOver_kept | with_reducible apply kept_ite | with_reducible apply keptF_self | split | dsimp only [kept_mk]

theorem State.cancelJobs_kept {o : State} {x0 : State} {x1 : Nat} (h : Kept o x0) :
    Kept o (State.cancelJobs x0 x1) := by
  unfold State.cancelJobs
  repeat' first
    | with_reducible assumption | extract_lets | intro _ | with_reducible exact kept_of_snd ‹_› ‹_› | with_reducible apply State.failJob_kept
    | with_reducible apply State.cancelPend_kept | with_reducible apply State.cancelRun_kept | with_reducible apply kept_each
    | with_reducible apply kept_ite | with_reducible apply kept_ite_snd2 | with_reducible apply kept_ite_snd | with_reducible apply keptF_self
    | with_reducible apply keptF_put | with_reducible apply keptF_sput | with_reducible apply keptF_sputs | with_reducible apply keptF_zero
    | with_reducible apply keptF_nil | with_reducible apply keptF_filter | with_reducible apply kept_foldl_snd | with_reducible apply kept_foldl
    | with_reducible refine kept_of_snd ‹_› ?_ | split | dsimp only [kept_mk] | dsimp +zetaDelta only [kept_mk]

theorem State.resetCtrl_kept {o : State} {x0 : Nat} {x1 : State} (h : Kept o x1) :
    Kept o (State.resetCtrl x0 x1) := by
  unfold State.resetCtrl
  repeat' first
    | with_reducible assumption | extract_lets | intro _ | with_reducible apply State.forgetCtrl_kept | with_reducible apply State.quietly_kept
    | with_reducible apply State.cancelJobs_kept | with_reducible apply State.doorLevel_kept | with_reducible apply State.modCtrl_kept
    | with_reducible apply kept_ite | with_reducible apply keptF_self | split | dsimp only [kept_mk]

theorem State.dropWins_kept {o : State} {x0 : State} {x1 : Nat} (h : Kept o x0) :
    Kept o (State.dropWins x0 x1) := by
  unfold State.dropWins
  repeat' first
    | with_reducible assumption | extract_lets | intro _ | with_reducible apply kept_ite | with_reducible apply keptF_self | split
    | dsimp only [kept_mk]

theorem State.virtualize_kept {o : State} {x0 : State} {x1 : NHdr} {x2 : Nat} {x3 : VirtAct} {x4 : Nat} (h : Kept o x0) :
    Kept o (State.virtualize x0 x1 x2 x3 x4) := by
  unfold State.virtualize
  repeat' first
    | with_reducible assumption | extract_lets | intro _ | with_reducible apply State.badField_kept | with_reducible apply State.specific_kept
    | with_reducible apply State.ok_kept | with_reducible apply State.modCtrl_kept | with_reducible apply State.resetCtrl_kept
    | with_reducible apply kept_ite | with_reducible apply keptF_self | split | dsimp only [kept_mk]

theorem State.resetFn_kept {o : State} {x0 : State} {x1 : Nat} (h : Kept o x0) :
    Kept o (State.resetFn x0 x1) := by
  unfold State.resetFn
  repeat' first
    | with_reducible assumption | extract_lets | intro _ | with_reducible exact kept_of_snd ‹_› ‹_› | with_reducible apply State.dropWins_kept
    | with_reducible apply State.resetCtrl_kept | with_reducible apply State.setFld_kept | with_reducible apply kept_each
    | with_reducible apply kept_ite | with_reducible apply kept_ite_snd2 | with_reducible apply kept_ite_snd | with_reducible apply keptF_self
    | with_reducible apply keptF_put | with_reducible apply keptF_sput | with_reducible apply keptF_sputs | with_reducible apply keptF_zero
    | with_reducible apply keptF_nil | with_reducible apply keptF_filter | with_reducible apply kept_foldl_snd | with_reducible apply kept_foldl
    | with_reducible refine kept_of_snd ‹_› ?_ | split | dsimp only [kept_mk] | dsimp +zetaDelta only [kept_mk]

theorem State.doeFind_kept {o : State} {x0 : State} {x1 : BitVec 1} {x2 : Nat} (h : Kept o x0) :
    Kept o (State.doeFind x0 x1 x2) := by
  unfold State.doeFind
  repeat' first
    | with_reducible assumption | extract_lets | intro _ | with_reducible apply State.modGuard_kept | with_reducible apply kept_ite
    | with_reducible apply keptF_self | split | dsimp only [kept_mk]

theorem State.setConn_kept {o : State} {x0 : State} {x1 : Transport} {x2 : SpdmConn} (h : Kept o x0) :
    Kept o (State.setConn x0 x1 x2) := by
  unfold State.setConn
  repeat' first
    | with_reducible assumption | with_reducible apply State.modGuard_kept | dsimp only

theorem State.spdmSend_kept {o : State} {x0 : State} {x1 : Transport} {x2 : SpdmResp} (h : Kept o x0) :
    Kept o (State.spdmSend x0 x1 x2) := by
  unfold State.spdmSend
  repeat' first
    | with_reducible assumption | extract_lets | intro _ | with_reducible apply State.modGuard_kept | with_reducible apply State.setConn_kept
    | with_reducible apply kept_ite | with_reducible apply keptF_self | split | dsimp only [kept_mk]

theorem State.signed_kept {o : State} {x0 : State} (h : Kept o x0) :
    Kept o (State.signed x0) := by
  unfold State.signed
  repeat' first
    | with_reducible assumption | with_reducible apply State.modGuard_kept | dsimp only

theorem State.spdmAnswer_kept {o : State} {x0 : State} {x1 : Transport} {x2 : SpdmReq} (h : Kept o x0) :
    Kept o (State.spdmAnswer x0 x1 x2).2 := by
  unfold State.spdmAnswer
  repeat' first
    | with_reducible assumption | extract_lets | intro _ | with_reducible apply State.setConn_kept | with_reducible apply State.signed_kept
    | with_reducible apply kept_ite | with_reducible apply keptF_self | split | dsimp only [kept_mk]

theorem State.chunkGet_kept {o : State} {x0 : State} {x1 : Transport} {x2 : Nat} (h : Kept o x0) :
    Kept o (State.chunkGet x0 x1 x2) := by
  unfold State.chunkGet
  repeat' first
    | with_reducible assumption | extract_lets | intro _ | with_reducible apply State.spdmSend_kept | with_reducible apply State.modGuard_kept
    | with_reducible apply State.setConn_kept | with_reducible apply kept_ite | with_reducible apply keptF_self | split | dsimp only [kept_mk]

theorem State.spdm_kept {o : State} {x0 : State} {x1 : Transport} {x2 : SpdmReq} (h : Kept o x0) :
    Kept o (State.spdm x0 x1 x2) := by
  unfold State.spdm
  repeat' first
    | with_reducible assumption | extract_lets | intro _ | with_reducible apply State.spdmAnswer_kept | with_reducible apply State.spdmSend_kept
    | with_reducible apply State.setConn_kept | with_reducible apply State.signed_kept | with_reducible apply State.modGuard_kept
    | with_reducible apply kept_ite | with_reducible apply keptF_self | split | dsimp only [kept_mk]

theorem State.chunkSend_kept {o : State} {x0 : State} {x1 : Transport} {x2 : Nat} {x3 : Bool} {x4 : List Byte} (h : Kept o x0) :
    Kept o (State.chunkSend x0 x1 x2 x3 x4) := by
  unfold State.chunkSend
  repeat' first
    | with_reducible assumption | extract_lets | intro _ | with_reducible apply State.spdmSend_kept | with_reducible apply State.setConn_kept
    | with_reducible apply State.spdm_kept | with_reducible apply kept_ite | with_reducible apply keptF_self | split | dsimp only [kept_mk]

theorem State.dropUpdate_kept {o : State} {x0 : State} {x1 : NHdr} (h : Kept o x0) :
    ∀ r, (State.dropUpdate x0 x1) = some r → Kept o r := by
  unfold State.dropUpdate
  repeat' first
    | with_reducible assumption | with_reducible exact opt_none | with_reducible refine opt_some ?_ | extract_lets | split | intro _
    | with_reducible apply State.setIdx_kept | dsimp only

theorem State.abortOne_kept {o : State} {x0 : State} {x1 : NHdr} (h : Kept o x0) : ∀ r, State.abortOne x0 x1 = some r → Kept o r := by
  unfold State.abortOne
  split
  · exact opt_some (State.complete_kept h)
  · split
    · exact opt_some (State.failJob_kept h)
    · split
      · split
        · exact opt_none
        · exact opt_some (State.tellStop_kept h)
      · split
        · exact opt_some (State.cancelPend_kept h)
        · exact opt_some (State.cancelRun_kept h)
        · split
          · exact opt_some (State.abortAsk_kept h)
          · intro r e
            obtain ⟨t, ht, rfl⟩ := Option.map_eq_some_iff.1 e
            exact State.complete_kept (State.dropUpdate_kept h t ht)

theorem State.doAbort_kept {o : State} {x0 : State} {x1 : NHdr} {x2 : CmdRef} (h : Kept o x0) :
    Kept o (State.doAbort x0 x1 x2) := by
  unfold State.doAbort
  repeat' first
    | with_reducible assumption | extract_lets | intro _ | refine State.abortOne_kept ?_ _ (by assumption) | with_reducible apply State.ok_kept
    | with_reducible apply kept_ite | with_reducible apply keptF_self | split | dsimp only [kept_mk]

theorem State.securityOut_kept {o : State} {x0 : State} {x1 : NHdr} {x2 : Nat} {x3 : SpdmReq} (h : Kept o x0) :
    Kept o (State.securityOut x0 x1 x2 x3) := by
  unfold State.securityOut
  repeat' first
    | with_reducible assumption | extract_lets | intro _ | with_reducible apply State.badField_kept | with_reducible apply State.ok_kept
    | with_reducible apply State.spdm_kept | with_reducible apply kept_ite | with_reducible apply keptF_self | split | dsimp only [kept_mk]

theorem State.securityIn_kept {o : State} {x0 : State} {x1 : NHdr} {x2 : Nat} {x3 : Nat} {x4 : Nat} (h : Kept o x0) :
    Kept o (State.securityIn x0 x1 x2 x3 x4) := by
  unfold State.securityIn
  repeat' first
    | with_reducible assumption | extract_lets | intro _ | with_reducible apply State.badField_kept | with_reducible apply State.ok_kept
    | with_reducible apply State.modGuard_kept | with_reducible apply kept_ite | with_reducible apply keptF_self | split | dsimp only [kept_mk]

end Sys2Proof.Machine
end

