-- ==== Sys2Proof/Laws/Kept7.lean ====
section
/-! SUPPORT. Laws/Kept7.lean: one lemma per operation of the machine: it keeps what KeptBase names (part 7, in the order in which operations use
each other). -/

namespace Sys2Proof.Machine

open Sys2Proof

theorem State.hostEffect_kept {o : State} {x0 : State} {x1 : Instr} (h : Kept o x0) :
    Kept o (State.hostEffect x0 x1) := by
  unfold State.hostEffect
  repeat' first
    | with_reducible assumption | extract_lets | intro _ | with_reducible apply State.identify_kept | with_reducible apply State.getFeatures_kept
    | with_reducible apply State.setFeatures_kept | with_reducible apply State.setPower_kept | with_reducible apply State.setStamp_kept
    | with_reducible apply State.getLog_kept | with_reducible apply State.createQueue_kept | with_reducible apply State.deleteQueue_kept
    | with_reducible apply State.doAbort_kept | with_reducible apply State.eventRequest_kept | with_reducible apply State.createNs_kept
    | with_reducible apply State.deleteNs_kept | with_reducible apply State.attachNs_kept | with_reducible apply State.fwDownload_kept
    | with_reducible apply State.fwCommit_kept | with_reducible apply State.format_kept | with_reducible apply State.sanitizeAll_kept
    | with_reducible apply State.virtualize_kept | with_reducible apply State.ok_kept | with_reducible apply State.selfTest_kept
    | with_reducible apply State.securityOut_kept | with_reducible apply State.securityIn_kept | with_reducible apply State.attachWeight_kept
    | with_reducible apply State.detachWeight_kept | with_reducible apply State.setWindow_kept | with_reducible apply State.doRead_kept
    | with_reducible apply State.badField_kept | with_reducible apply State.doWrite_kept | with_reducible apply State.doDeallocate_kept
    | with_reducible apply State.doCompare_kept | with_reducible apply State.doVerify_kept | with_reducible apply State.doAppend_kept
    | with_reducible apply State.zoneSend_kept | with_reducible apply State.zoneReceive_kept | with_reducible apply State.loadImage_kept
    | with_reducible apply State.activate_kept | with_reducible apply State.execute_kept | with_reducible apply State.rangeSet_kept
    | with_reducible apply State.memRead_kept | with_reducible apply State.memWrite_kept | with_reducible apply State.memCopy_kept
    | with_reducible apply State.doRewrite_kept | with_reducible apply State.openIdx_kept | with_reducible apply State.closeIdx_kept
    | with_reducible apply State.updateIdx_kept | with_reducible apply State.advanceIdx_kept | with_reducible apply State.compactIdx_kept
    | with_reducible apply State.searchIdx_kept | with_reducible apply State.submit_kept | with_reducible apply State.overlay_kept
    | with_reducible apply State.frameStart_kept | with_reducible apply State.pause_kept | with_reducible apply State.badOpcode_kept
    | with_reducible apply kept_ite | with_reducible apply keptF_self | split | dsimp only [kept_mk]

theorem State.effectOr_kept {o : State} {x0 : State} {x1 : NHdr} {x2 : Instr} (h : Kept o x0) :
    Kept o (State.effectOr x0 x1 x2) := by
  unfold State.effectOr
  repeat' first
    | with_reducible assumption | extract_lets | intro _ | with_reducible apply State.hostEffect_kept | with_reducible apply kept_ite
    | with_reducible apply keptF_self | split | dsimp only [kept_mk]

theorem State.runStalled_kept {o : State} {x0 : State} (h : Kept o x0) :
    Kept o (State.runStalled x0) := by
  unfold State.runStalled
  repeat' first
    | with_reducible assumption | extract_lets | intro _ | with_reducible exact kept_of_snd ‹_› ‹_› | with_reducible apply State.effectOr_kept
    | with_reducible apply kept_each | with_reducible apply kept_ite | with_reducible apply kept_ite_snd2 | with_reducible apply kept_ite_snd
    | with_reducible apply keptF_self | with_reducible apply keptF_put | with_reducible apply keptF_sput | with_reducible apply keptF_sputs
    | with_reducible apply keptF_zero | with_reducible apply keptF_nil | with_reducible apply keptF_filter | with_reducible apply kept_foldl_snd
    | with_reducible apply kept_foldl | with_reducible refine kept_of_snd ‹_› ?_ | split | dsimp only [kept_mk] | dsimp +zetaDelta only [kept_mk]

theorem State.reportDeferred_kept {o : State} {x0 : State} {x1 : NHdr} {x2 : BitVec 32} (h : Kept o x0) :
    Kept o (State.reportDeferred x0 x1 x2) := by
  unfold State.reportDeferred
  repeat' first
    | with_reducible assumption | with_reducible apply State.modNs_kept | with_reducible apply State.vendor_kept
    | with_reducible apply State.raise_kept | with_reducible apply State.addReg_kept | dsimp only

theorem State.admitCmd_kept {o : State} {x0 : State} {x1 : NHdr} {x2 : Instr} (h : Kept o x0) :
    Kept o (State.admitCmd x0 x1 x2) := by
  unfold State.admitCmd
  repeat' first
    | with_reducible assumption | extract_lets | intro _ | with_reducible apply State.sanitizeBusy_kept | with_reducible apply State.badField_kept
    | with_reducible apply State.badNs_kept | with_reducible apply State.reportDeferred_kept | with_reducible apply State.effectOr_kept
    | with_reducible apply kept_ite | with_reducible apply keptF_self | split | dsimp only [kept_mk]

theorem State.enterPs4_kept {o : State} {x0 : State} (h : Kept o x0) :
    Kept o (State.enterPs4 x0) := by
  unfold State.enterPs4
  repeat' first
    | with_reducible assumption | extract_lets | intro _ | with_reducible exact kept_of_snd ‹_› ‹_› | with_reducible apply State.breakBinding_kept
    | with_reducible apply State.clearWindow_kept | with_reducible apply State.linkDown_kept | with_reducible apply kept_each
    | with_reducible apply kept_ite | with_reducible apply kept_ite_snd2 | with_reducible apply kept_ite_snd | with_reducible apply keptF_self
    | with_reducible apply keptF_put | with_reducible apply keptF_sput | with_reducible apply keptF_sputs | with_reducible apply keptF_zero
    | with_reducible apply keptF_nil | with_reducible apply keptF_filter | with_reducible apply kept_foldl_snd | with_reducible apply kept_foldl
    | with_reducible refine kept_of_snd ‹_› ?_ | split | dsimp only [kept_mk] | dsimp +zetaDelta only [kept_mk]

theorem State.autoPs_kept {o : State} {x0 : State} {x1 : Nat} (h : Kept o x0) :
    Kept o (State.autoPs x0 x1) := by
  unfold State.autoPs
  repeat' first
    | with_reducible assumption | extract_lets | intro _ | with_reducible apply State.enterPs_kept | with_reducible apply kept_ite
    | with_reducible apply keptF_self | split | dsimp only [kept_mk]

theorem State.retrainAll_kept {o : State} {x0 : State} (h : Kept o x0) :
    Kept o (State.retrainAll x0) := by
  unfold State.retrainAll
  repeat' first
    | with_reducible assumption | extract_lets | intro _ | with_reducible exact kept_of_snd ‹_› ‹_› | with_reducible apply State.enableLinks_kept
    | with_reducible apply kept_each | with_reducible apply kept_ite | with_reducible apply kept_ite_snd2 | with_reducible apply kept_ite_snd
    | with_reducible apply keptF_self | with_reducible apply keptF_put | with_reducible apply keptF_sput | with_reducible apply keptF_sputs
    | with_reducible apply keptF_zero | with_reducible apply keptF_nil | with_reducible apply keptF_filter | with_reducible apply kept_foldl_snd
    | with_reducible apply kept_foldl | with_reducible refine kept_of_snd ‹_› ?_ | split | dsimp only [kept_mk] | dsimp +zetaDelta only [kept_mk]

theorem State.acceptCmd_kept {o : State} {x0 : State} {x1 : NHdr} {x2 : Instr} (h : Kept o x0) :
    Kept o (State.acceptCmd x0 x1 x2) := by
  unfold State.acceptCmd
  repeat' first
    | with_reducible assumption | extract_lets | intro _ | with_reducible apply State.badOpcode_kept | with_reducible apply State.admitCmd_kept
    | with_reducible apply kept_ite | with_reducible apply keptF_self | split | dsimp only [kept_mk]

theorem State.psExited_kept {o : State} {x0 : State} (h : Kept o x0) :
    Kept o (State.psExited x0) := by
  unfold State.psExited
  repeat' first
    | with_reducible assumption | extract_lets | intro _ | with_reducible exact kept_of_snd ‹_› ‹_› | with_reducible apply State.retrainAll_kept
    | with_reducible apply State.acceptCmd_kept | with_reducible apply kept_each | with_reducible apply kept_ite | with_reducible apply kept_ite_snd2
    | with_reducible apply kept_ite_snd | with_reducible apply keptF_self | with_reducible apply keptF_put | with_reducible apply keptF_sput
    | with_reducible apply keptF_sputs | with_reducible apply keptF_zero | with_reducible apply keptF_nil | with_reducible apply keptF_filter
    | with_reducible apply kept_foldl_snd | with_reducible apply kept_foldl | with_reducible refine kept_of_snd ‹_› ?_ | split | dsimp only [kept_mk]
    | dsimp +zetaDelta only [kept_mk]

theorem State.miOut_kept {o : State} {x0 : State} {x1 : Nat} {x2 : List Byte} (h : Kept o x0) :
    Kept o (State.miOut x0 x1 x2) := by
  unfold State.miOut
  repeat' first
    | with_reducible assumption | extract_lets | intro _ | with_reducible apply kept_ite | with_reducible apply keptF_self | split
    | dsimp only [kept_mk]

theorem State.hostCmd_kept {o : State} {x0 : State} {x1 : NHdr} {x2 : Instr} (h : Kept o x0) :
    Kept o (State.hostCmd x0 x1 x2) := by
  unfold State.hostCmd
  repeat' first
    | with_reducible assumption | extract_lets | intro _ | with_reducible apply State.acceptCmd_kept | with_reducible apply State.fetchFrom_kept
    | with_reducible apply kept_ite | with_reducible apply keptF_self | split | dsimp only [kept_mk]

theorem State.psEntered_kept {o : State} {x0 : State} (h : Kept o x0) :
    Kept o (State.psEntered x0) := by
  unfold State.psEntered
  repeat' first
    | with_reducible assumption | extract_lets | intro _ | with_reducible apply State.enterPs4_kept | with_reducible apply kept_ite
    | with_reducible apply keptF_self | split | dsimp only [kept_mk]

theorem State.miTunnel_kept {o : State} {x0 : State} {x1 : State → State} (hf1 : ∀ y0, Kept o y0 → Kept o (x1 y0)) (h : Kept o x0) :
    Kept o (State.miTunnel x0 x1) := by
  unfold State.miTunnel
  repeat' first
    | with_reducible assumption | extract_lets | intro _ | with_reducible apply hf1 | with_reducible apply State.miOut_kept
    | with_reducible apply kept_ite | with_reducible apply keptF_self | split | dsimp only [kept_mk]

theorem State.miServe_kept {o : State} {x0 : State} {x1 : MiOp} (h : Kept o x0) :
    Kept o (State.miServe x0 x1) := by
  unfold State.miServe
  repeat' first
    | with_reducible assumption | extract_lets | intro _ | with_reducible apply State.miOut_kept | with_reducible apply State.miTunnel_kept
    | with_reducible apply State.identify_kept | with_reducible apply State.getFeatures_kept | with_reducible apply kept_ite
    | with_reducible apply keptF_self | split | dsimp only [kept_mk]

theorem State.keepAliveOut_kept {o : State} {x0 : State} {x1 : Nat} (h : Kept o x0) :
    Kept o (State.keepAliveOut x0 x1) := by
  unfold State.keepAliveOut
  repeat' first
    | with_reducible assumption | extract_lets | intro _ | with_reducible apply State.modCtrl_kept | with_reducible apply kept_ite
    | with_reducible apply keptF_self | split | dsimp only [kept_mk]

theorem State.cyclesPass_kept {o : State} {x0 : State} {x1 : Nat} (h : Kept o x0) :
    Kept o (State.cyclesPass x0 x1) := by
  unfold State.cyclesPass
  repeat' first
    | with_reducible assumption | extract_lets | intro _ | with_reducible exact kept_of_snd ‹_› ‹_› | with_reducible apply State.addReg_kept
    | with_reducible apply kept_each | with_reducible apply kept_ite | with_reducible apply kept_ite_snd2 | with_reducible apply kept_ite_snd
    | with_reducible apply keptF_self | with_reducible apply keptF_put | with_reducible apply keptF_sput | with_reducible apply keptF_sputs
    | with_reducible apply keptF_zero | with_reducible apply keptF_nil | with_reducible apply keptF_filter | with_reducible apply kept_foldl_snd
    | with_reducible apply kept_foldl | with_reducible refine kept_of_snd ‹_› ?_ | split | dsimp only [kept_mk] | dsimp +zetaDelta only [kept_mk]

theorem State.copyDone_kept {o : State} {x0 : State} {x1 : Nat} (h : Kept o x0) :
    Kept o (State.copyDone x0 x1) := by
  unfold State.copyDone
  repeat' first
    | with_reducible assumption | extract_lets | intro _ | with_reducible exact kept_of_snd ‹_› ‹_› | with_reducible apply State.evict_kept
    | with_reducible apply State.frameClean_kept | with_reducible apply State.chargeHouse_kept | with_reducible apply State.addReg_kept
    | with_reducible apply kept_each | with_reducible apply kept_ite | with_reducible apply kept_ite_snd2 | with_reducible apply kept_ite_snd
    | with_reducible apply keptF_self | with_reducible apply keptF_put | with_reducible apply keptF_sput | with_reducible apply keptF_sputs
    | with_reducible apply keptF_zero | with_reducible apply keptF_nil | with_reducible apply keptF_filter | with_reducible apply kept_foldl_snd
    | with_reducible apply kept_foldl | with_reducible refine kept_of_snd ‹_› ?_ | split | dsimp only [kept_mk] | dsimp +zetaDelta only [kept_mk]

theorem State.scrub_kept {o : State} {x0 : State} {x1 : LineOutcome} (h : Kept o x0) :
    Kept o (State.scrub x0 x1) := by
  unfold State.scrub
  repeat' first
    | with_reducible assumption | extract_lets | intro _ | with_reducible apply State.chargeHouse_kept | with_reducible apply State.addReg_kept
    | with_reducible apply State.raise_kept | with_reducible apply State.markLine_kept | with_reducible apply kept_ite
    | with_reducible apply keptF_self | split | dsimp only [kept_mk]

theorem State.goOn_kept {o : State} {x0 : State} (h : Kept o x0) :
    Kept o (State.goOn x0) := by
  unfold State.goOn
  repeat' first
    | with_reducible assumption | extract_lets | intro _ | with_reducible exact kept_of_snd ‹_› ‹_› | with_reducible apply State.runStalled_kept
    | with_reducible apply State.pumpPort_kept | with_reducible apply kept_each | with_reducible apply kept_ite | with_reducible apply kept_ite_snd2
    | with_reducible apply kept_ite_snd | with_reducible apply keptF_self | with_reducible apply keptF_put | with_reducible apply keptF_sput
    | with_reducible apply keptF_sputs | with_reducible apply keptF_zero | with_reducible apply keptF_nil | with_reducible apply keptF_filter
    | with_reducible apply kept_foldl_snd | with_reducible apply kept_foldl | with_reducible refine kept_of_snd ‹_› ?_ | split | dsimp only [kept_mk]
    | dsimp +zetaDelta only [kept_mk]

theorem State.zeroingDone_kept {o : State} {x0 : State} (h : Kept o x0) :
    Kept o (State.zeroingDone x0) := by
  unfold State.zeroingDone
  repeat' first
    | with_reducible assumption | extract_lets | intro _ | with_reducible exact kept_of_snd ‹_› ‹_› | with_reducible apply State.chargeHouse_kept
    | with_reducible apply kept_each | with_reducible apply kept_ite | with_reducible apply kept_ite_snd2 | with_reducible apply kept_ite_snd
    | with_reducible apply keptF_self | with_reducible apply keptF_put | with_reducible apply keptF_sput | with_reducible apply keptF_sputs
    | with_reducible apply keptF_zero | with_reducible apply keptF_nil | with_reducible apply keptF_filter | with_reducible apply kept_foldl_snd
    | with_reducible apply kept_foldl | with_reducible refine kept_of_snd ‹_› ?_ | split | dsimp only [kept_mk] | dsimp +zetaDelta only [kept_mk]

theorem State.nextPeriod_kept {o : State} {x0 : State} (h : Kept o x0) :
    Kept o (State.nextPeriod x0) := by
  unfold State.nextPeriod
  repeat' first
    | with_reducible assumption | extract_lets | intro _ | with_reducible apply kept_ite | with_reducible apply keptF_self | split
    | dsimp only [kept_mk]

theorem State.evacuate_kept {o : State} {x0 : State} {x1 : Nat} (h : Kept o x0) :
    Kept o (State.evacuate x0 x1) := by
  unfold State.evacuate
  repeat' first
    | with_reducible assumption | extract_lets | intro _ | with_reducible exact kept_of_snd ‹_› ‹_› | with_reducible apply State.queueErase_kept
    | with_reducible apply State.relocate_kept | with_reducible apply kept_each | with_reducible apply kept_ite | with_reducible apply kept_ite_snd2
    | with_reducible apply kept_ite_snd | with_reducible apply keptF_self | with_reducible apply keptF_put | with_reducible apply keptF_sput
    | with_reducible apply keptF_sputs | with_reducible apply keptF_zero | with_reducible apply keptF_nil | with_reducible apply keptF_filter
    | with_reducible apply kept_foldl_snd | with_reducible apply kept_foldl | with_reducible refine kept_of_snd ‹_› ?_ | split | dsimp only [kept_mk]
    | dsimp +zetaDelta only [kept_mk]

theorem State.moveDirect_kept {o : State} {x0 : State} {x1 : Nat} {x2 : Nat} (h : Kept o x0) :
    Kept o (State.moveDirect x0 x1 x2) := by
  unfold State.moveDirect
  repeat' first
    | with_reducible assumption | extract_lets | intro _ | with_reducible apply kept_ite | with_reducible apply keptF_self | split
    | dsimp only [kept_mk]

theorem State.refresh_kept {o : State} {x0 : State} {x1 : Ppa} (h : Kept o x0) :
    Kept o (State.refresh x0 x1) := by
  unfold State.refresh
  repeat' first
    | with_reducible assumption | extract_lets | intro _ | with_reducible exact kept_of_snd ‹_› ‹_› | with_reducible apply State.evacuate_kept
    | with_reducible apply State.addReg_kept | with_reducible apply State.startErases_kept | with_reducible apply State.moveDirect_kept
    | with_reducible apply kept_each | with_reducible apply kept_ite | with_reducible apply kept_ite_snd2 | with_reducible apply kept_ite_snd
    | with_reducible apply keptF_self | with_reducible apply keptF_put | with_reducible apply keptF_sput | with_reducible apply keptF_sputs
    | with_reducible apply keptF_zero | with_reducible apply keptF_nil | with_reducible apply keptF_filter | with_reducible apply kept_foldl_snd
    | with_reducible apply kept_foldl | with_reducible refine kept_of_snd ‹_› ?_ | split | dsimp only [kept_mk] | dsimp +zetaDelta only [kept_mk]

theorem State.failReaders_kept {o : State} {x0 : State} {x1 : Nat} (h : Kept o x0) :
    Kept o (State.failReaders x0 x1) := by
  unfold State.failReaders
  repeat' first
    | with_reducible assumption | extract_lets | intro _ | with_reducible exact kept_of_snd ‹_› ‹_› | with_reducible apply State.failCore_kept
    | with_reducible apply kept_each | with_reducible apply kept_ite | with_reducible apply kept_ite_snd2 | with_reducible apply kept_ite_snd
    | with_reducible apply keptF_self | with_reducible apply keptF_put | with_reducible apply keptF_sput | with_reducible apply keptF_sputs
    | with_reducible apply keptF_zero | with_reducible apply keptF_nil | with_reducible apply keptF_filter | with_reducible apply kept_foldl_snd
    | with_reducible apply kept_foldl | with_reducible refine kept_of_snd ‹_› ?_ | split | dsimp only [kept_mk] | dsimp +zetaDelta only [kept_mk]

theorem State.poisonPage_kept {o : State} {x0 : State} {x1 : Nat} {x2 : Nat} (h : Kept o x0) :
    Kept o (State.poisonPage x0 x1 x2) := by
  unfold State.poisonPage
  repeat' first
    | with_reducible assumption | extract_lets | intro _ | with_reducible exact kept_of_snd ‹_› ‹_› | with_reducible apply State.evict_kept
    | with_reducible apply State.raise_kept | with_reducible apply State.failReaders_kept | with_reducible apply State.raiseEvent_kept
    | with_reducible apply State.recordLost_kept | with_reducible apply kept_each | with_reducible apply kept_ite | with_reducible apply kept_ite_snd2
    | with_reducible apply kept_ite_snd | with_reducible apply keptF_self | with_reducible apply keptF_put | with_reducible apply keptF_sput
    | with_reducible apply keptF_sputs | with_reducible apply keptF_zero | with_reducible apply keptF_nil | with_reducible apply keptF_filter
    | with_reducible apply kept_foldl_snd | with_reducible apply kept_foldl | with_reducible refine kept_of_snd ‹_› ?_ | split | dsimp only [kept_mk]
    | dsimp +zetaDelta only [kept_mk]

theorem State.loseUnit_kept {o : State} {x0 : State} {x1 : Nat} {x2 : Nat} (h : Kept o x0) :
    Kept o (State.loseUnit x0 x1 x2) := by
  unfold State.loseUnit
  repeat' first
    | with_reducible assumption | extract_lets | intro _ | with_reducible apply State.poisonPage_kept | with_reducible apply State.setNs_kept
    | with_reducible apply State.modNs_kept | with_reducible apply State.raiseEvent_kept | with_reducible apply State.recordLost_kept
    | with_reducible apply kept_ite | with_reducible apply keptF_self | split | dsimp only [kept_mk]

theorem State.trainingFails_kept {o : State} {x0 : State} {x1 : Nat} (h : Kept o x0) :
    Kept o (State.trainingFails x0 x1) := by
  unfold State.trainingFails
  repeat' first
    | with_reducible assumption | extract_lets | intro _ | with_reducible exact kept_of_snd ‹_› ‹_› | with_reducible apply State.modChan_kept
    | with_reducible apply State.retireDie_kept | with_reducible apply State.mediaFault_kept | with_reducible apply kept_each
    | with_reducible apply kept_ite | with_reducible apply kept_ite_snd2 | with_reducible apply kept_ite_snd | with_reducible apply keptF_self
    | with_reducible apply keptF_put | with_reducible apply keptF_sput | with_reducible apply keptF_sputs | with_reducible apply keptF_zero
    | with_reducible apply keptF_nil | with_reducible apply keptF_filter | with_reducible apply kept_foldl_snd | with_reducible apply kept_foldl
    | with_reducible refine kept_of_snd ‹_› ?_ | split | dsimp only [kept_mk] | dsimp +zetaDelta only [kept_mk]

theorem State.corrected_kept {o : State} {x0 : State} {x1 : Nat} (h : Kept o x0) :
    Kept o (State.corrected x0 x1) := by
  unfold State.corrected
  repeat' first
    | with_reducible assumption | with_reducible apply State.modDie_kept | dsimp only

theorem State.scheduleRefresh_kept {o : State} {x0 : State} {x1 : Nat} (h : Kept o x0) :
    Kept o (State.scheduleRefresh x0 x1) := by
  unfold State.scheduleRefresh
  repeat' first
    | with_reducible assumption | extract_lets | intro _ | with_reducible apply kept_ite | with_reducible apply keptF_self | split
    | dsimp only [kept_mk]

theorem State.retried_kept {o : State} {x0 : State} {x1 : Nat} (h : Kept o x0) :
    Kept o (State.retried x0 x1) := by
  unfold State.retried
  repeat' first
    | with_reducible assumption | with_reducible apply State.modDie_kept | with_reducible apply State.addReg_kept | dsimp only

theorem State.recoverWord_kept {o : State} {x0 : Ppa} {x1 : Recovery} {x2 : State} (h : Kept o x2) :
    Kept o (State.recoverWord x0 x1 x2) := by
  unfold State.recoverWord
  repeat' first
    | with_reducible assumption | extract_lets | intro _ | with_reducible apply State.corrected_kept | with_reducible apply State.scheduleRefresh_kept
    | with_reducible apply State.retried_kept | with_reducible apply State.modDie_kept | with_reducible apply State.addReg_kept
    | with_reducible apply kept_ite | with_reducible apply keptF_self | split | dsimp only [kept_mk]

theorem State.loseMap_kept {o : State} {x0 : State} {x1 : Nat} (h : Kept o x0) :
    Kept o (State.loseMap x0 x1) := by
  unfold State.loseMap
  repeat' first
    | with_reducible assumption | extract_lets | intro _ | with_reducible exact kept_of_snd ‹_› ‹_› | with_reducible apply State.loseUnit_kept
    | with_reducible apply kept_each | with_reducible apply kept_ite | with_reducible apply kept_ite_snd2 | with_reducible apply kept_ite_snd
    | with_reducible apply keptF_self | with_reducible apply keptF_put | with_reducible apply keptF_sput | with_reducible apply keptF_sputs
    | with_reducible apply keptF_zero | with_reducible apply keptF_nil | with_reducible apply keptF_filter | with_reducible apply kept_foldl_snd
    | with_reducible apply kept_foldl | with_reducible refine kept_of_snd ‹_› ?_ | split | dsimp only [kept_mk] | dsimp +zetaDelta only [kept_mk]

theorem State.losePage_kept {o : State} {x0 : State} {x1 : Ppa} (h : Kept o x0) :
    Kept o (State.losePage x0 x1) := by
  unfold State.losePage
  repeat' first
    | with_reducible assumption | extract_lets | intro _ | with_reducible apply State.setFblk_kept | with_reducible apply State.movePages_kept
    | with_reducible apply State.setFld_kept | with_reducible apply State.mediaFault_kept | with_reducible apply State.loseUnit_kept
    | with_reducible apply State.remap_kept | with_reducible apply State.loseMap_kept | with_reducible apply kept_ite
    | with_reducible apply keptF_self | split | dsimp only [kept_mk]

theorem State.collect_kept {o : State} {x0 : State} (h : Kept o x0) :
    Kept o (State.collect x0) := by
  unfold State.collect
  repeat' first
    | with_reducible assumption | extract_lets | intro _ | with_reducible apply State.startErases_kept | with_reducible apply State.evacuate_kept
    | with_reducible apply kept_ite | with_reducible apply keptF_self | split | dsimp only [kept_mk]

theorem State.fold_kept {o : State} {x0 : State} {x1 : Ppa} {x2 : Nat} (h : Kept o x0) :
    Kept o (State.fold x0 x1 x2) := by
  unfold State.fold
  repeat' first
    | with_reducible assumption | extract_lets | intro _ | with_reducible exact kept_of_snd ‹_› ‹_› | with_reducible apply State.moveUnit_kept
    | with_reducible apply State.dropPage_kept | with_reducible apply State.chargeHouse_kept | with_reducible apply State.addReg_kept
    | with_reducible apply State.startErases_kept | with_reducible apply State.queueErase_kept | with_reducible apply kept_each
    | with_reducible apply kept_ite | with_reducible apply kept_ite_snd2 | with_reducible apply kept_ite_snd | with_reducible apply keptF_self
    | with_reducible apply keptF_put | with_reducible apply keptF_sput | with_reducible apply keptF_sputs | with_reducible apply keptF_zero
    | with_reducible apply keptF_nil | with_reducible apply keptF_filter | with_reducible apply kept_foldl_snd | with_reducible apply kept_foldl
    | with_reducible refine kept_of_snd ‹_› ?_ | split | dsimp only [kept_mk] | dsimp +zetaDelta only [kept_mk]

theorem State.readReaches_kept {o : State} {x0 : State} {x1 : Nat} {x2 : Bool} (h : Kept o x0) :
    Kept o (State.readReaches x0 x1 x2) := by
  unfold State.readReaches
  repeat' first
    | with_reducible assumption | extract_lets | intro _ | with_reducible apply State.suspendErase_kept | with_reducible apply kept_ite
    | with_reducible apply keptF_self | split | dsimp only [kept_mk]

theorem State.rebuildReads_kept {o : State} {x0 : State} {x1 : Ppa} (h : Kept o x0) :
    Kept o (State.rebuildReads x0 x1) := by
  unfold State.rebuildReads
  repeat' first
    | with_reducible assumption | extract_lets | intro _ | with_reducible exact kept_of_snd ‹_› ‹_› | with_reducible apply State.modDie_kept
    | with_reducible apply State.readReaches_kept | with_reducible apply State.chargeHouse_kept | with_reducible apply State.addReg_kept
    | with_reducible apply kept_each | with_reducible apply kept_ite | with_reducible apply kept_ite_snd2 | with_reducible apply kept_ite_snd
    | with_reducible apply keptF_self | with_reducible apply keptF_put | with_reducible apply keptF_sput | with_reducible apply keptF_sputs
    | with_reducible apply keptF_zero | with_reducible apply keptF_nil | with_reducible apply keptF_filter | with_reducible apply kept_foldl_snd
    | with_reducible apply kept_foldl | with_reducible refine kept_of_snd ‹_› ?_ | split | dsimp only [kept_mk] | dsimp +zetaDelta only [kept_mk]

theorem State.readAround_kept {o : State} {x0 : State} {x1 : Ppa} {x2 : Bool} (h : Kept o x0) :
    Kept o (State.readAround x0 x1 x2) := by
  unfold State.readAround
  repeat' first
    | with_reducible assumption | extract_lets | intro _ | with_reducible apply State.modDie_kept | with_reducible apply State.addReg_kept
    | with_reducible apply State.rebuildReads_kept | with_reducible apply State.scheduleRefresh_kept | with_reducible apply kept_ite
    | with_reducible apply keptF_self | split | dsimp only [kept_mk]

theorem State.progCharge_kept {o : State} {x0 : State} {x1 : ProgKind} (h : Kept o x0) :
    Kept o (State.progCharge x0 x1) := by
  unfold State.progCharge
  repeat' first
    | with_reducible assumption | extract_lets | intro _ | with_reducible apply State.chargeHouse_kept | with_reducible apply kept_ite
    | with_reducible apply keptF_self | split | dsimp only [kept_mk]

theorem State.progUse_kept {o : State} {x0 : State} {x1 : Ppa} {x2 : Bool} {x3 : ProgKind} (h : Kept o x0) :
    Kept o (State.progUse x0 x1 x2 x3) := by
  unfold State.progUse
  repeat' first
    | with_reducible assumption | extract_lets | intro _ | with_reducible exact kept_of_snd ‹_› ‹_› | with_reducible apply State.remap_kept
    | with_reducible apply State.dropPage_kept | with_reducible apply kept_each | with_reducible apply kept_ite | with_reducible apply kept_ite_snd2
    | with_reducible apply kept_ite_snd | with_reducible apply keptF_self | with_reducible apply keptF_put | with_reducible apply keptF_sput
    | with_reducible apply keptF_sputs | with_reducible apply keptF_zero | with_reducible apply keptF_nil | with_reducible apply keptF_filter
    | with_reducible apply kept_foldl_snd | with_reducible apply kept_foldl | with_reducible refine kept_of_snd ‹_› ?_ | split | dsimp only [kept_mk]
    | dsimp +zetaDelta only [kept_mk]

theorem State.programDone_kept {o : State} {x0 : State} {x1 : Ppa} {x2 : Bool} {x3 : ProgKind} {x4 : Bool} {x5 : List Nat} (h : Kept o x0) :
    Kept o (State.programDone x0 x1 x2 x3 x4 x5) := by
  unfold State.programDone
  repeat' first
    | with_reducible assumption | extract_lets | intro _ | with_reducible apply State.modChan_kept | with_reducible apply State.addReg_kept
    | with_reducible apply State.openBlk_kept | with_reducible apply State.progCharge_kept | with_reducible apply State.modDie_kept
    | with_reducible apply State.movePages_kept | with_reducible apply State.setFblk_kept | with_reducible apply State.progUse_kept
    | with_reducible apply State.mediaFault_kept | with_reducible apply State.growBad_kept | with_reducible apply kept_ite
    | with_reducible apply keptF_self | split | dsimp only [kept_mk]

theorem State.readBack_kept {o : State} {x0 : State} {x1 : Ppa} {x2 : Nat} {x3 : Bool} (h : Kept o x0) :
    Kept o (State.readBack x0 x1 x2 x3) := by
  unfold State.readBack
  repeat' first
    | with_reducible assumption | extract_lets | intro _ | with_reducible exact kept_of_snd ‹_› ‹_› | with_reducible apply State.chargeHouse_kept
    | with_reducible apply State.addReg_kept | with_reducible apply State.readReaches_kept | with_reducible apply State.modDie_kept
    | with_reducible apply State.moveUnit_kept | with_reducible apply State.dropPage_kept | with_reducible apply State.setFblk_kept
    | with_reducible apply State.mediaFault_kept | with_reducible apply State.scheduleRefresh_kept | with_reducible apply kept_each
    | with_reducible apply kept_ite | with_reducible apply kept_ite_snd2 | with_reducible apply kept_ite_snd | with_reducible apply keptF_self
    | with_reducible apply keptF_put | with_reducible apply keptF_sput | with_reducible apply keptF_sputs | with_reducible apply keptF_zero
    | with_reducible apply keptF_nil | with_reducible apply keptF_filter | with_reducible apply kept_foldl_snd | with_reducible apply kept_foldl
    | with_reducible refine kept_of_snd ‹_› ?_ | split | dsimp only [kept_mk] | dsimp +zetaDelta only [kept_mk]

theorem State.takeCap_kept {o : State} {x0 : State} (h : Kept o x0) :
    Kept o (State.takeCap x0) := by
  unfold State.takeCap
  repeat' first
    | with_reducible assumption | extract_lets | intro _ | with_reducible apply kept_ite | with_reducible apply keptF_self | split
    | dsimp only [kept_mk]

theorem State.holdup_kept {o : State} {x0 : State} {x1 : Nat} (h : Kept o x0) :
    Kept o (State.holdup x0 x1) := by
  unfold State.holdup
  repeat' first
    | with_reducible assumption | extract_lets | intro _ | with_reducible apply State.takeCap_kept | with_reducible apply kept_ite
    | with_reducible apply keptF_self | split | dsimp only [kept_mk]

theorem State.pageRead_kept {o : State} {x0 : State} {x1 : Ppa} {x2 : List Recovery} {x3 : Option Ppa} (h : Kept o x0) :
    Kept o (State.pageRead x0 x1 x2 x3) := by
  unfold State.pageRead
  repeat' first
    | with_reducible assumption | extract_lets | intro _ | with_reducible exact kept_of_snd ‹_› ‹_› | with_reducible apply State.addReg_kept
    | with_reducible apply State.readReaches_kept | with_reducible apply State.modDie_kept | with_reducible apply State.modChan_kept
    | with_reducible apply State.recoverWord_kept | with_reducible apply State.rebuildReads_kept | with_reducible apply State.losePage_kept
    | with_reducible apply State.mediaFault_kept | with_reducible apply kept_each | with_reducible apply kept_ite | with_reducible apply kept_ite_snd2
    | with_reducible apply kept_ite_snd | with_reducible apply keptF_self | with_reducible apply keptF_put | with_reducible apply keptF_sput
    | with_reducible apply keptF_sputs | with_reducible apply keptF_zero | with_reducible apply keptF_nil | with_reducible apply keptF_filter
    | with_reducible apply kept_foldl_snd | with_reducible apply kept_foldl | with_reducible refine kept_of_snd ‹_› ?_ | split | dsimp only [kept_mk]
    | dsimp +zetaDelta only [kept_mk]

theorem State.eraseDone_kept {o : State} {x0 : State} {x1 : Ppa} {x2 : Bool} (h : Kept o x0) :
    Kept o (State.eraseDone x0 x1 x2) := by
  unfold State.eraseDone
  repeat' first
    | with_reducible assumption | extract_lets | intro _ | with_reducible exact kept_of_snd ‹_› ‹_› | with_reducible apply State.modChan_kept
    | with_reducible apply State.chargeHouse_kept | with_reducible apply State.addReg_kept | with_reducible apply State.movePages_kept
    | with_reducible apply State.setFld_kept | with_reducible apply State.setFblk_kept | with_reducible apply State.lifeCheck_kept
    | with_reducible apply State.setFree_kept | with_reducible apply State.growBad_kept | with_reducible apply State.modDie_kept
    | with_reducible apply State.mediaFault_kept | with_reducible apply State.startErases_kept | with_reducible apply State.eraseOver_kept
    | with_reducible apply kept_each | with_reducible apply kept_ite | with_reducible apply kept_ite_snd2 | with_reducible apply kept_ite_snd
    | with_reducible apply keptF_self | with_reducible apply keptF_put | with_reducible apply keptF_sput | with_reducible apply keptF_sputs
    | with_reducible apply keptF_zero | with_reducible apply keptF_nil | with_reducible apply keptF_filter | with_reducible apply kept_foldl_snd
    | with_reducible apply kept_foldl | with_reducible refine kept_of_snd ‹_› ?_ | split | dsimp only [kept_mk] | dsimp +zetaDelta only [kept_mk]

theorem State.mediaOn_kept {o : State} {x0 : State} (h : Kept o x0) :
    Kept o (State.mediaOn x0) := by
  unfold State.mediaOn
  repeat' first
    | with_reducible assumption | with_reducible apply State.runAll_kept | with_reducible apply State.runStalled_kept
    | with_reducible apply State.writesDone_kept | with_reducible apply State.takeCap_kept | dsimp only

theorem State.eraseResume_kept {o : State} {x0 : State} {x1 : Ppa} (h : Kept o x0) :
    Kept o (State.eraseResume x0 x1) := by
  unfold State.eraseResume
  repeat' first
    | with_reducible assumption | extract_lets | intro _ | with_reducible apply State.setFblk_kept | with_reducible apply kept_ite
    | with_reducible apply keptF_self | split | dsimp only [kept_mk]

theorem State.contribution_kept {o : State} {x0 : State} {x1 : Nat} {x2 : Nat} {x3 : Nat} {x4 : Nat} {x5 : List (List Byte)} (h : Kept o x0) :
    Kept o (State.contribution x0 x1 x2 x3 x4 x5) := by
  unfold State.contribution
  repeat' first
    | with_reducible assumption | extract_lets | intro _ | with_reducible apply State.contribute_kept | with_reducible apply kept_ite
    | with_reducible apply keptF_self | split | dsimp only [kept_mk]

theorem State.openInst_kept {o : State} {x0 : State} {x1 : Nat} {x2 : Nat} {x3 : Nat} {x4 : Nat} {x5 : List (List Byte)} (h : Kept o x0) :
    Kept o (State.openInst x0 x1 x2 x3 x4 x5) := by
  unfold State.openInst
  repeat' first
    | with_reducible assumption | extract_lets | intro _ | with_reducible apply State.contribution_kept | with_reducible apply kept_ite
    | with_reducible apply keptF_self | split | dsimp only [kept_mk]

theorem State.sendGoes_kept {o : State} {x0 : State} {x1 : Nat} {x2 : Nat} (h : Kept o x0) :
    Kept o (State.sendGoes x0 x1 x2) := by
  unfold State.sendGoes
  repeat' first
    | with_reducible assumption | extract_lets | intro _ | with_reducible exact kept_of_snd ‹_› ‹_› | with_reducible apply State.resumeHx_kept
    | with_reducible apply kept_each | with_reducible apply kept_ite | with_reducible apply kept_ite_snd2 | with_reducible apply kept_ite_snd
    | with_reducible apply keptF_self | with_reducible apply keptF_put | with_reducible apply keptF_sput | with_reducible apply keptF_sputs
    | with_reducible apply keptF_zero | with_reducible apply keptF_nil | with_reducible apply keptF_filter | with_reducible apply kept_foldl_snd
    | with_reducible apply kept_foldl | with_reducible refine kept_of_snd ‹_› ?_ | split | dsimp only [kept_mk] | dsimp +zetaDelta only [kept_mk]

theorem State.creditBack_kept {o : State} {x0 : State} {x1 : Nat} {x2 : Nat} (h : Kept o x0) :
    Kept o (State.creditBack x0 x1 x2) := by
  unfold State.creditBack
  repeat' first
    | with_reducible assumption | extract_lets | intro _ | with_reducible apply State.sendGoes_kept | with_reducible apply State.tick_kept
    | with_reducible apply State.setFld_kept | with_reducible apply State.tally_kept | with_reducible apply State.setRing_kept
    | with_reducible apply kept_ite | with_reducible apply keptF_self | split | dsimp only [kept_mk]

theorem State.lateExpiry_kept {o : State} {x0 : State} {x1 : Nat} {x2 : Nat} {x3 : Nat} (h : Kept o x0) :
    Kept o (State.lateExpiry x0 x1 x2 x3) := by
  unfold State.lateExpiry
  repeat' first
    | with_reducible assumption | extract_lets | intro _ | with_reducible apply State.closeInst_kept | with_reducible apply kept_ite
    | with_reducible apply keptF_self | split | dsimp only [kept_mk]

theorem State.recvGoes_kept {o : State} {x0 : State} {x1 : Nat} {x2 : Nat} (h : Kept o x0) :
    Kept o (State.recvGoes x0 x1 x2) := by
  unfold State.recvGoes
  repeat' first
    | with_reducible assumption | extract_lets | intro _ | with_reducible exact kept_of_snd ‹_› ‹_› | with_reducible apply State.resumeHx_kept
    | with_reducible apply State.resumeRow_kept | with_reducible apply kept_each | with_reducible apply kept_ite | with_reducible apply kept_ite_snd2
    | with_reducible apply kept_ite_snd | with_reducible apply keptF_self | with_reducible apply keptF_put | with_reducible apply keptF_sput
    | with_reducible apply keptF_sputs | with_reducible apply keptF_zero | with_reducible apply keptF_nil | with_reducible apply keptF_filter
    | with_reducible apply kept_foldl_snd | with_reducible apply kept_foldl | with_reducible refine kept_of_snd ‹_› ?_ | split | dsimp only [kept_mk]
    | dsimp +zetaDelta only [kept_mk]

theorem State.reduceClose_kept {o : State} {x0 : State} {x1 : Nat} {x2 : Nat} {x3 : Nat} (h : Kept o x0) :
    Kept o (State.reduceClose x0 x1 x2 x3) := by
  unfold State.reduceClose
  repeat' first
    | with_reducible assumption | extract_lets | intro _ | with_reducible apply State.closeInst_kept | with_reducible apply kept_ite
    | with_reducible apply keptF_self | split | dsimp only [kept_mk]

theorem State.landLines_kept {o : State} {x0 : State} {x1 : Nat} {x2 : Nat} {x3 : Nat} {x4 : Nat} {x5 : MarkedLines} (h : Kept o x0) :
    Kept o (State.landLines x0 x1 x2 x3 x4 x5) := by
  unfold State.landLines
  repeat' first
    | with_reducible assumption | extract_lets | intro _ | with_reducible exact kept_of_snd ‹_› ‹_› | with_reducible apply State.sramWrite_kept
    | with_reducible apply kept_each | with_reducible apply kept_ite | with_reducible apply kept_ite_snd2 | with_reducible apply kept_ite_snd
    | with_reducible apply keptF_self | with_reducible apply keptF_put | with_reducible apply keptF_sput | with_reducible apply keptF_sputs
    | with_reducible apply keptF_zero | with_reducible apply keptF_nil | with_reducible apply keptF_filter | with_reducible apply kept_foldl_snd
    | with_reducible apply kept_foldl | with_reducible refine kept_of_snd ‹_› ?_ | split | dsimp only [kept_mk] | dsimp +zetaDelta only [kept_mk]

theorem State.harnLines_kept {o : State} {x0 : State} {x1 : Nat} {x2 : Nat} {x3 : Nat} {x4 : MarkedLines} (h : Kept o x0) :
    Kept o (State.harnLines x0 x1 x2 x3 x4) := by
  unfold State.harnLines
  repeat' first
    | with_reducible assumption | extract_lets | intro _ | with_reducible apply State.landLines_kept | with_reducible apply State.setRing_kept
    | with_reducible apply State.recvGoes_kept | with_reducible apply State.tally_kept | with_reducible apply kept_ite
    | with_reducible apply keptF_self | split | dsimp only [kept_mk]

theorem State.recordLands_kept {o : State} {x0 : State} {x1 : Nat} {x2 : Nat} (h : Kept o x0) :
    Kept o (State.recordLands x0 x1 x2) := by
  unfold State.recordLands
  repeat' first
    | with_reducible assumption | extract_lets | intro _ | with_reducible apply State.landLines_kept | with_reducible apply State.recvGoes_kept
    | with_reducible apply State.setRing_kept | with_reducible apply kept_ite | with_reducible apply keptF_self | split | dsimp only [kept_mk]

theorem State.nextSeq_kept {o : State} {x0 : State} {x1 : Nat} {x2 : Nat} (h : Kept o x0) :
    Kept o (State.nextSeq x0 x1 x2) := by
  unfold State.nextSeq
  repeat' first
    | with_reducible assumption | with_reducible apply State.setLink_kept | dsimp only

theorem State.harnArrives_kept {o : State} {x0 : State} {x1 : Flit} (h : Kept o x0) :
    Kept o (State.harnArrives x0 x1) := by
  unfold State.harnArrives
  repeat' first
    | with_reducible assumption | extract_lets | intro _ | with_reducible apply State.harnLines_kept | with_reducible apply State.remoteViolation_kept
    | with_reducible apply kept_ite | with_reducible apply keptF_self | split | dsimp only [kept_mk]

theorem State.tellDown_kept {o : State} {x0 : State} {x1 : Nat} (h : Kept o x0) :
    Kept o (State.tellDown x0 x1) := by
  unfold State.tellDown
  repeat' first
    | with_reducible assumption | extract_lets | intro _ | with_reducible exact kept_of_snd ‹_› ‹_› | with_reducible apply State.sendCtrl_kept
    | with_reducible apply kept_each | with_reducible apply kept_ite | with_reducible apply kept_ite_snd2 | with_reducible apply kept_ite_snd
    | with_reducible apply keptF_self | with_reducible apply keptF_put | with_reducible apply keptF_sput | with_reducible apply keptF_sputs
    | with_reducible apply keptF_zero | with_reducible apply keptF_nil | with_reducible apply keptF_filter | with_reducible apply kept_foldl_snd
    | with_reducible apply kept_foldl | with_reducible refine kept_of_snd ‹_› ?_ | split | dsimp only [kept_mk] | dsimp +zetaDelta only [kept_mk]

theorem State.relock_kept {o : State} {x0 : State} (h : Kept o x0) :
    Kept o (State.relock x0) := by
  unfold State.relock
  repeat' first
    | with_reducible assumption | extract_lets | intro _ | with_reducible apply State.setBit_kept | with_reducible apply kept_ite
    | with_reducible apply keptF_self | split | dsimp only [kept_mk]

theorem State.linkUp_kept {o : State} {x0 : State} {x1 : Nat} {x2 : Nat} (h : Kept o x0) :
    Kept o (State.linkUp x0 x1 x2) := by
  unfold State.linkUp
  repeat' first
    | with_reducible assumption | extract_lets | intro _ | with_reducible apply State.setLink_kept | with_reducible apply State.setLinkState_kept
    | with_reducible apply State.replayLink_kept | with_reducible apply State.setPortState_kept | with_reducible apply State.pumpPort_kept
    | with_reducible apply State.relock_kept | with_reducible apply kept_ite | with_reducible apply keptF_self | split | dsimp only [kept_mk]

theorem State.retrainDone_kept {o : State} {x0 : State} {x1 : Nat} {x2 : Nat} {x3 : Bool} (h : Kept o x0) :
    Kept o (State.retrainDone x0 x1 x2 x3) := by
  unfold State.retrainDone
  repeat' first
    | with_reducible assumption | extract_lets | intro _ | with_reducible apply State.linkUp_kept | with_reducible apply State.addReg_kept
    | with_reducible apply State.setLink_kept | with_reducible apply State.relock_kept | with_reducible apply State.linkDown_kept
    | with_reducible apply kept_ite | with_reducible apply keptF_self | split | dsimp only [kept_mk]

theorem State.sendKilled_kept {o : State} {x0 : State} {x1 : Flit} {x2 : Nat} (h : Kept o x0) :
    Kept o (State.sendKilled x0 x1 x2) := by
  unfold State.sendKilled
  repeat' first
    | with_reducible assumption | extract_lets | intro _ | with_reducible exact kept_of_snd ‹_› ‹_› | with_reducible apply State.setLink_kept
    | with_reducible apply State.tick_kept | with_reducible apply State.setFld_kept | with_reducible apply State.chargeHouse_kept
    | with_reducible apply State.addReg_kept | with_reducible apply kept_each | with_reducible apply kept_ite | with_reducible apply kept_ite_snd2
    | with_reducible apply kept_ite_snd | with_reducible apply keptF_self | with_reducible apply keptF_put | with_reducible apply keptF_sput
    | with_reducible apply keptF_sputs | with_reducible apply keptF_zero | with_reducible apply keptF_nil | with_reducible apply keptF_filter
    | with_reducible apply kept_foldl_snd | with_reducible apply kept_foldl | with_reducible refine kept_of_snd ‹_› ?_ | split | dsimp only [kept_mk]
    | dsimp +zetaDelta only [kept_mk]

theorem State.nakIn_kept {o : State} {x0 : State} {x1 : Nat} {x2 : Nat} {x3 : BitVec 12} (h : Kept o x0) :
    Kept o (State.nakIn x0 x1 x2 x3) := by
  unfold State.nakIn
  repeat' first
    | with_reducible assumption | extract_lets | intro _ | with_reducible apply State.takeAck_kept | with_reducible apply State.retrain_kept
    | with_reducible apply State.replayLink_kept | with_reducible apply kept_ite | with_reducible apply keptF_self | split | dsimp only [kept_mk]

theorem State.trailerIn_kept {o : State} {x0 : State} {x1 : Nat} {x2 : Nat} {x3 : Flit} (h : Kept o x0) :
    Kept o (State.trailerIn x0 x1 x2 x3) := by
  unfold State.trailerIn
  repeat' first
    | with_reducible assumption | extract_lets | intro _ | with_reducible apply State.nakIn_kept | with_reducible apply State.takeAck_kept
    | with_reducible apply State.pumpPort_kept | with_reducible apply State.takeCredits_kept | with_reducible apply kept_ite
    | with_reducible apply keptF_self | split | dsimp only [kept_mk]

theorem State.refuseFlit_kept {o : State} {x0 : State} {x1 : Nat} {x2 : Nat} (h : Kept o x0) :
    Kept o (State.refuseFlit x0 x1 x2) := by
  unfold State.refuseFlit
  repeat' first
    | with_reducible assumption | extract_lets | intro _ | with_reducible apply State.sendIdle_kept | with_reducible apply kept_ite
    | with_reducible apply keptF_self | split | dsimp only [kept_mk]

theorem State.acceptSeq_kept {o : State} {x0 : State} {x1 : Nat} {x2 : Nat} {x3 : BitVec 2} (h : Kept o x0) :
    Kept o (State.acceptSeq x0 x1 x2 x3) := by
  unfold State.acceptSeq
  repeat' first
    | with_reducible assumption | with_reducible apply State.nextSeq_kept | with_reducible apply State.setLink_kept | dsimp only

theorem State.putArrives_kept {o : State} {x0 : State} {x1 : Flit} (h : Kept o x0) :
    Kept o (State.putArrives x0 x1) := by
  unfold State.putArrives
  repeat' first
    | with_reducible assumption | extract_lets | intro _ | with_reducible exact kept_of_snd ‹_› ‹_› | with_reducible apply State.remoteWrite_kept
    | with_reducible apply State.shardArrives_kept | with_reducible apply State.sendFlit_kept | with_reducible apply kept_each
    | with_reducible apply kept_ite | with_reducible apply kept_ite_snd2 | with_reducible apply kept_ite_snd | with_reducible apply keptF_self
    | with_reducible apply keptF_put | with_reducible apply keptF_sput | with_reducible apply keptF_sputs | with_reducible apply keptF_zero
    | with_reducible apply keptF_nil | with_reducible apply keptF_filter | with_reducible apply kept_foldl_snd | with_reducible apply kept_foldl
    | with_reducible refine kept_of_snd ‹_› ?_ | split | dsimp only [kept_mk] | dsimp +zetaDelta only [kept_mk]

theorem State.getArrives_kept {o : State} {x0 : State} {x1 : Flit} (h : Kept o x0) :
    Kept o (State.getArrives x0 x1) := by
  unfold State.getArrives
  repeat' first
    | with_reducible assumption | extract_lets | intro _ | with_reducible exact kept_of_snd ‹_› ‹_› | with_reducible apply State.remoteLines_kept
    | with_reducible apply State.sendFlit_kept | with_reducible apply kept_each | with_reducible apply kept_ite | with_reducible apply kept_ite_snd2
    | with_reducible apply kept_ite_snd | with_reducible apply keptF_self | with_reducible apply keptF_put | with_reducible apply keptF_sput
    | with_reducible apply keptF_sputs | with_reducible apply keptF_zero | with_reducible apply keptF_nil | with_reducible apply keptF_filter
    | with_reducible apply kept_foldl_snd | with_reducible apply kept_foldl | with_reducible refine kept_of_snd ‹_› ?_ | split | dsimp only [kept_mk]
    | dsimp +zetaDelta only [kept_mk]

theorem State.answerArrives_kept {o : State} {x0 : State} {x1 : Flit} (h : Kept o x0) :
    Kept o (State.answerArrives x0 x1) := by
  unfold State.answerArrives
  repeat' first
    | with_reducible assumption | extract_lets | intro _ | with_reducible apply State.endTxn_kept | with_reducible apply State.getLines_kept
    | with_reducible apply State.refuseAsk_kept | with_reducible apply kept_ite | with_reducible apply keptF_self | split | dsimp only [kept_mk]

theorem State.eject_kept {o : State} {x0 : State} {x1 : Flit} (h : Kept o x0) :
    Kept o (State.eject x0 x1) := by
  unfold State.eject
  repeat' first
    | with_reducible assumption | extract_lets | intro _ | with_reducible apply State.addReg_kept | with_reducible apply State.putArrives_kept
    | with_reducible apply State.getArrives_kept | with_reducible apply State.answerArrives_kept | with_reducible apply State.collArrive_kept
    | with_reducible apply State.harnArrives_kept | with_reducible apply kept_ite | with_reducible apply keptF_self | split | dsimp only [kept_mk]

theorem State.flitIn_kept {o : State} {x0 : State} {x1 : Nat} {x2 : Nat} {x3 : Flit} {x4 : Bool} (h : Kept o x0) :
    Kept o (State.flitIn x0 x1 x2 x3 x4) := by
  unfold State.flitIn
  repeat' first
    | with_reducible assumption | extract_lets | intro _ | with_reducible apply State.payBack_kept | with_reducible apply State.setLink_kept
    | with_reducible apply State.addReg_kept | with_reducible apply State.refuseFlit_kept | with_reducible apply State.sendKilled_kept
    | with_reducible apply State.trailerIn_kept | with_reducible apply State.nextSeq_kept | with_reducible apply State.acceptSeq_kept
    | with_reducible apply State.raise_kept | with_reducible apply State.eject_kept | with_reducible apply State.sendFlit_kept
    | with_reducible apply kept_ite | with_reducible apply keptF_self | split | dsimp only [kept_mk]

theorem State.ctrlIn_kept {o : State} {x0 : State} {x1 : Nat} {x2 : Nat} (h : Kept o x0) :
    Kept o (State.ctrlIn x0 x1 x2) := by
  unfold State.ctrlIn
  repeat' first
    | with_reducible assumption | with_reducible apply State.addReg_kept | with_reducible apply State.acceptSeq_kept | dsimp only

theorem State.noticeIn_kept {o : State} {x0 : State} {x1 : Nat} {x2 : Nat} {x3 : Nat} {x4 : Nat} {x5 : Nat} {x6 : Nat} (h : Kept o x0) :
    Kept o (State.noticeIn x0 x1 x2 x3 x4 x5 x6) := by
  unfold State.noticeIn
  repeat' first
    | with_reducible assumption | extract_lets | intro _ | with_reducible exact kept_of_snd ‹_› ‹_› | with_reducible apply State.ctrlIn_kept
    | with_reducible apply State.setReg_kept | with_reducible apply State.fire_kept | with_reducible apply State.broke_kept
    | with_reducible apply State.passNotice_kept | with_reducible apply kept_each | with_reducible apply kept_ite | with_reducible apply kept_ite_snd2
    | with_reducible apply kept_ite_snd | with_reducible apply keptF_self | with_reducible apply keptF_put | with_reducible apply keptF_sput
    | with_reducible apply keptF_sputs | with_reducible apply keptF_zero | with_reducible apply keptF_nil | with_reducible apply keptF_filter
    | with_reducible apply kept_foldl_snd | with_reducible apply kept_foldl | with_reducible refine kept_of_snd ‹_› ?_ | split | dsimp only [kept_mk]
    | dsimp +zetaDelta only [kept_mk]

theorem State.flitOf_kept {o : State} {x0 : State} {x1 : LinkId} {x2 : BitVec 8} {x3 : Flit} (h : Kept o x0) :
    Kept o (State.flitOf x0 x1 x2 x3) := by
  unfold State.flitOf
  repeat' first
    | with_reducible assumption | with_reducible apply State.runAll_kept | with_reducible apply State.flitIn_kept | dsimp only

theorem State.handover_kept {o : State} {x0 : State} {x1 : Nat} {x2 : Nat} {x3 : Nat} {x4 : BitVec 12} (h : Kept o x0) :
    Kept o (State.handover x0 x1 x2 x3 x4) := by
  unfold State.handover
  repeat' first
    | with_reducible assumption | extract_lets | intro _ | with_reducible apply State.ctrlIn_kept | with_reducible apply State.setLink_kept
    | with_reducible apply State.pumpPort_kept | with_reducible apply kept_ite | with_reducible apply keptF_self | split | dsimp only [kept_mk]

theorem State.authenticated_kept {o : State} {x0 : State} {x1 : Nat} {x2 : PeerId} (h : Kept o x0) :
    Kept o (State.authenticated x0 x1 x2) := by
  unfold State.authenticated
  repeat' first
    | with_reducible assumption | extract_lets | intro _ | with_reducible apply State.setFld_kept | with_reducible apply State.pumpPort_kept
    | with_reducible apply State.tellDown_kept | with_reducible apply State.stage_kept | with_reducible apply State.setPortState_kept
    | with_reducible apply State.broke_kept | with_reducible apply State.raise_kept | with_reducible apply kept_ite | with_reducible apply keptF_self
    | split | dsimp only [kept_mk]

theorem State.portTrain_kept {o : State} {x0 : State} {x1 : Nat} {x2 : Bool} {x3 : BitVec 6} (h : Kept o x0) :
    Kept o (State.portTrain x0 x1 x2 x3) := by
  unfold State.portTrain
  repeat' first
    | with_reducible assumption | extract_lets | intro _ | with_reducible exact kept_of_snd ‹_› ‹_› | with_reducible apply State.linkUp_kept
    | with_reducible apply State.trainLink_kept | with_reducible apply kept_each | with_reducible apply kept_ite | with_reducible apply kept_ite_snd2
    | with_reducible apply kept_ite_snd | with_reducible apply keptF_self | with_reducible apply keptF_put | with_reducible apply keptF_sput
    | with_reducible apply keptF_sputs | with_reducible apply keptF_zero | with_reducible apply keptF_nil | with_reducible apply keptF_filter
    | with_reducible apply kept_foldl_snd | with_reducible apply kept_foldl | with_reducible refine kept_of_snd ‹_› ?_ | split | dsimp only [kept_mk]
    | dsimp +zetaDelta only [kept_mk]

theorem State.setPerst_kept {o : State} {x0 : State} {x1 : Nat} {x2 : Bool} (h : Kept o x0) :
    Kept o (State.setPerst x0 x1 x2) := by
  unfold State.setPerst
  repeat' first
    | with_reducible assumption | with_reducible apply State.modGuard_kept | dsimp only

theorem State.pcieLock_kept {o : State} {x0 : State} (h : Kept o x0) :
    Kept o (State.pcieLock x0) := by
  unfold State.pcieLock
  repeat' first
    | with_reducible assumption | extract_lets | intro _ | with_reducible apply State.setBit_kept | with_reducible apply kept_ite
    | with_reducible apply keptF_self | split | dsimp only [kept_mk]

theorem State.linkActive_kept {o : State} {x0 : State} {x1 : Nat} {x2 : Nat} {x3 : Nat} (h : Kept o x0) :
    Kept o (State.linkActive x0 x1 x2 x3) := by
  unfold State.linkActive
  repeat' first
    | with_reducible assumption | with_reducible apply State.pcieLock_kept | with_reducible apply State.modGuard_kept
    | with_reducible apply State.setBit_kept | with_reducible apply State.setFld_kept | dsimp only

theorem State.perstUp_kept {o : State} {x0 : State} {x1 : Nat} {x2 : Nat} {x3 : Nat} (h : Kept o x0) :
    Kept o (State.perstUp x0 x1 x2 x3) := by
  unfold State.perstUp
  repeat' first
    | with_reducible assumption | extract_lets | intro _ | with_reducible apply State.setPerst_kept | with_reducible apply State.stage_kept
    | with_reducible apply State.linkActive_kept | with_reducible apply kept_ite | with_reducible apply keptF_self | split | dsimp only [kept_mk]

theorem State.burnFuses_kept {o : State} {x0 : Nat} {x1 : State} (h : Kept o x1) : Kept o (State.burnFuses x0 x1) := by
  induction x0 generalizing x1 with
  | zero => simpa only [State.burnFuses] using h
  | succ m ih =>
    rw [State.burnFuses]
    split
    · exact h
    · split
      · rename_i hc
        dsimp only
        split
        · exact State.raise_kept (State.modGuard_kept h)
        · apply ih
          refine ⟨h.1, h.2.1, ⟨Nat.le_succ_of_le h.2.2.1.1, fun _ => ?_⟩, h.2.2.2⟩
          simp only [Bool.and_eq_true, decide_eq_true_eq] at hc
          exact Nat.le_trans hc.2 (Nat.min_le_left _ _)
      · exact h

theorem State.becomeReady_kept {o : State} {x0 : State} {x1 : Nat} (h : Kept o x0) :
    Kept o (State.becomeReady x0 x1) := by
  unfold State.becomeReady
  repeat' first
    | with_reducible assumption | extract_lets | intro _ | with_reducible apply State.modCtrl_kept | with_reducible apply State.burnFuses_kept
    | with_reducible apply State.modGuard_kept | with_reducible apply State.stage_kept | with_reducible apply kept_ite
    | with_reducible apply keptF_self | split | dsimp only [kept_mk]

theorem State.settleCtrl_kept {o : State} {x0 : Nat} {x1 : State} (h : Kept o x1) :
    Kept o (State.settleCtrl x0 x1) := by
  unfold State.settleCtrl
  repeat' first
    | with_reducible assumption | extract_lets | intro _ | with_reducible apply State.modCtrl_kept | with_reducible apply State.becomeReady_kept
    | with_reducible apply kept_ite | with_reducible apply keptF_self | split | dsimp only [kept_mk]

theorem State.closeZone_kept {o : State} {x0 : State} {x1 : Nat} {x2 : Nat} (h : Kept o x0) :
    Kept o (State.closeZone x0 x1 x2) := by
  unfold State.closeZone
  repeat' first
    | with_reducible assumption | extract_lets | intro _ | with_reducible apply State.setNs_kept | with_reducible apply State.raiseEvent_kept
    | with_reducible apply State.recordLost_kept | with_reducible apply State.mediaFault_kept | with_reducible apply kept_ite
    | with_reducible apply keptF_self | split | dsimp only [kept_mk]

theorem State.settleBlk_kept {o : State} {x0 : Nat} {x1 : State} (h : Kept o x1) :
    Kept o (State.settleBlk x0 x1) := by
  unfold State.settleBlk
  repeat' first
    | with_reducible assumption | extract_lets | intro _ | with_reducible exact kept_of_snd ‹_› ‹_› | with_reducible apply State.moveUnit_kept
    | with_reducible apply State.setFblk_kept | with_reducible apply kept_each | with_reducible apply kept_ite | with_reducible apply kept_ite_snd2
    | with_reducible apply kept_ite_snd | with_reducible apply keptF_self | with_reducible apply keptF_put | with_reducible apply keptF_sput
    | with_reducible apply keptF_sputs | with_reducible apply keptF_zero | with_reducible apply keptF_nil | with_reducible apply keptF_filter
    | with_reducible apply kept_foldl_snd | with_reducible apply kept_foldl | with_reducible refine kept_of_snd ‹_› ?_ | split | dsimp only [kept_mk]
    | dsimp +zetaDelta only [kept_mk]

theorem State.settleMedia_kept {o : State} {x0 : State} (h : Kept o x0) :
    Kept o (State.settleMedia x0) := by
  unfold State.settleMedia
  repeat' first
    | with_reducible assumption | extract_lets | intro _ | with_reducible exact kept_of_snd ‹_› ‹_› | with_reducible apply State.closeZone_kept
    | with_reducible apply State.settleBlk_kept | with_reducible apply kept_each | with_reducible apply kept_ite | with_reducible apply kept_ite_snd2
    | with_reducible apply kept_ite_snd | with_reducible apply keptF_self | with_reducible apply keptF_put | with_reducible apply keptF_sput
    | with_reducible apply keptF_sputs | with_reducible apply keptF_zero | with_reducible apply keptF_nil | with_reducible apply keptF_filter
    | with_reducible apply kept_foldl_snd | with_reducible apply kept_foldl | with_reducible refine kept_of_snd ‹_› ?_ | split | dsimp only [kept_mk]
    | dsimp +zetaDelta only [kept_mk]

theorem State.flushed_kept {o : State} {x0 : State} {x1 : Bool} (h : Kept o x0) :
    Kept o (State.flushed x0 x1) := by
  unfold State.flushed
  repeat' first
    | with_reducible assumption | extract_lets | intro _ | with_reducible apply State.mediaFault_kept | with_reducible apply State.writeDump_kept
    | with_reducible apply State.modGuard_kept | with_reducible apply kept_ite | with_reducible apply keptF_self | split | dsimp only [kept_mk]

theorem State.rebuildLedger_kept {o : State} {x0 : State} (h : Kept o x0) :
    Kept o (State.rebuildLedger x0) := by
  unfold State.rebuildLedger
  repeat' first
    | with_reducible assumption | with_reducible apply State.setReg_kept | with_reducible apply State.setFld_kept
    | with_reducible apply State.starveFrom_kept | with_reducible apply State.slcTarget_kept | with_reducible apply State.setSpare_kept | dsimp only

theorem State.losePower_kept {o : State} {x0 : State} (h : Kept o x0) :
    Kept o (State.losePower x0) := by
  unfold State.losePower
  repeat' first
    | with_reducible assumption | extract_lets | intro _ | with_reducible apply State.modGuard_kept | with_reducible apply kept_ite
    | with_reducible apply keptF_self | split | dsimp only [kept_mk]

theorem State.linkDetect_kept {o : State} {x0 : State} {x1 : Nat} (h : Kept o x0) :
    Kept o (State.linkDetect x0 x1) := by
  unfold State.linkDetect
  repeat' first
    | with_reducible assumption | with_reducible apply State.setFld_kept | dsimp only

theorem State.linkRetrains_kept {o : State} {x0 : State} {x1 : Nat} {x2 : Bool} {x3 : Nat} {x4 : Nat} (h : Kept o x0) :
    Kept o (State.linkRetrains x0 x1 x2 x3 x4) := by
  unfold State.linkRetrains
  repeat' first
    | with_reducible assumption | extract_lets | intro _ | with_reducible apply State.setFld_kept | with_reducible apply State.linkActive_kept
    | with_reducible apply State.linkDetect_kept | with_reducible apply kept_ite | with_reducible apply keptF_self | split | dsimp only [kept_mk]

theorem State.enableCtrl_kept {o : State} {x0 : State} {x1 : Nat} (h : Kept o x0) :
    Kept o (State.enableCtrl x0 x1) := by
  unfold State.enableCtrl
  repeat' first
    | with_reducible assumption | extract_lets | intro _ | with_reducible apply State.modCtrl_kept | with_reducible apply State.setFld_kept
    | with_reducible apply State.settleCtrl_kept | with_reducible apply kept_ite | with_reducible apply keptF_self | split | dsimp only [kept_mk]

theorem State.dumpLost_kept {o : State} {x0 : State} (h : Kept o x0) :
    Kept o (State.dumpLost x0) := by
  unfold State.dumpLost
  repeat' first
    | with_reducible assumption | extract_lets | intro _ | with_reducible exact kept_of_snd ‹_› ‹_› | with_reducible apply State.mediaFault_kept
    | with_reducible apply State.loseUnit_kept | with_reducible apply State.dropUnit_kept | with_reducible apply kept_each
    | with_reducible apply kept_ite | with_reducible apply kept_ite_snd2 | with_reducible apply kept_ite_snd | with_reducible apply keptF_self
    | with_reducible apply keptF_put | with_reducible apply keptF_sput | with_reducible apply keptF_sputs | with_reducible apply keptF_zero
    | with_reducible apply keptF_nil | with_reducible apply keptF_filter | with_reducible apply kept_foldl_snd | with_reducible apply kept_foldl
    | with_reducible refine kept_of_snd ‹_› ?_ | split | dsimp only [kept_mk] | dsimp +zetaDelta only [kept_mk]

theorem State.eraseAgain_kept {o : State} {x0 : State} (h : Kept o x0) :
    Kept o (State.eraseAgain x0) := by
  unfold State.eraseAgain
  repeat' first
    | with_reducible assumption | extract_lets | intro _ | with_reducible exact kept_of_snd ‹_› ‹_› | with_reducible apply State.startErases_kept
    | with_reducible apply kept_each | with_reducible apply kept_ite | with_reducible apply kept_ite_snd2 | with_reducible apply kept_ite_snd
    | with_reducible apply keptF_self | with_reducible apply keptF_put | with_reducible apply keptF_sput | with_reducible apply keptF_sputs
    | with_reducible apply keptF_zero | with_reducible apply keptF_nil | with_reducible apply keptF_filter | with_reducible apply kept_foldl_snd
    | with_reducible apply kept_foldl | with_reducible refine kept_of_snd ‹_› ?_ | split | dsimp only [kept_mk] | dsimp +zetaDelta only [kept_mk]

theorem State.portReset_kept {o : State} {x0 : State} {x1 : Nat} (h : Kept o x0) :
    Kept o (State.portReset x0 x1) := by
  unfold State.portReset
  repeat' first
    | with_reducible assumption | extract_lets | intro _ | with_reducible apply State.setPerst_kept | with_reducible apply State.linkDetect_kept
    | with_reducible apply State.resetFn_kept | with_reducible apply kept_ite | with_reducible apply keptF_self | split | dsimp only [kept_mk]

theorem State.mountMedia_kept {o : State} {x0 : State} {x1 : Bool} (h : Kept o x0) : Kept o (State.mountMedia x0 x1) := by
  unfold State.mountMedia
  have he : ∀ l t, Kept o t → Kept o (State.each l State.settleCtrl t) := fun l t ht => kept_each (fun _ _ hu => State.settleCtrl_kept hu) ht
  have hs : Kept o (State.eraseAgain ((State.rebuildLedger (State.dumpLost (State.settleMedia x0))).stage 5)) :=
    State.eraseAgain_kept (State.stage_kept (State.rebuildLedger_kept (State.dumpLost_kept (State.settleMedia_kept h))))
  split
  · exact h
  · refine he _ _ ?_
    split
    · dsimp only
      exact kept_media hs
    · exact State.modGuard_kept (State.raise_kept h)

end Sys2Proof.Machine
end

