-- ==== Sys2Proof/Laws/KeptExec.lean ====
section
/-! SUPPORT. Laws/KeptExec.lean: one lemma per command: the next state it answers has kept what KeptBase names. -/

namespace Sys2Proof.Machine

open Sys2Proof

theorem execPstreamBaseWrite_kept {x0 : CoreId} {x1 : BitVec 3} {x2 : Word} {s : State} : ∀ t, execPstreamBaseWrite x0 x1 x2 s = .next t → Kept s t := by
  have h := kept_refl s
  unfold execPstreamBaseWrite
  repeat' first
    | with_reducible assumption | with_reducible refine out_next ?_ | with_reducible apply State.registerWrite_kept | dsimp only

theorem execLaceCreditReturn_kept {x0 : CoreId} {x1 : BitVec 2} {s : State} : ∀ t, execLaceCreditReturn x0 x1 s = .next t → Kept s t := by
  have h := kept_refl s
  unfold execLaceCreditReturn
  repeat' first
    | with_reducible assumption | with_reducible refine out_next ?_ | with_reducible apply State.laceCreditBack_kept | dsimp only

theorem execSramCeWriteback_kept {x0 : SramAt} {x1 : LineOutcome} {s : State} : ∀ t, execSramCeWriteback x0 x1 s = .next t → Kept s t := by
  have h := kept_refl s
  unfold execSramCeWriteback
  repeat' first
    | with_reducible assumption | with_reducible refine out_next ?_ | extract_lets | with_reducible apply State.ceWriteback_kept
    | with_reducible apply State.hubWriteback_kept | with_reducible apply kept_ite | with_reducible apply keptF_self | split | dsimp only [kept_mk]

theorem execMergeEntryRetire_kept {x0 : CoreId} {x1 : BitVec 6} {x2 : LineOutcome} {s : State} : ∀ t, execMergeEntryRetire x0 x1 x2 s = .next t → Kept s t := by
  have h := kept_refl s
  unfold execMergeEntryRetire
  repeat' first
    | with_reducible assumption | with_reducible refine out_next ?_ | with_reducible apply State.mergeRetire_kept | dsimp only

theorem execTokenWaitProceed_kept {x0 : CoreId} {x1 : Option Hdr} {s : State} : ∀ t, execTokenWaitProceed x0 x1 s = .next t → Kept s t := by
  have h := kept_refl s
  unfold execTokenWaitProceed
  repeat' first
    | with_reducible assumption | with_reducible refine out_next ?_ | with_reducible apply State.tokenProceed_kept | dsimp only

theorem execClearValid_kept {x0 : CoreId} {x1 : Word} {s : State} : ∀ t, execClearValid x0 x1 s = .next t → Kept s t := by
  have h := kept_refl s
  unfold execClearValid
  repeat' first
    | with_reducible assumption | with_reducible refine out_next ?_ | with_reducible apply State.registerWrite_kept | dsimp only

theorem execStreamLineArrival_kept {x0 : CoreId} {x1 : Nat} {x2 : LineOutcome} {x3 : List Byte} {s : State} : ∀ t, execStreamLineArrival x0 x1 x2 x3 s = .next t → Kept s t := by
  have h := kept_refl s
  unfold execStreamLineArrival
  repeat' first
    | with_reducible assumption | with_reducible refine out_next ?_ | with_reducible apply State.lineArrives_kept | dsimp only

theorem execInstructionRetire_kept {x0 : CoreId} {x1 : Cls} {s : State} : ∀ t, execInstructionRetire x0 x1 s = .next t → Kept s t := by
  have h := kept_refl s
  unfold execInstructionRetire
  repeat' first
    | with_reducible assumption | with_reducible refine out_next ?_ | with_reducible apply State.instrRetire_kept | dsimp only

theorem execLaceLineArrival_kept {x0 : CoreId} {x1 : BitVec 2} {s : State} : ∀ t, execLaceLineArrival x0 x1 s = .next t → Kept s t := by
  have h := kept_refl s
  unfold execLaceLineArrival
  repeat' first
    | with_reducible assumption | with_reducible refine out_next ?_ | with_reducible apply State.laceLands_kept | dsimp only

theorem execFlipArm_kept {x0 : Bool} {x1 : CoreId} {x2 : BitVec 3} {x3 : Word} {s : State} : ∀ t, execFlipArm x0 x1 x2 x3 s = .next t → Kept s t := by
  have h := kept_refl s
  unfold execFlipArm
  repeat' first
    | with_reducible assumption | with_reducible refine out_next ?_ | with_reducible apply State.registerWrite_kept | dsimp only

theorem execPrefetchStart_kept {x0 : CoreId} {x1 : Nat} {x2 : Nat} {s : State} : ∀ t, execPrefetchStart x0 x1 x2 s = .next t → Kept s t := by
  have h := kept_refl s
  unfold execPrefetchStart
  repeat' first
    | with_reducible assumption | with_reducible refine out_next ?_ | with_reducible apply State.prefetchStart_kept | dsimp only

theorem execMxInjectArm_kept {x0 : CoreId} {x1 : Word} {s : State} : ∀ t, execMxInjectArm x0 x1 s = .next t → Kept s t := by
  have h := kept_refl s
  unfold execMxInjectArm
  repeat' first
    | with_reducible assumption | with_reducible refine out_next ?_ | with_reducible apply State.registerWrite_kept | dsimp only

theorem execBoundaryRetire_kept {x0 : CoreId} {s : State} : ∀ t, execBoundaryRetire x0 s = .next t → Kept s t := by
  have h := kept_refl s
  unfold execBoundaryRetire
  repeat' first
    | with_reducible assumption | with_reducible refine out_next ?_ | with_reducible apply State.boundaryRetire_kept | dsimp only

theorem execCoreStallDetect_kept {x0 : CoreId} {s : State} : ∀ t, execCoreStallDetect x0 s = .next t → Kept s t := by
  have h := kept_refl s
  unfold execCoreStallDetect
  repeat' first
    | with_reducible assumption | with_reducible refine out_next ?_ | with_reducible apply State.stallDetect_kept | dsimp only

theorem execClipClear_kept {x0 : CoreId} {x1 : Word} {s : State} : ∀ t, execClipClear x0 x1 s = .next t → Kept s t := by
  have h := kept_refl s
  unfold execClipClear
  repeat' first
    | with_reducible assumption | with_reducible refine out_next ?_ | with_reducible apply State.registerWrite_kept | dsimp only

theorem execVxInjectArm_kept {x0 : CoreId} {x1 : Word} {s : State} : ∀ t, execVxInjectArm x0 x1 s = .next t → Kept s t := by
  have h := kept_refl s
  unfold execVxInjectArm
  repeat' first
    | with_reducible assumption | with_reducible refine out_next ?_ | with_reducible apply State.registerWrite_kept | dsimp only

theorem execGetMeasurements_kept {x0 : Transport} {x1 : BitVec 8} {x2 : Bool} {x3 : List Byte} {s : State} : ∀ t, execGetMeasurements x0 x1 x2 x3 s = .next t → Kept s t := by
  have h := kept_refl s
  unfold execGetMeasurements
  repeat' first
    | with_reducible assumption | with_reducible refine out_next ?_ | with_reducible apply State.spdm_kept | dsimp only

theorem execNegotiateAlgorithms_kept {x0 : Transport} {x1 : Bool} {x2 : Bool} {s : State} : ∀ t, execNegotiateAlgorithms x0 x1 x2 s = .next t → Kept s t := by
  have h := kept_refl s
  unfold execNegotiateAlgorithms
  repeat' first
    | with_reducible assumption | with_reducible refine out_next ?_ | with_reducible apply State.spdm_kept | dsimp only

theorem execChallenge_kept {x0 : Transport} {x1 : BitVec 3} {x2 : List Byte} {s : State} : ∀ t, execChallenge x0 x1 x2 s = .next t → Kept s t := by
  have h := kept_refl s
  unfold execChallenge
  repeat' first
    | with_reducible assumption | with_reducible refine out_next ?_ | with_reducible apply State.spdm_kept | dsimp only

theorem execChunkGet_kept {x0 : Transport} {x1 : Nat} {s : State} : ∀ t, execChunkGet x0 x1 s = .next t → Kept s t := by
  have h := kept_refl s
  unfold execChunkGet
  repeat' first
    | with_reducible assumption | with_reducible refine out_next ?_ | with_reducible apply State.chunkGet_kept | dsimp only

theorem execGetCapabilities_kept {x0 : Transport} {s : State} : ∀ t, execGetCapabilities x0 s = .next t → Kept s t := by
  have h := kept_refl s
  unfold execGetCapabilities
  repeat' first
    | with_reducible assumption | with_reducible refine out_next ?_ | with_reducible apply State.spdm_kept | dsimp only

theorem execGetDigests_kept {x0 : Transport} {s : State} : ∀ t, execGetDigests x0 s = .next t → Kept s t := by
  have h := kept_refl s
  unfold execGetDigests
  repeat' first
    | with_reducible assumption | with_reducible refine out_next ?_ | with_reducible apply State.spdm_kept | dsimp only

theorem execChunkSend_kept {x0 : Transport} {x1 : Nat} {x2 : Bool} {x3 : List Byte} {s : State} : ∀ t, execChunkSend x0 x1 x2 x3 s = .next t → Kept s t := by
  have h := kept_refl s
  unfold execChunkSend
  repeat' first
    | with_reducible assumption | with_reducible refine out_next ?_ | with_reducible apply State.chunkSend_kept | dsimp only

theorem execSpdmUnsupportedRequest_kept {x0 : Transport} {x1 : BitVec 8} {s : State} : ∀ t, execSpdmUnsupportedRequest x0 x1 s = .next t → Kept s t := by
  have h := kept_refl s
  unfold execSpdmUnsupportedRequest
  repeat' first
    | with_reducible assumption | with_reducible refine out_next ?_ | with_reducible apply State.spdm_kept | dsimp only

theorem execGetCertificate_kept {x0 : Transport} {x1 : BitVec 3} {x2 : Nat} {x3 : Nat} {s : State} : ∀ t, execGetCertificate x0 x1 x2 x3 s = .next t → Kept s t := by
  have h := kept_refl s
  unfold execGetCertificate
  repeat' first
    | with_reducible assumption | with_reducible refine out_next ?_ | with_reducible apply State.spdm_kept | dsimp only

theorem execGetVersion_kept {x0 : Transport} {s : State} : ∀ t, execGetVersion x0 s = .next t → Kept s t := by
  have h := kept_refl s
  unfold execGetVersion
  repeat' first
    | with_reducible assumption | with_reducible refine out_next ?_ | with_reducible apply State.spdm_kept | dsimp only

theorem execDoeDiscovery_kept {x0 : BitVec 1} {x1 : BitVec 8} {s : State} : ∀ t, execDoeDiscovery x0 x1 s = .next t → Kept s t := by
  have h := kept_refl s
  unfold execDoeDiscovery
  repeat' first
    | with_reducible assumption | with_reducible refine out_next ?_ | with_reducible apply State.doeFind_kept | dsimp only

theorem execPoolSizeWrite_kept {x0 : Word} {s : State} : ∀ t, execPoolSizeWrite x0 s = .next t → Kept s t := by
  have h := kept_refl s
  unfold execPoolSizeWrite
  repeat' first
    | with_reducible assumption | with_reducible refine out_next ?_ | with_reducible apply State.registerWrite_kept | dsimp only

theorem execPromotionCopyDone_kept {x0 : Nat} {s : State} : ∀ t, execPromotionCopyDone x0 s = .next t → Kept s t := by
  have h := kept_refl s
  unfold execPromotionCopyDone
  repeat' first
    | with_reducible assumption | with_reducible refine out_next ?_ | with_reducible apply State.copyDone_kept | dsimp only

theorem execDramScrub_kept {x0 : LineOutcome} {s : State} : ∀ t, execDramScrub x0 s = .next t → Kept s t := by
  have h := kept_refl s
  unfold execDramScrub
  repeat' first
    | with_reducible assumption | with_reducible refine out_next ?_ | with_reducible apply State.scrub_kept | dsimp only

theorem execThermalTripRelease_kept {x0 : BitVec 16} {x1 : BitVec 16} {x2 : BitVec 16} {x3 : BitVec 16} {s : State} : ∀ t, execThermalTripRelease x0 x1 x2 x3 s = .next t → Kept s t := by
  have h := kept_refl s
  unfold execThermalTripRelease
  repeat' first
    | with_reducible assumption | with_reducible refine out_next ?_ | with_reducible apply State.tripRelease_kept | dsimp only

theorem execSwitchInComplete_kept {x0 : PartId} {s : State} : ∀ t, execSwitchInComplete x0 s = .next t → Kept s t := by
  have h := kept_refl s
  unfold execSwitchInComplete
  repeat' first
    | with_reducible assumption | with_reducible refine out_next ?_ | with_reducible apply State.switchIn_kept | dsimp only

theorem execPowerSample_kept {x0 : Sample} {s : State} : ∀ t, execPowerSample x0 s = .next t → Kept s t := by
  have h := kept_refl s
  unfold execPowerSample
  repeat' first
    | with_reducible assumption | with_reducible refine out_next ?_ | with_reducible apply State.sample_kept
    | with_reducible apply State.cyclesPass_kept | dsimp only

theorem execDaybookDeliver_kept  {s : State} : ∀ t, execDaybookDeliver s = .next t → Kept s t := by
  have h := kept_refl s
  unfold execDaybookDeliver
  repeat' first
    | with_reducible assumption | with_reducible refine out_next ?_ | extract_lets | with_reducible apply State.deliver_kept
    | with_reducible apply kept_ite | with_reducible apply keptF_self | split | dsimp only [kept_mk]

theorem execRootPllLoss_kept  {s : State} : ∀ t, execRootPllLoss s = .next t → Kept s t := by
  have h := kept_refl s
  unfold execRootPllLoss
  repeat' first
    | with_reducible assumption | with_reducible refine out_next ?_ | with_reducible apply State.rootLoss_kept | dsimp only

theorem execFaultRegisterClear_kept {x0 : Nat} {x1 : Word} {s : State} : ∀ t, execFaultRegisterClear x0 x1 s = .next t → Kept s t := by
  have h := kept_refl s
  unfold execFaultRegisterClear
  repeat' first
    | with_reducible assumption | with_reducible refine out_next ?_ | with_reducible apply State.registerWrite_kept | dsimp only

theorem execDroopHoldExpiry_kept {x0 : Tile} {s : State} : ∀ t, execDroopHoldExpiry x0 s = .next t → Kept s t := by
  have h := kept_refl s
  unfold execDroopHoldExpiry
  repeat' first
    | with_reducible assumption | with_reducible refine out_next ?_ | with_reducible apply State.droopExpire_kept | dsimp only

theorem execDbkHoldWrite_kept {x0 : Word} {s : State} : ∀ t, execDbkHoldWrite x0 s = .next t → Kept s t := by
  have h := kept_refl s
  unfold execDbkHoldWrite
  repeat' first
    | with_reducible assumption | with_reducible refine out_next ?_ | with_reducible apply State.registerWrite_kept | dsimp only

theorem execStepAdmit_kept {x0 : PartId} {s : State} : ∀ t, execStepAdmit x0 s = .next t → Kept s t := by
  have h := kept_refl s
  unfold execStepAdmit
  repeat' first
    | with_reducible assumption | with_reducible refine out_next ?_ | extract_lets | with_reducible apply State.runAll_kept
    | with_reducible apply State.admitHead_kept | with_reducible apply kept_ite | with_reducible apply keptF_self | split | dsimp only [kept_mk]

theorem execSwitchDeferEnd_kept {x0 : PartId} {s : State} : ∀ t, execSwitchDeferEnd x0 s = .next t → Kept s t := by
  have h := kept_refl s
  unfold execSwitchDeferEnd
  repeat' first
    | with_reducible assumption | with_reducible refine out_next ?_ | with_reducible apply State.deferEnd_kept | dsimp only

theorem execPeriodBoundary_kept  {s : State} : ∀ t, execPeriodBoundary s = .next t → Kept s t := by
  have h := kept_refl s
  unfold execPeriodBoundary
  repeat' first
    | with_reducible assumption | with_reducible refine out_next ?_ | extract_lets | with_reducible apply State.nextPeriod_kept
    | with_reducible apply State.goOn_kept | with_reducible apply State.periodBoundary_kept | with_reducible apply kept_ite
    | with_reducible apply keptF_self | split | dsimp only [kept_mk]

theorem execPoolZeroingDone_kept  {s : State} : ∀ t, execPoolZeroingDone s = .next t → Kept s t := by
  have h := kept_refl s
  unfold execPoolZeroingDone
  repeat' first
    | with_reducible assumption | with_reducible refine out_next ?_ | with_reducible apply State.zeroingDone_kept | dsimp only

theorem execQuarantineRelease_kept {x0 : Word} {s : State} : ∀ t, execQuarantineRelease x0 s = .next t → Kept s t := by
  have h := kept_refl s
  unfold execQuarantineRelease
  repeat' first
    | with_reducible assumption | with_reducible refine out_next ?_ | with_reducible apply State.registerWrite_kept | dsimp only

theorem execLedgerTestArm_kept {x0 : Word} {s : State} : ∀ t, execLedgerTestArm x0 s = .next t → Kept s t := by
  have h := kept_refl s
  unfold execLedgerTestArm
  repeat' first
    | with_reducible assumption | with_reducible refine out_next ?_ | with_reducible apply State.registerWrite_kept | dsimp only

theorem execInterfacePllLoss_kept {x0 : IfPll} {s : State} : ∀ t, execInterfacePllLoss x0 s = .next t → Kept s t := by
  have h := kept_refl s
  unfold execInterfacePllLoss
  repeat' first
    | with_reducible assumption | with_reducible refine out_next ?_ | with_reducible apply State.pllLoss_kept | dsimp only

theorem execStewardSleep_kept {x0 : BitVec 3} {s : State} : ∀ t, execStewardSleep x0 s = .next t → Kept s t := by
  have h := kept_refl s
  unfold execStewardSleep
  repeat' first
    | with_reducible assumption | with_reducible refine out_next ?_ | extract_lets | with_reducible apply State.stwSleep_kept
    | with_reducible apply kept_ite | with_reducible apply keptF_self | split | dsimp only [kept_mk]

theorem execSwitchOutComplete_kept {x0 : PartId} {s : State} : ∀ t, execSwitchOutComplete x0 s = .next t → Kept s t := by
  have h := kept_refl s
  unfold execSwitchOutComplete
  repeat' first
    | with_reducible assumption | with_reducible refine out_next ?_ | with_reducible apply State.switchOut_kept | dsimp only

theorem execReinWrite_kept {x0 : Bool} {x1 : BitVec 4} {x2 : Word} {s : State} : ∀ t, execReinWrite x0 x1 x2 s = .next t → Kept s t := by
  have h := kept_refl s
  unfold execReinWrite
  repeat' first
    | with_reducible assumption | with_reducible refine out_next ?_ | with_reducible apply State.registerWrite_kept | dsimp only

theorem execDbkRingHeadWrite_kept {x0 : BitVec 3} {x1 : Word} {s : State} : ∀ t, execDbkRingHeadWrite x0 x1 s = .next t → Kept s t := by
  have h := kept_refl s
  unfold execDbkRingHeadWrite
  repeat' first
    | with_reducible assumption | with_reducible refine out_next ?_ | with_reducible apply State.registerWrite_kept | dsimp only

theorem execRegisterWrite_kept {x0 : BarAt} {x1 : Nat} {x2 : Word} {s : State} : ∀ t, execRegisterWrite x0 x1 x2 s = .next t → Kept s t := by
  have h := kept_refl s
  unfold execRegisterWrite
  repeat' first
    | with_reducible assumption | with_reducible refine out_next ?_ | extract_lets | with_reducible apply State.registerWrite_kept
    | with_reducible apply State.vfWrite_kept | with_reducible apply kept_ite | with_reducible apply keptF_self | split | dsimp only [kept_mk]

theorem execJobPlace_kept {x0 : PartId} {s : State} : ∀ t, execJobPlace x0 s = .next t → Kept s t := by
  have h := kept_refl s
  unfold execJobPlace
  repeat' first
    | with_reducible assumption | with_reducible refine out_next ?_ | with_reducible apply State.placeNext_kept | dsimp only

theorem execAlertForceWrite_kept {x0 : Word} {s : State} : ∀ t, execAlertForceWrite x0 s = .next t → Kept s t := by
  have h := kept_refl s
  unfold execAlertForceWrite
  repeat' first
    | with_reducible assumption | with_reducible refine out_next ?_ | with_reducible apply State.registerWrite_kept | dsimp only

theorem execSliceExpiry_kept {x0 : PartId} {s : State} : ∀ t, execSliceExpiry x0 s = .next t → Kept s t := by
  have h := kept_refl s
  unfold execSliceExpiry
  repeat' first
    | with_reducible assumption | with_reducible refine out_next ?_ | with_reducible apply State.sliceExpiry_kept | dsimp only

theorem execDbkEoi_kept {x0 : Word} {s : State} : ∀ t, execDbkEoi x0 s = .next t → Kept s t := by
  have h := kept_refl s
  unfold execDbkEoi
  repeat' first
    | with_reducible assumption | with_reducible refine out_next ?_ | with_reducible apply State.registerWrite_kept | dsimp only

theorem execStewardStuckClear_kept {x0 : BitVec 3} {x1 : Word} {s : State} : ∀ t, execStewardStuckClear x0 x1 s = .next t → Kept s t := by
  have h := kept_refl s
  unfold execStewardStuckClear
  repeat' first
    | with_reducible assumption | with_reducible refine out_next ?_ | with_reducible apply State.registerWrite_kept | dsimp only

theorem execStewardStuck_kept {x0 : BitVec 3} {s : State} : ∀ t, execStewardStuck x0 s = .next t → Kept s t := by
  have h := kept_refl s
  unfold execStewardStuck
  repeat' first
    | with_reducible assumption | with_reducible refine out_next ?_ | extract_lets | with_reducible apply State.stwStuck_kept
    | with_reducible apply kept_ite | with_reducible apply keptF_self | split | dsimp only [kept_mk]

theorem execPwrAlertAssert_kept {x0 : Bool} {s : State} : ∀ t, execPwrAlertAssert x0 s = .next t → Kept s t := by
  have h := kept_refl s
  unfold execPwrAlertAssert
  repeat' first
    | with_reducible assumption | with_reducible refine out_next ?_ | with_reducible apply State.alertFalls_kept | dsimp only

theorem execDroopRecovery_kept {x0 : Tile} {x1 : Nat} {s : State} : ∀ t, execDroopRecovery x0 x1 s = .next t → Kept s t := by
  have h := kept_refl s
  unfold execDroopRecovery
  repeat' first
    | with_reducible assumption | with_reducible refine out_next ?_ | with_reducible apply State.droopRecover_kept | dsimp only

theorem execDroopReset_kept {x0 : Tile} {x1 : Nat} {s : State} : ∀ t, execDroopReset x0 x1 s = .next t → Kept s t := by
  have h := kept_refl s
  unfold execDroopReset
  repeat' first
    | with_reducible assumption | with_reducible refine out_next ?_ | with_reducible apply State.droopReset_kept | dsimp only

theorem execDbkSoft_kept {x0 : Word} {s : State} : ∀ t, execDbkSoft x0 s = .next t → Kept s t := by
  have h := kept_refl s
  unfold execDbkSoft
  repeat' first
    | with_reducible assumption | with_reducible refine out_next ?_ | with_reducible apply State.registerWrite_kept | dsimp only

theorem execPurseCtlWrite_kept {x0 : BitVec 4} {x1 : Word} {s : State} : ∀ t, execPurseCtlWrite x0 x1 s = .next t → Kept s t := by
  have h := kept_refl s
  unfold execPurseCtlWrite
  repeat' first
    | with_reducible assumption | with_reducible refine out_next ?_ | with_reducible apply State.registerWrite_kept | dsimp only

theorem execDroopWarning_kept {x0 : Tile} {x1 : Nat} {s : State} : ∀ t, execDroopWarning x0 x1 s = .next t → Kept s t := by
  have h := kept_refl s
  unfold execDroopWarning
  repeat' first
    | with_reducible assumption | with_reducible refine out_next ?_ | with_reducible apply State.droopWarn_kept | dsimp only

theorem execRefresh_kept {x0 : Ppa} {s : State} : ∀ t, execRefresh x0 s = .next t → Kept s t := by
  have h := kept_refl s
  unfold execRefresh
  repeat' first
    | with_reducible assumption | with_reducible refine out_next ?_ | with_reducible apply State.refresh_kept | dsimp only

theorem execFlashPageReadDone_kept {x0 : Ppa} {x1 : List Recovery} {x2 : Option Ppa} {s : State} : ∀ t, execFlashPageReadDone x0 x1 x2 s = .next t → Kept s t := by
  have h := kept_refl s
  unfold execFlashPageReadDone
  repeat' first
    | with_reducible assumption | with_reducible refine out_next ?_ | with_reducible apply State.pageRead_kept | dsimp only

theorem execReadAround_kept {x0 : Ppa} {x1 : Bool} {s : State} : ∀ t, execReadAround x0 x1 s = .next t → Kept s t := by
  have h := kept_refl s
  unfold execReadAround
  repeat' first
    | with_reducible assumption | with_reducible refine out_next ?_ | with_reducible apply State.mediaOn_kept
    | with_reducible apply State.readAround_kept | dsimp only

theorem execDieStopsAnswering_kept {x0 : BitVec 11} {s : State} : ∀ t, execDieStopsAnswering x0 s = .next t → Kept s t := by
  have h := kept_refl s
  unfold execDieStopsAnswering
  repeat' first
    | with_reducible assumption | with_reducible refine out_next ?_ | extract_lets | with_reducible apply State.mediaOn_kept
    | with_reducible apply State.retireDie_kept | with_reducible apply kept_ite | with_reducible apply keptF_self | split | dsimp only [kept_mk]

theorem execFold_kept {x0 : Ppa} {x1 : Nat} {s : State} : ∀ t, execFold x0 x1 s = .next t → Kept s t := by
  have h := kept_refl s
  unfold execFold
  repeat' first
    | with_reducible assumption | with_reducible refine out_next ?_ | with_reducible apply State.fold_kept | dsimp only

theorem execReadBack_kept {x0 : Ppa} {x1 : Nat} {x2 : Bool} {s : State} : ∀ t, execReadBack x0 x1 x2 s = .next t → Kept s t := by
  have h := kept_refl s
  unfold execReadBack
  repeat' first
    | with_reducible assumption | with_reducible refine out_next ?_ | with_reducible apply State.mediaOn_kept
    | with_reducible apply State.readBack_kept | dsimp only

theorem execFlashProgramDone_kept {x0 : Ppa} {x1 : Bool} {x2 : ProgKind} {x3 : ProgReport} {s : State} : ∀ t, execFlashProgramDone x0 x1 x2 x3 s = .next t → Kept s t := by
  have h := kept_refl s
  unfold execFlashProgramDone
  repeat' first
    | with_reducible assumption | with_reducible refine out_next ?_ | with_reducible apply State.mediaOn_kept
    | with_reducible apply State.programDone_kept | dsimp only

theorem execEraseResume_kept {x0 : Ppa} {s : State} : ∀ t, execEraseResume x0 s = .next t → Kept s t := by
  have h := kept_refl s
  unfold execEraseResume
  repeat' first
    | with_reducible assumption | with_reducible refine out_next ?_ | with_reducible apply State.eraseResume_kept | dsimp only

theorem execHoldupMeasure_kept {x0 : Nat} {s : State} : ∀ t, execHoldupMeasure x0 s = .next t → Kept s t := by
  have h := kept_refl s
  unfold execHoldupMeasure
  repeat' first
    | with_reducible assumption | with_reducible refine out_next ?_ | with_reducible apply State.holdup_kept | dsimp only

theorem execChannelTrainingFail_kept {x0 : BitVec 6} {s : State} : ∀ t, execChannelTrainingFail x0 s = .next t → Kept s t := by
  have h := kept_refl s
  unfold execChannelTrainingFail
  repeat' first
    | with_reducible assumption | with_reducible refine out_next ?_ | with_reducible apply State.mediaOn_kept
    | with_reducible apply State.trainingFails_kept | dsimp only

theorem execGarbageCollection_kept  {s : State} : ∀ t, execGarbageCollection s = .next t → Kept s t := by
  have h := kept_refl s
  unfold execGarbageCollection
  repeat' first
    | with_reducible assumption | with_reducible refine out_next ?_ | with_reducible apply State.collect_kept | dsimp only

theorem execFlashEraseDone_kept {x0 : Ppa} {x1 : Bool} {s : State} : ∀ t, execFlashEraseDone x0 x1 s = .next t → Kept s t := by
  have h := kept_refl s
  unfold execFlashEraseDone
  repeat' first
    | with_reducible assumption | with_reducible refine out_next ?_ | with_reducible apply State.mediaOn_kept
    | with_reducible apply State.eraseDone_kept | dsimp only

theorem execLateWindowExpiry_kept {x0 : BitVec 4} {x1 : Nat} {x2 : Nat} {s : State} : ∀ t, execLateWindowExpiry x0 x1 x2 s = .next t → Kept s t := by
  have h := kept_refl s
  unfold execLateWindowExpiry
  repeat' first
    | with_reducible assumption | with_reducible refine out_next ?_ | extract_lets | with_reducible apply State.lateExpiry_kept
    | with_reducible apply kept_ite | with_reducible apply keptF_self | split | dsimp only [kept_mk]

theorem execContributionArrival_kept {x0 : BitVec 4} {x1 : Nat} {x2 : Nat} {x3 : Nat} {x4 : List (List Byte)} {s : State} : ∀ t, execContributionArrival x0 x1 x2 x3 x4 s = .next t → Kept s t := by
  have h := kept_refl s
  unfold execContributionArrival
  repeat' first
    | with_reducible assumption | with_reducible refine out_next ?_ | extract_lets | with_reducible apply State.contribution_kept
    | with_reducible apply kept_ite | with_reducible apply keptF_self | split | dsimp only [kept_mk]

theorem execReduceClose_kept {x0 : BitVec 4} {x1 : Nat} {x2 : Nat} {s : State} : ∀ t, execReduceClose x0 x1 x2 s = .next t → Kept s t := by
  have h := kept_refl s
  unfold execReduceClose
  repeat' first
    | with_reducible assumption | with_reducible refine out_next ?_ | extract_lets | with_reducible apply State.reduceClose_kept
    | with_reducible apply kept_ite | with_reducible apply keptF_self | split | dsimp only [kept_mk]

theorem execReduceInstanceOpen_kept {x0 : BitVec 4} {x1 : Nat} {x2 : Nat} {x3 : Nat} {x4 : List (List Byte)} {s : State} : ∀ t, execReduceInstanceOpen x0 x1 x2 x3 x4 s = .next t → Kept s t := by
  have h := kept_refl s
  unfold execReduceInstanceOpen
  repeat' first
    | with_reducible assumption | with_reducible refine out_next ?_ | extract_lets | with_reducible apply State.openInst_kept
    | with_reducible apply kept_ite | with_reducible apply keptF_self | split | dsimp only [kept_mk]

theorem execTallyCreditReturn_kept {x0 : BitVec 2} {x1 : BitVec 3} {s : State} : ∀ t, execTallyCreditReturn x0 x1 s = .next t → Kept s t := by
  have h := kept_refl s
  unfold execTallyCreditReturn
  repeat' first
    | with_reducible assumption | with_reducible refine out_next ?_ | extract_lets | with_reducible apply State.runAll_kept
    | with_reducible apply State.creditBack_kept | with_reducible apply kept_ite | with_reducible apply keptF_self | split | dsimp only [kept_mk]

theorem execTallyRecordArrival_kept {x0 : BitVec 2} {x1 : BitVec 3} {s : State} : ∀ t, execTallyRecordArrival x0 x1 s = .next t → Kept s t := by
  have h := kept_refl s
  unfold execTallyRecordArrival
  repeat' first
    | with_reducible assumption | with_reducible refine out_next ?_ | extract_lets | with_reducible apply State.runAll_kept
    | with_reducible apply State.recordLands_kept | with_reducible apply kept_ite | with_reducible apply keptF_self | split | dsimp only [kept_mk]

theorem execAck_kept {x0 : LinkId} {x1 : Flit} {s : State} : ∀ t, execAck x0 x1 s = .next t → Kept s t := by
  have h := kept_refl s
  unfold execAck
  repeat' first
    | with_reducible assumption | with_reducible refine out_next ?_ | with_reducible apply State.flitOf_kept | dsimp only

theorem execPut_kept {x0 : LinkId} {x1 : Flit} {s : State} : ∀ t, execPut x0 x1 s = .next t → Kept s t := by
  have h := kept_refl s
  unfold execPut
  repeat' first
    | with_reducible assumption | with_reducible refine out_next ?_ | with_reducible apply State.flitOf_kept | dsimp only

theorem execAckTimeout_kept {x0 : LinkId} {s : State} : ∀ t, execAckTimeout x0 s = .next t → Kept s t := by
  have h := kept_refl s
  unfold execAckTimeout
  repeat' first
    | with_reducible assumption | with_reducible refine out_next ?_ | extract_lets | with_reducible apply State.retrain_kept
    | with_reducible apply kept_ite | with_reducible apply keptF_self | split | dsimp only [kept_mk]

theorem execPortTrain_kept {x0 : BitVec 3} {x1 : Bool} {x2 : BitVec 6} {s : State} : ∀ t, execPortTrain x0 x1 x2 s = .next t → Kept s t := by
  have h := kept_refl s
  unfold execPortTrain
  repeat' first
    | with_reducible assumption | with_reducible refine out_next ?_ | with_reducible apply State.portTrain_kept | dsimp only

theorem execNakReplay_kept {x0 : LinkId} {x1 : BitVec 12} {s : State} : ∀ t, execNakReplay x0 x1 s = .next t → Kept s t := by
  have h := kept_refl s
  unfold execNakReplay
  repeat' first
    | with_reducible assumption | with_reducible refine out_next ?_ | extract_lets | with_reducible apply State.pumpPort_kept
    | with_reducible apply State.nakIn_kept | with_reducible apply kept_ite | with_reducible apply keptF_self | split | dsimp only [kept_mk]

theorem execGetReq_kept {x0 : LinkId} {x1 : Flit} {s : State} : ∀ t, execGetReq x0 x1 s = .next t → Kept s t := by
  have h := kept_refl s
  unfold execGetReq
  repeat' first
    | with_reducible assumption | with_reducible refine out_next ?_ | with_reducible apply State.flitOf_kept | dsimp only

theorem execIdle_kept {x0 : LinkId} {x1 : Flit} {s : State} : ∀ t, execIdle x0 x1 s = .next t → Kept s t := by
  have h := kept_refl s
  unfold execIdle
  repeat' first
    | with_reducible assumption | with_reducible refine out_next ?_ | with_reducible apply State.flitOf_kept | dsimp only

theorem execColl_kept {x0 : LinkId} {x1 : Flit} {s : State} : ∀ t, execColl x0 x1 s = .next t → Kept s t := by
  have h := kept_refl s
  unfold execColl
  repeat' first
    | with_reducible assumption | with_reducible refine out_next ?_ | with_reducible apply State.flitOf_kept | dsimp only

theorem execGetRsp_kept {x0 : LinkId} {x1 : Flit} {s : State} : ∀ t, execGetRsp x0 x1 s = .next t → Kept s t := by
  have h := kept_refl s
  unfold execGetRsp
  repeat' first
    | with_reducible assumption | with_reducible refine out_next ?_ | with_reducible apply State.flitOf_kept | dsimp only

theorem execHandover_kept {x0 : LinkId} {x1 : BitVec 3} {x2 : BitVec 12} {s : State} : ∀ t, execHandover x0 x1 x2 s = .next t → Kept s t := by
  have h := kept_refl s
  unfold execHandover
  repeat' first
    | with_reducible assumption | with_reducible refine out_next ?_ | with_reducible apply State.handover_kept | dsimp only

theorem execHarn_kept {x0 : LinkId} {x1 : Flit} {s : State} : ∀ t, execHarn x0 x1 s = .next t → Kept s t := by
  have h := kept_refl s
  unfold execHarn
  repeat' first
    | with_reducible assumption | with_reducible refine out_next ?_ | with_reducible apply State.flitOf_kept | dsimp only

theorem execReauth_kept {x0 : BitVec 3} {x1 : Word} {s : State} : ∀ t, execReauth x0 x1 s = .next t → Kept s t := by
  have h := kept_refl s
  unfold execReauth
  repeat' first
    | with_reducible assumption | with_reducible refine out_next ?_ | with_reducible apply State.registerWrite_kept | dsimp only

theorem execPortAuthenticate_kept {x0 : BitVec 3} {x1 : PeerId} {s : State} : ∀ t, execPortAuthenticate x0 x1 s = .next t → Kept s t := by
  have h := kept_refl s
  unfold execPortAuthenticate
  repeat' first
    | with_reducible assumption | with_reducible refine out_next ?_ | with_reducible apply State.runAll_kept
    | with_reducible apply State.authenticated_kept | dsimp only

theorem execFlitForward_kept {x0 : LinkId} {x1 : Flit} {s : State} : ∀ t, execFlitForward x0 x1 s = .next t → Kept s t := by
  have h := kept_refl s
  unfold execFlitForward
  repeat' first
    | with_reducible assumption | with_reducible refine out_next ?_ | with_reducible apply State.runAll_kept | with_reducible apply State.flitIn_kept
    | dsimp only

theorem execLinkRetrainDone_kept {x0 : LinkId} {x1 : Bool} {s : State} : ∀ t, execLinkRetrainDone x0 x1 s = .next t → Kept s t := by
  have h := kept_refl s
  unfold execLinkRetrainDone
  repeat' first
    | with_reducible assumption | with_reducible refine out_next ?_ | with_reducible apply State.runAll_kept
    | with_reducible apply State.retrainDone_kept | dsimp only

theorem execPresenceNotice_kept {x0 : LinkId} {x1 : BitVec 11} {x2 : BitVec 3} {x3 : BitVec 3} {x4 : BitVec 32} {s : State} : ∀ t, execPresenceNotice x0 x1 x2 x3 x4 s = .next t → Kept s t := by
  have h := kept_refl s
  unfold execPresenceNotice
  repeat' first
    | with_reducible assumption | with_reducible refine out_next ?_ | with_reducible apply State.runAll_kept
    | with_reducible apply State.noticeIn_kept | dsimp only

theorem execLinkIdleTimeout_kept {x0 : LinkId} {s : State} : ∀ t, execLinkIdleTimeout x0 s = .next t → Kept s t := by
  have h := kept_refl s
  unfold execLinkIdleTimeout
  repeat' first
    | with_reducible assumption | with_reducible refine out_next ?_ | extract_lets | with_reducible apply State.retrain_kept
    | with_reducible apply kept_ite | with_reducible apply keptF_self | split | dsimp only [kept_mk]

theorem execGirthSetWrite_kept {x0 : Word} {s : State} : ∀ t, execGirthSetWrite x0 s = .next t → Kept s t := by
  have h := kept_refl s
  unfold execGirthSetWrite
  repeat' first
    | with_reducible assumption | with_reducible refine out_next ?_ | with_reducible apply State.registerWrite_kept | dsimp only

theorem execTimestamp_kept {x0 : NHdr} {x1 : BitVec 48} {s : State} : ∀ t, execTimestamp x0 x1 s = .next t → Kept s t := by
  have h := kept_refl s
  unfold execTimestamp
  repeat' first
    | with_reducible assumption | with_reducible refine out_next ?_ | with_reducible apply State.hostCmd_kept | dsimp only

theorem execFirmwareCommit_kept {x0 : NHdr} {x1 : BitVec 3} {x2 : BitVec 3} {s : State} : ∀ t, execFirmwareCommit x0 x1 x2 s = .next t → Kept s t := by
  have h := kept_refl s
  unfold execFirmwareCommit
  repeat' first
    | with_reducible assumption | with_reducible refine out_next ?_ | with_reducible apply State.hostCmd_kept | dsimp only

theorem execZoneManagementReceive_kept {x0 : NHdr} {x1 : BitVec 32} {x2 : Nat} {x3 : Nat} {s : State} : ∀ t, execZoneManagementReceive x0 x1 x2 x3 s = .next t → Kept s t := by
  have h := kept_refl s
  unfold execZoneManagementReceive
  repeat' first
    | with_reducible assumption | with_reducible refine out_next ?_ | with_reducible apply State.hostCmd_kept | dsimp only

theorem execSubmitRequest_kept {x0 : NHdr} {x1 : BitVec 32} {x2 : CmdRef} {x3 : List Byte} {s : State} : ∀ t, execSubmitRequest x0 x1 x2 x3 s = .next t → Kept s t := by
  have h := kept_refl s
  unfold execSubmitRequest
  repeat' first
    | with_reducible assumption | with_reducible refine out_next ?_ | with_reducible apply State.hostCmd_kept | dsimp only

theorem execDeviceSelfTest_kept {x0 : NHdr} {x1 : BitVec 4} {s : State} : ∀ t, execDeviceSelfTest x0 x1 s = .next t → Kept s t := by
  have h := kept_refl s
  unfold execDeviceSelfTest
  repeat' first
    | with_reducible assumption | with_reducible refine out_next ?_ | with_reducible apply State.hostCmd_kept | dsimp only

theorem execUpdateIndex_kept {x0 : NHdr} {x1 : BitVec 32} {x2 : BitVec 4} {x3 : IndexOps} {s : State} : ∀ t, execUpdateIndex x0 x1 x2 x3 s = .next t → Kept s t := by
  have h := kept_refl s
  unfold execUpdateIndex
  repeat' first
    | with_reducible assumption | with_reducible refine out_next ?_ | with_reducible apply State.hostCmd_kept | dsimp only

theorem execAsynchronousEventRequest_kept {x0 : NHdr} {s : State} : ∀ t, execAsynchronousEventRequest x0 s = .next t → Kept s t := by
  have h := kept_refl s
  unfold execAsynchronousEventRequest
  repeat' first
    | with_reducible assumption | with_reducible refine out_next ?_ | with_reducible apply State.hostCmd_kept | dsimp only

theorem execAutonomousPowerStateTransition_kept {x0 : BitVec 5} {s : State} : ∀ t, execAutonomousPowerStateTransition x0 s = .next t → Kept s t := by
  have h := kept_refl s
  unfold execAutonomousPowerStateTransition
  repeat' first
    | with_reducible assumption | with_reducible refine out_next ?_ | with_reducible apply State.autoPs_kept | dsimp only

theorem execZoneFinish_kept {x0 : NHdr} {x1 : BitVec 32} {x2 : Nat} {s : State} : ∀ t, execZoneFinish x0 x1 x2 s = .next t → Kept s t := by
  have h := kept_refl s
  unfold execZoneFinish
  repeat' first
    | with_reducible assumption | with_reducible refine out_next ?_ | with_reducible apply State.hostCmd_kept | dsimp only

theorem execMemoryRead_kept {x0 : NHdr} {x1 : BitVec 32} {x2 : Nat} {x3 : Nat} {s : State} : ∀ t, execMemoryRead x0 x1 x2 x3 s = .next t → Kept s t := by
  have h := kept_refl s
  unfold execMemoryRead
  repeat' first
    | with_reducible assumption | with_reducible refine out_next ?_ | with_reducible apply State.hostCmd_kept | dsimp only

theorem execDeleteIoQueue_kept {x0 : NHdr} {x1 : Bool} {x2 : BitVec 16} {s : State} : ∀ t, execDeleteIoQueue x0 x1 x2 s = .next t → Kept s t := by
  have h := kept_refl s
  unfold execDeleteIoQueue
  repeat' first
    | with_reducible assumption | with_reducible refine out_next ?_ | with_reducible apply State.hostCmd_kept | dsimp only

theorem execDoorbellWrite_kept {x0 : BitVec 8} {x1 : Bool} {x2 : BitVec 16} {x3 : BitVec 16} {s : State} : ∀ t, execDoorbellWrite x0 x1 x2 x3 s = .next t → Kept s t := by
  have h := kept_refl s
  unfold execDoorbellWrite
  repeat' first
    | with_reducible assumption | with_reducible refine out_next ?_ | with_reducible apply State.doorbell_kept | dsimp only

theorem execLoadProgram_kept {x0 : NHdr} {x1 : BitVec 32} {x2 : BitVec 16} {x3 : BitVec 8} {x4 : List Byte} {s : State} : ∀ t, execLoadProgram x0 x1 x2 x3 x4 s = .next t → Kept s t := by
  have h := kept_refl s
  unfold execLoadProgram
  repeat' first
    | with_reducible assumption | with_reducible refine out_next ?_ | with_reducible apply State.hostCmd_kept | dsimp only

theorem execIndexCloseComplete_kept {x0 : BitVec 4} {s : State} : ∀ t, execIndexCloseComplete x0 s = .next t → Kept s t := by
  have h := kept_refl s
  unfold execIndexCloseComplete
  repeat' first
    | with_reducible assumption | with_reducible refine out_next ?_ | extract_lets | with_reducible apply State.closeDone_kept
    | with_reducible apply kept_ite | with_reducible apply keptF_self | split | dsimp only [kept_mk]

theorem execDetachWeight_kept {x0 : NHdr} {x1 : BitVec 32} {x2 : Bool} {s : State} : ∀ t, execDetachWeight x0 x1 x2 s = .next t → Kept s t := by
  have h := kept_refl s
  unfold execDetachWeight
  repeat' first
    | with_reducible assumption | with_reducible refine out_next ?_ | with_reducible apply State.hostCmd_kept | dsimp only

theorem execNamespaceDelete_kept {x0 : NHdr} {x1 : BitVec 32} {s : State} : ∀ t, execNamespaceDelete x0 x1 s = .next t → Kept s t := by
  have h := kept_refl s
  unfold execNamespaceDelete
  repeat' first
    | with_reducible assumption | with_reducible refine out_next ?_ | with_reducible apply State.hostCmd_kept | dsimp only

theorem execUnsupportedCommand_kept {x0 : NHdr} {x1 : Bool} {s : State} : ∀ t, execUnsupportedCommand x0 x1 s = .next t → Kept s t := by
  have h := kept_refl s
  unfold execUnsupportedCommand
  repeat' first
    | with_reducible assumption | with_reducible refine out_next ?_ | with_reducible apply State.hostCmd_kept | dsimp only

theorem execZoneOffline_kept {x0 : NHdr} {x1 : BitVec 32} {x2 : Nat} {s : State} : ∀ t, execZoneOffline x0 x1 x2 s = .next t → Kept s t := by
  have h := kept_refl s
  unfold execZoneOffline
  repeat' first
    | with_reducible assumption | with_reducible refine out_next ?_ | with_reducible apply State.hostCmd_kept | dsimp only

theorem execCompactIndex_kept {x0 : NHdr} {x1 : BitVec 32} {x2 : BitVec 4} {x3 : Bool} {s : State} : ∀ t, execCompactIndex x0 x1 x2 x3 s = .next t → Kept s t := by
  have h := kept_refl s
  unfold execCompactIndex
  repeat' first
    | with_reducible assumption | with_reducible refine out_next ?_ | with_reducible apply State.hostCmd_kept | dsimp only

theorem execNamespaceCreate_kept {x0 : NHdr} {x1 : BitVec 8} {x2 : BitVec 8} {x3 : Nat} {x4 : Nat} {x5 : Bool} {s : State} : ∀ t, execNamespaceCreate x0 x1 x2 x3 x4 x5 s = .next t → Kept s t := by
  have h := kept_refl s
  unfold execNamespaceCreate
  repeat' first
    | with_reducible assumption | with_reducible refine out_next ?_ | with_reducible apply State.hostCmd_kept | dsimp only

theorem execExecuteProgram_kept {x0 : NHdr} {x1 : BitVec 32} {x2 : BitVec 16} {x3 : List Byte} {s : State} : ∀ t, execExecuteProgram x0 x1 x2 x3 s = .next t → Kept s t := by
  have h := kept_refl s
  unfold execExecuteProgram
  repeat' first
    | with_reducible assumption | with_reducible refine out_next ?_ | with_reducible apply State.hostCmd_kept | dsimp only

theorem execZoneOpen_kept {x0 : NHdr} {x1 : BitVec 32} {x2 : Nat} {s : State} : ∀ t, execZoneOpen x0 x1 x2 s = .next t → Kept s t := by
  have h := kept_refl s
  unfold execZoneOpen
  repeat' first
    | with_reducible assumption | with_reducible refine out_next ?_ | with_reducible apply State.hostCmd_kept | dsimp only

theorem execSecurityReceive_kept {x0 : NHdr} {x1 : BitVec 8} {x2 : BitVec 16} {x3 : Nat} {s : State} : ∀ t, execSecurityReceive x0 x1 x2 x3 s = .next t → Kept s t := by
  have h := kept_refl s
  unfold execSecurityReceive
  repeat' first
    | with_reducible assumption | with_reducible refine out_next ?_ | with_reducible apply State.hostCmd_kept | dsimp only

theorem execSecuritySend_kept {x0 : NHdr} {x1 : BitVec 8} {x2 : BitVec 16} {x3 : SpdmReq} {s : State} : ∀ t, execSecuritySend x0 x1 x2 x3 s = .next t → Kept s t := by
  have h := kept_refl s
  unfold execSecuritySend
  repeat' first
    | with_reducible assumption | with_reducible refine out_next ?_ | with_reducible apply State.hostCmd_kept | dsimp only

theorem execRead_kept {x0 : NHdr} {x1 : BitVec 32} {x2 : Nat} {x3 : Nat} {s : State} : ∀ t, execRead x0 x1 x2 x3 s = .next t → Kept s t := by
  have h := kept_refl s
  unfold execRead
  repeat' first
    | with_reducible assumption | with_reducible refine out_next ?_ | with_reducible apply State.hostCmd_kept | dsimp only

theorem execCompare_kept {x0 : NHdr} {x1 : BitVec 32} {x2 : Nat} {x3 : List Byte} {s : State} : ∀ t, execCompare x0 x1 x2 x3 s = .next t → Kept s t := by
  have h := kept_refl s
  unfold execCompare
  repeat' first
    | with_reducible assumption | with_reducible refine out_next ?_ | with_reducible apply State.hostCmd_kept | dsimp only

theorem execOpenIndex_kept {x0 : NHdr} {x1 : BitVec 32} {x2 : BitVec 4} {x3 : PartId} {x4 : BitVec 64} {x5 : List (BitVec 8)} {x6 : Bool} {s : State} : ∀ t, execOpenIndex x0 x1 x2 x3 x4 x5 x6 s = .next t → Kept s t := by
  have h := kept_refl s
  unfold execOpenIndex
  repeat' first
    | with_reducible assumption | with_reducible refine out_next ?_ | with_reducible apply State.hostCmd_kept | dsimp only

theorem execGetLogPage_kept {x0 : NHdr} {x1 : BitVec 8} {x2 : Bool} {x3 : Nat} {x4 : Nat} {s : State} : ∀ t, execGetLogPage x0 x1 x2 x3 x4 s = .next t → Kept s t := by
  have h := kept_refl s
  unfold execGetLogPage
  repeat' first
    | with_reducible assumption | with_reducible refine out_next ?_ | with_reducible apply State.hostCmd_kept | dsimp only

theorem execFrameStart_kept {x0 : NHdr} {x1 : BitVec 32} {x2 : BitVec 3} {x3 : BitVec 8} {x4 : BitVec 64} {x5 : Bool} {s : State} : ∀ t, execFrameStart x0 x1 x2 x3 x4 x5 s = .next t → Kept s t := by
  have h := kept_refl s
  unfold execFrameStart
  repeat' first
    | with_reducible assumption | with_reducible refine out_next ?_ | with_reducible apply State.hostCmd_kept | dsimp only

theorem execFlush_kept {x0 : NHdr} {x1 : BitVec 32} {s : State} : ∀ t, execFlush x0 x1 s = .next t → Kept s t := by
  have h := kept_refl s
  unfold execFlush
  repeat' first
    | with_reducible assumption | with_reducible refine out_next ?_ | with_reducible apply State.hostCmd_kept | dsimp only

theorem execServingStepEnd_kept {x0 : PartId} {s : State} : ∀ t, execServingStepEnd x0 s = .next t → Kept s t := by
  have h := kept_refl s
  unfold execServingStepEnd
  repeat' first
    | with_reducible assumption | with_reducible refine out_next ?_ | extract_lets | with_reducible apply State.servingEnd_kept
    | with_reducible apply kept_ite | with_reducible apply keptF_self | split | dsimp only [kept_mk]

theorem execSanitize_kept {x0 : NHdr} {x1 : Bool} {s : State} : ∀ t, execSanitize x0 x1 s = .next t → Kept s t := by
  have h := kept_refl s
  unfold execSanitize
  repeat' first
    | with_reducible assumption | with_reducible refine out_next ?_ | with_reducible apply State.hostCmd_kept | dsimp only

theorem execSanitizeComplete_kept  {s : State} : ∀ t, execSanitizeComplete s = .next t → Kept s t := by
  have h := kept_refl s
  unfold execSanitizeComplete
  repeat' first
    | with_reducible assumption | with_reducible refine out_next ?_ | extract_lets | with_reducible apply State.runStalled_kept
    | with_reducible apply State.sanitizeDone_kept | with_reducible apply kept_ite | with_reducible apply keptF_self | split | dsimp only [kept_mk]

theorem execDeallocate_kept {x0 : NHdr} {x1 : BitVec 32} {x2 : List (Nat × Nat)} {s : State} : ∀ t, execDeallocate x0 x1 x2 s = .next t → Kept s t := by
  have h := kept_refl s
  unfold execDeallocate
  repeat' first
    | with_reducible assumption | with_reducible refine out_next ?_ | with_reducible apply State.hostCmd_kept | dsimp only

theorem execNamespaceAttachment_kept {x0 : NHdr} {x1 : BitVec 32} {x2 : Bool} {x3 : List (BitVec 8)} {s : State} : ∀ t, execNamespaceAttachment x0 x1 x2 x3 s = .next t → Kept s t := by
  have h := kept_refl s
  unfold execNamespaceAttachment
  repeat' first
    | with_reducible assumption | with_reducible refine out_next ?_ | with_reducible apply State.hostCmd_kept | dsimp only

theorem execWriteZeroes_kept {x0 : NHdr} {x1 : BitVec 32} {x2 : Nat} {x3 : Nat} {s : State} : ∀ t, execWriteZeroes x0 x1 x2 x3 s = .next t → Kept s t := by
  have h := kept_refl s
  unfold execWriteZeroes
  repeat' first
    | with_reducible assumption | with_reducible refine out_next ?_ | with_reducible apply State.hostCmd_kept | dsimp only

theorem execKeepAlive_kept {x0 : NHdr} {s : State} : ∀ t, execKeepAlive x0 s = .next t → Kept s t := by
  have h := kept_refl s
  unfold execKeepAlive
  repeat' first
    | with_reducible assumption | with_reducible refine out_next ?_ | with_reducible apply State.hostCmd_kept | dsimp only

theorem execFrameAccept_kept {x0 : BitVec 3} {s : State} : ∀ t, execFrameAccept x0 s = .next t → Kept s t := by
  have h := kept_refl s
  unfold execFrameAccept
  repeat' first
    | with_reducible assumption | with_reducible refine out_next ?_ | extract_lets | with_reducible apply State.frameAccept_kept
    | with_reducible apply kept_ite | with_reducible apply keptF_self | split | dsimp only [kept_mk]

theorem execVirtualizationManagement_kept {x0 : NHdr} {x1 : BitVec 8} {x2 : VirtAct} {x3 : Nat} {s : State} : ∀ t, execVirtualizationManagement x0 x1 x2 x3 s = .next t → Kept s t := by
  have h := kept_refl s
  unfold execVirtualizationManagement
  repeat' first
    | with_reducible assumption | with_reducible refine out_next ?_ | with_reducible apply State.hostCmd_kept | dsimp only

theorem execMemoryRangeSetManagement_kept {x0 : NHdr} {x1 : Bool} {x2 : BitVec 16} {x3 : List (BitVec 32 × Nat × Nat)} {s : State} : ∀ t, execMemoryRangeSetManagement x0 x1 x2 x3 s = .next t → Kept s t := by
  have h := kept_refl s
  unfold execMemoryRangeSetManagement
  repeat' first
    | with_reducible assumption | with_reducible refine out_next ?_ | with_reducible apply State.hostCmd_kept | dsimp only

theorem execCloseIndex_kept {x0 : NHdr} {x1 : BitVec 32} {x2 : BitVec 4} {x3 : Bool} {s : State} : ∀ t, execCloseIndex x0 x1 x2 x3 s = .next t → Kept s t := by
  have h := kept_refl s
  unfold execCloseIndex
  repeat' first
    | with_reducible assumption | with_reducible refine out_next ?_ | with_reducible apply State.hostCmd_kept | dsimp only

theorem execFrameComplete_kept {x0 : BitVec 3} {x1 : Nat} {s : State} : ∀ t, execFrameComplete x0 x1 s = .next t → Kept s t := by
  have h := kept_refl s
  unfold execFrameComplete
  repeat' first
    | with_reducible assumption | with_reducible refine out_next ?_ | extract_lets | with_reducible apply State.frameComplete_kept
    | with_reducible apply kept_ite | with_reducible apply keptF_self | split | dsimp only [kept_mk]

theorem execPowerStateEntryComplete_kept  {s : State} : ∀ t, execPowerStateEntryComplete s = .next t → Kept s t := by
  have h := kept_refl s
  unfold execPowerStateEntryComplete
  repeat' first
    | with_reducible assumption | with_reducible refine out_next ?_ | with_reducible apply State.psEntered_kept | dsimp only

theorem execZoneAppend_kept {x0 : NHdr} {x1 : BitVec 32} {x2 : Nat} {x3 : List Byte} {s : State} : ∀ t, execZoneAppend x0 x1 x2 x3 s = .next t → Kept s t := by
  have h := kept_refl s
  unfold execZoneAppend
  repeat' first
    | with_reducible assumption | with_reducible refine out_next ?_ | with_reducible apply State.hostCmd_kept | dsimp only

theorem execRequestAdmit_kept {x0 : PartId} {s : State} : ∀ t, execRequestAdmit x0 s = .next t → Kept s t := by
  have h := kept_refl s
  unfold execRequestAdmit
  repeat' first
    | with_reducible assumption | with_reducible refine out_next ?_ | extract_lets | with_reducible apply State.requestAdmit_kept
    | with_reducible apply kept_ite | with_reducible apply keptF_self | split | dsimp only [kept_mk]

theorem execSetHostWindow_kept {x0 : NHdr} {x1 : BitVec 4} {x2 : Bool} {x3 : BitVec 24} {x4 : BitVec 64} {x5 : BitVec 64} {x6 : Bool} {s : State} : ∀ t, execSetHostWindow x0 x1 x2 x3 x4 x5 x6 s = .next t → Kept s t := by
  have h := kept_refl s
  unfold execSetHostWindow
  repeat' first
    | with_reducible assumption | with_reducible refine out_next ?_ | with_reducible apply State.hostCmd_kept | dsimp only

theorem execZoneClose_kept {x0 : NHdr} {x1 : BitVec 32} {x2 : Nat} {s : State} : ∀ t, execZoneClose x0 x1 x2 s = .next t → Kept s t := by
  have h := kept_refl s
  unfold execZoneClose
  repeat' first
    | with_reducible assumption | with_reducible refine out_next ?_ | with_reducible apply State.hostCmd_kept | dsimp only

theorem execPauseRequest_kept {x0 : NHdr} {x1 : BitVec 32} {x2 : CmdRef} {s : State} : ∀ t, execPauseRequest x0 x1 x2 s = .next t → Kept s t := by
  have h := kept_refl s
  unfold execPauseRequest
  repeat' first
    | with_reducible assumption | with_reducible refine out_next ?_ | with_reducible apply State.hostCmd_kept | dsimp only

theorem execWrite_kept {x0 : NHdr} {x1 : BitVec 32} {x2 : Nat} {x3 : List Byte} {s : State} : ∀ t, execWrite x0 x1 x2 x3 s = .next t → Kept s t := by
  have h := kept_refl s
  unfold execWrite
  repeat' first
    | with_reducible assumption | with_reducible refine out_next ?_ | with_reducible apply State.hostCmd_kept | dsimp only

theorem execFirmwareImageDownload_kept {x0 : NHdr} {x1 : Nat} {x2 : List Byte} {s : State} : ∀ t, execFirmwareImageDownload x0 x1 x2 s = .next t → Kept s t := by
  have h := kept_refl s
  unfold execFirmwareImageDownload
  repeat' first
    | with_reducible assumption | with_reducible refine out_next ?_ | with_reducible apply State.hostCmd_kept | dsimp only

theorem execVerify_kept {x0 : NHdr} {x1 : BitVec 32} {x2 : Nat} {x3 : Nat} {s : State} : ∀ t, execVerify x0 x1 x2 x3 s = .next t → Kept s t := by
  have h := kept_refl s
  unfold execVerify
  repeat' first
    | with_reducible assumption | with_reducible refine out_next ?_ | with_reducible apply State.hostCmd_kept | dsimp only

theorem execAdvanceEpoch_kept {x0 : NHdr} {x1 : BitVec 32} {x2 : BitVec 4} {x3 : Bool} {s : State} : ∀ t, execAdvanceEpoch x0 x1 x2 x3 s = .next t → Kept s t := by
  have h := kept_refl s
  unfold execAdvanceEpoch
  repeat' first
    | with_reducible assumption | with_reducible refine out_next ?_ | with_reducible apply State.hostCmd_kept | dsimp only

theorem execServingStepEntry_kept {x0 : PartId} {s : State} : ∀ t, execServingStepEntry x0 s = .next t → Kept s t := by
  have h := kept_refl s
  unfold execServingStepEntry
  repeat' first
    | with_reducible assumption | with_reducible refine out_next ?_ | extract_lets | with_reducible apply State.servingEntry_kept
    | with_reducible apply kept_ite | with_reducible apply keptF_self | split | dsimp only [kept_mk]

theorem execPowerStateExitComplete_kept  {s : State} : ∀ t, execPowerStateExitComplete s = .next t → Kept s t := by
  have h := kept_refl s
  unfold execPowerStateExitComplete
  repeat' first
    | with_reducible assumption | with_reducible refine out_next ?_ | with_reducible apply State.psExited_kept | dsimp only

theorem execSearch_kept {x0 : NHdr} {x1 : BitVec 32} {x2 : BitVec 4} {x3 : List Byte} {s : State} : ∀ t, execSearch x0 x1 x2 x3 s = .next t → Kept s t := by
  have h := kept_refl s
  unfold execSearch
  repeat' first
    | with_reducible assumption | with_reducible refine out_next ?_ | with_reducible apply State.hostCmd_kept | dsimp only

theorem execFormatNvm_kept {x0 : NHdr} {x1 : BitVec 32} {x2 : Bool} {s : State} : ∀ t, execFormatNvm x0 x1 x2 s = .next t → Kept s t := by
  have h := kept_refl s
  unfold execFormatNvm
  repeat' first
    | with_reducible assumption | with_reducible refine out_next ?_ | with_reducible apply State.hostCmd_kept | dsimp only

theorem execMemoryCopy_kept {x0 : NHdr} {x1 : BitVec 32} {x2 : Nat} {x3 : BitVec 32} {x4 : Nat} {x5 : Nat} {s : State} : ∀ t, execMemoryCopy x0 x1 x2 x3 x4 x5 s = .next t → Kept s t := by
  have h := kept_refl s
  unfold execMemoryCopy
  repeat' first
    | with_reducible assumption | with_reducible refine out_next ?_ | with_reducible apply State.hostCmd_kept | dsimp only

theorem execPowerManagement_kept {x0 : NHdr} {x1 : BitVec 5} {s : State} : ∀ t, execPowerManagement x0 x1 s = .next t → Kept s t := by
  have h := kept_refl s
  unfold execPowerManagement
  repeat' first
    | with_reducible assumption | with_reducible refine out_next ?_ | with_reducible apply State.hostCmd_kept | dsimp only

theorem execAttachWeight_kept {x0 : NHdr} {x1 : BitVec 32} {x2 : BitVec 25} {x3 : Bool} {s : State} : ∀ t, execAttachWeight x0 x1 x2 x3 s = .next t → Kept s t := by
  have h := kept_refl s
  unfold execAttachWeight
  repeat' first
    | with_reducible assumption | with_reducible refine out_next ?_ | with_reducible apply State.hostCmd_kept | dsimp only

theorem execKeepAliveTimeout_kept {x0 : BitVec 8} {s : State} : ∀ t, execKeepAliveTimeout x0 s = .next t → Kept s t := by
  have h := kept_refl s
  unfold execKeepAliveTimeout
  repeat' first
    | with_reducible assumption | with_reducible refine out_next ?_ | with_reducible apply State.keepAliveOut_kept | dsimp only

theorem execGetFeatures_kept {x0 : NHdr} {x1 : BitVec 8} {s : State} : ∀ t, execGetFeatures x0 x1 s = .next t → Kept s t := by
  have h := kept_refl s
  unfold execGetFeatures
  repeat' first
    | with_reducible assumption | with_reducible refine out_next ?_ | with_reducible apply State.hostCmd_kept | dsimp only

theorem execMemoryWrite_kept {x0 : NHdr} {x1 : BitVec 32} {x2 : Nat} {x3 : List Byte} {s : State} : ∀ t, execMemoryWrite x0 x1 x2 x3 s = .next t → Kept s t := by
  have h := kept_refl s
  unfold execMemoryWrite
  repeat' first
    | with_reducible assumption | with_reducible refine out_next ?_ | with_reducible apply State.hostCmd_kept | dsimp only

theorem execWeightPageRewrite_kept {x0 : NHdr} {x1 : BitVec 32} {x2 : Nat} {x3 : List Byte} {x4 : Bool} {s : State} : ∀ t, execWeightPageRewrite x0 x1 x2 x3 x4 s = .next t → Kept s t := by
  have h := kept_refl s
  unfold execWeightPageRewrite
  repeat' first
    | with_reducible assumption | with_reducible refine out_next ?_ | with_reducible apply State.hostCmd_kept | dsimp only

theorem execNvmeMiCommand_kept {x0 : MiOp} {s : State} : ∀ t, execNvmeMiCommand x0 s = .next t → Kept s t := by
  have h := kept_refl s
  unfold execNvmeMiCommand
  repeat' first
    | with_reducible assumption | with_reducible refine out_next ?_ | with_reducible apply State.miServe_kept | dsimp only

theorem execResetZone_kept {x0 : NHdr} {x1 : BitVec 32} {x2 : Nat} {s : State} : ∀ t, execResetZone x0 x1 x2 s = .next t → Kept s t := by
  have h := kept_refl s
  unfold execResetZone
  repeat' first
    | with_reducible assumption | with_reducible refine out_next ?_ | with_reducible apply State.hostCmd_kept | dsimp only

theorem execProgramActivationManagement_kept {x0 : NHdr} {x1 : BitVec 32} {x2 : BitVec 16} {x3 : Bool} {s : State} : ∀ t, execProgramActivationManagement x0 x1 x2 x3 s = .next t → Kept s t := by
  have h := kept_refl s
  unfold execProgramActivationManagement
  repeat' first
    | with_reducible assumption | with_reducible refine out_next ?_ | with_reducible apply State.hostCmd_kept | dsimp only

theorem execSetOverlay_kept {x0 : NHdr} {x1 : BitVec 32} {x2 : PartId} {x3 : BitVec 10} {x4 : BitVec 8} {x5 : List Byte} {x6 : Bool} {s : State} : ∀ t, execSetOverlay x0 x1 x2 x3 x4 x5 x6 s = .next t → Kept s t := by
  have h := kept_refl s
  unfold execSetOverlay
  repeat' first
    | with_reducible assumption | with_reducible refine out_next ?_ | with_reducible apply State.hostCmd_kept | dsimp only

theorem execStagingStart_kept {x0 : BitVec 4} {s : State} : ∀ t, execStagingStart x0 s = .next t → Kept s t := by
  have h := kept_refl s
  unfold execStagingStart
  repeat' first
    | with_reducible assumption | with_reducible refine out_next ?_ | extract_lets | with_reducible apply State.startStaging_kept
    | with_reducible apply kept_ite | with_reducible apply keptF_self | split | dsimp only [kept_mk]

theorem execSetFeatures_kept {x0 : NHdr} {x1 : BitVec 8} {x2 : BitVec 32} {s : State} : ∀ t, execSetFeatures x0 x1 x2 s = .next t → Kept s t := by
  have h := kept_refl s
  unfold execSetFeatures
  repeat' first
    | with_reducible assumption | with_reducible refine out_next ?_ | with_reducible apply State.hostCmd_kept | dsimp only

theorem execCreateIoQueue_kept {x0 : NHdr} {x1 : Bool} {x2 : BitVec 16} {x3 : BitVec 16} {x4 : BitVec 16} {s : State} : ∀ t, execCreateIoQueue x0 x1 x2 x3 x4 s = .next t → Kept s t := by
  have h := kept_refl s
  unfold execCreateIoQueue
  repeat' first
    | with_reducible assumption | with_reducible refine out_next ?_ | with_reducible apply State.hostCmd_kept | dsimp only

theorem execAbort_kept {x0 : NHdr} {x1 : CmdRef} {s : State} : ∀ t, execAbort x0 x1 s = .next t → Kept s t := by
  have h := kept_refl s
  unfold execAbort
  repeat' first
    | with_reducible assumption | with_reducible refine out_next ?_ | with_reducible apply State.hostCmd_kept | dsimp only

theorem execIdentify_kept {x0 : NHdr} {x1 : BitVec 8} {x2 : BitVec 32} {s : State} : ∀ t, execIdentify x0 x1 x2 s = .next t → Kept s t := by
  have h := kept_refl s
  unfold execIdentify
  repeat' first
    | with_reducible assumption | with_reducible refine out_next ?_ | with_reducible apply State.hostCmd_kept | dsimp only

theorem execPowerGood_kept {x0 : Bool} {s : State} : ∀ t, execPowerGood x0 s = .next t → Kept s t := by
  have h := kept_refl s
  unfold execPowerGood
  repeat' first
    | with_reducible assumption | with_reducible refine out_next ?_ | extract_lets | with_reducible apply State.powerGood_kept
    | with_reducible apply kept_ite | with_reducible apply keptF_self | split | dsimp only [kept_mk]

theorem execPortReset_kept {x0 : BitVec 1} {s : State} : ∀ t, execPortReset x0 s = .next t → Kept s t := by
  have h := kept_refl s
  unfold execPortReset
  repeat' first
    | with_reducible assumption | with_reducible refine out_next ?_ | with_reducible apply State.runAll_kept
    | with_reducible apply State.portReset_kept | dsimp only

theorem execHostLinkRetrain_kept {x0 : BitVec 1} {x1 : Bool} {x2 : BitVec 3} {x3 : BitVec 4} {s : State} : ∀ t, execHostLinkRetrain x0 x1 x2 x3 s = .next t → Kept s t := by
  have h := kept_refl s
  unfold execHostLinkRetrain
  repeat' first
    | with_reducible assumption | with_reducible refine out_next ?_ | with_reducible apply State.linkRetrains_kept | dsimp only

theorem execWarmReset_kept  {s : State} : ∀ t, execWarmReset s = .next t → Kept s t := by
  have h := kept_refl s
  unfold execWarmReset
  repeat' first
    | with_reducible assumption | with_reducible refine out_next ?_ | with_reducible apply State.warmReset_kept | dsimp only

theorem execInputPowerLoss_kept  {s : State} : ∀ t, execInputPowerLoss s = .next t → Kept s t := by
  have h := kept_refl s
  unfold execInputPowerLoss
  repeat' first
    | with_reducible assumption | with_reducible refine out_next ?_ | with_reducible apply State.losePower_kept
    | with_reducible apply State.modGuard_kept | dsimp only

theorem execPwrDisAssert_kept  {s : State} : ∀ t, execPwrDisAssert s = .next t → Kept s t := by
  have h := kept_refl s
  unfold execPwrDisAssert
  repeat' first
    | with_reducible assumption | with_reducible refine out_next ?_ | with_reducible apply State.losePower_kept
    | with_reducible apply State.modGuard_kept | dsimp only

theorem execControllerEnable_kept {x0 : BitVec 8} {s : State} : ∀ t, execControllerEnable x0 s = .next t → Kept s t := by
  have h := kept_refl s
  unfold execControllerEnable
  repeat' first
    | with_reducible assumption | with_reducible refine out_next ?_ | with_reducible apply State.enableCtrl_kept | dsimp only

theorem execPwrDisDeassert_kept  {s : State} : ∀ t, execPwrDisDeassert s = .next t → Kept s t := by
  have h := kept_refl s
  unfold execPwrDisDeassert
  repeat' first
    | with_reducible assumption | with_reducible refine out_next ?_ | with_reducible apply State.modGuard_kept | dsimp only

theorem execPerstBothPorts_kept  {s : State} : ∀ t, execPerstBothPorts s = .next t → Kept s t := by
  have h := kept_refl s
  unfold execPerstBothPorts
  repeat' first
    | with_reducible assumption | with_reducible refine out_next ?_ | with_reducible apply State.warmReset_kept
    | with_reducible apply State.setPerst_kept | dsimp only

theorem execControllerReset_kept {x0 : BitVec 8} {s : State} : ∀ t, execControllerReset x0 s = .next t → Kept s t := by
  have h := kept_refl s
  unfold execControllerReset
  repeat' first
    | with_reducible assumption | with_reducible refine out_next ?_ | extract_lets | with_reducible apply State.runAll_kept
    | with_reducible apply State.resetCtrl_kept | with_reducible apply kept_ite | with_reducible apply keptF_self | split | dsimp only [kept_mk]

theorem execFlushComplete_kept {x0 : Bool} {s : State} : ∀ t, execFlushComplete x0 s = .next t → Kept s t := by
  have h := kept_refl s
  unfold execFlushComplete
  repeat' first
    | with_reducible assumption | with_reducible refine out_next ?_ | with_reducible apply State.flushed_kept | dsimp only

theorem execNvmSubsystemReset_kept {x0 : BitVec 1} {s : State} : ∀ t, execNvmSubsystemReset x0 s = .next t → Kept s t := by
  have h := kept_refl s
  unfold execNvmSubsystemReset
  repeat' first
    | with_reducible assumption | with_reducible refine out_next ?_ | extract_lets | with_reducible apply State.warmReset_kept
    | with_reducible apply kept_ite | with_reducible apply keptF_self | split | dsimp only [kept_mk]

theorem execFunctionLevelReset_kept {x0 : BitVec 8} {s : State} : ∀ t, execFunctionLevelReset x0 s = .next t → Kept s t := by
  have h := kept_refl s
  unfold execFunctionLevelReset
  repeat' first
    | with_reducible assumption | with_reducible refine out_next ?_ | extract_lets | with_reducible apply State.runAll_kept
    | with_reducible apply State.resetFn_kept | with_reducible apply kept_ite | with_reducible apply keptF_self | split | dsimp only [kept_mk]

theorem execGuardResetWarm_kept {x0 : Word} {s : State} : ∀ t, execGuardResetWarm x0 s = .next t → Kept s t := by
  have h := kept_refl s
  unfold execGuardResetWarm
  repeat' first
    | with_reducible assumption | with_reducible refine out_next ?_ | with_reducible apply State.registerWrite_kept | dsimp only

theorem execPerstDeassert_kept {x0 : BitVec 1} {x1 : BitVec 3} {x2 : BitVec 4} {s : State} : ∀ t, execPerstDeassert x0 x1 x2 s = .next t → Kept s t := by
  have h := kept_refl s
  unfold execPerstDeassert
  repeat' first
    | with_reducible assumption | with_reducible refine out_next ?_ | with_reducible apply State.perstUp_kept | dsimp only

theorem execMount_kept {x0 : Bool} {s : State} : ∀ t, execMount x0 s = .next t → Kept s t := by
  have h := kept_refl s
  unfold execMount
  repeat' first
    | with_reducible assumption | with_reducible refine out_next ?_ | with_reducible apply State.runStalled_kept
    | with_reducible apply State.mountMedia_kept | dsimp only

theorem execLeakDetect_kept {x0 : Bool} {s : State} : ∀ t, execLeakDetect x0 s = .next t → Kept s t := by
  have h := kept_refl s
  unfold execLeakDetect
  repeat' first
    | with_reducible assumption | with_reducible refine out_next ?_ | with_reducible apply State.modGuard_kept | dsimp only

theorem execVadd_kept {x0 : Hdr} {x1 : VxOps} {s : State} : ∀ t, execVadd x0 x1 s = .next t → Kept s t := by
  have h := kept_refl s
  unfold execVadd
  repeat' first
    | with_reducible assumption | with_reducible refine out_next ?_ | with_reducible apply State.issue_kept | dsimp only

theorem execVfma_kept {x0 : Hdr} {x1 : VxOps} {s : State} : ∀ t, execVfma x0 x1 s = .next t → Kept s t := by
  have h := kept_refl s
  unfold execVfma
  repeat' first
    | with_reducible assumption | with_reducible refine out_next ?_ | with_reducible apply State.issue_kept | dsimp only

theorem execMapp_kept {x0 : Hdr} {x1 : BitVec 5} {x2 : BitVec 24} {s : State} : ∀ t, execMapp x0 x1 x2 s = .next t → Kept s t := by
  have h := kept_refl s
  unfold execMapp
  repeat' first
    | with_reducible assumption | with_reducible refine out_next ?_ | with_reducible apply State.issue_kept | dsimp only

theorem execVabs_kept {x0 : Hdr} {x1 : VxOps} {s : State} : ∀ t, execVabs x0 x1 s = .next t → Kept s t := by
  have h := kept_refl s
  unfold execVabs
  repeat' first
    | with_reducible assumption | with_reducible refine out_next ?_ | with_reducible apply State.issue_kept | dsimp only

theorem execCmul_kept {x0 : Hdr} {x1 : BitVec 4} {x2 : BitVec 4} {x3 : CSrc} {s : State} : ∀ t, execCmul x0 x1 x2 x3 s = .next t → Kept s t := by
  have h := kept_refl s
  unfold execCmul
  repeat' first
    | with_reducible assumption | with_reducible refine out_next ?_ | with_reducible apply State.issue_kept | dsimp only

theorem execCsts_kept {x0 : Hdr} {x1 : BitVec 4} {x2 : BitVec 5} {x3 : BitVec 24} {s : State} : ∀ t, execCsts x0 x1 x2 x3 s = .next t → Kept s t := by
  have h := kept_refl s
  unfold execCsts
  repeat' first
    | with_reducible assumption | with_reducible refine out_next ?_ | with_reducible apply State.issue_kept | dsimp only

theorem execOxsr_kept {x0 : Hdr} {x1 : OxOps} {s : State} : ∀ t, execOxsr x0 x1 s = .next t → Kept s t := by
  have h := kept_refl s
  unfold execOxsr
  repeat' first
    | with_reducible assumption | with_reducible refine out_next ?_ | with_reducible apply State.issue_kept | dsimp only

theorem execCmax_kept {x0 : Hdr} {x1 : BitVec 4} {x2 : BitVec 4} {x3 : CSrc} {s : State} : ∀ t, execCmax x0 x1 x2 x3 s = .next t → Kept s t := by
  have h := kept_refl s
  unfold execCmax
  repeat' first
    | with_reducible assumption | with_reducible refine out_next ?_ | with_reducible apply State.issue_kept | dsimp only

theorem execClds_kept {x0 : Hdr} {x1 : BitVec 4} {x2 : BitVec 5} {x3 : BitVec 24} {s : State} : ∀ t, execClds x0 x1 x2 x3 s = .next t → Kept s t := by
  have h := kept_refl s
  unfold execClds
  repeat' first
    | with_reducible assumption | with_reducible refine out_next ?_ | with_reducible apply State.issue_kept | dsimp only

theorem execVrms_kept {x0 : Hdr} {x1 : VxOps} {s : State} : ∀ t, execVrms x0 x1 s = .next t → Kept s t := by
  have h := kept_refl s
  unfold execVrms
  repeat' first
    | with_reducible assumption | with_reducible refine out_next ?_ | with_reducible apply State.issue_kept | dsimp only

theorem execVmin_kept {x0 : Hdr} {x1 : VxOps} {s : State} : ∀ t, execVmin x0 x1 s = .next t → Kept s t := by
  have h := kept_refl s
  unfold execVmin
  repeat' first
    | with_reducible assumption | with_reducible refine out_next ?_ | with_reducible apply State.issue_kept | dsimp only

theorem execVlfa_kept {x0 : Hdr} {x1 : VxOps} {s : State} : ∀ t, execVlfa x0 x1 s = .next t → Kept s t := by
  have h := kept_refl s
  unfold execVlfa
  repeat' first
    | with_reducible assumption | with_reducible refine out_next ?_ | with_reducible apply State.issue_kept | dsimp only

theorem execOxupd_kept {x0 : Hdr} {x1 : OxOps} {s : State} : ∀ t, execOxupd x0 x1 s = .next t → Kept s t := by
  have h := kept_refl s
  unfold execOxupd
  repeat' first
    | with_reducible assumption | with_reducible refine out_next ?_ | with_reducible apply State.issue_kept | dsimp only

theorem execVsmax_kept {x0 : Hdr} {x1 : VxOps} {s : State} : ∀ t, execVsmax x0 x1 s = .next t → Kept s t := by
  have h := kept_refl s
  unfold execVsmax
  repeat' first
    | with_reducible assumption | with_reducible refine out_next ?_ | with_reducible apply State.issue_kept | dsimp only

theorem execCldr_kept {x0 : Hdr} {x1 : BitVec 4} {x2 : BitVec 6} {x3 : BitVec 5} {x4 : BitVec 20} {s : State} : ∀ t, execCldr x0 x1 x2 x3 x4 s = .next t → Kept s t := by
  have h := kept_refl s
  unfold execCldr
  repeat' first
    | with_reducible assumption | with_reducible refine out_next ?_ | with_reducible apply State.issue_kept | dsimp only

theorem execMxp_kept {x0 : Hdr} {x1 : BitVec 6} {x2 : BitVec 2} {s : State} : ∀ t, execMxp x0 x1 x2 s = .next t → Kept s t := by
  have h := kept_refl s
  unfold execMxp
  repeat' first
    | with_reducible assumption | with_reducible refine out_next ?_ | with_reducible apply State.issue_kept | dsimp only

theorem execDxg_kept {x0 : Hdr} {x1 : DxOps} {s : State} : ∀ t, execDxg x0 x1 s = .next t → Kept s t := by
  have h := kept_refl s
  unfold execDxg
  repeat' first
    | with_reducible assumption | with_reducible refine out_next ?_ | with_reducible apply State.issue_kept | dsimp only

theorem execVneg_kept {x0 : Hdr} {x1 : VxOps} {s : State} : ∀ t, execVneg x0 x1 s = .next t → Kept s t := by
  have h := kept_refl s
  unfold execVneg
  repeat' first
    | with_reducible assumption | with_reducible refine out_next ?_ | with_reducible apply State.issue_kept | dsimp only

theorem execTadd_kept {x0 : Hdr} {x1 : BitVec 6} {x2 : BitVec 4} {s : State} : ∀ t, execTadd x0 x1 x2 s = .next t → Kept s t := by
  have h := kept_refl s
  unfold execTadd
  repeat' first
    | with_reducible assumption | with_reducible refine out_next ?_ | with_reducible apply State.issue_kept | dsimp only

theorem execCmin_kept {x0 : Hdr} {x1 : BitVec 4} {x2 : BitVec 4} {x3 : CSrc} {s : State} : ∀ t, execCmin x0 x1 x2 x3 s = .next t → Kept s t := by
  have h := kept_refl s
  unfold execCmin
  repeat' first
    | with_reducible assumption | with_reducible refine out_next ?_ | with_reducible apply State.issue_kept | dsimp only

theorem execVmax_kept {x0 : Hdr} {x1 : VxOps} {s : State} : ∀ t, execVmax x0 x1 s = .next t → Kept s t := by
  have h := kept_refl s
  unfold execVmax
  repeat' first
    | with_reducible assumption | with_reducible refine out_next ?_ | with_reducible apply State.issue_kept | dsimp only

theorem execPres_kept {x0 : Hdr} {x1 : BitVec 5} {x2 : BitVec 4} {s : State} : ∀ t, execPres x0 x1 x2 s = .next t → Kept s t := by
  have h := kept_refl s
  unfold execPres
  repeat' first
    | with_reducible assumption | with_reducible refine out_next ?_ | with_reducible apply State.issue_kept | dsimp only

theorem execEndStep_kept {x0 : Hdr} {s : State} : ∀ t, execEndStep x0 s = .next t → Kept s t := by
  have h := kept_refl s
  unfold execEndStep
  repeat' first
    | with_reducible assumption | with_reducible refine out_next ?_ | with_reducible apply State.issue_kept | dsimp only

theorem execVlog2_kept {x0 : Hdr} {x1 : VxOps} {s : State} : ∀ t, execVlog2 x0 x1 s = .next t → Kept s t := by
  have h := kept_refl s
  unfold execVlog2
  repeat' first
    | with_reducible assumption | with_reducible refine out_next ?_ | with_reducible apply State.issue_kept | dsimp only

theorem execAllred_kept {x0 : Hdr} {x1 : CollOps} {s : State} : ∀ t, execAllred x0 x1 s = .next t → Kept s t := by
  have h := kept_refl s
  unfold execAllred
  repeat' first
    | with_reducible assumption | with_reducible refine out_next ?_ | with_reducible apply State.issue_kept | dsimp only

theorem execVcvt_kept {x0 : Hdr} {x1 : VxOps} {s : State} : ∀ t, execVcvt x0 x1 s = .next t → Kept s t := by
  have h := kept_refl s
  unfold execVcvt
  repeat' first
    | with_reducible assumption | with_reducible refine out_next ?_ | with_reducible apply State.issue_kept | dsimp only

theorem execSkip_kept {x0 : Hdr} {x1 : BitVec 3} {x2 : BitVec 12} {s : State} : ∀ t, execSkip x0 x1 x2 s = .next t → Kept s t := by
  have h := kept_refl s
  unfold execSkip
  repeat' first
    | with_reducible assumption | with_reducible refine out_next ?_ | with_reducible apply State.issue_kept | dsimp only

theorem execLoop_kept {x0 : Hdr} {x1 : BitVec 3} {x2 : BitVec 4} {x3 : BitVec 12} {s : State} : ∀ t, execLoop x0 x1 x2 x3 s = .next t → Kept s t := by
  have h := kept_refl s
  unfold execLoop
  repeat' first
    | with_reducible assumption | with_reducible refine out_next ?_ | with_reducible apply State.issue_kept | dsimp only

theorem execSxtopk_kept {x0 : Hdr} {x1 : BitVec 5} {x2 : BitVec 5} {x3 : BitVec 4} {x4 : Bool} {x5 : Bool} {x6 : BitVec 13} {x7 : Bool} {s : State} : ∀ t, execSxtopk x0 x1 x2 x3 x4 x5 x6 x7 s = .next t → Kept s t := by
  have h := kept_refl s
  unfold execSxtopk
  repeat' first
    | with_reducible assumption | with_reducible refine out_next ?_ | with_reducible apply State.issue_kept | dsimp only

theorem execVrsum_kept {x0 : Hdr} {x1 : VxOps} {s : State} : ∀ t, execVrsum x0 x1 s = .next t → Kept s t := by
  have h := kept_refl s
  unfold execVrsum
  repeat' first
    | with_reducible assumption | with_reducible refine out_next ?_ | with_reducible apply State.issue_kept | dsimp only

theorem execCset_kept {x0 : Hdr} {x1 : BitVec 4} {x2 : CSrc} {s : State} : ∀ t, execCset x0 x1 x2 s = .next t → Kept s t := by
  have h := kept_refl s
  unfold execCset
  repeat' first
    | with_reducible assumption | with_reducible refine out_next ?_ | with_reducible apply State.issue_kept | dsimp only

theorem execCsub_kept {x0 : Hdr} {x1 : BitVec 4} {x2 : BitVec 4} {x3 : CSrc} {s : State} : ∀ t, execCsub x0 x1 x2 x3 s = .next t → Kept s t := by
  have h := kept_refl s
  unfold execCsub
  repeat' first
    | with_reducible assumption | with_reducible refine out_next ?_ | with_reducible apply State.issue_kept | dsimp only

theorem execAgset_kept {x0 : Hdr} {x1 : BitVec 5} {x2 : AgSrc} {s : State} : ∀ t, execAgset x0 x1 x2 s = .next t → Kept s t := by
  have h := kept_refl s
  unfold execAgset
  repeat' first
    | with_reducible assumption | with_reducible refine out_next ?_ | with_reducible apply State.issue_kept | dsimp only

theorem execVrmax_kept {x0 : Hdr} {x1 : VxOps} {s : State} : ∀ t, execVrmax x0 x1 s = .next t → Kept s t := by
  have h := kept_refl s
  unfold execVrmax
  repeat' first
    | with_reducible assumption | with_reducible refine out_next ?_ | with_reducible apply State.issue_kept | dsimp only

theorem execCidx_kept {x0 : Hdr} {x1 : BitVec 4} {x2 : BitVec 3} {s : State} : ∀ t, execCidx x0 x1 x2 s = .next t → Kept s t := by
  have h := kept_refl s
  unfold execCidx
  repeat' first
    | with_reducible assumption | with_reducible refine out_next ?_ | with_reducible apply State.issue_kept | dsimp only

theorem execMxl_kept {x0 : Hdr} {x1 : BitVec 6} {x2 : BitVec 2} {x3 : BitVec 5} {x4 : BitVec 24} {s : State} : ∀ t, execMxl x0 x1 x2 x3 x4 s = .next t → Kept s t := by
  have h := kept_refl s
  unfold execMxl
  repeat' first
    | with_reducible assumption | with_reducible refine out_next ?_ | with_reducible apply State.issue_kept | dsimp only

theorem execVrsq_kept {x0 : Hdr} {x1 : VxOps} {s : State} : ∀ t, execVrsq x0 x1 s = .next t → Kept s t := by
  have h := kept_refl s
  unfold execVrsq
  repeat' first
    | with_reducible assumption | with_reducible refine out_next ?_ | with_reducible apply State.issue_kept | dsimp only

theorem execHxsend_kept {x0 : Hdr} {x1 : HxOps} {s : State} : ∀ t, execHxsend x0 x1 s = .next t → Kept s t := by
  have h := kept_refl s
  unfold execHxsend
  repeat' first
    | with_reducible assumption | with_reducible refine out_next ?_ | with_reducible apply State.issue_kept | dsimp only

theorem execBcast_kept {x0 : Hdr} {x1 : CollOps} {s : State} : ∀ t, execBcast x0 x1 s = .next t → Kept s t := by
  have h := kept_refl s
  unfold execBcast
  repeat' first
    | with_reducible assumption | with_reducible refine out_next ?_ | with_reducible apply State.issue_kept | dsimp only

theorem execVrcp_kept {x0 : Hdr} {x1 : VxOps} {s : State} : ∀ t, execVrcp x0 x1 s = .next t → Kept s t := by
  have h := kept_refl s
  unfold execVrcp
  repeat' first
    | with_reducible assumption | with_reducible refine out_next ?_ | with_reducible apply State.issue_kept | dsimp only

theorem execVreq_kept {x0 : Hdr} {x1 : VxOps} {s : State} : ∀ t, execVreq x0 x1 s = .next t → Kept s t := by
  have h := kept_refl s
  unfold execVreq
  repeat' first
    | with_reducible assumption | with_reducible refine out_next ?_ | with_reducible apply State.issue_kept | dsimp only

theorem execAgadd_kept {x0 : Hdr} {x1 : BitVec 5} {x2 : AgTerm} {s : State} : ∀ t, execAgadd x0 x1 x2 s = .next t → Kept s t := by
  have h := kept_refl s
  unfold execAgadd
  repeat' first
    | with_reducible assumption | with_reducible refine out_next ?_ | with_reducible apply State.issue_kept | dsimp only

theorem execVsel_kept {x0 : Hdr} {x1 : VxOps} {s : State} : ∀ t, execVsel x0 x1 s = .next t → Kept s t := by
  have h := kept_refl s
  unfold execVsel
  repeat' first
    | with_reducible assumption | with_reducible refine out_next ?_ | with_reducible apply State.issue_kept | dsimp only

theorem execVexp2_kept {x0 : Hdr} {x1 : VxOps} {s : State} : ∀ t, execVexp2 x0 x1 s = .next t → Kept s t := by
  have h := kept_refl s
  unfold execVexp2
  repeat' first
    | with_reducible assumption | with_reducible refine out_next ?_ | with_reducible apply State.issue_kept | dsimp only

theorem execExitLoop_kept {x0 : Hdr} {x1 : BitVec 3} {x2 : BitVec 3} {s : State} : ∀ t, execExitLoop x0 x1 x2 s = .next t → Kept s t := by
  have h := kept_refl s
  unfold execExitLoop
  repeat' first
    | with_reducible assumption | with_reducible refine out_next ?_ | with_reducible apply State.issue_kept | dsimp only

theorem execMrd_kept {x0 : Hdr} {x1 : BitVec 5} {x2 : BitVec 24} {s : State} : ∀ t, execMrd x0 x1 x2 s = .next t → Kept s t := by
  have h := kept_refl s
  unfold execMrd
  repeat' first
    | with_reducible assumption | with_reducible refine out_next ?_ | with_reducible apply State.issue_kept | dsimp only

theorem execPread_kept {x0 : Hdr} {x1 : BitVec 5} {s : State} : ∀ t, execPread x0 x1 s = .next t → Kept s t := by
  have h := kept_refl s
  unfold execPread
  repeat' first
    | with_reducible assumption | with_reducible refine out_next ?_ | with_reducible apply State.issue_kept | dsimp only

theorem execVlnorm_kept {x0 : Hdr} {x1 : VxOps} {s : State} : ∀ t, execVlnorm x0 x1 s = .next t → Kept s t := by
  have h := kept_refl s
  unfold execVlnorm
  repeat' first
    | with_reducible assumption | with_reducible refine out_next ?_ | with_reducible apply State.issue_kept | dsimp only

theorem execHxrecv_kept {x0 : Hdr} {x1 : HxOps} {s : State} : ∀ t, execHxrecv x0 x1 s = .next t → Kept s t := by
  have h := kept_refl s
  unfold execHxrecv
  repeat' first
    | with_reducible assumption | with_reducible refine out_next ?_ | with_reducible apply State.issue_kept | dsimp only

theorem execSxand_kept {x0 : Hdr} {x1 : BitVec 5} {x2 : BitVec 5} {x3 : BitVec 5} {x4 : BitVec 5} {x5 : BitVec 4} {s : State} : ∀ t, execSxand x0 x1 x2 x3 x4 x5 s = .next t → Kept s t := by
  have h := kept_refl s
  unfold execSxand
  repeat' first
    | with_reducible assumption | with_reducible refine out_next ?_ | with_reducible apply State.issue_kept | dsimp only

theorem execCadd_kept {x0 : Hdr} {x1 : BitVec 4} {x2 : BitVec 4} {x3 : CSrc} {s : State} : ∀ t, execCadd x0 x1 x2 x3 s = .next t → Kept s t := by
  have h := kept_refl s
  unfold execCadd
  repeat' first
    | with_reducible assumption | with_reducible refine out_next ?_ | with_reducible apply State.issue_kept | dsimp only

theorem execAginc_kept {x0 : Hdr} {x1 : BitVec 5} {x2 : BitVec 3} {x3 : AgIncSrc} {s : State} : ∀ t, execAginc x0 x1 x2 x3 s = .next t → Kept s t := by
  have h := kept_refl s
  unfold execAginc
  repeat' first
    | with_reducible assumption | with_reducible refine out_next ?_ | with_reducible apply State.issue_kept | dsimp only

theorem execJmp_kept {x0 : Hdr} {x1 : BitVec 3} {x2 : Bool} {x3 : BitVec 19} {s : State} : ∀ t, execJmp x0 x1 x2 x3 s = .next t → Kept s t := by
  have h := kept_refl s
  unfold execJmp
  repeat' first
    | with_reducible assumption | with_reducible refine out_next ?_ | with_reducible apply State.issue_kept | dsimp only

theorem execDxs_kept {x0 : Hdr} {x1 : DxOps} {s : State} : ∀ t, execDxs x0 x1 s = .next t → Kept s t := by
  have h := kept_refl s
  unfold execDxs
  repeat' first
    | with_reducible assumption | with_reducible refine out_next ?_ | with_reducible apply State.issue_kept | dsimp only

theorem execVmul_kept {x0 : Hdr} {x1 : VxOps} {s : State} : ∀ t, execVmul x0 x1 s = .next t → Kept s t := by
  have h := kept_refl s
  unfold execVmul
  repeat' first
    | with_reducible assumption | with_reducible refine out_next ?_ | with_reducible apply State.issue_kept | dsimp only

theorem execClear_kept {x0 : Hdr} {x1 : CollOps} {s : State} : ∀ t, execClear x0 x1 s = .next t → Kept s t := by
  have h := kept_refl s
  unfold execClear
  repeat' first
    | with_reducible assumption | with_reducible refine out_next ?_ | with_reducible apply State.issue_kept | dsimp only

theorem execSxroute_kept {x0 : Hdr} {x1 : BitVec 5} {x2 : BitVec 5} {x3 : BitVec 5} {x4 : BitVec 4} {x5 : BitVec 8} {x6 : BitVec 3} {s : State} : ∀ t, execSxroute x0 x1 x2 x3 x4 x5 x6 s = .next t → Kept s t := by
  have h := kept_refl s
  unfold execSxroute
  repeat' first
    | with_reducible assumption | with_reducible refine out_next ?_ | with_reducible apply State.issue_kept | dsimp only

theorem execSxmerge_kept {x0 : Hdr} {x1 : BitVec 5} {x2 : BitVec 5} {x3 : BitVec 5} {x4 : Bool} {x5 : Bool} {x6 : BitVec 13} {s : State} : ∀ t, execSxmerge x0 x1 x2 x3 x4 x5 x6 s = .next t → Kept s t := by
  have h := kept_refl s
  unfold execSxmerge
  repeat' first
    | with_reducible assumption | with_reducible refine out_next ?_ | with_reducible apply State.issue_kept | dsimp only

theorem execGxput_kept {x0 : Hdr} {x1 : GxOps} {s : State} : ∀ t, execGxput x0 x1 s = .next t → Kept s t := by
  have h := kept_refl s
  unfold execGxput
  repeat' first
    | with_reducible assumption | with_reducible refine out_next ?_ | with_reducible apply State.issue_kept | dsimp only

theorem execGxget_kept {x0 : Hdr} {x1 : GxOps} {s : State} : ∀ t, execGxget x0 x1 s = .next t → Kept s t := by
  have h := kept_refl s
  unfold execGxget
  repeat' first
    | with_reducible assumption | with_reducible refine out_next ?_ | with_reducible apply State.issue_kept | dsimp only

theorem execMwr_kept {x0 : Hdr} {x1 : BitVec 5} {x2 : BitVec 24} {s : State} : ∀ t, execMwr x0 x1 x2 s = .next t → Kept s t := by
  have h := kept_refl s
  unfold execMwr
  repeat' first
    | with_reducible assumption | with_reducible refine out_next ?_ | with_reducible apply State.issue_kept | dsimp only

theorem execNop_kept {x0 : Hdr} {s : State} : ∀ t, execNop x0 s = .next t → Kept s t := by
  have h := kept_refl s
  unfold execNop
  repeat' first
    | with_reducible assumption | with_reducible refine out_next ?_ | with_reducible apply State.issue_kept | dsimp only

theorem execVcmp_kept {x0 : Hdr} {x1 : VxOps} {s : State} : ∀ t, execVcmp x0 x1 s = .next t → Kept s t := by
  have h := kept_refl s
  unfold execVcmp
  repeat' first
    | with_reducible assumption | with_reducible refine out_next ?_ | with_reducible apply State.issue_kept | dsimp only

theorem execCdiv_kept {x0 : Hdr} {x1 : BitVec 4} {x2 : BitVec 4} {x3 : CSrc} {s : State} : ∀ t, execCdiv x0 x1 x2 x3 s = .next t → Kept s t := by
  have h := kept_refl s
  unfold execCdiv
  repeat' first
    | with_reducible assumption | with_reducible refine out_next ?_ | with_reducible apply State.issue_kept | dsimp only

theorem execVkl_kept {x0 : Hdr} {x1 : VxOps} {s : State} : ∀ t, execVkl x0 x1 s = .next t → Kept s t := by
  have h := kept_refl s
  unfold execVkl
  repeat' first
    | with_reducible assumption | with_reducible refine out_next ?_ | with_reducible apply State.issue_kept | dsimp only

theorem execSxwalk_kept {x0 : Hdr} {x1 : BitVec 5} {x2 : BitVec 5} {s : State} : ∀ t, execSxwalk x0 x1 x2 s = .next t → Kept s t := by
  have h := kept_refl s
  unfold execSxwalk
  repeat' first
    | with_reducible assumption | with_reducible refine out_next ?_ | with_reducible apply State.issue_kept | dsimp only

theorem execRedscat_kept {x0 : Hdr} {x1 : CollOps} {s : State} : ∀ t, execRedscat x0 x1 s = .next t → Kept s t := by
  have h := kept_refl s
  unfold execRedscat
  repeat' first
    | with_reducible assumption | with_reducible refine out_next ?_ | with_reducible apply State.issue_kept | dsimp only

theorem execCmp_kept {x0 : Hdr} {x1 : BitVec 3} {x2 : BitVec 4} {x3 : Bool} {x4 : BitVec 4} {x5 : BitVec 16} {x6 : BitVec 3} {s : State} : ∀ t, execCmp x0 x1 x2 x3 x4 x5 x6 s = .next t → Kept s t := by
  have h := kept_refl s
  unfold execCmp
  repeat' first
    | with_reducible assumption | with_reducible refine out_next ?_ | with_reducible apply State.issue_kept | dsimp only

theorem execMxt_kept {x0 : Hdr} {x1 : MxtOps} {s : State} : ∀ t, execMxt x0 x1 s = .next t → Kept s t := by
  have h := kept_refl s
  unfold execMxt
  repeat' first
    | with_reducible assumption | with_reducible refine out_next ?_ | with_reducible apply State.issue_kept | dsimp only

theorem execVsub_kept {x0 : Hdr} {x1 : VxOps} {s : State} : ∀ t, execVsub x0 x1 s = .next t → Kept s t := by
  have h := kept_refl s
  unfold execVsub
  repeat' first
    | with_reducible assumption | with_reducible refine out_next ?_ | with_reducible apply State.issue_kept | dsimp only

theorem execVlf_kept {x0 : Hdr} {x1 : VxOps} {s : State} : ∀ t, execVlf x0 x1 s = .next t → Kept s t := by
  have h := kept_refl s
  unfold execVlf
  repeat' first
    | with_reducible assumption | with_reducible refine out_next ?_ | with_reducible apply State.issue_kept | dsimp only

end Sys2Proof.Machine
end

