-- ==== Sys2Proof/Laws/Launch.lean ====
section
/-! SUPPORT. Laws/Launch.lean: an engine instruction issued on a core whose queue is empty and whose engine is free: it starts at once, and nothing more
moves. -/

namespace Sys2Proof.Machine

open Sys2Proof

/-- What is equal in two cores of one control part. -/
theorem Core.ctl_parts {k j : Core} (h : k.ctl = j.ctl) : k.queue = j.queue ∧ k.held = j.held ∧ k.index = j.index ∧ k.codeLen = j.codeLen ∧
    k.run = j.run ∧ k.ended = j.ended ∧ k.codeBase = j.codeBase ∧ k.ctr = j.ctr ∧ k.cmp = j.cmp ∧ k.agBase = j.agBase ∧ k.agInc = j.agInc ∧
    k.levels = j.levels := by
  have q := fun {β : Type} (f : Core → β) => congrArg f h
  exact ⟨q Core.queue, q Core.held, q Core.index, q Core.codeLen, q Core.run, q Core.ended, q Core.codeBase, q Core.ctr, q Core.cmp, q Core.agBase,
    q Core.agInc, q Core.levels⟩

/-- Whether an engine can start an instruction does not hang on what is queued. -/
theorem State.engineFree_queue (s : State) (c : Nat) (k : Core) (l : List Queued) (q : Queued) :
    (s.setCore c k).engineFree c q = (s.setCore c { k with queue := l }).engineFree c q := by
  have core : ∀ d, (s.setCore c { k with queue := l }).core d = if d = c then { k with queue := l } else (s.setCore c k).core d := by
    intro d
    split
    · rename_i e
      subst e
      exact State.core_setCore_self _ _ _
    · rename_i e
      rw [State.core_setCore_ne _ e, State.core_setCore_ne _ e]
  have part : ∀ {β : Type} (f : Core → β), f { k with queue := l } = f k → ∀ d, f ((s.setCore c { k with queue := l }).core d) = f ((s.setCore c k).core d) := by
    intro β f hf d
    rw [core]
    split
    · rename_i e
      subst e
      rw [hf, State.core_setCore_self]
    · rfl
  have busy := part Core.busy rfl
  have streams := part Core.streams rfl
  have merge := part Core.merge rfl
  have flipped := part Core.flipped rfl
  have job := part Core.job rfl
  have payer : (s.setCore c { k with queue := l }).payer c = (s.setCore c k).payer c := by
    unfold State.payer State.jobOn
    rw [job]
    rfl
  have bytes : ∀ x u o n, (s.setCore c { k with queue := l }).opBytes x u o n = (s.setCore c k).opBytes x u o n := by
    intro x u o n
    unfold State.opBytes State.miscorrect State.sramByte
    simp only [merge, flipped]
    rfl
  have waits : ∀ x a m i, (s.setCore c { k with queue := l }).mediaWaits x a m i = (s.setCore c k).mediaWaits x a m i := by
    intro x a m i
    unfold State.mediaWaits
    rw [bytes]
    rfl
  unfold State.engineFree
  simp only [busy, streams, payer, waits]
  rfl

/-- A core quiet after its engine has started: see `State.run_quiet`. -/
theorem State.run_head {s : State} {c : Nat} {q : Queued} (hq : (s.core c).queue = [q]) (hr : (s.core c).run ≠ .switchedOut) (hw : q.waits = false)
    (hf : s.engineFree c q = true) (hl : q.lane ∈ laneOrder) (hh : (s.core c).held = none ∨ (s.core c).held = some .atBoundary)
    (hi : (s.core c).held = none → (s.core c).index < (s.core c).codeLen) (he : (s.core c).ended = false) : s.run c = s.launch c q := by
  have hk : State.kick 128 c s = State.kick 127 c (s.launch c q) := by
    rw [State.kick]
    have e : laneOrder.findSome? (fun l => ((s.core c).headOf l).filter (fun q => !q.waits && s.engineFree c q)) = some q := by
      have e1 : ∀ l, ((s.core c).headOf l).filter (fun q => !q.waits && s.engineFree c q) = if q.lane = l then some q else none := by
        intro l
        unfold Core.headOf
        rw [hq]
        by_cases e : q.lane = l
        · simp [e, hw, hf]
        · simp [e]
      simp only [e1]
      clear e1
      generalize laneOrder = ls at hl
      induction ls with
      | nil => cases hl
      | cons a r ih =>
        by_cases e : q.lane = a
        · simp [List.findSome?, e]
        · simp only [List.findSome?, e, if_false]
          exact ih (by simpa [e] using hl)
    simp only [e]
  have hc : Ctl (s.modCore c (fun k => { k with queue := k.queue.erase q })) (s.launch c q) := State.start_ctl (ctl_refl _)
  have h1 := Core.ctl_parts (ctl_core hc c)
  rw [State.core_modCore_self] at h1
  simp only [hq, List.erase_cons_head] at h1
  obtain ⟨a1, a2, a3, a4, a5, a6, -⟩ := h1
  have quiet := State.run_quiet (s := s.launch c q) (c := c) a1 (by rw [a2]; exact hh) (by rw [a2, a3, a4]; exact hi)
    (by rw [a6, he]; exact fun e => by cases e)
  unfold State.run at quiet ⊢
  rw [if_neg hr, hk]
  rw [a5, if_neg hr] at quiet
  have k2 : ∀ n, State.kick n c (s.launch c q) = s.launch c q := by
    intro n
    cases n with
    | zero => rfl
    | succ n =>
      rw [State.kick]
      have e1 : ∀ l, ((s.launch c q).core c).headOf l = none := by
        intro l
        simp [Core.headOf, a1]
      have e2 : ((s.launch c q).core c).heldEngine = none := by
        unfold Core.heldEngine
        rw [a2]
        rcases hh with h | h <;> simp [h]
      simp [e1, e2, laneOrder, List.findSome?]
  rw [k2] at quiet ⊢
  exact quiet

/-- An engine instruction issued with its queue empty and its engine free starts at once. -/
theorem State.issue_starts {s : State} {h : Hdr} {i : Instr} {cls : Cls} (r : s.EngineReady h i) (hop : i.op? = some (cls, h)) (hcls : cls ≠ .seq)
    (hfused : s.fusedOff = false ∨ (cls ≠ .ox ∧ cls ≠ .hx)) : s.issue i = (s.leaving h).start ⟨i, s.ctx h.core.toNat i⟩ := by
  obtain ⟨⟨ready, cached, empty, token, rsv, units, room⟩, inside, nowait, legal, free⟩ := r
  generalize hc : h.core.toNat = c at *
  obtain ⟨ic, hf⟩ := State.fetch_cached cached
  obtain ⟨w, hw⟩ : ∃ w, w = s.modCore c (fun k => { k with icache := ic }) := ⟨_, rfl⟩
  rw [← hw] at hf
  have cw : w.core c = { (s.core c) with icache := ic } := by
    rw [hw]
    exact State.core_modCore_self s c (fun k => { k with icache := ic })
  have rdy := ready
  simp only [State.canIssue, Bool.and_eq_true, beq_iff_eq] at rdy
  have hrun : (s.core c).run = .running := rdy.1.1.1.2
  have hend : (s.core c).ended = false := by simpa using rdy.1.2
  have hx : w.ctx c i = s.ctx c i := by
    have hp : w.payer c = s.payer c := by
      unfold State.payer State.jobOn
      rw [cw, hw]
      rfl
    unfold State.ctx
    rw [cw, hp, hw]
    rfl
  obtain ⟨q, eq⟩ : ∃ q : Queued, q = ⟨i, s.ctx c i⟩ := ⟨_, rfl⟩
  rw [← eq] at free ⊢
  -- the fate of the instruction is good
  have hfo : w.fusedOff = s.fusedOff := by rw [hw]; rfl
  have hfate : w.fate i cls h = .good := by
    unfold State.fate
    rw [token, hfo, rsv, legal]
    rcases hfused with e | ⟨e1, e2⟩
    · simp [e]
    · simp [e1, e2]
  -- the queue holds it and nothing else
  let k1 : Core := { (w.core c).goto ((w.core c).index + 1) with queue := [q], held := if h.boundary then some .atBoundary else none, stalled := false }
  have hqi : w.queueIn c i h = (w.setCore c k1).addReg (Reg.SEQ_ISSUED c) 1 := by
    unfold State.queueIn State.modCore
    simp only [hx, ← eq, k1]
    rw [show (w.core c).queue = [] by rw [cw]; exact empty]
    generalize Reg.SEQ_ISSUED c = X
    rfl
  have hfull : (w.core c).full cls = false := by
    unfold Core.full
    rw [cw]
    simp only [empty, List.filter_nil, List.length_nil, decide_eq_false_iff_not, clsCap]
    split <;> omega
  have hlane : q.lane = clsQueue cls := by
    rw [eq]
    unfold Queued.lane
    rw [hop]
  have hl : q.lane ∈ laneOrder := by
    rw [hlane]
    revert hcls
    cases cls <;> simp [clsQueue, laneOrder]
  have hwait : q.waits = false := by
    rw [eq]
    unfold Queued.waits
    rw [hop]
    exact nowait
  -- the state it starts from
  have hleave : s.leaving h = (w.setCore c { k1 with queue := [] }).addReg (Reg.SEQ_ISSUED c) 1 := by
    unfold State.leaving State.modCore
    rw [hc, hf]
    simp only [Option.getD_some, k1]
    rw [cw]
    simp only [Core.goto, empty]
  have hstart : (w.queueIn c i h).launch c q = (s.leaving h).start q := by
    unfold State.launch
    rw [hqi, hleave]
    congr 1
    have e1 : ((w.setCore c k1).addReg (Reg.SEQ_ISSUED c) 1).core c = k1 := ((w.setCore c k1).addReg_frame _ 1).2 c |>.trans (State.core_setCore_self w c k1)
    have e2 : k1.queue.erase q = [] := by
      show [q].erase q = []
      simp
    unfold State.modCore
    rw [e1]
    dsimp only
    rw [e2]
    unfold State.addReg State.setReg State.setCore
    simp only [State.mk.injEq, true_and, and_true]
    have hne : k1 ≠ ({} : Core) := by
      intro e
      have := congrArg Core.queue e
      simp [k1] at this
    generalize Reg.SEQ_ISSUED c = X
    exact ⟨rfl, sput_sput _ _ _ hne _⟩
  have core1 : (w.queueIn c i h).core c = k1 := by
    rw [hqi, ((w.setCore c k1).addReg_frame _ 1).2]
    exact State.core_setCore_self w c k1
  have hrun1 : (w.queueIn c i h).run c = (w.queueIn c i h).launch c q := by
    apply State.run_head
    · rw [core1]
    · rw [core1]
      show (w.core c).run ≠ _
      rw [cw]
      show (s.core c).run ≠ _
      rw [hrun]
      exact fun e => by cases e
    · exact hwait
    · have : (w.queueIn c i h).engineFree c q = (s.leaving h).engineFree c q := by
        rw [hqi, hleave, State.addReg_setCore, State.addReg_setCore]
        exact State.engineFree_queue (w.addReg (Reg.SEQ_ISSUED c) 1) c k1 [] q
      rw [this]
      exact free
    · exact hl
    · rw [core1]
      show (if h.boundary then some Held.atBoundary else none) = none ∨ (if h.boundary then some Held.atBoundary else none) = some .atBoundary
      split
      · exact Or.inr rfl
      · exact Or.inl rfl
    · intro _
      rw [core1]
      show ((w.core c).goto ((w.core c).index + 1)).index < (w.core c).codeLen
      rw [cw]
      exact inside
    · rw [core1]
      show (w.core c).ended = false
      rw [cw]
      exact hend
  have hseq : (cls = Cls.seq) = False := by simp [hcls]
  unfold State.issue
  simp only [hop, hc, ready, Bool.not_true, Bool.false_eq_true, if_false, hf, hfate, hseq]
  unfold State.issueEngine
  simp only [hc, hfull, Bool.false_eq_true, if_false]
  rw [hrun1, hstart]

end Sys2Proof.Machine
end

