-- ==== Sys2Proof/WellFormed.lean ====
section
/-! DEFINITION. WellFormed.lean: which commands the outside world can form. A command outside this cannot be spelled by a host, a link, a die or a
program (a field wider than it is, a line of the wrong length); what is spelled but reserved or out of range is well formed, and its meaning says
what the device does with it. -/

namespace Sys2Proof

/-- A line: 64 bytes (R6). -/
def lineOk (b : List Byte) : Bool := b.length == 64

/-- Every line whole. -/
def linesOk (ls : List (List Byte)) : Bool := ls.all lineOk

/-- A register access names an offset of the register space and a size of R8. -/
def accessOk (off size : Nat) : Bool := decide (off < 0x100000000) && [1, 2, 4, 8].contains size

/-- A flit on the wire carries at most three whole lines and four credit bytes (R374). -/
def Flit.wf (f : Flit) : Bool := linesOk f.payload && decide (f.payload.length ≤ 3) && decide (f.credit.length ≤ 4) && f.credit.all (fun n => decide (n < 256))

/-- A link's number is below six, and so is its port's (R372). -/
def LinkId.wf (l : LinkId) : Bool := decide (l.port.toNat < 6) && decide (l.link.toNat < 6)

/-- A PPA's fields are in their ranges (R306). -/
def Ppa.wf (p : Ppa) : Bool := decide (p.position.toNat < 24) && decide (p.block.toNat < 1272) && decide (p.page.toNat < 3072)

/-- A controller's number: 0 to 129 (R341). -/
def NHdr.wf (n : NHdr) : Bool := decide (n.ctrl.toNat < 130)

/-- Logical block data: whole 4 KiB blocks (R345). -/
def blocksOk (d : List Byte) : Bool := d.length % 4096 == 0

/-- A sample's reading of the pins and sensors is any; PCLK pass between two samples. -/
def Sample.wf (p : Sample) : Bool := decide (0 < p.pclk)

/-- An SPDM request's nonce is 32 bytes (R452). -/
def SpdmReq.wf : SpdmReq → Bool
  | .challenge _ n => n.length == 32
  | .getMeasurements _ sig n => if sig then n.length == 32 else true
  | _ => true

/-- Whether a command can be formed. -/
def Instr.wf : Instr → Bool
  | .streamLineArrival _ _ _ l => l.isEmpty || lineOk l
  | .flipArm _ _ g _ => decide (g.toNat < 6)
  | .mergeEntryRetire _ b _ => decide (b.toNat < 48)
  | .sramCeWriteback (.core _ o) _ => decide (o.toNat < 0x1800000)
  | .sramCeWriteback (.hub _) _ => true
  | .powerSample p => p.wf
  | .purseCtlWrite p _ => decide (p.toNat < 9)
  | .reinWrite _ p _ => decide (p.toNat < 9)
  | .interfacePllLoss (.serdes g l) => decide (g.toNat < 6) && decide (l.toNat < 6)
  | .faultRegisterClear off _ => accessOk off 8
  | .registerWrite (.physical off) size _ => accessOk off size
  | .registerWrite (.virtual k off) size _ => decide (k.toNat < 130) && decide (off + size ≤ 2 ^ 30) && decide (size ≤ 8)
  | .doorbellWrite k _ _ _ => decide (k.toNat < 130)
  | .write n _ _ d | .compare n _ _ d | .zoneAppend n _ _ d => n.wf && blocksOk d
  | .weightPageRewrite n _ _ d _ => n.wf && d.length == 0x200000
  | .identify n _ _ | .getFeatures n _ | .setFeatures n _ _ | .powerManagement n _ | .timestamp n _ | .getLogPage n _ _ _ _
    | .createIoQueue n _ _ _ _ | .deleteIoQueue n _ _ | .abort n _ | .asynchronousEventRequest n | .namespaceCreate n _ _ _ _ _
    | .namespaceDelete n _ | .namespaceAttachment n _ _ _ | .firmwareImageDownload n _ _ | .firmwareCommit n _ _ | .formatNvm n _ _
    | .sanitize n _ | .virtualizationManagement n _ _ _ | .keepAlive n | .deviceSelfTest n _ | .securityReceive n _ _ _ | .attachWeight n _ _ _
    | .detachWeight n _ _ | .setHostWindow n _ _ _ _ _ _ | .read n _ _ _ | .writeZeroes n _ _ _ | .flush n _ | .deallocate n _ _
    | .verify n _ _ _ | .zoneOpen n _ _ | .zoneClose n _ _ | .zoneFinish n _ _ | .resetZone n _ _ | .zoneOffline n _ _
    | .zoneManagementReceive n _ _ _ | .loadProgram n _ _ _ _ | .programActivationManagement n _ _ _ | .executeProgram n _ _ _
    | .memoryRangeSetManagement n _ _ _ | .memoryRead n _ _ _ | .memoryWrite n _ _ _ | .memoryCopy n _ _ _ _ _ | .openIndex n _ _ _ _ _ _
    | .closeIndex n _ _ _ | .updateIndex n _ _ _ | .advanceEpoch n _ _ _ | .compactIndex n _ _ _ | .search n _ _ _ | .submitRequest n _ _ _
    | .setOverlay n _ _ _ _ _ _ | .frameStart n _ _ _ _ _ | .pauseRequest n _ _ | .unsupportedCommand n _ => n.wf
  | .securitySend n _ _ r => n.wf && r.wf
  | .reduceInstanceOpen _ _ _ _ ls | .contributionArrival _ _ _ _ ls => linesOk ls
  | .put l f => l.wf && f.wf && f.typ == 1
  | .getReq l f => l.wf && f.wf && f.typ == 2
  | .getRsp l f => l.wf && f.wf && f.typ == 3
  | .ack l f => l.wf && f.wf && f.typ == 4
  | .coll l f => l.wf && f.wf && f.typ == 5
  | .harn l f => l.wf && f.wf && f.typ == 6
  | .idle l f => l.wf && f.wf && f.typ == 0 && f.payload.isEmpty
  | .flitForward l f => l.wf && f.wf
  | .nakReplay l _ | .ackTimeout l | .linkIdleTimeout l | .linkRetrainDone l _ | .presenceNotice l _ _ _ _ => l.wf
  | .handover l d _ => l.wf && decide (d.toNat < 6)
  | .portTrain g _ _ | .portAuthenticate g _ | .reauth g _ => decide (g.toNat < 6)
  | .flashPageReadDone p rs q => p.wf && rs.length == 4 && (match q with
      | some q => q.wf
      | none => true)
  | .flashProgramDone p slc _ r => p.wf && (!slc || decide (p.page.toNat < 768)) && r.beside.all (fun d => decide (d.toNat < 1536))
  | .readBack p _ _ | .flashEraseDone p _ | .eraseResume p | .readAround p _ | .fold p _ | .refresh p => p.wf
  | .dieStopsAnswering d => decide (d.toNat < 1536)
  | .perstDeassert _ sp w | .hostLinkRetrain _ _ sp w => decide (1 ≤ sp.toNat ∧ sp.toNat ≤ 6) && decide (w.toNat ∈ [1, 2, 4, 8])
  | .controllerEnable k | .controllerReset k | .functionLevelReset k | .keepAliveTimeout k => decide (k.toNat < 130)
  | .challenge _ _ n => n.length == 32
  | .getMeasurements _ _ sig n => if sig then n.length == 32 else true
  | _ => true

end Sys2Proof
end

