-- ==== Sys2Proof/Tests/Slice0.lean ====
section
/-! SUPPORT. Tests/Slice0.lean: the model's own tests: what cannot be formed is refused, states and operands that meet the hypotheses of the statements, and
single steps whose results the spec gives. -/

namespace Sys2Proof.Tests

open Sys2Proof Sys2Proof.Machine

set_option Elab.async false

/-! ### What cannot be formed -/

theorem test_wf_stream_line : Instr.wf (.streamLineArrival 0 0 .clean [0]) = false := by decide

theorem test_wf_flip_group : Instr.wf (.flipArm false 0 6 0) = false := by decide

theorem test_wf_bank : Instr.wf (.mergeEntryRetire 0 48 .clean) = false := by decide

theorem test_wf_sram_offset : Instr.wf (.sramCeWriteback (.core 0 0x1800000) .clean) = false := by decide

theorem test_wf_sample : Instr.wf (.powerSample { powerDw := 0, junctionW := 0, junctionE := 0, junctionHub := 0, flashMax := 0 }) = false := by decide

theorem test_wf_purse : Instr.wf (.purseCtlWrite 9 0) = false := by decide

theorem test_wf_rein : Instr.wf (.reinWrite true 9 0) = false := by decide

theorem test_wf_serdes : Instr.wf (.interfacePllLoss (.serdes 0 6)) = false := by decide

theorem test_wf_fault_clear : Instr.wf (.faultRegisterClear 0x100000000 0) = false := by decide

theorem test_wf_access_size : Instr.wf (.registerWrite (.physical 0) 3 0) = false := by decide

theorem test_wf_doorbell : Instr.wf (.doorbellWrite 130 false 0 0) = false := by decide

theorem test_wf_data_blocks : Instr.wf (.write ⟨0, 1, 0⟩ 1 0 [0]) = false := by decide

theorem test_wf_rewrite_zone : Instr.wf (.weightPageRewrite ⟨0, 1, 0⟩ 1 0 [] true) = false := by decide

theorem test_wf_controller : Instr.wf (.identify ⟨130, 0, 0⟩ 1 0) = false := by decide

theorem test_wf_spdm_nonce : Instr.wf (.securitySend ⟨0, 0, 0⟩ 0xE8 1 (.challenge 0 [])) = false := by decide

theorem test_wf_contribution : Instr.wf (.contributionArrival 0 0 0 0 [[]]) = false := by decide

theorem test_wf_put_type : Instr.wf (.put ⟨0, 0⟩ { typ := 2 }) = false := by decide

theorem test_wf_link : Instr.wf (.idle ⟨6, 0⟩ { typ := 0 }) = false := by decide

theorem test_wf_idle_empty : Instr.wf (.idle ⟨0, 0⟩ { typ := 0, payload := [List.replicate 64 0] }) = false := by decide

theorem test_wf_handover : Instr.wf (.handover ⟨0, 0⟩ 6 0) = false := by decide

theorem test_wf_port : Instr.wf (.portTrain 6 false 63) = false := by decide

theorem test_wf_ppa : Instr.wf (.flashPageReadDone ⟨0, 24, 0, 0, 0⟩ [.soft, .soft, .soft, .soft] none) = false := by decide

theorem test_wf_slc_page : Instr.wf (.flashProgramDone ⟨0, 0, 0, 0, 768⟩ true .parity ⟨true, []⟩) = false := by decide

theorem test_wf_code_words : Instr.wf (.flashPageReadDone ⟨0, 0, 0, 0, 0⟩ [.soft] none) = false := by decide

theorem test_wf_vf_access : Instr.wf (.registerWrite (.virtual 1 0x40000000) 4 0) = false := by decide

theorem test_wf_die : Instr.wf (.dieStopsAnswering 1536) = false := by decide

theorem test_wf_width : Instr.wf (.perstDeassert 0 6 3) = false := by decide

theorem test_wf_enable : Instr.wf (.controllerEnable 130) = false := by decide

theorem test_wf_challenge : Instr.wf (.challenge .mctpPcie 0 []) = false := by decide

theorem test_wf_nop : Instr.wf (.nop { core := 0 }) = true := by decide

/-! ### Where the statements' hypotheses hold: the sequencer -/

/-- Core 0 runs code of 64 instructions at address 0, its first two lines cached. -/
def tCore : Core := { run := .running, codeLen := 64, icache := [(0, [0]), (1, [1])], ctr := [(1, 3), (2, 2)], cmp := 1 }

/-- A module that is up, with a core. -/
def tOn (k : Core) : State := { State.reset with cores := [(0, k)], guard := { State.reset.guard with phase := .up, step3 := true } }

def tRun : State := tOn tCore

def tH : Hdr := { core := 0 }

theorem witness_at_issue : tRun.AtIssue tH := ⟨by decide, by decide, by decide, by decide, by decide, by decide, by decide⟩

theorem witness_in_code : tRun.inCode_ 0 1 ∧ tRun.inCode_ 0 63 := by unfold State.inCode_; decide

/-- Issue at an instruction that waits for a token and signals the last unit it can hold. -/
theorem witness_at_issue_tokens :
    (tOn { tCore with tok := [(1, 16), (2, 65534)] }).AtIssue { core := 0, wait := true, waitTok := 1, waitN := 15, signal := true, sigTok := 2 } :=
  ⟨by decide, by decide, by decide, by decide, by decide, by decide, by decide⟩

theorem witness_cdiv : (tRun.core 0).src ⟨true, 0, 1⟩ ≠ 0 ∧ (tRun.core 0).src ⟨false, 0, 5⟩ = 0 := by decide

/-- The last comparison and the last level that a program can name. -/
theorem witness_cmp_cidx : (5 : BitVec 3).toNat < 6 ∧ (6 ≤ (6 : BitVec 3).toNat) := by decide

theorem witness_cldr : (0xF8 : BitVec 20).toNat % 8 = 0 ∧ corePresent (0xF8 : BitVec 20).toNat = true := by decide

/-- The last word of the SRAM. -/
theorem witness_clds : let s := tOn { tCore with agBase := [(0, 0x1000000)] }
    let o := (((s.core 0).agen 0).toNat % 2 ^ 25 + (0x7FFFFF : BitVec 24).toNat) / 4 * 4
    o + 4 = sramSize ∧ s.touchesWindow 0 o 4 = false ∧ s.sramPoison 0 o 4 = false ∧ (s.core 0).flipped = [] := by decide

/-- A core at its seventh instruction inside level 2, itself inside level 4. -/
def tLoop : State := tOn { tCore with index := 6, icache := [(0, [0]), (1, [1]), (2, [2])], levels := [⟨2, 4, 20, 3, 1⟩, ⟨4, 2, 40, 2, 0⟩] }

theorem witness_loop : tLoop.AtIssue tH ∧ (1 : BitVec 3).toNat < 6 ∧ (13 : BitVec 12) ≠ 0 ∧
    (∀ v ∈ (tLoop.core 0).levels.head?, 6 + 1 + 13 ≤ v.stop ∧ 1 < v.level) ∧ (tLoop.core 0).c 0 = 0 ∧ (tLoop.core 0).c 1 ≠ 0 ∧ tLoop.inCode_ 0 20 ∧
    (tLoop.core 0).index + 1 < (tLoop.core 0).codeLen :=
  ⟨⟨by decide, by decide, by decide, by decide, by decide, by decide, by decide⟩, by decide, by decide, by decide, by decide, by decide,
    by unfold State.inCode_; decide, by decide⟩

theorem witness_exit : (tLoop.core 0).prefetch = [] ∧ (tLoop.core 0).k 1 = false ∧ (tLoop.core 0).k 0 = true ∧
    (tLoop.core 0).levels = [⟨2, 4, 20, 3, 1⟩] ++ (⟨4, 2, 40, 2, 0⟩ : Level) :: [] ∧ [(⟨2, 4, 20, 3, 1⟩ : Level)].all (fun u => u.level != 4) = true ∧
    ({ (tLoop.core 0) with levels := [] }.goto 40).index < (tLoop.core 0).codeLen ∧ tLoop.inCode_ 0 7 :=
  ⟨by decide, by decide, by decide, by decide, by decide, by decide, by unfold State.inCode_; decide⟩

/-- SKIP to the end of the body, and JMP to its first and last instruction. -/
theorem witness_skip_jmp : (13 : BitVec 12) ≠ 0 ∧ (∀ v ∈ (tLoop.core 0).levels.head?, 6 + 1 + 13 ≤ v.stop) ∧ tLoop.inCode_ 0 (6 + 1 + 13) ∧
    (∀ v ∈ (tLoop.core 0).levels.head?, v.start ≤ 4 ∧ 19 < v.stop) ∧ tLoop.inCode_ 0 4 ∧ tLoop.inCode_ 0 19 :=
  ⟨by decide, by decide, by unfold State.inCode_; decide, by decide, by unfold State.inCode_; decide, by unfold State.inCode_; decide⟩

theorem witness_tadd : ({ tCore with tok := [(3, 65519)] } : Core).tokNext tH 3 + ((15 : BitVec 4).toNat + 1) ≤ 65535 := by decide

def tJob : Job := { n := ⟨0, 1, 1⟩, part := 0, prog := ⟨1, 0, 0, 0, 64, 0, 0, 2, 0, [(0, 100)], true⟩, serving := false, rings := 0, seed := 0, argBase := 0,
                    argLen := 0, phase := .running, cores := [0, 1] }

/-- END while another core of the job runs on, and END with a stream outstanding. -/
theorem witness_end : let s := { tOn { tCore with job := some ⟨0, 1, 1⟩ } with jobs := [tJob] }
    s.AtIssue tH ∧ tH.boundary = false ∧ (s.core 0).busy = [] ∧ (s.core 0).streams = [] ∧
    (∀ n ∈ (s.core 0).job, ∃ j ∈ s.jobs, s.job? n = some j ∧ 1 ∈ j.cores ∧ 1 ≠ 0 ∧ (s.core 1).ended = false) ∧
    ({ tCore with busy := [⟨.mx, 0, none, false, .done, []⟩] } : Core).busy ≠ [] :=
  ⟨⟨by decide, by decide, by decide, by decide, by decide, by decide, by decide⟩, by decide, by decide, by decide, by decide, by decide⟩

/-! ### Engine instructions and the events of the cores -/

def tVx : VxOps := { agd := 1, aga := 2, agb := 3, agc := 4, len := 4 }

/-- One instruction of each engine opcode. -/
def tEngine : List Instr :=
  [.vadd tH tVx, .vsub tH tVx, .vmul tH tVx, .vfma tH tVx, .vmin tH tVx, .vmax tH tVx, .vcmp tH tVx, .vsel tH tVx, .vabs tH tVx, .vneg tH tVx, .vexp2 tH tVx,
   .vlog2 tH tVx, .vrcp tH tVx, .vrsq tH tVx, .vcvt tH tVx, .vreq tH tVx, .vlf tH { tVx with fa := 5 }, .vlfa tH { tVx with fa := 5, fb := 5, fd := 5 }, .vrsum tH tVx, .vrmax tH tVx, .vsmax tH tVx, .vrms tH tVx,
   .vlnorm tH tVx, .vkl tH tVx] ++
  [.dxs tH { desc := 0 }, .dxg tH { desc := 0 }, .mxt tH { blk := 1 }, .mxl tH 63 0 1 0, .mxp tH 63 0, .sxtopk tH 1 2 3 false false 1 true, .sxmerge tH 1 2 3 false false 1,
   .sxand tH 1 2 3 4 5, .sxroute tH 1 2 3 4 0 0, .sxwalk tH 1 2, .oxupd tH { agw := 1, len := 4 }, .oxsr tH { agw := 1, len := 4 }, .hxsend tH ⟨0, false, 1, 2, 1⟩,
   .hxrecv tH ⟨0, false, 1, 2, 1⟩, .gxput tH ⟨1, 1, 0, 2⟩, .gxget tH ⟨1, 1, 0, 2⟩, .allred tH ⟨0, 1, 2, 3, 0⟩, .redscat tH ⟨0, 1, 2, 3, 0⟩, .bcast tH ⟨0, 1, 2, 3, 0⟩,
   .clear tH ⟨0, 1, 2, 3, 0⟩, .mrd tH 1 0, .mwr tH 1 0, .mapp tH 1 0, .pread tH 1, .pres tH 1 0]

theorem witness_engine_operands : ∀ i ∈ tEngine, badOps i = false ∧ (tRun.leaving tH).engineFree 0 ⟨i, tRun.ctx 0 i⟩ = true := by decide

theorem witness_engine : ∀ i ∈ tEngine, tRun.EngineReady tH i := fun i hi =>
  ⟨witness_at_issue, witness_in_code.1, rfl, (witness_engine_operands i hi).1, (witness_engine_operands i hi).2⟩

theorem witness_engine_classes : tRun.fusedOff = false ∧ ∀ i ∈ tEngine, ((i.op?.map Prod.snd) == some tH && (i.op?.map Prod.fst) != some .seq) = true := by decide

/-- A row that ends with the last byte of the SRAM, and its operands below it. -/
theorem witness_lanes : let s := tOn { tCore with agBase := [(1, 0x17FFFC0), (2, 64), (3, 128), (4, 192)] }
    let o : VxOps := { tVx with len := 16 }
    s.EngineReady tH (.vfma tH o) ∧ o.row1 = true ∧ o.fa = 0 ∧ o.fb = 0 ∧ o.fd = 0 ∧ o.bsc = false ∧ o.csc = false ∧ (s.core 0).merge = [] ∧ (s.core 0).flipPend = [] ∧
    (s.core 0).flipped = [] ∧ (s.core 0).vxArmed = false ∧
    (∀ g ∈ [o.agd, o.aga, o.agb, o.agc], ((s.core 0).agen g.toNat).toNat % 2 ^ 25 / 64 * 64 + 4 * 16 ≤ sramSize ∧
      s.sramPoison 0 (((s.core 0).agen g.toNat).toNat % 2 ^ 25 / 64 * 64) 64 = false) ∧
    ((s.core 0).agen 1).toNat % 2 ^ 25 / 64 * 64 + 4 * 16 = sramSize :=
  ⟨⟨⟨by decide, by decide, by decide, by decide, by decide, by decide, by decide⟩, by unfold State.inCode_; decide, by decide, by decide, by decide⟩,
    by decide, by decide, by decide, by decide, by decide, by decide, by decide, by decide, by decide, by decide, by decide, by decide⟩

theorem witness_token_wait : let h : Hdr := { core := 0, wait := true, waitTok := 1 }
    let k : Core := { tCore with held := some (.instr (.nop h)), tok := [(1, 1)] }
    k.run = .running ∧ k.ended = false ∧ k.canTake h = true ∧ k.queue = [] ∧ (tOn k).inCode_ 0 1 ∧ h.signal ≠ true :=
  ⟨by decide, by decide, by decide, by decide, by unfold State.inCode_; decide, by decide⟩

def tDone : Busy := ⟨.mx, 0, some 5, false, .done, []⟩

theorem witness_retire : let s := tOn { tCore with busy := [tDone], tok := [(5, 65534)] }
    (s.core 0).busy.find? (fun b => b.cls == .mx && b.wait == .done && !b.bnd) = some tDone ∧ (tDone.cls = .sx → tDone.args = []) ∧ s.Quiet 0 ∧ (∀ n ∈ tDone.sig, sget 0 (s.core 0).tok n < 65535) :=
  ⟨by decide, by decide, by unfold State.Quiet; decide, by decide⟩

/-- A core held by a boundary, with each of its instruction-scope registers in the shadow. -/
theorem witness_boundary : ∀ r ∈ [Reg.OX_SEED 0, Reg.MX_TEST 0, Reg.VX_TEST 0, Reg.VX_CLIP_CTL 0, Reg.SRAM_CTL 0, Reg.SRAM_FLIP 0 5],
    let s := { tOn { tCore with held := some .atBoundary } with shadow := [(r, 0x101)] }
    (s.core 0).run = .running ∧ (s.core 0).ended = false ∧ (s.core 0).laceSlots = false ∧ (s.core 0).held = some .atBoundary ∧ (s.core 0).queue = [] ∧ (s.core 0).streams = [] ∧ (s.core 0).busy = [] ∧
    (s.core 0).index < (s.core 0).codeLen ∧ s.shadow = [(r, 0x101)] ∧ (0x101 : Word).getLsbD 8 = true ∧ (0x101 : Word).getLsbD 0 = true ∧ (s.core 0).merge = [] := by
  decide

theorem witness_stall : let h : Hdr := { core := 0, wait := true, waitTok := 1, waitN := 15 }
    let s := tOn { tCore with held := some (.instr (.nop h)), tok := [(1, 15)] }
    s.hasCore 0 = true ∧ (s.core 0).run = .running ∧ (s.core 0).canTake h = false ∧ (s.core 0).queue = [] ∧ (s.core 0).busy = [] ∧ (s.core 0).streams = [] ∧ (s.core 0).lace = [] ∧
    s.girth.txns = [] ∧ s.girth.colls = [] ∧ (s.core 0).stalled = false ∧ s.alive = true ∧ s.reg (Reg.SEQ_FAULT 0) = 0 := by decide

def tMerge : MergeEntry := ⟨3145727, 0xF0, 0x1122334400000000⟩

theorem witness_merge : let s := tOn { tCore with merge := [tMerge] }
    (s.core 0).flipped = [] ∧ (s.core 0).flipPend = [] ∧ (s.core 0).lost = [] ∧ (s.core 0).merge.find? (fun e => bankOf (8 * e.word) == (47 : BitVec 6).toNat) = some tMerge ∧
    setHas (s.core 0).ceOnce tMerge.word = false := by decide

theorem witness_writeback : let s := { tRun with valid := [(sramBase 0 + 8 * ((0x17FFFFF : BitVec 25).toNat / 8)) / 64] }
    setHas s.valid ((sramBase 0 + 8 * ((0x17FFFFF : BitVec 25).toNat / 8)) / 64) = true ∧ setHas (s.core 0).ceOnce ((0x17FFFFF : BitVec 25).toNat / 8) = false ∧
    (s.core 0).flipped = [] ∧ (s.core 0).flipPend = [] ∧ (s.core 0).lost = [] := by decide

/-! ### Streams and laces -/

def tStream : Stream :=
  { id := 0, idx := 0, pos := 0, sig := some 3, bnd := false, slot := none, viol := false
    d := { base := dramBase, sram := 0x17FFFC0, dims := 1, wr := false, transpose := false, persistent := false, pnum := 0, signal := 0, lace := false,
           channel := 0, strides := [4, 0, 0, 0, 0, 0], counts := [16, 1, 1, 1, 1, 1], format := 5, skew := 0, gather := none, array := 0 } }

/-- A full line of FP32 elements from the first of DRAM to the last line of SRAM, with one slot left and room for one more token unit. -/
theorem witness_stream : let s := tOn { tCore with streams := [tStream], tok := [(3, 65534)], filled := 127 }
    (s.core 0).run = .running ∧ s.Quiet 0 ∧ (s.core 0).streams.find? (fun t => t.id == tStream.id) = some tStream ∧ dxBytes tStream.d.format = 4 ∧ 16 * 4 ≤ 64 ∧
    tStream.d.sram + 16 * 4 = sramSize ∧ tStream.d.sram % 64 = 0 ∧ tStream.d.base % 64 = 0 ∧ sget 0 (s.core 0).tok 3 < 65535 ∧
    (s.core 0).filled + (s.core 0).draining < 128 ∧ (s.core 0).merge = [] ∧ (s.core 0).flipPend = [] ∧ (s.core 0).flipped = [] ∧
    s.touchesWindow 0 tStream.d.sram 64 = false ∧ s.tier dramBase = .dram ∧ s.mayMove 0 dramBase = true ∧ s.poisoned (dramBase / 64) = false :=
  ⟨by decide, by unfold State.Quiet; decide, by decide, by decide, by decide, by decide, by decide, by decide, by decide, by decide, by decide, by decide, by decide,
    by decide, by decide, by decide, by decide⟩

/-- A descriptor of one linear read stream of 16 FP32 elements from the first of DRAM. -/
def tDesc : State := { tOn { tCore with filled := 112 } with
  mem := [(0, 1), (1, 1), (sramBase 0 + 4, 0x80), (sramBase 0 + 12, 1), (sramBase 0 + 16, 4), (sramBase 0 + 40, 16), (sramBase 0 + 52, 5)], valid := [sramBase 0 / 64] }

/-- The core's next instruction, DXS with every operand 0, and what it would read ahead. -/
theorem witness_prefetch : let s := tDesc
    let k := s.core 0
    let h : Hdr := { core := 0 }
    let o : DxOps := { desc := 0 }
    let x := Reached.ctx ⟨k.index, k.levels, false, false, h, o⟩ s 0
    let r := s.rawDesc o x
    let d := s.resolve false o x r (s.fld (Reg.DX_PSTREAM_BASE 0 r.pnum) 0 48)
    decodeWenmel 0 (s.codeWord 0 k.index) = some (.dxs h o) ∧ h.badTok = false ∧ (headerOf 0 (s.codeWord 0 k.index) 0).hold = false ∧
    k.run = .running ∧ k.held = none ∧ k.index < k.codeLen ∧ s.bit (Reg.DX_CTL 0) 0 = false ∧ s.bit (Reg.DX_CTL 0) 1 = false ∧ r.faulty false h o x = false ∧
    r.flag 3 = false ∧ r.flag 11 = false ∧ k.filled + k.draining ≤ 112 ∧ k.prefetch = [] ∧ 0 < d.total ∧ d.total ≤ runLen d 0 ∧ d.addr 0 = dramBase ∧
    d.addr 0 < 2 ^ 48 ∧ d.addr 0 % (d.esize : Int) = 0 ∧ (s.place 0 d 0).isSome = true ∧ s.placeBad x d 0 = false ∧
    s.tier dramBase = .dram ∧ s.mayMove 0 dramBase = true ∧ s.poisoned (dramBase / 64) = false := by decide +kernel

def tLine : DxLine := ⟨dramBase, List.replicate 64 1, false, 0, false⟩

theorem witness_lace_line : let s := tOn { tCore with lace := [(3, { transit := [tLine] })] }
    (s.core 0).run = .running ∧ s.Quiet 0 ∧ (s.core 0).streams = [] ∧ ((s.core 0).laceCh 3).skip = 0 ∧
    ((s.core 0).laceCh 3).transit = tLine :: [] :=
  ⟨by decide, by unfold State.Quiet; decide, by decide, by decide, by decide⟩

/-- Core 1's successor on channel 3 is core 0, which has granted it 64 credits and has one slot to give back. -/
def tLace : State := { tOn { tCore with lace := [(3, { done := 1, granted := 64 })], filled := 111, draining := 1 } with
  regs := [(Reg.DX_LACE_CTL 0 3, 0x400005), (Reg.DX_LACE_CTL 1 3, 0x400001)] }

theorem witness_lace_credit : tLace.lacePred 0 3 = some 1 ∧ (tLace.laceCtl 0 3).1 = true ∧ (tLace.core 1).run ≠ .running ∧ 0 < ((tLace.core 0).laceCh 3).done ∧ 0 < (tLace.core 0).draining ∧
    ((tLace.core 0).laceCh 3).granted = (tLace.laceCtl 0 3).2.2.2 ∧ 0 < ((tLace.core 0).laceCh 3).granted ∧ (tLace.core 0).filled + (tLace.core 0).draining ≤ 112 := by
  decide

/-! ### Power, start-up and resets -/

/-- A module that is up, without cores at work. -/
def tUp : State := { State.reset with guard := { State.reset.guard with phase := .up, step3 := true, step4 := true, perst := [false, false] }
                                      regs := [(Reg.HOST_PORT 0, 0x185), (Reg.HOST_PORT 1, 0x185)], media := { mounted := true } }

/-- The same before a port has presented its configuration space. -/
def tCut : State := { tUp with guard := { tUp.guard with step4 := false } }

/-- The reading of a sample just short of a thermal trip, a tenth of a watt above the cap. -/
def tSample : Sample := { powerDw := 9001, junctionW := 1679, junctionE := 1679, junctionHub := 1679, flashMax := 1359 }

theorem witness_sample : tUp.guard.phase = .up ∧ tUp.fuse.grade ≠ 2 ∧ tSample.junctionW.toInt < 16 * 105 ∧ tSample.junctionE.toInt < 16 * 105 ∧
    tSample.junctionHub.toInt < 16 * 105 ∧ tSample.flashMax.toInt < 16 * 85 ∧ tUp.power.flash85 = false := by decide

theorem witness_trip : let s := { tUp with power := { tripped := true } }
    s.power.tripped = true ∧ s.fuse.grade ≠ 2 ∧ ((1519 : BitVec 16).toInt < 16 * 95 ∧ (1199 : BitVec 16).toInt < 16 * 75) ∧ ¬ (1520 : BitVec 16).toInt < 16 * 95 := by
  decide

theorem witness_alert : tUp.alive = true ∧ tUp.guard.step4 = true ∧ tCut.guard.step4 = false ∧ tCut.alive = true ∧ tCut.alertWanted = false ∧ tUp.alertWanted = false ∧ (0x101 : Word).getLsbD 0 = true ∧ (0x101 : Word).toNat / 256 % 16 ≠ 0 := by decide

theorem witness_droop : tUp.hasTile .east = true ∧ (tUp.power.rail .east).1 = false ∧ 620 < tUp.fld Reg.PWR_DROOP_CTL 0 10 ∧
    ((tUp.power.setRail .east true false 8).rail .east).1 = true ∧ ((tUp.power.setRail .east false true 8).rail .east).2 = true := by decide

theorem witness_serdes : let s := { tUp with regs := [(Reg.GIRTH_PORT_CTL 5, 0x3F), (Reg.GIRTH_LINK_STATUS 5 5, 2)] }
    s.alive = true ∧ s.hasPort 5 = true ∧ s.bit (Reg.GIRTH_PORT_CTL 5) 5 = true ∧ s.host.psPhase ≠ .low 4 ∧ s.linkState 5 5 = 2 ∧ s.hasPort 6 = false := by decide

theorem witness_losing : let s := { tUp with guard := { tUp.guard with phase := .losing } }
    tUp.guard.phase = .up ∧ s.guard.phase = .losing ∧ s.media.dumped = false ∧ ({ s with media := { s.media with dumped := true } } : State).media.dumped = true ∧ s.guard.phase ≠ .unpowered := by decide

theorem witness_retrain : tUp.alive = true ∧ tUp.guard.step3 = true ∧ tUp.guard.perst.getD 1 true = false ∧ 1 ≤ (6 : BitVec 3).toNat ∧ (6 : BitVec 3).toNat ≤ 6 ∧
    1 ≤ (8 : BitVec 4).toNat ∧ (8 : BitVec 4).toNat ≤ 8 := by decide

theorem witness_warm : tUp.Sound ∧ tUp.guard.phase = .up ∧ tUp.power.tripped = false ∧ tUp.slotOk tUp.guard.next = true ∧ tUp.bit (Reg.HOST_PORT 1) 0 = true ∧
    tUp.hasTile .west = true := ⟨by unfold State.Sound; decide, by decide⟩

theorem witness_period : tUp.alive = true ∧ tUp.Asleep ∧ tUp.power.inPeriod < tUp.fld Reg.PWR_PERIOD 0 12 ∧
    (let s := { tUp with power := { inPeriod := tUp.fld Reg.PWR_PERIOD 0 12 }, shadow := [(Reg.PWR_COEF 10, 5)] }
     s.alive = true ∧ s.Asleep ∧ s.fld Reg.PWR_PERIOD 0 12 ≤ s.power.inPeriod ∧ s.shadow = [(Reg.PWR_COEF 10, 5)]) :=
  ⟨by decide, ⟨rfl, ⟨rfl, rfl, rfl⟩, rfl, rfl, rfl, rfl, rfl, ⟨rfl, rfl, rfl, rfl, rfl⟩⟩, by decide, by decide,
    ⟨rfl, ⟨rfl, rfl, rfl⟩, rfl, rfl, rfl, rfl, rfl, ⟨rfl, rfl, rfl, rfl, rfl⟩⟩, by decide, by decide⟩

theorem witness_power_good : let s := { State.reset with pending := [.garbageCollection] }
    s.Sound ∧ s.guard.phase = .unpowered ∧ s.guard.pwrDis = false ∧ s.slotOk s.guard.next = true ∧ step s = .next State.reset :=
  ⟨by unfold State.Sound; decide, by decide, by decide, by decide, rfl⟩

theorem witness_perst : let s := { tUp with regs := [] }
    s.Sound ∧ s.alive = true ∧ s.guard.step3 = true ∧ s.bit (Reg.HOST_PORT 1) 0 = false := ⟨by unfold State.Sound; decide, by decide⟩

theorem witness_mount : let s := { tUp with media := {} }
    s.Sound ∧ s.alive = true ∧ s.guard.step3 = true ∧ s.media.mounted = false ∧ s.startFailed = false ∧ s.waitingCtrls = [] ∧ s.host.stalled = [] ∧ s.media.powerCut = false ∧
    s.media.dumpBad = false ∧ s.nss = [] ∧ s.media.eraseQ = [] := ⟨by unfold State.Sound; decide, by decide⟩

theorem witness_enable : tUp.Sound ∧ tUp.alive = true ∧ tUp.bit (Reg.HOST_PORT 1) 0 = true ∧ tUp.media.mounted = true ∧ tUp.guard.dramBad = false ∧
    tUp.guard.mountBad = false ∧ (tUp.ctrl 65).enabled = false ∧ (tUp.ctrl 65).online = true ∧ (tUp.ctrl 65).cfs = false :=
  ⟨by unfold State.Sound; decide, by decide⟩

/-! ### Registers, faults and the daybook -/

/-- A period-scope register, all its writable bits written; and one that is read-only. -/
theorem witness_plain : tUp.PlainReg (Reg.PWR_COEF 10) (-1) ∧ (regInfo (Reg.PWR_COEF 10)).map RegInfo.scope = some .period ∧
    (regInfo (Reg.PWR_COEF 10)).map (fun i => i.reserved (0xFFFFFFFFFFFF : Word)) = some false ∧
    (regInfo (Reg.PWR_COEF 10)).map (fun i => i.reserved (-1 : Word)) = some false ∧
    tUp.alive = true ∧ Reg.PWR_COEF 10 % 8 = 0 := by
  refine ⟨⟨by decide, by decide, by decide, by decide, by decide, by decide, by decide, by decide, by decide, ?_⟩, by decide, by decide, by decide, by decide, by decide⟩
  intro c n _ _
  unfold Reg.DX_PSTREAM_BASE Reg.PWR_COEF coreWin
  omega

/-- The last bytes of the SRAM of core 31, which belongs to partition 7 and so to the first virtual function of port 1. -/
def tVf : State := { tUp with regs := [(Reg.SCHED_PART 7, 0x8000000000000001), (Reg.SCHED_VFMAP 8, 0x87)] }

theorem witness_vf : tVf.alive = true ∧ tVf.hasCore 31 = true ∧ 0x17FFFF8 + 8 ≤ sramSize ∧ tVf.partOf 31 = some 7 ∧ tVf.funcOf (66 : BitVec 8).toNat 7 = true ∧
    tVf.touchesWindow 31 0x17FFFF8 8 = false ∧ tVf.partOf 0 = none ∧ tVf.funcOf (67 : BitVec 8).toNat 7 = false := by decide

theorem witness_plain_ro : tUp.PlainReg Reg.PWR_SAMPLE 1 ∧ (regInfo Reg.PWR_SAMPLE).map RegInfo.scope = some .ro := by
  refine ⟨⟨by decide, by decide, by decide, by decide, by decide, by decide, by decide, by decide, by decide, ?_⟩, by decide⟩
  intro c n _ _
  unfold Reg.DX_PSTREAM_BASE Reg.PWR_SAMPLE coreWin
  omega

theorem witness_absent : tUp.regHere 0xFFFFFFF8 = false ∧ 0xFFFFFFF8 % 8 = 0 ∧ ((0xFFFFFFFC : Nat) % 8 ≠ 0) := by decide

theorem witness_raise : FaultUnit.media ∈ allUnits ∧ (63 : Nat) < 64 ∧ tUp.reg Reg.MEDIA_FAULT = 0 ∧ tUp.regHere Reg.MEDIA_FAULT = true := by decide

def tFired : State := { tUp with regs := [(Reg.MEDIA_FAULT, 8), (Reg.DBK_LEVEL 0, 0x40000000000)] }

theorem witness_faults : tFired.reg Reg.MEDIA_FAULT ≠ 0 ∧ tFired.srcLevel 42 = true ∧ tFired.bit Reg.MEDIA_FAULT 3 = true ∧ (8 : Word).getLsbD 3 = true := by decide

/-- No fault register has a bit, and one has. -/
theorem witness_clear : tUp.readReg Reg.FAULT_SUM = 0 ∧ tUp.readReg Reg.FAULT_SUM_CORE = 0 ∧ (∀ c < 32, tUp.readReg (Reg.FAULT_CORE c) = 0) ∧
    tFired.readReg Reg.FAULT_SUM ≠ 0 := by decide +kernel

/-- Source 320 is pending, source 351 active. -/
def tDbk : State := { tUp with regs := [(Reg.DBK_EN 5, 0xFFFFFFFFFFFFFFFF), (Reg.DBK_PEND 5, 1), (Reg.DBK_ACTIVE 5, 0x80000000)] ++
                                   [0, 1, 2, 3, 4, 6, 7].map (fun i => (Reg.DBK_PEND i, 0)) }

theorem witness_eoi : tDbk.alive = true ∧ tDbk.srcActive 351 = true ∧ tDbk.srcActive 320 = false ∧ tDbk.srcPend 320 = true ∧ 320 ≤ Machine.fld (0x35F : Word) 0 9 ∧
    Machine.fld (0x35F : Word) 0 9 < 352 ∧ (0x35F : Word).getLsbD 9 = true ∧ tDbk.srcLevel 351 = false ∧ tDbk.srcEn 351 = true := by decide

theorem witness_hold : 16 ≤ (0x1000 : Word).toNat / 256 % 32 := by decide

/-- One unread record of steward 7. -/
def tRing : State := { tUp with regs := [(Reg.DBK_RING 7, 0x10100)], daybook := { rings := [(7, [⟨320, false, false, 0, 0, 0⟩])], on := [(320, 8)] } }

theorem witness_ring : ((0 + 256 - tRing.fld (Reg.DBK_RING 7) 0 8) % 256 ≤ tRing.ringCount 7) ∧ tRing.ringCount 7 < (2 + 256 - tRing.fld (Reg.DBK_RING 7) 0 8) % 256 ∧
    tRing.ringCount 7 ≠ 0 ∧ tRing.bit (Reg.DBK_STW 7) 6 = false ∧ (∀ r ∈ tRing.dbkRing 7, r.source < 512) := by decide

theorem witness_deliver : tDbk.bit Reg.DBK_CTL 0 = false ∧ tDbk.nextDelivery = some (320, 0) ∧
    ({ tDbk with regs := [0, 1, 2, 3, 4, 5, 6, 7].map (fun i => (Reg.DBK_PEND i, 0)) } : State).nextDelivery = none := by decide +kernel

theorem witness_shares : (8 : BitVec 4).toNat < 9 ∧ (1000 : Word).toNat % 1024 ≤ 1000 ∧ tUp.shareSum 8 1000 ≤ 1000 ∧
    1000 < ({ tUp with regs := [(Reg.PURSE_CTL 0, 1)] } : State).shareSum 8 1000 := by decide

theorem witness_reins : (0x1553555 : Word).toNat % 16384 ≤ 13653 ∧ (0x1553555 : Word).toNat / 65536 % 512 ≤ 341 ∧ 13653 < tUp.reinSum false 0 14 7 0x3555 ∧
    tUp.reinSum false 0 14 7 0 ≤ 13653 ∧ tUp.reinSum false 16 9 7 0 ≤ 341 ∧ tUp.reinSum true 40 8 7 0 ≤ 160 ∧ 160 < tUp.reinSum true 40 8 7 (0xA00000000000 &&& 0xFFFFFFFFFFFF) := by
  decide

theorem witness_pool : (32 : Word).toNat % 64 ≤ 32 ∧ tUp.bit Reg.DRAM_POOL_CTL 8 = false ∧ tUp.allRuns.all (fun r => r.2.2 == 0) = true ∧
    ({ tUp with regs := [(Reg.DRAM_POOL_CTL, 0x100)] } : State).bit Reg.DRAM_POOL_CTL 8 = true := by decide

/-- The largest set, 64 by 32 by 1, and a module at its far corner. -/
theorem witness_set : let v : Word := 64 * 2 + 32 * 2 ^ 8 + 1 * 2 ^ 15 + 63 * 2 ^ 22 + 31 * 2 ^ 28 + 1
    v.toNat / 2 % 128 = 64 ∧ v.toNat / 2 ^ 8 % 128 = 32 ∧ v.toNat / 2 ^ 15 % 128 = 1 ∧ 64 * 32 * 1 ≤ 2048 ∧ v.toNat / 2 ^ 22 % 64 < 64 ∧ v.toNat / 2 ^ 28 % 64 < 32 ∧
    v.toNat / 2 ^ 34 % 64 < 1 := by decide

/-! ### Purses, jobs and memory pools -/

/-- Job 1 of partition 7 waits on core 31, its only core, for a step that declares 100. -/
def tQueued : Job := { n := ⟨0, 1, 1⟩, part := 7, prog := ⟨1, 0, 7, 0, 64, 0, 0, 1, 0, [(63, 100)], true⟩, serving := false, rings := 0, seed := 5, argBase := 0, argLen := 0,
                       phase := .queued, cores := [31], declared := 100 }

def tAdmit (level : Word) (d : Nat) : State :=
  { tUp with cores := [(31, { codeLen := 64, job := some ⟨0, 1, 1⟩ })], jobs := [tQueued], fifo := [(7, [.step ⟨0, 1, 1⟩ d])]
             regs := [(Reg.PURSE_CTL 7, 0x640000), (Reg.PURSE_LEVEL 7, level)] }

theorem sget_cases (l : Sparse Core) (c : Nat) : sget {} l c = {} ∨ ∃ e ∈ l, sget {} l c = e.2 := by
  induction l with
  | nil => exact Or.inl rfl
  | cons x r ih =>
    by_cases h : x.1 = c
    · exact Or.inr ⟨x, List.mem_cons_self, by simp [sget, h]⟩
    · rcases ih with e | ⟨y, m, e⟩
      · exact Or.inl (by simpa [sget, h] using e)
      · exact Or.inr ⟨y, List.mem_cons_of_mem _ m, by simpa [sget, h] using e⟩

theorem jobOn_mem (s : State) (c : Nat) (j : Job) (h : j ∈ s.jobOn c) : j ∈ s.jobs := by
  unfold State.jobOn State.job? at h
  split at h
  · exact List.mem_of_find?_eq_some h
  · cases h

theorem still_quiet (s : State) (h : ∀ e ∈ s.cores, e.2.queue = [] ∧ e.2.held = none ∧ (e.2.run = .running → e.2.index < e.2.codeLen))
    (g : ∀ j ∈ s.jobs, j.phase ≠ .dying) : s.Still := by
  intro c _
  have k := fun j m => g j (jobOn_mem s c j m)
  unfold State.core
  rcases sget_cases s.cores c with e | ⟨x, m, e⟩
  · rw [e]
    exact ⟨rfl, rfl, k, fun h => by cases h⟩
  · rw [e]
    exact ⟨(h x m).1, (h x m).2.1, k, (h x m).2.2⟩

/-- A step that just fits the cover and the purse; one more than the purse holds; one above the cover. -/
theorem witness_admit : let s := tAdmit 100 100
    s.Still ∧ s.host.psPhase = .operational ∧ s.fifoOf 7 = .step tQueued.n 100 :: [] ∧ s.HasJob tQueued ∧ tQueued.part = 7 ∧ tQueued.phase = .queued ∧
    100 = s.cover 7 ∧ (100 : Int) = s.remaining 7 ∧ (∀ c ∈ tQueued.cores, (tQueued.prog.steps.getD tQueued.step (0, 0)).1 < (s.core c).codeLen) :=
  ⟨still_quiet _ (by decide) (by decide), by decide, by decide, ⟨by decide, by decide, by decide⟩, by decide, by decide, by decide, by decide, by decide⟩

theorem witness_admit_waits : let s := tAdmit 99 100
    s.Still ∧ s.host.psPhase = .operational ∧ s.fifoOf 7 = .step tQueued.n 100 :: [] ∧ 100 ≤ s.cover 7 ∧ s.remaining 7 < (100 : Int) :=
  ⟨still_quiet _ (by decide) (by decide), by decide, by decide, by decide, by decide⟩

theorem witness_admit_fails : let s := tAdmit 0 101
    s.Still ∧ s.fifoOf 7 = .step tQueued.n 101 :: [] ∧ s.HasJob tQueued ∧ s.cover 7 < 101 ∧ s.serving.reqs = [] ∧ tQueued.rings = 0 ∧ s.bindingOf tQueued.part = none ∧
    (∀ c ∈ tQueued.cores, (s.core c).busy = []) ∧ (∀ v ∈ s.saved, v.job ≠ tQueued.n) :=
  ⟨still_quiet _ (by decide) (by decide), by decide, ⟨by decide, by decide, by decide⟩, by decide, by decide, by decide, by decide, by decide, by decide⟩

def tPres (d : Nat) : State :=
  { tAdmit 100 0 with fifo := [(7, [.pres (some ⟨0, 1, 1⟩) 31 d 0x17FFFC0])]
                      cores := [(31, { run := .running, codeLen := 64, job := some ⟨0, 1, 1⟩, busy := [⟨.purse, 0, none, false, .pres, []⟩] })] }

theorem witness_pres : (tPres 100).Still ∧ (tPres 100).host.psPhase = .operational ∧ (tPres 100).fifoOf 7 = .pres (some ⟨0, 1, 1⟩) 31 100 0x17FFFC0 :: [] ∧ (tPres 100).saved = [] ∧
    ((tPres 100).core 31).MergeOk ∧ ((tPres 100).core 31).flipped = [] ∧ (tPres 100).touchesWindow 31 0x17FFFC0 4 = false ∧ 0x17FFFC0 % 64 = 0 ∧ 0x17FFFC0 < sramSize ∧ (tPres 101).cover 7 < 101 ∧ 100 = (tPres 100).cover 7 ∧ (100 : Int) = (tPres 100).remaining 7 :=
  ⟨still_quiet _ (by decide) (by decide), by decide, by decide, by decide, ⟨by decide, by decide⟩, by decide, by decide, by decide, by decide, by decide, by decide, by decide⟩

theorem witness_off : let s := { tAdmit 0 100 with host := { psPhase := .low 3 } }
    s.host.psPhase ≠ .operational ∧ tUp.fifoOf 7 = [] := by decide

/-- Partition 7 is enabled over cores 30 and 31, and a job waits for both. -/
def tPlace : State := { tUp with jobs := [{ tQueued with cores := [], phase := .waiting, prog := { tQueued.prog with ncores := 2 } }]
                                 regs := [(Reg.SCHED_PART 7, 0xC000000000000001)] }

theorem witness_place : tPlace.bit (Reg.SCHED_PART 7) 0 = true ∧ tPlace.oldestOut 7 (tPlace.idleCores 7) = none ∧
    (tPlace.jobs.find? (fun j => j.part == 7 && j.phase == .waiting)).map (fun j => decide (tPlace.job? j.n = some j) && !j.serving && j.rings == 0 &&
      decide (j.prog.ncores = (tPlace.idleCores 7).length)) = some true ∧ tUp.bit (Reg.SCHED_PART 7) 0 = false := by decide

def tRunJob : Job := { tQueued with phase := .running }

/-- A job on core 31 and another that waits for that core, with room for `ctx` contexts. -/
def tSlice (ctx : Word) : State :=
  { tUp with jobs := [tRunJob, { tQueued with n := ⟨0, 1, 2⟩, phase := .waiting, cores := [] }], cores := [(31, { run := .running, codeLen := 64, job := some ⟨0, 1, 1⟩ })]
             regs := [(Reg.SCHED_PART 7, 0x8000000000000029), (Reg.SCHED_CTX 7, ctx)] }

theorem witness_slice : (tSlice 1).fld (Reg.SCHED_PART 7) 1 6 ≠ 0 ∧
    (tSlice 1).jobs.find? (fun j => j.part == 7 && (tSlice 1).switchable j && (tSlice 1).wanted j) = some tRunJob ∧
    (tSlice 1).fld (Reg.SCHED_CTX 7) 0 8 = (tSlice 1).ctxUsed 7 + tRunJob.cores.length ∧ (tSlice 1).job? tRunJob.n = some tRunJob ∧
    (tSlice 0).fld (Reg.SCHED_CTX 7) 0 8 < (tSlice 0).ctxUsed 7 + tRunJob.cores.length ∧ tUp.fld (Reg.SCHED_PART 7) 1 6 = 0 := by decide

def tStopJob : Job := { tQueued with phase := .stopping, back := .running }

def tStop : State :=
  { tUp with jobs := [tStopJob], mem := [(sramBase 31, 7)], valid := [sramBase 31 / 64], poison := [sramBase 31 / 64 + 1], regs := [(Reg.SCHED_REIN 7, 1)]
             cores := [(31, { run := .switchedOut, codeLen := 64, job := some ⟨0, 1, 1⟩, merge := [tMerge], ctr := [(1, 9)], index := 5 })] }

theorem witness_switch_out : tStop.parking 7 = some tStopJob ∧ tStop.HasJob tStopJob ∧ (∀ c ∈ tStopJob.cores, (tStop.core c).MergeOk ∧ (tStop.core c).flipped = []) ∧
    tUp.parking 7 = none ∧ tStop.reinOpen 7 .dram = true :=
  ⟨by decide, ⟨by decide, by decide, by decide⟩, by unfold Core.MergeOk; decide, by decide, by decide⟩

def tSaved : SavedCtx := { job := ⟨0, 1, 1⟩, core := 31, saved := { codeLen := 64, job := some ⟨0, 1, 1⟩, ctr := [(1, 9)], index := 5 }, regs := [], shadow := [],
                           valid := [sramBase 31 / 64], poison := [], bytes := [(sramBase 31, 7), (sramBase 31 + sramSize - 1, 8)] }

def tLoadJob : Job := { tQueued with phase := .loading, back := .running }

def tLoad : State := { tUp with jobs := [tLoadJob], saved := [tSaved], regs := [(Reg.SCHED_REIN 7, 1)], cores := [(31, { job := some ⟨0, 1, 1⟩ })] }

theorem witness_switch_in : tLoad.jobs.find? (fun j => j.part == 7 && j.phase == .loading) = some tLoadJob ∧ tLoad.HasJob tLoadJob ∧ tLoad.reinOpen 7 .dram = true ∧
    tLoadJob.frames = [] ∧ tLoad.saved.filter (fun v => v.job == tLoadJob.n) = [tSaved] ∧ [tSaved].map SavedCtx.core = tLoadJob.cores ∧ tSaved.saved.job = some tLoadJob.n ∧ tSaved.saved.queue = [] ∧ tSaved.saved.held = none ∧
    tSaved.saved.index < tSaved.saved.codeLen ∧ Memory.wf tSaved.bytes = true ∧ (∀ e ∈ tSaved.bytes, sramBase 31 ≤ e.1 ∧ e.1 < sramBase 31 + sramSize) ∧
    tLoadJob.back = .running ∧ tSaved.saved.ended = false :=
  ⟨by decide, ⟨by decide, by decide, by decide⟩, by decide, by decide, by decide, by decide, by decide, by decide, by decide, by decide, by decide, by decide, by decide⟩

/-- The last page of the weight range is being copied. -/
def tCopy (poisoned : NatSet) : State :=
  { tUp with weight := { attached := [⟨3, 33554431, 1⟩], copying := [33554431], frame := [(33554431, 0)], poisoned := poisoned } }

theorem witness_copy : setHas (tCopy []).weight.copying 33554431 = true ∧ (tCopy []).houseMoves = true ∧ (tCopy []).attached 33554431 = some ⟨3, 33554431, 1⟩ ∧
    (tCopy []).pagePoisoned ⟨3, 33554431, 1⟩ 33554431 = false ∧ (tCopy [wkey 3 0]).pagePoisoned ⟨3, 33554431, 1⟩ 33554431 = true := by decide

theorem witness_zeroing : let s := { tUp with regs := [(Reg.DRAM_POOL_CTL, 0x101)] }
    s.bit Reg.DRAM_POOL_CTL 8 = true ∧ s.weight.limitAfter = none := by decide

/-- The scrubber at the last line of DRAM. -/
theorem witness_scrub : let s := { tUp with regs := [(Reg.DRAM_SCRUB_CTL, 1)], scrubAt := dramLines - 1 }
    s.alive = true ∧ s.bit Reg.DRAM_SCRUB_CTL 0 = true ∧ s.reinOpen 8 .dram = true ∧ s.poisoned ((dramBase + 64 * s.scrubAt) / 64) = false := by decide

/-! ### Host commands and controllers -/

/-- Controllers 0 and 65 are ready, each with an I/O queue pair; the media regs are as the mount leaves them. -/
def tHost : State :=
  { tUp with
      host := { ctrls := [(0, { enabled := true, ready := true, sqs := [{ qid := 0, size := 4096 }, { qid := 1, size := 64, cqid := 1 }], cqs := [{ qid := 0, size := 4096 }, { qid := 1, size := 64 }] }),
                          (65, { enabled := true, ready := true })] }
      regs := [(Reg.MEDIA_FREE, 0x773F00), (Reg.MEDIA_SLC, 0x32000000000)] ++ tUp.regs
      nss := [(1, { kind := 0, lbas := 64, ctrls := [0] }), (2, { kind := 1, lbas := 1048576, ctrls := [0] }), (3, { kind := 3, lbas := 1024, ctrls := [0] }),
              (4, { kind := 4, lbas := 1024, ctrls := [0] }), (5, { kind := 5, part := 7, ctrls := [0] }),
              (6, { kind := 6, part := 7, base := dramBase, bytes := 4096, ctrls := [0] })] }

/-- The first command identifier of the admin queue, and of the I/O queue. -/
def tA : NHdr := ⟨0, 0, 1⟩

def tI : NHdr := ⟨0, 1, 1⟩

/-- What `State.Accepts` asks for. -/
def takes (s : State) (n : NHdr) (i : Instr) : Bool :=
  s.canFetch n && (anyQueue i || isAdmin n == adminCmd i) && s.host.psPhase == .operational && !s.host.sanitizing &&
  (isAdmin n || physCtrl (nctrl n) || (s.vfPart (nctrl n)).isSome) && (ioNs i).all (fun d => (s.nsOf n d).isSome && !s.owesError n d) && s.reinsPass n i && !s.blocksWait i

theorem accepts_of_takes {s : State} {n : NHdr} {i : Instr} (h : takes s n i = true) : s.Accepts n i := by
  simp only [takes, Bool.and_eq_true, beq_iff_eq, Bool.not_eq_true', List.all_eq_true] at h
  obtain ⟨⟨⟨⟨⟨⟨⟨h1, h2⟩, h3⟩, h4⟩, h5⟩, h6⟩, h7⟩, h8⟩ := h
  exact ⟨h1, h2, h3, h4, h5, fun d m => (h6 d m).1, fun d m => (h6 d m).2, h7, h8⟩

/-- One admin command of each row. -/
def tAdmin : List Instr :=
  [.identify tA 1 0, .getFeatures tA 7, .setFeatures tA 11 1, .powerManagement tA 4, .timestamp tA 1, .getLogPage tA 2 false 0 512, .createIoQueue tA true 512 1 0,
   .deleteIoQueue tA true 1, .abort tA ⟨1, 1⟩, .asynchronousEventRequest tA, .namespaceCreate tA 0 255 8 0 false, .namespaceDelete tA 6, .namespaceAttachment tA 6 true [129],
   .firmwareImageDownload tA 0 [1], .firmwareCommit tA 2 3, .formatNvm tA 1 true, .sanitize tA true, .virtualizationManagement tA 64 .online 0, .keepAlive tA,
   .deviceSelfTest tA 1, .securitySend tA 0xE8 1 .getVersion, .securityReceive tA 0 0 10, .attachWeight tA 3 33554430 false, .detachWeight tA 3 false,
   .setHostWindow tA 15 true 1 0 0 false, .loadProgram tA 5 0 0xC1 [1], .programActivationManagement tA 5 0 true, .memoryRangeSetManagement tA true 1 [(6, 0, 4096)],
   .unsupportedCommand tA false]

theorem witness_admin : ∀ i ∈ tAdmin, tHost.Accepts tA i := fun i h => accepts_of_takes ((by decide +kernel : ∀ i ∈ tAdmin, takes tHost tA i = true) i h)

/-- One I/O command of each row. -/
def tIo : List Instr :=
  [.read tI 1 63 1, .write tI 1 63 (List.replicate 4096 7), .writeZeroes tI 1 63 1, .flush tI 1, .deallocate tI 1 [(60, 4)], .compare tI 1 63 (List.replicate 4096 0), .verify tI 1 63 1,
   .zoneAppend tI 2 524288 (List.replicate 4096 7), .zoneOpen tI 2 524288, .zoneClose tI 2 524288, .zoneFinish tI 2 524288, .resetZone tI 2 524288, .zoneOffline tI 2 524288,
   .zoneManagementReceive tI 2 524288 1, .executeProgram tI 5 0 [], .memoryRead tI 6 0 4096, .memoryWrite tI 6 4095 [7], .memoryCopy tI 6 4095 6 0 1,
   .weightPageRewrite tI 3 512 [] true, .openIndex tI 4 15 7 0 [] false, .closeIndex tI 4 15 false, .updateIndex tI 4 15 ⟨[], false⟩, .advanceEpoch tI 4 15 false,
   .compactIndex tI 4 15 false, .search tI 4 15 [], .submitRequest tI 5 ⟨1, 1⟩ [], .setOverlay tI 5 7 1 0 [] false, .frameStart tI 5 7 255 0 false, .pauseRequest tI 5 ⟨1, 1⟩]

theorem witness_io : ∀ i ∈ tIo, tHost.Accepts tI i := fun i h => accepts_of_takes ((by decide +kernel : ∀ i ∈ tIo, takes tHost tI i = true) i h)

theorem witness_unfetched : tUp.canFetch tA = false ∧ tHost.canFetch tI = true ∧ (anyQueue (.identify tI 1 0) || isAdmin tI == adminCmd (.identify tI 1 0)) = false ∧
    hostHdr (.identify tI 1 0) = some tI := by decide

theorem witness_asleep_host : let s := { tHost with host := { tHost.host with psPhase := .low 4 } }
    s.canFetch tA = true ∧ (anyQueue (.keepAlive tA) || isAdmin tA == adminCmd (.keepAlive tA)) = true ∧ s.host.psPhase = .low 4 := by decide

theorem witness_sanitizing : let s := { tHost with host := { tHost.host with sanitizing := true } }
    s.canFetch tI = true ∧ s.host.psPhase = .operational ∧ s.host.sanitizing = true ∧ sanitizeOk (.flush tI 1) = false ∧ s.alive = true ∧ s.media.mounted = true ∧
    s.host.stalled = [] := by decide

/-- A virtual function of port 0 without a partition; a name space that does not exist; one that owes controller 0 an error. -/
theorem witness_refusals : let s := { tHost with host := { ctrls := [(0, { enabled := true, ready := true, sqs := [{ qid := 1, size := 4 }] }),
                                                                     (64, { enabled := true, ready := true, sqs := [{ qid := 1, size := 4 }] })] }
                                                 nss := [(1, { kind := 0, lbas := 8, ctrls := [0], deferOn := [0] })] }
    s.canFetch ⟨64, 1, 1⟩ = true ∧ isAdmin ⟨64, 1, 1⟩ = false ∧ physCtrl 64 = false ∧ s.vfPart 64 = none ∧ s.nsOf tI 2 = none ∧ (s.nsOf tI 1).isSome = true ∧
    s.owesError tI 1 = true ∧ ioNs (.read tI 1 0 1) = [1] := by decide

theorem witness_doorbell : tHost.alive = true ∧ (tHost.ctrl 0).enabled = true ∧ (0 : BitVec 8).toNat < 130 ∧ (tHost.ctrl 0).sq? 1 = some { qid := 1, size := 64, cqid := 1 } ∧
    (tHost.ctrl 0).cq? 1 = some { qid := 1, size := 64 } ∧ (63 : BitVec 16).toNat < 64 := by decide

/-- Create: the last identifier that can be, one too many, one in use; a completion queue that does not exist. Delete: one in use, one free. -/
theorem witness_queues : let c := tHost.ctrl 0
    (512 : BitVec 16).toNat = 512 ∧ 512 < (513 : BitVec 16).toNat ∧ c.cq? 512 = none ∧ c.sq? 512 = none ∧ c.cq? 2 = none ∧ c.cq? 1 ≠ none ∧
    c.sqs.any (fun q => q.cqid == (1 : BitVec 16).toNat && q.qid != 0) = true ∧ c.sq? 1 ≠ none := by decide

theorem witness_features : (7 : BitVec 8).toNat ∈ featureIds ∧ (0 : BitVec 8).toNat ∉ featureIds ∧ (tHost.logPage 2).isSome = true ∧ tHost.logPage 0xFF = none ∧
    tHost.srcPend 64 = false ∧ tHost.host.queuedEv = [] ∧ (tHost.ctrl 0).aers.length < 16 ∧ ({ aers := List.replicate 16 0 } : Ctrl).aers.length = 16 := by decide

theorem witness_apst : let s := { tHost with host := { tHost.host with ctrls := [(65, { enabled := true, feats := [(12, 1)] })] } }
    s.alive = true ∧ ((sget (0 : BitVec 32) (s.ctrl 0).feats 12).getLsbD 0 || (sget (0 : BitVec 32) (s.ctrl 65).feats 12).getLsbD 0) = true ∧ s.host.psPhase = .operational := by
  decide

theorem witness_ps_entry : let s := { tUp with host := { psPhase := .entering 4 } }
    s.stepsRun = false ∧ ({ s with jobs := [tRunJob] } : State).stepsRun = true ∧ ({ s with host := { psPhase := .exiting } } : State).host.delayed = [] ∧
    (∀ g < 6, ∀ l < 6, s.linkState g l ≠ 2) := by decide

theorem witness_keep_alive : let s := { tHost with host := { ctrls := [(129, { enabled := true, feats := [(15, 1)] })] } }
    s.alive = true ∧ (s.ctrl 129).enabled = true ∧ sget (0 : BitVec 32) (s.ctrl 129).feats 15 ≠ 0 ∧ (129 : BitVec 8).toNat < 130 := by decide

theorem witness_resets : tHost.alive = true ∧ tHost.Still ∧ (tHost.ctrl 0).enabled = true ∧ tHost.Asleep ∧ physCtrl 65 = true ∧ tHost.guard.phase ≠ .unpowered ∧
    2 ≤ ({ tHost with regs := [(Reg.GUARD_BOOT, 2)] } : State).fld Reg.GUARD_BOOT 0 3 :=
  ⟨by decide, still_quiet _ (by decide) (by decide), by decide, ⟨rfl, ⟨rfl, rfl, rfl⟩, rfl, rfl, rfl, rfl, rfl, ⟨rfl, rfl, rfl, rfl, rfl⟩⟩, by decide, by decide, by decide⟩

theorem witness_config : ((7 : BitVec 8).toNat, (5 : BitVec 32)) ∈ [(7, (5 : BitVec 32))] ∧ ([(7, (5 : BitVec 32))].map Prod.fst).Nodup := by decide

/-- A job in flight, and a command that waits while the module sleeps. -/
theorem witness_abort : let s := { tHost with jobs := [tRunJob], cores := [(31, { run := .running, codeLen := 64, job := some ⟨0, 1, 1⟩ })] }
    s.Accepts tA (.abort tA ⟨1, 1⟩) ∧ s.HasJob tRunJob ∧ tRunJob.n = ⟨tA.ctrl, 1, 1⟩ ∧ s.host.delayed = [] ∧ s.host.stalled = [] ∧
    abortHit ⟨0, 1, 1⟩ (.read tI 1 0 1) = true :=
  ⟨accepts_of_takes (by decide), ⟨by decide, by decide, by decide⟩, by decide, by decide, by decide, by decide⟩

theorem witness_virtualization : physCtrl (nctrl tA) = true ∧ ¬ (130 ≤ (64 : BitVec 8).toNat ∨ physCtrl (64 : BitVec 8).toNat = true ∨ portOf (64 : BitVec 8).toNat ≠ portOf (nctrl tA)) ∧
    physCtrl (65 : BitVec 8).toNat = true ∧ physCtrl 129 = false ∧ ({ online := false } : Ctrl).online = false := by decide

/-! ### Name spaces -/

theorem witness_create : let ask : NsAsk := ⟨0, 255, 8, 0, false⟩
    tHost.NsSorted ∧ (∀ e ∈ tHost.nss, 1 ≤ e.1) ∧ ask.bad tHost = false ∧ (⟨0, 255, 0, 0, false⟩ : NsAsk).bad tHost = true ∧ tHost.nss.length < 256 ∧
    tHost.usedLbas + 8 ≤ userLbas ∧ userLbas < tHost.usedLbas + (userLbas + 1) ∧ (⟨0, 255, userLbas + 8, 0, false⟩ : NsAsk).bad tHost = false :=
  ⟨by unfold State.NsSorted; decide, by decide, by decide, by decide, by decide, by decide, by decide, by decide⟩

/-- Where there is one place, it is found, whichever place is chosen among those there are. -/
theorem place_alone {s : State} {n : Nat} (p : Nat) (h : (s.memGaps.map (placesIn n)).foldl (· + ·) 0 = 1) (h2 : nthPlace n 0 s.memGaps ≠ none) : s.findPlace p n ≠ none := by
  unfold State.findPlace
  simp only [h, Nat.mod_one]
  exact h2

/-- A memory name space of all the program memory there is. -/
theorem witness_create_memory : (⟨6, 7, 0, 0x6A00000000, false⟩ : NsAsk).bad tHost = false ∧ tHost.nss.length < 256 ∧ tHost.findPlace 7 0x6A00000000 ≠ none :=
  ⟨by decide, by decide, place_alone 7 (by decide) (by decide)⟩

theorem witness_create_full : let s := { tHost with nss := (List.range 256).map (fun i => (i + 1, { kind := 5, part := 7 })) }
    256 ≤ s.nss.length ∧ (⟨0, 255, 8, 0, false⟩ : NsAsk).bad s = false := by decide +kernel

theorem witness_attach : (tHost.ns? 6).map (fun v => (setHas v.ctrls 0, setHas v.ctrls 129)) = some (true, false) ∧ tHost.ns? 7 = none ∧ (129 : BitVec 8).toNat < 130 ∧
    130 ≤ (130 : BitVec 8).toNat := by decide

/-- A weight name space that is attached, and a compute name space that a job uses. -/
def tBusyNs : State := { tHost with weight := { attached := [⟨3, 0, 2⟩] }, jobs := [{ tRunJob with prog := { tRunJob.prog with nsid := 5 } }] }

theorem witness_delete : tBusyNs.weightBound 3 = true ∧ (tBusyNs.ns? 5).map Nspace.kind = some 5 ∧ (∃ j ∈ tBusyNs.jobs, j.prog.nsid = 5) ∧ tHost.weightBound 1 = false ∧
    tHost.indexBound 1 = false ∧ (tHost.ns? 1).map Nspace.kind = some 0 ∧ tHost.jobs = [] ∧ tHost.weight.attached = [] ∧ tHost.search.idx = [] := by decide

theorem witness_format : tBusyNs.Accepts tA (.formatNvm tA 3 false) ∧ tHost.Accepts tA (.formatNvm tA 1 true) ∧ (1 : BitVec 32) ≠ 0xFFFFFFFF ∧ tBusyNs.jobs ≠ [] ∧
    tBusyNs.Accepts tA (.sanitize tA true) ∧ tHost.Accepts tA (.sanitize tA true) ∧ tHost.NsSorted :=
  ⟨accepts_of_takes (by decide), accepts_of_takes (by decide), by decide, by decide, accepts_of_takes (by decide), accepts_of_takes (by decide), by unfold State.NsSorted; decide⟩

/-- The last block, one past it, and a lost one. -/
theorem witness_blocks : (tHost.ns? 1).map (fun v => (v.kind, v.lbas, setHas v.lost 63)) = some (0, 64, false) ∧ 63 + 1 ≤ 64 ∧ 64 < 64 + 1 ∧ tHost.mediaRo = false ∧
    ({ tHost with regs := [(Reg.MEDIA_SPARE, 0x8000000000000000)] } : State).mediaRo = true ∧ setHas ({ kind := 0, lost := [63] } : Nspace).lost 63 = true ∧
    (List.replicate 4096 (7 : Byte)).length % 4096 = 0 ∧ 1 ≤ (List.replicate 4096 (7 : Byte)).length / 4096 :=
  ⟨by decide, by decide, by decide, by decide, by decide, by decide, by decide +kernel, by decide +kernel⟩

/-- The last zone of two, in each state. -/
theorem witness_zones : (tHost.ns? 2).map (fun v => (v.kind, v.lbas, (v.zone 1).st, (v.zone 1).wp)) = some (1, 1048576, .empty, 0) ∧ 1 * 524288 < 1048576 ∧
    (∀ st ∈ [ZoneState.empty, .implicitlyOpen, .explicitlyOpen, .closed, .full, .offline], (({ kind := 1, zones := [(1, { st := st, wp := 524287 })] } : Nspace).zone 1).st = st) ∧
    524287 + 1 ≤ 524288 ∧ 524288 < 524287 + 2 ∧ (1 * 524288 + 524287) / 524288 = 1 ∧
    ¬ (((List.range 256).map (fun i => (i, ({ st := .closed } : Zone)))).filter (fun z => z.2.active)).length < 256 := by decide +kernel

theorem witness_ranges : tHost.weightBound 3 = false ∧ (tHost.ns? 3).map (fun v => (v.kind, v.lbas / 512)) = some (3, 2) ∧ 33554430 + 2 ≤ 33554432 ∧ 33554432 < 33554431 + 2 ∧
    tBusyNs.weight.attached.find? (fun x => x.nsid == 3) = some ⟨3, 0, 2⟩ ∧ (tHost.ns? 3).map (fun v => tBusyNs.nsOfPart v 7) = some false ∧ 512 % 512 = 0 ∧ 512 + 512 ≤ 1024 ∧
    (List.replicate (512 * 4096) (7 : Byte)).length = 512 * 4096 ∧ tHost.plannedWins = [] ∧
    ¬ ((0xFFFFFF : BitVec 24) = 0 ∨ (0x7FF000001000 : BitVec 64).toNat % 4096 ≠ 0 ∨ 2 ^ 47 < (0x7FF000001000 : BitVec 64).toNat + (0xFFFFFF : BitVec 24).toNat * 4096) :=
  ⟨by decide, by decide, by decide, by decide, by decide, by decide, by decide, by decide, List.length_replicate, by decide, by decide⟩

/-- A memory name space at the first of DRAM, its last byte, and one byte past it. -/
theorem witness_memory : (tHost.ns? 6).map (fun v => (v.kind, v.base, v.bytes)) = some (6, dramBase, 4096) ∧ (∀ r < 8, (tHost.fring r).run = none) ∧ 4095 + 1 ≤ 4096 ∧
    4096 < 4095 + 2 ∧ tHost.poison = [] ∧ tHost.host.ranges.any (fun e => e.1 == 1) = false ∧ (tHost.nsOf tA 6).isSome = true ∧
    (∀ r ∈ [((6 : BitVec 32), 4095, 1)], r.1 = 6 ∧ r.2.1 + r.2.2 ≤ 4096) ∧ [((1 : Nat), ([] : List (BitVec 32 × Nat × Nat)))].any (fun e => e.1 == 1) = true := by decide

/-! ### Programs, indexes, serving and frames -/

/-- The least image: one step that begins at its one instruction, of `magic`. -/
def tImage (magic : Nat) : List Byte :=
  leBytes 4 magic ++ leBytes 2 1 ++ leBytes 2 0 ++ leBytes 4 1 ++ leBytes 2 1 ++ leBytes 2 1 ++ leBytes 8 1 ++ List.replicate 40 0 ++
  (leBytes 4 0 ++ leBytes 4 0 ++ leBytes 8 7) ++ List.replicate 48 5 ++ [9]

/-- All of the program memory but its last `n` bytes is taken. -/
def tFull (n : Nat) : List Alloc := [{ part := 6, base := dramBase, size := 0x6A00000000 - n, kind := .args, key := 0 }]

/-- An image accepted at the last index, where one place remains for it. -/
theorem witness_image : let s := { tHost with allocs := tFull 128 }
    s.Accepts tA (.loadProgram tA 5 65535 0xC1 (tImage 0x4C4D4E57)) ∧ (s.ns? 5).map (fun v => (v.kind, v.part)) = some (5, 7) ∧ s.jobs = [] ∧
    s.imageBad (tImage 0x4C4D4E57) = false ∧ s.guard.log.length < 512 ∧
    (s.unload 5 65535).findPlace 7 (up64 (16 * (Image.ofBytes (tImage 0x4C4D4E57)).code) + (Image.ofBytes (tImage 0x4C4D4E57)).dataLen) ≠ none :=
  ⟨accepts_of_takes (by decide +kernel), by decide, by decide, by decide +kernel, by decide, place_alone 7 (by decide +kernel) (by decide +kernel)⟩

/-- An image refused; an index that a job uses; a name space of another kind; an index with no program. -/
theorem witness_image_refused : tHost.imageBad (tImage 0x4C4D4E56) = true ∧ tBusyNs.jobs.any (fun j => j.prog.nsid == 5 && j.prog.index == 0) = true ∧
    (tHost.ns? 4).map Nspace.kind = some 4 ∧ tHost.Accepts tA (.programActivationManagement tA 5 0 true) ∧ tHost.program? 5 0 = none :=
  ⟨by decide +kernel, by decide, by decide, accepts_of_takes (by decide), by decide⟩

def tProg (on : Bool) : Program := ⟨5, 0, 7, dramBase, 64, 0, 0, 1, 0, [(63, 100)], on⟩

/-- Partition 7 runs on core 31, frame ring 7 is its own, its program is loaded, and `n` bytes of memory are left. -/
def tExec (on : Bool) (n : Nat) : State :=
  { tHost with programs := [tProg on], allocs := tFull n
               regs := [(Reg.FRM_CTL 7, 0x100F), (Reg.SCHED_PART 7, 0x8000000000000001)] ++ tHost.regs }

/-- A job header for partition 7 with frame ring 7 and one byte of arguments. -/
def tJobBytes (flags : Nat) : List Byte := leBytes 1 7 ++ leBytes 1 flags ++ leBytes 1 128 ++ leBytes 5 0 ++ leBytes 8 5 ++ leBytes 4 1 ++ List.replicate 44 0 ++ [9]

theorem witness_execute : let s := tExec true 64
    s.Accepts tI (.executeProgram tI 5 0 (tJobBytes 0)) ∧ (s.ns? 5).map Nspace.kind = some 5 ∧ (5, 0) ∉ s.host.refusedImg ∧ s.program? 5 0 = some (tProg true) ∧
    (let h := JobHdr.ofBytes (tJobBytes 0)
     s.namedPart tI h.part = 7 ∧ h.rsv = false ∧ h.flags ≤ 1 ∧ 64 + h.argLen ≤ (tJobBytes 0).length ∧ s.bit (Reg.SCHED_PART 7) 0 = true ∧ 1 ≤ (s.partCores 7).length ∧
     s.job? tI = none ∧ (∀ r ∈ bitsOf 8 h.rings, s.ringTaken 7 1 r = false) ∧ s.findPlace 7 h.region ≠ none) :=
  ⟨accepts_of_takes (by decide), by decide, by decide, by decide, by decide, by decide, by decide, by decide, by decide, by decide, by decide, by decide,
    place_alone 7 (by decide +kernel) (by decide +kernel)⟩

/-- The program not active, too many flags, no place left, and an index whose image was refused. -/
theorem witness_execute_refused : (tExec false 64).program? 5 0 = some (tProg false) ∧ (tProg false).active = false ∧ 1 < (JobHdr.ofBytes (tJobBytes 2)).flags ∧
    (tExec true 63).findPlace 7 (JobHdr.ofBytes (tJobBytes 0)).region = none ∧ (5, 0) ∈ ({ tHost with host := { tHost.host with refusedImg := [(5, 0)] } } : State).host.refusedImg ∧
    tHost.program? 5 0 = none := by decide

/-- An index of one slot of 32 dimensions, in six regions behind its header, at epoch 1: its slot is live, with a code of sevens and no edge. -/
def tIndexData (magic : Nat) : List Host.Cell :=
  let put := fun (m : List Host.Cell) (f : Nat × Nat × Nat) => memPut m f.1 (leBytes f.2.1 f.2.2)
  let head := [(0, 4, magic), (4, 2, 1), (8, 2, 32), (10, 1, 64), (12, 4, 1), (16, 8, 1), (24, 8, 1), (32, 8, 137), (40, 8, 138), (48, 8, 139), (56, 8, 140), (73, 1, 1)].foldl put []
  [(137 * 4096, 8, 0x0707070707070707), (138 * 4096, 4, 1), (138 * 4096 + 512, 4, 0xFFFFFFFF), (140 * 4096 + 64, 1, 1)].foldl put head

def tIxNs (magic : Nat) : Nspace := { kind := 4, lbas := 141, ctrls := [0], data := tIndexData magic }

/-- The name space of the index; index 15 is closed, or, where `shape` says so, open at epoch 1 or at the last one. -/
def tIx (magic : Nat) (regs : List (Nat × Word)) (idx : Sparse Idx) : State :=
  { tHost with nss := [(4, tIxNs magic)], regs := tHost.regs ++ regs, search := { idx := idx } }

def tClosed : State := tIx 0x58444E49 [] []

theorem witness_open_index : tClosed.Accepts tI (.openIndex tI 4 15 7 0x8000001000 [0xFF] false) ∧
    (tClosed.ns? 4).map (fun v => (v.kind, setHas v.lost 0, hdrBad (memBytes v.data 0 4096) v.lbas)) = some (4, false, false) ∧ tClosed.indexOpen 15 = false ∧
    tClosed.indexBound 4 = false ∧ [(0xFF : BitVec 8)].filter (· != 0xFF) = [] ∧
    (tClosed.ns? 4).map (fun v => tClosed.copiesBad (tClosed.namedPart tI 7) 0x8000001000 (hdrCopies (memBytes v.data 0 4096) 0)) = some false :=
  ⟨accepts_of_takes (by decide +kernel), by decide +kernel, by decide +kernel, by decide +kernel, by decide, by decide +kernel⟩

theorem witness_open_refused : ((tIx 0x58444E48 [] []).ns? 4).map (fun v => hdrBad (memBytes v.data 0 4096) v.lbas) = some true ∧ (tHost.ns? 5).map Nspace.kind = some 5 ∧
    8 < (List.replicate 9 (0xFF : BitVec 8)).length := by decide +kernel

/-- Index 15 open at epoch `e` with SIDX_STATE bits `st`: its copies lie at the first of DRAM. -/
def tOpen (e st : Nat) (v : Idx) : State :=
  let s := tIx 0x58444E49 [(Reg.SCHED_REIN 7, 0x6464646464646464), (Reg.SIDX_STATE 15, BitVec.ofNat 64 (1 + 7 * 2 + st + e * 2 ^ 32)), (Reg.SIDX_SHAPE 15, BitVec.ofNat 64 (1 + 32 * 2 ^ 34 + 64 * 2 ^ 45)), (Reg.SIDX_DBASE 15, 0x8000000000)] [(15, v)]
  { s with mem := memPut (memPut [] 0x8000000000 (leBytes 8 0x0707070707070707)) (s.indexAt 15 (1 + e % 2)) [1] }

def tIdx : Idx := { nsid := 4 }

def tIns : IndexOp := .insert 0 7 (List.replicate 32 9) (List.replicate 512 0) (List.replicate 128 0)

theorem on_open (e st : Nat) (x : Idx) (ho : (tOpen e st x).indexOpen 15 = true) (hn : x.nsid = 4) (hc : (tOpen e st x).closing 15 = false) :
    (tOpen e st x).OnIdx 4 15 (tIxNs 0x58444E49) x := ⟨rfl, rfl, ho, rfl, hn, hc⟩

theorem witness_close : (tOpen 1 0 tIdx).Accepts tI (.closeIndex tI 4 15 false) ∧ (tOpen 1 0 tIdx).OnIdx 4 15 (tIxNs 0x58444E49) tIdx ∧ (tOpen 1 0 tIdx).closing 15 = false ∧
    (tOpen 1 128 { tIdx with closer := some tI }).closing 15 = true ∧ (tOpen 1 128 { tIdx with closer := some tI }).reg (Reg.SIDX_BOUND 15) = 0 ∧ (tOpen 1 0 tIdx).alive = true :=
  ⟨accepts_of_takes (by decide +kernel), on_open 1 0 tIdx (by decide +kernel) rfl (by decide +kernel), by decide +kernel, by decide +kernel, by decide +kernel, by decide +kernel⟩

/-- An index that stages for its next epoch, and one whose previous epoch is held. -/
theorem witness_update : let s := tOpen 1 32 tIdx
    s.OnIdx 4 15 (tIxNs 0x58444E49) tIdx ∧ s.Accepts tI (.updateIndex tI 4 15 ⟨[.delete 0], false⟩) ∧ s.mediaRo = false ∧ s.prevHeld 15 = false ∧ tIdx.waiting = [] ∧
    s.staging 15 = true ∧ 0 < s.slots 15 ∧ s.nextLive 15 0 = false ∧ ({ s with mem := memPut [] (s.indexAt 15 1) [1] } : State).nextLive 15 0 = true :=
  ⟨on_open 1 32 tIdx (by decide +kernel) rfl (by decide +kernel), accepts_of_takes (by decide +kernel), by decide +kernel, by decide +kernel, rfl, by decide +kernel,
    by decide +kernel, by decide +kernel, by decide +kernel⟩

/-- A slot that is free, its records never written. -/
theorem witness_insert : let s := { tOpen 1 32 tIdx with nss := [(4, { tIxNs 0x58444E49 with data := memPut (tIndexData 0x58444E49) (138 * 4096) (leBytes 4 0xFFFFFFFF) })] }
    s.Accepts tI (.updateIndex tI 4 15 ⟨[tIns], false⟩) ∧ s.indexOpBad 15 tIns = false ∧ s.slotIsFree 15 0 = true ∧ s.edgesOk 15 0 (List.replicate 512 0) = true ∧
    s.staging 15 = true ∧ s.prevHeld 15 = false ∧ (s.ns? 4).map Nspace.kind = some 4 ∧ s.indexOpen 15 = true ∧ s.closing 15 = false :=
  ⟨accepts_of_takes (by decide +kernel), by decide +kernel, by decide +kernel, by decide +kernel, by decide +kernel, by decide +kernel, by decide +kernel, by decide +kernel,
    by decide +kernel⟩

theorem witness_advance : (tOpen 0xFFFFFFFE 0 tIdx).epoch 15 = 0xFFFFFFFE ∧ (tOpen 0xFFFFFFFD 0 tIdx).epoch 15 = 0xFFFFFFFD ∧ (tOpen 2 16 tIdx).prevHeld 15 = true ∧
    (tOpen 1 0 tIdx).Accepts tI (.advanceEpoch tI 4 15 false) ∧ (tOpen 1 0 tIdx).Accepts tI (.compactIndex tI 4 15 false) ∧ (tOpen 2 16 tIdx).Accepts tI (.advanceEpoch tI 4 15 false) :=
  ⟨by decide +kernel, by decide +kernel, by decide +kernel, accepts_of_takes (by decide +kernel), accepts_of_takes (by decide +kernel), accepts_of_takes (by decide +kernel)⟩

theorem witness_staging_start : let x : Idx := { tIdx with waiting := [.compactIndex tI 4 15 false] }
    x.waiting ≠ [] ∧ (tOpen 2 0 x).prevHeld 15 = false ∧ (tOpen 2 16 x).prevHeld 15 = true ∧ (tOpen 2 0 x).indexOpen 15 = true := by decide +kernel

/-- A query of one result at the epoch numbered `e`, with these flags and group, and `n` bytes after it. -/
def tAsk (e fl g n : Nat) : List Byte :=
  leBytes 4 e ++ leBytes 2 1 ++ leBytes 2 1 ++ leBytes 4 1 ++ leBytes 2 1 ++ leBytes 1 0 ++ leBytes 1 fl ++ leBytes 1 0 ++ leBytes 1 g ++ leBytes 2 0 ++ leBytes 4 16 ++
  List.replicate 168 0 ++ List.replicate (64 + n) 0

theorem witness_search : let s := tOpen 1 0 tIdx
    let a := SearchAsk.ofBytes (tAsk 0xFFFFFFFF 0 0 0) (s.dim 15)
    let b := a.block 15 0
    s.Accepts tI (.search tI 4 15 (tAsk 0xFFFFFFFF 0 0 0)) ∧ s.OnIdx 4 15 (tIxNs 0x58444E49) tIdx ∧ a.supplied = false ∧ a.sharded = false ∧
    max (a.inputLen (s.dim 15) (s.slots 15)) (64 + 16 * a.k) = (tAsk 0xFFFFFFFF 0 0 0).length ∧
    b.rsv = false ∧ b.bad s (s.fld (Reg.SIDX_STATE 15) 1 3) = false ∧ s.holds 15 1 = true ∧ s.holds 15 (SearchAsk.ofBytes (tAsk 2 0 0 0) (s.dim 15)).epoch = false ∧
    (SearchAsk.ofBytes (List.replicate 256 0) (s.dim 15)).k = 0 :=
  ⟨accepts_of_takes (by decide +kernel), on_open 1 0 tIdx (by decide +kernel) rfl (by decide +kernel), by decide +kernel, by decide +kernel, by decide +kernel, by decide +kernel,
    by decide +kernel, by decide +kernel, by decide +kernel, by decide +kernel⟩

/-- A sharded query over group 255 of a set of one, whole; of a module in no set; and at no epoch of its own. -/
theorem witness_search_sharded : let o := tOpen 1 0 tIdx
    let s := { o with regs := [(Reg.GIRTH_SET, 0x8103), (Reg.GIRTH_GROUP 255, 0x204080001)] ++ o.regs }
    let a := SearchAsk.ofBytes (tAsk 1 4 255 0) (s.dim 15)
    a.sharded = true ∧ a.epoch ≠ 0xFFFFFFFF ∧ s.bit (Reg.GIRTH_GROUP a.group) 0 = true ∧ s.me ∈ s.groupMembers a.group ∧ s.setComplete = true ∧ o.setComplete = false ∧
    s.holds 15 1 = true ∧ (s.placeFilter a 15).map Prod.fst = some 0 ∧ (a.block 15 0).bad s 7 = false ∧ (a.block 15 0).rsv = false ∧ o.bit (Reg.GIRTH_GROUP a.group) 0 = false := by
  decide +kernel

/-- A query with its own filter bitmap, for which there is no room, and for which there is. -/
theorem witness_search_filter : let s := { tOpen 1 0 tIdx with allocs := tFull 0 }
    let a := SearchAsk.ofBytes (tAsk 0xFFFFFFFF 1 0 64) (s.dim 15)
    a.supplied = true ∧ a.inputLen (s.dim 15) (s.slots 15) = (tAsk 0xFFFFFFFF 1 0 64).length ∧ s.placeFilter a 15 = none ∧
    nthPlace (bitmapBytes 1) 0 (tOpen 1 0 tIdx).memGaps ≠ none := by decide +kernel

/-- A walk that meets poison, and one that does not. -/
theorem witness_walk : let s := tOpen 1 0 tIdx
    let a := SearchAsk.ofBytes (tAsk 0xFFFFFFFF 0 0 0) (s.dim 15)
    ({ s with poison := [dramBase / 64] }.findLocal (a.block 15 0) 1 (bfVals a.query)).status = 4 ∧ (s.findLocal (a.block 15 0) 1 (bfVals a.query)).status ≠ 4 := by decide +kernel

/-- A serving job of partition 7 whose arguments begin DRAM, in `phase`. -/
def tServ (phase : JobPhase) : Job :=
  { tQueued with serving := true, phase := phase, argBase := dramBase, stepNo := 6 }

/-- A request of 64 tokens for at most `more` new ones, at 2 GiB of DRAM, in pool 15. -/
def tReq (more : Nat) : Request :=
  { n := ⟨0, 1, 2⟩, job := ⟨0, 1, 1⟩, tag := 9, variant := 0, mainPool := 15, draftPool := 255, promptLen := 64, maxNew := more, seed := 5, invTemp := 0, draftLen := 0, window := 1,
    floor := 0, flags := 0, retryAfter := 0, endToken := 0, tokens := dramBase + 0x80000000 }

/-- Pool 15, of `n` blocks of 4 KiB, and a serving job with these requests. -/
def tSrv (phase : JobPhase) (n : Nat) (rs : List Request) : State :=
  { tHost with jobs := [tServ phase], serving := { reqs := rs }
               regs := tHost.regs ++ [(Reg.SRV_POOL 15, BitVec.ofNat 64 (1 + 7 * 2 + 4096 + n * 2 ^ 24)), (Reg.SRV_POOL_BASE 15, 0x8040000000)] }

/-- That request as a block. -/
def tReqBytes (window : Nat) : List Byte :=
  leBytes 4 9 ++ leBytes 2 0 ++ leBytes 1 15 ++ leBytes 1 255 ++ leBytes 4 64 ++ leBytes 4 1 ++ leBytes 8 5 ++ leBytes 4 0 ++ leBytes 1 0 ++ leBytes 1 window ++ leBytes 1 0 ++
  leBytes 1 0 ++ leBytes 2 0 ++ leBytes 2 0 ++ leBytes 4 0 ++ leBytes 8 (dramBase + 0x80000000) ++ List.replicate 16 0

def tK : NHdr := ⟨0, 1, 3⟩

theorem witness_submit : let s := tSrv .waiting 1 []
    s.Accepts tK (.submitRequest tK 5 ⟨1, 1⟩ (tReqBytes 1)) ∧ s.job? ⟨tK.ctrl, 1, 1⟩ = some (tServ .waiting) ∧ (tServ .waiting).serving = true ∧
    (let q := Request.ofBlock tK (tServ .waiting) (tReqBytes 1)
     s.reqBad (tServ .waiting) q (tReqBytes 1) = false ∧ blocksFor q.promptLen = s.poolBlocks q.mainPool ∧
     (tSrv .waiting 0 []).poolBlocks q.mainPool < blocksFor q.promptLen) ∧
    s.reqBad (tServ .waiting) (Request.ofBlock tK (tServ .waiting) (tReqBytes 0)) (tReqBytes 0) = true ∧ s.job? ⟨0, 1, 2⟩ = none ∧ tRunJob.serving = false :=
  ⟨accepts_of_takes (by decide +kernel), by decide +kernel, by decide, by decide +kernel, by decide +kernel, by decide, by decide⟩

theorem witness_request_admit : let s := tSrv .waiting 1 [tReq 1]
    s.alive = true ∧ s.servingJobs 7 = [⟨0, 1, 1⟩] ∧ (s.reqsOf ⟨0, 1, 1⟩).find? (fun r => !r.admitted) = some (tReq 1) ∧
    (let u := s.lookupPrefix (tReq 1)
     u.2.canAlloc 15 (blocksFor 64 - u.1.mblks.length) = true) ∧ 1 ≤ (tReq 1).promptLen ∧
    (let s := tSrv .waiting 0 [tReq 1]
     let u := s.lookupPrefix (tReq 1)
     u.2.canAlloc 15 (blocksFor 64 - u.1.mblks.length) = false) := by decide +kernel

/-- A request that waits, an admitted one whose job runs a step, one whose job's batch has stalled, one told to stop already, and one that does not exist. -/
theorem witness_pause : let s := tSrv .running 1 [{ tReq 1 with admitted := true }]
    s.Accepts tK (.pauseRequest tK 5 ⟨1, 2⟩) ∧ s.serving.reqs.find? (fun r => r.n == ⟨0, 1, 2⟩) = some { tReq 1 with admitted := true } ∧ (tReq 1).admitted = false ∧
    s.job? (tReq 1).job = some (tServ .running) ∧ (tServ .running).stalled = false ∧
    ({ s with jobs := [{ tServ .needEntry with stalled := true }] } : State).job? (tReq 1).job = some { tServ .needEntry with stalled := true } ∧ (tReq 1).stop = 0 ∧
    { tReq 1 with stop := 1 }.stop ≠ 0 ∧ (tSrv .running 1 []).serving.reqs = [] :=
  ⟨accepts_of_takes (by decide +kernel), by decide, by decide, by decide, by decide, by decide, by decide, by decide, by decide⟩

/-- A batch of one, none whose blocks can be had, and a job with no request. -/
theorem witness_serving_entry : let r := { tReq 1 with admitted := true }
    let s := tSrv .needEntry 1 [r]
    s.alive = true ∧ s.servingJobs 7 = [⟨0, 1, 1⟩] ∧ s.job? ⟨0, 1, 1⟩ = some (tServ .needEntry) ∧ (tServ .needEntry).stalled = false ∧ ((s.reqsOf ⟨0, 1, 1⟩).filter (fun r => r.admitted)).take 1024 = [r] ∧
    ((s.joinStep r).reqsOf ⟨0, 1, 1⟩).filter (fun r => r.inStep) ≠ [] ∧
    (((tSrv .needEntry 0 [r]).joinStep r).reqsOf ⟨0, 1, 1⟩).filter (fun r => r.inStep) = [] := by decide +kernel

/-- A step's one request, its report entry in DRAM: it emits its last token; it emits one of two; the report is wrong. -/
def tEnd (more tag : Nat) : State :=
  let s := tSrv .ended 2 [{ tReq more with admitted := true, mblks := [0], p := 64, mode := 1, inStep := true }]
  { s with mem := memPut [] (dramBase + reportAt 0) (leBytes 4 tag ++ leBytes 2 1) }

theorem witness_serving_end : let r (more : Nat) := { tReq more with admitted := true, mblks := [0], p := 64, mode := 1, inStep := true }
    (tEnd 1 9).servingJobs 7 = [⟨0, 1, 1⟩] ∧ (tEnd 1 9).job? ⟨0, 1, 1⟩ = some (tServ .ended) ∧ (tServ .ended).phase = .ended ∧
    ((tEnd 1 9).serving.reqs.map Request.n).Nodup ∧ ((tEnd 1 9).reqsOf ⟨0, 1, 1⟩).all (fun r => r.stop == 0) = true ∧ (r 1).seat = 0 ∧ ((tEnd 1 9).reqsOf ⟨0, 1, 1⟩).filter (fun r => r.inStep) = [r 1] ∧ (r 1).mode = 1 ∧
    (let e := Report.ofBytes ((tEnd 1 9).dramRead (dramBase + reportAt 0) 16)
     e.ok (r 1) = true ∧ (r 1).maxNew ≤ (r 1).emitted + 1 ∧ ¬ (e.fin % 2 = 1 ∨ (r 2).maxNew ≤ (r 2).emitted + 1)) ∧
    (Report.ofBytes ((tEnd 1 8).dramRead (dramBase + reportAt 0) 16)).ok (r 1) = false ∧ (tEnd 1 9).alive = true := by decide +kernel

/-- An overlay record of rank 0, or with a format that there is none of. -/
def tOverlay (fmt : Nat) : List Byte := leBytes 2 0 ++ leBytes 1 fmt ++ List.replicate 8189 0

/-- Partition 7 has one variant of one layer. -/
def tOvl (rs : List Request) : State :=
  { tSrv .running 1 rs with regs := tHost.regs ++ [(Reg.SRV_OVL 7, BitVec.ofNat 64 (1 + 2 + 2048)), (Reg.SRV_OVL_BASE 7, 0x8040000000)] }

theorem witness_overlay : let s := tOvl []
    s.Accepts tK (.setOverlay tK 5 7 1 0 (tOverlay 0) false) ∧ (s.ns? 5).map Nspace.kind = some 5 ∧ s.namedPart tK 7 = 7 ∧ (tOverlay 0).length = 8192 ∧
    s.bit (Reg.SRV_OVL 7) 0 = true ∧ 1 = s.fld (Reg.SRV_OVL 7) 1 10 ∧ 0 + 1 = s.fld (Reg.SRV_OVL 7) 11 8 ∧ overlayBad (tOverlay 0) = false ∧ overlayBad (tOverlay 2) = true ∧
    s.serving.reqs = [] ∧ (tOvl [{ tReq 1 with variant := 1 }]).serving.reqs.any (fun r => r.variant == 1 && ((tOvl [{ tReq 1 with variant := 1 }]).job? r.job).any (fun j => j.part == 7)) = true :=
  ⟨accepts_of_takes (by decide +kernel), by decide +kernel, by decide, by decide +kernel, by decide +kernel, by decide +kernel, by decide +kernel, by decide +kernel,
    by decide +kernel, by decide, by decide⟩

/-- Frame ring 7 of partition 7, with 2 slots of 4 KiB, bound to job 1, which does step 0; its frame is the oldest of the job's while it runs. -/
def tFrm (phase : JobPhase) (pend : List Frame) (run : Option Frame) : State :=
  { tHost with jobs := [{ tServ phase with serving := false, rings := 128, frames := if run.isSome then [7] else [] }]
               serving := { frames := [(7, { job := some ⟨0, 1, 1⟩, pend := pend, run := run, bound := 9 })] }
               regs := tHost.regs ++ [(Reg.FRM_CTL 7, 0x102F), (Reg.FRM_BASE 7, 0x8040000000)] }

def tFrame (k : Nat) : Frame := { n := ⟨0, 1, 2⟩, slot := k, frame := 5 }

theorem witness_frame_start : let s := tFrm .needEntry [] (some (tFrame 0))
    s.Accepts tK (.frameStart tK 5 7 1 6 false) ∧ (s.ns? 5).map Nspace.kind = some 5 ∧ s.bit (Reg.FRM_CTL 7) 0 = true ∧ (s.fring 7).job = some ⟨0, 1, 1⟩ ∧ (s.fring 7).pend.length < 16 ∧
    1 + 1 = s.fld (Reg.FRM_CTL 7) 4 8 ∧ s.fld (Reg.FRM_CTL 7) 4 8 ≤ 2 ∧ (s.fring 7).run = some (tFrame 0) ∧ (tFrame 0).slot = 0 ∧ (tFrame 0).slot ≠ 1 ∧
    16 ≤ (List.replicate 16 (tFrame 1)).length :=
  ⟨accepts_of_takes (by decide +kernel), by decide +kernel, by decide +kernel, by decide, by decide, by decide +kernel, by decide +kernel, by decide, by decide, by decide, by decide⟩

theorem witness_frame_accept : let s := tFrm .needEntry [tFrame 1] none
    s.alive = true ∧ (s.fring 7).run = none ∧ (s.fring 7).pend = tFrame 1 :: [] ∧ ((s.fring 7).job.bind s.job?).map (fun j => (j.phase, j.frames)) = some (.needEntry, []) ∧ s.bit (Reg.FRM_CTL 7) 0 = true ∧
    (((tFrm .running [tFrame 1] none).fring 7).job.bind (tFrm .running [tFrame 1] none).job?).map Job.phase = some .running ∧
    (((tFrm .dying [tFrame 1] none).fring 7).job.bind (tFrm .dying [tFrame 1] none).job?).map Job.phase = some .dying ∧
    ({ s with regs := tHost.regs } : State).bit (Reg.FRM_CTL 7) 0 = false := by decide +kernel

theorem witness_frame_complete : let s := tFrm .ended [] (some (tFrame 1))
    s.alive = true ∧ (s.fring 7).run = some (tFrame 1) ∧ ((s.fring 7).job.bind s.job?).map (fun j => (j.phase, j.frames, j.rings.testBit 7)) = some (.ended, [7], true) ∧
    s.bit (Reg.FRM_CTL 7) 0 = true ∧ (s.fring 7).bound ≠ 0 ∧ (s.fring 7).bound < 10 := by decide +kernel

/-! ### Firmware and security -/

/-- The least firmware package in form, for key slot 3: one page signed, its four components empty. -/
def tPkgBytes : List Host.Cell :=
  [(0, 4, 0x50464E53), (4, 2, 1), (6, 2, 128), (8, 1, 3), (10, 2, 4), (12, 4, 4096), (2656, 4, 1), (2688, 4, 2), (2720, 4, 3), (2752, 4, 4)].foldl
    (fun m (f : Nat × Nat × Nat) => memPut m f.1 (leBytes f.2.1 f.2.2)) []

/-- It has been downloaded, and the module trusts its key. -/
def tFw (dl : List Host.Cell) : State :=
  let g := { tHost.guard with dl := dl, dlLen := 4096 + 4627 }
  let k := ((memBytes dl 0 8723).drop 64).take 2592
  { tHost with guard := g, fuse := { tHost.fuse with keyHash := [[], [], [], sha3_512 k], svn := 128 } }

theorem pkg_form : (tFw tPkgBytes).dlPkg.formOk = true ∧ (tFw tPkgBytes).dlPkg.u 8 1 = 3 ∧ (tFw tPkgBytes).dlPkg.u 6 2 = 128 := by decide +kernel

/-- The package is valid if its signature is. -/
theorem witness_package_valid (h : mldsaVerify (((tFw tPkgBytes).dlPkg.bytes.drop 64).take 2592) ((tFw tPkgBytes).dlPkg.bytes.take 4096) ((tFw tPkgBytes).dlPkg.bytes.drop 4096) = true) :
    (tFw tPkgBytes).pkgValid (tFw tPkgBytes).dlPkg = true := by
  have hs : (tFw tPkgBytes).dlPkg.signed = 4096 := by decide +kernel
  have hk : (tFw tPkgBytes).fuse.keyHash[3]? = some (sha3_512 (((tFw tPkgBytes).dlPkg.bytes.drop 64).take 2592)) := by simp only [tFw, State.dlPkg]; rfl
  have hv : (tFw tPkgBytes).fuse.svn = 128 := rfl
  have hr : (tFw tPkgBytes).fuse.revoked.getLsbD 3 = false := rfl
  simp only [State.pkgValid, pkg_form, hs, hk, hv, hr, h]
  simp

theorem witness_firmware : (tFw []).Accepts tA (.firmwareCommit tA 2 3) ∧ (tFw []).Accepts tA (.firmwareCommit tA 3 0) ∧ (tFw []).pkgValid (tFw []).dlPkg = false ∧
    tHost.Accepts tA (.firmwareImageDownload tA 0 [1]) ∧ (2 : BitVec 3).toNat ≤ 2 ∧ 2 < (3 : BitVec 3).toNat ∧ 3 < (4 : BitVec 3).toNat :=
  ⟨accepts_of_takes (by decide +kernel), accepts_of_takes (by decide +kernel), by decide +kernel, accepts_of_takes (by decide), by decide, by decide, by decide⟩

/-- The guard's firmware runs, and both ports answer; what the transports have agreed. -/
def tSpdm (v : SpdmConn) : State :=
  { tHost with regs := tHost.regs ++ [(Reg.GUARD_BOOT, 6)], guard := { tHost.guard with conns := [(0, v), (1, v), (2, v), (3, v), (4, v), (5, v)] } }

def tTransports : List Transport := [.doe 0, .doe 1, .mctpPcie, .mctpSmbus]

theorem witness_spdm : ∀ t ∈ tTransports, ∀ v ∈ [({} : SpdmConn), { version := true }, { version := true, caps := true }, { version := true, caps := true, algs := true },
      { version := true, caps := true, chunks := [0], nextChunk := 65535 }, { large := [0], nextGet := 65535 }],
    (tSpdm v).spdmUp t = true ∧ (tSpdm v).conn t = v := by decide +kernel

theorem witness_spdm_operands : 0 < tHost.chain.length ∧ tHost.measBlocks 0 ≠ none ∧ tHost.measBlocks 0xFF ≠ none ∧ tHost.measBlocks 0xFE = none ∧
    (List.replicate 65535 (0 : Byte)).length + [(0 : Byte)].length ≤ 65536 ∧ 65536 < (List.replicate 65535 (0 : Byte)).length + [(0 : Byte), 0].length ∧
    (List.replicate 32 (0 : Byte)).length = 32 :=
  ⟨by simp [State.chain, leBytes], by decide, by decide, by decide, by rw [List.length_replicate]; decide, by rw [List.length_replicate]; decide, by decide⟩

/-- An answer waits for port 0; it takes six bytes. -/
theorem witness_security : let s := { tSpdm {} with guard := { (tSpdm {}).guard with pendResp := [(0, .version 0x13)] } }
    s.Accepts tA (.securitySend tA 0xE8 1 .getVersion) ∧ s.Accepts tA (.securityReceive tA 0xE8 1 6) ∧ s.Accepts tA (.securityReceive tA 0 0 10) ∧
    s.guard.pendResp.find? (fun e => e.1 == portOf (nctrl tA)) = some (0, .version 0x13) ∧ (SpdmResp.version 0x13).size = 6 ∧ physCtrl (nctrl tA) = true ∧
    s.spdmUp (.nvme (BitVec.ofNat 1 (portOf (nctrl tA)))) = true ∧ physCtrl 64 = false ∧ tHost.guard.pendResp = [] ∧ (1 : BitVec 16) ≠ 0 :=
  ⟨accepts_of_takes (by decide +kernel), accepts_of_takes (by decide +kernel), accepts_of_takes (by decide +kernel), by decide, by decide, by decide, by decide +kernel, by decide,
    by decide, by decide⟩

/-! ### Girth and harness -/

/-- Binding 3 joins partitions 6 and 7 of this module, with ring 7 of two slots of one line, the last two of core 31's SRAM. -/
def tHarn (r : Ring) : State :=
  { tUp with harness := { rings := [(31, r)] }
             regs := [(Reg.HARN_BIND 3, BitVec.ofNat 64 (1 + 6 * 2 + 7 * 16)),
                      (Reg.HARN_RING 3 7, BitVec.ofNat 64 (1 + 2 + 30 * 8 + 31 * 2 ^ 8 + 2 * 2 ^ 13 + 2 ^ 20 + (sramSize - 128) * 2 ^ 27))] ++ tUp.regs }

def tBytes : List Byte := List.replicate 64 7

theorem witness_harness_ring : let r : Ring := { lane := [[(tBytes, true)]], arrived := 1, freed := 1 }
    let s := tHarn r
    s.Still ∧ s.alive = true ∧ s.ring 3 7 = r ∧ s.ringOn 3 7 = true ∧ s.bindRemote 3 = false ∧ s.bindBroken 3 = false ∧ s.ringDst 3 7 = 31 ∧ 31 < s.coreCount ∧
    (s.core 31).MergeOk ∧ (s.core 31).flipPend = [] ∧ (s.core 31).busy = [] ∧ (s.core (s.ringSrc 3 7)).busy = [] ∧ s.slotAt 3 7 1 + 64 * 1 = sramSize ∧ s.slotAt 3 7 1 % 64 = 0 ∧ tBytes.length = 64 ∧
    (tHarn {}).ring 3 7 = {} ∧ tUp.ringOn 3 7 = false :=
  ⟨still_quiet _ (by decide) (by decide), by decide, by decide, by decide, by decide, by decide, by decide, by decide, by unfold Core.MergeOk; decide, by decide, by decide, by decide, by decide,
    by decide, by decide, by decide, by decide⟩

/-- Module 0 of a set of two along X: ports 0 and 1 are up with link 5 of each, and slot 15 reduces group 255, both members', in a window of `win`. -/
def tSet (drop : Bool) (win : Nat) : State :=
  { tUp with regs := [(Reg.GIRTH_SET, BitVec.ofNat 64 (1 + 2 * 2 + 2 ^ 8 + 2 ^ 15)),
                      (Reg.GIRTH_PORT_STATUS 0, 3), (Reg.GIRTH_PORT_STATUS 1, 3), (Reg.GIRTH_LINK_STATUS 0 5, 2), (Reg.GIRTH_LINK_STATUS 1 5, 2),
                      (Reg.GIRTH_GROUP 254, 0x204080003), (Reg.GIRTH_GROUP 255, BitVec.ofNat 64 (1 + 2 * 2 ^ 19 + 2 ^ 26 + 2 ^ 33)),
                      (Reg.HARN_REDUCE 15, BitVec.ofNat 64 (1 + 255 * 2 + (if drop then 2 ^ 9 else 0) + win * 2 ^ 10))] ++ tUp.regs }

/-- An instance of member 0's bucket. -/
def tInst (got : NatSet) (closed : Bool) : RInst := ⟨15, 255, 1, 0, 9, 2, got, [(tBytes, false)], closed⟩

theorem witness_reduce : (tSet false 1).alive = true ∧ (tSet false 1).bit (Reg.HARN_REDUCE 15) 0 = true ∧ (tSet false 1).fld (Reg.HARN_REDUCE 15) 1 8 = 255 ∧
    (tSet false 1).groupIndex 255 = some 0 ∧ (tSet false 1).groupMembers 255 = [0, 1] ∧ (tSet false 1).rinst? 15 0 9 = none ∧ (tSet false 1).harness.late = [] ∧
    (tSet false 1).harness.lateDrop = [] := by decide

theorem witness_reduce_instance : let s (got : NatSet) := { tSet true 1 with harness := { insts := [tInst got false] } }
    (s [1]).rinst? 15 0 9 = some (tInst [1] false) ∧ (tInst [1] false).closed = false ∧ setHas (tInst [1] false).got 0 = false ∧ setHas (tInst [1] false).got 1 = true ∧
    ((s [1]).groupMembers 255).length = 2 ∧ 2 ≤ (tInst [0, 1] false).got.length ∧ (tInst [1] false).got.length < 2 ∧ (s [1]).fld (Reg.HARN_REDUCE 15) 10 32 ≠ 0 ∧ (tSet true 0).fld (Reg.HARN_REDUCE 15) 10 32 = 0 ∧
    (tInst [1] false).op ≠ 0 ∧ (s [1]).coll? 255 9 = none ∧ (s [1]).harness.carries = [] := by decide

theorem witness_reduce_late : let s := { tSet false 1 with harness := { late := [(15, 0, 9, 1)] } }
    s.harness.late.contains (15, 0, 9, 1) = true ∧ (s.carryLines + 131072) * 64 = 0x800000 ∧ 0x800000 < (s.carryLines + 131073) * 64 ∧
    ({ late := [(15, 0, 9, 0)], lateDrop := [(15, 0, 9, 1)] } : Harness).lateDrop.contains (15, 0, 9, 1) = true := by decide

/-- A flit of this type from module 1 to `dst` that port 0 expects next, its crc good. -/
def tFlit (typ : BitVec 8) (dst : BitVec 11) (addr : BitVec 48) : Flit :=
  Flit.seal { typ := typ, part := 7, dst := dst, src := 1, tag := 3, total := 1, addr := addr, last := true, payload := [tBytes] }

/-- What `State.Lands` asks for. -/
def lands (s : State) (g l : Nat) (f : Flit) : Bool :=
  s.alive && s.hasPort g && s.linkState g l == 2 && f.crcOk && !f.killed && f.lseq == (s.link g l).rxSeq && !f.nak

theorem lands_of {s : State} {g l : Nat} {f : Flit} (h : lands s g l f = true) : s.Lands g l f := by
  simp only [lands, Bool.and_eq_true, beq_iff_eq, Bool.not_eq_true'] at h
  obtain ⟨⟨⟨⟨⟨⟨h1, h2⟩, h3⟩, h4⟩, h5⟩, h6⟩, h7⟩ := h
  exact ⟨h1, h2, h3, h4, h5, h6, h7⟩

def tK0 : LinkId := ⟨0, 5⟩

/-- Each type of flit lands; ends here; goes on; fails its crc, has it inverted, or is out of sequence. -/
theorem witness_lands : ∀ n ∈ [(0 : BitVec 8), 1, 2, 3, 4, 5, 6, 7], (tSet false 1).Lands 0 5 { tFlit n 0 0x8000000000 with typ := n } ∧
    (tSet false 1).Lands 0 5 { tFlit n 1 0 with typ := n } := fun n h =>
  ⟨lands_of ((by decide +kernel : ∀ n ∈ [(0 : BitVec 8), 1, 2, 3, 4, 5, 6, 7], lands (tSet false 1) 0 5 { tFlit n 0 0x8000000000 with typ := n } = true) n h),
   lands_of ((by decide +kernel : ∀ n ∈ [(0 : BitVec 8), 1, 2, 3, 4, 5, 6, 7], lands (tSet false 1) 0 5 { tFlit n 1 0 with typ := n } = true) n h)⟩

theorem witness_flit_ways : (tSet false 1).Still ∧ (∀ n ∈ [(1 : BitVec 8), 2, 3, 4, 5, 6], (tSet false 1).endsHere 0 { tFlit n 0 0 with typ := n } = true ∧
      (tSet false 1).goesOn 0 { tFlit n 1 0 with typ := n } = true) ∧
    (let s := { tSet false 1 with regs := (Reg.GIRTH_PORT_STATUS 0, 2) :: (tSet false 1).regs }
     s.goesOn 0 (tFlit 1 0 0) = false ∧ s.endsHere 0 (tFlit 1 0 0) = false) ∧
    sget [] (tSet false 1).girth.outq 0 = [] ∧ (tSet false 1).inSet = true ∧ hop (tSet false 1).dims (tSet false 1).me 1 ≠ none ∧ (tSet false 1).hub.pend = 0 ∧
    tUp.linkState 0 5 ≠ 2 := ⟨still_quiet _ (by decide) (by decide), by decide +kernel⟩

theorem witness_flit_faults : ∀ n ∈ [(0 : BitVec 8), 1, 2, 3, 4, 5, 6], let f := tFlit n 0 0
    Flit.crcOk { f with crc := f.crc + 1, typ := n } = false ∧ Flit.killed { f with crc := f.crc + 1, typ := n } = false ∧ Flit.killed { f with crc := ~~~f.crc, typ := n } = true ∧
    (let h := Flit.seal { f with lseq := 4095 }
     Flit.crcOk { h with typ := n } = true ∧ Flit.killed { h with typ := n } = false ∧ h.lseq ≠ ((tSet false 1).link 0 5).rxSeq) := by decide +kernel

/-- It ends here, at the first line of DRAM. -/
theorem witness_ejects : let s := tSet false 1
    let f := tFlit 1 0 0x8000000000
    s.Ejects 0 f ∧ f.payload = [tBytes] ∧ tBytes.length = 64 ∧ f.addr.toNat / 64 * 64 = 0x8000000000 ∧ s.tier 0x8000000000 = .dram ∧ s.progMem 7 0x8000000000 64 = true ∧
    s.readOnly 0x8000000000 64 = false ∧ s.isQuery f = false ∧ s.girth.rx = [] ∧ hop s.dims s.me f.src.toNat ≠ none ∧ f.total = 1 ∧
    s.remoteOk 7 0 = false := by unfold State.Ejects; decide +kernel

/-- A PUT of more lines than one flit carries, which is no query wherever the queries lie: it would have to lie at both ends of a megabyte. -/
theorem witness_put_more : ∃ a ∈ [(0x8000000000 : BitVec 48), 0x8000100000], (tSet false 1).isQuery { tFlit 1 0 a with total := 4 } = false ∧
    (tFlit 1 0 a).payload.length < (4 : BitVec 32).toNat := by
  let q := (Config.queryAddr (tSet false 1).me).toNat / 64 * 64
  have e : ∀ a : BitVec 48, (tSet false 1).isQuery { tFlit 1 0 a with total := 4 } = (true && decide (q ≤ a.toNat) && decide (a.toNat < q + 64 * 4)) := fun _ => rfl
  by_cases h : q ≤ (0x8000000000 : BitVec 48).toNat ∧ (0x8000000000 : BitVec 48).toNat < q + 64 * 4
  · refine ⟨0x8000100000, by decide, ?_, by decide⟩
    rw [e]
    have h2 : ¬ (0x8000100000 : BitVec 48).toNat < q + 64 * 4 := by
      have := h.1
      simp at this ⊢
      omega
    rw [decide_eq_false h2, Bool.and_false]
  · refine ⟨0x8000000000, by decide, ?_, by decide⟩
    rw [e]
    simpa using h

/-- A transaction of core 31 whose one line lands in the last of its SRAM, or is a line put. -/
def tTxn (get : Bool) : Txn := ⟨3, 31, get, 1, sramSize - 64, 0x8000000000, 1, []⟩

theorem witness_answers : let s (get : Bool) := { tSet false 1 with girth := { txns := [tTxn get] } }
    (s true).txn? 3 = some (tTxn true) ∧ (s false).txn? 3 = some (tTxn false) ∧ (tTxn true).peer = (tFlit 3 0 0x8000000000).src.toNat ∧ (tTxn true).loc + 64 = sramSize ∧
    ((s true).core 31).MergeOk ∧ ((s true).core 31).flipPend = [] ∧ (s true).touchesWindow 31 (sramSize - 64) 64 = false ∧ (s true).Still ∧
    (s true).Lands 0 5 { tFlit 3 0 0x8000000000 with typ := 3 } ∧ (s false).Lands 0 5 { tFlit 4 0 0x8000000000 with typ := 4 } ∧
    (tTxn true).remote = (tFlit 3 0 0x8000000000).addr.toNat ∧ (tFlit 3 0 0x8000000000).error = false ∧
    (s true).Lands 0 5 { Flit.seal { tFlit 3 0 0 with error := true } with typ := 3 } ∧ (s false).Lands 0 5 { Flit.seal { tFlit 4 0 0 with error := true } with typ := 4 } ∧
    (tSet false 1).txn? 3 = none :=
  ⟨by decide, by decide, by decide, by decide, by unfold Core.MergeOk; decide, by decide, by decide, still_quiet _ (by decide) (by decide), lands_of (by decide +kernel),
    lands_of (by decide +kernel), by decide, by decide, lands_of (by decide +kernel), lands_of (by decide +kernel), by decide⟩

/-- Binding 3 is remote: its ring 7 receives here from module 1. -/
def tRemote : State :=
  { tSet false 1 with
      regs := [(Reg.HARN_BIND 3, BitVec.ofNat 64 (1 + 6 * 2 + 7 * 16 + 2 ^ 7 + 2 ^ 8 + 2 ^ 9)),
               (Reg.HARN_RING 3 7, BitVec.ofNat 64 (1 + 2 + 31 * 2 ^ 8 + 2 * 2 ^ 13 + 2 ^ 20 + (sramSize - 128) * 2 ^ 27))] ++ (tSet false 1).regs }

theorem witness_harn_flit : let f := tFlit 6 0 (BitVec.ofNat 48 (sramBase 31 + sramSize - 128))
    tRemote.Still ∧ tRemote.Lands 0 5 { f with typ := 6 } ∧ tRemote.Ejects 0 f ∧ tRemote.harnRing f = some (3, 7) ∧ tRemote.ringLines 3 7 = 1 ∧ tRemote.ringDst 3 7 = 31 ∧ f.addr.toNat = sramBase 31 + tRemote.slotAt 3 7 0 ∧
    (tRemote.core 31).MergeOk ∧ (tRemote.core 31).busy = [] ∧ tRemote.slotAt 3 7 0 % 64 = 0 ∧ (tRemote.ring 3 7) = {} ∧ (tSet false 1).harnRing f = none ∧
    (tRemote.core 31).flipPend = [] ∧ (tRemote.ring 3 7).part = 0 :=
  ⟨still_quiet _ (by decide) (by decide), lands_of (by decide +kernel), by unfold State.Ejects; decide, by decide, by decide, by decide, by decide,
    by unfold Core.MergeOk; decide, by decide, by decide, by decide, by decide, by decide, by decide⟩

/-- The credits of a remote ring: on the module that receives, and on the one that sends. -/
theorem witness_remote_credits : let r : Ring := { lane := [[]], freed := 1 }
    let s (side : Nat) := { tRemote with regs := (Reg.HARN_BIND 3, BitVec.ofNat 64 (1 + 6 * 2 + 7 * 16 + 2 ^ 7 + side * 2 ^ 8 + 2 ^ 9)) :: tRemote.regs, harness := { rings := [(31, r)] } }
    (s 1).Still ∧ (s 1).alive = true ∧ (s 1).ringOn 3 7 = true ∧ (s 1).bindRemote 3 = true ∧ (s 1).bindBroken 3 = false ∧ (s 1).ringSender 3 7 = none ∧ (s 1).ring 3 7 = r ∧
    tRemote.ring 3 7 = {} ∧ (s 0).ringSender 3 7 ≠ none ∧ ((s 0).core ((s 0).ringSrc 3 7)).busy = [] ∧ (s 0).bindBroken 3 = false :=
  ⟨still_quiet _ (by decide) (by decide), by decide⟩

/-- A contribution of module 1 to module 0's bucket, the first line of two. -/
theorem witness_coll_flit : let s := tSet false 1
    let f := Flit.seal { tFlit 5 0 0 with group := 255, inst := 9, total := 2 }
    lands s 0 5 { f with typ := 5 } = true ∧ s.harness.late = [] ∧ s.harness.lateDrop = [] ∧ s.instIndex 254 9 = none ∧ s.groupIndex f.group.toNat = some 0 ∧ (s.groupMembers f.group.toNat).findIdx? (· == f.src.toNat) = some 1 ∧ f.op = 0 ∧
    (∃ j < 16, s.bit (Reg.HARN_REDUCE j) 0 = true ∧ s.fld (Reg.HARN_REDUCE j) 1 8 = f.group.toNat) ∧ s.girth.part = [] ∧ bucketOfLine 2 2 0 = 0 ∧ bucketLo 2 2 0 = 0 ∧
    bucketLen 2 2 0 = 1 ∧ s.coll? 255 9 = none ∧ s.rinst? (s.slotOf 255) 0 9 = none := by decide +kernel

theorem witness_links : let s (n : Nat) := { tSet false 1 with girth := { links := [(5, { replay := [{ f := { tFlit 1 1 0 with lseq := 4095 } }], txSeq := 0, fails := n })] } }
    (s 0).ctrlCan 0 5 = true ∧ ((s 0).link 0 5).replay ≠ [] ∧ ackedCount ((s 0).link 0 5) 4094 = 0 ∧ ackedCount ((s 0).link 0 5) 4095 = 1 ∧
    0 < (s 0).fld (Reg.GIRTH_LINK_CTL 0 5) 0 4 ∧ (s 15).fld (Reg.GIRTH_LINK_CTL 0 5) 0 4 ≤ 15 ∧ sget [] (s 0).girth.outq 0 = [] ∧ tUp.ctrlCan 0 5 = false := by decide

theorem witness_link_retrain : let s (n : Nat) := { tSet false 1 with regs := (Reg.GIRTH_LINK_STATUS 0 5, 1) :: (tSet false 1).regs, girth := { links := [(5, { retrainFails := n })] } }
    (s 0).linkHere 0 5 = true ∧ (s 0).linkState 0 5 = 1 ∧ ((s 1).link 0 5).retrainFails + 1 < 3 ∧ 3 ≤ ((s 2).link 0 5).retrainFails + 1 ∧ (s 0).Still ∧
    (tSet false 1).linkState 0 4 ≠ 2 ∧ (4 : BitVec 3).toNat < 6 :=
  ⟨by decide, by decide, by decide, by decide, still_quiet _ (by decide) (by decide), by decide, by decide⟩

/-- What module 1 shows at port 0, and each reason to isolate it. -/
def tPeer : PeerId := { chainOk := true, sigOk := true, setId := 0, dx := 2, dy := 1, dz := 1, x := 1, y := 0, z := 0 }

theorem witness_ports : let s := { tSet false 1 with regs := (Reg.GIRTH_PORT_STATUS 0, 2) :: (tSet false 1).regs }
    s.alive = true ∧ s.hasPort 0 = true ∧ s.portState 0 = 2 ∧ s.Still ∧ s.isolation 0 tPeer = 0 ∧ s.isolation 0 { tPeer with chainOk := false } = 1 ∧ s.isolation 0 { tPeer with sigOk := false } = 2 ∧
    s.isolation 0 { tPeer with setId := 1 } = 3 ∧ s.isolation 0 { tPeer with x := 0 } = 4 ∧ s.isolation 0 { tPeer with portPresent := false } = 5 ∧
    (s.fld (Reg.GIRTH_PORT_CTL 0) 0 6).testBit 5 = true ∧ (63 : BitVec 6).getLsbD 5 = true :=
  ⟨by decide, by decide, by decide, still_quiet _ (by decide) (by decide), by decide, by decide, by decide, by decide, by decide, by decide, by decide, by decide⟩

theorem witness_reauth : tUp.PlainReg (Reg.GIRTH_PORT_CTL 5) 0x13F ∧ (regInfo (Reg.GIRTH_PORT_CTL 5)).map (fun i => i.reserved 0x13F) = some false ∧ tUp.alive = true ∧
    (5 : BitVec 3).toNat < 6 := by
  refine ⟨⟨by decide, by decide, by decide, by decide, by decide, by decide, by decide, by decide, by decide, ?_⟩, by decide, by decide, by decide⟩
  intro c n _ _
  unfold Reg.DX_PSTREAM_BASE Reg.GIRTH_PORT_CTL coreWin
  omega

theorem witness_notice : (tSet false 1).ctrlCan 0 5 = true ∧ (tSet false 1).Still ∧ (1 : BitVec 11).toNat ≠ (tSet false 1).me ∧ (1, 0, 7) ∉ (tSet false 1).girth.notices :=
  ⟨by decide, still_quiet _ (by decide) (by decide), by decide, by decide⟩

/-! ### Media -/

/-- The last page of the last block of the media, or another page of it. -/
def tPpa (page : BitVec 12) : Ppa := ⟨63, 23, 3, 1271, page⟩

/-- That block as `b`. -/
def tMedia (b : Blk) : State := { tHost with media := { mounted := true, blks := [((tPpa 0).key, b)] } }

def tQlc : Blk := { use := .open_, next := 3071, valid := 2900, parity := 171 }

theorem witness_none_wait (b : Blk) : (tMedia b).NoneWait := ⟨still_quiet _ (by intro e h; cases h) (by intro j h; cases h), rfl, rfl, rfl⟩

theorem witness_program : (tMedia tQlc).ppaHere (tPpa 3071) = true ∧ (tMedia tQlc).fblk (tPpa 3071).key = tQlc ∧ (tPpa 3071).page.toNat = tQlc.next ∧
    (tPpa 3071).page.toNat < modePages false ∧ (tMedia {}).fblk (tPpa 0).key = {} ∧ (tPpa 767).page.toNat < modePages true ∧ tUp.ppaHere ⟨0, 24, 0, 0, 0⟩ = false ∧
    (tMedia tQlc).progFits (tPpa 3071) false .parity = true ∧ (tMedia tQlc).progFits (tPpa 3070) false .parity = false ∧
    (tMedia tQlc).mayProgram 1535 [0] = true ∧ (tMedia tQlc).mayProgram 1535 [1535] = false ∧ sget 0 (tMedia tQlc).media.maps (ukey 1 0) = 0 := by decide

/-- A unit that a host wrote, one that the layer moves, a map page, the journal's tail, and the data of a media-direct zone, each on a page that it fits. -/
def tWait (b : Blk) : State :=
  let s := tMedia b
  { s with media := { s.media with fresh := [ukey 1 0], moved := [ukey 1 1], mapDirty := [ukey 1 0], journal := 1 } }

theorem witness_program_kinds : (∀ k ∈ [ProgKind.unit 1 0, .map 1 0, .journal], (tWait { use := .open_, slc := true, next := 766 }).progFits (tPpa 766) true k = true) ∧
    (tWait { tQlc with next := 3070 }).progFits (tPpa 3070) false (.unit 1 1) = true ∧
    (let s := { tMedia tQlc with nss := [(7, { kind := 2, zones := [(0, { st := .full, wp := 400000, sb := some 244223 })] })] }
     s.progFits (tPpa 3070) false .direct = true) := by decide

theorem witness_read_back : let s := tMedia { tQlc with next := 3072 }
    s.ppaHere (tPpa 3071) = true ∧ (tPpa 3071).page.toNat % 4 = 3 ∧ (tPpa 3071).page.toNat < (s.fblk (tPpa 3071).key).next ∧ s.directBlk (tPpa 3071).key = false ∧
    0 < s.fld Reg.MEDIA_REFRESH_CTL 8 8 ∧ (s.fblk (tPpa 3071).key).erasing = false ∧ (s.fblk (tPpa 3071).key).use ≠ .bad ∧ (s.fblk (tPpa 3071).key).slc = false ∧
    s.reinOpen 8 .media = true := by decide

theorem witness_erase : (tMedia { use := .erasing }).ppaHere (tPpa 0) = true ∧ ((tMedia { use := .erasing }).fblk (tPpa 0).key).use = .erasing ∧
    ((tMedia { use := .suspended }).fblk (tPpa 0).key).use = .suspended ∧ (tMedia {}).eraseHeld = false := by decide

theorem witness_read : let s := tMedia tQlc
    s.ppaHere (tPpa 0) = true ∧ (s.fblk (tPpa 0).key).erasing = false ∧ (s.fblk (tPpa 0).key).use ≠ .bad ∧ s.fld Reg.MEDIA_REFRESH_CTL 8 8 ≤ 255 ∧ 0 < s.fld Reg.MEDIA_REFRESH_CTL 8 8 ∧
    s.fld Reg.MEDIA_REFRESH_CTL 0 4 ≤ 15 ∧ s.bit Reg.MEDIA_RA_CTL 0 = true ∧ s.media.around = [] ∧ s.reinOpen 8 .media = true ∧
    Recovery.deep .failed = true ∧ (tMedia { use := .suspended }).fblk (tPpa 0).key ≠ {} := by decide

/-- Seven read-arounds of a group, and eight. -/
theorem witness_around : let q (n : Nat) := (List.range n).map (fun i => (⟨63, 23, 0, 0, BitVec.ofNat 12 i⟩ : Ppa).nat)
    ((q 7).filter (fun q => groupOf (q % 64) (q / 64 % 32) == groupOf 63 23)).length < 8 ∧ 8 ≤ ((q 8).filter (fun q => groupOf (q % 64) (q / 64 % 32) == groupOf 63 23)).length ∧
    setHas (q 7) (tPpa 0).nat = false := by decide

theorem witness_fold : let s := tMedia { use := .closed, slc := true, next := 768, valid := 8 }
    s.ppaHere (tPpa 0) = true ∧ (s.fblk (tPpa 0).key).slc = true ∧ (s.fblk (tPpa 0).key).erasing = false ∧ (s.fblk (tPpa 0).key).use ≠ .bad ∧ s.reinOpen 8 .media = true ∧ s.alive = true := by decide

/-- The last superblock is closed, each member with valid data, its first scheduled for refresh; the free blocks are few. -/
def tSuper : State :=
  { tHost with regs := [(Reg.MEDIA_FREE, 1)] ++ tUp.regs
               media := { mounted := true, refreshQ := [sbMember 244223 0]
                          blks := (List.range 32).map (fun m => (sbMember 244223 m, { use := .closed, next := 3072, valid := 9 })) } }

theorem witness_super : tSuper.alive = true ∧ tSuper.reinOpen 8 .media = true ∧ tSuper.freeBp < tSuper.fld Reg.MEDIA_GC_CTL 0 16 ∧ tSuper.victim = some 244223 ∧
    (tPpa 0).ok = true ∧ sbOf (tSuper.servesAs (tPpa 0).key) = 244223 ∧ (∃ m ∈ tSuper.sbBlks 244223, setHas tSuper.media.refreshQ m = true) ∧ (tMedia tQlc).victim = none ∧ tSuper.directBlk (tPpa 0).key = false := by
  decide +kernel

theorem witness_channel : let s (n : Nat) := { tHost with media := { chans := [(63, { fails := n })], mounted := true } }
    (s 1).alive = true ∧ ((s 1).chan 63).down = false ∧ ((s 1).chan 63).fails + 1 < 3 ∧ 3 ≤ ((s 2).chan 63).fails + 1 ∧ (1535 : BitVec 11).toNat < 1536 ∧ (tHost.die 1535).retired = false ∧
    14999 < 15000 ∧ tHost.media.buffered < min tHost.media.capNext 256 * 64 ∧ 1536 ≤ (1536 : BitVec 11).toNat := by decide

/-! ### Single steps whose results the spec gives -/

/-- The state a command answers. -/
def after (i : Instr) (s : State) : Option State :=
  match exec i s with
  | .next t => some t
  | _ => none

/-- The result of a counter instruction in counter 9; C1 is 3 and C2 is 2. -/
def ctrAfter (i : Instr) : Option Nat := (after i tRun).map (fun t => (sget 0 (t.core 0).ctr 9).toNat)

/-- R173: sums and differences wrap at 2^32, and a product keeps its low 32 bits. -/
theorem test_cadd_wraps : ctrAfter (.cadd tH 9 1 ⟨true, 0, 0xFFFFFFFF⟩) = some 2 := by decide +kernel

theorem test_csub_wraps : ctrAfter (.csub tH 9 2 ⟨false, 1, 0⟩) = some 0xFFFFFFFF := by decide +kernel

theorem test_cmul_low : ctrAfter (.cmul tH 9 1 ⟨true, 0, 0x80000001⟩) = some 0x80000003 := by decide +kernel

/-- R173: the quotient is rounded up; division by zero gives zero and records div_zero. -/
theorem test_cdiv_rounds_up : ctrAfter (.cdiv tH 9 1 ⟨false, 2, 0⟩) = some 2 := by decide +kernel

theorem test_cdiv_zero : (after (.cdiv tH 1 1 ⟨true, 0, 0⟩) tRun).map (fun t => (sget 0 (t.core 0).ctr 1, t.bit (Reg.SEQ_FAULT 0) 4)) = some (0, true) := by decide +kernel

/-- R44 and the example of chapter 0: at 900 W a share of 250 permille adds 5,625 µJ at a sample, and one of 100 adds 2,250. -/
theorem test_refill : (after (.powerSample { powerDw := 9000, junctionW := 800, junctionE := 800, junctionHub := 800, flashMax := 800 })
      { tUp with regs := [(Reg.PURSE_CTL 0, 250), (Reg.PURSE_CTL 1, 100)] }).map (fun t => (t.remaining 0, t.remaining 1)) = some (5625, 2250) := by decide +kernel

/-- The example after R48: carry_uj 20,000, share 100, 40 samples, 900 W. -/
theorem test_cover : { tUp with regs := [(Reg.PURSE_CTL 1, 100 + 20000 * 65536)] }.cover 1 = 107750 := by decide +kernel

/-- The example after R51: at the boundary the purse holds 51,500 µJ, keeps 20,000 and returns 31,500. -/
theorem test_return : (let t := { tUp with regs := [(Reg.PURSE_CTL 1, 100 + 20000 * 65536), (Reg.PURSE_LEVEL 1, 51500)] }.returnExcess 1
    (t.remaining 1, (t.reg (Reg.PURSE_RETURNED 1)).toNat)) = (20000, 31500) := by decide +kernel

/-- The example after R142: a 64 GiB pool. -/
theorem test_pool : (let t := { tUp with shadow := [(Reg.DRAM_POOL_CTL, 8)] }.poolPeriod
    (t.dramLimit, t.fld Reg.DRAM_POOL_CTL 16 48 * 65536)) = (0xE9FFFFFFFF, 0xEA00000000) := by decide +kernel

/-- The example after R280: 1.5 billion slots have bitmaps of 187,500,032 bytes, and an entry at dim 768 in BF16 takes 1,600. -/
theorem test_bitmap : bitmapBytes 1500000000 = 187500032 := by decide +kernel

/-- The example after R391: ALLRED of 1,003 lines over eight modules. -/
theorem test_buckets : (List.range 8).map (bucketLo 1003 8) = [0, 125, 250, 376, 501, 626, 752, 877] ∧
    (List.range 8).map (bucketLen 1003 8) = [125, 125, 126, 125, 125, 126, 125, 126] := by decide +kernel

/-- The canonical NaN, saturation in E4M3 and rounding to nearest even (R97). -/
theorem test_fp : fadd 0x3F800000 0x33800000 = 0x3F800000 ∧ fadd 0x3F800001 0x33800000 = 0x3F800002 ∧ fadd 0x7F800000 0xFF800000 = 0x7FC00000 ∧
    fmul 0x7F7FFFFF 0x40000000 = 0x7F800000 := by decide +kernel

/-- One fused rounding: (1 + 2^-23)(1 - 2^-23) - 1 is -2^-46 exactly. -/
theorem test_fma : ffma 0x3F800001 0x3F7FFFFE 0xBF800000 = 0xA8800000 := by decide +kernel

/-- exp2 and log2 at exact values, the reciprocal and the reciprocal square root. -/
theorem test_functions : fexp2 0x40400000 = 0x41000000 ∧ flog2 0x41000000 = 0x40400000 ∧ frcp 0x40400000 = 0x3EAAAAAB ∧ frsqrt 0x40800000 = 0x3F000000 := by decide +kernel

/-- The example after R430: array 2 of core 9 drains a tile whose residue does not match at sample 0x32C41. -/
def tResidue : State := ({ tUp with regs := [(Reg.PWR_SAMPLE, 0x32C410000)] }.coreFault 9 .mx 1 0 (2 * 256)).residueHits 9 1

theorem test_residue : tResidue.reg (Reg.MX_FAULT 9) = 2 ∧ tResidue.reg (Reg.MX_FAULT_CAP 9) = 0x000000032C410201 ∧ tResidue.readReg Reg.FAULT_SUM_CORE = 0x200 ∧
    tResidue.readReg (Reg.FAULT_CORE 9) = 4 ∧ tResidue.reg (Reg.FAULT_RESIDUE 9) = 1 ∧ tResidue.srcLevel 233 = true := by decide +kernel

/-- FAULT_FIRST holds the offset of MX_FAULT of core 9, 0x01920018. -/
theorem test_fault_first : tResidue.fld Reg.FAULT_FIRST 0 32 = 0x01920018 := by decide +kernel

/-- The example after R247, with two modules in place of eight: the window ends with one contribution of two, which fate carry counts. -/
theorem test_late_carry : (let s := { tSet false 1 with harness := { insts := [tInst [1] false] } }
    (after (.lateWindowExpiry 15 0 9) s).map (fun t => ((t.reg (Reg.HARN_CONTRIB_EXP 15)).toNat, (t.reg (Reg.HARN_CONTRIB_INC 15)).toNat, (t.reg (Reg.HARN_CONTRIB_CAR 15)).toNat))) =
    some (2, 1, 1) := by decide +kernel


/-- R47 and the example after R51: each sample in which step A waits at the head counts 30,000 FCLK. -/
theorem test_purse_wait : (after (.powerSample { powerDw := 9000, junctionW := 800, junctionE := 800, junctionHub := 800, flashMax := 800, pclk := 10000 })
      { tUp with regs := [(Reg.PURSE_CTL 1, 100 + 20000 * 65536), (Reg.PURSE_LEVEL 1, 20000)], fifo := [(1, [.step ⟨1, 1, 1⟩ 30000])] }).map
      (fun t => (t.reg (Reg.PURSE_WAIT 1)).toNat) = some 30000 := by decide +kernel

/-- R152: a narrow write that finds an uncorrectable error keeps it on record, stores its bytes and leaves the line poisoned; a poisoned line is
not read for one. -/
theorem test_narrow_write : (let r := tUp.mergeRead 0x8000000040 .uncorrectable
    (r.1, r.2.bit Reg.MEM_FAULT 0, (r.2.reg Reg.DRAM_UE_COUNT).toNat)) = (true, true, 1) ∧
    ({ tUp with poison := [0x200000001] }.mergeRead 0x8000000040 .uncorrectable).1 = false := by decide +kernel

/-- R137 and R343: a device address in no window of the partition counts in MEM_VIOL_COUNT and in HOST_VIOL_COUNT. -/
theorem test_window_violation : (let r := tUp.outerWrite ⟨0, 0, [], [], [], []⟩ .dx 0x800000000000 [1] false
    (r.1, (r.2.reg Reg.MEM_VIOL_COUNT).toNat, (r.2.reg Reg.HOST_VIOL_COUNT).toNat, r.2.bit Reg.HOST_FAULT 0)) = (true, 1, 1, true) := by decide +kernel

/-- R139 and R161: another partition's core meets a violation at core 3's window, which core 3's SRAM block records with the word. -/
theorem test_sram_window : (let r := tUp.outerRead ⟨0, 0, [], [], [], []⟩ .dx 0x106000048 8 .clean []
    (r.1.viol, (r.2.reg (Reg.SRAM_VIOL_COUNT 3)).toNat, (r.2.reg (Reg.SRAM_FAULT 3)).toNat, (r.2.reg (Reg.SRAM_FAULT_ADDR 3)).toNat)) =
    (true, 1, 32, 0x48) := by decide +kernel

/-- R377: the CRC-32C of the nine digits, as its parameters give it. -/
theorem test_crc : crc32c [0x31, 0x32, 0x33, 0x34, 0x35, 0x36, 0x37, 0x38, 0x39] = 0xE3069283 := by decide +kernel

/-- R164, R165, R202: an MXT word of its fields: opcode 1 of class 2, signalling T2; its block at 0x19000, generators 7 and 6, columns in C10. -/
theorem test_decode_mxt : decodeWenmel 3 0x00000000000000014639900000808201#128 =
    some (.mxt ⟨3, false, false, false, true, 0, 2, 0, 0⟩ { blk := 0x19000, aga := 7, ago := 6, colc := 10 }) := by decide +kernel

/-- R168: an all-zero word is a NOP. -/
theorem test_decode_nop : ∀ c ∈ [(0 : CoreId), 31], decodeWenmel c 0 = some (.nop { core := c }) := by decide +kernel

end Sys2Proof.Tests
end

/-! ## The step keeps the state sound (R1, R8, R137, R446) -/

section

namespace Sys2Proof.Machine

open Sys2Proof

/-- Every command keeps what KeptBase names: each arm of the dispatch by the lemma of its meaning. -/
theorem exec_kept : ∀ (i : Instr) (s t : State), exec i s = .next t → Kept s t
  | .nop .., _ => execNop_kept
  | .endStep .., _ => execEndStep_kept
  | .loop .., _ => execLoop_kept
  | .exitLoop .., _ => execExitLoop_kept
  | .skip .., _ => execSkip_kept
  | .cmp .., _ => execCmp_kept
  | .jmp .., _ => execJmp_kept
  | .cset .., _ => execCset_kept
  | .cadd .., _ => execCadd_kept
  | .csub .., _ => execCsub_kept
  | .cmul .., _ => execCmul_kept
  | .cmin .., _ => execCmin_kept
  | .cmax .., _ => execCmax_kept
  | .cdiv .., _ => execCdiv_kept
  | .cidx .., _ => execCidx_kept
  | .cldr .., _ => execCldr_kept
  | .clds .., _ => execClds_kept
  | .csts .., _ => execCsts_kept
  | .agset .., _ => execAgset_kept
  | .agadd .., _ => execAgadd_kept
  | .aginc .., _ => execAginc_kept
  | .tadd .., _ => execTadd_kept
  | .dxs .., _ => execDxs_kept
  | .dxg .., _ => execDxg_kept
  | .mxt .., _ => execMxt_kept
  | .mxl .., _ => execMxl_kept
  | .mxp .., _ => execMxp_kept
  | .vadd .., _ => execVadd_kept
  | .vsub .., _ => execVsub_kept
  | .vmul .., _ => execVmul_kept
  | .vfma .., _ => execVfma_kept
  | .vmin .., _ => execVmin_kept
  | .vmax .., _ => execVmax_kept
  | .vcmp .., _ => execVcmp_kept
  | .vsel .., _ => execVsel_kept
  | .vabs .., _ => execVabs_kept
  | .vneg .., _ => execVneg_kept
  | .vexp2 .., _ => execVexp2_kept
  | .vlog2 .., _ => execVlog2_kept
  | .vrcp .., _ => execVrcp_kept
  | .vrsq .., _ => execVrsq_kept
  | .vcvt .., _ => execVcvt_kept
  | .vreq .., _ => execVreq_kept
  | .vlf .., _ => execVlf_kept
  | .vlfa .., _ => execVlfa_kept
  | .vrsum .., _ => execVrsum_kept
  | .vrmax .., _ => execVrmax_kept
  | .vsmax .., _ => execVsmax_kept
  | .vrms .., _ => execVrms_kept
  | .vlnorm .., _ => execVlnorm_kept
  | .vkl .., _ => execVkl_kept
  | .sxtopk .., _ => execSxtopk_kept
  | .sxmerge .., _ => execSxmerge_kept
  | .sxand .., _ => execSxand_kept
  | .sxroute .., _ => execSxroute_kept
  | .sxwalk .., _ => execSxwalk_kept
  | .oxupd .., _ => execOxupd_kept
  | .oxsr .., _ => execOxsr_kept
  | .hxsend .., _ => execHxsend_kept
  | .hxrecv .., _ => execHxrecv_kept
  | .gxput .., _ => execGxput_kept
  | .gxget .., _ => execGxget_kept
  | .allred .., _ => execAllred_kept
  | .redscat .., _ => execRedscat_kept
  | .bcast .., _ => execBcast_kept
  | .clear .., _ => execClear_kept
  | .mrd .., _ => execMrd_kept
  | .mwr .., _ => execMwr_kept
  | .mapp .., _ => execMapp_kept
  | .pread .., _ => execPread_kept
  | .pres .., _ => execPres_kept
  | .tokenWaitProceed .., _ => execTokenWaitProceed_kept
  | .instructionRetire .., _ => execInstructionRetire_kept
  | .boundaryRetire .., _ => execBoundaryRetire_kept
  | .coreStallDetect .., _ => execCoreStallDetect_kept
  | .streamLineArrival .., _ => execStreamLineArrival_kept
  | .prefetchStart .., _ => execPrefetchStart_kept
  | .pstreamBaseWrite .., _ => execPstreamBaseWrite_kept
  | .laceLineArrival .., _ => execLaceLineArrival_kept
  | .laceCreditReturn .., _ => execLaceCreditReturn_kept
  | .mxInjectArm .., _ => execMxInjectArm_kept
  | .vxInjectArm .., _ => execVxInjectArm_kept
  | .clipClear .., _ => execClipClear_kept
  | .clearValid .., _ => execClearValid_kept
  | .flipArm .., _ => execFlipArm_kept
  | .mergeEntryRetire .., _ => execMergeEntryRetire_kept
  | .sramCeWriteback .., _ => execSramCeWriteback_kept
  | .powerSample .., _ => execPowerSample_kept
  | .thermalTripRelease .., _ => execThermalTripRelease_kept
  | .periodBoundary .., _ => execPeriodBoundary_kept
  | .stepAdmit .., _ => execStepAdmit_kept
  | .purseCtlWrite .., _ => execPurseCtlWrite_kept
  | .pwrAlertAssert .., _ => execPwrAlertAssert_kept
  | .alertForceWrite .., _ => execAlertForceWrite_kept
  | .droopWarning .., _ => execDroopWarning_kept
  | .droopHoldExpiry .., _ => execDroopHoldExpiry_kept
  | .droopReset .., _ => execDroopReset_kept
  | .rootPllLoss .., _ => execRootPllLoss_kept
  | .interfacePllLoss .., _ => execInterfacePllLoss_kept
  | .promotionCopyDone .., _ => execPromotionCopyDone_kept
  | .poolSizeWrite .., _ => execPoolSizeWrite_kept
  | .poolZeroingDone .., _ => execPoolZeroingDone_kept
  | .dramScrub .., _ => execDramScrub_kept
  | .sliceExpiry .., _ => execSliceExpiry_kept
  | .switchDeferEnd .., _ => execSwitchDeferEnd_kept
  | .switchOutComplete .., _ => execSwitchOutComplete_kept
  | .jobPlace .., _ => execJobPlace_kept
  | .reinWrite .., _ => execReinWrite_kept
  | .daybookDeliver .., _ => execDaybookDeliver_kept
  | .dbkEoi .., _ => execDbkEoi_kept
  | .dbkSoft .., _ => execDbkSoft_kept
  | .dbkHoldWrite .., _ => execDbkHoldWrite_kept
  | .dbkRingHeadWrite .., _ => execDbkRingHeadWrite_kept
  | .stewardSleep .., _ => execStewardSleep_kept
  | .stewardStuck .., _ => execStewardStuck_kept
  | .stewardStuckClear .., _ => execStewardStuckClear_kept
  | .faultRegisterClear .., _ => execFaultRegisterClear_kept
  | .quarantineRelease .., _ => execQuarantineRelease_kept
  | .ledgerTestArm .., _ => execLedgerTestArm_kept
  | .registerWrite .., _ => execRegisterWrite_kept
  | .doorbellWrite .., _ => execDoorbellWrite_kept
  | .identify .., _ => execIdentify_kept
  | .getFeatures .., _ => execGetFeatures_kept
  | .setFeatures .., _ => execSetFeatures_kept
  | .powerManagement .., _ => execPowerManagement_kept
  | .timestamp .., _ => execTimestamp_kept
  | .getLogPage .., _ => execGetLogPage_kept
  | .createIoQueue .., _ => execCreateIoQueue_kept
  | .deleteIoQueue .., _ => execDeleteIoQueue_kept
  | .abort .., _ => execAbort_kept
  | .asynchronousEventRequest .., _ => execAsynchronousEventRequest_kept
  | .namespaceCreate .., _ => execNamespaceCreate_kept
  | .namespaceDelete .., _ => execNamespaceDelete_kept
  | .namespaceAttachment .., _ => execNamespaceAttachment_kept
  | .firmwareImageDownload .., _ => execFirmwareImageDownload_kept
  | .firmwareCommit .., _ => execFirmwareCommit_kept
  | .formatNvm .., _ => execFormatNvm_kept
  | .sanitize .., _ => execSanitize_kept
  | .sanitizeComplete .., _ => execSanitizeComplete_kept
  | .virtualizationManagement .., _ => execVirtualizationManagement_kept
  | .keepAlive .., _ => execKeepAlive_kept
  | .deviceSelfTest .., _ => execDeviceSelfTest_kept
  | .securitySend .., _ => execSecuritySend_kept
  | .securityReceive .., _ => execSecurityReceive_kept
  | .attachWeight .., _ => execAttachWeight_kept
  | .detachWeight .., _ => execDetachWeight_kept
  | .setHostWindow .., _ => execSetHostWindow_kept
  | .read .., _ => execRead_kept
  | .write .., _ => execWrite_kept
  | .writeZeroes .., _ => execWriteZeroes_kept
  | .flush .., _ => execFlush_kept
  | .deallocate .., _ => execDeallocate_kept
  | .compare .., _ => execCompare_kept
  | .verify .., _ => execVerify_kept
  | .zoneAppend .., _ => execZoneAppend_kept
  | .zoneOpen .., _ => execZoneOpen_kept
  | .zoneClose .., _ => execZoneClose_kept
  | .zoneFinish .., _ => execZoneFinish_kept
  | .resetZone .., _ => execResetZone_kept
  | .zoneOffline .., _ => execZoneOffline_kept
  | .zoneManagementReceive .., _ => execZoneManagementReceive_kept
  | .loadProgram .., _ => execLoadProgram_kept
  | .programActivationManagement .., _ => execProgramActivationManagement_kept
  | .executeProgram .., _ => execExecuteProgram_kept
  | .memoryRangeSetManagement .., _ => execMemoryRangeSetManagement_kept
  | .memoryRead .., _ => execMemoryRead_kept
  | .memoryWrite .., _ => execMemoryWrite_kept
  | .memoryCopy .., _ => execMemoryCopy_kept
  | .weightPageRewrite .., _ => execWeightPageRewrite_kept
  | .openIndex .., _ => execOpenIndex_kept
  | .closeIndex .., _ => execCloseIndex_kept
  | .indexCloseComplete .., _ => execIndexCloseComplete_kept
  | .updateIndex .., _ => execUpdateIndex_kept
  | .stagingStart .., _ => execStagingStart_kept
  | .advanceEpoch .., _ => execAdvanceEpoch_kept
  | .compactIndex .., _ => execCompactIndex_kept
  | .search .., _ => execSearch_kept
  | .submitRequest .., _ => execSubmitRequest_kept
  | .requestAdmit .., _ => execRequestAdmit_kept
  | .servingStepEntry .., _ => execServingStepEntry_kept
  | .servingStepEnd .., _ => execServingStepEnd_kept
  | .setOverlay .., _ => execSetOverlay_kept
  | .frameStart .., _ => execFrameStart_kept
  | .frameAccept .., _ => execFrameAccept_kept
  | .frameComplete .., _ => execFrameComplete_kept
  | .pauseRequest .., _ => execPauseRequest_kept
  | .unsupportedCommand .., _ => execUnsupportedCommand_kept
  | .nvmeMiCommand .., _ => execNvmeMiCommand_kept
  | .tallyRecordArrival .., _ => execTallyRecordArrival_kept
  | .tallyCreditReturn .., _ => execTallyCreditReturn_kept
  | .reduceInstanceOpen .., _ => execReduceInstanceOpen_kept
  | .contributionArrival .., _ => execContributionArrival_kept
  | .reduceClose .., _ => execReduceClose_kept
  | .lateWindowExpiry .., _ => execLateWindowExpiry_kept
  | .put .., _ => execPut_kept
  | .getReq .., _ => execGetReq_kept
  | .getRsp .., _ => execGetRsp_kept
  | .ack .., _ => execAck_kept
  | .coll .., _ => execColl_kept
  | .harn .., _ => execHarn_kept
  | .idle .., _ => execIdle_kept
  | .flitForward .., _ => execFlitForward_kept
  | .nakReplay .., _ => execNakReplay_kept
  | .ackTimeout .., _ => execAckTimeout_kept
  | .linkIdleTimeout .., _ => execLinkIdleTimeout_kept
  | .linkRetrainDone .., _ => execLinkRetrainDone_kept
  | .handover .., _ => execHandover_kept
  | .portTrain .., _ => execPortTrain_kept
  | .portAuthenticate .., _ => execPortAuthenticate_kept
  | .reauth .., _ => execReauth_kept
  | .presenceNotice .., _ => execPresenceNotice_kept
  | .girthSetWrite .., _ => execGirthSetWrite_kept
  | .flashPageReadDone .., _ => execFlashPageReadDone_kept
  | .flashProgramDone .., _ => execFlashProgramDone_kept
  | .readBack .., _ => execReadBack_kept
  | .flashEraseDone .., _ => execFlashEraseDone_kept
  | .eraseResume .., _ => execEraseResume_kept
  | .readAround .., _ => execReadAround_kept
  | .garbageCollection .., _ => execGarbageCollection_kept
  | .fold .., _ => execFold_kept
  | .refresh .., _ => execRefresh_kept
  | .channelTrainingFail .., _ => execChannelTrainingFail_kept
  | .holdupMeasure .., _ => execHoldupMeasure_kept
  | .powerGood .., _ => execPowerGood_kept
  | .perstDeassert .., _ => execPerstDeassert_kept
  | .mount .., _ => execMount_kept
  | .controllerEnable .., _ => execControllerEnable_kept
  | .controllerReset .., _ => execControllerReset_kept
  | .functionLevelReset .., _ => execFunctionLevelReset_kept
  | .portReset .., _ => execPortReset_kept
  | .warmReset .., _ => execWarmReset_kept
  | .guardResetWarm .., _ => execGuardResetWarm_kept
  | .nvmSubsystemReset .., _ => execNvmSubsystemReset_kept
  | .perstBothPorts .., _ => execPerstBothPorts_kept
  | .inputPowerLoss .., _ => execInputPowerLoss_kept
  | .flushComplete .., _ => execFlushComplete_kept
  | .pwrDisAssert .., _ => execPwrDisAssert_kept
  | .pwrDisDeassert .., _ => execPwrDisDeassert_kept
  | .leakDetect .., _ => execLeakDetect_kept
  | .getVersion .., _ => execGetVersion_kept
  | .getCapabilities .., _ => execGetCapabilities_kept
  | .negotiateAlgorithms .., _ => execNegotiateAlgorithms_kept
  | .getDigests .., _ => execGetDigests_kept
  | .getCertificate .., _ => execGetCertificate_kept
  | .challenge .., _ => execChallenge_kept
  | .getMeasurements .., _ => execGetMeasurements_kept
  | .chunkSend .., _ => execChunkSend_kept
  | .chunkGet .., _ => execChunkGet_kept
  | .doeDiscovery .., _ => execDoeDiscovery_kept
  | .autonomousPowerStateTransition .., _ => execAutonomousPowerStateTransition_kept
  | .powerStateEntryComplete .., _ => execPowerStateEntryComplete_kept
  | .powerStateExitComplete .., _ => execPowerStateExitComplete_kept
  | .keepAliveTimeout .., _ => execKeepAliveTimeout_kept
  | .spdmUnsupportedRequest .., _ => execSpdmUnsupportedRequest_kept
  | .droopRecovery .., _ => execDroopRecovery_kept
  | .switchInComplete .., _ => execSwitchInComplete_kept
  | .dieStopsAnswering .., _ => execDieStopsAnswering_kept
  | .hostLinkRetrain .., _ => execHostLinkRetrain_kept

/-- What is kept of a sound state is sound. -/
theorem Kept.sound {s t : State} (h : Kept s t) (hs : s.Sound) : t.Sound := by
  obtain ⟨-, ⟨grade, -⟩, ⟨-, svn⟩, mem, regs⟩ := h
  obtain ⟨smem, sregs, sgrade, ssvn⟩ := hs
  exact ⟨mem smem, regs sregs, grade ▸ sgrade, svn ssvn⟩

/-- Settles O2: an empty queue idles, and the front command keeps all that soundness speaks of. -/
theorem everyStepKeepsSound : Obligations.EveryStepKeepsSound := by
  intro s t hs ht
  unfold step at ht
  split at ht
  case h_1 =>
    cases ht
    exact hs
  case h_2 c rest _ => exact (exec_kept c { s with pending := rest } t ht).sound hs

/-- Settles O3: the maps are empty, the grade and the security version are zero. -/
theorem resetIsSound : Obligations.ResetIsSound := ⟨reset_mem_wf, rfl, Nat.zero_le 2, Nat.zero_le 128⟩

end Sys2Proof.Machine
end

/-! ## A register write that only waits in the shadow (R8 to R12, R226) -/

section

namespace Sys2Proof.Machine

open Sys2Proof

/-- A whole, aligned write of a register with no effect of its own is the generic write of R12. -/
theorem State.PlainReg.registerWrite {s : State} {off : Nat} {v : Word} (p : s.PlainReg off v) (alive : s.alive = true) (aligned : off % 8 = 0) :
    s.registerWrite off 8 v = s.writePlain off v := by
  obtain ⟨here, clear, acts, pool, set, purse, rein, grein, group, stream⟩ := p
  have noStream : (List.range 256).find? (fun k => off == Reg.DX_PSTREAM_BASE (k / 8) (k % 8)) = none := by
    refine List.find?_eq_none.2 fun k hk => ?_
    have := stream (k / 8) (k % 8) (by have := List.mem_range.1 hk; omega) (by omega)
    simpa using this
  unfold State.registerWrite State.writeAt
  simp [alive, aligned, here, clear, acts, pool, set, purse, rein, grein, group, noStream]

/-- The generic write of a register whose Takes effect column names a boundary waits in the shadow (R12). -/
theorem State.writePlain_shadow {s : State} {off : Nat} {v : Word} {i : RegInfo} (info : regInfo off = some i) (ro : i.scope ≠ .ro)
    (imm : i.scope ≠ .imm) : s.writePlain off v = s.writeShadow off i v := by
  unfold State.writePlain
  cases e : i.scope with
  | ro => exact absurd e ro
  | imm => exact absurd e imm
  | instr | period | frame | epoch => simp only [info, e]

/-- R226: a write without a reserved encoding takes back the note that an earlier one of the harness block's register left. -/
theorem State.writeShadow_harnessReserved {s : State} {off : Nat} {v : Word} {i : RegInfo} (block : 0x400000 ≤ off ∧ off < 0x500000)
    (valid : i.reserved v = false) : (s.writeShadow off i v).harness.reserved = setDel s.harness.reserved off := by
  unfold State.writeShadow
  simp [block, valid]

/-- A module that is up, after a write of a reserved encoding to HARN_WIN_0 (R226). -/
def winNoted : State :=
  { State.reset with guard := { State.reset.guard with phase := .up }, harness := { reserved := [Reg.HARN_WIN 0] } }

/-- A tally window of 64 bytes from the SRAM's start may be written to HARN_WIN_0 there: nothing but its row of the table bears on the write. -/
theorem winNoted_plain : winNoted.PlainReg (Reg.HARN_WIN 0) 0x100000000 := by
  refine ⟨by decide, by decide, by decide, by decide, by decide, by decide, by decide, by decide, by decide, fun c n _ _ => ?_⟩
  unfold Reg.DX_PSTREAM_BASE Reg.HARN_WIN coreWin
  omega

/-- The row of HARN_WIN_c: R226. -/
def harnWinInfo : RegInfo := ⟨.period, 0x7ffff01ffffff, 0, 0, 0, [.zero 0 6, .range 32 19 0 393216]⟩

theorem regInfo_harnWin : regInfo (Reg.HARN_WIN 0) = some harnWinInfo := by decide

/-- Refutes O22: a valid write to HARN_WIN_0 takes the value into the shadow and, with it, takes back the harness block's note of the reserved
encoding written before (R226), so that more than the shadow copy changes. -/
theorem not_registerWritesLandOrAreViolations : ¬ Obligations.RegisterWritesLandOrAreViolations := by
  unfold Obligations.RegisterWritesLandOrAreViolations
  rintro ⟨lands, -⟩
  have valid : harnWinInfo.reserved 0x100000000 = false := by decide
  obtain ⟨-, shadowed, -⟩ := lands winNoted (Reg.HARN_WIN 0) 0x100000000 harnWinInfo rfl rfl winNoted_plain regInfo_harnWin valid
  obtain ⟨t, written, only, -⟩ := shadowed (by decide) (by decide)
  have taken : t = winNoted.writeShadow (Reg.HARN_WIN 0) harnWinInfo 0x100000000 := by
    have e : exec (.registerWrite (.physical (Reg.HARN_WIN 0)) 8 0x100000000) winNoted =
        .next (winNoted.registerWrite (Reg.HARN_WIN 0) 8 0x100000000) := rfl
    rw [e, winNoted_plain.registerWrite rfl rfl, State.writePlain_shadow regInfo_harnWin (by decide) (by decide)] at written
    exact (Host.Outcome.next.inj written).symm
  have gone : t.harness.reserved = [] := by
    rw [taken, State.writeShadow_harnessReserved (by decide) valid]
    rfl
  have stays : t.harness.reserved = [Reg.HARN_WIN 0] := by
    rw [only]
    rfl
  rw [gone] at stays
  cases stays

end Sys2Proof.Machine
end

/-! ## What recording an event touches, and the stall of a core (R181, R411, R429, R430) -/

section

namespace Sys2Proof.Machine

open Sys2Proof

/-! ### What is left as it was -/

theorem State.Recorded.refl (s : State) : s.Recorded s := rfl

theorem State.Recorded.trans {s t u : State} (a : s.Recorded t) (b : t.Recorded u) : s.Recorded u := by
  unfold State.Recorded at a b ⊢
  rw [a] at b
  exact b

theorem State.recorded_setReg (s : State) (off : Nat) (v : Word) : s.Recorded (s.setReg off v) := rfl

theorem State.recorded_setBit (s : State) (off i : Nat) (b : Bool) : s.Recorded (s.setBit off i b) := rfl

theorem State.recorded_daybook (s : State) (d : Daybook) : s.Recorded { s with daybook := d } := rfl

/-- What every element's step records, the fold records. -/
theorem State.recorded_each {β : Type} {f : β → State → State} (hf : ∀ x (s : State), s.Recorded (f x s)) (l : List β) (s : State) :
    s.Recorded (State.each l f s) :=
  each_keeps (P := s.Recorded) (fun x _ h => h.trans (hf x _)) l (State.Recorded.refl s)

/-- Serving Asynchronous Event Requests moves only the waiting events, the requests and what the host has had. -/
theorem HostState.serveAer_eq (h : HostState) :
    h.serveAer = { h with queuedEv := h.serveAer.queuedEv, ctrls := h.serveAer.ctrls, out := h.serveAer.out } := by
  unfold HostState.serveAer
  split
  · rfl
  · dsimp only
    split <;> rfl

theorem State.recorded_raiseEvent (s : State) (e : Nat) : s.Recorded (s.raiseEvent e) := by
  unfold State.raiseEvent
  split
  · exact State.Recorded.refl s
  · unfold State.Recorded
    dsimp only
    generalize hh : ({ s.host with raised := setAdd s.host.raised e, queuedEv := s.host.queuedEv ++ [e] } : HostState) = h
    have eq := HostState.serveAer_eq h
    generalize h.serveAer = g at eq
    subst hh
    rw [eq]

@[simp] theorem State.regs_raiseEvent (s : State) (e : Nat) : (s.raiseEvent e).regs = s.regs := by
  unfold State.raiseEvent
  split <;> rfl

theorem State.reg_of_regs {s t : State} (h : t.regs = s.regs) (off : Nat) : t.reg off = s.reg off := by
  unfold State.reg
  rw [h]

@[simp] theorem State.reg_raiseEvent (s : State) (e off : Nat) : (s.raiseEvent e).reg off = s.reg off :=
  State.reg_of_regs (s.regs_raiseEvent e) off

theorem State.recorded_capture (s : State) (u : FaultUnit) (b extra addr seq : Nat) : s.Recorded (s.capture u b extra addr seq) := by
  unfold State.capture
  split
  · exact s.recorded_setReg _ _
  · dsimp only
    split
    · exact (s.recorded_setReg _ _).trans (State.recorded_setReg _ _ _)
    · exact s.recorded_setReg _ _

theorem State.recorded_setFault (s : State) (u : FaultUnit) (b extra addr seq : Nat) : s.Recorded (s.setFault u b extra addr seq) := by
  unfold State.setFault
  dsimp only
  refine State.Recorded.trans ?_ (State.recorded_raiseEvent _ _)
  refine State.Recorded.trans ?_ (State.recorded_setBit _ _ _ _)
  split <;> split
  · exact (State.recorded_setReg s _ _).trans (State.recorded_capture _ u b extra addr seq)
  · exact State.recorded_setReg s _ _
  · exact State.recorded_capture s u b extra addr seq
  · exact State.Recorded.refl s

theorem State.recorded_wakeHeld (s : State) : s.Recorded s.wakeHeld := by
  unfold State.wakeHeld
  split
  · refine State.recorded_each (fun n s => ?_) _ s
    split
    · exact State.recorded_setBit s _ _ _
    · exact State.Recorded.refl s
  · exact State.Recorded.refl s

theorem State.recorded_fire (s : State) (n : Nat) : s.Recorded (s.fire n) := by
  unfold State.fire
  dsimp only
  split
  · split
    · exact ((State.recorded_setBit s _ _ _).trans (State.recorded_setBit _ _ _ _)).trans (State.recorded_wakeHeld _)
    · exact State.recorded_setBit s _ _ _
  · exact State.Recorded.refl s

theorem State.recorded_unfire (s : State) (n : Nat) : s.Recorded (s.unfire n) := by
  unfold State.unfire
  dsimp only
  split
  · exact ((((State.recorded_setBit s _ _ _).trans (State.recorded_setBit _ _ _ _)).trans (State.recorded_daybook _ _)).trans
      (State.recorded_setFault _ _ _ _ _ _)).trans (State.recorded_setReg _ _ _)
  · exact State.recorded_setBit s _ _ _

theorem State.recorded_raise (s : State) (u : FaultUnit) (b extra addr : Nat) : s.Recorded (s.raise u b extra addr) := by
  unfold State.raise
  refine (State.recorded_setFault s u b extra addr s.sampleSeq).trans (State.recorded_each (fun n s => ?_) _ _)
  exact (State.recorded_daybook s _).trans (State.recorded_fire _ n)

/-! ### The registers of a record -/

/-- The registers that waking a held steward, and asserting a source, may change. -/
def daybookReg (off : Nat) : Prop := ∃ i, i < 8 ∧ (off = Reg.DBK_PEND i ∨ off = Reg.DBK_LEVEL i ∨ off = Reg.DBK_STW i)

/-- The fault register of a unit, its capture and its address register. -/
def FaultUnit.records (u : FaultUnit) (off : Nat) : Prop := off = u.reg ∨ off = u.cap ∨ u.addr = some off

theorem FaultUnit.touches_iff (u : FaultUnit) (off : Nat) : u.touches off ↔ off = Reg.FAULT_FIRST ∨ u.records off ∨ daybookReg off := by
  unfold FaultUnit.touches FaultUnit.records daybookReg
  simp only [or_assoc]

theorem State.routeOf_lt {s : State} {n w : Nat} (h : s.routeOf n = some w) : w < 8 := by
  unfold State.routeOf at h
  have best : ∀ (l : List Nat) (b : Option Nat), (∀ x ∈ l, x < 8) → (∀ x ∈ b, x < 8) → ∀ w ∈ l.foldl (fun best w =>
      match best with
      | none => some w
      | some b => if s.stwPrio w < s.stwPrio b then some w else some b) b, w < 8 := by
    intro l
    induction l with
    | nil => exact fun b _ hb w hw => hb w hw
    | cons x r ih =>
      intro b hl hb
      refine ih _ (fun y hy => hl y (List.mem_cons_of_mem _ hy)) ?_
      have hx := hl x List.mem_cons_self
      cases b with
      | none => simpa using hx
      | some b =>
        have hb := hb b rfl
        dsimp only
        split <;> simpa
  exact best _ none (fun x hx => List.mem_range.1 (List.mem_filter.1 hx).1) nofun w h

/-- A register that is no steward's state is left when a held steward wakes. -/
theorem State.reg_wakeHeld {s : State} {off : Nat} (h : ∀ i < 8, off ≠ Reg.DBK_STW i) : s.wakeHeld.reg off = s.reg off := by
  unfold State.wakeHeld
  split
  · refine each_keeps (P := fun t => t.reg off = s.reg off) (fun n t ht => ?_) _ rfl
    split
    case h_1 w hw => rw [State.reg_setBit_ne _ (h w (State.routeOf_lt hw)), ht]
    case h_2 => exact ht
  · rfl

theorem State.reg_fire {s : State} {n off : Nat} (hn : n < 512) (h : ¬ daybookReg off) : (s.fire n).reg off = s.reg off := by
  have ne : ∀ i < 8, off ≠ Reg.DBK_PEND i ∧ off ≠ Reg.DBK_LEVEL i ∧ off ≠ Reg.DBK_STW i := by
    intro i hi
    refine ⟨?_, ?_, ?_⟩ <;> rintro rfl <;> exact h ⟨i, hi, by simp⟩
  obtain ⟨pend, level, -⟩ := ne (n / 64) (by omega)
  unfold State.fire State.setLevel State.setPend
  dsimp only
  split
  · split
    · rw [State.reg_wakeHeld (fun i hi => (ne i hi).2.2), State.reg_setBit_ne _ pend, State.reg_setBit_ne _ level]
    · rw [State.reg_setBit_ne _ level]
  · rfl

/-- A source that is present and has fired is asserted. -/
theorem State.srcLevel_fire {s : State} {n : Nat} (hn : n < 512) (h : s.srcPresent n = true) : (s.fire n).srcLevel n = true := by
  have stw : ∀ i < 8, Reg.DBK_LEVEL (n / 64) ≠ Reg.DBK_STW i := by
    unfold Reg.DBK_LEVEL Reg.DBK_STW
    omega
  have pend : Reg.DBK_LEVEL (n / 64) ≠ Reg.DBK_PEND (n / 64) := by
    unfold Reg.DBK_LEVEL Reg.DBK_PEND
    omega
  have bit : Machine.bit (Machine.setBit (s.reg (Reg.DBK_LEVEL (n / 64))) (n % 64) true) (n % 64) = true := bit_setBit_self _ _ _ (by omega)
  unfold State.fire State.setLevel State.setPend State.srcLevel State.bit
  simp only [h, if_true]
  split
  · rw [State.reg_wakeHeld stw, State.reg_setBit_ne _ pend, State.reg_setBit_self, bit]
  · rw [State.reg_setBit_self, bit]

/-- The address register of a unit stands 16 bytes above its fault register (R438). -/
theorem FaultUnit.addr_eq {u : FaultUnit} {a : Nat} (h : u.addr = some a) : a = u.reg + 16 := by
  cases u with
  | core c x =>
    cases x with
    | gx =>
      cases h
      simp only [FaultUnit.reg, Reg.GX_FAULT_PC, Reg.GX_FAULT]
      omega
    | _ => cases h; rfl
  | _ => cases h <;> rfl

/-- No fault register, and nothing that it loads, lies near FAULT_FIRST or among the daybook's pending, level and steward registers. -/
theorem FaultUnit.reg_range (u : FaultUnit) :
    u.reg + 16 < Reg.FAULT_FIRST ∨ (Reg.FAULT_FIRST < u.reg ∧ u.reg + 16 < Reg.DBK_PEND 0) ∨ Reg.DBK_STW 8 < u.reg := by
  cases u with
  | core c x =>
    refine .inr (.inr ?_)
    cases x with
    | gx =>
      simp only [FaultUnit.reg, Reg.GX_FAULT, Reg.DBK_STW]
      omega
    | _ => exact Nat.lt_of_lt_of_le (by decide : Reg.DBK_STW 8 < 0x1000000) (Nat.le_trans (Nat.le_add_right _ _) (Nat.le_add_right _ _))
  | _ => decide

theorem FaultUnit.records_apart {u : FaultUnit} {off : Nat} (h : u.records off) : off ≠ Reg.FAULT_FIRST ∧ ¬ daybookReg off := by
  have near : u.reg ≤ off ∧ off ≤ u.reg + 16 := by
    rcases h with h | h | h
    · omega
    · unfold FaultUnit.cap at h
      omega
    · have := FaultUnit.addr_eq h
      omega
  have range := u.reg_range
  unfold Reg.FAULT_FIRST Reg.DBK_PEND Reg.DBK_STW at range
  unfold Reg.FAULT_FIRST daybookReg Reg.DBK_PEND Reg.DBK_LEVEL Reg.DBK_STW
  omega

/-! ### The registers after a record -/

theorem State.reg_capture_ne (s : State) (u : FaultUnit) (b extra addr seq : Nat) {off : Nat} (cap : off ≠ u.cap) (ha : u.addr ≠ some off) :
    (s.capture u b extra addr seq).reg off = s.reg off := by
  unfold State.capture
  split
  · subst u
    exact State.reg_setReg_ne s cap _
  · split
    case h_1 a e =>
      rw [State.reg_setReg_ne _ (by rintro rfl; exact ha e), State.reg_setReg_ne s cap]
    case h_2 => exact State.reg_setReg_ne s cap _

/-- The address register takes 48 bits of the address or PC (R429). -/
theorem State.reg_capture_addr (s : State) {u : FaultUnit} (b extra addr seq : Nat) {a : Nat} (ha : u.addr = some a) :
    (s.capture u b extra addr seq).reg a = BitVec.ofNat 64 (addr % 2 ^ 48) := by
  have dev : u ≠ .dev := by
    rintro rfl
    cases ha
  unfold State.capture
  simp only [dev, if_false, ha, State.reg_setReg_self]

/-- Registers that a record does not touch. -/
theorem State.reg_setFault_ne (s : State) (u : FaultUnit) (b extra addr seq : Nat) {off : Nat} (first : off ≠ Reg.FAULT_FIRST) (h : ¬ u.records off) :
    (s.setFault u b extra addr seq).reg off = s.reg off := by
  have reg : off ≠ u.reg := fun e => h (.inl e)
  have cap : off ≠ u.cap := fun e => h (.inr (.inl e))
  have addr : u.addr ≠ some off := fun e => h (.inr (.inr e))
  unfold State.setFault
  dsimp only
  rw [State.reg_raiseEvent, State.reg_setBit_ne _ reg]
  split <;> split <;> simp only [State.reg_capture_ne _ _ _ _ _ _ cap addr, State.reg_setReg_ne _ first]

/-- The bit of the fault register is set, and no other. -/
theorem State.reg_setFault_reg (s : State) (u : FaultUnit) (b extra addr seq : Nat) :
    (s.setFault u b extra addr seq).reg u.reg = Machine.setBit (s.reg u.reg) b true := by
  have first : u.reg ≠ Reg.FAULT_FIRST := (FaultUnit.records_apart (.inl rfl)).1
  have cap : u.reg ≠ u.cap := by
    unfold FaultUnit.cap
    omega
  have noAddr : u.addr ≠ some u.reg := fun e => by
    have := FaultUnit.addr_eq e
    omega
  unfold State.setFault
  dsimp only
  rw [State.reg_raiseEvent, State.reg_setBit_self]
  split <;> split <;> simp only [State.reg_capture_ne _ _ _ _ _ _ cap noAddr, State.reg_setReg_ne _ first]

/-- The first event of a unit loads its address register (R429). -/
theorem State.reg_setFault_addr {s : State} {u : FaultUnit} (b extra addr seq : Nat) {a : Nat} (ha : u.addr = some a) (zero : s.reg u.reg = 0) :
    (s.setFault u b extra addr seq).reg a = BitVec.ofNat 64 (addr % 2 ^ 48) := by
  have first : u.reg ≠ Reg.FAULT_FIRST := (FaultUnit.records_apart (.inl rfl)).1
  have ne : a ≠ u.reg := by
    have := FaultUnit.addr_eq ha
    omega
  unfold State.setFault
  dsimp only
  rw [State.reg_raiseEvent, State.reg_setBit_ne _ ne]
  split
  · rw [if_pos (by rw [State.reg_setReg_ne _ first, zero]), State.reg_capture_addr _ _ _ _ _ ha]
  · rw [State.reg_capture_addr _ _ _ _ _ ha]

/-- Recording an event leaves, beside the daybook's, what setting its bit leaves. -/
theorem State.reg_raise {s : State} {u : FaultUnit} {b extra addr off : Nat} (sources : ∀ n ∈ u.sources b, n < 512) (h : ¬ daybookReg off) :
    (s.raise u b extra addr).reg off = (s.setFault u b extra addr s.sampleSeq).reg off := by
  unfold State.raise State.each
  generalize s.setFault u b extra addr s.sampleSeq = t
  generalize u.sources b = l at sources
  induction l generalizing t with
  | nil => rfl
  | cons n r ih =>
    rw [List.foldl_cons, ih _ (fun m hm => sources m (List.mem_cons_of_mem _ hm)), State.reg_fire (sources n List.mem_cons_self) h]
    rfl

/-- The bit recorded is set. -/
theorem State.bit_raise {s : State} {u : FaultUnit} {b extra addr : Nat} (sources : ∀ n ∈ u.sources b, n < 512) (hb : b < 64) :
    (s.raise u b extra addr).bit u.reg b = true := by
  unfold State.bit
  rw [State.reg_raise sources (FaultUnit.records_apart (.inl rfl)).2, State.reg_setFault_reg, bit_setBit_self _ _ _ hb]

/-- The first event of a unit leaves its address or PC in the unit's address register. -/
theorem State.reg_raise_addr {s : State} {u : FaultUnit} {b extra addr a : Nat} (sources : ∀ n ∈ u.sources b, n < 512) (ha : u.addr = some a)
    (zero : s.reg u.reg = 0) : (s.raise u b extra addr).reg a = BitVec.ofNat 64 (addr % 2 ^ 48) := by
  rw [State.reg_raise sources (FaultUnit.records_apart (.inr (.inr ha))).2, State.reg_setFault_addr _ _ _ _ ha zero]

/-- A register that recording an event does not touch. -/
theorem State.reg_raise_ne {s : State} {u : FaultUnit} {b extra addr off : Nat} (sources : ∀ n ∈ u.sources b, n < 512) (h : ¬ u.touches off) :
    (s.raise u b extra addr).reg off = s.reg off := by
  rw [FaultUnit.touches_iff, not_or, not_or] at h
  obtain ⟨first, records, daybook⟩ := h
  rw [State.reg_raise sources daybook, State.reg_setFault_ne _ _ _ _ _ _ first records]

/-- The source of a fault bit that has one alone is asserted, where the grade has it. -/
theorem State.srcLevel_raise {s : State} {u : FaultUnit} {b extra addr n : Nat} (source : u.sources b = [n]) (hn : n < 512) (h : s.srcPresent n = true) :
    (s.raise u b extra addr).srcLevel n = true := by
  have fuse : (s.setFault u b extra addr s.sampleSeq).fuse = s.fuse := by
    rw [State.recorded_setFault s u b extra addr s.sampleSeq]
  unfold State.raise State.each
  rw [source, List.foldl_cons, List.foldl_nil]
  generalize s.setFault u b extra addr s.sampleSeq = t at fuse
  refine State.srcLevel_fire hn ?_
  unfold State.srcPresent at h ⊢
  rw [← h]
  dsimp only
  rw [fuse]

/-! ### The stall of a core (R181) -/

/-- A running core held at a NOP for units that it does not have, with nothing queued and nothing outstanding, has stopped. -/
theorem State.stopped_nop {s : State} {c : Nat} {h : Hdr} (run : (s.core c).run = .running) (held : (s.core c).held = some (.instr (.nop h)))
    (units : (s.core c).canTake h = false) (queue : (s.core c).queue = []) (busy : (s.core c).busy = []) (streams : (s.core c).streams = [])
    (lace : (s.core c).lace = []) (txns : s.girth.txns = []) (colls : s.girth.colls = []) : s.stopped c = true := by
  have waiter : (s.core c).seqWaiter = some h := by
    unfold Core.seqWaiter
    rw [held]
    rfl
  have heads : laneOrder.filterMap (s.core c).headOf = [] := by
    refine List.filterMap_eq_nil_iff.2 fun l _ => ?_
    unfold Core.headOf
    rw [queue]
    rfl
  unfold State.stopped
  simp [run, held, waiter, units, heads, busy, streams, lace, txns, colls]

/-- The sequencer's stall fires the source of its core (R412). -/
theorem stall_source (c : Nat) : (FaultUnit.core c .seq).sources 7 = [192 + c] := rfl

/-- A stall that is recorded: bit 7 of SEQ_FAULT (R181). -/
theorem State.stallDetect_eq {s : State} {c : Nat} (here : s.hasCore c = true) (stopped : s.stopped c = true) (first : (s.core c).stalled = false) :
    s.stallDetect c = (s.raise (.core c .seq) 7 0 (s.pcOf c (s.core c).index)).modCore c (fun k => { k with stalled := true }) := by
  unfold State.stallDetect
  rw [if_pos (by simp [here, stopped, first])]
  rfl

/-- Recording leaves every core. -/
theorem State.Recorded.core {s t : State} (h : s.Recorded t) (c : Nat) : t.core c = s.core c := by
  rw [h]
  rfl

theorem State.Recorded.setCores {s t : State} (h : s.Recorded t) (l : Sparse Core) : s.Recorded { { t with cores := l } with cores := s.cores } := by
  rw [h]
  rfl

/-- A core of the grade is among the sources' cores: R1, R412. -/
theorem State.hasCore_lt {s : State} {c : Nat} (h : s.hasCore c = true) : c < 32 := by
  have := of_decide_eq_true h
  unfold State.coreCount at this
  split at this <;> omega

theorem State.srcPresent_stall {s : State} {c : Nat} (h : s.hasCore c = true) : s.srcPresent (192 + c) = true := by
  have := of_decide_eq_true h
  unfold State.coreCount at this
  unfold State.srcPresent
  by_cases g : s.fuse.grade = 2
  · rw [if_pos g] at this
    simp [g]
    omega
  · simp [g]

/-- The count of the sequencer's violations is none of what its records touch. -/
theorem seqViolCount_apart (c : Nat) : ¬ (FaultUnit.core c .seq).touches (Reg.SEQ_VIOL_COUNT c) := by
  rw [FaultUnit.touches_iff]
  simp only [FaultUnit.records, FaultUnit.cap, FaultUnit.addr, FaultUnit.reg, Option.some.injEq, daybookReg, Reg.SEQ_VIOL_COUNT, Reg.SEQ_FAULT,
    Reg.SEQ_FAULT_PC, Reg.FAULT_FIRST, Reg.DBK_PEND, Reg.DBK_LEVEL, Reg.DBK_STW, coreWin]
  omega

/-- A stopped core's first report: R181, R411, R429. -/
theorem State.stallDetect_spec {s : State} {c : Nat} (here : s.hasCore c = true) (stopped : s.stopped c = true) (first : (s.core c).stalled = false) :
    let t := s.stallDetect c
    s.Recorded { t with cores := s.cores } ∧ t.core c = { s.core c with stalled := true } ∧ (∀ d, d ≠ c → t.core d = s.core d) ∧
    t.bit (Reg.SEQ_FAULT c) 7 = true ∧ t.srcLevel (192 + c) = true ∧
    (s.reg (Reg.SEQ_FAULT c) = 0 → t.reg (Reg.SEQ_FAULT_PC c) = BitVec.ofNat 64 (s.pcOf c (s.core c).index % 2 ^ 48)) ∧
    t.reg (Reg.SEQ_VIOL_COUNT c) = s.reg (Reg.SEQ_VIOL_COUNT c) := by
  have small := State.hasCore_lt here
  have sources : ∀ n ∈ (FaultUnit.core c .seq).sources 7, n < 512 := by
    rw [stall_source]
    simp only [List.mem_singleton, forall_eq]
    omega
  rw [State.stallDetect_eq here stopped first]
  have recorded := s.recorded_raise (.core c .seq) 7 0 (s.pcOf c (s.core c).index)
  refine ⟨recorded.setCores _, ?_, fun d hd => ?_, ?_, ?_, fun zero => ?_, ?_⟩
  · rw [State.core_modCore_self, recorded.core]
  · rw [State.core_modCore_ne _ hd, recorded.core]
  · rw [State.bit_modCore]
    exact State.bit_raise sources (by omega)
  · unfold State.srcLevel
    rw [State.bit_modCore]
    exact State.srcLevel_raise (stall_source c) (by omega) (State.srcPresent_stall here)
  · rw [State.reg_modCore]
    exact State.reg_raise_addr sources rfl zero
  · rw [State.reg_modCore]
    exact State.reg_raise_ne sources (seqViolCount_apart c)

end Sys2Proof.Machine
end

/-! ## Registers of a core's window that a write arms (R12, R127, R138, R157) -/

section

namespace Sys2Proof.Machine

open Sys2Proof

/-- A register-space offset of DX_PSTREAM_BASE_n of core `k / 8`, `n` being `k % 8` (R127). -/
def pstreamAt (off : Nat) : Option Nat := (List.range 256).find? (fun k => off == Reg.DX_PSTREAM_BASE (k / 8) (k % 8))

theorem nth?_eq_none {base n stride off : Nat} (pos : 0 < stride) (above : base + n * stride ≤ off) : nth? base n stride off = none := by
  unfold nth?
  refine if_neg fun ⟨_, _, lt⟩ => ?_
  have := (Nat.div_lt_iff_lt_mul pos).1 lt
  omega

theorem coreWin_above (c k : Nat) : 0x1000000 ≤ coreWin c + k := by
  unfold coreWin
  omega

/-- A register of a core's window is in the table under its offset in the window. -/
theorem regInfo_coreWin {c k : Nat} (hc : c < 32) (hk : k < 0x100000) :
    regInfo (coreWin c + k) = (coreRows.find? (fun r => r.has k)).map RegRow.info := by
  have offset : (coreWin c + k) % 0x100000 = k := by
    unfold coreWin
    omega
  unfold regInfo
  rw [if_pos (by unfold coreWin; omega), offset]

section CoreWindow

variable {off : Nat} (above : 0x1000000 ≤ off)

include above

/-- Above the hub's blocks none of a family of their registers is found. -/
theorem nth?_above {base n stride : Nat} (pos : 0 < stride) (below : base + n * stride ≤ 0x1000000) : nth? base n stride off = none :=
  nth?_eq_none pos (Nat.le_trans below above)

theorem ne_of_above {a : Nat} (below : a < 0x1000000) : off ≠ a := Nat.ne_of_gt (Nat.lt_of_lt_of_le below above)

/-- No write above the hub's blocks acts by itself. -/
theorem State.writeActs_above (s : State) (v : Word) : s.writeActs off v = none := by
  unfold State.writeActs
  rw [if_neg (ne_of_above above (by decide)), if_neg (ne_of_above above (by decide)), if_neg (ne_of_above above (by decide)),
    if_neg (ne_of_above above (by decide)), if_neg (ne_of_above above (by decide)), if_neg (ne_of_above above (by decide)),
    nth?_above above (by decide) (by decide), nth?_above above (by decide) (by decide), nth?_above above (by decide) (by decide),
    nth?_above above (by decide) (by decide)]

/-- A write above the hub's blocks, of no fault register, is a generic write, or one of a persistent stream's base. -/
theorem State.writeAt_above (s : State) (v : Word) (clear : unitAt off = none) :
    s.writeAt off v = (pstreamAt off).elim (s.writePlain off v) (fun m => s.writePstream (m / 8) (m % 8) v) := by
  have pool : off ≠ Reg.DRAM_POOL_CTL := ne_of_above above (by decide)
  have set : off ≠ Reg.GIRTH_SET := ne_of_above above (by decide)
  have purse : nth? (Reg.PURSE_CTL 0) 9 0x40 off = none := nth?_above above (by decide) (by decide)
  have rein : nth? (Reg.SCHED_REIN 0) 9 0x40 off = none := nth?_above above (by decide) (by decide)
  have grein : nth? (Reg.SCHED_GREIN 0) 9 0x40 off = none := nth?_above above (by decide) (by decide)
  have group : nth? (Reg.GIRTH_GROUP 0) 256 8 off = none := nth?_above above (by decide) (by decide)
  unfold State.writeAt
  simp only [clear, s.writeActs_above above v, pool, set, purse, rein, grein, group, if_false]
  cases e : pstreamAt off with
  | none =>
    unfold pstreamAt at e
    simp only [e, Option.elim_none]
  | some k =>
    unfold pstreamAt at e
    simp only [e, Option.elim_some]

end CoreWindow

/-- A register that a write arms at the core's next instruction boundary: its offset in a core's window, its row of the table, and no fault register
of the window's (R138). -/
structure ArmReg (k : Nat) (i : RegInfo) : Prop where
  inside  : k < 0x100000 ∧ k % 8 = 0
  row     : (coreRows.find? (fun r => r.has k)).map RegRow.info = some i
  scope   : i.scope = .instr
  free    : i.rules = []
  noFault : ∀ x ∈ coreUnits, (FaultUnit.core 0 x).reg ≠ coreWin 0 + k

theorem ArmReg.info {k : Nat} {i : RegInfo} (a : ArmReg k i) {c : Nat} (hc : c < 32) : regInfo (coreWin c + k) = some i := by
  rw [regInfo_coreWin hc a.inside.1, a.row]

theorem ArmReg.unitAt {k : Nat} {i : RegInfo} (a : ArmReg k i) (c : Nat) : unitAt (coreWin c + k) = none := by
  refine List.find?_eq_none.2 fun u hu => ?_
  rw [beq_iff_eq]
  obtain ⟨small, -⟩ := a.inside
  rcases List.mem_append.1 hu with hub | core
  · have below : ∀ u ∈ hubUnits, u.reg < 0x1000000 := by decide
    have := below u hub
    unfold coreWin
    omega
  · obtain ⟨d, hd, hx⟩ := List.mem_flatMap.1 core
    obtain ⟨x, mem, rfl⟩ := List.mem_map.1 hx
    have apart := a.noFault x mem
    have := List.mem_range.1 hd
    cases x <;>
      simp only [FaultUnit.reg, Reg.SEQ_FAULT, Reg.DX_FAULT, Reg.MX_FAULT, Reg.VX_FAULT, Reg.SX_FAULT, Reg.OX_FAULT, Reg.HX_FAULT, Reg.GX_FAULT,
        Reg.SRAM_FAULT, coreWin] at apart ⊢ <;>
      omega

theorem ArmReg.regHere {k : Nat} {i : RegInfo} (a : ArmReg k i) {s : State} {c : Nat} (hc : c < 32) (here : s.hasCore c = true) :
    s.regHere (coreWin c + k) = true := by
  have core : (coreWin c + k - 0x1000000) / 0x100000 = c := by
    have := a.inside.1
    unfold coreWin
    omega
  unfold State.regHere
  rw [a.info hc, if_pos (coreWin_above c k), core, here]
  rfl

theorem ArmReg.registerWrite_eq {k : Nat} {i : RegInfo} (a : ArmReg k i) {s : State} {c : Nat} (hc : c < 32) (alive : s.alive = true)
    (here : s.hasCore c = true) (v : Word) : s.registerWrite (coreWin c + k) 8 v = s.writeAt (coreWin c + k) v := by
  have aligned : (coreWin c + k) % 8 = 0 := by
    have := a.inside.2
    unfold coreWin
    omega
  unfold State.registerWrite
  rw [alive, if_neg (by decide), if_neg (by simp [aligned]), if_pos (a.regHere hc here)]

/-- Without reserved encodings, a write outside the harness block only puts the writable bits into the shadow (R9, R12). -/
theorem State.writeShadow_free {s : State} {off : Nat} {i : RegInfo} (v : Word) (free : i.rules = []) (block : off < 0x400000 ∨ 0x500000 ≤ off) :
    s.writeShadow off i v = s.setShadow off (v &&& (i.rw ||| i.wo)) := by
  have valid : i.reserved v = false := by
    unfold RegInfo.reserved
    rw [free]
    rfl
  have accepted : i.accept (s.shadowOf off) v = v &&& i.rw := by
    unfold RegInfo.accept
    rw [free]
    rfl
  have outside : (decide (0x400000 ≤ off) && decide (off < 0x500000)) = false := by
    rw [Bool.and_eq_false_iff]
    simp only [decide_eq_false_iff_not]
    omega
  unfold State.writeShadow
  simp only [valid, outside, accepted, Bool.false_eq_true, if_false, BitVec.and_or_distrib_left]

/-- The generic write of such a register lands in its shadow alone (R12). -/
theorem ArmReg.writePlain {k : Nat} {i : RegInfo} (a : ArmReg k i) {m : Word} (bits : i.rw ||| i.wo = m) {c : Nat} (hc : c < 32) (s : State) (v : Word) :
    s.writePlain (coreWin c + k) v = s.setShadow (coreWin c + k) (v &&& m) := by
  have scope := a.scope
  rw [State.writePlain_shadow (a.info hc) (by rw [scope]; decide) (by rw [scope]; decide), State.writeShadow_free v a.free (.inr (Nat.le_trans (by decide) (coreWin_above c k))), bits]

/-- A write that arms something at the next instruction boundary lands in the shadow alone (R12). -/
theorem ArmReg.registerWrite {k : Nat} {i : RegInfo} (a : ArmReg k i) (stream : ∀ n < 8, Reg.DX_PSTREAM_BASE 0 n ≠ coreWin 0 + k) {s : State} {c : Nat}
    (hc : c < 32) (alive : s.alive = true) (here : s.hasCore c = true) {m : Word} (bits : i.rw ||| i.wo = m) (v : Word) :
    s.registerWrite (coreWin c + k) 8 v = s.setShadow (coreWin c + k) (v &&& m) := by
  have none : pstreamAt (coreWin c + k) = none := by
    refine List.find?_eq_none.2 fun m _ => ?_
    have apart := stream (m % 8) (by omega)
    have := a.inside.1
    rw [beq_iff_eq]
    unfold Reg.DX_PSTREAM_BASE coreWin at *
    omega
  rw [a.registerWrite_eq hc alive here, s.writeAt_above (coreWin_above c _) v (a.unitAt c), none, Option.elim_none, a.writePlain bits hc]

theorem arm_mxTest : ArmReg 0x20010 ⟨.instr, 3, 0x100, 0, 0, []⟩ := ⟨by decide, by decide, rfl, rfl, by decide⟩

theorem arm_vxTest : ArmReg 0x30000 ⟨.instr, 0, 0x100, 0, 0, []⟩ := ⟨by decide, by decide, rfl, rfl, by decide⟩

theorem arm_clipCtl : ArmReg 0x30030 ⟨.instr, 0, 0xFFFF, 0, 0, []⟩ := ⟨by decide, by decide, rfl, rfl, by decide⟩

theorem arm_sramCtl : ArmReg 0x70000 ⟨.instr, 0, 1, 0, 0, []⟩ := ⟨by decide, by decide, rfl, rfl, by decide⟩

theorem arm_sramFlip : ∀ g < 6, ArmReg (0x70080 + g * 8) ⟨.instr, 0xFF, 0x100, 0, 0, []⟩ := by
  intro g hg
  have row : ∀ g < 6, (coreRows.find? (fun r => r.has (0x70080 + g * 8))).map RegRow.info = some ⟨.instr, 0xFF, 0x100, 0, 0, []⟩ := by decide
  have noFault : ∀ g < 6, ∀ x ∈ coreUnits, (FaultUnit.core 0 x).reg ≠ coreWin 0 + (0x70080 + g * 8) := by decide
  exact ⟨⟨by omega, by omega⟩, row g hg, rfl, rfl, noFault g hg⟩

theorem arm_pstreamBase : ∀ n < 8, ArmReg (0x10100 + n * 8) ⟨.instr, 0xFFFFFFFFFFFF, 0, 0, 0, []⟩ := by
  intro n hn
  have row : ∀ n < 8, (coreRows.find? (fun r => r.has (0x10100 + n * 8))).map RegRow.info = some ⟨.instr, 0xFFFFFFFFFFFF, 0, 0, 0, []⟩ := by decide
  have noFault : ∀ n < 8, ∀ x ∈ coreUnits, (FaultUnit.core 0 x).reg ≠ coreWin 0 + (0x10100 + n * 8) := by decide
  exact ⟨⟨by omega, by omega⟩, row n hn, rfl, rfl, noFault n hn⟩

/-- HUB_SRAM_FLIP_0 is a plain register that every grade has (R157, R160). -/
theorem hubFlip_plain (s : State) (v : Word) : s.PlainReg (Reg.HUB_SRAM_FLIP 0) v := by
  refine ⟨by rfl, by decide, by rfl, by decide, by decide, by decide, by decide, by decide, by decide, fun c n _ _ => ?_⟩
  unfold Reg.DX_PSTREAM_BASE Reg.HUB_SRAM_FLIP coreWin
  omega

theorem regInfo_hubFlip : regInfo (Reg.HUB_SRAM_FLIP 0) = some ⟨.instr, 0xFF, 0x100, 0, 0, []⟩ := by decide

/-- Cores and registers apart nothing differs, and each of these reads as before. -/
def State.ReadsSame (s t : State) : Prop :=
  t = { s with cores := t.cores, regs := t.regs } ∧ (∀ d, t.core d = s.core d) ∧ ∀ off, t.reg off = s.reg off

theorem State.ReadsSame.trans {s t u : State} (a : s.ReadsSame t) (b : t.ReadsSame u) : s.ReadsSame u := by
  obtain ⟨a, acore, areg⟩ := a
  obtain ⟨b, bcore, breg⟩ := b
  rw [a] at b
  exact ⟨b, fun d => (bcore d).trans (acore d), fun off => (breg off).trans (areg off)⟩

theorem State.readsSame_modCore {s : State} {c : Nat} {f : Core → Core} (h : f (s.core c) = s.core c) : s.ReadsSame (s.modCore c f) := by
  refine ⟨(s.near_modCore c f).1, fun d => ?_, fun off => rfl⟩
  by_cases e : d = c
  · rw [e, State.core_modCore_self, h]
  · exact State.core_modCore_ne s e f

/-- A counter advanced by nothing. -/
theorem State.readsSame_addReg (s : State) (r : Nat) : s.ReadsSame (s.addReg r 0) := by
  obtain ⟨frame, core⟩ := s.addReg_frame r 0
  refine ⟨frame, core, fun off => ?_⟩
  unfold State.addReg
  rw [State.reg_setReg]
  split
  next e =>
    rw [e]
    exact BitVec.add_zero _
  next => rfl

/-- Cancelling among no prefetches moves nothing (R127). -/
theorem State.readsSame_cancelPrefetch {s : State} {c : Nat} (p : Prefetch → Bool) (none : (s.core c).prefetch = []) :
    s.ReadsSame (s.cancelPrefetch c p) := by
  have count : ((s.core c).prefetch.filter p).foldl (fun n f => n + f.slots) 0 = 0 := by rw [none]; rfl
  have dropped : s.ReadsSame (s.modCore c fun k => { k with prefetch := k.prefetch.filter (fun f => !p f) }) :=
    State.readsSame_modCore (by rw [none, List.filter_nil, ← none])
  have slots (t : State) : t.ReadsSame (t.slotDrop c 0) := by
    unfold State.slotDrop State.tick
    dsimp only
    rw [if_neg (by decide)]
    exact (State.readsSame_modCore rfl).trans (State.readsSame_addReg _ _)
  unfold State.cancelPrefetch
  dsimp only
  rw [count]
  exact (dropped.trans (slots _)).trans (State.readsSame_addReg _ _)

/-- DX_PSTREAM_BASE_n of core `c` written (R127). -/
theorem State.registerWrite_pstream {s : State} {c n : Nat} (hc : c < 32) (hn : n < 8) (alive : s.alive = true) (here : s.hasCore c = true) (v : Word) :
    s.registerWrite (Reg.DX_PSTREAM_BASE c n) 8 v = (s.setShadow (Reg.DX_PSTREAM_BASE c n) (v &&& 0xFFFFFFFFFFFF)).cancelPrefetch c
      (fun f => f.shadowBase && f.d.persistent && f.d.pnum == n) := by
  have a := arm_pstreamBase n hn
  have off : Reg.DX_PSTREAM_BASE c n = coreWin c + (0x10100 + n * 8) := Nat.add_assoc _ _ _
  have which : pstreamAt (coreWin c + (0x10100 + n * 8)) = some (8 * c + n) := by
    refine List.find?_range_eq_some.2 ⟨?_, List.mem_range.2 (by omega), fun j hj => ?_⟩
    · rw [beq_iff_eq]
      unfold Reg.DX_PSTREAM_BASE coreWin
      omega
    · rw [Bool.not_eq_true', beq_eq_false_iff_ne]
      unfold Reg.DX_PSTREAM_BASE coreWin
      omega
  have core : (8 * c + n) / 8 = c := by omega
  have stream : (8 * c + n) % 8 = n := by omega
  rw [off, a.registerWrite_eq hc alive here, s.writeAt_above (coreWin_above c _) v (a.unitAt c), which, Option.elim_some, core, stream]
  unfold State.writePstream
  have bits : (0xFFFFFFFFFFFF : Word) ||| 0 = 0xFFFFFFFFFFFF := by decide
  rw [off, a.writePlain bits hc]

end Sys2Proof.Machine
end

/-! ## SRAM words of a core without injected or real errors (R154, R156) -/

section

namespace Sys2Proof.Machine

open Sys2Proof

/-- A core on which no flip is armed or landed and no word was lost to a real error. -/
structure Core.Sturdy (k : Core) : Prop where
  flipped : k.flipped = []
  pending : k.flipPend = []
  lost    : k.lost = []

/-- Memory is `m` and core `c` is `k`; nothing else differs. -/
structure State.Rewrites (s t : State) (c : Nat) (m : List Host.Cell) (k : Core) : Prop where
  frame : t = { s with mem := m, cores := t.cores }
  core  : t.core c = k
  other : ∀ d, d ≠ c → t.core d = s.core d

/-- A core changed after that. -/
theorem State.Rewrites.modCore {s t : State} {c : Nat} {m : List Host.Cell} {k : Core} (h : s.Rewrites t c m k) (f : Core → Core) :
    s.Rewrites (t.modCore c f) c m (f k) := by
  obtain ⟨frame, core, other⟩ := h
  refine ⟨?_, by rw [State.core_modCore_self, core], fun d hd => by rw [State.core_modCore_ne _ hd, other d hd]⟩
  unfold State.modCore State.setCore
  rw [frame]

variable {s : State} {c : Nat} (sturdy : (s.core c).Sturdy)

include sturdy

/-- A read of it finds no injected error. -/
theorem State.sramCheck_sturdy (o n : Nat) : s.sramCheck c o n = s := by
  unfold State.sramCheck
  rw [sturdy.flipped]
  rfl

theorem State.wordBytes_sturdy (w : Nat) : s.wordBytes c w = memBytes s.mem (sramBase c + 8 * w) 8 := by
  unfold State.wordBytes State.miscorrect memBytes
  rw [sturdy.flipped]
  rfl

/-- A code word written to it: its bytes, and nothing else (R156). -/
theorem State.putWord_sturdy (w : Nat) (bs : List Byte) :
    s.Rewrites (s.putWord c w bs) c (memPut s.mem (sramBase c + 8 * w) bs) (s.core c) := by
  have plain : s.putWord c w bs = s.putPlain c w bs := by
    unfold State.putWord
    rw [sturdy.pending]
    rfl
  have stays : { (s.core c) with flipped := (s.core c).flipped.filter (fun j => j.word != w) } = s.core c := by
    rw [sturdy.flipped, List.filter_nil, ← sturdy.flipped]
  have put : s.Rewrites ({ s with mem := memPut s.mem (sramBase c + 8 * w) bs }.modCore c (fun k => { k with flipped := k.flipped.filter (fun j => j.word != w) })) c
      (memPut s.mem (sramBase c + 8 * w) bs) (s.core c) := by
    have same : s.Rewrites { s with mem := memPut s.mem (sramBase c + 8 * w) bs } c (memPut s.mem (sramBase c + 8 * w) bs) (s.core c) :=
      ⟨rfl, rfl, fun _ _ => rfl⟩
    have := same.modCore (fun k => { k with flipped := k.flipped.filter (fun j => j.word != w) })
    rwa [stays] at this
  rw [plain]
  unfold State.putPlain
  dsimp only
  rw [put.core, sturdy.lost]
  exact put

/-- A merge entry of it retired: its word's bytes with the merged ones, and the entry gone (R156). -/
theorem State.retireEntry_sturdy (e : MergeEntry) :
    s.Rewrites (State.retireEntry c e s) c (memPut s.mem (sramBase c + 8 * e.word) (e.merged (memBytes s.mem (sramBase c + 8 * e.word) 8)))
      { s.core c with merge := (s.core c).merge.filter (fun x => x.word != e.word) } := by
  have read : (if e.mask = 255 then s else s.sramCheck c (8 * e.word) 8) = s := by
    rw [State.sramCheck_sturdy sturdy, ite_self]
  unfold State.retireEntry State.dropEntry
  dsimp only
  rw [read, State.wordBytes_sturdy sturdy]
  exact (State.putWord_sturdy sturdy e.word _).modCore _

omit sturdy

/-! ### What its bytes read as -/

theorem MergeEntry.length_merged (e : MergeEntry) {old : List Byte} (h : old.length = 8) : (e.merged old).length = 8 := by
  simp [MergeEntry.merged, h]

theorem MergeEntry.getElem_merged (e : MergeEntry) (old : List Byte) (i : Nat) (h : i < (e.merged old).length) (ho : i < old.length) :
    (e.merged old)[i] = (e.byte i).getD old[i] := by simp [MergeEntry.merged]

theorem length_memBytes (m : List Host.Cell) (a n : Nat) : (memBytes m a n).length = n := by simp [memBytes]

/-- The oldest entry of a bank is its word's only one that a read finds. -/
theorem merge_find_word {l : List MergeEntry} {bank : Nat} {e : MergeEntry} (h : l.find? (fun e => bankOf (8 * e.word) == bank) = some e) :
    l.find? (fun x => x.word == e.word) = some e := by
  obtain ⟨hit, before, after, rfl, miss⟩ := List.find?_eq_some_iff_append.1 h
  refine List.find?_eq_some_iff_append.2 ⟨beq_self_eq_true _, before, after, rfl, fun x hx => ?_⟩
  have := miss x hx
  rw [Bool.not_eq_true', beq_eq_false_iff_ne] at this ⊢
  rw [beq_iff_eq] at hit
  intro same
  exact this (same ▸ hit)

/-- Every byte reads as before when an entry's merged bytes have been written and the entry is gone (R156). -/
theorem State.sramByte_retired {s t : State} {c : Nat} {k : Core} {e : MergeEntry} (merge : k.merge = (s.core c).merge)
    (found : (s.core c).merge.find? (fun x => x.word == e.word) = some e)
    (h : s.Rewrites t c (memPut s.mem (sramBase c + 8 * e.word) (e.merged (memBytes s.mem (sramBase c + 8 * e.word) 8)))
      { k with merge := k.merge.filter (fun x => x.word != e.word) }) (a : Nat) : t.sramByte c a = s.sramByte c a := by
  have mem : t.mem = memPut s.mem (sramBase c + 8 * e.word) (e.merged (memBytes s.mem (sramBase c + 8 * e.word) 8)) := by rw [h.frame]
  have len : (e.merged (memBytes s.mem (sramBase c + 8 * e.word) 8)).length = 8 := e.length_merged (length_memBytes _ _ _)
  unfold State.sramByte
  rw [h.core, mem]
  dsimp only
  rw [merge]
  by_cases word : a / 8 = e.word
  · have gone : ((s.core c).merge.filter (fun x => x.word != e.word)).find? (fun x => x.word == a / 8) = none := by
      refine List.find?_eq_none.2 fun x hx => ?_
      have := (List.mem_filter.1 hx).2
      simpa [word] using this
    have at_ : sramBase c + a = sramBase c + 8 * e.word + a % 8 := by omega
    rw [gone, word, found, at_]
    dsimp only
    rw [memByte_put_in _ _ _ _ (by omega), e.getElem_merged _ _ _ (by rw [length_memBytes]; omega)]
    have old : (memBytes s.mem (sramBase c + 8 * e.word) 8)[a % 8]'(by rw [length_memBytes]; omega) = memByte s.mem (sramBase c + 8 * e.word + a % 8) := by
      simp [memBytes]
    rw [old]
    cases e.byte (a % 8) <;> rfl
  · have kept : ((s.core c).merge.filter (fun x => x.word != e.word)).find? (fun x => x.word == a / 8) =
        (s.core c).merge.find? (fun x => x.word == a / 8) := by
      rw [List.find?_filter]
      congr 1
      funext x
      by_cases same : x.word = a / 8
      · simp [same, word]
      · simp [same]
    rw [kept, memByte_put_out _ _ _ _ (by omega)]

/-! ### The SRAM's own repairs -/

theorem Core.Sturdy.once {k : Core} (h : k.Sturdy) (l : NatSet) : ({ k with ceOnce := l } : Core).Sturdy := ⟨h.flipped, h.pending, h.lost⟩


/-- Two changes of nothing but cores and registers make one. -/
theorem State.coresRegs_trans {s t u : State} (a : t = { s with cores := t.cores, regs := t.regs }) (b : u = { t with cores := u.cores, regs := u.regs }) :
    u = { s with cores := u.cores, regs := u.regs } := by
  rw [a] at b
  exact b

/-- What a word's first corrected error leaves: its count, and the word remembered. -/
structure State.Counts1 (s t : State) (c w : Nat) : Prop where
  frame  : t = { s with cores := t.cores, regs := t.regs }
  count  : t.reg (Reg.SRAM_CE_COUNT c) = s.reg (Reg.SRAM_CE_COUNT c) + 1
  others : ∀ off, off ≠ Reg.SRAM_CE_COUNT c → t.reg off = s.reg off
  core   : t.core c = { s.core c with ceOnce := setAdd (s.core c).ceOnce w }

theorem State.wordCorrected_counts {s : State} {c w : Nat} (first : setHas (s.core c).ceOnce w = false) : s.Counts1 (s.wordCorrected c w) c w := by
  have same : setHas ((s.addReg (Reg.SRAM_CE_COUNT c) 1).core c).ceOnce w = false := by rw [State.core_addReg, first]
  unfold State.wordCorrected
  dsimp only
  rw [if_neg (by rw [same]; decide)]
  obtain ⟨frame, -⟩ := s.addReg_frame (Reg.SRAM_CE_COUNT c) 1
  refine ⟨?_, ?_, fun off h => ?_, ?_⟩
  · exact State.coresRegs_trans frame (State.near_modCore (s.addReg (Reg.SRAM_CE_COUNT c) 1) c _).1
  · rw [State.reg_modCore, State.reg_addReg_self]
    rfl
  · rw [State.reg_modCore, State.reg_addReg_ne s h]
  · rw [State.core_modCore_self, State.core_addReg]

/-- A merge entry of a bank retires after a clean read (R156). -/
theorem State.mergeRetire_clean {s : State} {c bank : Nat} {e : MergeEntry} (sturdy : (s.core c).Sturdy)
    (found : (s.core c).merge.find? (fun e => bankOf (8 * e.word) == bank) = some e) :
    s.Rewrites (s.mergeRetire c bank .clean) c (memPut s.mem (sramBase c + 8 * e.word) (e.merged (memBytes s.mem (sramBase c + 8 * e.word) 8)))
      { s.core c with merge := (s.core c).merge.filter (fun x => x.word != e.word) } := by
  unfold State.mergeRetire
  rw [found]
  exact State.retireEntry_sturdy sturdy e

/-- It retires after its word's first corrected error (R154, R156). -/
theorem State.mergeRetire_corrected {s : State} {c bank : Nat} {e : MergeEntry} (sturdy : (s.core c).Sturdy)
    (found : (s.core c).merge.find? (fun e => bankOf (8 * e.word) == bank) = some e) (first : setHas (s.core c).ceOnce e.word = false) :
    ∃ u, s.Counts1 u c e.word ∧
    u.Rewrites (s.mergeRetire c bank .corrected) c (memPut s.mem (sramBase c + 8 * e.word) (e.merged (memBytes s.mem (sramBase c + 8 * e.word) 8)))
      { u.core c with merge := (u.core c).merge.filter (fun x => x.word != e.word) } := by
  have counted := State.wordCorrected_counts first
  refine ⟨_, counted, ?_⟩
  have := State.retireEntry_sturdy (s := s.wordCorrected c e.word) (c := c) (by rw [counted.core]; exact sturdy.once _) e
  rw [show (s.wordCorrected c e.word).mem = s.mem by rw [counted.frame]] at this
  unfold State.mergeRetire
  rw [found]
  exact this

/-- A corrected word written back: its own bytes again, counted once (R154). -/
theorem State.ceWriteback_corrected {s : State} {c o : Nat} (sturdy : (s.core c).Sturdy)
    (valid : setHas s.valid ((sramBase c + 8 * (o / 8)) / 64) = true) (first : setHas (s.core c).ceOnce (o / 8) = false) :
    ∃ u, s.Counts1 u c (o / 8) ∧
    u.Rewrites (s.ceWriteback c o .corrected) c (memPut s.mem (sramBase c + 8 * (o / 8)) (memBytes s.mem (sramBase c + 8 * (o / 8)) 8)) (u.core c) := by
  have counted := State.wordCorrected_counts first
  refine ⟨_, counted, ?_⟩
  have := State.putWord_sturdy (s := s.wordCorrected c (o / 8)) (c := c) (by rw [counted.core]; exact sturdy.once _) (o / 8) (s.wordBytes c (o / 8))
  rw [show (s.wordCorrected c (o / 8)).mem = s.mem by rw [counted.frame], State.wordBytes_sturdy sturdy] at this
  unfold State.ceWriteback
  simp only [valid, sturdy.flipped, sturdy.pending, List.find?_nil, sget, State.wordBytes_sturdy sturdy, Bool.not_true, Bool.false_eq_true, if_true, if_false]
  exact this

/-- Memory put to the bytes that it holds reads the same. -/
theorem memByte_put_same (m : List Host.Cell) (a n b : Nat) : memByte (memPut m a (memBytes m a n)) b = memByte m b := by
  by_cases h : a ≤ b ∧ b < a + n
  · obtain ⟨i, rfl⟩ := Nat.exists_eq_add_of_le h.1
    have hi : i < n := by omega
    rw [memByte_put_in _ _ _ _ (by rw [length_memBytes]; exact hi)]
    simp [memBytes]
  · rw [memByte_put_out _ _ _ _ (by rw [length_memBytes]; omega)]

end Sys2Proof.Machine
end

/-! ## The events of the cores -/

section

namespace Sys2Proof.Machine

open Sys2Proof

/-- DX_PSTREAM_BASE_n written while nothing has been prefetched: R12, R127. -/
theorem State.registerWrite_pstream_lands {s : State} {c n : Nat} (hc : c < 32) (hn : n < 8) (alive : s.alive = true) (here : s.hasCore c = true)
    (none : (s.core c).prefetch = []) (v : Word) :
    let t := s.registerWrite (Reg.DX_PSTREAM_BASE c n) 8 v
    t = { s with shadow := t.shadow, cores := t.cores, regs := t.regs } ∧
      t.shadow = sins s.shadow (Reg.DX_PSTREAM_BASE c n) (v &&& 0xFFFFFFFFFFFF) ∧ (∀ d, t.core d = s.core d) ∧ ∀ off, t.reg off = s.reg off := by
  rw [State.registerWrite_pstream hc hn alive here]
  have same := State.readsSame_cancelPrefetch (s := s.setShadow (Reg.DX_PSTREAM_BASE c n) (v &&& 0xFFFFFFFFFFFF)) (c := c)
    (fun f => f.shadowBase && f.d.persistent && f.d.pnum == n) none
  generalize State.cancelPrefetch _ c _ = t at same
  obtain ⟨frame, core, reg⟩ := same
  generalize Reg.DX_PSTREAM_BASE c n = off at *
  exact ⟨by rw [frame]; rfl, by rw [frame]; rfl, core, reg⟩

/-- MERGE_ENTRY_RETIRE after a clean read: R156. -/
theorem mergeEntryRetire_clean {s : State} {core : CoreId} {bank : BitVec 6} {e : MergeEntry} (sturdy : (s.core core.toNat).Sturdy)
    (found : (s.core core.toNat).merge.find? (fun e => bankOf (8 * e.word) == bank.toNat) = some e) :
    ∃ t, exec (.mergeEntryRetire core bank .clean) s = .next t ∧ t = { s with mem := t.mem, cores := t.cores } ∧
      (∀ d, d ≠ core.toNat → t.core d = s.core d) ∧
      t.core core.toNat = { s.core core.toNat with merge := (s.core core.toNat).merge.filter (fun x => x.word != e.word) } ∧
      (∀ a, t.sramByte core.toNat a = s.sramByte core.toNat a) ∧
      ∀ a, a < sramBase core.toNat + 8 * e.word ∨ sramBase core.toNat + 8 * e.word + 8 ≤ a → memByte t.mem a = memByte s.mem a := by
  have done := State.mergeRetire_clean sturdy found
  refine ⟨_, rfl, ?_, done.other, done.core, fun a => State.sramByte_retired rfl (merge_find_word found) done a, fun a out => ?_⟩
  · rw [done.frame]
  · rw [done.frame]
    exact memByte_put_out _ _ _ _ (by rw [e.length_merged (length_memBytes _ _ _)]; exact out)

/-- A word's first corrected error, and its word rewritten: what is left of the state, and the registers (R154). -/
theorem State.Counts1.rewrites {s u t : State} {c w : Nat} {m : List Host.Cell} {k : Core} (counted : s.Counts1 u c w) (done : u.Rewrites t c m k) :
    t = { s with mem := t.mem, cores := t.cores, regs := t.regs } ∧ t.reg (Reg.SRAM_CE_COUNT c) = s.reg (Reg.SRAM_CE_COUNT c) + 1 ∧
      ∀ off, off ≠ Reg.SRAM_CE_COUNT c → t.reg off = s.reg off := by
  have regs : t.regs = u.regs := by rw [done.frame]
  refine ⟨?_, (State.reg_of_regs regs _).trans counted.count, fun off h => (State.reg_of_regs regs off).trans (counted.others off h)⟩
  rw [done.frame, counted.frame]

/-- MERGE_ENTRY_RETIRE after the word's first corrected error: R154, R156. -/
theorem mergeEntryRetire_corrected {s : State} {core : CoreId} {bank : BitVec 6} {e : MergeEntry} (sturdy : (s.core core.toNat).Sturdy)
    (found : (s.core core.toNat).merge.find? (fun e => bankOf (8 * e.word) == bank.toNat) = some e)
    (first : setHas (s.core core.toNat).ceOnce e.word = false) :
    ∃ t, exec (.mergeEntryRetire core bank .corrected) s = .next t ∧ t = { s with mem := t.mem, cores := t.cores, regs := t.regs } ∧
      t.reg (Reg.SRAM_CE_COUNT core.toNat) = s.reg (Reg.SRAM_CE_COUNT core.toNat) + 1 ∧
      (∀ off, off ≠ Reg.SRAM_CE_COUNT core.toNat → t.reg off = s.reg off) ∧
      t.core core.toNat = { s.core core.toNat with merge := (s.core core.toNat).merge.filter (fun x => x.word != e.word)
                                                   ceOnce := setAdd (s.core core.toNat).ceOnce e.word } ∧
      ∀ a, t.sramByte core.toNat a = s.sramByte core.toNat a := by
  obtain ⟨u, counted, done⟩ := State.mergeRetire_corrected sturdy found first
  obtain ⟨frame, count, others⟩ := counted.rewrites done
  have merge : (u.core core.toNat).merge = (s.core core.toNat).merge := by rw [counted.core]
  have umem : u.mem = s.mem := by rw [counted.frame]
  refine ⟨_, rfl, frame, count, others, ?_, fun a => ?_⟩
  · rw [done.core, counted.core]
  · have found' : (u.core core.toNat).merge.find? (fun x => x.word == e.word) = some e := by rw [merge, merge_find_word found]
    rw [← umem] at done
    rw [State.sramByte_retired rfl found' done a]
    unfold State.sramByte
    rw [merge, umem]

/-- SRAM_CE_WRITEBACK after the word's first corrected error: R154. -/
theorem sramCeWriteback_corrected {s : State} {core : CoreId} {o : BitVec 25} (sturdy : (s.core core.toNat).Sturdy)
    (valid : setHas s.valid ((sramBase core.toNat + 8 * (o.toNat / 8)) / 64) = true) (first : setHas (s.core core.toNat).ceOnce (o.toNat / 8) = false) :
    ∃ t, exec (.sramCeWriteback (.core core o) .corrected) s = .next t ∧ t = { s with mem := t.mem, cores := t.cores, regs := t.regs } ∧
      t.reg (Reg.SRAM_CE_COUNT core.toNat) = s.reg (Reg.SRAM_CE_COUNT core.toNat) + 1 ∧
      (∀ off, off ≠ Reg.SRAM_CE_COUNT core.toNat → t.reg off = s.reg off) ∧
      t.core core.toNat = { s.core core.toNat with ceOnce := setAdd (s.core core.toNat).ceOnce (o.toNat / 8) } ∧ ∀ a, memByte t.mem a = memByte s.mem a := by
  obtain ⟨u, counted, done⟩ := State.ceWriteback_corrected sturdy valid first
  obtain ⟨frame, count, others⟩ := counted.rewrites done
  refine ⟨_, rfl, frame, count, others, done.core.trans counted.core, fun a => ?_⟩
  rw [show (s.ceWriteback core.toNat o.toNat .corrected).mem = _ by rw [done.frame], memByte_put_same]

/-- Settles O13: a stopped core's first report is recorded by its sequencer, the arming writes wait in shadows, and the SRAM's repairs rewrite what a
read of the word returns. -/
theorem coreEventsAreRecorded : Obligations.CoreEventsAreRecorded := by
  unfold Obligations.CoreEventsAreRecorded
  refine ⟨?stall, ?arming, ?repairs⟩
  case stall =>
    intro s core h c k here run held units queue busy streams lace txns colls
    have stopped := State.stopped_nop run held units queue busy streams lace txns colls
    refine ⟨fun first => ⟨s.stallDetect c, rfl, State.stallDetect_spec here stopped first⟩, fun again => ?_⟩
    have idle : s.stallDetect c = s := by
      unfold State.stallDetect
      rw [if_neg (by simp [again, k])]
    exact congrArg Host.Outcome.next idle
  case arming =>
    intro s core v alive here c
    have hc : c < 32 := core.isLt
    refine ⟨congrArg Host.Outcome.next (arm_mxTest.registerWrite (by decide) hc alive here (by decide) v),
      congrArg Host.Outcome.next (arm_vxTest.registerWrite (by decide) hc alive here (by decide) v),
      congrArg Host.Outcome.next (arm_clipCtl.registerWrite (by decide) hc alive here (by decide) v),
      congrArg Host.Outcome.next (arm_sramCtl.registerWrite (by decide) hc alive here (by decide) v), fun g hg => ?_, fun g => ?_, fun none n => ?_⟩
    · have apart : ∀ g < 6, ∀ n < 8, Reg.DX_PSTREAM_BASE 0 n ≠ coreWin 0 + (0x70080 + g * 8) := by decide
      have off : Reg.SRAM_FLIP c g.toNat = coreWin c + (0x70080 + g.toNat * 8) := Nat.add_assoc _ _ _
      rw [off, ← (arm_sramFlip g.toNat hg).registerWrite (apart g.toNat hg) hc alive here (by decide) v, ← off]
      rfl
    · have alone : s.registerWrite (Reg.HUB_SRAM_FLIP 0) 8 v = s.setShadow (Reg.HUB_SRAM_FLIP 0) (v &&& 0x1FF) := by
        rw [(hubFlip_plain s v).registerWrite alive (by decide), State.writePlain_shadow regInfo_hubFlip (by decide) (by decide),
          State.writeShadow_free v (by decide) (by decide)]
        rfl
      exact congrArg Host.Outcome.next alone
    · exact ⟨_, rfl, State.registerWrite_pstream_lands hc n.isLt alive here none v⟩
  case repairs =>
    intro s core c k flipped pending lost
    have sturdy : (s.core core.toNat).Sturdy := ⟨flipped, pending, lost⟩
    exact ⟨fun bank e found => ⟨mergeEntryRetire_clean sturdy found, mergeEntryRetire_corrected sturdy found⟩,
      fun o valid first => sramCeWriteback_corrected sturdy valid first⟩

end Sys2Proof.Machine
end

/-! ## Admin commands and what their fetch leaves (R345, R346, R364 to R367) -/

section

namespace Sys2Proof.Machine

open Sys2Proof

/-! ### What fetching a command touches (R346, R412) -/

theorem State.HostOnly.refl (s : State) : s.HostOnly s := rfl

theorem State.HostOnly.trans {s t u : State} (a : s.HostOnly t) (b : t.HostOnly u) : s.HostOnly u := by
  unfold State.HostOnly at a b ⊢
  rw [a] at b
  exact b

theorem State.Recorded.hostOnly {s t : State} (h : s.Recorded t) : s.HostOnly t := by
  unfold State.HostOnly
  rw [h]

theorem State.hostOnly_complete (s : State) (n : NHdr) (sct sc d0 d1 : Nat) (data : List Byte) : s.HostOnly (s.complete n sct sc d0 d1 data) := rfl

theorem State.hostOnly_modCtrl (s : State) (k : Nat) (f : Ctrl → Ctrl) : s.HostOnly (s.modCtrl k f) := rfl

/-- Recording moves of the host's state the events, the requests and what has been posted, and nothing else. -/
theorem State.Recorded.host {s t : State} (h : s.Recorded t) :
    t.host = { s.host with raised := t.host.raised, queuedEv := t.host.queuedEv, ctrls := t.host.ctrls, out := t.host.out } := by
  rw [h]

theorem State.host_wakeHeld (s : State) : s.wakeHeld.host = s.host := by
  unfold State.wakeHeld
  split
  · refine each_keeps (P := fun t => t.host = s.host) (fun n t ht => ?_) _ rfl
    split
    · exact ht
    · exact ht
  · rfl

theorem State.host_fire (s : State) (n : Nat) : (s.fire n).host = s.host := by
  unfold State.fire State.setLevel State.setPend
  dsimp only
  split
  · split
    · rw [State.host_wakeHeld, State.setBit_host, State.setBit_host]
    · rw [State.setBit_host]
  · rfl

theorem State.host_capture (s : State) (u : FaultUnit) (b extra addr seq : Nat) : (s.capture u b extra addr seq).host = s.host := by
  unfold State.capture
  split
  · rw [State.setReg_host]
  · split <;> simp only [State.setReg_host]

theorem State.host_raiseEvent {s t : State} (h : t.host = s.host) (e : Nat) : (t.raiseEvent e).host = (s.raiseEvent e).host := by
  unfold State.raiseEvent
  rw [h]
  split
  · exact h
  · rfl

theorem State.host_setFault (s : State) (u : FaultUnit) (b extra addr seq : Nat) : (s.setFault u b extra addr seq).host = (s.raiseEvent 0xC3).host := by
  unfold State.setFault
  dsimp only
  refine State.host_raiseEvent ?_ 0xC3
  rw [State.setBit_host]
  split <;> split
  · rw [State.host_capture, State.setReg_host]
  · rw [State.setReg_host]
  · rw [State.host_capture]
  · rfl

/-- A source that deasserts drops a firing not yet delivered, which the daybook block records (R411); else the host sees nothing. -/
theorem State.host_unfire {s : State} {n : Nat} : (s.unfire n).host = if s.srcPend n then (s.raiseEvent 0xC3).host else s.host := by
  have pend : (s.setLevel n false).srcPend n = s.srcPend n := by
    unfold State.srcPend State.setLevel State.bit
    rw [State.reg_setBit_ne]
    unfold Reg.DBK_PEND Reg.DBK_LEVEL
    omega
  have level : (s.setLevel n false).host = s.host := State.setBit_host s _ _ _
  unfold State.unfire
  dsimp only
  rw [pend]
  split
  · rw [State.addReg_host, State.host_setFault]
    have both : ((s.setLevel n false).setPend n false).host = s.host := (State.setBit_host (s.setLevel n false) _ _ _).trans level
    generalize (s.setLevel n false).setPend n false = t at both
    have told (d : Daybook) : (({ t with daybook := d } : State).raiseEvent 0xC3).host = (s.raiseEvent 0xC3).host :=
      State.host_raiseEvent (t := { t with daybook := d }) both 0xC3
    exact told _
  · exact level

/-! ### Events told to the host (R364) -/

theorem sget_mapVal {α : Type} {d : α} {f : α → α} (hd : f d = d) (m : List (Nat × α)) (k : Nat) : sget d (m.map (fun e => (e.1, f e.2))) k = f (sget d m k) := by
  induction m with
  | nil => exact hd.symm
  | cons e r ih =>
    obtain ⟨j, v⟩ := e
    simp only [List.map_cons, sget]
    split
    · rfl
    · exact ih

/-- Events are posted after all that the host has had, and leave every controller's features. -/
theorem HostState.serveAer_tells (h : HostState) : (∃ a, h.serveAer.out = h.out ++ a) ∧ ∀ k, (sget {} h.serveAer.ctrls k).feats = (sget {} h.ctrls k).feats := by
  unfold HostState.serveAer
  split
  · exact ⟨⟨[], (List.append_nil _).symm⟩, fun _ => rfl⟩
  · dsimp only
    split
    · exact ⟨⟨[], (List.append_nil _).symm⟩, fun _ => rfl⟩
    · exact ⟨⟨_, rfl⟩, fun k => by rw [sget_mapVal (f := fun c : Ctrl => { c with aers := c.aers.tail }) rfl]⟩

theorem State.raiseEvent_tells (s : State) (e : Nat) :
    (∃ a, (s.raiseEvent e).host.out = s.host.out ++ a) ∧ ∀ k, ((s.raiseEvent e).ctrl k).feats = (s.ctrl k).feats := by
  unfold State.raiseEvent
  split
  · exact ⟨⟨[], (List.append_nil _).symm⟩, fun _ => rfl⟩
  · exact HostState.serveAer_tells _

/-- A register outside the faults and daybook blocks: the hub's blocks from 0x30000 to 0x4FFFF (R138). -/
def besideDaybook (off : Nat) : Prop := off < 0x30000 ∨ 0x50000 ≤ off

/-- What a command's fetch leaves of the state: the host's own, but for the events that recording a dropped firing posts and the queue's head; registers of
other blocks than the faults and daybook blocks. -/
structure State.Fetched (s u : State) (n : NHdr) : Prop where
  only  : s.HostOnly u
  host  : u.host = { s.host with raised := u.host.raised, queuedEv := u.host.queuedEv, ctrls := u.host.ctrls, out := u.host.out }
  out   : ∃ a, u.host.out = s.host.out ++ a
  feats : ∀ k, (u.ctrl k).feats = (s.ctrl k).feats
  regs  : ∀ off, besideDaybook off → u.reg off = s.reg off
  quiet : s.srcPend (64 + portOf (nctrl n)) = false →
    u.host = { s.host with ctrls := u.host.ctrls } ∧ ∀ k, (u.ctrl k).aers = (s.ctrl k).aers

theorem besideDaybook.apart {off : Nat} (h : besideDaybook off) :
    off ≠ Reg.FAULT_FIRST ∧ ¬ FaultUnit.dbk.records off ∧ ¬ daybookReg off ∧ off ≠ Reg.DBK_VIOL_COUNT := by
  unfold besideDaybook at h
  simp only [FaultUnit.records, FaultUnit.cap, FaultUnit.addr, FaultUnit.reg, reduceCtorEq, or_false, daybookReg, Reg.FAULT_FIRST, Reg.DBK_FAULT, Reg.DBK_PEND,
    Reg.DBK_LEVEL, Reg.DBK_STW, Reg.DBK_VIOL_COUNT]
  refine ⟨?_, ?_, ?_, ?_⟩ <;> omega

theorem State.reg_unfire {s : State} {n off : Nat} (hn : n < 512) (h : besideDaybook off) : (s.unfire n).reg off = s.reg off := by
  obtain ⟨first, records, daybook, count⟩ := h.apart
  have level : off ≠ Reg.DBK_LEVEL (n / 64) := fun e => daybook ⟨n / 64, by omega, .inr (.inl e)⟩
  have pend : off ≠ Reg.DBK_PEND (n / 64) := fun e => daybook ⟨n / 64, by omega, .inl e⟩
  have levelled : (s.setLevel n false).reg off = s.reg off := by
    unfold State.setLevel
    exact State.reg_setBit_ne s level _ _
  have pended : ((s.setLevel n false).setPend n false).reg off = s.reg off := by
    unfold State.setPend
    exact (State.reg_setBit_ne _ pend _ _).trans levelled
  unfold State.unfire
  dsimp only
  split
  · rw [State.reg_addReg_ne _ count, State.reg_setFault_ne _ _ _ _ _ _ first records]
    have same (t : State) (d : Daybook) : ({ t with daybook := d } : State).reg off = t.reg off := State.reg_of_regs (s := t) rfl off
    exact (same _ _).trans pended
  · exact levelled

/-- A port's source follows its queues: recorded, and the host is told at most of a firing dropped (R412). -/
theorem State.recorded_doorLevel (s : State) (p : Nat) : s.Recorded (s.doorLevel p) := by
  unfold State.doorLevel
  split
  · exact s.recorded_fire _
  · split
    · exact s.recorded_unfire _
    · exact State.Recorded.refl s

theorem State.reg_doorLevel {s : State} {p off : Nat} (hp : p < 448) (h : besideDaybook off) : (s.doorLevel p).reg off = s.reg off := by
  obtain ⟨-, -, daybook, -⟩ := h.apart
  unfold State.doorLevel
  split
  · exact State.reg_fire (by omega) daybook
  · split
    · exact State.reg_unfire (by omega) h
    · rfl

theorem State.host_doorLevel (s : State) (p : Nat) :
    (s.doorLevel p).host = s.host ∨ s.srcPend (64 + p) = true ∧ (s.doorLevel p).host = (s.raiseEvent 0xC3).host := by
  unfold State.doorLevel
  split
  · exact .inl (s.host_fire _)
  · split
    · rw [State.host_unfire]
      split
      next h => exact .inr ⟨h, rfl⟩
      next => exact .inl rfl
    · exact .inl rfl

/-- Moving a queue's head leaves a controller's features and requests. -/
theorem State.fetched_fetchFrom (s : State) (n : NHdr) : s.Fetched (s.fetchFrom n) n := by
  have port : portOf (nctrl n) < 448 := by
    have := n.ctrl.isLt
    unfold portOf nctrl
    omega
  unfold State.fetchFrom
  dsimp only
  generalize hv : s.modCtrl (nctrl n) _ = v
  have moved : v.host = { s.host with ctrls := v.host.ctrls } := by rw [← hv]; rfl
  have only : s.HostOnly v := by rw [← hv]; exact State.hostOnly_modCtrl s _ _
  have ctrl : ∀ k, (v.ctrl k).feats = (s.ctrl k).feats ∧ (v.ctrl k).aers = (s.ctrl k).aers := by
    intro k
    subst hv
    unfold State.modCtrl State.ctrl
    dsimp only
    by_cases e : k = nctrl n
    · rw [e, sget_sput_self]
      exact ⟨rfl, rfl⟩
    · rw [sget_sput_ne _ _ _ _ e]
      exact ⟨rfl, rfl⟩
  have reg : ∀ off, v.reg off = s.reg off := by
    intro off
    rw [← hv, State.reg_modCtrl]
  have pend : v.srcPend (64 + portOf (nctrl n)) = s.srcPend (64 + portOf (nctrl n)) := by
    unfold State.srcPend State.bit
    rw [reg]
  have recorded := v.recorded_doorLevel (portOf (nctrl n))
  have out : v.host.out = s.host.out := by rw [moved]
  refine ⟨only.trans recorded.hostOnly, ?_, ?_, fun k => ?_, fun off h => (State.reg_doorLevel port h).trans (reg off), fun quiet => ?_⟩
  · rw [recorded.host, moved]
  · rcases v.host_doorLevel (portOf (nctrl n)) with h | ⟨-, h⟩
    · exact ⟨[], by rw [h, out, List.append_nil]⟩
    · rw [h, ← out]
      exact (v.raiseEvent_tells 0xC3).1
  · rw [← (ctrl k).1]
    rcases v.host_doorLevel (portOf (nctrl n)) with h | ⟨-, h⟩
    · unfold State.ctrl
      rw [h]
    · unfold State.ctrl
      rw [h]
      exact (v.raiseEvent_tells 0xC3).2 k
  · rcases v.host_doorLevel (portOf (nctrl n)) with h | ⟨h, -⟩
    · refine ⟨by rw [h, moved], fun k => ?_⟩
      rw [← (ctrl k).2]
      unfold State.ctrl
      rw [h]
    · rw [pend, quiet] at h
      cases h

/-! ### Commands that name no name space (R345, R346, R367) -/

section Accepted

variable {s u : State} {n : NHdr}

theorem State.Fetched.vfPart (f : s.Fetched u n) (k : Nat) : u.vfPart k = s.vfPart k := by
  have same : u.reg (Reg.SCHED_VFMAP ((k / 65 * 64 + k % 65 - 1) / 8)) = s.reg (Reg.SCHED_VFMAP ((k / 65 * 64 + k % 65 - 1) / 8)) :=
    f.regs _ (.inr (by unfold Reg.SCHED_VFMAP; omega))
  unfold State.vfPart State.bit State.fld
  dsimp only
  rw [same]

/-- A command that names no name space and waits for nothing has its effect on the state after its fetch. -/
theorem State.Accepts.hostCmd {i : Instr} (a : s.Accepts n i) (ns : ioNs i = []) (reins : ∀ t : State, t.reinsPass n i = true)
    (moves : ∀ t : State, t.blocksWait i = false) : s.hostCmd n i = (s.fetchFrom n).hostEffect i := by
  have f := s.fetched_fetchFrom n
  generalize hu : s.fetchFrom n = u at f
  have phase : u.host.psPhase = .operational := by rw [f.host]; exact a.phase
  have clean : u.host.sanitizing = false := by rw [f.host]; exact a.clean
  have bound : (!isAdmin n && !physCtrl (nctrl n) && (u.vfPart (nctrl n)).isNone) = false := by
    have bools : ∀ admin phys bound : Bool, (admin || phys || bound) = true → (!admin && !phys && !bound) = false := by decide
    rw [f.vfPart, ← Option.not_isSome]
    exact bools _ _ _ a.bound
  have queue : (!anyQueue i && isAdmin n != adminCmd i) = false := by
    have bools : ∀ any admin cmd : Bool, (any || admin == cmd) = true → (!any && admin != cmd) = false := by decide
    exact bools _ _ _ a.queue
  unfold State.hostCmd
  rw [if_pos a.fetch, hu]
  unfold State.acceptCmd
  rw [queue, phase]
  unfold State.admitCmd
  rw [clean, bound, ns]
  unfold State.effectOr
  rw [reins, moves]
  rfl

theorem State.Accepts.exec_eq {i : Instr} (a : s.Accepts n i) (command : exec i s = .next (s.hostCmd n i)) (ns : ioNs i = [])
    (reins : ∀ t : State, t.reinsPass n i = true) (moves : ∀ t : State, t.blocksWait i = false) : exec i s = .next ((s.fetchFrom n).hostEffect i) := by
  rw [command, a.hostCmd ns reins moves]

/-- What is posted after the fetch is posted after all that the host has had. -/
theorem State.Fetched.posted (f : s.Fetched u n) {t : State} {x : Completion} (out : t.host.out = u.host.out ++ [x]) : s.Posted t x := by
  obtain ⟨a, h⟩ := f.out
  exact ⟨a, [], by rw [out, h]⟩

theorem State.Fetched.complete (f : s.Fetched u n) (m : NHdr) (sct sc d0 d1 : Nat) (data : List Byte) :
    s.HostOnly (u.complete m sct sc d0 d1 data) ∧ s.Posted (u.complete m sct sc d0 d1 data) ⟨m, sct, sc, d0, d1, data⟩ :=
  ⟨f.only.trans (State.hostOnly_complete u m sct sc d0 d1 data), f.posted rfl⟩

end Accepted

/-! ### Identify Controller (R3, R345) -/

/-- An overlay within a page keeps the page's length. -/
theorem length_overlay {l e : List Byte} {i n : Nat} (hl : l.length = n) (h : i + e.length ≤ n) : (l.take i ++ e ++ l.drop (i + e.length)).length = n := by
  simp
  omega

theorem take_overlay {l e r : List Byte} {i m : Nat} (hl : i ≤ l.length) (h : m ≤ i) : (l.take i ++ e ++ r).take m = l.take m := by
  rw [List.append_assoc, List.take_append_of_le_length (by simp; omega), List.take_take, Nat.min_eq_left h]

/-- A page overlaid within its length: as long as it was. -/
theorem length_overlays {known : List (Nat × List Byte)} {l : List Byte} (h : ∀ e ∈ known, e.1 + e.2.length ≤ l.length) :
    (known.foldl (fun l (e : Nat × List Byte) => l.take e.1 ++ e.2 ++ l.drop (e.1 + e.2.length)) l).length = l.length := by
  induction known generalizing l with
  | nil => rfl
  | cons e r ih =>
    have len := length_overlay rfl (h e List.mem_cons_self)
    rw [List.foldl_cons, ih (fun x hx => by rw [len]; exact h x (List.mem_cons_of_mem _ hx)), len]

/-- Overlays from byte `m` on leave the bytes before it. -/
theorem take_overlays {known : List (Nat × List Byte)} {l : List Byte} {m : Nat} (h : ∀ e ∈ known, e.1 + e.2.length ≤ l.length) (from_ : ∀ e ∈ known, m ≤ e.1) :
    (known.foldl (fun l (e : Nat × List Byte) => l.take e.1 ++ e.2 ++ l.drop (e.1 + e.2.length)) l).take m = l.take m := by
  induction known generalizing l with
  | nil => rfl
  | cons e r ih =>
    have fits := h e List.mem_cons_self
    have len := length_overlay rfl fits
    rw [List.foldl_cons, ih (fun x hx => by rw [len]; exact h x (List.mem_cons_of_mem _ hx)) (fun x hx => from_ x (List.mem_cons_of_mem _ hx)),
      take_overlay (by omega) (from_ e List.mem_cons_self)]

theorem length_nvmePage {page n : Nat} {known : List (Nat × List Byte)} (h : ∀ e ∈ known, e.1 + e.2.length ≤ n) : (nvmePage page n known).length = n := by
  have len : ((List.range n).map (Config.nvmeByte page)).length = n := by simp
  unfold nvmePage
  rw [length_overlays (by rw [len]; exact h), len]

/-- What the first overlay of a page puts there stays, where the others come after it. -/
theorem nvmePage_first {page n i : Nat} {e : List Byte} {known : List (Nat × List Byte)} (fits : i + e.length ≤ n) (h : ∀ x ∈ known, x.1 + x.2.length ≤ n)
    (after : ∀ x ∈ known, i + e.length ≤ x.1) : ((nvmePage page n ((i, e) :: known)).drop i).take e.length = e := by
  have len : ((List.range n).map (Config.nvmeByte page)).length = n := by simp
  unfold nvmePage
  generalize (List.range n).map (Config.nvmeByte page) = l at len
  have first := length_overlay len fits
  have size : (l.take i).length = i := by simp; omega
  rw [List.take_drop, List.foldl_cons, take_overlays (by rw [first]; exact h) after]
  dsimp only
  rw [List.append_assoc, ← List.take_drop, List.drop_append_of_le_length (by omega), List.drop_of_length_le (by omega), List.nil_append, List.take_left]

theorem length_fitTo {α : Type} (n : Nat) (x : α) (l : List α) : (fitTo n x l).length = n := by
  unfold fitTo
  simp
  omega

theorem State.length_fwRev (s : State) (k : Nat) : (s.fwRev k).length = 8 := by
  unfold State.fwRev
  split
  · split
    · rw [List.length_map, List.length_range]
    · exact length_fitTo 8 _ _
  · rw [List.length_replicate]

theorem length_leBytes (n v : Nat) : (leBytes n v).length = n := by
  induction n generalizing v with
  | zero => rfl
  | succ n ih => rw [leBytes, List.length_cons, ih]

theorem State.identCtrl_fits (s : State) (k : Nat) : ∀ e ∈ [(64, s.fwRev s.guard.running), (77, [9]), (78, leBytes 2 k), (80, leBytes 4 0x00020100),
    (258, [7]), (259, [15]), (262, [63]), (263, [4]), (265, [1]), (516, leBytes 4 256), (525, [(0 : Byte)])], e.1 + e.2.length ≤ 4096 ∧ 64 ≤ e.1 := by
  simp [State.length_fwRev, length_leBytes]

theorem State.length_identCtrl (s : State) (k : Nat) : (s.identCtrl k).length = 4096 := by
  refine length_nvmePage fun e he => ?_
  rcases List.mem_cons.1 he with rfl | he
  · have pad : (padText 40 s.gradeName).length = 40 := length_fitTo _ _ _
    dsimp only
    omega
  · exact (s.identCtrl_fits k e he).1

/-- The model number begins with the grade's name: R3. -/
theorem State.identCtrl_name (s : State) (k : Nat) : ((s.identCtrl k).drop 24).take 10 = s.gradeName := by
  have pad : (padText 40 s.gradeName).length = 40 := length_fitTo _ _ _
  have name : s.gradeName.length = 10 := rfl
  have model : ((s.identCtrl k).drop 24).take 40 = padText 40 s.gradeName := by
    have := nvmePage_first (page := 0x101) (n := 4096) (i := 24) (e := padText 40 s.gradeName) (by rw [pad]; decide)
      (fun e he => (s.identCtrl_fits k e he).1) (fun e he => by rw [pad]; exact (s.identCtrl_fits k e he).2)
    rwa [pad] at this
  calc ((s.identCtrl k).drop 24).take 10 = (((s.identCtrl k).drop 24).take 40).take 10 := by rw [List.take_take]; rfl
    _ = s.gradeName := by
      rw [model, padText, fitTo, List.take_take, List.take_append_of_le_length (by rw [name]; decide), List.take_of_length_le (by rw [name]; decide)]

/-! ### Log pages (R333 to R337, R345, R366) -/

/-- What the log pages but that of the fault registers are made of. -/
structure State.SameLogs (s t : State) : Prop where
  guard : t.guard = s.guard
  fuse  : t.fuse = s.fuse
  media : t.media = s.media
  power : t.power = s.power
  free  : t.free = s.free
  host  : t.host = { s.host with raised := t.host.raised, queuedEv := t.host.queuedEv, ctrls := t.host.ctrls, out := t.host.out }
  regs  : ∀ off, besideDaybook off → t.reg off = s.reg off

theorem State.Fetched.sameLogs {s u : State} {n : NHdr} (f : s.Fetched u n) : s.SameLogs u := by
  have only := f.only
  refine ⟨?_, ?_, ?_, ?_, ?_, f.host, f.regs⟩ <;> rw [only]

section Logs

variable {s t : State} (h : s.SameLogs t)

include h

theorem State.SameLogs.stamp : t.host.stamp = s.host.stamp := by rw [h.host]

theorem State.SameLogs.fwRev (k : Nat) : t.fwRev k = s.fwRev k := by
  unfold State.fwRev State.fwPkg
  rw [h.guard]

theorem State.SameLogs.identCtrl (k : Nat) : t.identCtrl k = s.identCtrl k := by
  unfold State.identCtrl State.gradeName
  rw [h.fwRev, h.guard, h.fuse]

theorem State.SameLogs.smartPage : t.smartPage = s.smartPage := by
  have spare := h.regs Reg.MEDIA_SPARE (.inr (by decide))
  have life := h.regs Reg.MEDIA_LIFE (.inr (by decide))
  have temp := h.regs Reg.PWR_TEMP (.inl (by decide))
  have therm := h.regs Reg.PWR_THERM_CTL (.inl (by decide))
  unfold State.smartPage State.criticalWarning State.availableSpare State.madeGood State.tooHot State.mediaRo State.fld State.bit
  rw [spare, life, temp, therm, h.fuse, h.media, h.power]

theorem State.SameLogs.diePage : t.diePage = s.diePage := by
  have at_ : t.freeAt = s.freeAt := by
    funext i
    unfold State.freeAt
    rw [h.free]
  have entry : t.dieEntry = s.dieEntry := by
    funext d
    unfold State.dieEntry State.die State.dieBlks
    rw [h.media, h.fuse, at_]
  unfold State.diePage State.freeGen
  rw [h.stamp, entry, at_]

theorem State.SameLogs.chanPage : t.chanPage = s.chanPage := by
  have at_ : t.freeAt = s.freeAt := by
    funext i
    unfold State.freeAt
    rw [h.free]
  have entry : t.chanEntry = s.chanEntry := by
    funext d
    unfold State.chanEntry State.chan State.die
    rw [h.media, at_]
  unfold State.chanPage State.freeGen
  rw [h.stamp, entry, at_]

theorem State.SameLogs.lostPage : t.lostPage = s.lostPage := by
  unfold State.lostPage
  rw [h.host]

theorem State.SameLogs.persistPage : t.persistPage = s.persistPage := by
  unfold State.persistPage
  rw [h.host]

/-- Every log page but that of the fault registers. -/
theorem State.SameLogs.logPage {lid : Nat} (faults : lid ≠ 0xD3) : t.logPage lid = s.logPage lid := by
  have sanitizing : t.host.sanitizing = s.host.sanitizing := by rw [h.host]
  have sanitized : t.host.sanitized = s.host.sanitized := by rw [h.host]
  unfold State.logPage
  rw [if_neg faults, if_neg faults, h.smartPage, h.diePage, h.chanPage, h.lostPage, h.persistPage, h.fwRev, h.fwRev, h.guard, sanitizing, sanitized]

end Logs

/-! ### What each command does once it is fetched -/

theorem shadowOf_setShadow_self (s : State) (off : Nat) (v : Word) : (s.setShadow off v).shadowOf off = v := by
  have found : ∀ m : List (Nat × Word), (sins m off v).find? (fun e => e.1 == off) = some (off, v) := by
    intro m
    induction m with
    | nil => simp [sins]
    | cons e r ih =>
      obtain ⟨j, w⟩ := e
      simp only [sins]
      split
      · simp
      · split
        · simp
        · rename_i ne
          simp [ne, ih]
  unfold State.shadowOf State.setShadow
  rw [found]

theorem HostState.serveAer_nil {h : HostState} (none : h.queuedEv = []) : h.serveAer = h := by
  unfold HostState.serveAer
  rw [none]

theorem State.ctrl_modCtrl_self (s : State) (k : Nat) (f : Ctrl → Ctrl) : (s.modCtrl k f).ctrl k = f (s.ctrl k) := sget_sput_self _ _ _ _

section Effects

variable {s u : State} {n : NHdr} (f : s.Fetched u n)

include f

theorem State.Fetched.identifyController (ns : BitVec 32) : s.HostOnly (u.identify n 1 ns) ∧ s.Posted (u.identify n 1 ns) ⟨n, 0, 0, 0, 0, s.identCtrl (nctrl n)⟩ := by
  rw [← f.sameLogs.identCtrl]
  exact f.complete n 0 0 0 0 _

theorem State.Fetched.identifyBeyond {cns : Nat} (ns : BitVec 32) (above : 0x1F < cns) :
    s.HostOnly (u.identify n cns ns) ∧ s.Posted (u.identify n cns ns) ⟨n, 0, 2, 0, 0, []⟩ := by
  unfold State.identify
  repeat rw [if_neg (by omega)]
  exact f.complete n 0 2 0 0 []

/-- A read of log page 0xD2 takes entries away and nothing else. -/
theorem State.Fetched.getLog (lid : Nat) (rae : Bool) (off len : Nat) :
    (s.logPage lid = none → s.Posted (u.getLog n lid rae off len) ⟨n, 1, 9, 0, 0, []⟩) ∧
    (lid ≠ 0xD3 → ∀ p, s.logPage lid = some p → off ≤ p.length → s.Posted (u.getLog n lid rae off len) ⟨n, 0, 0, 0, 0, (p.drop off).take len⟩ ∧
      (rae = false → ∀ e, eventPage e = lid → setHas (u.getLog n lid rae off len).host.raised e = false)) := by
  have taken : ∀ (t : State) (lo hi : Nat), (t.takeLost lo hi).host.out = t.host.out ∧ (t.takeLost lo hi).host.raised = t.host.raised := by
    intro t lo hi
    unfold State.takeLost
    dsimp only
    split <;> exact ⟨rfl, rfl⟩
  have rearmed : ∀ (l : NatSet) (e : Nat), eventPage e = lid → setHas (l.filter (fun e => eventPage e != lid)) e = false := by
    intro l e page
    rw [Bool.eq_false_iff]
    intro has
    have := (List.mem_filter.1 ((setHas_iff _ _).1 has)).2
    simp [page] at this
  refine ⟨fun none => ?_, fun faults p page inside => ?_⟩
  · have faults : lid ≠ 0xD3 := by
      rintro rfl
      cases none
    unfold State.getLog
    rw [f.sameLogs.logPage faults, none]
    exact (f.complete n 1 9 0 0 []).2
  · unfold State.getLog
    rw [f.sameLogs.logPage faults, page]
    dsimp only
    rw [if_neg (Nat.not_lt.2 inside)]
    cases rae with
    | true => exact ⟨f.posted rfl, nofun⟩
    | false =>
      rw [if_neg Bool.false_ne_true]
      split
      · refine ⟨f.posted (taken _ _ _).1, fun _ e he => ?_⟩
        rw [(taken _ _ _).2]
        exact rearmed _ e he
      · exact ⟨f.posted rfl, fun _ e he => rearmed _ e he⟩

theorem State.Fetched.eventRequest :
    s.HostOnly (u.eventRequest n) ∧
    (16 ≤ (s.ctrl (nctrl n)).aers.length → s.srcPend (64 + portOf (nctrl n)) = false → s.Posted (u.eventRequest n) ⟨n, 1, 5, 0, 0, []⟩) ∧
    ((s.ctrl (nctrl n)).aers.length < 16 → s.srcPend (64 + portOf (nctrl n)) = false → s.host.queuedEv = [] →
      ((u.eventRequest n).ctrl (nctrl n)).aers = (s.ctrl (nctrl n)).aers ++ [n.cid] ∧ (u.eventRequest n).host.out = s.host.out) := by
  unfold State.eventRequest
  refine ⟨?_, fun full pend => ?_, fun room pend none => ?_⟩
  · split
    · exact (f.complete n 1 5 0 0 []).1
    · exact f.only.trans ((State.hostOnly_modCtrl u _ _).trans rfl)
  · obtain ⟨-, aers⟩ := f.quiet pend
    rw [if_pos (by rw [aers]; exact full)]
    exact (f.complete n 1 5 0 0 []).2
  · obtain ⟨host, aers⟩ := f.quiet pend
    rw [if_neg (by rw [aers]; omega)]
    dsimp only
    have events : u.host.queuedEv = [] := by rw [host, ← none]
    generalize hv : u.modCtrl (nctrl n) _ = v
    have vevents : v.host.queuedEv = [] := by rw [← hv]; exact events
    rw [HostState.serveAer_nil vevents]
    refine ⟨?_, ?_⟩
    · show (v.ctrl (nctrl n)).aers = _
      rw [← hv, State.ctrl_modCtrl_self, aers]
    · show v.host.out = _
      rw [← hv]
      show u.host.out = _
      rw [host]

theorem State.Fetched.getFeatures (fid : Nat) :
    s.HostOnly (u.getFeatures n fid) ∧
    (fid ∉ featureIds → s.Posted (u.getFeatures n fid) ⟨n, 0, 2, 0, 0, []⟩) ∧
    (fid ∈ featureIds → fid ≠ 2 → fid ≠ 7 → fid ≠ 0xE →
      s.Posted (u.getFeatures n fid) ⟨n, 0, 0, (sget (0 : BitVec 32) (s.ctrl (nctrl n)).feats fid).toNat, 0, []⟩) ∧
    (fid = 2 → s.Posted (u.getFeatures n fid) ⟨n, 0, 0, s.host.ps, 0, []⟩) ∧
    (fid = 7 → s.Posted (u.getFeatures n fid) ⟨n, 0, 0, 511 + 511 * 65536, 0, []⟩) ∧
    (fid = 0xE → s.Posted (u.getFeatures n fid) ⟨n, 0, 0, 0, 0, leBytes 6 s.host.stamp ++ [if s.host.origin then 2 else 0, 0]⟩) := by
  have ps : u.host.ps = s.host.ps := by rw [f.host]
  have stamp : u.host.stamp = s.host.stamp := by rw [f.host]
  have origin : u.host.origin = s.host.origin := by rw [f.host]
  unfold State.getFeatures
  rw [ps, stamp, origin, f.feats]
  refine ⟨?_, fun no => ?_, fun yes h2 h7 hE => ?_, ?_, ?_, ?_⟩
  · repeat' split
    all_goals exact (f.complete n _ _ _ _ _).1
  · rw [if_pos (by simpa using no)]
    exact (f.complete n 0 2 0 0 []).2
  · rw [if_neg (by simpa using yes), if_neg h2, if_neg h7, if_neg hE]
    exact (f.complete n 0 0 _ 0 []).2
  · rintro rfl
    exact (f.complete n 0 0 _ 0 []).2
  · rintro rfl
    exact (f.complete n 0 0 _ 0 []).2
  · rintro rfl
    exact (f.complete n 0 0 0 0 _).2

theorem State.Fetched.setFeatures (fid : Nat) (v : BitVec 32) :
    s.HostOnly (u.setFeatures n fid v) ∧
    (fid ∉ featureIds ∨ fid = 2 ∨ fid = 0xE → s.Posted (u.setFeatures n fid v) ⟨n, 0, 2, 0, 0, []⟩) ∧
    (fid ∈ featureIds → fid ≠ 2 → fid ≠ 0xE → sget (0 : BitVec 32) ((u.setFeatures n fid v).ctrl (nctrl n)).feats fid = v ∧
      s.Posted (u.setFeatures n fid v) ⟨n, 0, 0, if fid = 7 then 511 + 511 * 65536 else 0, 0, []⟩) := by
  unfold State.setFeatures
  refine ⟨?_, fun no => ?_, fun yes h2 hE => ?_⟩
  · split
    · exact (f.complete n 0 2 0 0 []).1
    · exact f.only.trans ((State.hostOnly_modCtrl u _ _).trans (State.hostOnly_complete _ n 0 0 _ 0 []))
  · rw [if_pos (by simpa [or_assoc] using no)]
    exact (f.complete n 0 2 0 0 []).2
  · rw [if_neg (by simp [yes, h2, hE])]
    refine ⟨?_, f.posted rfl⟩
    have posted : ∀ (t : State) (d : Nat), (t.ok n d).ctrl (nctrl n) = t.ctrl (nctrl n) := fun _ _ => rfl
    dsimp only
    rw [posted, State.ctrl_modCtrl_self]
    exact sget_sput_self _ _ _ _

theorem State.Fetched.setStamp (ms : Nat) : s.HostOnly (u.setStamp n ms) ∧ (u.setStamp n ms).host.stamp = ms ∧ (u.setStamp n ms).host.origin = true ∧
    s.Posted (u.setStamp n ms) ⟨n, 0, 0, 0, 0, []⟩ :=
  ⟨f.only.trans rfl, rfl, rfl, f.posted rfl⟩

theorem State.Fetched.selfTest (code : BitVec 4) : s.HostOnly (u.selfTest n code.toNat) ∧
    (if code = 1 then (u.selfTest n code.toNat).host.tests = s.host.tests + 1 ∧ s.Posted (u.selfTest n code.toNat) ⟨n, 0, 0, 0, 0, []⟩
      else if code = 15 then s.Posted (u.selfTest n code.toNat) ⟨n, 0, 0, 0, 0, []⟩ else s.Posted (u.selfTest n code.toNat) ⟨n, 0, 2, 0, 0, []⟩) := by
  have tests : u.host.tests = s.host.tests := by rw [f.host]
  by_cases one : code = 1
  · subst one
    exact ⟨f.only.trans rfl, congrArg (· + 1) tests, f.posted rfl⟩
  · by_cases last : code = 15
    · subst last
      exact f.complete n 0 0 0 0 []
    · have h1 : code.toNat ≠ 1 := fun e => one (BitVec.eq_of_toNat_eq e)
      have h15 : code.toNat ≠ 0xF := fun e => last (BitVec.eq_of_toNat_eq e)
      unfold State.selfTest
      rw [if_neg h1, if_neg h15, if_neg one, if_neg last]
      exact f.complete n 0 2 0 0 []

theorem State.Fetched.setPower (ps : BitVec 5) :
    (ps.toNat ≤ 2 → Machine.fld ((u.setPower n ps.toNat).shadowOf Reg.PWR_CAP) 0 10 = (if ps = 0 then 900 else if ps = 1 then 600 else 400) ∧
      (u.setPower n ps.toNat).host.ps = ps.toNat ∧ (u.setPower n ps.toNat).host.psWait = s.host.psWait ++ [n] ∧
      (u.setPower n ps.toNat).reg Reg.PWR_CAP = s.reg Reg.PWR_CAP) ∧
    (ps = 3 ∨ ps = 4 → (u.setPower n ps.toNat).host.psPhase = .entering ps.toNat ∧ s.Posted (u.setPower n ps.toNat) ⟨n, 0, 0, 0, 0, []⟩) ∧
    (4 < ps.toNat → s.Posted (u.setPower n ps.toNat) ⟨n, 0, 2, 0, 0, []⟩) := by
  have wait : u.host.psWait = s.host.psWait := by rw [f.host]
  refine ⟨fun low => ?_, fun deep => ?_, fun beyond => ?_⟩
  · have cap : psCap ps.toNat % 2 ^ 10 = if ps = 0 then 900 else if ps = 1 then 600 else 400 := by
      have : ∀ ps : BitVec 5, psCap ps.toNat % 2 ^ 10 = if ps = 0 then 900 else if ps = 1 then 600 else 400 := by decide
      exact this ps
    unfold State.setPower
    rw [if_neg (by omega), if_pos low]
    refine ⟨?_, rfl, ?_, f.regs _ (.inl (by decide))⟩
    · have shadow : ∀ (t : State) (h : HostState), ({ t with host := h } : State).shadowOf Reg.PWR_CAP = t.shadowOf Reg.PWR_CAP := fun _ _ => rfl
      rw [shadow, shadowOf_setShadow_self, fld_setFld_self _ _ _ _ (by decide), cap]
    · show u.host.psWait ++ [n] = _
      rw [wait]
  · rcases deep with rfl | rfl <;> exact ⟨rfl, f.posted rfl⟩
  · unfold State.setPower
    rw [if_pos beyond]
    exact (f.complete n 0 2 0 0 []).2

end Effects

/-- Settles O35: each command has its effect on the state after its fetch, and what it answers is of what the fetch leaves. -/
theorem adminCommandsAnswer : Obligations.AdminCommandsAnswer := by
  unfold Obligations.AdminCommandsAnswer
  intro s n
  have f := s.fetched_fetchFrom n
  have go {i : Instr} (a : s.Accepts n i) := a.exec_eq
  generalize s.fetchFrom n = u at f go
  have differ {w : Nat} {x y : BitVec w} (h : x ≠ y) : x.toNat ≠ y.toNat := fun e => h (BitVec.eq_of_toNat_eq e)
  refine ⟨?identifyController, ?identifyBeyond, ?getFeatures, ?setFeatures, ?timestamp, ?getLogPage, ?eventRequest, ?keepAlive, ?selfTest, ?powerManagement,
    ?unsupported⟩
  case identifyController =>
    intro ns a
    obtain ⟨only, posted⟩ := f.identifyController ns
    exact ⟨_, go a rfl rfl (fun _ => rfl) (fun _ => rfl), only, posted, s.length_identCtrl _, s.identCtrl_name _⟩
  case identifyBeyond => exact fun cns ns a above => ⟨_, go a rfl rfl (fun _ => rfl) (fun _ => rfl), f.identifyBeyond ns above⟩
  case getFeatures =>
    intro fid a
    obtain ⟨only, none, value, power, queues, stamp⟩ := f.getFeatures fid.toNat
    exact ⟨_, go a rfl rfl (fun _ => rfl) (fun _ => rfl), only, none, fun known h2 h7 hE => value known (differ h2) (differ h7) (differ hE),
      fun e => power (congrArg BitVec.toNat e), fun e => queues (congrArg BitVec.toNat e), fun e => stamp (congrArg BitVec.toNat e)⟩
  case setFeatures =>
    intro fid v a
    obtain ⟨only, refused, taken⟩ := f.setFeatures fid.toNat v
    refine ⟨_, go a rfl rfl (fun _ => rfl) (fun _ => rfl), only,
      fun no => refused (no.imp id (Or.imp (congrArg BitVec.toNat) (congrArg BitVec.toNat))), fun known h2 hE => ?_⟩
    have seven : (fid = 7) = (fid.toNat = 7) := propext ⟨congrArg BitVec.toNat, fun e => BitVec.eq_of_toNat_eq e⟩
    simp only [seven]
    exact taken known (differ h2) (differ hE)
  case timestamp =>
    intro ms a
    obtain ⟨only, stamp, origin, posted⟩ := f.setStamp ms.toNat
    exact ⟨_, go a rfl rfl (fun _ => rfl) (fun _ => rfl), only, stamp, origin, posted⟩
  case getLogPage =>
    intro lid rae off len a
    obtain ⟨none, page⟩ := f.getLog lid.toNat rae off len
    exact ⟨_, go a rfl rfl (fun _ => rfl) (fun _ => rfl), none, fun faults => page (differ faults)⟩
  case eventRequest => exact fun a => ⟨_, go a rfl rfl (fun _ => rfl) (fun _ => rfl), f.eventRequest⟩
  case keepAlive => exact fun a => ⟨_, go a rfl rfl (fun _ => rfl) (fun _ => rfl), f.complete n 0 0 0 0 []⟩
  case selfTest => exact fun code a => ⟨_, go a rfl rfl (fun _ => rfl) (fun _ => rfl), f.selfTest code⟩
  case powerManagement => exact fun ps a => ⟨_, go a rfl rfl (fun _ => rfl) (fun _ => rfl), f.setPower ps⟩
  case unsupported =>
    intro known a
    refine ⟨_, go a rfl rfl (fun _ => rfl) (fun _ => rfl), ?_⟩
    cases known with
    | true => exact f.complete n 0 2 0 0 []
    | false => exact f.complete n 0 1 0 0 []

end Sys2Proof.Machine
end

/-! ## A stream's line and the tally window of its core (R53, R117, R227) -/

section

namespace Sys2Proof.Machine

open Sys2Proof

/-- A linear read stream of one byte from the first of DRAM to offset 64 of SRAM. -/
def byteStream : Stream :=
  { id := 0, idx := 0, pos := 0, sig := some 0, bnd := false, slot := none, viol := false
    d := { base := dramBase, sram := 64, dims := 1, wr := false, transpose := false, persistent := false, pnum := 0, signal := 0, lace := false, channel := 0,
           strides := [1, 0, 0, 0, 0, 0], counts := [1, 1, 1, 1, 1, 1], format := 0, skew := 0, gather := none, array := 0 } }

/-- A job on core 7 whose partition is FC00h: a number no partition of the device has, and one that nothing in the state rules out. -/
def farJob : Job :=
  { n := ⟨0, 1, 1⟩, part := 0xFC00, prog := ⟨1, 0, 0, 0, 64, 0, 0, 1, 0, [], true⟩, serving := false, rings := 0, seed := 0, argBase := 0, argLen := 0,
    phase := .running, cores := [7] }

/-- Core 7 with that job and that stream, the tally window on the first 64 bytes of its SRAM, an open DRAM rein, and 64 fJ for a DRAM line. -/
def farPurse : State :=
  { State.reset with
    cores := [(7, { run := .running, codeLen := 1, streams := [byteStream], job := some farJob.n })]
    jobs := [farJob]
    regs := [(Reg.PWR_COEF 4, 64), (Reg.HARN_WIN 7, 0x100000000), (Reg.SCHED_REIN farJob.part, 1)]
    mem := [(dramBase, 1)] }

theorem farPurse_quiet : farPurse.Quiet 7 := by
  unfold State.Quiet
  decide

/-- The offset of PURSE_RESIDUE for that number is that of HARN_WIN_7: the line's 64 fJ in the residue are 64 bytes on the window's base, and the window,
clear of the line's place before the charge, covers it afterwards. -/
theorem farPurse_charged_window : farPurse.touchesWindow 7 64 1 = false ∧ (farPurse.chargeCore 7 4 1).touchesWindow 7 64 1 = true := by
  decide +kernel

/-- So the byte is not written (R227). -/
theorem farPurse_byte_lost : (farPurse.lineArrives 7 byteStream.id .clean []).sramByte 7 64 = 0 := by
  decide +kernel

/-- Refutes O14: a state's job may name any number as its partition, and a purse beyond the nine of the device shares its registers with others. The
charge for the line read then moves the core's own tally window onto the line's place, where DX may not write. -/
theorem not_streamLinesLand : ¬ Obligations.StreamLinesLand := by
  unfold Obligations.StreamLinesLand
  rintro ⟨lands, -⟩
  have linear := lands farPurse 7 byteStream 1 1 dramBase 0 rfl farPurse_quiet rfl rfl (by decide) (by decide) rfl rfl rfl rfl
  have plain := linear rfl rfl rfl rfl rfl (by decide) rfl rfl rfl rfl rfl (by decide) (by decide)
  obtain ⟨t, arrives, bytes, -⟩ := plain rfl rfl rfl (by decide) rfl farPurse_charged_window.1 (by decide) (by decide) (by decide)
  have taken : farPurse.lineArrives 7 byteStream.id .clean [] = t := Host.Outcome.next.inj arrives
  have landed : t.sramByte 7 64 = 1 := bytes 0 (by decide)
  rw [← taken, farPurse_byte_lost] at landed
  exact absurd landed (by decide)

end Sys2Proof.Machine
end
